-- ==== Sys2Proof/Word.lean ====
section
/-! DEFINITION. The word types of the FV7300: nothing here is read differently by different rules. -/

namespace Sys2Proof

/-- A 64-bit scalar register, address word or control register (R55, R86). -/
abbrev Word := BitVec 64
/-- A byte of any memory (R2). -/
abbrev Byte := BitVec 8
/-- A vector register or one 64-byte line: byte `b` is bits `8b+7 .. 8b` (R87). -/
abbrev Vec := BitVec 512
/-- A 5-bit register field of a head or a tail (R130). -/
abbrev Reg := BitVec 5
/-- A 16-bit instruction head (R125). -/
abbrev Head := BitVec 16
/-- An instruction tail, zero-extended as a trap record holds it (R115, R126). -/
abbrev Tail := BitVec 64
/-- A 5-bit element type code (R92). -/
abbrev Ty := BitVec 5

end Sys2Proof
end

