-- ==== Sys2Proof/Syntax.lean ====
section
/-! DEFINITION. The instructions: one constructor for every row of the opcode table. 203 rows are encoded instructions (R131 to
R133); the other 92 are the device's own steps (spec/95), which have no encoding and carry no operands: the turn that performs
one sets the place (`State.cur`) and the number (`State.arg`) that its docstring names. The encoded rows come first. -/

namespace Sys2Proof

/-- A hart by number. Core thread sets are `(cluster * 8 + core) * 4 + ts` with `cluster = 96 * die + c` (below 12,288);
stoker harts follow as `12288 + (stack * 12 + j) * 16 + ts`, and hob units as `13824 + stack * 96 + pc` (R9, R15). -/
abbrev Hart := Nat

/-- The instruction set. -/
inductive Instr where
  | add (rd rs1 rs2 : Reg)
  | sub (rd rs1 rs2 : Reg)
  | mul (rd rs1 rs2 : Reg)
  | mulh (rd rs1 rs2 : Reg)
  | mulhz (rd rs1 rs2 : Reg)
  | div (rd rs1 rs2 : Reg)
  | divz (rd rs1 rs2 : Reg)
  | rem (rd rs1 rs2 : Reg)
  | remz (rd rs1 rs2 : Reg)
  | and (rd rs1 rs2 : Reg)
  | or (rd rs1 rs2 : Reg)
  | xor (rd rs1 rs2 : Reg)
  | shl (rd rs1 rs2 : Reg)
  | shr (rd rs1 rs2 : Reg)
  | sra (rd rs1 rs2 : Reg)
  | slt (rd rs1 rs2 : Reg)
  | sltz (rd rs1 rs2 : Reg)
  | min (rd rs1 rs2 : Reg)
  | max (rd rs1 rs2 : Reg)
  | minz (rd rs1 rs2 : Reg)
  | maxz (rd rs1 rs2 : Reg)
  | clz (rd rs1 : Reg)
  | ctz (rd rs1 : Reg)
  | popc (rd rs1 : Reg)
  | mov (rd rs1 : Reg)
  | addi (rd rs1 : Reg) (imm : BitVec 16)
  | andi (rd rs1 : Reg) (imm : BitVec 16)
  | ori (rd rs1 : Reg) (imm : BitVec 16)
  | xori (rd rs1 : Reg) (imm : BitVec 16)
  | slti (rd rs1 : Reg) (imm : BitVec 16)
  | shli (rd rs1 : Reg) (imm : BitVec 16)
  | shri (rd rs1 : Reg) (imm : BitVec 16)
  | srai (rd rs1 : Reg) (imm : BitVec 16)
  | li (rd : Reg) (imm : BitVec 48)
  | liSh16 (rd : Reg) (imm : BitVec 48)
  | lea (rd rs1 : Reg) (imm : BitVec 32)
  | sel (rd rs1 rs2 rs3 : Reg)
  | bext (rd rs1 : Reg) (pos lenm1 : BitVec 6)
  | bins (rd rs1 : Reg) (pos lenm1 : BitVec 6)
  | beq (rs1 rs2 : Reg) (ldisp : BitVec 22) (slot : BitVec 5)
  | bne (rs1 rs2 : Reg) (ldisp : BitVec 22) (slot : BitVec 5)
  | blt (rs1 rs2 : Reg) (ldisp : BitVec 22) (slot : BitVec 5)
  | bge (rs1 rs2 : Reg) (ldisp : BitVec 22) (slot : BitVec 5)
  | bltz (rs1 rs2 : Reg) (ldisp : BitVec 22) (slot : BitVec 5)
  | bgez (rs1 rs2 : Reg) (ldisp : BitVec 22) (slot : BitVec 5)
  | loop (rs : Reg) (ldisp : BitVec 22) (slot : BitVec 5)
  | jmp (ldisp : BitVec 22) (slot : BitVec 5)
  | call (ldisp : BitVec 22) (slot : BitVec 5)
  | jmpr (rs : Reg)
  | callr (rs : Reg)
  | ret
  | rep (n : BitVec 5) (count : BitVec 16) (stride : BitVec 6)
  | safe (k : BitVec 10)
  | exit (first count : Reg)
  | waitc (sc st : Reg)
  | nop
  | chunk
  | yield
  | saved
  | split
  | gang (g : BitVec 5)
  | fence (scope : BitVec 5)
  | halt
  | brk
  | tret (sb : Reg)
  | trap (imm : BitVec 16)
  | crd (rd n : Reg)
  | cwr (n rs : Reg)
  | ld (rd base : Reg) (ty : Ty) (off : BitVec 16)
  | st (rs base : Reg) (ty : Ty) (off : BitVec 16)
  | ldv (vd base : Reg) (off : BitVec 16)
  | stv (vs base : Reg) (off : BitVec 16)
  | lda (rd base : Reg) (ty : Ty) (off : BitVec 16) (scope : BitVec 3)
  | stl (rs base : Reg) (ty : Ty) (off : BitVec 16) (scope : BitVec 3)
  | afence (sb sn : Reg)
  | amoAdd (rd sa sv : Reg) (ty : Ty) (scope : BitVec 3)
  | amoAnd (rd sa sv : Reg) (ty : Ty) (scope : BitVec 3)
  | amoOr (rd sa sv : Reg) (ty : Ty) (scope : BitVec 3)
  | amoXor (rd sa sv : Reg) (ty : Ty) (scope : BitVec 3)
  | amoSwap (rd sa sv : Reg) (ty : Ty) (scope : BitVec 3)
  | amoSmin (rd sa sv : Reg) (ty : Ty) (scope : BitVec 3)
  | amoSmax (rd sa sv : Reg) (ty : Ty) (scope : BitVec 3)
  | amoZmin (rd sa sv : Reg) (ty : Ty) (scope : BitVec 3)
  | amoZmax (rd sa sv : Reg) (ty : Ty) (scope : BitVec 3)
  | amoFadd (rd sa sv : Reg) (ty : Ty) (scope : BitVec 3)
  | amoFmin (rd sa sv : Reg) (ty : Ty) (scope : BitVec 3)
  | amoFmax (rd sa sv : Reg) (ty : Ty) (scope : BitVec 3)
  | amoCas (rd sa sv sc : Reg) (ty : Ty) (scope : BitVec 3)
  | redAdd (sa sv : Reg) (ty : Ty) (scope : BitVec 3)
  | redAnd (sa sv : Reg) (ty : Ty) (scope : BitVec 3)
  | redOr (sa sv : Reg) (ty : Ty) (scope : BitVec 3)
  | redXor (sa sv : Reg) (ty : Ty) (scope : BitVec 3)
  | redSwap (sa sv : Reg) (ty : Ty) (scope : BitVec 3)
  | redSmin (sa sv : Reg) (ty : Ty) (scope : BitVec 3)
  | redSmax (sa sv : Reg) (ty : Ty) (scope : BitVec 3)
  | redZmin (sa sv : Reg) (ty : Ty) (scope : BitVec 3)
  | redZmax (sa sv : Reg) (ty : Ty) (scope : BitVec 3)
  | redFadd (sa sv : Reg) (ty : Ty) (scope : BitVec 3)
  | redFmin (sa sv : Reg) (ty : Ty) (scope : BitVec 3)
  | redFmax (sa sv : Reg) (ty : Ty) (scope : BitVec 3)
  | putc (sc sd sv sg : Reg) (ty : Ty) (scope : BitVec 3)
  | apnd (rd st sr sl : Reg) (scope : BitVec 3)
  | warm (sb sn : Reg)
  | qpop (rd sq : Reg)
  | vadd (vd va vb : Reg) (ty : Ty) (md : BitVec 16)
  | vsub (vd va vb : Reg) (ty : Ty) (md : BitVec 16)
  | vmul (vd va vb : Reg) (ty : Ty) (md : BitVec 16)
  | vfma (vd va vb vc : Reg) (ty : Ty) (md : BitVec 16)
  | vfms (vd va vb vc : Reg) (ty : Ty) (md : BitVec 16)
  | vfnma (vd va vb vc : Reg) (ty : Ty) (md : BitVec 16)
  | vdiv (vd va vb : Reg) (ty : Ty) (md : BitVec 16)
  | vsqrt (vd va : Reg) (ty : Ty) (md : BitVec 16)
  | vmin (vd va vb : Reg) (ty : Ty) (md : BitVec 16)
  | vmax (vd va vb : Reg) (ty : Ty) (md : BitVec 16)
  | vand (vd va vb : Reg) (ty : Ty) (md : BitVec 16)
  | vor (vd va vb : Reg) (ty : Ty) (md : BitVec 16)
  | vxor (vd va vb : Reg) (ty : Ty) (md : BitVec 16)
  | vshl (vd va vb : Reg) (ty : Ty) (md : BitVec 16)
  | vshlImm (vd va : Reg) (n : BitVec 8) (ty : Ty) (md : BitVec 16)
  | vshr (vd va vb : Reg) (ty : Ty) (md : BitVec 16)
  | vshrImm (vd va : Reg) (n : BitVec 8) (ty : Ty) (md : BitVec 16)
  | vsra (vd va vb : Reg) (ty : Ty) (md : BitVec 16)
  | vsraImm (vd va : Reg) (n : BitVec 8) (ty : Ty) (md : BitVec 16)
  | vsel (vd va vb : Reg) (mk : BitVec 3) (ty : Ty) (md : BitVec 16)
  | vmov (vd va : Reg) (ty : Ty) (md : BitVec 16)
  | vcmp (mdst va vb : Reg) (cc : BitVec 3) (ty : Ty) (md : BitVec 16)
  | vclass (mdst va : Reg) (set : BitVec 10) (ty : Ty) (md : BitVec 16)
  | vcvt (vd va : Reg) (dt st : Ty) (part mode : BitVec 3) (md : BitVec 16)
  | vqnt (vd va vb : Reg) (ty : Ty) (mode : BitVec 3)
  | vdq (vd va : Reg) (part : BitVec 1) (ty : Ty) (md : BitVec 16)
  | vsplat (vd rs : Reg) (ty : Ty) (md : BitVec 16)
  | vext (rd va si : Reg) (ty : Ty)
  | vins (vd rs si : Reg) (ty : Ty)
  | vperm (vd va vb : Reg) (ty : Ty) (md : BitVec 16)
  | vredAdd (rd va : Reg) (ty : Ty) (md : BitVec 16)
  | vredMin (rd va : Reg) (ty : Ty) (md : BitVec 16)
  | vredMax (rd va : Reg) (ty : Ty) (md : BitVec 16)
  | vdot (rd va vb : Reg) (ty : Ty) (md : BitVec 16)
  | vidx (vd rs : Reg) (ty : Ty) (md : BitVec 16)
  | mset (md rs : Reg)
  | mand (md ma mb : Reg)
  | mor (md ma mb : Reg)
  | mnot (md ma : Reg)
  | mpop (rd ma : Reg)
  | sbind (vn sd : Reg)
  | sunb (vn : Reg)
  | sskip (vn sc : Reg)
  | mma (tile sa sb sp : Reg) (zero notify : Bool) (ci : BitVec 8) (k4m1 : BitVec 11) (nm1 mm1 : BitVec 7)
  | mmas (tile sa sb sp : Reg) (zero notify : Bool) (ci : BitVec 8) (k4m1 : BitVec 11) (nm1 mm1 : BitVec 7)
  | mzero (tile : Reg) (notify : Bool) (ci : BitVec 8)
  | mldt (tile sa sp : Reg) (ty : Ty) (notify : Bool) (ci : BitVec 8) (nm1 mm1 : BitVec 7)
  | mstt (tile sa sp : Reg) (ty : Ty) (sat notify : Bool) (ci : BitVec 8) (nm1 mm1 : BitVec 7)
  | mwait (n : Reg)
  | mfab (tile sc : Reg)
  | mchk (rd tile : Reg) (clear : Reg)
  | xpush (sa : Reg)
  | xpushb (rd sa : Reg)
  | xwaitDone (ch rd : Reg)
  | xwaitRead (ch sa : Reg)
  | xwaitFill (ch sa : Reg)
  | xresume (ch : Reg)
  | xcancel (ch : Reg)
  | xstat (rd ch : Reg)
  | xstatRead (rd ch : Reg)
  | xstatFill (rd ch : Reg)
  | dld (rd base : Reg) (ty : Ty) (off : BitVec 16)
  | dldVector (vd base : Reg) (off : BitVec 16)
  | dst (rs base : Reg) (ty : Ty) (off : BitVec 16)
  | dstVector (vs base : Reg) (off : BitVec 16)
  | tqB (va ss : Reg)
  | tqH (va ss : Reg)
  | tqPair (va ss vb : Reg)
  | tqIntp (va ss : Reg)
  | htload (rd sd st : Reg)
  | hmode (rd sp : Reg)
  | ired (sc sm : Reg)
  | hcmd (sh sa sm : Reg)
  | hovl (rd sh si : Reg)
  | rowld (sl sb : Reg) (linesm1 : BitVec 7)
  | rowst (sl sb : Reg) (linesm1 : BitVec 7)
  | rowadd (sl sb : Reg) (ty : Ty) (linesm1 : BitVec 7)
  | knwin (sw : Reg)
  | kndly (sa sr : Reg)
  | knmode (vm : Reg)
  | knlaunch (va vb : Reg)
  | kncapt (vd ve : Reg)
  | knfirst (vd ve : Reg)
  | knreset
  | knstat (rd : Reg)
  | ttload (rd sa slot : Reg)
  | ttarm (sd slot : Reg)
  | bar (rd slot : Reg)
  | fsend (sa sh sn : Reg) (scope : BitVec 3)
  | frecv (rd ch : Reg)
  | msred (st sa sn sp : Reg) (scope : BitVec 3)
  | xorred (st sa sn sp : Reg) (scope : BitVec 3)
  | facc (st sa sn sp : Reg) (scope : BitVec 3)
  | gcfg (rd sr sg : Reg)
  | gacc (rd sw sg st : Reg)
  | gtest (rd sg : Reg)
  | gstep (rd sg : Reg)
  | gbind (rd sg ss : Reg)
  | gdrop (rd sg mode : Reg)
  /-- R428: the ROM boots the module. -/
  | powerUp
  /-- R26: the next cluster of the bring-up order becomes ready. -/
  | clusterReady
  /-- R430: the sample at the head of the inbox. -/
  | sensorSample
  /-- R24: the request at the head of the inbox. -/
  | partitionLayout
  /-- R116: the request at the head of the inbox. -/
  | trapVectorDeclare
  /-- R367: the request at the head of the inbox. -/
  | recordPoolDeclare
  /-- R399: the request at the head of the inbox. -/
  | damperRangeDeclare
  /-- R307: the request at the head of the inbox. -/
  | translationRootDeclare
  /-- R421: the request at the head of the inbox. -/
  | hostWindowDeclare
  /-- R425: the request at the head of the inbox. -/
  | partitionQueueDeclare
  /-- R426: the request at the head of the inbox. -/
  | peerTableWrite
  /-- R376: the request at the head of the inbox. -/
  | preemptRequest
  /-- R428: the request at the head of the inbox. -/
  | imageUpdate
  /-- R429: the request at the head of the inbox. -/
  | attest
  /-- R431: the request at the head of the inbox. -/
  | counterRead
  /-- R422: the request at the head of the inbox. -/
  | hostWrite
  /-- R422: the request at the head of the inbox. -/
  | hostRead
  /-- R423: the request at the head of the inbox. -/
  | countedWrite
  /-- R419: the request at the head of the inbox. -/
  | unsupportedOperation
  /-- R420: the loss at the head of the inbox. -/
  | transportFailure
  /-- R32, R372: one pick by the grates of partition `cur`. -/
  | pickup
  /-- R366: the oldest launch offered to the grate of die `cur`. -/
  | launchAccept
  /-- R366: the head of the admission queue of die `cur`. -/
  | launchAdmit
  /-- R366: the held task with acceptance number `cur`. -/
  | launchRelease
  /-- R369: tile `cur`, slot `arg`. -/
  | versionPublish
  /-- R370: tile `cur`, slot `arg`. -/
  | versionSlotFree
  /-- R198: the waiting record at address word `cur`. -/
  | waitcWake
  /-- R54: the ready record at address word `cur`. -/
  | priorityAging
  /-- R376: for the ready record at address word `cur`. -/
  | preemptMark
  /-- R52: hart `cur`. -/
  | overdue
  /-- R48: cluster `cur`. -/
  | gangDrain
  /-- R48, R200: cluster `cur`. -/
  | gangPlace
  /-- R69: hart `cur`; `arg` 1 is a false overlap of the signatures. -/
  | chunkCommit
  /-- R68: hart `cur`. -/
  | chunkLengthEnd
  /-- R68: hart `cur`. -/
  | storeFootprintEnd
  /-- R73: fabric item `cur`. -/
  | remoteStoreCommit
  /-- R73: hart `cur`. -/
  | remoteLoad
  /-- R61: hart `cur`. -/
  | registerWindowStore
  /-- R91: the oldest control store pending for hart `cur`, or fabric item `arg` when it is not 0. -/
  | registerWrite
  /-- R375: fabric item `cur`. -/
  | waitingTaskArm
  /-- R217: fabric item `cur`. -/
  | messageArrival
  /-- R222: fabric item `cur`. -/
  | putcArrival
  /-- R225: fabric item `cur`. -/
  | apndRowWrite
  /-- R117: partition `cur`. -/
  | trapQueueWrite
  /-- R252: hart `cur`, stream v(24 + `arg`). -/
  | streamPrefetch
  /-- R252: hart `cur`. -/
  | streamStallRelease
  /-- R258: hart `cur`. -/
  | matrixQueueAccept
  /-- R268: cluster `cur`. -/
  | matrixGrant
  /-- R269: cluster `cur`. -/
  | matrixBusyEnd
  /-- R269: cluster `cur`. -/
  | matrixWriteback
  /-- R27: cluster `cur`. -/
  | matrixPark
  /-- R27. -/
  | staggerTokenMove
  /-- R286: fabric item `cur`. -/
  | addendPacket
  /-- R356: cluster `cur`. -/
  | kindlingCapture
  /-- R354: cluster `cur`. -/
  | kndlyLoadDone
  /-- R292: hart `cur`. -/
  | xpushFifoAccept
  /-- R295: stoker hart `cur` takes a request or goes on, `arg` elements at most. -/
  | copy
  /-- R295: as copy. -/
  | copyToTensor
  /-- R296: as copy. -/
  | gather
  /-- R296: as copy. -/
  | scatter
  /-- R336: as copy, in commands. -/
  | reduce
  /-- R310: stoker hart `cur`. -/
  | migrate
  /-- R309: stoker hart `cur`. -/
  | shoot
  /-- R289: stoker hart `cur`. -/
  | run
  /-- R301: stoker hart `cur`. -/
  | copyComplete
  /-- R303: stoker hart `cur`. -/
  | page
  /-- R305: stoker hart `cur`. -/
  | continuationMigrate
  /-- R309: stoker hart `cur`, TLB slice of stoker `arg`. -/
  | shootAck
  /-- R310: stoker hart `cur`. -/
  | migrateMove
  /-- R336: stoker hart `cur`. -/
  | reduceComplete
  /-- R318: pseudo-channel `cur` (96 * stack + number). -/
  | refresh
  /-- R329: the sequencer of stack `cur`. -/
  | tableQueryAnswer
  /-- R328: hart `cur`. -/
  | tqReserve
  /-- R332: hart `cur`. -/
  | hearthQueueAccept
  /-- R334: adder of pseudo-channel `cur`, `arg` element accesses at most. -/
  | iredApply
  /-- R339: hob unit of pseudo-channel `cur`. -/
  | hobCommandRun
  /-- R339: hob unit of pseudo-channel `cur`. -/
  | hobBudgetExhausted
  /-- R342: hob unit of pseudo-channel `cur`. -/
  | hovlLoad
  /-- R387: fabric item `cur`. -/
  | barrierArrival
  /-- R387: party `cur` (2 * core + slot). -/
  | barrierDeadline
  /-- R386: party `cur`. -/
  | releaseNotice
  /-- R381: party `cur`. -/
  | ttSend
  /-- R388: party `cur`. -/
  | ttCopy
  /-- R388: party `cur`. -/
  | ttMs
  /-- R388: party `cur`. -/
  | ttXor
  /-- R388: party `cur`. -/
  | ttAcc
  /-- R390: fabric item `cur`. -/
  | lateMessage
  /-- R391: party `cur`. -/
  | roundComplete
  /-- R395, R426: fabric item `cur`, or with `cur` 0 the packet at the head of the inbox. -/
  | packetDeliver
  /-- R397, R426: fabric item `cur`, or with `cur` 0 the packet at the head of the inbox. -/
  | packetReduceArrival
  /-- R406: group `cur` (65536 * die + number). -/
  | damperDrainFinish
  /-- R388: the round packet at the head of the inbox. -/
  | roundPacketArrival
  deriving DecidableEq, Repr

end Sys2Proof
end

