-- ==== Sys2Proof/WellFormed.lean ====
section
/-! DEFINITION. Well-formed instructions: the operand limits of R129, R130, R132, R133 and of each instruction's own rule.
A term that fails here has no encoding that is an instruction: its head raises ILLEGAL (R134). -/

namespace Sys2Proof

/-- Integer types .s8 to .z64, codes 10 to 17 (R92). -/
def Ty.isInt (t : Ty) : Bool := 10 ≤ t.toNat && t.toNat ≤ 17
/-- The types F of R234: .f64 .f32 .bf16 .f16. -/
def Ty.isF (t : Ty) : Bool := t.toNat ≤ 3
/-- The types F8 of R234: .e4 .e5. -/
def Ty.isF8 (t : Ty) : Bool := t.toNat == 4 || t.toNat == 5
/-- The signed integer types among codes 10 to 17: the even codes (R92). -/
def Ty.isSigned (t : Ty) : Bool := t.toNat % 2 == 0
def Ty.isFI (t : Ty) : Bool := t.isF || t.isInt
def Ty.isLane (t : Ty) : Bool := t.isF || t.isF8 || t.isInt

/-- SCOPE 7 is reserved (R76, R134). -/
def scopeOk (sc : BitVec 3) : Bool := sc.toNat ≤ 6

/-- AMO and RED integer operations take .s32 .z32 .s64 .z64 (R133). -/
def amoIntTy (t : Ty) : Bool := 14 ≤ t.toNat && t.toNat ≤ 17
/-- FADD, FMIN and FMAX take .f32 and .f64 (R133). -/
def amoFloatTy (t : Ty) : Bool := t.toNat ≤ 1

/-! ## The modifier word (R128, R129) -/

def modMask (md : BitVec 16) : BitVec 3 := md.extractLsb' 12 3
def modScale (md : BitVec 16) : BitVec 4 := md.extractLsb' 8 4
def modClamp (md : BitVec 16) : BitVec 2 := md.extractLsb' 6 2
/-- ABS and NEG of source `k`, 1 to 3. -/
def modAbs (md : BitVec 16) (k : Nat) : Bool := md.getLsbD (2 * k - 1)
def modNeg (md : BitVec 16) (k : Nat) : Bool := md.getLsbD (2 * k - 2)

/-- Bit 15 is zero, and no ABS or NEG bit is set for a source above `nsrc`. -/
def modSrcOk (nsrc : Nat) (md : BitVec 16) : Bool := !md.getLsbD 15 && (md.extractLsb' 0 6).toNat < 2 ^ (2 * nsrc)
/-- SCALE and CLAMP are zero: the instruction produces no arithmetic result. -/
def modPlain (md : BitVec 16) : Bool := modScale md == 0#4 && modClamp md == 0#2
/-- SCALE and CLAMP allowed for an arithmetic result of type `t`: for an integer SCALE 0 and CLAMP 0 or 3. -/
def modArith (t : Ty) (md : BitVec 16) : Bool :=
  !t.isInt || (modScale md == 0#4 && (modClamp md == 0#2 || modClamp md == 3#2))
/-- Only the write mask may be set. -/
def modMaskOnly (md : BitVec 16) : Bool := modSrcOk 0 md && modPlain md

/-- Lane width of a vector type in bits (R231). -/
def Ty.width (t : Ty) : Nat :=
  match t.toNat with
  | 0 | 16 | 17 => 64
  | 1 | 14 | 15 => 32
  | 2 | 3 | 12 | 13 => 16
  | 4 | 5 | 6 | 10 | 11 => 8
  | 8 | 9 => 4
  | _ => 0

/-- PART is below the ratio of the two lane widths (R242). -/
def cvtPartOk (dt st : Ty) (part : BitVec 3) : Bool :=
  part.toNat < max dt.width st.width / min dt.width st.width

/-- A notify counter index is 0 unless NOTIFY is set (R278). -/
def notifyOk (notify : Bool) (ci : BitVec 8) : Bool := notify || ci == 0#8

/-- The limits that R134 answers with ILLEGAL. An event has no operands. -/
def Instr.wellFormed : Instr → Bool
  | .add _ _ _ | .sub _ _ _ | .mul _ _ _ | .mulh _ _ _ | .mulhz _ _ _ | .div _ _ _ | .divz _ _ _ | .rem _ _ _
  | .remz _ _ _ | .and _ _ _ | .or _ _ _ | .xor _ _ _ | .shl _ _ _ | .shr _ _ _ | .sra _ _ _ | .slt _ _ _
  | .sltz _ _ _ | .min _ _ _ | .max _ _ _ | .minz _ _ _ | .maxz _ _ _ => true
  | .clz _ _ | .ctz _ _ | .popc _ _ | .mov _ _ => true
  | .addi _ _ _ | .andi _ _ _ | .ori _ _ _ | .xori _ _ _ | .slti _ _ _ => true
  | .shli _ _ imm | .shri _ _ imm | .srai _ _ imm => imm.toNat ≤ 63
  | .li _ _ | .liSh16 _ _ | .lea _ _ _ | .sel _ _ _ _ => true
  | .bext _ _ pos lenm1 | .bins _ _ pos lenm1 => pos.toNat + lenm1.toNat ≤ 63
  | .beq _ _ _ sl | .bne _ _ _ sl | .blt _ _ _ sl | .bge _ _ _ sl | .bltz _ _ _ sl | .bgez _ _ _ sl => sl != 0#5
  | .loop rs _ sl => rs != 0#5 && sl != 0#5
  | .jmp _ sl | .call _ sl => sl != 0#5
  | .jmpr _ | .callr _ | .ret => true
  | .rep n _ stride => 1 ≤ n.toNat && n.toNat ≤ 16 && stride.toNat ≤ 31
  | .safe k => k.toNat ≤ 254
  | .exit a b => if b == 0#5 then a == 0#5 else b.toNat ≤ 4 && a != 0#5 && a.toNat + b.toNat ≤ 32
  | .waitc _ _ | .nop | .chunk | .yield | .saved | .split | .halt | .brk => true
  | .gang g => 2 ≤ g.toNat && g.toNat ≤ 8
  | .fence sc => sc.toNat ≤ 6
  | .tret sb => 1 ≤ sb.toNat && sb.toNat ≤ 30
  | .trap _ => true
  | .crd _ n | .cwr n _ => n.toNat ≤ 9 || (16 ≤ n.toNat && n.toNat ≤ 18)
  | .ld _ _ ty _ | .st _ _ ty _ => ty.isInt
  | .ldv _ _ _ | .stv _ _ _ => true
  | .lda _ _ ty _ sc | .stl _ _ ty _ sc => ty.isInt && scopeOk sc
  | .afence _ _ => true
  | .amoAdd _ _ _ ty sc | .amoAnd _ _ _ ty sc | .amoOr _ _ _ ty sc | .amoXor _ _ _ ty sc | .amoSwap _ _ _ ty sc
  | .amoSmin _ _ _ ty sc | .amoSmax _ _ _ ty sc | .amoZmin _ _ _ ty sc | .amoZmax _ _ _ ty sc => amoIntTy ty && scopeOk sc
  | .amoFadd _ _ _ ty sc | .amoFmin _ _ _ ty sc | .amoFmax _ _ _ ty sc => amoFloatTy ty && scopeOk sc
  | .amoCas _ _ _ _ ty sc => amoIntTy ty && scopeOk sc
  | .redAdd _ _ ty sc | .redAnd _ _ ty sc | .redOr _ _ ty sc | .redXor _ _ ty sc | .redSwap _ _ ty sc
  | .redSmin _ _ ty sc | .redSmax _ _ ty sc | .redZmin _ _ ty sc | .redZmax _ _ ty sc => amoIntTy ty && scopeOk sc
  | .redFadd _ _ ty sc | .redFmin _ _ ty sc | .redFmax _ _ ty sc => amoFloatTy ty && scopeOk sc
  | .putc _ sd sv _ ty sc => ty.isInt && scopeOk sc && (sd != 0#5 || sv == 0#5)
  | .apnd _ _ _ _ sc => scopeOk sc
  | .warm _ _ | .qpop _ _ => true
  | .vadd _ _ _ ty md | .vsub _ _ _ ty md | .vmul _ _ _ ty md | .vmin _ _ _ ty md | .vmax _ _ _ ty md =>
    ty.isFI && modSrcOk 2 md && modArith ty md
  | .vfma _ _ _ _ ty md | .vfms _ _ _ _ ty md | .vfnma _ _ _ _ ty md => ty.isFI && modSrcOk 3 md && modArith ty md
  | .vdiv _ _ _ ty md => ty.isF && modSrcOk 2 md
  | .vsqrt _ _ ty md => ty.isF && modSrcOk 1 md
  | .vand _ _ _ ty md | .vor _ _ _ ty md | .vxor _ _ _ ty md | .vshl _ _ _ ty md | .vshr _ _ _ ty md | .vsra _ _ _ ty md =>
    ty.isInt && modSrcOk 2 md && modPlain md
  | .vshlImm _ _ n ty md | .vshrImm _ _ n ty md | .vsraImm _ _ n ty md =>
    ty.isInt && n.toNat < ty.width && modSrcOk 1 md && modPlain md
  | .vsel _ _ _ _ ty md => ty.isLane && modSrcOk 2 md && modPlain md
  | .vmov _ _ ty md => ty.isLane && modSrcOk 1 md && modPlain md
  | .vcmp d _ _ cc ty md =>
    d.toNat ≤ 7 && ty.isLane && modSrcOk 2 md && modPlain md && cc.toNat ≤ (if ty.isInt then 5 else 6)
  | .vclass d _ _ ty md => d.toNat ≤ 7 && (ty.isF || ty.isF8) && modMaskOnly md
  | .vcvt _ _ dt sty part mode md =>
    dt.isLane && sty.isLane && cvtPartOk dt sty part && modSrcOk 1 md && modArith dt md && mode.toNat ≤ 4
      && (!(dt.isInt && sty.isInt) || mode == 0#3)
  | .vqnt _ _ _ ty mode => (ty.isF8 || ty.toNat == 8 || ty.toNat == 10) && mode.toNat ≤ 4
  | .vdq _ _ _ ty md => (ty.isF8 || ty.toNat == 8 || ty.toNat == 10) && modSrcOk 0 md
  | .vsplat _ _ ty md => ty.isLane && modMaskOnly md
  | .vext _ _ _ ty | .vins _ _ _ ty => ty.isLane
  | .vperm _ _ _ ty md => ty.isLane && modSrcOk 2 md && modPlain md
  | .vredAdd _ _ ty md | .vredMin _ _ ty md | .vredMax _ _ ty md => ty.isFI && modSrcOk 1 md && modPlain md
  | .vdot _ _ _ ty md => ty.isFI && modSrcOk 2 md && modPlain md
  | .vidx _ _ ty md => ty.isInt && modMaskOnly md
  | .mset d _ => d.toNat ≤ 7
  | .mand d a b | .mor d a b => d.toNat ≤ 7 && a.toNat ≤ 7 && b.toNat ≤ 7
  | .mnot d a => d.toNat ≤ 7 && a.toNat ≤ 7
  | .mpop _ a => a.toNat ≤ 7
  | .sbind vn _ | .sunb vn | .sskip vn _ => 24 ≤ vn.toNat
  | .mma t _ _ _ _ nf ci _ _ _ | .mmas t _ _ _ _ nf ci _ _ _ => t.toNat ≤ 7 && notifyOk nf ci
  | .mzero t nf ci => t.toNat ≤ 7 && notifyOk nf ci
  | .mldt t _ _ ty nf ci _ _ => t.toNat ≤ 7 && ty.isF && notifyOk nf ci
  | .mstt t _ _ ty _ nf ci _ _ => t.toNat ≤ 7 && (ty.isF || ty.isF8) && notifyOk nf ci
  | .mwait n => n.toNat ≤ 3
  | .mfab t _ => t.toNat ≤ 7
  | .mchk _ t c => t.toNat ≤ 7 && c.toNat ≤ 1
  | .xpush sa | .xpushb _ sa => 1 ≤ sa.toNat && sa.toNat ≤ 28
  | .xwaitDone ch _ | .xwaitRead ch _ | .xwaitFill ch _ => ch.toNat ≤ 15
  | .xresume ch | .xcancel ch | .xstat _ ch | .xstatRead _ ch | .xstatFill _ ch => ch.toNat ≤ 15
  | .dld _ _ ty _ | .dst _ _ ty _ => ty.isInt
  | .dldVector _ _ _ | .dstVector _ _ _ => true
  | .tqB _ _ | .tqH _ _ | .tqPair _ _ _ | .tqIntp _ _ => true
  | .htload _ _ _ | .hmode _ _ | .ired _ _ | .hcmd _ _ _ | .hovl _ _ _ => true
  | .rowld _ _ _ | .rowst _ _ _ => true
  | .rowadd _ _ ty _ => ty.toNat == 1 || ty.toNat == 2 || ty.toNat == 14
  | .knwin _ | .kndly _ _ | .knmode _ | .knlaunch _ _ | .knreset | .knstat _ => true
  | .kncapt a b | .knfirst a b => a != b
  | .ttload _ _ sl | .ttarm _ sl | .bar _ sl => sl.toNat ≤ 1
  | .fsend _ _ _ sc => scopeOk sc
  | .frecv _ ch => ch.toNat ≤ 15
  | .msred _ _ _ _ sc | .xorred _ _ _ _ sc | .facc _ _ _ _ sc => scopeOk sc
  | .gcfg _ _ _ | .gacc _ _ _ _ | .gtest _ _ | .gstep _ _ | .gbind _ _ _ => true
  | .gdrop _ _ m => m.toNat ≤ 1
  | .powerUp | .clusterReady | .sensorSample | .partitionLayout | .trapVectorDeclare | .recordPoolDeclare
  | .damperRangeDeclare | .translationRootDeclare | .hostWindowDeclare | .partitionQueueDeclare | .peerTableWrite
  | .preemptRequest | .imageUpdate | .attest | .counterRead | .hostWrite | .hostRead | .countedWrite
  | .unsupportedOperation | .transportFailure | .pickup | .launchAccept | .launchAdmit | .launchRelease
  | .versionPublish | .versionSlotFree | .waitcWake | .priorityAging | .preemptMark | .overdue | .gangDrain
  | .gangPlace | .chunkCommit | .chunkLengthEnd | .storeFootprintEnd | .remoteStoreCommit | .remoteLoad
  | .registerWindowStore | .registerWrite | .waitingTaskArm | .messageArrival | .putcArrival | .apndRowWrite
  | .trapQueueWrite | .streamPrefetch | .streamStallRelease | .matrixQueueAccept | .matrixGrant | .matrixBusyEnd
  | .matrixWriteback | .matrixPark | .staggerTokenMove | .addendPacket | .kindlingCapture | .kndlyLoadDone
  | .xpushFifoAccept | .copy | .copyToTensor | .gather | .scatter | .reduce | .migrate | .shoot | .run
  | .copyComplete | .page | .continuationMigrate | .shootAck | .migrateMove | .reduceComplete | .refresh
  | .tableQueryAnswer | .tqReserve | .hearthQueueAccept | .iredApply | .hobCommandRun | .hobBudgetExhausted
  | .hovlLoad | .barrierArrival | .barrierDeadline | .releaseNotice | .ttSend | .ttCopy | .ttMs | .ttXor | .ttAcc
  | .lateMessage | .roundComplete | .packetDeliver | .packetReduceArrival | .damperDrainFinish | .roundPacketArrival => true

end Sys2Proof
end

