-- ==== Sys2Proof/Decode.lean ====
section
/-! DEFINITION. Lines, heads and tails to instructions and back: R118 to R135, with the sub-opcodes of each family's chapter.
The decoder is total and refuses by name; every refusal of a head is the ILLEGAL of R134, every refusal of a line the
LINEFMT of R121. -/

namespace Sys2Proof

/-- Why a head is not an instruction. Each is ILLEGAL when the head issues (R134, R135). -/
inductive DecodeErr where
  /-- Majors 0x00 and 0x30 to 0x3F. -/
  | unassignedMajor
  /-- An unassigned SUB, OP, COND, SH16 or CTL sub value. -/
  | unassignedSub
  /-- A reserved tail bit is set. -/
  | reservedBit
  /-- A head or tail field that the instruction does not use is not zero. -/
  | unusedField
  /-- An operand, type, scope or modifier outside its limits (`Instr.wellFormed`). -/
  | operandLimit
  deriving DecidableEq, Repr

/-- Why a line is malformed (R120). It raises LINEFMT. -/
inductive LineErr where
  | badHeader
  | badLength
  | gapNotZero
  /-- The slot entered lies above n (R123). -/
  | noSuchSlot
  deriving DecidableEq, Repr

/-! ## Heads (R125) -/

def Head.major (h : Head) : BitVec 6 := h.extractLsb' 10 6
def Head.fieldA (h : Head) : Reg := h.extractLsb' 5 5
def Head.fieldB (h : Head) : Reg := h.extractLsb' 0 5
def mkHead (major : BitVec 6) (a b : Reg) : Head := major ++ a ++ b

/-- Tail length in bytes by major (R131). -/
def tailLen (major : BitVec 6) : Nat :=
  match major.toNat with
  | 0x01 | 0x22 | 0x23 | 0x25 | 0x26 | 0x27 | 0x2A | 0x2B | 0x2D => 2
  | 0x02 | 0x04 | 0x05 | 0x06 | 0x07 | 0x09 | 0x0E | 0x11 | 0x12 | 0x13 | 0x14 | 0x15 | 0x16 | 0x18 | 0x19 | 0x1A
  | 0x1B | 0x28 | 0x29 | 0x2C | 0x2E | 0x2F => 4
  | 0x03 | 0x1E | 0x1F | 0x20 | 0x21 => 6
  | 0x24 => 8
  | _ => 0

/-! ## Tail layouts (R127). A field shown as 0 in the manual is `rsv`. -/

/-- R127, layout S. -/
structure TailS where
  rsv : BitVec 5
  sub : BitVec 6
  c : BitVec 5
  deriving DecidableEq, Repr

def TailS.of (w : Tail) : TailS :=
  { rsv := w.extractLsb' 11 5, sub := w.extractLsb' 5 6, c := w.extractLsb' 0 5 }
def TailS.bits (t : TailS) : Tail := (t.rsv ++ t.sub ++ t.c).setWidth 64

/-- R127, layout I. -/
structure TailI where
  rsv : BitVec 10
  sub : BitVec 6
  imm : BitVec 16
  deriving DecidableEq, Repr

def TailI.of (w : Tail) : TailI :=
  { rsv := w.extractLsb' 22 10, sub := w.extractLsb' 16 6, imm := w.extractLsb' 0 16 }
def TailI.bits (t : TailI) : Tail := (t.rsv ++ t.sub ++ t.imm).setWidth 64

/-- R127, layout M. -/
structure TailM where
  rsv : BitVec 8
  scope : BitVec 3
  ty : BitVec 5
  off : BitVec 16
  deriving DecidableEq, Repr

def TailM.of (w : Tail) : TailM :=
  { rsv := w.extractLsb' 24 8, scope := w.extractLsb' 21 3, ty := w.extractLsb' 16 5, off := w.extractLsb' 0 16 }
def TailM.bits (t : TailM) : Tail := (t.rsv ++ t.scope ++ t.ty ++ t.off).setWidth 64

/-- R127, layout A. -/
structure TailA where
  rsv : BitVec 10
  scope : BitVec 3
  ty : BitVec 5
  op : BitVec 4
  d : BitVec 5
  c : BitVec 5
  deriving DecidableEq, Repr

def TailA.of (w : Tail) : TailA :=
  { rsv := w.extractLsb' 22 10, scope := w.extractLsb' 19 3, ty := w.extractLsb' 14 5, op := w.extractLsb' 10 4, d := w.extractLsb' 5 5, c := w.extractLsb' 0 5 }
def TailA.bits (t : TailA) : Tail := (t.rsv ++ t.scope ++ t.ty ++ t.op ++ t.d ++ t.c).setWidth 64

/-- R127, layout B. -/
structure TailB where
  rsv : BitVec 2
  cond : BitVec 3
  ldisp : BitVec 22
  slot : BitVec 5
  deriving DecidableEq, Repr

def TailB.of (w : Tail) : TailB :=
  { rsv := w.extractLsb' 30 2, cond := w.extractLsb' 27 3, ldisp := w.extractLsb' 5 22, slot := w.extractLsb' 0 5 }
def TailB.bits (t : TailB) : Tail := (t.rsv ++ t.cond ++ t.ldisp ++ t.slot).setWidth 64

/-- R127, layout Q. -/
structure TailQ where
  rsv : BitVec 8
  sub : BitVec 2
  lenm1 : BitVec 6
  pos : BitVec 6
  d : BitVec 5
  c : BitVec 5
  deriving DecidableEq, Repr

def TailQ.of (w : Tail) : TailQ :=
  { rsv := w.extractLsb' 24 8, sub := w.extractLsb' 22 2, lenm1 := w.extractLsb' 16 6, pos := w.extractLsb' 10 6, d := w.extractLsb' 5 5, c := w.extractLsb' 0 5 }
def TailQ.bits (t : TailQ) : Tail := (t.rsv ++ t.sub ++ t.lenm1 ++ t.pos ++ t.d ++ t.c).setWidth 64

/-- R127, layout V. -/
structure TailV where
  md : BitVec 16
  imm8 : BitVec 8
  aux : BitVec 3
  ty : BitVec 5
  sub : BitVec 6
  d : BitVec 5
  c : BitVec 5
  deriving DecidableEq, Repr

def TailV.of (w : Tail) : TailV :=
  { md := w.extractLsb' 32 16, imm8 := w.extractLsb' 24 8, aux := w.extractLsb' 21 3, ty := w.extractLsb' 16 5, sub := w.extractLsb' 10 6, d := w.extractLsb' 5 5, c := w.extractLsb' 0 5 }
def TailV.bits (t : TailV) : Tail := (t.md ++ t.imm8 ++ t.aux ++ t.ty ++ t.sub ++ t.d ++ t.c).setWidth 64

/-- R127, layout X. -/
structure TailX where
  imm32 : BitVec 32
  imm8 : BitVec 8
  aux : BitVec 3
  ty : BitVec 5
  sub : BitVec 6
  d : BitVec 5
  c : BitVec 5
  deriving DecidableEq, Repr

def TailX.of (w : Tail) : TailX :=
  { imm32 := w.extractLsb' 32 32, imm8 := w.extractLsb' 24 8, aux := w.extractLsb' 21 3, ty := w.extractLsb' 16 5, sub := w.extractLsb' 10 6, d := w.extractLsb' 5 5, c := w.extractLsb' 0 5 }
def TailX.bits (t : TailX) : Tail := (t.imm32 ++ t.imm8 ++ t.aux ++ t.ty ++ t.sub ++ t.d ++ t.c).setWidth 64

/-- Accept `i` when the unused fields are zero. -/
def unused (ok : Bool) (i : Instr) : Except DecodeErr Instr := if ok then .ok i else .error .unusedField
/-- Accept `i` when the reserved tail bits are zero and then the unused fields are. -/
def fields (rsv ok : Bool) (i : Instr) : Except DecodeErr Instr :=
  if rsv then (if ok then .ok i else .error .unusedField) else .error .reservedBit

/-! ## One decoder for each major (R132) -/

def decSop (a b : Reg) (tl : Tail) : Except DecodeErr Instr :=
  let t := TailS.of tl
  let f := fields (t.rsv == 0#5)
  match t.sub.toNat with
  | 0 => f true (.add a b t.c)
  | 1 => f true (.sub a b t.c)
  | 2 => f true (.mul a b t.c)
  | 3 => f true (.mulh a b t.c)
  | 4 => f true (.mulhz a b t.c)
  | 5 => f true (.div a b t.c)
  | 6 => f true (.divz a b t.c)
  | 7 => f true (.rem a b t.c)
  | 8 => f true (.remz a b t.c)
  | 9 => f true (.and a b t.c)
  | 10 => f true (.or a b t.c)
  | 11 => f true (.xor a b t.c)
  | 12 => f true (.shl a b t.c)
  | 13 => f true (.shr a b t.c)
  | 14 => f true (.sra a b t.c)
  | 15 => f true (.slt a b t.c)
  | 16 => f true (.sltz a b t.c)
  | 17 => f true (.min a b t.c)
  | 18 => f true (.max a b t.c)
  | 19 => f true (.minz a b t.c)
  | 20 => f true (.maxz a b t.c)
  | 21 => f (t.c == 0#5) (.clz a b)
  | 22 => f (t.c == 0#5) (.ctz a b)
  | 23 => f (t.c == 0#5) (.popc a b)
  | 24 => f (t.c == 0#5) (.mov a b)
  | _ => .error .unassignedSub

def decSopi (a b : Reg) (tl : Tail) : Except DecodeErr Instr :=
  let t := TailI.of tl
  let f := fields (t.rsv == 0#10) true
  match t.sub.toNat with
  | 0 => f (.addi a b t.imm)
  | 1 => f (.andi a b t.imm)
  | 2 => f (.ori a b t.imm)
  | 3 => f (.xori a b t.imm)
  | 4 => f (.slti a b t.imm)
  | 5 => f (.shli a b t.imm)
  | 6 => f (.shri a b t.imm)
  | 7 => f (.srai a b t.imm)
  | _ => .error .unassignedSub

def decLi (a b : Reg) (tl : Tail) : Except DecodeErr Instr :=
  match b.toNat with
  | 0 => .ok (.li a (tl.extractLsb' 0 48))
  | 1 => .ok (.liSh16 a (tl.extractLsb' 0 48))
  | _ => .error .unassignedSub

def decSbit (a b : Reg) (tl : Tail) : Except DecodeErr Instr :=
  let t := TailQ.of tl
  let f := fields (t.rsv == 0#8)
  match t.sub.toNat with
  | 0 => f (t.pos == 0#6 && t.lenm1 == 0#6) (.sel a b t.c t.d)
  | 1 => f (t.c == 0#5 && t.d == 0#5) (.bext a b t.pos t.lenm1)
  | 2 => f (t.c == 0#5 && t.d == 0#5) (.bins a b t.pos t.lenm1)
  | _ => .error .unassignedSub

def decBr (a b : Reg) (tl : Tail) : Except DecodeErr Instr :=
  let t := TailB.of tl
  let f := fields (t.rsv == 0#2)
  match t.cond.toNat with
  | 0 => f true (.beq a b t.ldisp t.slot)
  | 1 => f true (.bne a b t.ldisp t.slot)
  | 2 => f true (.blt a b t.ldisp t.slot)
  | 3 => f true (.bge a b t.ldisp t.slot)
  | 4 => f true (.bltz a b t.ldisp t.slot)
  | 5 => f true (.bgez a b t.ldisp t.slot)
  | 6 => f (b == 0#5) (.loop a t.ldisp t.slot)
  | _ => .error .unassignedSub

def decJump (a b : Reg) (tl : Tail) : Except DecodeErr Instr :=
  let t := TailB.of tl
  let f := fields (t.rsv == 0#2) (a == 0#5 && b == 0#5)
  match t.cond.toNat with
  | 0 => f (.jmp t.ldisp t.slot)
  | 1 => f (.call t.ldisp t.slot)
  | _ => .error .unassignedSub

def decJreg (a b : Reg) : Except DecodeErr Instr :=
  match b.toNat with
  | 0 => .ok (.jmpr a)
  | 1 => .ok (.callr a)
  | 2 => unused (a == 0#5) .ret
  | _ => .error .unassignedSub

def decRep (a b : Reg) (tl : Tail) : Except DecodeErr Instr :=
  let t := TailI.of tl
  fields (t.rsv == 0#10) (b == 0#5) (.rep a t.imm t.sub)

def decCtl (a b : Reg) : Except DecodeErr Instr :=
  match a.toNat with
  | 0 => unused (b == 0#5) .nop
  | 1 => unused (b == 0#5) .chunk
  | 2 => unused (b == 0#5) .yield
  | 3 => unused (b == 0#5) .saved
  | 4 => unused (b == 0#5) .split
  | 5 => .ok (.gang b)
  | 6 => .ok (.fence b)
  | 7 => unused (b == 0#5) .halt
  | 8 => unused (b == 0#5) .brk
  | 9 => .ok (.tret b)
  | _ => .error .unassignedSub

def decTrap (a b : Reg) (tl : Tail) : Except DecodeErr Instr :=
  let t := TailI.of tl
  fields (t.rsv == 0#10) (a == 0#5 && b == 0#5 && t.sub == 0#6) (.trap t.imm)

def decLd (a b : Reg) (tl : Tail) : Except DecodeErr Instr :=
  let t := TailM.of tl
  fields (t.rsv == 0#8) (t.scope == 0#3) (.ld a b t.ty t.off)

def decSt (a b : Reg) (tl : Tail) : Except DecodeErr Instr :=
  let t := TailM.of tl
  fields (t.rsv == 0#8) (t.scope == 0#3) (.st a b t.ty t.off)

def decLdv (a b : Reg) (tl : Tail) : Except DecodeErr Instr :=
  let t := TailM.of tl
  fields (t.rsv == 0#8) (t.scope == 0#3 && t.ty == 0#5) (.ldv a b t.off)

def decStv (a b : Reg) (tl : Tail) : Except DecodeErr Instr :=
  let t := TailM.of tl
  fields (t.rsv == 0#8) (t.scope == 0#3 && t.ty == 0#5) (.stv a b t.off)

def decLda (a b : Reg) (tl : Tail) : Except DecodeErr Instr :=
  let t := TailM.of tl
  fields (t.rsv == 0#8) (true) (.lda a b t.ty t.off t.scope)

def decStl (a b : Reg) (tl : Tail) : Except DecodeErr Instr :=
  let t := TailM.of tl
  fields (t.rsv == 0#8) (true) (.stl a b t.ty t.off t.scope)

def decDld (a b : Reg) (tl : Tail) : Except DecodeErr Instr :=
  let t := TailM.of tl
  fields (t.rsv == 0#8) (t.scope == 0#3) (if t.ty == 0#5 then .dldVector a b t.off else .dld a b t.ty t.off)

def decDst (a b : Reg) (tl : Tail) : Except DecodeErr Instr :=
  let t := TailM.of tl
  fields (t.rsv == 0#8) (t.scope == 0#3) (if t.ty == 0#5 then .dstVector a b t.off else .dst a b t.ty t.off)

def decAmo (a b : Reg) (tl : Tail) : Except DecodeErr Instr :=
  let t := TailA.of tl
  let f := fields (t.rsv == 0#10)
  match t.op.toNat with
  | 0 => f (t.d == 0#5) (.amoAdd a b t.c t.ty t.scope)
  | 1 => f (t.d == 0#5) (.amoAnd a b t.c t.ty t.scope)
  | 2 => f (t.d == 0#5) (.amoOr a b t.c t.ty t.scope)
  | 3 => f (t.d == 0#5) (.amoXor a b t.c t.ty t.scope)
  | 4 => f (t.d == 0#5) (.amoSwap a b t.c t.ty t.scope)
  | 5 => f (t.d == 0#5) (.amoSmin a b t.c t.ty t.scope)
  | 6 => f (t.d == 0#5) (.amoSmax a b t.c t.ty t.scope)
  | 7 => f (t.d == 0#5) (.amoZmin a b t.c t.ty t.scope)
  | 8 => f (t.d == 0#5) (.amoZmax a b t.c t.ty t.scope)
  | 9 => f (t.d == 0#5) (.amoFadd a b t.c t.ty t.scope)
  | 10 => f (t.d == 0#5) (.amoFmin a b t.c t.ty t.scope)
  | 11 => f (t.d == 0#5) (.amoFmax a b t.c t.ty t.scope)
  | 12 => f true (.amoCas a b t.c t.d t.ty t.scope)
  | _ => .error .unassignedSub

def decRed (a b : Reg) (tl : Tail) : Except DecodeErr Instr :=
  let t := TailA.of tl
  let f := fields (t.rsv == 0#10) (a == 0#5 && t.d == 0#5)
  match t.op.toNat with
  | 0 => f (.redAdd b t.c t.ty t.scope)
  | 1 => f (.redAnd b t.c t.ty t.scope)
  | 2 => f (.redOr b t.c t.ty t.scope)
  | 3 => f (.redXor b t.c t.ty t.scope)
  | 4 => f (.redSwap b t.c t.ty t.scope)
  | 5 => f (.redSmin b t.c t.ty t.scope)
  | 6 => f (.redSmax b t.c t.ty t.scope)
  | 7 => f (.redZmin b t.c t.ty t.scope)
  | 8 => f (.redZmax b t.c t.ty t.scope)
  | 9 => f (.redFadd b t.c t.ty t.scope)
  | 10 => f (.redFmin b t.c t.ty t.scope)
  | 11 => f (.redFmax b t.c t.ty t.scope)
  | _ => .error .unassignedSub

def decPutc (a b : Reg) (tl : Tail) : Except DecodeErr Instr :=
  let t := TailA.of tl
  fields (t.rsv == 0#10) (t.op == 0#4) (.putc a b t.c t.d t.ty t.scope)

def decApnd (a b : Reg) (tl : Tail) : Except DecodeErr Instr :=
  let t := TailA.of tl
  fields (t.rsv == 0#10) (t.op == 0#4 && t.ty == 0#5) (.apnd a b t.c t.d t.scope)

def decVop (a b : Reg) (tl : Tail) : Except DecodeErr Instr :=
  let t := TailV.of tl
  let z := t.aux == 0#3 && t.imm8 == 0#8
  match t.sub.toNat with
  | 0 => unused (z && t.d == 0#5) (.vadd a b t.c t.ty t.md)
  | 1 => unused (z && t.d == 0#5) (.vsub a b t.c t.ty t.md)
  | 2 => unused (z && t.d == 0#5) (.vmul a b t.c t.ty t.md)
  | 3 => unused z (.vfma a b t.c t.d t.ty t.md)
  | 4 => unused z (.vfms a b t.c t.d t.ty t.md)
  | 5 => unused z (.vfnma a b t.c t.d t.ty t.md)
  | 6 => unused (z && t.d == 0#5) (.vdiv a b t.c t.ty t.md)
  | 7 => unused (z && t.c == 0#5 && t.d == 0#5) (.vsqrt a b t.ty t.md)
  | 8 => unused (z && t.d == 0#5) (.vmin a b t.c t.ty t.md)
  | 9 => unused (z && t.d == 0#5) (.vmax a b t.c t.ty t.md)
  | 10 => unused (z && t.d == 0#5) (.vand a b t.c t.ty t.md)
  | 11 => unused (z && t.d == 0#5) (.vor a b t.c t.ty t.md)
  | 12 => unused (z && t.d == 0#5) (.vxor a b t.c t.ty t.md)
  | 13 => 
    if t.aux == 0#3 then unused (t.d == 0#5 && t.imm8 == 0#8) (.vshl a b t.c t.ty t.md)
    else unused (t.aux == 1#3 && t.c == 0#5 && t.d == 0#5) (.vshlImm a b t.imm8 t.ty t.md)
  | 14 => 
    if t.aux == 0#3 then unused (t.d == 0#5 && t.imm8 == 0#8) (.vshr a b t.c t.ty t.md)
    else unused (t.aux == 1#3 && t.c == 0#5 && t.d == 0#5) (.vshrImm a b t.imm8 t.ty t.md)
  | 15 => 
    if t.aux == 0#3 then unused (t.d == 0#5 && t.imm8 == 0#8) (.vsra a b t.c t.ty t.md)
    else unused (t.aux == 1#3 && t.c == 0#5 && t.d == 0#5) (.vsraImm a b t.imm8 t.ty t.md)
  | 16 => unused (t.d == 0#5 && t.imm8 == 0#8) (.vsel a b t.c t.aux t.ty t.md)
  | 17 => unused (z && t.c == 0#5 && t.d == 0#5) (.vmov a b t.ty t.md)
  | _ => .error .unassignedSub

def decVcmp (a b : Reg) (tl : Tail) : Except DecodeErr Instr :=
  let t := TailV.of tl
  match t.sub.toNat with
  | 0 => unused (t.d == 0#5 && t.imm8 == 0#8) (.vcmp a b t.c t.aux t.ty t.md)
  | 1 => unused (t.c == 0#5 && t.d == 0#5 && !t.aux.getLsbD 2) (.vclass a b (t.aux.extractLsb' 0 2 ++ t.imm8) t.ty t.md)
  | _ => .error .unassignedSub

def decVcvt (a b : Reg) (tl : Tail) : Except DecodeErr Instr :=
  let t := TailV.of tl
  match t.sub.toNat with
  | 0 => unused (t.c == 0#5 && t.d == 0#5) (.vcvt a b t.ty (t.imm8.extractLsb' 0 5) (t.imm8.extractLsb' 5 3) t.aux t.md)
  | 1 => unused (t.d == 0#5 && t.imm8 == 0#8 && t.md == 0#16) (.vqnt a b t.c t.ty t.aux)
  | 2 => unused (t.c == 0#5 && t.d == 0#5 && t.aux == 0#3 && t.imm8.extractLsb' 1 7 == 0#7)
      (.vdq a b (t.imm8.extractLsb' 0 1) t.ty t.md)
  | _ => .error .unassignedSub

def decVlane (a b : Reg) (tl : Tail) : Except DecodeErr Instr :=
  let t := TailV.of tl
  let z := t.d == 0#5 && t.imm8 == 0#8
  match t.sub.toNat with
  | 0 => unused (z && t.c == 0#5 && t.aux == 0#3) (.vsplat a b t.ty t.md)
  | 1 => unused (z && t.aux == 0#3 && t.md == 0#16) (.vext a b t.c t.ty)
  | 2 => unused (z && t.aux == 0#3 && t.md == 0#16) (.vins a b t.c t.ty)
  | 3 => unused (z && t.aux == 0#3) (.vperm a b t.c t.ty t.md)
  | 4 => match t.aux.toNat with
    | 0 => unused (z && t.c == 0#5) (.vredAdd a b t.ty t.md)
    | 1 => unused (z && t.c == 0#5) (.vredMin a b t.ty t.md)
    | 2 => unused (z && t.c == 0#5) (.vredMax a b t.ty t.md)
    | _ => .error .unassignedSub
  | 5 => unused (z && t.aux == 0#3) (.vdot a b t.c t.ty t.md)
  | 6 => unused (z && t.c == 0#5 && t.aux == 0#3) (.vidx a b t.ty t.md)
  | _ => .error .unassignedSub

def decMask (a b : Reg) (tl : Tail) : Except DecodeErr Instr :=
  let t := TailS.of tl
  let f := fields (t.rsv == 0#5)
  match t.sub.toNat with
  | 0 => f (t.c == 0#5) (.mset a b)
  | 1 => f (true) (.mand a b t.c)
  | 2 => f (true) (.mor a b t.c)
  | 3 => f (t.c == 0#5) (.mnot a b)
  | 4 => f (t.c == 0#5) (.mpop a b)
  | _ => .error .unassignedSub

def decStrm (a b : Reg) (tl : Tail) : Except DecodeErr Instr :=
  let t := TailS.of tl
  let f := fields (t.rsv == 0#5)
  match t.sub.toNat with
  | 0 => f (t.c == 0#5) (.sbind a b)
  | 1 => f (b == 0#5 && t.c == 0#5) (.sunb a)
  | 2 => f (t.c == 0#5) (.sskip a b)
  | _ => .error .unassignedSub

def decMcmd (a b : Reg) (tl : Tail) : Except DecodeErr Instr :=
  let t := TailX.of tl
  let geom := t.imm32
  let mm1 := geom.extractLsb' 0 7
  let nm1 := geom.extractLsb' 7 7
  let k4m1 := geom.extractLsb' 14 11
  let nf := t.aux.getLsbD 1
  let x := t.aux.getLsbD 0
  let f := fields (!t.aux.getLsbD 2 && geom.extractLsb' 25 7 == 0#7)
  match t.sub.toNat with
  | 0 => f (t.ty == 0#5) (.mma a b t.c t.d x nf t.imm8 k4m1 nm1 mm1)
  | 1 => f (t.ty == 0#5) (.mmas a b t.c t.d x nf t.imm8 k4m1 nm1 mm1)
  | 2 => f (t.ty == 0#5 && b == 0#5 && t.c == 0#5 && t.d == 0#5 && !x && geom == 0#32) (.mzero a nf t.imm8)
  | 3 => f (t.c == 0#5 && !x && k4m1 == 0#11) (.mldt a b t.d t.ty nf t.imm8 nm1 mm1)
  | 4 => f (t.c == 0#5 && k4m1 == 0#11) (.mstt a b t.d t.ty x nf t.imm8 nm1 mm1)
  | _ => .error .unassignedSub

def decMctl (a b : Reg) (tl : Tail) : Except DecodeErr Instr :=
  let t := TailS.of tl
  let f := fields (t.rsv == 0#5)
  match t.sub.toNat with
  | 0 => f (a == 0#5 && t.c == 0#5) (.mwait b)
  | 1 => f (t.c == 0#5) (.mfab a b)
  | 2 => f (true) (.mchk a t.c b)
  | _ => .error .unassignedSub

def decXpush (a b : Reg) (tl : Tail) : Except DecodeErr Instr :=
  let t := TailS.of tl
  let f := fields (t.rsv == 0#5)
  match t.sub.toNat with
  | 0 => f (b == 0#5 && t.c == 0#5) (.xpush a)
  | 1 => f (t.c == 0#5) (.xpushb b a)
  | _ => .error .unassignedSub

def decXctl (a b : Reg) (tl : Tail) : Except DecodeErr Instr :=
  let t := TailS.of tl
  let f := fields (t.rsv == 0#5)
  match t.sub.toNat with
  | 0 => f (t.c == 0#5) (.xwaitDone b a)
  | 1 => f (t.c == 0#5) (.xwaitRead b a)
  | 2 => f (t.c == 0#5) (.xwaitFill b a)
  | 3 => f (a == 0#5 && t.c == 0#5) (.xresume b)
  | 4 => f (a == 0#5 && t.c == 0#5) (.xcancel b)
  | 5 => f (t.c == 0#5) (.xstat a b)
  | 6 => f (t.c == 0#5) (.xstatRead a b)
  | 7 => f (t.c == 0#5) (.xstatFill a b)
  | _ => .error .unassignedSub

def decTq (a b : Reg) (tl : Tail) : Except DecodeErr Instr :=
  let t := TailS.of tl
  let f := fields (t.rsv == 0#5)
  match t.sub.toNat with
  | 0 => f (t.c == 0#5) (.tqB a b)
  | 1 => f (t.c == 0#5) (.tqH a b)
  | 2 => f (true) (.tqPair a b t.c)
  | 3 => f (t.c == 0#5) (.tqIntp a b)
  | _ => .error .unassignedSub

def decHctl (a b : Reg) (tl : Tail) : Except DecodeErr Instr :=
  let t := TailS.of tl
  let f := fields (t.rsv == 0#5)
  match t.sub.toNat with
  | 0 => f (true) (.htload a b t.c)
  | 1 => f (t.c == 0#5) (.hmode a b)
  | 2 => f (a == 0#5) (.ired b t.c)
  | 3 => f (true) (.hcmd a b t.c)
  | 4 => f (true) (.hovl a b t.c)
  | _ => .error .unassignedSub

def decRow (a b : Reg) (tl : Tail) : Except DecodeErr Instr :=
  let t := TailM.of tl
  let n := t.off.extractLsb' 0 7
  let f := fields (t.rsv == 0#8 && t.off.extractLsb' 7 7 == 0#7)
  match (t.off.extractLsb' 14 2).toNat with
  | 0 => f (t.scope == 0#3 && t.ty == 0#5) (.rowld a b n)
  | 1 => f (t.scope == 0#3 && t.ty == 0#5) (.rowst a b n)
  | 2 => f (t.scope == 0#3) (.rowadd a b t.ty n)
  | _ => .error .unassignedSub

def decKn (a b : Reg) (tl : Tail) : Except DecodeErr Instr :=
  let t := TailS.of tl
  let f := fields (t.rsv == 0#5)
  match t.sub.toNat with
  | 0 => f (a == 0#5 && t.c == 0#5) (.knwin b)
  | 1 => f (t.c == 0#5) (.kndly a b)
  | 2 => f (a == 0#5 && t.c == 0#5) (.knmode b)
  | 3 => f (t.c == 0#5) (.knlaunch a b)
  | 4 => f (t.c == 0#5) (.kncapt a b)
  | 5 => f (t.c == 0#5) (.knfirst a b)
  | 6 => f (a == 0#5 && b == 0#5 && t.c == 0#5) (.knreset)
  | 7 => f (b == 0#5 && t.c == 0#5) (.knstat a)
  | _ => .error .unassignedSub

def decFlue (a b : Reg) (tl : Tail) : Except DecodeErr Instr :=
  let t := TailA.of tl
  let f := fields (t.rsv == 0#10)
  let z := t.ty == 0#5
  match t.op.toNat with
  | 0 => f (z && t.scope == 0#3 && t.c == 0#5) (.ttload a b t.d)
  | 1 => f (z && t.scope == 0#3 && a == 0#5 && t.c == 0#5) (.ttarm b t.d)
  | 2 => f (z && t.scope == 0#3 && b == 0#5 && t.c == 0#5) (.bar a t.d)
  | 3 => f (z && t.d == 0#5) (.fsend a b t.c t.scope)
  | 4 => f (z && t.scope == 0#3 && b == 0#5 && t.c == 0#5) (.frecv a t.d)
  | 5 => f (z) (.msred a b t.c t.d t.scope)
  | 6 => f (z) (.xorred a b t.c t.d t.scope)
  | 7 => f (z) (.facc a b t.c t.d t.scope)
  | _ => .error .unassignedSub

def decDamp (a b : Reg) (tl : Tail) : Except DecodeErr Instr :=
  let t := TailA.of tl
  let f := fields (t.rsv == 0#10)
  let z := t.ty == 0#5
  match t.op.toNat with
  | 0 => f (z && t.scope == 0#3 && t.d == 0#5) (.gcfg a b t.c)
  | 1 => f (z && t.scope == 0#3) (.gacc a b t.c t.d)
  | 2 => f (z && t.scope == 0#3 && b == 0#5 && t.d == 0#5) (.gtest a t.c)
  | 3 => f (z && t.scope == 0#3 && b == 0#5 && t.d == 0#5) (.gstep a t.c)
  | 4 => f (z && t.scope == 0#3 && t.d == 0#5) (.gbind a t.c b)
  | 5 => f (z && t.scope == 0#3 && b == 0#5) (.gdrop a t.c t.d)
  | _ => .error .unassignedSub

/-- The opcode map: the fields of a head and its tail to a term, before the operand limits. -/
def decodeFields (major : BitVec 6) (a b : Reg) (tl : Tail) : Except DecodeErr Instr :=
  match major.toNat with
  | 0x01 => decSop a b tl
  | 0x02 => decSopi a b tl
  | 0x03 => decLi a b tl
  | 0x04 => .ok (.lea a b (tl.extractLsb' 0 32))
  | 0x05 => decSbit a b tl
  | 0x06 => decBr a b tl
  | 0x07 => decJump a b tl
  | 0x08 => decJreg a b
  | 0x09 => decRep a b tl
  | 0x0A => .ok (.safe (a ++ b))
  | 0x0B => .ok (.exit a b)
  | 0x0C => .ok (.waitc a b)
  | 0x0D => decCtl a b
  | 0x0E => decTrap a b tl
  | 0x0F => .ok (.crd a b)
  | 0x10 => .ok (.cwr a b)
  | 0x11 => decLd a b tl
  | 0x12 => decSt a b tl
  | 0x13 => decLdv a b tl
  | 0x14 => decStv a b tl
  | 0x15 => decLda a b tl
  | 0x16 => decStl a b tl
  | 0x17 => .ok (.afence a b)
  | 0x18 => decAmo a b tl
  | 0x19 => decRed a b tl
  | 0x1A => decPutc a b tl
  | 0x1B => decApnd a b tl
  | 0x1C => .ok (.warm a b)
  | 0x1D => .ok (.qpop a b)
  | 0x1E => decVop a b tl
  | 0x1F => decVcmp a b tl
  | 0x20 => decVcvt a b tl
  | 0x21 => decVlane a b tl
  | 0x22 => decMask a b tl
  | 0x23 => decStrm a b tl
  | 0x24 => decMcmd a b tl
  | 0x25 => decMctl a b tl
  | 0x26 => decXpush a b tl
  | 0x27 => decXctl a b tl
  | 0x28 => decDld a b tl
  | 0x29 => decDst a b tl
  | 0x2A => decTq a b tl
  | 0x2B => decHctl a b tl
  | 0x2C => decRow a b tl
  | 0x2D => decKn a b tl
  | 0x2E => decFlue a b tl
  | 0x2F => decDamp a b tl
  | _ => .error .unassignedMajor

/-- The instruction of a head with its tail (R125 to R135), total. -/
def decode (hd : Head) (tl : Tail) : Except DecodeErr Instr :=
  match decodeFields hd.major hd.fieldA hd.fieldB tl with
  | .error e => .error e
  | .ok i => if i.wellFormed then .ok i else .error .operandLimit

/-! ## Lines (R118 to R121) -/

/-- Halfword `k` of a 64-byte line. -/
def lineHalf (line : Vec) (k : Nat) : BitVec 16 := line.extractLsb' (16 * k) 16
/-- NHEAD of the header (R119). -/
def lineHeads (line : Vec) : Nat := (line.extractLsb' 0 5).toNat
/-- The sum of the tail lengths of heads 1 to `k`. -/
def tailSum (line : Vec) : Nat → Nat
  | 0 => 0
  | k + 1 => tailSum line k + tailLen (Head.major (lineHalf line (k + 1)))

/-- The checks of R120 on a whole line. -/
def lineCheck (line : Vec) : Except LineErr Unit :=
  let n := lineHeads line
  let tot := tailSum line n
  if n = 0 ∨ line.extractLsb' 11 5 ≠ 0#5 then .error .badHeader
  else if tot ≠ 2 * (line.extractLsb' 5 6).toNat ∨ 64 < tot + 2 + 2 * n then .error .badLength
  else if line.extractLsb' (16 * (n + 1)) (8 * (64 - tot - (2 * n + 2))) ≠ 0 then .error .gapNotZero
  else .ok ()

/-- The head in slot `k` of a line and its tail, zero-extended (R120, R126). -/
def lineSlot (line : Vec) (k : Nat) : Except LineErr (Head × Tail) :=
  match lineCheck line with
  | .error e => .error e
  | .ok () =>
    if k = 0 ∨ lineHeads line < k then .error .noSuchSlot
    else
      let hd : Head := lineHalf line k
      let len := tailLen hd.major
      let stop := 64 - tailSum line (k - 1)
      .ok (hd, (line.extractLsb' (8 * (stop - len)) (8 * len)).setWidth 64)

/-- A line that holds one head in slot 1 with its tail (R119, R120). -/
def oneHeadLine (hd : Head) (tl : Tail) : Vec :=
  let len := tailLen hd.major
  BitVec.ofNat 512 (16 * len + 1) ||| (hd.setWidth 512 <<< (16 : Nat)) ||| (tl.setWidth 512 <<< (512 - 8 * len))

/-- The opcode table numbers an encoded row as one number with the head in the high 16 bits and the tail below it; a row of
16 bits is the head alone and its tail is zero (the table's form; DESIGN CHOICE, log 8). -/
def tableHead (nbits w : Nat) : Head := BitVec.ofNat 16 (if nbits ≤ 16 then w else w >>> (nbits - 16))
def tableTail (nbits w : Nat) : Tail := if nbits ≤ 16 then 0#64 else BitVec.ofNat 64 (w % 2 ^ (nbits - 16))

/-- The instruction the decoder reads from the bits of an opcode-table row: they are laid out as a line that holds the one
head, and the line is decoded. -/
def decodeTableWord (nbits w : Nat) : Option Instr :=
  match lineSlot (oneHeadLine (tableHead nbits w) (tableTail nbits w)) 1 with
  | .error _ => none
  | .ok (hd, tl) => (decode hd tl).toOption

/-! ## The encoder, from the same tables -/

def encS (m : BitVec 6) (a b : Reg) (sub : BitVec 6) (c : Reg) : Option (Head × Tail) :=
  some (mkHead m a b, TailS.bits ⟨0, sub, c⟩)
def encI (m : BitVec 6) (a b : Reg) (sub : BitVec 6) (imm : BitVec 16) : Option (Head × Tail) :=
  some (mkHead m a b, TailI.bits ⟨0, sub, imm⟩)
def encM (m : BitVec 6) (a b : Reg) (scope : BitVec 3) (ty : Ty) (off : BitVec 16) : Option (Head × Tail) :=
  some (mkHead m a b, TailM.bits ⟨0, scope, ty, off⟩)
def encA (m : BitVec 6) (a b : Reg) (scope : BitVec 3) (ty : Ty) (op : BitVec 4) (d c : Reg) : Option (Head × Tail) :=
  some (mkHead m a b, TailA.bits ⟨0, scope, ty, op, d, c⟩)
def encB (m : BitVec 6) (a b : Reg) (cond : BitVec 3) (ldisp : BitVec 22) (slot : BitVec 5) : Option (Head × Tail) :=
  some (mkHead m a b, TailB.bits ⟨0, cond, ldisp, slot⟩)
def encQ (a b : Reg) (sub : BitVec 2) (lenm1 pos : BitVec 6) (d c : Reg) : Option (Head × Tail) :=
  some (mkHead 0x05 a b, TailQ.bits ⟨0, sub, lenm1, pos, d, c⟩)
def encV (m : BitVec 6) (a b : Reg) (md : BitVec 16) (imm8 : BitVec 8) (aux : BitVec 3) (ty : Ty) (sub : BitVec 6) (d c : Reg) :
    Option (Head × Tail) :=
  some (mkHead m a b, TailV.bits ⟨md, imm8, aux, ty, sub, d, c⟩)
/-- GEOM of R278. -/
def geomBits (k4m1 : BitVec 11) (nm1 mm1 : BitVec 7) : BitVec 32 := 0#7 ++ k4m1 ++ nm1 ++ mm1
def encX (a b : Reg) (geom : BitVec 32) (ci : BitVec 8) (notify x : Bool) (ty : Ty) (sub : BitVec 6) (d c : Reg) :
    Option (Head × Tail) :=
  some (mkHead 0x24 a b, TailX.bits ⟨geom, ci, 0#1 ++ BitVec.ofBool notify ++ BitVec.ofBool x, ty, sub, d, c⟩)
def encN (m : BitVec 6) (a b : Reg) : Option (Head × Tail) := some (mkHead m a b, 0)

/-- The head and tail of an instruction; none for the device's own events, which have no encoding. -/
def encode : Instr → Option (Head × Tail)
  | .powerUp => none
  | .clusterReady => none
  | .sensorSample => none
  | .partitionLayout => none
  | .trapVectorDeclare => none
  | .recordPoolDeclare => none
  | .damperRangeDeclare => none
  | .translationRootDeclare => none
  | .hostWindowDeclare => none
  | .partitionQueueDeclare => none
  | .peerTableWrite => none
  | .preemptRequest => none
  | .imageUpdate => none
  | .attest => none
  | .counterRead => none
  | .hostWrite => none
  | .hostRead => none
  | .countedWrite => none
  | .unsupportedOperation => none
  | .transportFailure => none
  | .pickup => none
  | .launchAccept => none
  | .launchAdmit => none
  | .launchRelease => none
  | .versionPublish => none
  | .versionSlotFree => none
  | .waitcWake => none
  | .priorityAging => none
  | .preemptMark => none
  | .overdue => none
  | .gangDrain => none
  | .gangPlace => none
  | .chunkCommit => none
  | .chunkLengthEnd => none
  | .storeFootprintEnd => none
  | .remoteStoreCommit => none
  | .remoteLoad => none
  | .registerWindowStore => none
  | .registerWrite => none
  | .waitingTaskArm => none
  | .messageArrival => none
  | .putcArrival => none
  | .apndRowWrite => none
  | .trapQueueWrite => none
  | .streamPrefetch => none
  | .streamStallRelease => none
  | .matrixQueueAccept => none
  | .matrixGrant => none
  | .matrixBusyEnd => none
  | .matrixWriteback => none
  | .matrixPark => none
  | .staggerTokenMove => none
  | .addendPacket => none
  | .kindlingCapture => none
  | .kndlyLoadDone => none
  | .xpushFifoAccept => none
  | .copy => none
  | .copyToTensor => none
  | .gather => none
  | .scatter => none
  | .reduce => none
  | .migrate => none
  | .shoot => none
  | .run => none
  | .copyComplete => none
  | .page => none
  | .continuationMigrate => none
  | .shootAck => none
  | .migrateMove => none
  | .reduceComplete => none
  | .refresh => none
  | .tableQueryAnswer => none
  | .tqReserve => none
  | .hearthQueueAccept => none
  | .iredApply => none
  | .hobCommandRun => none
  | .hobBudgetExhausted => none
  | .hovlLoad => none
  | .barrierArrival => none
  | .barrierDeadline => none
  | .releaseNotice => none
  | .ttSend => none
  | .ttCopy => none
  | .ttMs => none
  | .ttXor => none
  | .ttAcc => none
  | .lateMessage => none
  | .roundComplete => none
  | .packetDeliver => none
  | .packetReduceArrival => none
  | .damperDrainFinish => none
  | .roundPacketArrival => none
  | .add rd a b => encS 0x01 rd a 0 b
  | .sub rd a b => encS 0x01 rd a 1 b
  | .mul rd a b => encS 0x01 rd a 2 b
  | .mulh rd a b => encS 0x01 rd a 3 b
  | .mulhz rd a b => encS 0x01 rd a 4 b
  | .div rd a b => encS 0x01 rd a 5 b
  | .divz rd a b => encS 0x01 rd a 6 b
  | .rem rd a b => encS 0x01 rd a 7 b
  | .remz rd a b => encS 0x01 rd a 8 b
  | .and rd a b => encS 0x01 rd a 9 b
  | .or rd a b => encS 0x01 rd a 10 b
  | .xor rd a b => encS 0x01 rd a 11 b
  | .shl rd a b => encS 0x01 rd a 12 b
  | .shr rd a b => encS 0x01 rd a 13 b
  | .sra rd a b => encS 0x01 rd a 14 b
  | .slt rd a b => encS 0x01 rd a 15 b
  | .sltz rd a b => encS 0x01 rd a 16 b
  | .min rd a b => encS 0x01 rd a 17 b
  | .max rd a b => encS 0x01 rd a 18 b
  | .minz rd a b => encS 0x01 rd a 19 b
  | .maxz rd a b => encS 0x01 rd a 20 b
  | .clz rd a => encS 0x01 rd a 21 0
  | .ctz rd a => encS 0x01 rd a 22 0
  | .popc rd a => encS 0x01 rd a 23 0
  | .mov rd a => encS 0x01 rd a 24 0
  | .addi rd a imm => encI 0x02 rd a 0 imm
  | .andi rd a imm => encI 0x02 rd a 1 imm
  | .ori rd a imm => encI 0x02 rd a 2 imm
  | .xori rd a imm => encI 0x02 rd a 3 imm
  | .slti rd a imm => encI 0x02 rd a 4 imm
  | .shli rd a imm => encI 0x02 rd a 5 imm
  | .shri rd a imm => encI 0x02 rd a 6 imm
  | .srai rd a imm => encI 0x02 rd a 7 imm
  | .li rd imm => some (mkHead 0x03 rd 0, imm.setWidth 64)
  | .liSh16 rd imm => some (mkHead 0x03 rd 1, imm.setWidth 64)
  | .lea rd a imm => some (mkHead 0x04 rd a, imm.setWidth 64)
  | .sel rd a b c => encQ rd a 0 0 0 c b
  | .bext rd a pos lenm1 => encQ rd a 1 lenm1 pos 0 0
  | .bins rd a pos lenm1 => encQ rd a 2 lenm1 pos 0 0
  | .beq a b ld sl => encB 0x06 a b 0 ld sl
  | .bne a b ld sl => encB 0x06 a b 1 ld sl
  | .blt a b ld sl => encB 0x06 a b 2 ld sl
  | .bge a b ld sl => encB 0x06 a b 3 ld sl
  | .bltz a b ld sl => encB 0x06 a b 4 ld sl
  | .bgez a b ld sl => encB 0x06 a b 5 ld sl
  | .loop a ld sl => encB 0x06 a 0 6 ld sl
  | .jmp ld sl => encB 0x07 0 0 0 ld sl
  | .call ld sl => encB 0x07 0 0 1 ld sl
  | .jmpr rs => encN 0x08 rs 0
  | .callr rs => encN 0x08 rs 1
  | .ret => encN 0x08 0 2
  | .rep n count stride => encI 0x09 n 0 stride count
  | .safe k => encN 0x0A (k.extractLsb' 5 5) (k.extractLsb' 0 5)
  | .exit a b => encN 0x0B a b
  | .waitc a b => encN 0x0C a b
  | .nop => encN 0x0D 0 0
  | .chunk => encN 0x0D 1 0
  | .yield => encN 0x0D 2 0
  | .saved => encN 0x0D 3 0
  | .split => encN 0x0D 4 0
  | .gang g => encN 0x0D 5 g
  | .fence sc => encN 0x0D 6 sc
  | .halt => encN 0x0D 7 0
  | .brk => encN 0x0D 8 0
  | .tret sb => encN 0x0D 9 sb
  | .trap imm => encI 0x0E 0 0 0 imm
  | .crd rd n => encN 0x0F rd n
  | .cwr n rs => encN 0x10 n rs
  | .ld d b ty off => encM 0x11 d b 0 ty off
  | .st d b ty off => encM 0x12 d b 0 ty off
  | .ldv d b off => encM 0x13 d b 0 0 off
  | .stv d b off => encM 0x14 d b 0 0 off
  | .lda d b ty off sc => encM 0x15 d b sc ty off
  | .stl d b ty off sc => encM 0x16 d b sc ty off
  | .afence a b => encN 0x17 a b
  | .amoAdd rd sa sv ty sc => encA 0x18 rd sa sc ty 0 0 sv
  | .amoAnd rd sa sv ty sc => encA 0x18 rd sa sc ty 1 0 sv
  | .amoOr rd sa sv ty sc => encA 0x18 rd sa sc ty 2 0 sv
  | .amoXor rd sa sv ty sc => encA 0x18 rd sa sc ty 3 0 sv
  | .amoSwap rd sa sv ty sc => encA 0x18 rd sa sc ty 4 0 sv
  | .amoSmin rd sa sv ty sc => encA 0x18 rd sa sc ty 5 0 sv
  | .amoSmax rd sa sv ty sc => encA 0x18 rd sa sc ty 6 0 sv
  | .amoZmin rd sa sv ty sc => encA 0x18 rd sa sc ty 7 0 sv
  | .amoZmax rd sa sv ty sc => encA 0x18 rd sa sc ty 8 0 sv
  | .amoFadd rd sa sv ty sc => encA 0x18 rd sa sc ty 9 0 sv
  | .amoFmin rd sa sv ty sc => encA 0x18 rd sa sc ty 10 0 sv
  | .amoFmax rd sa sv ty sc => encA 0x18 rd sa sc ty 11 0 sv
  | .amoCas rd sa sv scr ty sc => encA 0x18 rd sa sc ty 12 scr sv
  | .redAdd sa sv ty sc => encA 0x19 0 sa sc ty 0 0 sv
  | .redAnd sa sv ty sc => encA 0x19 0 sa sc ty 1 0 sv
  | .redOr sa sv ty sc => encA 0x19 0 sa sc ty 2 0 sv
  | .redXor sa sv ty sc => encA 0x19 0 sa sc ty 3 0 sv
  | .redSwap sa sv ty sc => encA 0x19 0 sa sc ty 4 0 sv
  | .redSmin sa sv ty sc => encA 0x19 0 sa sc ty 5 0 sv
  | .redSmax sa sv ty sc => encA 0x19 0 sa sc ty 6 0 sv
  | .redZmin sa sv ty sc => encA 0x19 0 sa sc ty 7 0 sv
  | .redZmax sa sv ty sc => encA 0x19 0 sa sc ty 8 0 sv
  | .redFadd sa sv ty sc => encA 0x19 0 sa sc ty 9 0 sv
  | .redFmin sa sv ty sc => encA 0x19 0 sa sc ty 10 0 sv
  | .redFmax sa sv ty sc => encA 0x19 0 sa sc ty 11 0 sv
  | .putc c d v g ty sc => encA 0x1A c d sc ty 0 g v
  | .apnd rd t r l sc => encA 0x1B rd t sc 0 0 l r
  | .warm a b => encN 0x1C a b
  | .qpop a b => encN 0x1D a b
  | .vadd d a b ty md => encV 0x1E d a md 0 0 ty 0 0 b
  | .vsub d a b ty md => encV 0x1E d a md 0 0 ty 1 0 b
  | .vmul d a b ty md => encV 0x1E d a md 0 0 ty 2 0 b
  | .vdiv d a b ty md => encV 0x1E d a md 0 0 ty 6 0 b
  | .vmin d a b ty md => encV 0x1E d a md 0 0 ty 8 0 b
  | .vmax d a b ty md => encV 0x1E d a md 0 0 ty 9 0 b
  | .vand d a b ty md => encV 0x1E d a md 0 0 ty 10 0 b
  | .vor d a b ty md => encV 0x1E d a md 0 0 ty 11 0 b
  | .vxor d a b ty md => encV 0x1E d a md 0 0 ty 12 0 b
  | .vfma d a b c ty md => encV 0x1E d a md 0 0 ty 3 c b
  | .vfms d a b c ty md => encV 0x1E d a md 0 0 ty 4 c b
  | .vfnma d a b c ty md => encV 0x1E d a md 0 0 ty 5 c b
  | .vsqrt d a ty md => encV 0x1E d a md 0 0 ty 7 0 0
  | .vmov d a ty md => encV 0x1E d a md 0 0 ty 17 0 0
  | .vshl d a b ty md => encV 0x1E d a md 0 0 ty 13 0 b
  | .vshlImm d a n ty md => encV 0x1E d a md n 1 ty 13 0 0
  | .vshr d a b ty md => encV 0x1E d a md 0 0 ty 14 0 b
  | .vshrImm d a n ty md => encV 0x1E d a md n 1 ty 14 0 0
  | .vsra d a b ty md => encV 0x1E d a md 0 0 ty 15 0 b
  | .vsraImm d a n ty md => encV 0x1E d a md n 1 ty 15 0 0
  | .vsel d a b mk ty md => encV 0x1E d a md 0 mk ty 16 0 b
  | .vcmp d a b cc ty md => encV 0x1F d a md 0 cc ty 0 0 b
  | .vclass d a set ty md => encV 0x1F d a md (set.extractLsb' 0 8) (0#1 ++ set.extractLsb' 8 2) ty 1 0 0
  | .vcvt d a dt sty part mode md => encV 0x20 d a md (part ++ sty) mode dt 0 0 0
  | .vqnt d a b ty mode => encV 0x20 d a 0 0 mode ty 1 0 b
  | .vdq d a part ty md => encV 0x20 d a md (0#7 ++ part) 0 ty 2 0 0
  | .vsplat d a ty md => encV 0x21 d a md 0 0 ty 0 0 0
  | .vext d a c ty => encV 0x21 d a 0 0 0 ty 1 0 c
  | .vins d a c ty => encV 0x21 d a 0 0 0 ty 2 0 c
  | .vperm d a b ty md => encV 0x21 d a md 0 0 ty 3 0 b
  | .vredAdd d a ty md => encV 0x21 d a md 0 0 ty 4 0 0
  | .vredMin d a ty md => encV 0x21 d a md 0 1 ty 4 0 0
  | .vredMax d a ty md => encV 0x21 d a md 0 2 ty 4 0 0
  | .vdot d a b ty md => encV 0x21 d a md 0 0 ty 5 0 b
  | .vidx d a ty md => encV 0x21 d a md 0 0 ty 6 0 0
  | .mset d a => encS 0x22 d a 0 0
  | .mand d a b => encS 0x22 d a 1 b
  | .mor d a b => encS 0x22 d a 2 b
  | .mnot d a => encS 0x22 d a 3 0
  | .mpop d a => encS 0x22 d a 4 0
  | .sbind v d => encS 0x23 v d 0 0
  | .sunb v => encS 0x23 v 0 1 0
  | .sskip v c => encS 0x23 v c 2 0
  | .mma t a b s z nf ci k n m => encX t a (geomBits k n m) ci nf z 0 0 s b
  | .mmas t a b s z nf ci k n m => encX t a (geomBits k n m) ci nf z 0 1 s b
  | .mzero t nf ci => encX t 0 0 ci nf false 0 2 0 0
  | .mldt t a s ty nf ci n m => encX t a (geomBits 0 n m) ci nf false ty 3 s 0
  | .mstt t a s ty sat nf ci n m => encX t a (geomBits 0 n m) ci nf sat ty 4 s 0
  | .mwait n => encS 0x25 0 n 0 0
  | .mfab t c => encS 0x25 t c 1 0
  | .mchk rd t c => encS 0x25 rd c 2 t
  | .xpush a => encS 0x26 a 0 0 0
  | .xpushb rd a => encS 0x26 a rd 1 0
  | .xwaitDone ch r => encS 0x27 r ch 0 0
  | .xwaitRead ch r => encS 0x27 r ch 1 0
  | .xwaitFill ch r => encS 0x27 r ch 2 0
  | .xresume ch => encS 0x27 0 ch 3 0
  | .xcancel ch => encS 0x27 0 ch 4 0
  | .xstat r ch => encS 0x27 r ch 5 0
  | .xstatRead r ch => encS 0x27 r ch 6 0
  | .xstatFill r ch => encS 0x27 r ch 7 0
  | .dld d b ty off => encM 0x28 d b 0 ty off
  | .dldVector d b off => encM 0x28 d b 0 0 off
  | .dst d b ty off => encM 0x29 d b 0 ty off
  | .dstVector d b off => encM 0x29 d b 0 0 off
  | .tqB a s => encS 0x2A a s 0 0
  | .tqH a s => encS 0x2A a s 1 0
  | .tqPair a s b => encS 0x2A a s 2 b
  | .tqIntp a s => encS 0x2A a s 3 0
  | .htload rd d t => encS 0x2B rd d 0 t
  | .hmode rd q => encS 0x2B rd q 1 0
  | .ired c m => encS 0x2B 0 c 2 m
  | .hcmd h a m => encS 0x2B h a 3 m
  | .hovl rd h i => encS 0x2B rd h 4 i
  | .rowld l b n => encM 0x2C l b 0 0 (0#9 ++ n)
  | .rowst l b n => encM 0x2C l b 0 0 (1#2 ++ 0#7 ++ n)
  | .rowadd l b ty n => encM 0x2C l b 0 ty (2#2 ++ 0#7 ++ n)
  | .knwin w => encS 0x2D 0 w 0 0
  | .kndly a r => encS 0x2D a r 1 0
  | .knmode v => encS 0x2D 0 v 2 0
  | .knlaunch a b => encS 0x2D a b 3 0
  | .kncapt a b => encS 0x2D a b 4 0
  | .knfirst a b => encS 0x2D a b 5 0
  | .knreset => encS 0x2D 0 0 6 0
  | .knstat rd => encS 0x2D rd 0 7 0
  | .ttload rd a sl => encA 0x2E rd a 0 0 0 sl 0
  | .ttarm d sl => encA 0x2E 0 d 0 0 1 sl 0
  | .bar rd sl => encA 0x2E rd 0 0 0 2 sl 0
  | .fsend a h n sc => encA 0x2E a h sc 0 3 0 n
  | .frecv rd ch => encA 0x2E rd 0 0 0 4 ch 0
  | .msred t a n q sc => encA 0x2E t a sc 0 5 q n
  | .xorred t a n q sc => encA 0x2E t a sc 0 6 q n
  | .facc t a n q sc => encA 0x2E t a sc 0 7 q n
  | .gcfg rd r g => encA 0x2F rd r 0 0 0 0 g
  | .gacc rd w g t => encA 0x2F rd w 0 0 1 t g
  | .gtest rd g => encA 0x2F rd 0 0 0 2 0 g
  | .gstep rd g => encA 0x2F rd 0 0 0 3 0 g
  | .gbind rd g s => encA 0x2F rd s 0 0 4 0 g
  | .gdrop rd g m => encA 0x2F rd 0 0 0 5 m g

end Sys2Proof
end

