-- ==== Sys2Proof/Machine/Float.lean ====
section
/-! DEFINITION. Number formats, exact values, rounding and the flags they raise: R156 to R164, and merge_ms of R392. -/

namespace Sys2Proof.Machine

/-- A floating format (R156): exponent bits, mantissa bits, bias; `e4` for E4M3, which has no infinity. -/
structure Fmt where
  eb : Nat
  mb : Nat
  bias : Nat
  e4 : Bool
  deriving DecidableEq, Repr

/-- The format of a type code (R92); code 0 and every code that is no floating type give binary64. -/
def fmtOf (t : Nat) : Fmt :=
  match t with
  | 1 => ⟨8, 23, 127, false⟩
  | 2 => ⟨8, 7, 127, false⟩
  | 3 => ⟨5, 10, 15, false⟩
  | 4 => ⟨4, 3, 7, true⟩
  | 5 => ⟨5, 2, 15, false⟩
  | _ => ⟨11, 52, 1023, false⟩

/-- An exact value: a NaN (signalling or not), an infinity, or `±m * 2^e`. Quotients and roots are carried to more bits than
any format keeps, the last one set when a remainder is left. -/
inductive Num where
  | nan (sig : Bool)
  | inf (neg : Bool)
  | fin (neg : Bool) (m : Nat) (e : Int)
  deriving DecidableEq, Repr

/-- The sticky flags in the order of FLAGS (R95). -/
abbrev Flg := BitVec 6
def fNV : Flg := 1
def fDZ : Flg := 2
def fOF : Flg := 4
def fUF : Flg := 8
def fNX : Flg := 16
def fSAT : Flg := 32
def flagIf (b : Bool) (f : Flg) : Flg := if b then f else 0

/-- A value and the flags raised on the way. -/
abbrev Res := Num × Flg

/-! ## Bit patterns and values (R157, R158) -/

def Fmt.width (f : Fmt) : Nat := 1 + f.eb + f.mb
def Fmt.dec (f : Fmt) (bits : Nat) : Num :=
  let neg := bits / 2 ^ (f.eb + f.mb) % 2 == 1
  let e := bits / 2 ^ f.mb % 2 ^ f.eb
  let m := bits % 2 ^ f.mb
  if f.e4 && e == 15 && m == 7 then .nan false
  else if !f.e4 && e == 2 ^ f.eb - 1 then
    if m = 0 then .inf neg else .nan (decide (m < 2 ^ (f.mb - 1)))
  else if e = 0 then .fin neg m (1 - (f.bias : Int) - f.mb)
  else .fin neg (2 ^ f.mb + m) ((e : Int) - f.bias - f.mb)

def Fmt.signBit (f : Fmt) (neg : Bool) : Nat := if neg then 2 ^ (f.eb + f.mb) else 0
/-- The default NaN (R158). -/
def Fmt.nan (f : Fmt) : Nat :=
  if f.e4 then 0x7F else (2 ^ f.eb - 1) * 2 ^ f.mb + 2 ^ (f.mb - 1)
def Fmt.infBits (f : Fmt) (neg : Bool) : Nat := f.signBit neg + (2 ^ f.eb - 1) * 2 ^ f.mb
/-- The largest finite value's pattern, and its mantissa and exponent (R156). -/
def Fmt.maxBits (f : Fmt) (neg : Bool) : Nat := f.signBit neg + (if f.e4 then 0x7E else (2 ^ f.eb - 1) * 2 ^ f.mb - 1)
def Fmt.maxM (f : Fmt) : Nat := if f.e4 then 14 else 2 ^ (f.mb + 1) - 1
def Fmt.maxE (f : Fmt) : Int := if f.e4 then 5 else (2 ^ f.eb : Int) - 2 - f.bias - f.mb

/-! ## Rounding (R160 to R162) -/

/-- Rounding modes by AUX code. -/
inductive Mode where
  | rne
  | rtz
  | rdn
  | rup
  | rna
  deriving DecidableEq, Repr

def modeOf (aux : Nat) : Mode :=
  match aux with
  | 1 => .rtz
  | 2 => .rdn
  | 3 => .rup
  | 4 => .rna
  | _ => .rne

/-- Compare `m1 * 2^e1` with `m2 * 2^e2`. -/
def cmpMag (m1 : Nat) (e1 : Int) (m2 : Nat) (e2 : Int) : Ordering :=
  let lo := min e1 e2
  compare (m1 * 2 ^ (e1 - lo).toNat) (m2 * 2 ^ (e2 - lo).toNat)

/-- `m * 2^e` as a multiple of `2^q` under a mode, and whether it is inexact. -/
def roundMag (mode : Mode) (neg : Bool) (m : Nat) (e q : Int) : Nat × Bool :=
  if q ≤ e then (m * 2 ^ (e - q).toNat, false)
  else
    let k := (q - e).toNat
    let hi := m / 2 ^ k
    let rem := m % 2 ^ k
    let half := 2 ^ (k - 1)
    let up := match mode with
      | .rne => half < rem || (rem == half && hi % 2 == 1)
      | .rtz => false
      | .rdn => neg && rem != 0
      | .rup => !neg && rem != 0
      | .rna => half ≤ rem
    (if up then hi + 1 else hi, rem != 0)

/-- round(x, fmt, mode): the pattern and the flags OF, UF, NX (and NV for an infinity to E4M3). The sign of zero is kept. -/
def Fmt.round (f : Fmt) (mode : Mode) (x : Num) : Nat × Flg :=
  match x with
  | .nan _ => (f.nan, 0)
  | .inf neg => if f.e4 then (f.nan, fNV) else (f.infBits neg, 0)
  | .fin neg m e =>
    if m = 0 then (f.signBit neg, 0)
    else
      let qU : Int := e + m.log2 - f.mb
      let u := roundMag mode neg m e qU
      if cmpMag u.1 qU f.maxM f.maxE == .gt then
        let toMax := match mode with
          | .rtz => true
          | .rdn => !neg
          | .rup => neg
          | _ => false
        (if toMax then f.maxBits neg else if f.e4 then f.nan else f.infBits neg, fOF ||| fNX)
      else
        let q := max qU (1 - (f.bias : Int) - f.mb)
        let r := roundMag mode neg m e q
        let bits := if r.1 < 2 ^ f.mb then r.1 else r.1 - 2 ^ f.mb + (q + f.mb + f.bias).toNat * 2 ^ f.mb
        let tiny := cmpMag u.1 qU 1 (1 - (f.bias : Int)) == .lt
        (f.signBit neg + bits, flagIf r.2 fNX ||| flagIf (tiny && r.2) fUF)

/-- Round to an integer under a mode: the value and whether it is inexact. -/
def roundInt (mode : Mode) (neg : Bool) (m : Nat) (e : Int) : Int × Bool :=
  let r := roundMag mode neg m e 0
  (if neg then -(r.1 : Int) else r.1, r.2)

/-! ## Exact operations (R158, R163) -/

def Num.isNan : Num → Bool
  | .nan _ => true
  | _ => false
def Num.isSig : Num → Bool
  | .nan s => s
  | _ => false
def Num.neg : Num → Num
  | .nan s => .nan s
  | .inf n => .inf (!n)
  | .fin n m e => .fin (!n) m e
def Num.abs : Num → Num
  | .nan s => .nan s
  | .inf _ => .inf false
  | .fin _ m e => .fin false m e
def Num.isZero : Num → Bool
  | .fin _ 0 _ => true
  | _ => false
def Num.isFin : Num → Bool
  | .fin _ _ _ => true
  | _ => false
/-- Multiply by 2^k. -/
def Num.scale (x : Num) (k : Int) : Num :=
  match x with
  | .fin n m e => .fin n m (e + k)
  | y => y
def Num.ofInt (x : Int) : Num := .fin (x < 0) x.natAbs 0
def Num.toInt (neg : Bool) (m : Nat) : Int := if neg then -(m : Int) else m
def invalid : Res := (.nan false, fNV)
def sigFlag (a b : Num) : Flg := flagIf (a.isSig || b.isSig) fNV

/-- The sum of two finite values, exact; a zero sum is +0 unless both are -0. -/
def addFin (n1 : Bool) (m1 : Nat) (e1 : Int) (n2 : Bool) (m2 : Nat) (e2 : Int) : Num :=
  let lo := min e1 e2
  let v := Num.toInt n1 (m1 * 2 ^ (e1 - lo).toNat) + Num.toInt n2 (m2 * 2 ^ (e2 - lo).toNat)
  if v = 0 then .fin (n1 && n2) 0 lo else .fin (v < 0) v.natAbs lo

def Num.add (a b : Num) : Res :=
  match a, b with
  | .fin n1 m1 e1, .fin n2 m2 e2 => (addFin n1 m1 e1 n2 m2 e2, 0)
  | .inf n1, .inf n2 => if n1 == n2 then (.inf n1, 0) else invalid
  | .inf n, .fin _ _ _ => (.inf n, 0)
  | .fin _ _ _, .inf n => (.inf n, 0)
  | x, y => (.nan false, sigFlag x y)

def Num.mul (a b : Num) : Res :=
  match a, b with
  | .fin n1 m1 e1, .fin n2 m2 e2 => (.fin (n1 != n2) (m1 * m2) (e1 + e2), 0)
  | .inf n1, .inf n2 => (.inf (n1 != n2), 0)
  | .inf n1, .fin n2 m _ => if m = 0 then invalid else (.inf (n1 != n2), 0)
  | .fin n1 m _, .inf n2 => if m = 0 then invalid else (.inf (n1 != n2), 0)
  | x, y => (.nan false, sigFlag x y)

/-- a * b + c, one exact value (DEDUCED, log 35). -/
def Num.fma (a b c : Num) : Res :=
  let p := Num.mul a b
  let r := Num.add p.1 c
  (r.1, p.2 ||| r.2 ||| flagIf c.isSig fNV)

def Num.div (a b : Num) : Res :=
  match a, b with
  | .fin n1 m1 e1, .fin n2 m2 e2 =>
    if m2 = 0 then (if m1 = 0 then invalid else (.inf (n1 != n2), fDZ))
    else
      let k := 130 + m2.log2 - m1.log2
      let q := m1 * 2 ^ k / m2
      let r := m1 * 2 ^ k % m2
      (.fin (n1 != n2) (2 * q + (if r = 0 then 0 else 1)) (e1 - e2 - k - 1), 0)
  | .inf _, .inf _ => invalid
  | .inf n1, .fin n2 _ _ => (.inf (n1 != n2), 0)
  | .fin n1 _ _, .inf n2 => (.fin (n1 != n2) 0 0, 0)
  | x, y => (.nan false, sigFlag x y)

/-- The integer square root of `v` below `2^(2k)`, bit by bit. -/
def isqrt (v : Nat) : Nat → Nat
  | 0 => 0
  | k + 1 =>
    let r := 2 * isqrt (v / 4) k
    if (r + 1) * (r + 1) ≤ v then r + 1 else r

def Num.sqrt (a : Num) : Res :=
  match a with
  | .fin n m e =>
    if m = 0 then (.fin n 0 e, 0)
    else if n then invalid
    else
      let k : Nat := if e % 2 = 0 then 140 else 141
      let v := m * 2 ^ k
      let r := isqrt v (v.log2 / 2 + 1)
      (.fin false (2 * r + (if r * r = v then 0 else 1)) ((e - k) / 2 - 1), 0)
  | .inf false => (.inf false, 0)
  | .inf true => invalid
  | .nan s => (.nan false, flagIf s fNV)

/-- Order of two values that are not NaN; the two zeros are equal. -/
def Num.cmp (a b : Num) : Ordering :=
  match a, b with
  | .fin n1 m1 e1, .fin n2 m2 e2 =>
    let lo := min e1 e2
    compare (Num.toInt n1 (m1 * 2 ^ (e1 - lo).toNat)) (Num.toInt n2 (m2 * 2 ^ (e2 - lo).toNat))
  | .inf n1, .inf n2 => if n1 == n2 then .eq else if n1 then .lt else .gt
  | .inf n, _ => if n then .lt else .gt
  | _, .inf n => if n then .gt else .lt
  | _, _ => .eq

def Num.isNeg : Num → Bool
  | .fin n _ _ => n
  | .inf n => n
  | _ => false

/-- minimumNumber (`mx` false) or maximumNumber (`mx` true) of two patterns, bit for bit (R164); -0 is below +0. -/
def Fmt.minmax (f : Fmt) (mx : Bool) (a b : Nat) : Nat × Flg :=
  let x := f.dec a
  let y := f.dec b
  let fl := sigFlag x y
  if x.isNan then (if y.isNan then f.nan else b, fl)
  else if y.isNan then (a, fl)
  else
    let aLess := match Num.cmp x y with
      | .lt => true
      | .gt => false
      | .eq => x.isNeg || !y.isNeg
    (if aLess == mx then b else a, fl)

/-! ## Rounded operations without flags, for engines (R162) -/

def Fmt.rne (f : Fmt) (x : Num) : Nat := (f.round .rne x).1
def Fmt.addF (f : Fmt) (a b : Nat) : Nat := f.rne (Num.add (f.dec a) (f.dec b)).1
def Fmt.subF (f : Fmt) (a b : Nat) : Nat := f.rne (Num.add (f.dec a) (f.dec b).neg).1
def Fmt.mulF (f : Fmt) (a b : Nat) : Nat := f.rne (Num.mul (f.dec a) (f.dec b)).1
def Fmt.divF (f : Fmt) (a b : Nat) : Nat := f.rne (Num.div (f.dec a) (f.dec b)).1
def f32 : Fmt := fmtOf 1
def f64 : Fmt := fmtOf 0
def Fmt.isFinite (f : Fmt) (a : Nat) : Bool := (f.dec a).isFin

/-- A mean and spread triple of binary32 patterns (n, mu, M2). -/
structure Ms where
  n : Nat
  mu : Nat
  m2 : Nat
  deriving DecidableEq, Repr

/-- merge_ms (R392): target `a` with received `b`, every step rounded to binary32. -/
def mergeMs (a b : Ms) : Ms :=
  if (f32.dec b.n).isZero then a
  else if (f32.dec a.n).isZero then b
  else
    let n := f32.addF a.n b.n
    let d := f32.subF b.mu a.mu
    let q := f32.divF b.n n
    { n := n
      mu := f32.addF a.mu (f32.mulF d q)
      m2 := f32.addF (f32.addF a.m2 b.m2) (f32.mulF (f32.mulF d d) (f32.mulF a.n q)) }

/-- merge_ms on groups of three lines, element by element (R392). -/
def mergeGroup (a b : List Vec) : List Vec :=
  let lane (l : List Vec) (k i : Nat) : Nat := (((l[k]?).getD 0).extractLsb' (32 * i) 32).toNat
  let r := (List.range 16).map (fun i =>
    mergeMs ⟨lane a 0 i, lane a 1 i, lane a 2 i⟩ ⟨lane b 0 i, lane b 1 i, lane b 2 i⟩)
  let line (g : Ms → Nat) : Vec := BitVec.ofNat 512 (r.foldr (fun x acc => g x + 2 ^ 32 * acc) 0)
  [line Ms.n, line Ms.mu, line Ms.m2]

/-- merge_ms group by group; lines beyond the shorter operand stay as they are in `a`. -/
def mergeLines : List Vec → List Vec → List Vec
  | a :: b :: c :: r, x :: y :: z :: q => mergeGroup [a, b, c] [x, y, z] ++ mergeLines r q
  | a, _ => a

end Sys2Proof.Machine
end

