-- ==== Sys2Proof/Config.lean ====
section
/-! DEFINITION. What an implementation fixes and the free values: constants the manual names, and opaque values that nothing in
Lean can evaluate. -/

namespace Sys2Proof.Config

/-- The attestation signature by the identity key (R429): free. -/
opaque identitySign : List Nat → BitVec 512
/-- PC, HEAD and TAIL of the copy microcode in trap and continuation records (R289): not given by the manual, free; the
argument is a fresh number. -/
opaque microPc : Nat → BitVec 64
opaque microHead : Nat → BitVec 16
opaque microTail : Nat → BitVec 64
/-- Cycles from one refresh of a pseudo-channel to the next (R318, the HBM4 class rules): the device's. -/
opaque refreshPeriod : Nat
/-- A byte read where the manual gives no value: memory of a statistics area or record without a translation (log 14). -/
opaque freeByte : Nat → BitVec 8
/-- A value an instruction leaves in a register where the manual states none (log 14). -/
opaque freeWord : Nat → BitVec 64
/-- DATA of an event-log record (R432): code-specific, its values not given (log 14); the argument is the number of the record. -/
opaque logData : Nat → BitVec 400

/-- The job identifier that the controller assigns a partition (R419): not given, free; the argument is a fresh number. -/
opaque jobId : Nat → BitVec 24
/-- The PIDonFEP of a partition's endpoint, less 1 (R419): not given, free; 0 belongs to the management function. -/
opaque pidOnFep : Nat → Fin 4095
/-- The fabric address of an Ultra Ethernet port, 0 to 15 (R16, R426): the network's. -/
opaque portAddress : Nat → BitVec 128

end Sys2Proof.Config
end

