-- ==== Sys2Proof/Machine/State.lean ====
section
/-! DEFINITION. The state of the module as plain data, its faults and refusals, and the state right after reset. -/

namespace Sys2Proof.Machine

/-- A sparse table: pairs of key and value, keys strictly rising, no entry equal to the table's default. -/
abbrev Tab (α : Type) := List (Nat × α)

/-! ## Thread sets (04) -/

/-- Per-thread-set control registers (R90 to R98). SPSAVE stores SEL only; its other fields are computed. -/
structure Ctl where
  fmta : Word := 1
  fmtb : Word := 1
  fmtc : Word := 1
  scla : Word := 0
  sclb : Word := 0
  sclc : Word := 0
  flags : BitVec 6 := 0
  trapen : BitVec 3 := 7
  pdead : BitVec 24 := 65536
  spsel : BitVec 3 := 0
  deriving DecidableEq, Repr

/-- A buffered weak store: the first byte's key in the memory key space (`Key` in Ops) and its bytes. -/
structure WStore where
  key : Nat
  data : List Byte
  deriving DecidableEq, Repr

/-- A stream binding (R249 to R256): `pos` is the next element or push, `count` the COUNT of SPSAVE, `fetched` the elements
read ahead from `pos` on as the cluster order gave them, `own` the thread's stores before the SBIND that had not committed then (R254),
`skip` the entries a stalled SSKIP still discards. -/
structure Binding where
  arrival : Bool
  write : Bool
  channel : Nat
  base : Nat
  bounds : List Nat
  strides : List Int
  pos : Nat
  count : Nat
  fetched : List Vec
  own : List WStore := []
  skip : Nat := 0
  deriving DecidableEq, Repr

/-- REP in progress (R193, R195): `body` is the PC of the first body head. -/
structure RepState where
  body : Word
  n : Nat
  count : Nat
  stride : Nat
  pass : Nat
  pos : Nat
  deriving DecidableEq, Repr

/-- The registers of a thread set: what a squash restores (R69, R91, R195, R248). -/
structure Regs where
  pc : Word := 0
  s : Vector Word 32 := Vector.replicate 32 0
  v : Vector Vec 32 := Vector.replicate 32 0
  m : Vector Word 8 := Vector.replicate 8 0
  ctl : Ctl := {}
  streams : Tab (Option Binding) := []
  rep : Option RepState := none
  deriving DecidableEq, Repr

/-- The open chunk (R68 to R71). `seen` are the lines others committed since it began, `log` the affine stream data it popped (each
under the number of stream and element), `pops` the entries it popped from each arrival channel, `trail` the PCs it went to, `brks` the BRKs and `past` the pops and pushes past a pattern's end that it counts when it commits, `begun` the registers at its start. -/
structure Chunk where
  executed : Nat := 0
  stores : List WStore := []
  rlines : List Nat := []
  wlines : List Nat := []
  seen : List Nat := []
  log : List (Nat × Vec) := []
  pops : Tab Nat := []
  trail : List Word := []
  ended : Bool := false
  brks : Nat := 0
  past : Nat := 0
  begun : Regs := {}
  deriving DecidableEq, Repr

/-- Whether a thread set holds a continuation, and how (R32, R114, R207). `retiring` is what OVERDUE leaves until the continuation
record has its STATUS 8 (R34, R110). -/
inductive Run where
  | idle
  | running
  | parked
  | halted
  | retiring
  deriving DecidableEq, Repr

/-- What a running thread set waits for. A stalled head has not issued and issues again; the others are head in progress. -/
inductive Wait where
  | none
  /-- The head stalls and is not issued (a full queue, an empty channel, a watermark, a drain). -/
  | stall (i : Instr)
  /-- A remote weak load is outstanding (R73). -/
  | load (i : Instr)
  /-- A message that returns a value to register `rd` (R215). -/
  | msg (id : Nat) (rd : Reg)
  /-- BAR waits for the release notice of a slot (R394). -/
  | bar (rd : Reg) (slot : Nat)
  /-- HOVL waits for its answer (R342). -/
  | answer (rd : Reg)
  /-- GANG g waits for its group (R200). -/
  | gang (g : Nat)
  /-- The hart met a redirect to stack `stack` and migrates (R305). -/
  | redirect (stack : Nat)
  deriving DecidableEq, Repr

/-- Identity of a continuation (R28). `acc` numbers its task, `lin` is the linear index, `part` the partition. -/
structure Cont where
  rcd : Word := 0
  savearea : Word := 0
  argblk : Word := 0
  levels : Word := 0
  taskid : BitVec 32 := 0
  gen : BitVec 16 := 0
  launchblk : Word := 0
  boundver : Word := 0
  lin : Nat := 0
  part : Nat := 0
  acc : Nat := 0
  deriving DecidableEq, Repr

/-- An MNF to be delivered before the next head (R277): the matrix command, the element and the sampled formats. `after` are the
heads of the chunk that run again before it after a squash (R111). -/
structure MnfRec where
  head : Head
  tail : Tail
  row : Nat
  col : Nat
  tile : Nat
  fmta : Word
  fmtb : Word
  fmtc : Word
  after : Nat := 0
  deriving DecidableEq, Repr

/-- A hart: a thread set of a core, a thread set of a stoker or a hob unit. `mark` is the cycle a pre-emption mark expires, `since`
the cycle it issued GANG, `placed` the cycle of its pickup. `line` is the line it fetched last, by its number, and `early` the
8-byte units (line number, unit, bytes) that its fetch of a line to come has read already (R118, R124). -/
structure Thread where
  run : Run := .idle
  regs : Regs := {}
  chunk : Chunk := {}
  squashes : Nat := 0
  replay : List (Nat × Vec) := []
  pend : List WStore := []
  mark : Option Nat := none
  wait : Wait := .none
  cont : Cont := {}
  savemode : Option Nat := none
  gang : Option Nat := none
  path : List Word := []
  mnf : Option MnfRec := none
  since : Nat := 0
  placed : Nat := 0
  line : Option (Nat × Vec) := none
  early : List (Nat × Nat × Word) := []
  deriving DecidableEq, Repr

/-- A gang (R202). `members` in core order, the leader first, by hart while it runs and by record for good. `head` is the head
the leader issued last, `next` where the leader went and `todo` the members that have not issued it yet; `vals` are the
leader's counter and threshold words for WAITC, `saving` says that the leader's last SAFE entered the save routine (R50);
`released` are the halted members' records released by TRET so far, and `back` those of parked members that wait to go back to the
gang. `redo` says that the leader trapped at `head`, which the members issue as it did, and has yet to give its outcome. While it
waits for placement, `cand` is its candidate cluster and `waitFrom` the cycle its wait for a drain began (R48, R49). -/
structure Gang where
  members : List Hart
  recs : List Word
  cl : Nat
  acc : Nat
  head : Word
  next : Word
  todo : List Hart
  vals : Word × Word
  released : List Word
  saving : Bool := false
  back : List Word := []
  redo : Bool := false
  cand : Option Nat := none
  waitFrom : Nat := 0
  deriving DecidableEq, Repr

/-! ## Clusters -/

/-- A waiting-task entry (R374). -/
structure WtEntry where
  launchblk : Word := 0
  thresh : Word := 0
  cnt : BitVec 8 := 0
  armed : Bool := false
  gen : BitVec 16 := 0
  fired : BitVec 32 := 0
  deriving DecidableEq, Repr

/-- A kindling window in progress (R351): when it is captured and what it will capture. -/
structure KnWin where
  due : Nat
  y : BitVec 1024
  f : BitVec 1024
  deriving DecidableEq, Repr

/-- A KNDLY load queued or in progress (R354): it completes on cycle `due` at the earliest, a row a cycle, and `row` rows are in
(R351). `modes` is a KNMODE queued behind it, which has no rows. -/
structure KnLoad where
  src : Nat
  first : Nat
  cnt : Nat
  due : Nat
  row : Nat := 0
  modes : Option (BitVec 128) := none
  deriving DecidableEq, Repr

/-- The kindling array (R348). Delay row `o` is the 64-byte line of its cells, all ones when unlisted. -/
structure Kindling where
  delay : Tab Vec := []
  modes : BitVec 128 := 0
  y : BitVec 1024 := BitVec.allOnes 1024
  f : BitVec 1024 := BitVec.allOnes 1024
  owner : Option Hart := none
  w : BitVec 8 := 255
  capvalid : Bool := false
  lastw : BitVec 8 := 0
  nwin : BitVec 32 := 0
  win : Option KnWin := none
  loads : List KnLoad := []
  deriving DecidableEq, Repr

/-- State of a matrix queue entry (R269). A granted entry is `reading` until its operands may be read (R85). -/
inductive MState where
  | accepted
  | reading
  | running (stop : Nat) (rerun : Bool)
  | writeback (due : Nat)
  deriving DecidableEq, Repr

/-- A matrix queue entry (R259): the sampled registers and the tag; `base` and `res` are the tile region at the grant and
the result to write, as patterns in row-major order; `ok` says that no checksum mismatches (R273). -/
structure MEntry where
  id : Nat
  core : Nat
  instr : Instr
  hart : Hart
  sa : Word
  sb : Word
  sp : Word
  fmta : Word
  fmtb : Word
  fmtc : Word
  scla : Word
  sclb : Word
  sclc : Word
  mmnf : Bool
  tol : BitVec 32
  rcd : Word
  gen : BitVec 16
  st : MState
  base : List Nat
  res : List Nat
  ok : Bool
  deriving DecidableEq, Repr

/-- Status and arming of one tile (R284, R285); `arming` numbers its armings. -/
structure TileMeta where
  spoiled : Bool := false
  nonfinite : Bool := false
  pair64 : Bool := false
  reruns : BitVec 8 := 0
  armed : Bool := false
  f64 : Bool := false
  remain : BitVec 8 := 0
  ci : BitVec 8 := 0
  round : BitVec 16 := 0
  arming : Nat := 0
  deriving DecidableEq, Repr

/-- An addend packet at a tile (R286); `ident` marks the empty packet of R388, `ci` the counter that rises after it when it is
the last packet of an FACC with NOTIFY (R397). Its arrival judges it: `ok` says it is taken, under the format and number of the
arming it met. -/
structure Addend where
  tile : Nat
  round : BitVec 16
  row : Nat
  col : Nat
  data : Vec
  ident : Bool
  ci : Option (BitVec 8)
  ok : Bool := false
  f64 : Bool := false
  arming : Nat := 0
  deriving DecidableEq, Repr

/-- A gang placement drain (R48): the cores fixed, and the gang that waits, 0 for a group that GANG forms. -/
structure Drain where
  cores : List Nat
  gang : Nat
  deriving DecidableEq, Repr

structure Cluster where
  up : Bool := false
  readyAt : Nat := 0
  counters : Tab Word := []
  cgen : Tab (BitVec 16) := []
  wt : Tab WtEntry := []
  mwgt : Word := 0x11111111
  chktol : Word := 0x37800000
  kn : Kindling := {}
  /-- Accepted commands in order of acceptance, and granted ones in order of grant until their completion release. -/
  queue : List MEntry := []
  granted : List MEntry := []
  /-- First cycle on which the unit may grant (R267), and the first cycle of the present idle run (R27). -/
  freeAt : Nat := 0
  credit : Vector Nat 8 := Vector.replicate 8 1
  last : Nat := 7
  parked : Bool := false
  idleSince : Nat := 0
  tiles : Tab TileMeta := []
  held : List Addend := []
  token : Option Hart := none
  drain : Option Drain := none
  stat : Tab Word := []
  deriving DecidableEq, Repr

/-! ## Cores: copy channels, arrival channels and timetable slots -/

inductive ChanSt where
  | idle
  | queued
  | active
  | faulted
  deriving DecidableEq, Repr

/-- A copy channel (R290, R299 to R302). `guard` is the packed on-chip destination of R85 (first key, row pitch, row bytes,
rows), `issuer` who asked. -/
structure Chan where
  st : ChanSt := .idle
  w0 : Word := 0
  w1 : Word := 0
  w2 : Word := 0
  w3 : Word := 0
  seq : BitVec 16 := 0
  kind : BitVec 4 := 0
  lastend : BitVec 8 := 0
  fcode : BitVec 8 := 0
  rwm : Word := 0
  fwm : Word := 0
  guard : Option (Nat × Nat × Nat × Nat) := none
  ivec : List Nat := [0, 0, 0, 0, 0, 0]
  fva : Word := 0
  issuer : Cont := {}
  deriving DecidableEq, Repr

/-- An entry of an arrival channel (R256): a table-query result, a packet header or a packet payload line. -/
inductive ArrKind where
  | query (qid : Nat) (mark : Option Nat)
  | header
  | payload
  deriving DecidableEq, Repr

/-- `taken` is the hart whose open chunk popped the entry, or must pop it again after a squash: it stays queued until that
chunk commits (R71, R256). -/
structure ArrEntry where
  kind : ArrKind
  data : Vec
  taken : Option Hart := none
  deriving DecidableEq, Repr

/-- State of a timetable slot (R386). -/
inductive SlotSt where
  | empty
  | loaded
  | armed
  | waiting
  | running
  deriving DecidableEq, Repr

/-- A timetable image (R379 to R381): party words and entry words. -/
structure Image where
  dwait : Nat
  parties : List Word
  entries : List Word
  deriving DecidableEq, Repr

/-- The data of one SEND entry on its way to a receive entry (R388): headerless, or a packet from a remote party. -/
structure RMsg where
  round : BitVec 16
  entry : Nat
  spoiled : Bool
  lines : List Vec
  deriving DecidableEq, Repr

/-- What a home has sent to a party about a round (R387): the release cycle, the void parties, and whether this one is void. -/
structure Notice where
  round : BitVec 16
  t : Nat
  voids : List Nat
  void : Bool
  deriving DecidableEq, Repr

/-- A round the home counts and has not decided: the cycle of its first arrival and the parties that have arrived (R387). -/
structure Arriving where
  round : BitVec 16
  first : Nat
  parties : List Nat
  deriving DecidableEq, Repr

/-- A late MS message in a carry buffer (R390): its round while that round may still run its entry, its lines, and whether it was
spoiled. -/
structure Carried where
  round : Option (BitVec 16)
  lines : List Vec
  spoiled : Bool
  deriving DecidableEq, Repr

/-- A timetable slot of a core (R378, R385 to R391). `desc` is the key of its round descriptor; `next` is the position in the
party's list of the entry to perform, `line` its next line, `buf` the lines a SEND has read or a receive applies, `ident` that it
takes identity, `mark` that a spoiled tile was read. `msgs` are messages that wait for their entry, `carry` the carry buffers by
entry, `ran` the rounds the slot has run, `rises` the counters to raise, each with its cycle (R391). As a home it holds `lastr`,
`rounds` and the arrivals `held`; `notices` are on their way to this party. -/
structure Slot where
  st : SlotSt := .empty
  img : Option Image := none
  desc : Nat := 0
  round : BitVec 16 := 0
  late : Bool := false
  ci : BitVec 8 := 0
  wbase : Nat := 0
  t : Nat := 0
  void : Bool := false
  voidSet : List Nat := []
  next : Nat := 0
  line : Nat := 0
  buf : List Vec := []
  ident : Bool := false
  mark : Bool := false
  msgs : List RMsg := []
  carry : Tab (List Carried) := []
  voidrx : Nat := 0
  spoilrx : Nat := 0
  carried : Bool := false
  doneAt : Nat := 0
  ran : List (BitVec 16) := []
  rises : List (Nat × BitVec 8) := []
  lastr : Option (BitVec 16) := none
  rounds : List Arriving := []
  held : List (Nat × BitVec 16) := []
  notices : List Notice := []
  deriving DecidableEq, Repr

structure Core where
  chans : Tab Chan := []
  fifo : List Nat := []
  arr : Tab (List ArrEntry) := []
  slots : Tab Slot := []
  overrun : Word := 0
  deriving DecidableEq, Repr

/-! ## Stacks, stokers and the hearth -/

/-- A valid leaf or redirect entry in a TLB slice (R306 to R310): `va` is the page's first VA, `big` a 2 MiB page. -/
structure TlbEntry where
  part : Nat
  va : Nat
  big : Bool
  frame : Nat
  rd : Bool
  wr : Bool
  redir : Option Nat
  deriving DecidableEq, Repr

/-- An installed hearth table (R321, R322): `pa` is the stack-physical address of entry 0 under the translation held, `acc` the
task that installed it, `page` and `big` the page of that translation. -/
structure HTable where
  va : Nat
  pa : Nat
  page : Nat
  big : Bool
  entries : Nat
  width : Nat
  policy : Nat
  ien : Bool
  ifmt : Nat
  dflt : BitVec 32
  part : Nat
  acc : Nat
  deriving DecidableEq, Repr

/-- Refresh of a pseudo-channel (R318): `owner` true is the hearth sequencer. -/
structure Refresh where
  sequencer : Bool := false
  postponed : Nat := 0
  pointer : Nat := 0
  due : Nat := 0
  deriving DecidableEq, Repr

/-- A command in a stoker's queue (R332): 0 IRED, 1 HCMD, 2 HOVL. `pc` is its pseudo-channel (96 * stack + number), `cmd` the
staged 64 bytes, `mbox` the mailbox word, `job` the hart whose REDUCE job built it; an IRED that has started holds the
stack-physical address of its destination row and the element accesses made. -/
structure HCmd where
  id : Nat
  kind : Nat
  pc : Nat
  cmd : Vec
  sel : Word
  mbox : Option Word
  hart : Hart
  rd : Reg
  cont : Cont
  job : Option Hart
  dpa : Option Nat
  pos : Nat
  skipped : Nat
  fault : Bool
  deriving DecidableEq, Repr

/-- A hob unit (R337): overlay and data memory by byte, the command it runs and the heads it has executed. -/
structure Hob where
  overlay : Tab Byte := []
  data : Tab Byte := []
  cmd : Option HCmd := none
  executed : Nat := 0
  deriving DecidableEq, Repr

structure Stack where
  up : Bool := false
  token : Option Hart := none
  troot : Tab (Option Nat) := []
  tlb : List TlbEntry := []
  heldPages : List (Nat × Nat) := []
  compute : Tab Bool := []
  refresh : Tab Refresh := []
  htabs : Tab (Option HTable) := []
  lastWidth : Tab Nat := []
  hobs : Tab Hob := []
  /-- For each stoker, the next core of its 64 in round-robin order (R293). -/
  taken : Tab Nat := []
  stat : Tab Word := []
  deriving DecidableEq, Repr

/-- A tensor layout record as read (R294). -/
structure Layout where
  size : List Nat
  stride : List Int
  origin : List Int
  extm1 : List Nat
  esize : Nat
  fill : Word
  aux : Word
  deriving DecidableEq, Repr

/-- Where a job stands: moving elements, waiting for acknowledgements, or ready for its final release. -/
inductive JobSt where
  | moving
  | fault (va : Word) (fcode : Nat)
  | parked
  | redirect (stack : Nat)
  | waiting
  | done (stop fcode : Nat) (fva : Word)
  deriving DecidableEq, Repr

/-- A safe point of a kernel header (R104). -/
structure SafePt where
  savepc : Word
  restpc : Word
  deriving DecidableEq, Repr

/-- A stoker job (R288): its channel, staged words, layout, next element `pos` and the index `idx` of its row, slices still to
acknowledge and commands outstanding; `row` is the row whose index is read, `ivec` the box vector its mailbox reports (R299). A
REDUCE has its record, its offsets, the bag, the entries `pos` to `idx` left of it and in `phase` whether the bag is begun (1) and a
command is built (2); `fail` is its first failed command. `owned` says that the channel still follows the job. A copy job is kept
under its hart's number; a RUN job, which may be suspended, and a copy job on its way to another stoker (R305) under one of their
own. -/
structure Job where
  core : Nat
  ch : Nat
  kind : Nat
  w0 : Word
  w1 : Word
  w2 : Word
  w3 : Word
  layout : Option Layout
  pos : Nat
  idx : Nat
  bag : Nat
  st : JobSt
  slices : List Nat
  cmds : List Nat
  rcd : Word
  cont : Cont
  owned : Bool
  seq : BitVec 16
  invalid : BitVec 32
  safes : List SafePt
  record : Vec
  phase : Nat
  fail : Option (Nat × Nat × Nat × Word)
  row : Option Nat := none
  ivec : List Nat := [0, 0, 0, 0, 0, 0]
  offs : List Nat := []
  deriving DecidableEq, Repr

/-- A table query on its way (R326 to R329): form 0 B, 1 H, 2 PAIR, 3 INTP; `need` are the entries reserved. -/
structure Query where
  qid : Nat
  core : Nat
  ch : Nat
  stack : Nat
  slot : Nat
  form : Nat
  va : Vec
  vb : Vec
  issued : Nat
  need : Nat
  result : Option (List Vec × Option Nat)
  deriving DecidableEq, Repr

/-! ## Grates, versions and partitions (19) -/

/-- A version slot of a tile (R368). -/
inductive VSlot where
  | free
  | opened (acc step : Nat)
  | published (acc step : Nat)
  deriving DecidableEq, Repr

/-- A closure whose successor a damper hands over (R406, R407): its group, its number among the closures of the group and the STEP
that it opened. -/
structure Closure where
  key : Nat
  no : Nat
  step : Nat
  deriving DecidableEq, Repr

/-- A launch offered to a grate (R365): `group` is the closure when a damper launched it, `src`
the partition and record of the thread whose EXIT named it. -/
structure Launch where
  lb : Word
  part : Nat
  group : Option Closure
  src : Option (Nat × Word) := none
  deriving DecidableEq, Repr

inductive TaskSt where
  | admitted
  | held
  | ready
  | running
  | ended
  deriving DecidableEq, Repr

/-- A group binding of a task (R363): its word, and the tiles and the STEP of its group as its acceptance found them. -/
structure GroupBind where
  word : Word
  run : Nat × Nat
  step : Nat
  deriving DecidableEq, Repr

/-- A task (R366 to R377). Levels are (domain, extent) lowest first; `reads` and `writes` are its tile runs, its group bindings'
among them, `entries` its dependence entries; `bound` and `opened` give the slot of each tile. `inst` are the instances fixed at
first placement: for each index over the levels of cluster width or wider, the unit of the lowest of them; `recs` are the records
with the STATUS 7 or 8 each has ended at, 0 before; `preempted` the core instances that were marked and resume as a whole (R42);
`cores` the core of each core or gang instance, fixed when a thread of it is placed (R38, R41), and `split` the threads that SPLIT has
bound to their core in a task without such a level (R203). -/
structure Task where
  acc : Nat
  die : Nat
  part : Nat
  taskid : BitVec 32
  st : TaskSt
  lb : Word
  khdr : Word
  entry : Word
  safes : List SafePt
  argblk : Word
  levels : List (Nat × Nat)
  prio : Nat
  pin : Option (Nat × Option Nat)
  savebase : Word
  savestride : Nat
  reads : List (Nat × Nat)
  writes : List (Nat × Nat)
  groups : List GroupBind
  entries : Nat
  bound : List (Nat × Nat)
  opened : List (Nat × Nat)
  boundver : Word
  recs : List (Word × Nat)
  retired : Bool
  inst : List (Nat × Nat)
  preempted : List Nat := []
  cores : List (Nat × Nat) := []
  split : List Nat := []
  group : Option Closure
  deriving DecidableEq, Repr

/-- A continuation in a ready queue (R54, R372): `since` when it entered, `rise` the levels it has risen; `stoker` for a
stoker continuation, `core` for one bound to its core, `cl` to its cluster, `gang` for a gang member (R40, R41); `marked` says that
it was saved with its core instance, `first` that it has never been placed, `asked` whom it had marked (R376). -/
structure ReadyEnt where
  rcd : Word
  acc : Nat
  lin : Nat
  taskid : BitVec 32
  prio : Nat
  since : Nat
  rise : Nat
  stoker : Option Nat
  core : Option Nat
  cl : Option Nat
  gang : Option Nat
  marked : Bool
  first : Bool := false
  asked : Option (Hart × Word) := none
  deriving DecidableEq, Repr

/-- A record waiting at WAITC on the counter at an on-chip address (R198); `met` once the counter has reached the threshold. -/
structure WaitEnt where
  rcd : Word
  counter : Nat
  thresh : Word
  met : Bool
  ent : ReadyEnt
  deriving DecidableEq, Repr

/-- A trap waiting for the trap queue (R115, R117): the 512-bit record without SEQ. `retire` is the hart and the continuation
that OVERDUE ended, whose STATUS 8 is written after the trap record (R110). -/
structure TrapRec where
  data : Vec
  retire : Option (Hart × Cont) := none
  deriving DecidableEq, Repr

/-- A host window (R421). -/
structure HostWin where
  v : Bool := false
  rd : Bool := false
  wr : Bool := false
  cnt : Bool := false
  base : Word := 0
  len : Word := 0
  deriving DecidableEq, Repr

structure Part where
  taskctr : BitVec 32 := 0
  ready : List ReadyEnt := []
  waiting : List WaitEnt := []
  traps : List TrapRec := []
  tvec : Word := 0
  pbase : Word := 0
  plog2 : Nat := 10
  pooled : Bool := false
  windows : Tab HostWin := []
  peers : Tab (BitVec 256) := []
  stat : Tab Word := []
  deriving DecidableEq, Repr

/-- A die's grate and damper: offered launches, the admission queue, entries in use, and the damper's range (R399). -/
structure Die where
  offers : List Launch := []
  admits : List Nat := []
  entries : Nat := 0
  gtbase : Word := 0
  gfirst : Nat := 0
  gcount : Nat := 0
  deriving DecidableEq, Repr

/-- A parameter group as the damper caches it (R400), under 65536 * die + number. `live`: the successor last launched is live;
`closures` numbers it; `vals` are the mean and M2 of each element in the half that STEP accumulates in, which the damper holds as well,
so that no other agent's write reaches them (R401, R409). -/
structure Group where
  configured : Bool := false
  late : Bool := false
  active : Bool := false
  drain : Bool := false
  step : BitVec 32 := 0
  n : BitVec 32 := 0
  snr : BitVec 32 := 0
  theta : BitVec 32 := 0
  nmin : BitVec 32 := 0
  nmax : BitVec 32 := 0
  nel : BitVec 32 := 0
  stats : Word := 0
  succ : Word := 0
  tiles : Word := 0
  cln : BitVec 32 := 0
  nlate : BitVec 16 := 0
  nspoil : BitVec 16 := 0
  live : Bool := false
  closures : Nat := 0
  vals : List (Nat × Nat) := []
  deriving DecidableEq, Repr

/-! ## The fabric -/

/-- Where a packet from a peer comes from (R426) and the partition whose endpoint it reached. -/
structure PeerSrc where
  part : Nat
  jobid : BitVec 24
  pid : BitVec 12
  fep : BitVec 128
  deriving DecidableEq, Repr

/-- A flue packet that arrives from a peer over Ultra Ethernet (R426). `kind` is the FLUE operation that sent it (3 FSEND,
5 MSRED, 6 XORRED, 7 FACC), `word` its destination word or target address word, `peerWord` the peer word. -/
structure PeerPacket where
  src : PeerSrc
  kind : Nat
  word : Word
  peerWord : Word
  lines : List Vec
  deriving DecidableEq, Repr

/-- What travels: remote stores, messages, packets, reductions, barrier arrivals and late round data (09, 20). -/
inductive Item where
  | rstore (key : Nat) (data : List Byte)
  /-- AMO or RED: operation, bytes, value, compare value, and the register that takes the old value (R217). -/
  | rmw (key : Nat) (op : Nat) (size : Nat) (v cmp : Word) (ret : Option Reg) (sx : Bool)
  /-- PUTC: counter key, data store if any, generation, partition of the issuer (R222). -/
  | putc (ctr : Nat) (data : Option (Nat × List Byte)) (gen : BitVec 16) (part : Nat)
  /-- The row of an APND in its parts by page, the key of FILLED and the length it grows by (R225). -/
  | apndRow (parts : List (Nat × List Byte)) (filled : Nat) (len : Nat)
  /-- FSEND packet to an arrival channel: its header word and lines (R395). -/
  | packet (core ch : Nat) (header : Word) (lines : List Vec)
  /-- MSRED 5, XORRED 6 or FACC 7 towards a target key (R397). -/
  | reduce (kind : Nat) (key : Nat) (tag : BitVec 16) (ci : Option (BitVec 8)) (lines : List Vec)
  /-- Arrival of a party at the home slot of a round (R387). -/
  | arrival (home : Nat) (party : Nat) (round : BitVec 16)
  /-- SEND data of a void party for receive entry `entry` of a party's slot (R389). -/
  | late (party : Nat) (entry : Nat) (round : BitVec 16) (spoiled : Bool) (lines : List Vec)
  /-- A packet, or the data of a SEND entry for a slot of a core, between partitions of this module over the fabric outside (R426). -/
  | peer (k : PeerPacket)
  | peerRound (src : PeerSrc) (core slot : Nat) (m : RMsg)
  deriving DecidableEq, Repr

structure Msg where
  id : Nat
  hart : Hart
  part : Nat
  item : Item
  deriving DecidableEq, Repr

/-! ## Controller, host and peers (24) -/

/-- What a management request carries besides its own content (R427): the sender's address, its sequence number and
whether its ML-DSA-87 signature by an operator key of the active image verifies. -/
structure Mgmt where
  sender : BitVec 128
  seq : Word
  verified : Bool
  deriving DecidableEq, Repr

/-- What a pre-emption request names (R376). -/
inductive PreTarget where
  | die (d : Nat)
  | partition (p : Nat)
  | task (p : Nat) (task : BitVec 32)
  deriving DecidableEq, Repr

/-- The unit whose counters a read returns (R431). -/
inductive CounterUnit where
  | cluster (cl : Nat)
  | stack (st : Nat)
  | partition (p : Nat)
  | core (c : Nat)
  deriving DecidableEq, Repr

/-- A flash image slot (R428). `signed` and `digestOk` say whether the signature verifies and the digest matches. -/
structure FlashImage where
  version : Nat := 0
  svn : Nat := 0
  signed : Bool := true
  digestOk : Bool := true
  components : List (BitVec 512) := []
  operators : List (BitVec 128) := []
  deriving DecidableEq, Repr

/-- What the outside world sends, in arrival order: the head is what an event takes. A request of a host or a packet of a peer
names the partition whose endpoint it has reached, through a port of one of that partition's dies (R25, R419). -/
inductive Input where
  | layout (q : Mgmt) (l : List (List Nat))
  | trapVector (q : Mgmt) (p : Nat) (addr : Word)
  | recordPool (q : Mgmt) (p : Nat) (w : BitVec 128)
  | damperRange (q : Mgmt) (die : Nat) (w : BitVec 128)
  | root (q : Mgmt) (stack p : Nat) (root : Word)
  | window (q : Mgmt) (p idx : Nat) (w : BitVec 256)
  | partQueue (q : Mgmt) (idx : Nat) (w : BitVec 256)
  | peer (q : Mgmt) (p idx : Nat) (w : BitVec 256)
  | preempt (q : Mgmt) (t : PreTarget)
  | update (q : Mgmt) (img : FlashImage)
  | attest (q : Mgmt) (nonce : BitVec 512)
  | counters (q : Mgmt) (u : CounterUnit)
  | hostWrite (p win : Nat) (off : Word) (data : List Byte)
  | hostRead (p win : Nat) (off : Word) (len : Nat)
  | counted (p win : Nat) (off : Word) (data : List Byte) (hdr : Word)
  | unsupported (p : Nat)
  | transport (p id : Nat)
  | sample (junctions : List Nat) (inlet outlet : Nat) (flowOk : Bool) (watts : Nat)
  | packet (k : PeerPacket)
  /-- Round data for a slot of a core; the message names the sender's entry. -/
  | round (src : PeerSrc) (core slot : Nat) (m : RMsg)
  deriving DecidableEq, Repr

/-- What leaves the device: replies of the controller, host completions and packets to peers. -/
inductive Out where
  | accepted
  | refused
  | hostDone
  | hostError
  | unsupportedError
  | hostData (bytes : List Byte)
  | counters (vals : List (Nat × Word))
  | attest (nonce : BitVec 512) (slotB : Bool) (version svn : Nat) (m : BitVec 512) (layout : List (List Nat)) (sig : BitVec 512)
  | packet (part peer kind : Nat) (word peerWord : Word) (lines : List Vec)
  | round (part peer core slot : Nat) (m : RMsg)
  deriving DecidableEq, Repr

/-- An event-log record (R432). -/
structure LogRec where
  time : Word
  code : BitVec 16
  part : BitVec 2
  loc : BitVec 16
  data : BitVec 400
  deriving DecidableEq, Repr

/-- What the controller assigns a partition and its endpoint (R419); PIDonFEP 0 names no endpoint. -/
structure Endpoint where
  jobid : BitVec 24 := 0
  pid : BitVec 12 := 0
  deriving DecidableEq, Repr

/-- The Shusosar controller (R427 to R432). `slotB` of `pending` and `active` names slot B; `ports` are the fabric addresses of the
16 ports, `endpoints` what each partition is assigned. -/
structure Controller where
  slotA : FlashImage := {}
  slotB : FlashImage := {}
  pending : Option Bool := none
  attempted : Bool := false
  active : Option Bool := none
  minSvn : Nat := 0
  meas : BitVec 512 := 0
  bootAt : Nat := 0
  next : Nat := 0
  ready : Bool := false
  halted : Bool := false
  layout : List (List Nat) := [[0, 1, 2, 3]]
  seq : Word := 0
  log : List LogRec := []
  overwritten : Nat := 0
  watts : List Nat := []
  sampleAt : Nat := 0
  lastSample : Option (List Nat × Nat × Nat × Bool × Nat) := none
  overAt : Nat := 0
  pqueues : Tab (BitVec 256) := []
  ports : List (BitVec 128) := []
  endpoints : List Endpoint := []
  deriving DecidableEq, Repr

/-! ## The whole machine -/

/-- Which agent moves next (log 1): a hart issues one head, an event is performed at a place with a number, or the timebase
counts one cycle; `fetch` reads an 8-byte unit of the line at `pc` for a running hart ahead of its first head (R124). -/
inductive Turn where
  | issue (h : Hart)
  | fetch (h : Hart) (pc : Word) (unit : Nat)
  | event (i : Instr) (place number : Nat)
  | tick
  deriving DecidableEq, Repr

structure State where
  /-- Model's own: the turns to come, the place and number of the present turn, the pointer of the default policy, and the
  counter that numbers fabric items and free values (log 1). -/
  agenda : List Turn := []
  cur : Nat := 0
  arg : Nat := 0
  rr : Nat := 0
  fresh : Nat := 1
  /-- The flue timebase (R378). -/
  now : Nat := 0
  mem : List Host.Cell := []
  threads : Tab Thread := []
  clusters : Tab Cluster := []
  cores : Tab Core := []
  dram : Tab Stack := []
  hqueue : Tab (List HCmd) := []
  jobs : Tab (Option Job) := []
  queries : List Query := []
  net : List Msg := []
  gangs : Tab (Option Gang) := []
  tasks : List Task := []
  accno : Nat := 0
  dies : Tab Die := []
  parts : Tab Part := []
  vers : Tab (List VSlot) := []
  /-- By tile, the STEPs whose slot was freed and that no slot holds (R366). -/
  gone : Tab (List Nat) := []
  groups : Tab Group := []
  ctrl : Controller := {}
  inbox : List Input := []
  outbox : List Out := []
  deriving DecidableEq, Repr

/-- Why the model stops where the manual gives no effect. -/
inductive Fault where
  /-- `step`, when the module has shut down or halted at boot (R428, R430): nothing issues any more. Safe: the hardware does
  nothing either. -/
  | moduleOff
  deriving DecidableEq, Repr

/-- Why the model does not go on. -/
inductive Refusal where
  /-- `exec`, for an instruction that has no meaning yet, by its mnemonic. Safe: nothing is claimed of it. -/
  | notModelled (mnemonic : String)
  deriving DecidableEq, Repr

/-- The module right after power is applied, before the ROM runs: every field at the value its rule gives, and at the value
log 3 to 5 name where a rule gives none. -/
def State.reset : State := {}

end Sys2Proof.Machine
end

