-- ==== Sys2Proof/Machine/Ops.lean ====
section
/-! DEFINITION. Named operations over tables, memory, registers, address words, translation, chunks and traps, which every
meaning uses. Taking an exception (`takeTrap`) and the return from one (`trapReturn`) stand at the end. -/

namespace Sys2Proof.Machine

/-! ## Sparse tables -/

/-- The entry of key `k`, or the default. -/
def Tab.get {α : Type} (d : α) (t : Tab α) (k : Nat) : α :=
  match t with
  | [] => d
  | (a, x) :: r => if a = k then x else Tab.get d r k

/-- Without any entry of key `k`. -/
def Tab.erase {α : Type} (t : Tab α) (k : Nat) : Tab α := t.filter (fun e => e.1 != k)

/-- Insert before the first greater key. -/
def Tab.insert {α : Type} (t : Tab α) (k : Nat) (x : α) : Tab α :=
  match t with
  | [] => [(k, x)]
  | (a, y) :: r => if k < a then (k, x) :: (a, y) :: r else (a, y) :: Tab.insert r k x

/-- Write `x` at `k`; writing the default removes the entry. -/
def Tab.set {α : Type} [DecidableEq α] (d : α) (t : Tab α) (k : Nat) (x : α) : Tab α :=
  if x = d then Tab.erase t k else Tab.insert (Tab.erase t k) k x

/-- The canonical form: keys strictly rising, no entry equal to the default. -/
def Tab.wf {α : Type} [DecidableEq α] (d : α) (t : Tab α) : Bool :=
  match t with
  | [] => true
  | (a, x) :: r => (x != d) && r.all (fun e => a < e.1) && Tab.wf d r

/-! ## Bytes (R2: the lowest address holds the least significant byte) -/

/-- Little-endian value of bytes. -/
def leNat : List Byte → Nat
  | [] => 0
  | b :: r => b.toNat + 256 * leNat r

/-- The low `n` bytes of `v`, least significant first. -/
def leBytes : Nat → Nat → List Byte
  | 0, _ => []
  | n + 1, v => BitVec.ofNat 8 v :: leBytes n (v / 256)

/-- `n` bytes of a vector from byte `i`. -/
def vecBytes (v : Vec) (i n : Nat) : List Byte := (List.range n).map (fun k => v.extractLsb' (8 * (i + k)) 8)
def bytesVec (l : List Byte) : Vec := BitVec.ofNat 512 (leNat l)

/-! ## Memory: one list of bytes over one key space

Keys below 2^40 are on-chip addresses (R59). Stack memory of stack `st`, version slot `slot`, stack-physical address `pa` is
`2^40 + (slot * 8 + st) * 2^36 + pa` (R14, R306, R368); slot 0 is the frame itself. The data memories of the hob units follow
from 2^43 on. -/

/-- What a byte that nothing has written reads as (log 2). -/
def Memory.blank : Byte := 0
def Memory.get (m : List Host.Cell) (k : Nat) : Byte := Tab.get Memory.blank m k
def Memory.set (m : List Host.Cell) (k : Nat) (b : Byte) : List Host.Cell := Tab.set Memory.blank m k b
/-- The canonical form of memory. -/
def Memory.wf (m : List Host.Cell) : Bool := Tab.wf Memory.blank m
def Memory.read (m : List Host.Cell) (k n : Nat) : List Byte := (List.range n).map (fun i => Memory.get m (k + i))
def Memory.write (m : List Host.Cell) (k : Nat) : List Byte → List Host.Cell
  | [] => m
  | b :: r => Memory.write (Memory.set m k b) (k + 1) r

def stackKey (slot st pa : Nat) : Nat := 2 ^ 40 + (slot * 8 + st) * 2 ^ 36 + pa
def isStackKey (k : Nat) : Bool := 2 ^ 40 ≤ k && k < 2 ^ 43
/-- Byte `off` of the data memory of hob unit `u` (96 * stack + number, R337). -/
def hobKey (u off : Nat) : Nat := 2 ^ 43 + u * 8192 + off
def isHobKey (k : Nat) : Bool := 2 ^ 43 ≤ k
/-- Hob unit of a data-memory key. -/
def keyHob (k : Nat) : Nat := (k - 2 ^ 43) / 8192
def keyStack (k : Nat) : Nat := (k - 2 ^ 40) / 2 ^ 36 % 8
/-- The 64-byte line of a key. -/
def lineOf (k : Nat) : Nat := k / 64
/-- The lines that `n` bytes from `k` touch. -/
def linesOf (k n : Nat) : List Nat := if n = 0 then [] else (List.range ((k + n - 1) / 64 - k / 64 + 1)).map (fun i => k / 64 + i)

/-! ## Harts (R9, R15) -/

inductive HartKind where
  | core
  | stoker
  | hob
  deriving DecidableEq, Repr

def coreHart (cl core ts : Nat) : Hart := (cl * 8 + core) * 4 + ts
def stokerHart (sk ts : Nat) : Hart := 12288 + sk * 16 + ts
def hobHart (st pc : Nat) : Hart := 13824 + st * 96 + pc
def kindOf (h : Hart) : HartKind := if h < 12288 then .core else if h < 13824 then .stoker else .hob
/-- Cluster (0 to 383), core (0 to 3071) and thread set of a core hart. -/
def hartCl (h : Hart) : Nat := h / 32
def hartCore (h : Hart) : Nat := h / 4
def hartTs (h : Hart) : Nat := h % 4
/-- Stoker (0 to 95) of a stoker hart. -/
def hartSk (h : Hart) : Nat := (h - 12288) / 16
/-- Stack of a stoker hart or hob unit. -/
def hartStack (h : Hart) : Nat := if h < 13824 then hartSk h / 12 else (h - 13824) / 96
def hartDie (h : Hart) : Nat := if h < 12288 then h / 3072 else hartStack h / 2
/-- The arbiter of a hart: its cluster, or 384 + its stack (R70, R74). -/
def arbOf (h : Hart) : Nat := if h < 12288 then hartCl h else 384 + hartStack h
/-- LOC of a trap record (R115). -/
def hartLoc (h : Hart) : BitVec 16 :=
  if h < 12288 then BitVec.ofNat 16 (hartDie h * 8192 + hartCl h % 96 * 64 + hartCore h % 8 * 8 + hartTs h)
  else BitVec.ofNat 16 (32768 + hartStack h * 4096 + hartSk h % 12 * 256)

/-! ## Access to the tables of State -/

def State.thread (s : State) (h : Hart) : Thread := Tab.get {} s.threads h
def State.setThread (s : State) (h : Hart) (t : Thread) : State := { s with threads := Tab.set {} s.threads h t }
def State.me (s : State) : Thread := s.thread s.cur
def State.setMe (s : State) (t : Thread) : State := s.setThread s.cur t
def State.cluster (s : State) (cl : Nat) : Cluster := Tab.get {} s.clusters cl
def State.setCluster (s : State) (cl : Nat) (c : Cluster) : State := { s with clusters := Tab.set {} s.clusters cl c }
def State.core (s : State) (k : Nat) : Core := Tab.get {} s.cores k
def State.setCore (s : State) (k : Nat) (c : Core) : State := { s with cores := Tab.set {} s.cores k c }
def State.stack (s : State) (st : Nat) : Stack := Tab.get {} s.dram st
def State.setStack (s : State) (st : Nat) (x : Stack) : State := { s with dram := Tab.set {} s.dram st x }
def State.die (s : State) (d : Nat) : Die := Tab.get {} s.dies d
def State.setDie (s : State) (d : Nat) (x : Die) : State := { s with dies := Tab.set {} s.dies d x }
def State.part (s : State) (p : Nat) : Part := Tab.get {} s.parts p
def State.setPart (s : State) (p : Nat) (x : Part) : State := { s with parts := Tab.set {} s.parts p x }
def State.job (s : State) (h : Hart) : Option Job := Tab.get none s.jobs h
def State.setJob (s : State) (h : Hart) (j : Option Job) : State := { s with jobs := Tab.set none s.jobs h j }
def State.gang (s : State) (g : Nat) : Option Gang := Tab.get none s.gangs g
def State.setGang (s : State) (g : Nat) (x : Option Gang) : State := { s with gangs := Tab.set none s.gangs g x }
/-- Group `gid` as the damper of die `d` holds it. -/
def groupKey (d gid : Nat) : Nat := d * 65536 + gid
def State.group (s : State) (k : Nat) : Group := Tab.get {} s.groups k
def State.setGroup (s : State) (k : Nat) (g : Group) : State := { s with groups := Tab.set {} s.groups k g }
def State.task (s : State) (acc : Nat) : Option Task := s.tasks.find? (fun t => t.acc == acc)
def State.setTask (s : State) (t : Task) : State :=
  { s with tasks := s.tasks.map (fun u => if u.acc == t.acc then t else u) }
def Core.chan (c : Core) (n : Nat) : Chan := Tab.get {} c.chans n
def Core.setChan (c : Core) (n : Nat) (x : Chan) : Core := { c with chans := Tab.set {} c.chans n x }
def Core.slot (c : Core) (n : Nat) : Slot := Tab.get {} c.slots n
def Core.setSlot (c : Core) (n : Nat) (x : Slot) : Core := { c with slots := Tab.set {} c.slots n x }
def Core.arrivals (c : Core) (n : Nat) : List ArrEntry := Tab.get [] c.arr n
def Core.setArrivals (c : Core) (n : Nat) (l : List ArrEntry) : Core := { c with arr := Tab.set [] c.arr n l }
def State.chan (s : State) (core n : Nat) : Chan := (s.core core).chan n
def State.setChan (s : State) (core n : Nat) (x : Chan) : State := s.setCore core ((s.core core).setChan n x)
def State.slot (s : State) (core n : Nat) : Slot := (s.core core).slot n
def State.setSlot (s : State) (core n : Nat) (x : Slot) : State := s.setCore core ((s.core core).setSlot n x)
def Cluster.tile (c : Cluster) (t : Nat) : TileMeta := Tab.get {} c.tiles t
def Cluster.setTile (c : Cluster) (t : Nat) (x : TileMeta) : Cluster := { c with tiles := Tab.set {} c.tiles t x }
def Cluster.counter (c : Cluster) (i : Nat) : Word := Tab.get 0 c.counters i
def Cluster.setCounter (c : Cluster) (i : Nat) (w : Word) : Cluster := { c with counters := Tab.set 0 c.counters i w }

/-! ## Management counters (R431), by number within their unit -/

def cSquash := 0
def cBadCtl := 1
def cBreak := 2
def cMnf := 3
def cRerun := 4
def cSpoiledTile := 5
def cEc8 := 6
def cSparse := 7
def cAddendRefused := 8
def cAppendRefused := 9
def cLateMsg := 10
def cLateDropped := 11
def cSpoiledContrib := 12
/-- Stack counters: absent-table, range, bad-entry, table-dropped. -/
def kAbsent := 0
def kRange := 1
def kBadEntry := 2
def kDropped := 3
/-- Partition counters. -/
def pBadRecord := 0
def pOverdue := 1
def pStale := 2
def pRefusedReq := 3
def pTransport := 4
def pPeerDropped := 5
def pRefusedMsg := 6
def pLost := 7

def bump (t : Tab Word) (n k : Nat) : Tab Word := Tab.set 0 t n (Tab.get 0 t n + BitVec.ofNat 64 k)
def State.countCl (s : State) (cl n k : Nat) : State :=
  s.setCluster cl { s.cluster cl with stat := bump (s.cluster cl).stat n k }
def State.countStack (s : State) (st n k : Nat) : State :=
  s.setStack st { s.stack st with stat := bump (s.stack st).stat n k }
def State.countPart (s : State) (p n : Nat) : State := s.setPart p { s.part p with stat := bump (s.part p).stat n 1 }

/-- An event-log record (R432): the ring keeps the latest 4,096. -/
def State.logEvent (s : State) (code part loc : Nat) : State :=
  let r : LogRec := { time := BitVec.ofNat 64 s.now, code := BitVec.ofNat 16 code, part := BitVec.ofNat 2 part,
                      loc := BitVec.ofNat 16 loc, data := Config.logData (s.ctrl.overwritten + s.ctrl.log.length) }
  let l := s.ctrl.log ++ [r]
  { s with ctrl := { s.ctrl with log := l.drop (l.length - 4096)
                                 overwritten := s.ctrl.overwritten + (l.length - 4096) } }

/-! ## Registers (R86 to R88) -/

/-- s0 reads zero. -/
def Regs.getS (r : Regs) (n : Reg) : Word := if n = 0#5 then 0 else r.s.get n.toFin
/-- Writes to s0 are discarded. -/
def Regs.setS (r : Regs) (n : Reg) (w : Word) : Regs := if n = 0#5 then r else { r with s := r.s.set n.toNat w n.isLt }
def Regs.getV (r : Regs) (n : Reg) : Vec := r.v.get n.toFin
def Regs.setV (r : Regs) (n : Reg) (x : Vec) : Regs := { r with v := r.v.set n.toNat x n.isLt }
/-- m0 reads all ones. Mask fields are below 8 in a well-formed instruction; the low three bits select. -/
def Regs.getM (r : Regs) (n : Nat) : Word := if n % 8 = 0 then BitVec.allOnes 64 else r.m.get ⟨n % 8, Nat.mod_lt n (by decide)⟩
/-- Writes to m0 are discarded. -/
def Regs.setM (r : Regs) (n : Nat) (w : Word) : Regs :=
  if n % 8 = 0 then r else { r with m := r.m.set (n % 8) w (Nat.mod_lt n (by decide)) }

def State.rs (s : State) (n : Reg) : Word := s.me.regs.getS n
def State.ws (s : State) (n : Reg) (w : Word) : State := s.setMe { s.me with regs := s.me.regs.setS n w }
def State.setRegs (s : State) (r : Regs) : State := s.setMe { s.me with regs := r }

/-! ## Partitions (R23) -/

/-- The partition that holds die `d`: its place in the layout. -/
def State.partOfDie (s : State) (d : Nat) : Nat := (s.ctrl.layout.findIdx (fun l => l.contains d))
def State.dieIn (s : State) (p d : Nat) : Bool := ((s.ctrl.layout[p]?).getD []).contains d
/-- The stack lies in the partition: its die does (R14, R23). -/
def State.stackIn (s : State) (p st : Nat) : Bool := s.dieIn p (st / 2)
def State.lowDie (s : State) (p : Nat) : Nat := (((s.ctrl.layout[p]?).getD []).min?).getD 0

/-! ## Address words (R57 to R64) -/

/-- On-chip form: bits 63 and 62 to 40 are zero (R57). -/
def isOA (w : Word) : Bool := w.toNat < 2 ^ 40
/-- Virtual form: bit 63 set, bits 62 to 57 zero (R57). -/
def isVA (w : Word) : Bool := 2 ^ 63 ≤ w.toNat && w.toNat < 2 ^ 63 + 2 ^ 57
/-- Either form of R57. -/
def isAddr (w : Word) : Bool := isOA w || isVA w
/-- VA of a virtual-form word, 57 bits. -/
def vaOf (w : Word) : Nat := w.toNat % 2 ^ 57
/-- Home stack, VA[56:54] (R64). -/
def vaStack (va : Nat) : Nat := va / 2 ^ 54
def vaWord (va : Nat) : Word := BitVec.ofNat 64 (2 ^ 63 + va)

def oaDie (oa : Nat) : Nat := oa / 2 ^ 38
def oaCluster (oa : Nat) : Nat := oa / 2 ^ 31 % 128
/-- Cluster 0 to 383 of an on-chip address. -/
def oaCl (oa : Nat) : Nat := 96 * oaDie oa + oaCluster oa
def oaRegion (oa : Nat) : Nat := oa / 2 ^ 27 % 16
def oaOff (oa : Nat) : Nat := oa % 2 ^ 27
def mkOA (cl region off : Nat) : Nat := (cl / 96) * 2 ^ 38 + (cl % 96) * 2 ^ 31 + region * 2 ^ 27 + off

/-- What lies at an on-chip address (R60, R62). -/
inductive Space where
  | scratch
  | acc
  | kindling
  | counter
  | wt
  | ctl
  | window
  deriving DecidableEq, Repr

/-- Scratchpad bytes (R9, R60). -/
def spadSize : Nat := 0x7C000

/-- The contents at an on-chip address, none where R63 finds nothing there. -/
def oaSpace (oa : Nat) : Option Space :=
  let off := oaOff oa
  if 96 ≤ oaCluster oa then none
  else if oaRegion oa < 8 then
    if off < spadSize then some .scratch
    else
      let w := off % 0x10000
      if 0x1000000 ≤ off && off < 0x1040000 &&
          (w < 0x100 || (0x1000 ≤ w && w < 0x1800) || (0x2000 ≤ w && w < 0x2040) || (0x3000 ≤ w && w < 0x3100))
      then some .window else none
  else if oaRegion oa = 8 then (if off < 0x80000 then some .acc else none)
  else if oaRegion oa = 9 then
    (if off < 0x2010 || (0x2080 ≤ off && off < 0x2100) then some .kindling else none)
  else if oaRegion oa = 10 then
    (if off < 0x800 then some .counter else if 0x1000 ≤ off && off < 0x3000 then some .wt else none)
  else if oaRegion oa = 11 then (if off < 0x18 then some .ctl else none)
  else none

/-- The unit that a run of bytes may not leave: region or core window, and register window (R63). -/
def oaUnit (oa : Nat) : Nat × Nat :=
  (oa / 2 ^ 27, if oaRegion oa < 8 && 0x1000000 ≤ oaOff oa then oaOff oa / 0x10000 + 1 else 0)

/-- `n` bytes at `oa` all exist, in one unit and one kind of space, on a die of partition `p` (R25, R63). -/
def State.oaOk (s : State) (p oa n : Nat) : Bool :=
  oa + n ≤ 2 ^ 40 && s.dieIn p (oaDie oa) &&
  (List.range n).all (fun i => (oaSpace (oa + i)).isSome && oaSpace (oa + i) == oaSpace oa && oaUnit (oa + i) == oaUnit oa)

/-- `n` bytes at an on-chip word lie in one scratchpad below 0x7_C000 of partition `p`. -/
def State.inSpad (s : State) (p : Nat) (w : Word) (n : Nat) : Bool :=
  isOA w && s.dieIn p (oaDie w.toNat) && oaCluster w.toNat < 96 && oaRegion w.toNat < 8 && oaOff w.toNat + n ≤ spadSize

/-- The core (0 to 3071) whose window holds an on-chip address. -/
def oaCore (oa : Nat) : Nat := oaCl oa * 8 + oaRegion oa
/-- Key of byte `off` of a tile file, and of a scratchpad byte of a core. -/
def accKey (cl off : Nat) : Nat := mkOA cl 8 off
def spadKey (core off : Nat) : Nat := mkOA (core / 8) (core % 8) off

/-! ## Control registers (R90 to R101) -/

/-- SPSAVE as it reads (R98). -/
def spsave (r : Regs) : Word :=
  match Tab.get none r.streams r.ctl.spsel.toNat with
  | none => r.ctl.spsel.setWidth 64
  | some b => BitVec.ofNat 64 (r.ctl.spsel.toNat + 256 + (if b.arrival then 512 else 0) + (b.count % 2 ^ 40) * 65536)

/-- A per-thread-set control register by number (R90). -/
def Regs.getCtl (r : Regs) (n : Nat) : Word :=
  match n with
  | 0 => r.ctl.fmta | 1 => r.ctl.fmtb | 2 => r.ctl.fmtc
  | 3 => r.ctl.scla | 4 => r.ctl.sclb | 5 => r.ctl.sclc
  | 6 => r.ctl.flags.setWidth 64
  | 7 => r.ctl.trapen.setWidth 64
  | 8 => r.ctl.pdead.setWidth 64
  | 9 => spsave r
  | _ => 0

/-- The reserved bits of control register `n`, which a write must leave zero (R91, R93 to R101). -/
def ctlReserved (n : Nat) : Word :=
  match n with
  | 0 | 1 | 2 => 0xFFFF80
  | 3 | 4 | 5 => 0xFFFFFC
  | 6 => ~~~0x3F#64
  | 7 => ~~~0x7#64
  | 8 => ~~~0xFFFFFF#64
  | 9 => 0xFF0000000000FCF8
  | 16 | 17 => 0xFFFFFFFF00000000
  | 18 => ~~~0x3FFF#64
  | _ => 0

/-- Write a per-thread-set control register whose reserved bits are zero; read-only fields are ignored. -/
def Regs.setCtl (r : Regs) (n : Nat) (w : Word) : Regs :=
  match n with
  | 0 => { r with ctl := { r.ctl with fmta := w } }
  | 1 => { r with ctl := { r.ctl with fmtb := w } }
  | 2 => { r with ctl := { r.ctl with fmtc := w } }
  | 3 => { r with ctl := { r.ctl with scla := w } }
  | 4 => { r with ctl := { r.ctl with sclb := w } }
  | 5 => { r with ctl := { r.ctl with sclc := w } }
  | 6 => { r with ctl := { r.ctl with flags := w.setWidth 6 } }
  | 7 => { r with ctl := { r.ctl with trapen := w.setWidth 3 } }
  | 8 => { r with ctl := { r.ctl with pdead := if w.toNat < 256 then 256 else w.setWidth 24 } }
  | 9 => { r with ctl := { r.ctl with spsel := w.setWidth 3 } }
  | _ => r

/-- MWGT: a weight written 0 is stored as 1 (R99). -/
def mwgtStored (w : Word) : Word :=
  BitVec.ofNat 64 ((List.range 8).foldl (fun a k => a + (let x := w.toNat / 16 ^ k % 16; if x = 0 then 1 else x) * 16 ^ k) 0)
/-- CHKTOL: a NaN or a value below -0 is stored as the reset value (R100). -/
def chktolStored (w : Word) : Word :=
  let v := w.toNat
  if 0x80000000 < v || (0x7F800000 < v && v < 0x80000000) then 0x37800000 else w
/-- KNWIN as it reads (R101). -/
def Kindling.knwin (k : Kindling) : Word :=
  match k.owner with
  | none => k.w.setWidth 64
  | some h => BitVec.ofNat 64 (k.w.toNat + hartCore h % 8 * 256 + hartTs h * 2048 + 8192)
/-- A cluster control register, 16 to 18. -/
def Cluster.getCtl (c : Cluster) (n : Nat) : Word :=
  match n with
  | 16 => c.mwgt
  | 17 => c.chktol
  | 18 => c.kn.knwin
  | _ => 0
def Cluster.setCtl (c : Cluster) (n : Nat) (w : Word) : Cluster :=
  match n with
  | 16 => { c with mwgt := mwgtStored w }
  | 17 => { c with chktol := chktolStored w }
  | 18 => { c with kn := { c.kn with w := if w.setWidth 8 = 0#8 then 1 else w.setWidth 8 } }
  | _ => c

/-! ## Register windows (R60, R61) -/

/-- A byte of a register window at offset `off` (R60). Offsets 0x3050 to 0x30FF read zero (R90). -/
def windowByte (r : Regs) (off : Nat) : Byte :=
  if off < 0x100 then (r.getS (BitVec.ofNat 5 (off / 8))).extractLsb' (8 * (off % 8)) 8
  else if off < 0x1800 then (r.getV (BitVec.ofNat 5 ((off - 0x1000) / 64))).extractLsb' (8 * (off % 64)) 8
  else if off < 0x2040 then (r.getM ((off - 0x2000) / 8)).extractLsb' (8 * (off % 8)) 8
  else (r.getCtl ((off - 0x3000) / 8)).extractLsb' (8 * (off % 8)) 8

/-- Replace the bytes of `old` (a number of `n` bytes at `base`) that a store at `key` covers. -/
def mergeBytes (old n base key : Nat) (bytes : List Byte) : Nat :=
  leNat ((List.range n).map (fun i =>
    if key ≤ base + i && base + i < key + bytes.length then (bytes[base + i - key]?).getD 0
    else BitVec.ofNat 8 (old / 256 ^ i)))

/-- A store of 8 or 64 bytes lands in a register window; the second result says that a reserved control bit discarded it. -/
def windowStore (r : Regs) (off : Nat) (bytes : List Byte) : Regs × Bool :=
  let w : Word := BitVec.ofNat 64 (leNat bytes)
  if off < 0x100 then (r.setS (BitVec.ofNat 5 (off / 8)) w, false)
  else if off < 0x1800 then
    let n : Reg := BitVec.ofNat 5 ((off - 0x1000) / 64)
    (r.setV n (BitVec.ofNat 512 (mergeBytes (r.getV n).toNat 64 (off / 64 * 64) off bytes)), false)
  else if off < 0x2040 then (r.setM ((off - 0x2000) / 8) w, false)
  else
    let n := (off - 0x3000) / 8
    if n ≤ 9 then (if w &&& ctlReserved n = 0 then (r.setCtl n w, false) else (r, true)) else (r, false)

/-- The continuation it holds has STATUS 2: it runs, or stands halted (R207), where a pre-emption mark keeps counting (DEDUCED,
log 32). -/
def Thread.live (t : Thread) : Bool := t.run == .running || t.run == .halted
/-- The registers a window load sees: those of the last chunk boundary while running (R61), as kept while parked or halted. -/
def Thread.windowRegs (t : Thread) : Regs := if t.run = .running then t.chunk.begun else t.regs

/-! ## Lines that others write (R69) -/

/-- Lines written at arbiter `a` count against every other open chunk there (R69). -/
def State.noteLines (s : State) (a : Nat) (lines : List Nat) (by' : Hart) : State :=
  { s with threads := s.threads.map (fun e =>
      if e.1 != by' && arbOf e.1 == a && e.2.run == .running && e.2.chunk.executed != 0 then
        (e.1, { e.2 with chunk := { e.2.chunk with seen := lines ++ e.2.chunk.seen } })
      else e) }

/-- The offset of a line in the register window of core hart `h`. -/
def winOff (h : Hart) (l : Nat) : Option Nat :=
  let b := mkOA (hartCl h) (hartCore h % 8) (0x1000000 + hartTs h * 0x10000)
  if b ≤ 64 * l && 64 * l < b + 0x10000 then some (64 * l - b) else none
/-- The registers that the window of core hart `h` shows have changed, in the lines at the offsets that `moved` names: they count
against every other open chunk of the cluster that has read them (R61, R69, R70). -/
def State.noteWindow (s : State) (h : Hart) (moved : Nat → Bool) : State :=
  if kindOf h ≠ .core then s
  else { s with threads := s.threads.map (fun e =>
    if e.1 != h && arbOf e.1 == arbOf h && e.2.run == .running && e.2.chunk.executed != 0 then
      (e.1, { e.2 with chunk := { e.2.chunk with seen := e.2.chunk.rlines.filter (fun l => (winOff h l).any moved) ++ e.2.chunk.seen } })
    else e) }
/-- The 64-byte line at offset `off` of a register window differs between two sets of registers. -/
def windowDiffers (r q : Regs) (off : Nat) : Bool := (List.range 64).any (fun i => windowByte r (off + i) != windowByte q (off + i))

/-- The hart number under which a device unit writes: no thread set has it. -/
def deviceHart : Hart := 16384

/-! ## Waiting-task entries (R374, R375) and counters -/

/-- 64-bit word `j` of an entry. -/
def WtEntry.word (e : WtEntry) (j : Nat) : Word :=
  match j with
  | 0 => e.launchblk
  | 1 => e.thresh
  | 2 => BitVec.ofNat 64 (e.cnt.toNat + (if e.armed then 256 else 0) + e.gen.toNat * 65536 + e.fired.toNat * 2 ^ 32)
  | _ => 0

def Cluster.entry (c : Cluster) (e : Nat) : WtEntry := Tab.get {} c.wt e
def Cluster.setEntry (c : Cluster) (e : Nat) (x : WtEntry) : Cluster := { c with wt := Tab.set {} c.wt e x }

/-- A launch is handed to the grate of a die (R365). -/
def State.offer (s : State) (d : Nat) (l : Launch) : State :=
  s.setDie d { s.die d with offers := (s.die d).offers ++ [l] }

/-- An entry fires (R375): it disarms, counts and hands LAUNCHBLK to the grate of its die, as one access of the cluster order
(R70). -/
def fireEntry (s : State) (cl e : Nat) : State :=
  let s := s.noteLines cl [lineOf (mkOA cl 10 (0x1000 + 32 * e))] deviceHart
  let x := (s.cluster cl).entry e
  let s := s.setCluster cl ((s.cluster cl).setEntry e { x with armed := false, fired := x.fired + 1 })
  s.offer (cl / 96) { lb := x.launchblk, part := s.partOfDie (cl / 96), group := none }

/-- Fire entry `e` when it is armed and its counter has reached its threshold. -/
def evalEntry (s : State) (cl e : Nat) : State :=
  let x := (s.cluster cl).entry e
  if x.armed && x.thresh.toNat ≤ ((s.cluster cl).counter x.cnt.toNat).toNat then fireEntry s cl e else s

/-- Evaluate the entries of counter `i` in increasing number (R45, R375). -/
def evalEntries (s : State) (cl i : Nat) : State :=
  ((s.cluster cl).wt.filter (fun e => e.2.cnt.toNat == i)).foldl (fun s e => evalEntry s cl e.1) s

/-- A strong store leaves `w` in word `j` of entry `e` (R375). -/
def wtStore (s : State) (cl e j : Nat) (w : Word) : State :=
  let c := s.cluster cl
  let x := c.entry e
  let bad := s.countCl cl cBadCtl 1
  match j with
  | 0 => if x.armed then bad else s.setCluster cl (c.setEntry e { x with launchblk := w })
  | 1 => if x.armed then bad else s.setCluster cl (c.setEntry e { x with thresh := w })
  | 2 =>
    if w.extractLsb' 9 7 ≠ 0#7 then bad
    else
      let x := { x with cnt := w.extractLsb' 0 8, gen := w.extractLsb' 16 16, armed := w.getLsbD 8 }
      let c := c.setEntry e x
      if x.armed then
        evalEntry (s.setCluster cl { c with cgen := Tab.set 0 c.cgen x.cnt.toNat x.gen }) cl e
      else s.setCluster cl c
  | _ => if w = 0 then s else bad

/-- Counter `i` takes a value: a record whose WAITC condition it meets is latched as met (R198). -/
def State.putCounter (s : State) (cl i : Nat) (w : Word) : State :=
  let key := mkOA cl 10 (8 * i)
  let s := s.setCluster cl ((s.cluster cl).setCounter i w)
  { s with parts := s.parts.map (fun (p : Nat × Part) => (p.1, { p.2 with
      waiting := p.2.waiting.map (fun e => if e.counter == key && e.thresh.toNat ≤ w.toNat then { e with met := true } else e) })) }

/-- A strong increment of counter `i` that evaluates the entries: PUTC, counted host writes, trap-queue increments (R45). -/
def countUp (s : State) (cl i : Nat) : State :=
  evalEntries (s.putCounter cl i ((s.cluster cl).counter i + 1)) cl i
/-- A strong increment that evaluates no entry (R214), one access of the cluster order (R70): NOTIFY of jobs, rounds and tiles. -/
def notifyUp (s : State) (cl i : Nat) : State :=
  (s.noteLines cl [lineOf (mkOA cl 10 (8 * i))] deviceHart).putCounter cl i ((s.cluster cl).counter i + 1)

/-! ## One access at its arbiter (R70, R73, R74) -/

/-- The arbiter that orders accesses to a key: the cluster, or 384 + the stack. -/
def arbOfKey (k : Nat) : Nat :=
  if isHobKey k then 384 + keyHob k / 96 else if isStackKey k then 384 + keyStack k else oaCl k

/-- A byte as the arbiter's order has it: every kind of on-chip location, and stack memory. An idle thread set's registers
are discarded (R33), so a window load from one reads a free value (log 14). -/
def State.byteAt (s : State) (k : Nat) : Byte :=
  if isHobKey k then Tab.get 0 (Tab.get {} (s.stack (keyHob k / 96)).hobs (keyHob k % 96)).data (k % 8192)
  else if isStackKey k then Memory.get s.mem k
  else match oaSpace k with
  | some .scratch | some .acc => Memory.get s.mem k
  | some .kindling =>
    let kn := (s.cluster (oaCl k)).kn
    let off := oaOff k
    if off < 0x2000 then (Tab.get (BitVec.allOnes 512) kn.delay (off / 64)).extractLsb' (8 * (off % 64)) 8
    else if off < 0x2010 then kn.modes.extractLsb' (8 * (off - 0x2000)) 8
    else kn.y.extractLsb' (8 * (off - 0x2080)) 8
  | some .counter => ((s.cluster (oaCl k)).counter (oaOff k / 8)).extractLsb' (8 * (k % 8)) 8
  | some .wt =>
    (((s.cluster (oaCl k)).entry ((oaOff k - 0x1000) / 32)).word (oaOff k / 8 % 4)).extractLsb' (8 * (k % 8)) 8
  | some .ctl => ((s.cluster (oaCl k)).getCtl (16 + oaOff k / 8)).extractLsb' (8 * (k % 8)) 8
  | some .window =>
    let t := s.thread (coreHart (oaCl k) (oaRegion k) ((oaOff k - 0x1000000) / 0x10000))
    if t.run = .idle then Config.freeByte ((s.fresh + s.now) * 2 ^ 44 + k) else windowByte t.windowRegs (oaOff k % 0x10000)
  | none => 0

def State.bytesAt (s : State) (k n : Nat) : List Byte := (List.range n).map (fun i => s.byteAt (k + i))
def State.readAt (s : State) (k n : Nat) : Nat := leNat (s.bytesAt k n)

/-- A store lands in the register window of hart `h` (R61, R207): discarded when idle, at once when its chunk has ended for good,
otherwise held for its next chunk boundary. -/
def State.storeWindow (s : State) (h : Hart) (off : Nat) (bytes : List Byte) : State :=
  let t := s.thread h
  match t.run with
  | .idle => s
  | .running => s.setThread h { t with pend := t.pend ++ [{ key := off, data := bytes }] }
  | .parked | .halted | .retiring =>
    let r := windowStore t.regs off bytes
    let s := s.setThread h { t with regs := r.1 }
    if r.2 then s.countCl (hartCl h) cBadCtl 1 else s

/-- A store to the cluster control registers it covers (R91): discarded whole and counted once when it would leave a reserved bit
of one of them set. -/
def storeCtl (s : State) (cl off : Nat) (bytes : List Byte) : State :=
  let c := s.cluster cl
  let regs := (List.range 3).filter (fun j => off < 8 * j + 8 && 8 * j < off + bytes.length)
  let new (j : Nat) : Word := BitVec.ofNat 64 (mergeBytes (c.getCtl (16 + j)).toNat 8 (8 * j) off bytes)
  if regs.all (fun j => new j &&& ctlReserved (16 + j) == 0) then
    s.setCluster cl (regs.foldl (fun c j => c.setCtl (16 + j) (new j)) c)
  else s.countCl cl cBadCtl 1

/-- A store lands in the data memory of a hob unit. -/
def storeHob (s : State) (k : Nat) (bytes : List Byte) : State :=
  let x := s.stack (keyHob k / 96)
  let u := Tab.get {} x.hobs (keyHob k % 96)
  let d := (List.range bytes.length).foldl (fun d i => Tab.set 0 d (k % 8192 + i) ((bytes[i]?).getD 0)) u.data
  s.setStack (keyHob k / 96) { x with hobs := Tab.set {} x.hobs (keyHob k % 96) { u with data := d } }

/-- Write bytes as one access at the key's arbiter. Kindling state takes no store (R62). -/
def State.writeAt (s : State) (by' : Hart) (k : Nat) (bytes : List Byte) : State :=
  let s := s.noteLines (arbOfKey k) (linesOf k bytes.length) by'
  let plain : State := { s with mem := Memory.write s.mem k bytes }
  if isHobKey k then storeHob s k bytes
  else if isStackKey k then plain
  else match oaSpace k with
  | some .scratch | some .acc => plain
  | some .counter =>
    let cl := oaCl k
    let i := oaOff k / 8
    s.putCounter cl i (BitVec.ofNat 64 (mergeBytes ((s.cluster cl).counter i).toNat 8 (8 * i) (oaOff k) bytes))
  | some .wt =>
    let cl := oaCl k
    let o := oaOff k - 0x1000
    wtStore s cl (o / 32) (o / 8 % 4)
      (BitVec.ofNat 64 (mergeBytes (((s.cluster cl).entry (o / 32)).word (o / 8 % 4)).toNat 8 (o / 8 * 8) o bytes))
  | some .ctl => storeCtl s (oaCl k) (oaOff k) bytes
  | some .window =>
    s.storeWindow (coreHart (oaCl k) (oaRegion k) ((oaOff k - 0x1000000) / 0x10000)) (oaOff k % 0x10000) bytes
  | some .kindling | none => s

/-! ## Versions of tiles (R368, R371) -/

/-- At reset slot 0 of every tile is published with ACCNO 0 and STEP 0. -/
def vslotsReset : List VSlot := [.published 0 0, .free, .free, .free]
def State.vslots (s : State) (tile : Nat) : List VSlot := Tab.get vslotsReset s.vers tile
def State.setVslots (s : State) (tile : Nat) (l : List VSlot) : State := { s with vers := Tab.set vslotsReset s.vers tile l }
/-- The STEP of a slot that is held: open or published (R368). -/
def VSlot.step : VSlot → Option Nat
  | .free => none
  | .opened _ st | .published _ st => some st
def VSlot.pubAcc : VSlot → Option Nat
  | .published a _ => some a
  | _ => none
/-- The published slot with the greatest ACCNO below `lim`, if any (R370); every slot counts when `lim` is none. -/
def bestSlot (l : List VSlot) (lim : Option Nat) : Option Nat :=
  ((List.range 4).foldl (fun best k =>
    match (l[k]?).bind VSlot.pubAcc with
    | none => best
    | some a =>
      if (match lim with | some m => decide (a < m) | none => true) then
        match best with
        | some (b : Nat × Nat) => if b.1 < a then some (a, k) else best
        | none => some (a, k)
      else best) (none : Option (Nat × Nat))).map Prod.snd

/-- Which slot an access by the task `acc` uses (R371): none when the task declares the tile read only and would write it. -/
def State.slotFor (s : State) (acc tile : Nat) (write : Bool) : Option Nat :=
  let newest := (bestSlot (s.vslots tile) none).getD 0
  match s.task acc with
  | none => some newest
  | some t =>
    match t.opened.lookup tile with
    | some k => some k
    | none =>
      if write && t.reads.any (fun r => r.1 ≤ tile && tile < r.1 + r.2) then none
      else some ((t.bound.lookup tile).getD newest)

/-! ## Translation (R306 to R310) -/

/-- A translation entry as stored in stack memory (R307). -/
def State.pte (s : State) (st pa : Nat) : Nat := leNat (Memory.read s.mem (stackKey 0 st pa) 8)

inductive Walk where
  | invalid
  | malformed
  | leaf (e : TlbEntry)
  deriving DecidableEq, Repr

/-- The walk from a table at `table` through the levels that are left, each with its shift, number of entries, the size of its
leaf page (0 where no leaf is allowed) and the alignment of the next table (0 at L3). -/
def walkLevels (s : State) (st p va table : Nat) : List (Nat × Nat × Nat × Nat) → Walk
  | [] => .malformed
  | (sh, cnt, page, next) :: rest =>
    let e := s.pte st (table + 8 * (va / 2 ^ sh % cnt))
    let leaf := e / 2 % 2 == 1
    let redir := e / 16 % 2 == 1
    let rstk := e / 32 % 8
    let addr := e / 256 % 2 ^ 28 * 256
    if e % 2 = 0 then .invalid
    else if e / 2 ^ 36 ≠ 0 || (rstk ≠ 0 && !redir) || (redir && (!leaf || addr ≠ 0)) then .malformed
    else if leaf then
      let va0 := va / page * page
      let ent : TlbEntry := { part := p, va := va0, big := page == 2 ^ 21, frame := addr, rd := e / 4 % 2 == 1,
                              wr := e / 8 % 2 == 1, redir := if redir then some rstk else none }
      if page = 0 then .malformed
      else if redir then .leaf ent
      else if addr % page ≠ 0 || addr / 2 ^ 21 % 12 ≠ va % 2 ^ 54 / 2 ^ 21 % 12 then .malformed
      else .leaf ent
    else if next = 0 || addr % next ≠ 0 then .malformed
    else walkLevels s st p va addr rest

def walk (s : State) (st p va : Nat) : Walk :=
  match Tab.get none (s.stack st).troot p with
  | none => .invalid
  | some root => walkLevels s st p va root
      [(39, 262144, 0, 4096), (30, 512, 0, 4096), (21, 512, 2 ^ 21, 256), (16, 32, 2 ^ 16, 0)]

def TlbEntry.size (e : TlbEntry) : Nat := if e.big then 2 ^ 21 else 2 ^ 16
def TlbEntry.covers (e : TlbEntry) (p va : Nat) : Bool := e.part == p && e.va ≤ va && va < e.va + e.size
/-- The access has the permission it needs, a redirect's included (R308). -/
def TlbEntry.allows (e : TlbEntry) (write : Bool) : Bool := if write then e.wr else e.rd

/-- What a translation gives. -/
inductive Xres where
  /-- The key in memory of the addressed byte. -/
  | ok (key : Nat)
  /-- No valid translation (R308). -/
  | bad
  /-- The home stack, or the stack a redirect names, lies outside the partition (R25, R305). -/
  | outside
  | redirect (st : Nat)
  /-- The page is held by a migration (R310). -/
  | held
  /-- A write to a tile the task declares read only (R371). -/
  | readonly
  deriving DecidableEq, Repr

/-- The entry for `va` in the TLB slice of its home stoker on stack `st`, walked and cached when it is not there: only valid
leaf and redirect entries are cached, and a malformed entry is counted (R308) (DESIGN CHOICE, log 11). -/
def State.lookupPage (s : State) (st p va : Nat) (write : Bool) : Option TlbEntry × State :=
  match (s.stack st).tlb.find? (fun e => e.covers p va && e.allows write) with
  | some e => (some e, s)
  | none =>
    match walk s st p va with
    | .invalid => (none, s)
    | .malformed => (none, s.countStack st kBadEntry 1)
    | .leaf e =>
      if e.allows write then
        let x := s.stack st
        (some e, s.setStack st { x with tlb := x.tlb.filter (fun f => !f.covers p va) ++ [e] })
      else (none, s)

/-- Translate one access on stack `st` for partition `p` and task `acc`. `thru` lets it through the hold of a migration. -/
def State.xlateAt (s : State) (st p acc va : Nat) (write : Bool) (thru : Bool := false) : Xres × State :=
  if !s.stackIn p st then (.outside, s)
  else if !thru && (s.stack st).heldPages.any (fun h => h.1 == p && h.2 == va / 2 ^ 16) then (.held, s)
  else match s.lookupPage st p va write with
  | (none, s) => (.bad, s)
  | (some e, s) =>
    match e.redir with
    | some st' => (.redirect st', s)
    | none => match s.slotFor acc (va / 2 ^ 16) write with
      | none => (.readonly, s)
      | some k => (.ok (stackKey k st (e.frame + (va - e.va))), s)

/-- Translate from the home stack, following redirects from stack to stack, at most `n` of them. -/
def State.xlateFrom (s : State) (p acc va : Nat) (write : Bool) (st : Nat) (thru : Bool := false) : Nat → Xres × State
  | 0 => s.xlateAt st p acc va write thru
  | n + 1 =>
    match s.xlateAt st p acc va write thru with
    | (.redirect st', s) => s.xlateFrom p acc va write st' thru n
    | r => r
def State.xlate (s : State) (p acc va : Nat) (write : Bool) (thru : Bool := false) : Xres × State :=
  s.xlateFrom p acc va write (vaStack va) thru 8

/-- The redirect that an access of hart `h` to `va` meets in the TLB slice of the hart's own stoker, on its way from stack `st` on over at
most `n` stacks (R305, R310) (DEDUCED, log 21). -/
def State.redirectVia (s : State) (h : Hart) (p acc va : Nat) (write : Bool) (st : Nat) : Nat → Option Nat
  | 0 => none
  | n + 1 =>
    match (s.xlateAt st p acc va write).1 with
    | .redirect st' => if st * 12 + va % 2 ^ 54 / 2 ^ 21 % 12 = hartSk h then some st' else s.redirectVia h p acc va write st' n
    | _ => none
/-- The first redirect that an access of hart `h` to `n` bytes meets there, if any. -/
def State.redirectFor (s : State) (h : Hart) (p acc va n : Nat) (write : Bool) : Option Nat :=
  (List.range ((va + n - 1) / 2 ^ 16 - va / 2 ^ 16 + 1)).findSome? (fun i =>
    let a := max va ((va / 2 ^ 16 + i) * 2 ^ 16)
    s.redirectVia h p acc a write (vaStack a) 9)

/-- Every page that `n` bytes from `va` touch translates; the key of each page's first byte touched, in order. -/
def State.xlateRange (s : State) (p acc va n : Nat) (write : Bool) (thru : Bool := false) : Except Xres (List (Nat × Nat × Nat)) × State :=
  let pages := (List.range ((va + n - 1) / 2 ^ 16 - va / 2 ^ 16 + 1)).map (fun i =>
    let a := max va ((va / 2 ^ 16 + i) * 2 ^ 16)
    (a, min (va + n) ((va / 2 ^ 16 + i + 1) * 2 ^ 16) - a))
  pages.foldl (fun r x =>
    match r with
    | (.error e, s) => (.error e, s)
    | (.ok l, s) => match s.xlate p acc x.1 write thru with
      | (.ok k, s) => (.ok (l ++ [(k, x.1 - va, x.2)]), s)
      | (e, s) => (.error e, s)) (.ok [], s)

/-- Read and write stack memory by virtual address for a device agent: `none` where a page does not translate. While a migration
holds a page, the access is made on the old frame, which the migration has yet to copy: what queueing and forwarding it gives,
since nothing reads the page in between (R310) (DEDUCED, log 51). Either way the walks leave what they cached and counted (R308). -/
def State.readVA (s : State) (p acc va n : Nat) : Option (List Byte) × State :=
  match s.xlateRange p acc va n false true with
  | (.ok l, s) => (some ((l.map (fun x => s.bytesAt x.1 x.2.2)).flatten), s)
  | (.error _, s) => (none, s)
/-- Whether the bytes are written, and the state after it. -/
def State.writeVA (s : State) (by' : Hart) (p acc va : Nat) (bytes : List Byte) : Bool × State :=
  match s.xlateRange p acc va bytes.length true true with
  | (.ok l, s) => (true, l.foldl (fun s x => s.writeAt by' x.1 ((bytes.drop x.2.1).take x.2.2)) s)
  | (.error _, s) => (false, s)

/-! ## Fetch and the program counter (R118 to R124) -/

/-- What the fetch of a line comes to: its bytes, a wait while a migration holds its page (R310), or no valid translation (R123). -/
inductive Fetched where
  | line (l : Vec)
  | wait
  | fail
  deriving DecidableEq, Repr

/-- Number of the line a PC lies in. -/
def lineNo (pc : Word) : Nat := pc.toNat / 64
/-- A line at `k` as hart `t` fetches it: the 8-byte units its fetch has read already, and the others as they stand (R124). -/
def State.lineBytes (s : State) (t : Thread) (pc : Word) (k : Nat) : Vec :=
  bytesVec ((List.range 8).flatMap (fun u =>
    match t.early.find? (fun e => e.1 == lineNo pc && e.2.1 == u) with
    | some e => leBytes 8 e.2.2.toNat
    | none => s.bytesAt (k + 8 * u) 8))

/-- The line at a PC for hart `h`, with the TLB as the fetch leaves it: the line it holds already, or a fetch (R118, R124). A hob
unit fetches from its overlay (R337) (DEDUCED, log 39). -/
def State.fetchLine (s : State) (h : Hart) (pc : Word) : Fetched × State :=
  match kindOf h with
  | .hob =>
    if 4096 ≤ pc.toNat then (.fail, s)
    else
      let u := Tab.get {} (s.stack (hartStack h)).hobs ((h - 13824) % 96)
      (.line (bytesVec ((List.range 64).map (fun i => Tab.get 0 u.overlay (pc.toNat / 64 * 64 + i)))), s)
  | _ =>
    let t := s.thread h
    match t.line.bind (fun x => if x.1 = lineNo pc then some x.2 else none) with
    | some l => (.line l, s)
    | none =>
      if !isVA pc then (.fail, s)
      else match s.xlate t.cont.part t.cont.acc (vaOf pc / 64 * 64) false with
        | (.ok k, s) => (.line (s.lineBytes t pc k), s)
        | (.held, s) => (.wait, s)
        | (_, s) => (.fail, s)

/-- The stack to whose stoker hart `h` moves before it fetches the line at a PC: the fetch is an access of the hart's own, which a redirect
in its stoker's slice stops (R305). -/
def State.fetchMoves (s : State) (h : Hart) (pc : Word) : Option Nat :=
  let t := s.thread h
  if kindOf h = .stoker && isVA pc && t.line.all (fun x => x.1 != lineNo pc) then
    (s.redirectFor h t.cont.part t.cont.acc (vaOf pc / 64 * 64) 64 false).filter (fun st => s.stackIn t.cont.part st && st != hartStack h)
  else none

/-- The bytes of the line at a PC, where it can be fetched now. -/
def State.lineAt (s : State) (h : Hart) (pc : Word) : Option Vec :=
  match (s.fetchLine h pc).1 with
  | .line l => some l
  | _ => none

/-- Hart `h` has fetched the line of its PC: it issues every head of it from these bytes until control leaves the line (R118). -/
def State.holdLine (s : State) (h : Hart) (pc : Word) (l : Vec) : State :=
  match kindOf h with
  | .hob => s
  | _ =>
    let t := s.thread h
    s.setThread h { t with line := some (lineNo pc, l), early := t.early.filter (fun e => e.1 != lineNo pc) }

/-- The fetch of the line at `pc`, which hart `h` may enter later, reads 8-byte unit `u` of it now (R124). -/
def State.fetchUnit (s : State) (h : Hart) (pc : Word) (u : Nat) : State :=
  let t := s.thread h
  if kindOf h = .hob || t.run != .running || 8 ≤ u || !isVA pc then s
  else match s.xlate t.cont.part t.cont.acc (vaOf pc / 64 * 64) false with
    | (.ok k, s) =>
      let old := (s.thread h).early.filter (fun e => !(e.1 == lineNo pc && e.2.1 == u))
      s.setThread h { s.thread h with early := old ++ [(lineNo pc, u, BitVec.ofNat 64 (s.readAt (k + 8 * u) 8))] }
    | (_, s) => s

def pcSlot (pc : Word) : Nat := pc.toNat % 64 / 2
/-- The line address moved by `d` lines in bits [53:6], at a slot (R122, R123). -/
def pcMove (pc : Word) (d : Int) (slot : Nat) : Word :=
  let ln := (((pc.toNat / 64 % 2 ^ 48 : Nat) : Int) + d) % 2 ^ 48
  BitVec.ofNat 64 (pc.toNat / 2 ^ 54 * 2 ^ 54 + ln.toNat * 64 + 2 * slot)
/-- The head that follows in fall-through order, given the line (R122). -/
def fallPc (line : Vec) (pc : Word) : Word :=
  if pcSlot pc < lineHeads line then pcMove pc 0 (pcSlot pc + 1) else pcMove pc 1 1
/-- A relative target (R123). -/
def relPc (pc : Word) (ldisp : BitVec 22) (slot : BitVec 5) : Word := pcMove pc ldisp.toInt slot.toNat

/-- The next head of hart `h` by fall-through. -/
def State.fall (s : State) (h : Hart) : Word :=
  let pc := (s.thread h).regs.pc
  match s.lineAt h pc with
  | some l => fallPc l pc
  | none => pcMove pc 0 (pcSlot pc + 1)
/-- The head a PC names and its tail; zeros where the line is malformed or cannot be fetched (R121). -/
def State.headAt (s : State) (h : Hart) : Head × Tail :=
  let pc := (s.thread h).regs.pc
  match s.lineAt h pc with
  | none => (0, 0)
  | some l => match lineSlot l (pcSlot pc) with
    | .ok x => x
    | .error _ => (0, 0)

/-- A hob unit has executed one more head of its command (R339). -/
def State.hobTick (s : State) (h : Hart) : State :=
  let x := s.stack (hartStack h)
  let u := Tab.get {} x.hobs ((h - 13824) % 96)
  s.setStack (hartStack h) { x with hobs := Tab.set {} x.hobs ((h - 13824) % 96) { u with executed := u.executed + 1 } }

/-- The gang with its number, where hart `h` leads it: the first member, but for a head that its late leader issued before it. -/
def State.leads (s : State) (h : Hart) : Option (Nat × Gang) :=
  match (s.thread h).gang.bind (fun g => (s.gang g).map (fun x => (g, x))) with
  | some (g, x) => if x.members.head? = some h && !x.todo.contains h then some (g, x) else none
  | none => none

/-- A gang member that has issued its leader's head already goes on at `pc`, where the leader turns out to go. -/
def Thread.sendTo (t : Thread) (pc : Word) : Thread :=
  if !t.path.isEmpty then { t with path := t.path.dropLast ++ [pc] }
  else
    let c := t.chunk
    { t with regs := { t.regs with pc := pc, rep := none }
             chunk := if c.trail.isEmpty then { c with begun := { c.begun with pc := pc, rep := none } }
                      else { c with trail := c.trail.dropLast ++ [pc] } }
/-- The leader of gang `g` has issued a head and goes on at `pc`, which its members follow (R202). After a trap of its own at that
head the members have issued it or stand before it, and the leader's chunk ends with it, so that a squash runs no other head again
(DEDUCED, log 31). -/
def State.leadTo (s : State) (h : Hart) (g : Nat) (x : Gang) (pc : Word) : State :=
  let rest := x.members.drop 1
  let x' : Gang := { x with head := (s.thread h).regs.pc, next := pc }
  if x.redo then
    let s := (rest.filter (fun m => m != h && !x.todo.contains m)).foldl (fun s m => s.setThread m ((s.thread m).sendTo pc)) s
    s.setGang g (some x')
  else s.setGang g (some { x' with todo := rest })
/-- Hart `h` leads its gang out of a head that it trapped at before: from its commit on the gang goes on as ever. -/
def State.endRedo (s : State) (h : Hart) : State :=
  match s.leads h with
  | some (g, x) => if x.redo && (s.thread h).chunk.executed != 0 then s.setGang g (some { x with redo := false }) else s
  | none => s

/-- Control goes to `pc` after the present head of `h`. A re-executed head of a gang member follows the path it took before; a
member of a gang follows its leader (R202), and a leader's outcome is what its members follow. -/
def State.goto (s : State) (h : Hart) (pc : Word) : State :=
  let s := if kindOf h = .hob then s.hobTick h else s
  let t := s.thread h
  let step (pc : Word) (path : List Word) : State :=
    s.setThread h { t with regs := { t.regs with pc := pc }, path := path, wait := .none
                           chunk := { t.chunk with executed := t.chunk.executed + 1, trail := t.chunk.trail ++ [pc] } }
  match t.path with
  | p :: r => step p r
  | [] =>
    match t.gang with
    | none => step pc []
    | some g =>
      match s.gang g with
      | none => step pc []
      | some x =>
        if (s.leads h).isSome then
          let s := s.leadTo h g x pc
          s.setThread h { t with regs := { t.regs with pc := pc }, path := [], wait := .none
                                 chunk := { t.chunk with executed := t.chunk.executed + 1, trail := t.chunk.trail ++ [pc]
                                                         ended := t.chunk.ended || x.redo } }
        else (step x.next []).setGang g (some { x with todo := x.todo.filter (fun m => m != h) })

/-- The present head of `h` is done and control falls through, inside a REP round its body (R193). -/
def State.advance (s : State) (h : Hart) : State :=
  let t := s.thread h
  match t.regs.rep with
  | none => s.goto h (s.fall h)
  | some r =>
    let put (x : Option RepState) : State := s.setThread h { t with regs := { t.regs with rep := x } }
    if r.pos + 1 < r.n then (put (some { r with pos := r.pos + 1 })).goto h (s.fall h)
    else if r.pass + 1 < r.count then (put (some { r with pass := r.pass + 1, pos := 0 })).goto h r.body
    else (put none).goto h (s.fall h)

/-- The present head of the issuing hart is done: the state after it. -/
def State.done (s : State) : Host.Outcome State Fault Refusal := .next (s.advance s.cur)
/-- Its head is not issued: it stalls and is issued again (R10). -/
def State.stalled (s : State) (i : Instr) : Host.Outcome State Fault Refusal := .next (s.setMe { s.me with wait := .stall i })

/-! ## The fabric -/

def State.pushMsg (s : State) (h : Hart) (item : Item) : State :=
  { s with net := s.net ++ [{ id := s.fresh, hart := h, part := (s.thread h).cont.part, item := item }], fresh := s.fresh + 1 }
def State.dropMsg (s : State) (id : Nat) : State := { s with net := s.net.filter (fun m => m.id != id) }

/-- Whether two ranges of keys share a byte. -/
def rangesMeet (a n b m : Nat) : Bool := 0 < n && 0 < m && a < b + m && b < a + n
/-- Where the line `k` lines after element (row, col) of a tile lands (R381, R397). -/
def addendPos (f64 : Bool) (row col k : Nat) : Nat × Nat :=
  let width := if f64 then 8 else 16
  let lim := if f64 then 64 else 128
  (row + (col + k * width) / lim, (col + k * width) % lim)
/-- The bytes that `n` lines of an FACC update from element (row, col) of tile `t` on, in a tile or a binary64 pair. -/
def addendTargets (cl t row col : Nat) (f64 : Bool) (n : Nat) : List (Nat × Nat) :=
  (List.range n).flatMap (fun k =>
    let p := addendPos f64 row col k
    let off (t : Nat) : Nat := t * 0x10000 + p.1 * 0x200 + 4 * p.2
    if f64 then [(mkOA cl 8 (off t), 32), (mkOA cl 8 (off (t + 1)), 32)] else [(mkOA cl 8 (off t), 64)])
/-- The counter that a NOTIFY raises, as a range of bytes. -/
def notifyTarget (cl : Nat) : Option (BitVec 8) → List (Nat × Nat)
  | some i => [(mkOA cl 10 (8 * i.toNat), 8)]
  | none => []

/-- The byte ranges a fabric item will write or update at its targets. -/
def State.targets (s : State) : Item → List (Nat × Nat)
  | .rstore k d => [(k, d.length)]
  | .rmw k _ n _ _ _ _ => [(k, n)]
  | .putc c d _ _ => match d with
    | some x => [(x.1, x.2.length), (c, 8)]
    | none => [(c, 8)]
  | .apndRow l f _ => l.map (fun x => (x.1, x.2.length)) ++ [(f, 8)]
  | .reduce kind k _ ci l =>
    let cl := oaCl k
    let t := oaOff k / 0x10000
    (if kind = 7 then addendTargets cl t (oaOff k / 0x200 % 128) (oaOff k / 4 % 128) ((s.cluster cl).tile t).f64 l.length
     else [(k, 64 * l.length)]) ++ notifyTarget cl ci
  | _ => []
/-- An access of hart `h` to `n` bytes at `k` must wait for an earlier item of `h` that targets one of them (R73, R215). -/
def State.mustWait (s : State) (h : Hart) (k n : Nat) : Bool :=
  s.net.any (fun m => m.hart == h && (s.targets m.item).any (fun x => rangesMeet k n x.1 x.2))

/-- Some byte of `n` bytes at `k` lies in the packed destination of an active copy at or above its fill watermark (R85); gap
bytes between pitched rows do not (R300). -/
def Chan.unfilled (x : Chan) (k n : Nat) : Bool :=
  x.st == .active && (match x.guard with
    | none => false
    | some (base, pitch, len, rows) => (List.range n).any (fun i =>
        base ≤ k + i && x.fwm.toNat ≤ k + i && (k + i - base) / pitch < rows && (k + i - base) % pitch < len))
def State.guarded (s : State) (k n : Nat) : Bool := s.cores.any (fun c => c.2.chans.any (fun x => x.2.unfilled k n))

/-! ## AMO and RED at the arbiter (R217, R218) -/

/-- The new value of the word, none for a failing CAS. `size` is 4 or 8 bytes. -/
def rmwNew (op size : Nat) (old v cmp : Nat) : Option Nat :=
  let w := 8 * size
  let sgn (x : Nat) : Int := if x < 2 ^ (w - 1) then x else (x : Int) - 2 ^ w
  let f := if size = 4 then f32 else f64
  match op with
  | 0 => some ((old + v) % 2 ^ w)
  | 1 => some (old &&& v)
  | 2 => some (old ||| v)
  | 3 => some (old ^^^ v)
  | 4 => some v
  | 5 => some (if sgn v < sgn old then v else old)
  | 6 => some (if sgn old < sgn v then v else old)
  | 7 => some (min old v)
  | 8 => some (max old v)
  | 9 => some (f.addF old v)
  | 10 => some (f.minmax false old v).1
  | 11 => some (f.minmax true old v).1
  | _ => if old = cmp then some v else none

/-- The old value as AMO returns it: sign-extended for .s32, otherwise zero-extended. -/
def rmwOld (size : Nat) (sx : Bool) (old : Nat) : Word :=
  if size = 4 && sx then (BitVec.ofNat 32 old).signExtend 64 else BitVec.ofNat 64 old

/-! ## Accumulator tiles and addends (R270, R271, R286) -/

/-- Key of element (i, j) of a tile. -/
def tileKey (cl t i j : Nat) : Nat := accKey cl (t * 0x10000 + i * 0x200 + 4 * j)
/-- Element (i, j) of a tile, or of the pair t, t+1 in binary64. -/
def State.tileEl (s : State) (cl t : Nat) (pair : Bool) (i j : Nat) : Nat :=
  let lo := leNat (Memory.read s.mem (tileKey cl t i j) 4)
  if pair then lo + 2 ^ 32 * leNat (Memory.read s.mem (tileKey cl (t + 1) i j) 4) else lo
/-- Write elements as one access of the unit at the cluster arbiter. -/
def State.setTileEl (s : State) (cl t : Nat) (pair : Bool) (i j v : Nat) : State :=
  let s : State := { s with mem := Memory.write s.mem (tileKey cl t i j) (leBytes 4 v) }
  if pair then { s with mem := Memory.write s.mem (tileKey cl (t + 1) i j) (leBytes 4 (v / 2 ^ 32)) } else s

/-- Tile of a matrix command and whether it is of the double class. -/
def MEntry.tileOf (e : MEntry) : Nat × Bool :=
  let dbl := e.fmtc.toNat % 32 == 0
  match e.instr with
  | .mma t _ _ _ _ _ _ _ _ _ | .mmas t _ _ _ _ _ _ _ _ _ | .mldt t _ _ _ _ _ _ _ | .mstt t _ _ _ _ _ _ _ _ => (t.toNat, dbl)
  | .mzero t _ _ => (t.toNat, false)
  | _ => (0, false)
def MEntry.names (e : MEntry) (t : Nat) : Bool := e.tileOf.1 == t || (e.tileOf.2 && e.tileOf.1 + 1 == t)
/-- A command on tile `t`, or on the pair from `t` on, lies between grant and write-back: addends are held (R271). -/
def Cluster.tileBusy (c : Cluster) (t : Nat) (pair : Bool) : Bool :=
  c.granted.any (fun e => e.names t || (pair && e.names (t + 1)))

/-- The arming of its tile takes an addend packet as it arrives, packets still held under it counted (R286). -/
def Cluster.takes (c : Cluster) (a : Addend) : Bool :=
  let m := c.tile a.tile
  let width := if m.f64 then 8 else 16
  let lim := if m.f64 then 64 else 128
  m.armed && a.round == m.round && (c.held.filter (fun b => b.ok && b.tile == a.tile && b.arming == m.arming)).length < m.remain.toNat
    && a.row < 128 && a.col % width == 0 && a.col + width ≤ lim

/-- The element updates and the status of one addend packet that its tile has taken (R286): one access of the cluster order. It
counts towards the arming that took it, while that stands. A non-finite value of a binary64 pair sets NONFINITE in its even tile
(DESIGN CHOICE, log 55). -/
def addAddend (s : State) (cl : Nat) (a : Addend) : State :=
  let m := (s.cluster cl).tile a.tile
  if !a.ok then s
  else
    let width := if a.f64 then 8 else 16
    let f := if a.f64 then f64 else f32
    let w := if a.f64 then 64 else 32
    let new (e : Nat) : Nat :=
      f.addF (s.tileEl cl a.tile a.f64 a.row (a.col + e)) (a.data.extractLsb' (w * e) w).toNat
    let vals := (List.range width).map (fun e => (e, new e))
    let s := if a.ident then s else vals.foldl (fun s x => s.setTileEl cl a.tile a.f64 a.row (a.col + x.1) x.2) s
    let s := s.noteLines cl (linesOf (tileKey cl a.tile a.row a.col) (4 * width) ++
      (if a.f64 then linesOf (tileKey cl (a.tile + 1) a.row a.col) 32 else [])) deviceHart
    let bad := !a.ident && vals.any (fun x => !f.isFinite x.2)
    if a.arming = m.arming then
      let left := m.remain - 1
      let s := s.setCluster cl ((s.cluster cl).setTile a.tile
        { m with remain := left, armed := left != 0, nonfinite := m.nonfinite || bad })
      if left = 0 then notifyUp s cl m.ci.toNat else s
    else s.setCluster cl ((s.cluster cl).setTile a.tile { m with nonfinite := m.nonfinite || bad })

/-- Apply one judged addend packet to its tile, and raise the counter of an FACC that ends with it. -/
def applyAddend (s : State) (cl : Nat) (a : Addend) : State :=
  match a.ci with
  | some i => notifyUp (addAddend s cl a) cl i.toNat
  | none => addAddend s cl a

/-- An addend packet reaches its tile (R286): it is judged by the arming it meets, counted when it is refused, held behind a
command in flight and otherwise applied (R271). -/
def arriveAddend (s : State) (cl : Nat) (a : Addend) : State :=
  let c := s.cluster cl
  let m := c.tile a.tile
  let a : Addend := { a with ok := c.takes a, f64 := m.f64, arming := m.arming }
  let s := if a.ok then s else s.countCl cl cAddendRefused 1
  if (a.ok || a.ci.isSome) && (c.tileBusy a.tile a.f64 || c.held.any (fun b => b.tile == a.tile)) then
    s.setCluster cl { s.cluster cl with held := (s.cluster cl).held ++ [a] }
  else applyAddend s cl a

/-! ## Items performed at their targets -/

/-- A new chunk of hart `h` begins: its window shows the registers as they stand, for other chunks to meet (R61, R70). -/
def State.boundary (s : State) (h : Hart) : State :=
  let t := s.thread h
  ((s.endRedo h).setThread h { t with chunk := { begun := t.regs } }).noteWindow h (windowDiffers t.chunk.begun t.regs)
/-- The value of a message returns to its thread, which goes on (R215). -/
def returnValue (s : State) (h : Hart) (id : Nat) (rd : Reg) (w : Word) : State :=
  let t := s.thread h
  if t.wait = .msg id rd then ((s.setThread h { t with regs := t.regs.setS rd w }).advance h).boundary h else s

/-- One access of a packet reduction at its target, and the lines it has left with their target (R397): a 3-line group of
MSRED, a line of XORRED, or an addend packet of FACC. -/
def reduceStep (s : State) (h : Hart) (kind k : Nat) (tag : BitVec 16) (ci : Option (BitVec 8)) (lines : List Vec) :
    State × Nat × List Vec :=
  let cl := oaCl k
  let fin (s : State) (k : Nat) (rest : List Vec) : State × Nat × List Vec :=
    (if rest.isEmpty then (match ci with
      | some i => notifyUp s cl i.toNat
      | none => s) else s, k, rest)
  match kind with
  | 5 =>
    let tgt := (List.range 3).map (fun i => bytesVec (s.bytesAt (k + 64 * i) 64))
    fin (s.writeAt h k (((mergeGroup tgt (lines.take 3)).map (fun v => vecBytes v 0 64)).flatten)) (k + 192) (lines.drop 3)
  | 6 => fin (s.writeAt h k (vecBytes (bytesVec (s.bytesAt k 64) ^^^ (lines.head?.getD 0)) 0 64)) (k + 64) (lines.drop 1)
  | _ =>
    let off := oaOff k
    let t := off / 0x10000
    let f64 := ((s.cluster cl).tile t).f64
    let row := off / 0x200 % 128
    let col := off / 4 % 128
    let next := addendPos f64 row col 1
    let gone := 128 ≤ next.1
    let a : Addend := { tile := t, round := tag, row := row, col := col, data := lines.head?.getD 0, ident := false
                        ci := if gone || lines.length ≤ 1 then ci else none }
    -- past the last row every packet that is left is refused (R286)
    if gone then ((arriveAddend s cl a).countCl cl cAddendRefused (lines.length - 1), k, [])
    else (arriveAddend s cl a, mkOA cl 8 (t * 0x10000 + next.1 * 0x200 + 4 * next.2), lines.drop 1)

/-- Every access of a packet reduction (R397), `n` of them at most. -/
def reduceAt (s : State) (h : Hart) (kind k : Nat) (tag : BitVec 16) (ci : Option (BitVec 8)) (lines : List Vec) : Nat → State
  | 0 => s
  | n + 1 =>
    if lines.isEmpty then s
    else
      let r := reduceStep s h kind k tag ci lines
      reduceAt r.1 h kind r.2.1 tag ci r.2.2 n

/-- Perform a fabric item that a release of its hart orders (R77, R78); packets, barrier arrivals and round data are not (DESIGN
CHOICE, log 12). -/
def performItem (s : State) (m : Msg) : State :=
  match m.item with
  | .rstore k d => (s.dropMsg m.id).writeAt m.hart k d
  | .rmw k op size v cmp ret sx =>
    let old := s.readAt k size
    let s := s.dropMsg m.id
    let s := match rmwNew op size old (v.toNat % 2 ^ (8 * size)) (cmp.toNat % 2 ^ (8 * size)) with
      | some x => s.writeAt m.hart k (leBytes size x)
      | none => s
    match ret with
    | some rd => returnValue s m.hart m.id rd (rmwOld size sx old)
    | none => s
  | .putc c d g p =>
    let s := s.dropMsg m.id
    let cl := oaCl c
    let i := oaOff c / 8
    if g ≠ 0 && g ≠ Tab.get 0 (s.cluster cl).cgen i then s.countPart p pStale
    else
      let s := match d with
        | some x => s.writeAt m.hart x.1 x.2
        | none => s
      countUp (s.noteLines cl [lineOf c] m.hart) cl i
  | .apndRow l f len =>
    let s := l.foldl (fun s x => s.writeAt m.hart x.1 x.2) (s.dropMsg m.id)
    s.writeAt m.hart f (leBytes 8 (s.readAt f 8 + len))
  | .reduce kind k tag ci l => reduceAt (s.dropMsg m.id) m.hart kind k tag ci l l.length
  | .packet _ _ _ _ | .arrival _ _ _ | .late _ _ _ _ _ | .peer _ | .peerRound _ _ _ _ => s

def Item.isRow : Item → Bool
  | .apndRow _ _ _ => true
  | _ => false
/-- An item that a release of its hart performs now. The row of an APND completes without its thread (R225), unless a message
behind it targets the same bytes (R215), and a weak store or a packet reduction that meets an unfilled copy destination waits (R85). -/
def State.drains (s : State) (m : Msg) : Bool :=
  match m.item with
  | .apndRow _ _ _ =>
    let others : State := { s with net := s.net.filter (fun x => !x.item.isRow) }
    (s.targets m.item).any (fun x => others.mustWait m.hart x.1 x.2)
  | .rstore k d => !s.guarded k d.length
  | .reduce kind k _ _ l => kind == 7 || !s.guarded k (64 * l.length)
  | _ => true
/-- Perform the items of hart `h` in flight, oldest first: what a release or a fence of `h` orders (DESIGN CHOICE, log 6). -/
def State.drain (s : State) (h : Hart) : State :=
  (s.net.filter (fun m => m.hart == h)).foldl (fun s m => if s.drains m then performItem s m else s) s
/-- A weak store or a packet reduction of hart `h` in flight waits for the fill watermark of a copy (R85): a release of `h` waits for
it. -/
def State.blocked (s : State) (h : Hart) : Bool :=
  s.net.any (fun m => m.hart == h && match m.item with
    | .rstore k d => s.guarded k d.length
    | .reduce kind k _ _ l => kind != 7 && s.guarded k (64 * l.length)
    | _ => false)

/-! ## Chunks (R68 to R74) -/

/-- The hart that holds the commit token of an arbiter (R72, R74). -/
def State.tokenOf (s : State) (a : Nat) : Option Hart := if a < 384 then (s.cluster a).token else (s.stack (a - 384)).token
def State.setToken (s : State) (a : Nat) (x : Option Hart) : State :=
  if a < 384 then s.setCluster a { s.cluster a with token := x }
  else s.setStack (a - 384) { s.stack (a - 384) with token := x }

/-- The signatures of the chunk meet lines others committed since it began (R69). -/
def Chunk.overlaps (c : Chunk) : Bool := (c.rlines ++ c.wlines).any (fun l => c.seen.contains l)

/-- The gang a hart belongs to, with its number. -/
def State.gangOf (s : State) (h : Hart) : Option (Nat × Gang) :=
  (s.thread h).gang.bind (fun g => (s.gang g).map (fun x => (g, x)))
/-- No chunk of another hart holds the commit token (R72). -/
def State.tokenFree (s : State) (h : Hart) : Bool := (s.tokenOf (arbOf h)).all (fun k => k == h)
/-- A leader of a gang with other members. -/
def State.headsGang (s : State) (h : Hart) : Bool := (s.gangOf h).any (fun x => x.2.members.head? == some h)
/-- The chunk of a gang's leader is to run again with the commit token, which it takes with its first head: its members' earlier
chunks commit before (R72, R202) (DEDUCED, log 31). -/
def State.tokenDue (s : State) (h : Hart) : Bool :=
  s.headsGang h && 8 ≤ (s.thread h).squashes && (s.thread h).chunk.executed == 0 && (s.tokenOf (arbOf h)).isNone
/-- The leader of the gang of `h` while its chunk is open: it commits before its members do, since they follow its outcomes
(R202) (DESIGN CHOICE, log 31). -/
def State.leaderOpen (s : State) (h : Hart) : Option Hart :=
  match (s.gangOf h).bind (fun x => x.2.members.head?) with
  | some k => if k != h && (s.thread k).run == .running && (s.thread k).chunk.executed != 0 then some k else none
  | none => none
/-- The chunk of `h` has ended and waits for its commit. -/
def State.markEnded (s : State) (h : Hart) : State :=
  let t := s.thread h
  s.setThread h { t with chunk := { t.chunk with ended := true } }
/-- A buffered store of the chunk of `h` meets an unfilled copy destination: the commit waits for it (R85). -/
def State.storesWait (s : State) (h : Hart) : Bool :=
  (s.thread h).chunk.stores.any (fun w => arbOfKey w.key == arbOf h && s.guarded w.key w.data.length)

/-- Hart `h` starts its chunk again (R69, R71): registers as at its start, stores discarded, popped data kept for replay; `path` is
what it follows. A pending MNF waits until the heads before it have run again (R111). -/
def State.rewind (s : State) (h : Hart) (path : List Word) : State :=
  let t := s.thread h
  s.setThread h { t with
    regs := t.chunk.begun
    chunk := { begun := t.chunk.begun }
    replay := t.chunk.log ++ t.replay
    path := path
    wait := .none
    mnf := t.mnf.map (fun m => { m with after := max m.after t.chunk.executed }) }

/-- The part of the path of gang member `m` that it runs again by itself when its leader starts again, `n` heads back. -/
def State.keptPath (s : State) (x : Gang) (m : Hart) (n : Nat) : List Word :=
  let u := s.thread m
  let l := u.chunk.trail ++ u.path
  l.take (l.length - (if x.todo.contains m then n - 1 else n))

/-- The chunk of `h` starts again. A leader evaluates its outcomes anew and its members start again with it, but for the one head
that it issues after its members; another member follows the path it took, which its leader has committed (R202) (DESIGN CHOICE, log
31). -/
def State.restart (s : State) (h : Hart) : State :=
  let t := s.thread h
  match s.gangOf h with
  | none => s.rewind h []
  | some (g, x) =>
    if x.members.head? = some h then
      if x.redo then s.rewind h []
      else
      let n := t.chunk.trail.length
      let s := (x.members.drop 1).foldl (fun s m =>
        if (s.thread m).run = .running then s.rewind m (s.keptPath x m n) else s) (s.rewind h [])
      s.setGang g (some { x with head := t.chunk.begun.pc, next := t.chunk.begun.pc, todo := [] })
    else s.rewind h (t.chunk.trail ++ t.path)

/-- The chunk of `h` is squashed (R69, R71, R72) and counted; the eighth squash in a row takes the commit token when it is free, for
a gang's leader once its members' earlier chunks have committed (`tokenDue`). -/
def State.squash (s : State) (h : Hart) : State :=
  let n := (s.thread h).squashes + 1
  let a := arbOf h
  let s := s.restart h
  let s := s.setThread h { s.thread h with squashes := n }
  let s := if kindOf h = .core then s.countCl (hartCl h) cSquash 1 else s
  if 8 ≤ n && (s.tokenOf a).isNone && !s.headsGang h then s.setToken a (some h) else s

/-- The entries of an arrival channel once the chunk of `h` that popped `n` of them is done: those leave, and any other that `h`
had taken is free again (R71, R256). -/
def settleTaken (h : Hart) : Nat → List ArrEntry → List ArrEntry
  | _, [] => []
  | n, e :: r =>
    if e.taken = some h then
      match n with
      | 0 => { e with taken := none } :: settleTaken h 0 r
      | k + 1 => settleTaken h k r
    else e :: settleTaken h n r
/-- The entries that `h` popped leave their channels. -/
def State.settlePops (s : State) (h : Hart) (pops : Tab Nat) : State :=
  let c := s.core (hartCore h)
  if c.arr.any (fun x => x.2.any (fun e => e.taken == some h)) then
    s.setCore (hartCore h) ((c.arr.map Prod.fst).foldl (fun c ch =>
      c.setArrivals ch (settleTaken h (Tab.get 0 pops ch) (c.arrivals ch))) c)
  else s

/-- One buffered store of a committing chunk: at the own arbiter it is performed, towards another it leaves (R73). -/
def commitStore (s : State) (h : Hart) (w : WStore) : State :=
  if arbOfKey w.key == arbOf h then s.writeAt h w.key w.data else s.pushMsg h (.rstore w.key w.data)

/-- The chunk of `h` commits: its stores in order, its pops leave their queues, what it counts is counted, the token is given
back, and a new chunk begins with the registers as they stand; a head that stalled at its end issues anew in it. -/
def State.commit (s : State) (h : Hart) : State :=
  let t := s.thread h
  let s := t.chunk.stores.foldl (fun s w => commitStore s h w) s
  let s := s.settlePops h t.chunk.pops
  let s := if t.chunk.brks = 0 then s else s.countCl (hartCl h) cBreak t.chunk.brks
  let s := if t.chunk.past = 0 then s else
    s.setCore (hartCore h) { s.core (hartCore h) with overrun := (s.core (hartCore h)).overrun + BitVec.ofNat 64 t.chunk.past }
  let s := if s.tokenOf (arbOf h) = some h then s.setToken (arbOf h) none else s
  let u := (s.endRedo h).thread h
  let wait : Wait := match u.wait with
    | .stall _ => .none
    | w => w
  ((s.endRedo h).setThread h { u with chunk := { begun := u.regs }, squashes := 0, replay := [], wait := wait
                                      mnf := u.mnf.map (fun m => { m with after := 0 }) }).noteWindow h
    (windowDiffers t.chunk.begun u.regs)

/-- End the chunk of `h` before a head that is performed on its own. `error` is the state in which that head does not issue
now: the chunk was squashed, another hart holds the commit token, the gang's leader has not committed, or a store waits. -/
def State.endChunk (s : State) (h : Hart) : Except State State :=
  match s.leaderOpen h with
  | some k => .error (s.markEnded k)
  | none =>
    if !s.tokenFree h then .error s
    else if (s.thread h).chunk.overlaps then .error (s.squash h)
    else if s.storesWait h then .error s
    else .ok (s.commit h)

/-- The present head, performed on its own, is done: control falls through and a new chunk begins (R68). -/
def State.doneStrong (s : State) : Host.Outcome State Fault Refusal := .next ((s.advance s.cur).boundary s.cur)

/-- End the chunk and go on, or leave the head for another turn. -/
def withChunkEnd (s : State) (k : State → Host.Outcome State Fault Refusal) : Host.Outcome State Fault Refusal :=
  match s.endChunk s.cur with
  | .error s' => .next s'
  | .ok s' => k s'
/-- End the chunk, order every earlier access of the hart, then go on: a release, a fence or a kick (R77, R80, R83). It waits for a
weak store in flight that the fill watermark of a copy holds (R85). -/
def withRelease (s : State) (k : State → Host.Outcome State Fault Refusal) : Host.Outcome State Fault Refusal :=
  withChunkEnd s (fun s => if s.blocked s.cur then .next s else k (s.drain s.cur))

/-! ## Clusters, cores and instances (R38, R40, R47, R48, R373) -/

/-- Numbers without repeats, in the order of their first occurrence. -/
def distinct (l : List Nat) : List Nat := l.foldl (fun a x => if a.contains x then a else a ++ [x]) []
def State.idleAt (s : State) (h : Hart) : Bool := (s.thread h).run == .idle
/-- Cores whose four thread sets a placed gang occupies, or waits to have its released members back on (R47, R208). -/
def State.gangCores (s : State) : List Nat :=
  s.gangs.flatMap (fun e => match e.2 with
    | none => []
    | some x =>
      if !x.back.isEmpty || x.members.any (fun m => (s.thread m).run != .idle && (s.thread m).gang == some e.1) then x.members.map hartCore
      else [])
/-- Idle thread sets of a core and of a cluster; those of a gang's core are busy (R47). -/
def State.idleOn (s : State) (core : Nat) : Nat :=
  if s.gangCores.contains core then 0 else ((List.range 4).filter (fun i => s.idleAt (4 * core + i))).length
def State.idleIn (s : State) (cl : Nat) : Nat := ((List.range 8).map (fun k => s.idleOn (8 * cl + k))).sum
/-- Cores on which nothing but a gang may be placed: a gang runs there, or a drain holds them (R47, R48). -/
def State.closedCore (s : State) (core : Nat) : Bool :=
  s.gangCores.contains core || ((s.cluster (core / 8)).drain.map (fun d => d.cores.contains core)).getD false
/-- The fully idle cores of a cluster. -/
def wholeIdle (s : State) (cl : Nat) : List Nat := ((List.range 8).map (fun k => 8 * cl + k)).filter (fun c => s.idleOn c == 4)
/-- The clusters of a partition. -/
def State.clustersOf (s : State) (p : Nat) : List Nat := (List.range 384).filter (fun c => s.dieIn p (c / 96))
/-- The unit of a domain of cluster width or wider that a cluster lies in. -/
def unitOf (dom cl : Nat) : Nat :=
  match dom with
  | 3 => cl
  | 4 => cl / 12
  | 5 => cl / 96
  | _ => 0

/-- The least element under an order given as a test. -/
def leastBy {α : Type} (f : α → α → Bool) (l : List α) : Option α :=
  l.foldl (fun b x => match b with
    | none => some x
    | some y => if f x y then some x else some y) none
/-- Insertion sort by a test that says which of two comes first. -/
def insertBy {α : Type} (f : α → α → Bool) (x : α) : List α → List α
  | [] => [x]
  | y :: r => if f y x then y :: insertBy f x r else x :: y :: r
def sortBy {α : Type} (f : α → α → Bool) (l : List α) : List α := l.foldl (fun a x => insertBy f x a) []
/-- The first `n` elements in the order of a test; none when there are fewer. -/
def firstBy {α : Type} (f : α → α → Bool) (n : Nat) (l : List α) : Option (List α) :=
  if l.length < n then none else some ((sortBy f l).take n)

/-- `n` units of a domain among the clusters `cls`, every cluster up, by idle thread sets and then by number (R373). -/
def pickUnits (s : State) (dom n : Nat) (cls : List Nat) : Option (List Nat) :=
  let units := (distinct (cls.map (unitOf dom))).filter (fun u => (cls.filter (fun c => unitOf dom c == u)).all (fun c => (s.cluster c).up))
  let idle (u : Nat) : Nat := ((cls.filter (fun c => unitOf dom c == u)).map s.idleIn).sum
  firstBy (fun a b => idle b < idle a || (idle a == idle b && a < b)) n units

/-- The units of the lowest level of cluster width or wider, in coordinate order; the levels stand widest first. -/
def fixLevels (s : State) (cls : List Nat) : List (Nat × Nat) → Option (List Nat)
  | [] => some []
  | [l] => pickUnits s l.1 l.2 cls
  | l :: r => (pickUnits s l.1 l.2 cls).bind (fun us =>
    (us.mapM (fun u => fixLevels s (cls.filter (fun c => unitOf l.1 c == u)) r)).map List.flatten)

def Task.wide (t : Task) : List (Nat × Nat) := t.levels.filter (fun l => 3 ≤ l.1)
/-- Threads below the levels of cluster width. -/
def Task.inner (t : Task) : Nat := (t.levels.filter (fun l => l.1 < 3)).foldl (fun a l => a * l.2) 1
/-- The clusters a task may use: one, when it is pinned, and none outside its partition (R46). -/
def State.homeOf (s : State) (t : Task) : List Nat :=
  match t.pin with
  | some (c, _) => if s.dieIn t.part (c / 96) then [c] else []
  | none => s.clustersOf t.part
/-- The instances of a task, fixed now when they are not yet: none while a domain it needs is not up (R26). -/
def instances (s : State) (t : Task) : Option (List (Nat × Nat)) :=
  if !t.inst.isEmpty || t.wide.isEmpty then some t.inst
  else (fixLevels s (s.homeOf t) t.wide.reverse).map (fun l => (l.zipIdx).map (fun x => (x.2, x.1)))

/-- A task has a level bound to core or gang (R41). -/
def Task.narrow (t : Task) : Bool := t.levels.any (fun l => l.1 == 1 || l.1 == 2)
/-- Threads of a task (R38). -/
def Task.threads (t : Task) : Nat := t.levels.foldl (fun a l => a * l.2) 1
/-- The core or gang instance of a thread, whose threads share one core (R41): by its level, or by itself where SPLIT has bound it
(R203). -/
def Task.coreOf (t : Task) (lin : Nat) : Option Nat :=
  if t.narrow then some (lin / (t.levels.filter (fun l => l.1 == 0)).foldl (fun a l => a * l.2) 1)
  else if t.split.contains lin then some (t.threads + lin)
  else none
/-- Thread `lin` is placed on a core, which is that of its instance from now on (R38, R41). -/
def Task.onCore (t : Task) (lin core : Nat) : Task :=
  match t.coreOf lin with
  | some i => { t with cores := t.cores.filter (fun x => x.1 != i) ++ [(i, core)] }
  | none => t
/-- The instances of a task are fixed, where they can be (R40, R373). -/
def State.fixInst (s : State) (acc : Nat) : State :=
  match s.task acc with
  | some t => s.setTask { t with inst := (instances s t).getD t.inst }
  | none => s

/-- The clusters thread `lin` of a task may be placed in. -/
def clustersFor (s : State) (t : Task) (lin : Nat) : List Nat :=
  let home := s.homeOf t
  match t.wide.head? with
  | none => home
  | some l =>
    match (instances s t).bind (fun i => i.lookup (lin / t.inner)) with
    | none => []
    | some u => home.filter (fun c => unitOf l.1 c == u)

/-- The members of a thread's core instance among the ready entries, those that wait as members of a gang included. -/
def instanceReady (s : State) (t : Task) (e : ReadyEnt) : List ReadyEnt :=
  (s.part t.part).ready.filter (fun f => f.acc == e.acc && t.coreOf f.lin == t.coreOf e.lin)
/-- The core instance of an entry was pre-empted: it resumes as a whole (R41, R42) (DEDUCED, log 41). -/
def wholeOnly (t : Task) (e : ReadyEnt) : Bool := e.stoker.isNone && (t.coreOf e.lin).any (fun i => t.preempted.contains i)
/-- A member of the instance was saved, so the whole may resume on another core (R41). -/
def instanceMoves (s : State) (t : Task) (e : ReadyEnt) : Bool := wholeOnly t e && (instanceReady s t e).any (fun f => f.marked)
/-- The cluster that holds a core instance of which another thread is suspended in a gang: the gang's, whose members stay together
(R47). -/
def instanceGang (s : State) (t : Task) (e : ReadyEnt) : Option Nat :=
  let p := s.part t.part
  ((p.waiting.map (fun w => w.ent) ++ p.ready).find? (fun f =>
    f.acc == e.acc && t.coreOf f.lin == t.coreOf e.lin && f.gang.isSome && f.gang != e.gang)).bind (fun f =>
      (f.gang.bind s.gang).map (fun g => g.cl))
/-- A ready entry as its placement is judged: one whose core instance resumes elsewhere as a whole is bound to no core, and to no
cluster where its task has no level of that width (R41, R109) and no other gang holds the instance (DEDUCED, log 41). -/
def judged (s : State) (t : Task) (e : ReadyEnt) : ReadyEnt :=
  if instanceMoves s t e then
    { e with core := none, cl := match instanceGang s t e with
        | some c => some c
        | none => if (instanceReady s t e).any (fun f => f.marked && f.cl.isNone) then none else e.cl }
  else e

/-- Gang number `n` that is whole in the ready queue: its entries in member order. -/
def readyGang (s : State) (n : Nat) (g : Gang) : Option (List ReadyEnt) :=
  (s.task g.acc).bind (fun t =>
    let l := g.recs.filterMap (fun r => (s.part t.part).ready.find? (fun e => e.rcd == r && e.gang == some n))
    if l.length = g.recs.length && !l.isEmpty && g.back.isEmpty then some l else none)
/-- The clusters a waiting gang may use: those that every member may. -/
def gangClusters (s : State) (l : List ReadyEnt) : List Nat :=
  match l.head? with
  | none => []
  | some e => match s.task e.acc with
    | none => []
    | some t => (clustersFor s t e.lin).filter (fun c => (s.cluster c).up && l.all (fun f => (judged s t f).cl.all (fun k => k == c)))
/-- The cluster with the most fully idle cores, the lowest on a tie (R48). -/
def candidateCluster (s : State) (l : List ReadyEnt) : Option Nat :=
  leastBy (fun a b => (wholeIdle s b).length < (wholeIdle s a).length || ((wholeIdle s a).length == (wholeIdle s b).length && a < b))
    (gangClusters s l)
/-- The candidate cluster of a waiting gang: the one chosen, or one chosen now while there was none to choose or the gang may not use
it any more. -/
def gangCand (s : State) (g : Gang) (l : List ReadyEnt) : Option Nat :=
  match g.cand.filter (fun c => (gangClusters s l).contains c) with
  | some c => some c
  | none => candidateCluster s l
/-- Gang `g` starts waiting for placement once its last member is ready: the instances of its task are fixed by then, and its
candidate cluster is chosen inside them (R48) (DEDUCED, log 31). -/
def State.gangWaits (s : State) (g : Nat) : State :=
  match s.gang g with
  | none => s
  | some x => match readyGang s g x with
    | none => s
    | some l =>
      let s := s.fixInst x.acc
      s.setGang g (some { x with cand := candidateCluster s l, waitFrom := s.now })

/-! ## Records, tasks and what leaves a thread set (R28 to R35, R369) -/

/-- Write bytes of the continuation record of `c` (a release at package scope, R35); a record whose page has no translation
takes no write (log 14). -/
def putRecord (s : State) (h : Hart) (c : Cont) (off : Nat) (bytes : List Byte) : State :=
  (s.writeVA h c.part 0 (vaOf c.rcd + off) bytes).2
def putStatus (s : State) (h : Hart) (c : Cont) (st : Nat) : State := putRecord s h c 39 [BitVec.ofNat 8 st]
def putPc (s : State) (h : Hart) (c : Cont) (pc : Word) : State := putRecord s h c 0 (leBytes 8 pc.toNat)
/-- The record at an address word as it stands, 64 bytes, and the state after its translation. -/
def readRecord (s : State) (p : Nat) (rcd : Word) : Option Vec × State :=
  let r := s.readVA p 0 (vaOf rcd) 64
  (r.1.map bytesVec, r.2)
def recordOf (s : State) (p : Nat) (rcd : Word) : Option Vec := (readRecord s p rcd).1

/-- The lines that an end of ownership writes: KNWIN and the last capture (R62, R101). -/
def knLines (cl : Nat) : List Nat := [lineOf (mkOA cl 11 0), lineOf (mkOA cl 9 0x2080), lineOf (mkOA cl 9 0x20C0)]
/-- The array of the owner's cluster is given up with the effect of KNRESET (R350, R358). -/
def knFree (k : Kindling) : Kindling :=
  { k with win := none, y := BitVec.allOnes 1024, f := BitVec.allOnes 1024, capvalid := false, owner := none }
def State.releaseArray (s : State) (h : Hart) : State :=
  if kindOf h = .core && (s.cluster (hartCl h)).kn.owner == some h then
    let s := s.noteLines (hartCl h) (knLines (hartCl h)) h
    s.setCluster (hartCl h) { s.cluster (hartCl h) with kn := knFree (s.cluster (hartCl h)).kn }
  else s

/-- A version slot of a tile is freed: no slot holds its STEP any more (R366). -/
def State.freeSlot (s : State) (tile k : Nat) : State :=
  let l := s.vslots tile
  let steps := Tab.get [] s.gone tile
  let gone := match (l[k]?).bind VSlot.step with
    | some st => if steps.contains st then steps else steps ++ [st]
    | none => steps
  { s.setVslots tile (l.set k .free) with gone := Tab.set [] s.gone tile gone }

/-- Publish the open slots of a tile whose turn has come, at most `n` of them: the open slot of smallest ACCNO, once its task has
ended with no thread retired (R369). -/
def publishTile (s : State) (tile : Nat) : Nat → State
  | 0 => s
  | n + 1 =>
    let l := s.vslots tile
    let lowest := (List.range 4).foldl (fun (best : Option (Nat × Nat × Nat)) (k : Nat) =>
      match l[k]? with
      | some (.opened a st) => match best with
        | some b => if a < b.1 then some (a, k, st) else best
        | none => some (a, k, st)
      | _ => best) none
    match lowest with
    | some (a, k, st) =>
      if (s.task a).any (fun t => t.st == .ended && !t.retired) then
        publishTile (s.setVslots tile (l.set k (.published a st))) tile n
      else s
    | none => s

/-- The successor that closure `k` launched has ended or was refused (R406): its group is free of it, unless a later successor of
the group is live. -/
def State.endSuccessor (s : State) (k : Closure) : State :=
  let g := s.group k.key
  if g.closures = k.no then s.setGroup k.key { g with live := false } else s

/-- A task's record reached `status`, 7 or 8 (R367, R369, R377): with its last record the task ends, gives its dependence entries
back, and its open slots are published in their turn, or freed when a thread was retired. -/
def endRecord (s : State) (h : Hart) (c : Cont) (status : Nat) : State :=
  match s.task c.acc with
  | none => s
  | some t =>
    if !t.recs.any (fun r => r.1 == c.rcd && r.2 == 0) then s
    else
      let recs := t.recs.map (fun (r : Word × Nat) => if r.1 == c.rcd && r.2 == 0 then (r.1, status) else r)
      let t : Task := { t with recs := recs, retired := t.retired || status == 8 }
      if recs.all (fun r => r.2 != 0) then
        let s := s.setTask { t with st := .ended }
        let d := s.die t.die
        let s := s.setDie t.die { d with entries := d.entries - t.entries }
        let s := if t.retired then
            t.opened.foldl (fun (s : State) x => s.freeSlot x.1 x.2) s
          else s
        let s := t.opened.foldl (fun s x => publishTile s x.1 4) s
        let s := match t.group with
          | some k => s.endSuccessor k
          | none => s
        (recs.filter (fun r => r.2 == 8)).foldl (fun s r => putStatus s h { c with rcd := r.1 } 0) s
      else s.setTask t

/-- The ready-queue entry of a continuation that leaves hart `h` (R41, R54). -/
def readyEntry (s : State) (h : Hart) (c : Cont) : ReadyEnt :=
  let t := s.task c.acc
  { rcd := c.rcd, acc := c.acc, lin := c.lin, taskid := c.taskid, prio := (t.map (fun x => x.prio)).getD 0, since := s.now
    rise := 0, stoker := if kindOf h = .stoker then some (hartSk h) else none
    core := if kindOf h = .core && (t.bind (fun x => x.coreOf c.lin)).isSome then some (hartCore h) else none
    cl := if kindOf h = .core then some (hartCl h) else none
    gang := (s.thread h).gang, marked := false }
/-- A continuation enters its partition's ready queue; the last of a gang starts the gang's wait (R48, R54). -/
def State.enqueue (s : State) (p : Nat) (e : ReadyEnt) : State :=
  let s := s.setPart p { s.part p with ready := (s.part p).ready ++ [e] }
  match e.gang with
  | none => s
  | some g => s.gangWaits g

/-- A commit token that hart `h` holds is free. -/
def State.dropToken (s : State) (h : Hart) : State := if s.tokenOf (arbOf h) = some h then s.setToken (arbOf h) none else s
/-- The thread set falls idle: its registers are discarded (R33, R34), and a commit token it holds is free. An MNF still pending for it
is dropped uncounted (DESIGN CHOICE, log 55). -/
def State.goIdle (s : State) (h : Hart) : State := ((s.dropToken h).setThread h {}).noteWindow h (fun _ => true)
/-- A hart that is gone is no member of its gang any more. -/
def leaveGang (s : State) (h : Hart) : State :=
  match s.gangOf h with
  | none => s
  | some (g, x) =>
    let m := (x.members.zip x.recs).filter (fun k => k.1 != h)
    s.setGang g (if m.isEmpty then none else
      some { x with members := m.map Prod.fst, recs := m.map Prod.snd, todo := x.todo.filter (fun k => k != h)
                    redo := x.redo && x.members.head? != some h })

/-! ## Mailboxes of the hearth and hob faults (R331, R339, R341) -/

/-- Write a mailbox area: bytes from 8 on weakly, then bytes 0 to 7 as the release. -/
def putMailbox (s : State) (h : Hart) (p acc : Nat) (mbox : Option Word) (first : Nat) (rest : List Byte) : State :=
  match mbox with
  | none => s
  | some w =>
    let put (s : State) (off : Nat) (b : List Byte) : State :=
      if b.isEmpty then s
      else if isOA w then s.writeAt h (w.toNat + off) b else (s.writeVA h p acc (vaOf w + off) b).2
    put (put s 8 rest) 0 (leBytes 8 first)

/-- The weak write of the `n` bytes from byte 8 of a mailbox on meets an unfilled copy destination: it waits, and so does the release
that follows it (R85, R299, R331). -/
def State.mailboxWaits (s : State) (mbox : Option Word) (n : Nat) : Bool := mbox.any (fun w => isOA w && s.guarded (w.toNat + 8) n)
/-- The mailbox of the command that a hob unit runs waits (R85). -/
def State.hobWaits (s : State) (h : Hart) : Bool :=
  ((Tab.get {} (s.stack (hartStack h)).hobs ((h - 13824) % 96)).cmd).any (fun c => s.mailboxWaits c.mbox 56)

/-- The unit's command ends: mailbox, and the unit takes no further head of it. -/
def endHob (s : State) (h : Hart) (stop fcode : Nat) (rest : List Byte) : State :=
  let st := hartStack h
  let pc := (h - 13824) % 96
  let x := s.stack st
  let u := Tab.get {} x.hobs pc
  match u.cmd with
  | none => s
  | some c =>
    let s := s.setStack st { x with hobs := Tab.set {} x.hobs pc { u with cmd := none, executed := 0 } }
    (putMailbox s h c.cont.part c.cont.acc c.mbox (stop + 256 * fcode) rest).goIdle h

/-- A hob fault stops the command once its chunk has committed (R111, R339, R341): END 3, PC and head in the mailbox, no trap
record. -/
def hobFault (s : State) (h : Hart) (fcode : Nat) : Host.Outcome State Fault Refusal :=
  let pc := (s.thread h).regs.pc
  match s.endChunk h with
  | .error s => .next s
  | .ok s => if s.hobWaits h then .next s else .next (endHob (s.drain h) h 3 fcode (leBytes 8 pc.toNat ++ leBytes 2 (s.headAt h).1.toNat ++ leBytes 46 0))

/-! ## Taking an exception (R111 to R117) -/

/-- Trap codes (R112). -/
inductive Trap where
  | illegal
  | linefmt
  | misalign
  | window
  | stream
  | mnf
  | overdue
  | fifo
  | tqrange
  | kindle
  | page
  | launch
  | trap
  | brk
  deriving DecidableEq, Repr

def Trap.code : Trap → Nat
  | .illegal => 1
  | .linefmt => 2
  | .misalign => 3
  | .window => 4
  | .stream => 5
  | .mnf => 6
  | .overdue => 7
  | .fifo => 8
  | .tqrange => 9
  | .kindle => 10
  | .page => 11
  | .launch => 12
  | .trap => 13
  | .brk => 14

/-- What a trap record says besides the continuation (R115). -/
structure TrapInfo where
  code : Nat
  pc : Word
  head : Head := 0
  tail : Tail := 0
  addr : Word := 0
  detail : Nat := 0
  row : Nat := 0xFFFF
  col : Nat := 0xFFFF
  fmta : Word := 0
  fmtb : Word := 0
  fmtc : Word := 0
  parked : Bool := true
  deriving DecidableEq, Repr

/-- The trap record without SEQ, which the grate fills (R115). -/
def trapDataAt (loc : BitVec 16) (c : Cont) (save gang : Bool) (i : TrapInfo) : Vec :=
  let b (x : Bool) (n : Nat) : Nat := if x then 2 ^ n else 0
  BitVec.ofNat 512 (i.code + b save 8 + b gang 9 + b i.parked 10 + c.gen.toNat * 2 ^ 16 + c.taskid.toNat * 2 ^ 32
    + i.pc.toNat * 2 ^ 64 + i.head.toNat * 2 ^ 128 + tailLen i.head.major * 2 ^ 144 + i.tail.toNat * 2 ^ 192
    + c.rcd.toNat * 2 ^ 256 + i.addr.toNat * 2 ^ 320
    + i.fmta.toNat % 32 * 2 ^ 384 + i.fmta.toNat / 32 % 2 * 2 ^ 389 + i.fmtb.toNat % 32 * 2 ^ 390
    + i.fmtb.toNat / 32 % 2 * 2 ^ 395 + i.fmtc.toNat % 32 * 2 ^ 396
    + i.row % 2 ^ 16 * 2 ^ 416 + i.col % 2 ^ 16 * 2 ^ 432 + loc.toNat * 2 ^ 448 + i.detail % 2 ^ 16 * 2 ^ 464)
def trapData (h : Hart) (c : Cont) (save gang : Bool) (i : TrapInfo) : Vec := trapDataAt (hartLoc h) c save gang i

/-- The grates of partition `p` are handed a trap record to write (R117). -/
def State.addTrap (s : State) (p : Nat) (d : Vec) : State :=
  s.setPart p { s.part p with traps := (s.part p).traps ++ [{ data := d }] }

/-- What stands in a trap record for a trap of hart `h` at its present head. -/
def trapHere (s : State) (h : Hart) (code : Trap) (addr : Word) (detail : Nat) : TrapInfo :=
  let t := s.thread h
  let x := if code = .linefmt then ((0, 0) : Head × Tail) else s.headAt h
  { code := code.code, pc := t.regs.pc, head := x.1, tail := x.2, addr := addr, detail := detail
    fmta := t.regs.ctl.fmta, fmtb := t.regs.ctl.fmtb, fmtc := t.regs.ctl.fmtc }

/-- The oldest store pending for the window of `h` lands, at a chunk boundary (R61). -/
def landPending (s : State) (h : Hart) : State :=
  let t := s.thread h
  match t.pend with
  | [] => s
  | w :: r =>
    let x := windowStore t.regs w.key w.data
    let s := (s.setThread h { t with pend := r, regs := x.1, chunk := { t.chunk with begun := x.1 } }).noteWindow h
      (windowDiffers t.windowRegs x.1)
    if x.2 then s.countCl (hartCl h) cBadCtl 1 else s
/-- Every store pending for the window of `h` lands: its chunk has ended for good (R61, R114, R207). -/
def landAll (s : State) (h : Hart) : State := (s.thread h).pend.foldl (fun s _ => landPending s h) s

/-- A gang's leader traps at a head that it has fetched: its members issue that head as well, and go on where the leader goes once it is
released (R202) (DEDUCED, log 31). A head that could not be fetched or read (R121, R123), and one before which an MNF is delivered
(R277), is issued by none. -/
def State.leaderTraps (s : State) (h : Hart) (code : Nat) : State :=
  match s.leads h with
  | some (g, x) =>
    let pc := (s.thread h).regs.pc
    if x.redo || code = Trap.mnf.code || code = Trap.linefmt.code || (s.lineAt h pc).isNone then s
    else s.setGang g (some { x with head := pc, next := s.fall h, todo := x.members.drop 1, redo := true })
  | none => s

/-- Park a hart whose chunk has ended: streams end, the record takes STATUS 5 and the trapping PC, the trap record goes to
the partition's trap queue, registers are kept (R34, R114). After a failed fetch the continuation record's PC is the head that was
to be fetched, where the trap record names the line (R123) (DESIGN CHOICE, log 50). An MNF that was due behind this head, which runs again
after a squash, is dropped and not counted (DESIGN CHOICE, log 55). -/
def park (s : State) (h : Hart) (i : TrapInfo) : State :=
  let s := landAll (s.drain h) h
  let t := s.thread h
  let s := putPc s h t.cont t.regs.pc
  let s := putStatus s h t.cont 5
  let s := s.addTrap t.cont.part (trapData h t.cont t.savemode.isSome t.gang.isSome i)
  let t := s.thread h
  let r := { t.regs with streams := [], rep := none }
  let s := s.leaderTraps h i.code
  (s.setThread h { t with run := .parked, regs := r, chunk := { begun := r }, wait := .none, mark := none, mnf := none
                          replay := [], path := [], line := none }).noteWindow h (windowDiffers t.windowRegs r)

/-- Take the exception `i` on hart `h`: the trapping head has no effect; the chunk before it commits, or is squashed and runs
again up to it (R111). On a hob unit it is a hob fault (R341). -/
def takeTrapInfo (s : State) (h : Hart) (i : TrapInfo) : Host.Outcome State Fault Refusal :=
  if kindOf h = .hob then hobFault s h 6
  else match s.endChunk h with
  | .error s' => .next s'
  | .ok s' => if s'.blocked h then .next s' else .next (park s' h i)

/-- Take an exception at the present head of the issuing hart. -/
def takeTrap (s : State) (code : Trap) (addr : Word) (detail : Nat) : Host.Outcome State Fault Refusal :=
  takeTrapInfo s s.cur (trapHere s s.cur code addr detail)
def illegal (s : State) : Host.Outcome State Fault Refusal := takeTrap s .illegal 0 0
def misalign (s : State) (a : Word) : Host.Outcome State Fault Refusal := takeTrap s .misalign a 0
/-- A bad address or a resource outside the partition: WINDOW on a core, PAGE on a stoker or hob unit (R57). -/
def windowTrap (s : State) (a : Word) : Host.Outcome State Fault Refusal :=
  takeTrap s (if kindOf s.cur = .core then .window else .page) a 0
def pageTrap (s : State) (a : Word) : Host.Outcome State Fault Refusal := takeTrap s .page a 0

/-! ## Return from an exception: the effect of TRET on the record it names (R208) -/

/-- The hart that holds the parked or halted continuation of a record. -/
def State.holderOf (s : State) (p : Nat) (rcd : Word) : Option Hart :=
  (s.threads.map Prod.fst).find? (fun k =>
    let t := s.thread k
    t.cont.rcd == rcd && t.cont.part == p && (t.run == .parked || t.run == .halted))

/-- The job kept under a number of its own whose continuation has the record: a RUN job, or a copy job between two stokers (R289,
R305). -/
def State.runJob (s : State) (p : Nat) (rcd : Word) : Option (Nat × Job) :=
  match s.jobs.find? (fun e => decide (16384 ≤ e.1) && e.2.any (fun j => j.rcd == rcd && j.cont.part == p)) with
  | some (k, some j) => some (k, j)
  | _ => none

/-- Fields of request word 0 (R290). -/
def w0Channel (w : Word) : Nat := w.toNat / 16 % 16
def w0Scope (w : Word) : Nat := w.toNat / 256 % 8
def w0Tdst (w : Word) : Bool := w.getLsbD 11
def w0Mben (w : Word) : Bool := w.getLsbD 12
def w0Notify (w : Word) : Bool := w.getLsbD 13
def w0Mbox (w : Word) : Word := BitVec.ofNat 64 (w.toNat / 2 ^ 16 % 2 ^ 40)
def w0Ci (w : Word) : Nat := w.toNat / 2 ^ 56

/-- The mailbox record of R299 and the channel's end or fault (R301, R302): `stop` is END. Completion raises the counter that
NOTIFY names; a job whose channel was reset no longer touches it. -/
def chanEnd (s : State) (h : Hart) (j : Job) (stop fcode : Nat) (fva : Word) (st : ChanSt) : State :=
  let first := stop + 256 * fcode + j.seq.toNat * 2 ^ 16 + j.invalid.toNat * 2 ^ 32
  let rest := leBytes 8 fva.toNat ++ (j.ivec.map (leBytes 2)).flatten ++ leBytes 4 0
  let s := if w0Mben j.w0 then putMailbox s h j.cont.part j.cont.acc (some (w0Mbox j.w0)) first rest else s
  let s := if stop = 1 && w0Notify j.w0 then notifyUp s (j.core / 8) (w0Ci j.w0) else s
  if j.owned then
    s.setChan j.core j.ch { s.chan j.core j.ch with
      st := st, lastend := BitVec.ofNat 8 stop, fcode := BitVec.ofNat 8 fcode, fva := fva
      guard := if st = .faulted then (s.chan j.core j.ch).guard else none }
  else s

/-- The mailbox record with which a job ends or faults waits for an unfilled copy destination (R85), another's than the job's own, whose
accesses its end or fault releases. -/
def State.endWaits (s : State) (j : Job) : Bool :=
  w0Mben j.w0 && (if j.owned then s.setChan j.core j.ch { s.chan j.core j.ch with guard := none } else s).mailboxWaits (some (w0Mbox j.w0)) 24
/-- The record of a job that ends with its continuation waits so. -/
def State.recordWaits (s : State) (p : Nat) (rcd : Word) : Bool :=
  s.jobs.any (fun e => e.2.any (fun j => j.rcd == rcd && j.cont.part == p && s.endWaits j))

/-- A faulted copy job goes on (R289, R302, R304): its channel is ACTIVE, its record is queued for any idle thread set of its stoker,
where it goes on at IVEC, and the hart that held it falls idle. -/
def resumeJob (s : State) (k : Hart) (j : Job) : State :=
  let c := (s.thread k).cont
  let s := if j.owned then s.setChan j.core j.ch { s.chan j.core j.ch with st := .active } else s
  let s := { (s.setJob k none).setJob (16384 + s.fresh) (some { j with st := .moving }) with fresh := s.fresh + 1 }
  ((putStatus s k c 1).enqueue c.part (readyEntry s k c)).goIdle k

/-- Retire the continuation that hart `k` holds (R52, R208): STATUS 8, its array is given up, the thread set falls idle. -/
def retireHart (s : State) (k : Hart) : State :=
  let c := (s.thread k).cont
  let s := (putStatus s k c 8).releaseArray k
  match s.job k with
  | some j => ((putStatus (chanEnd s k j 2 4 0 .idle) k c 0).setJob k none).goIdle k
  | none => match s.runJob c.part c.rcd with
    | some (n, j) => ((putStatus (chanEnd s k j 2 4 0 .idle) k c 0).setJob n none).goIdle k
    | none => (endRecord s k c 8).goIdle k

/-- A hart that runs no further head, its continuation at an end (OVERDUE, R110; XCANCEL of its RUN job, R302), is retired once the
trap record that ends it is written or lost and every store it committed is performed (R35); until then it is not idle (R34). -/
def finishRetiring (s : State) (h : Hart) : State :=
  let c := (s.thread h).cont
  if (s.thread h).run ≠ .retiring || (s.part c.part).traps.any (fun r => r.retire == some (h, c)) then s
  else
    let s := s.drain h
    if s.blocked h || s.recordWaits c.part c.rcd then s else retireHart s h

/-- Release one parked or halted hart (R208): a halted one goes on behind HALT, a parked one is queued. It resumes where R41 lets one
that suspended at WAITC or YIELD resume (DESIGN CHOICE, log 41). -/
def releaseHart (s : State) (k : Hart) : State :=
  let t := s.thread k
  match t.run with
  | .halted =>
    let r := { t.regs with pc := s.fall k }
    s.setThread k { t with run := .running, regs := r, chunk := { begun := r } }
  | _ =>
    let s := (putStatus s k t.cont 1).releaseArray k
    (s.enqueue t.cont.part (readyEntry s k t.cont)).goIdle k

/-- The members of a gang that are parked or halted. -/
def State.stoppedIn (s : State) (x : Gang) : List Hart :=
  x.members.filter (fun m => (s.thread m).run == .parked || (s.thread m).run == .halted)
/-- A gang goes on as one once each member that stopped has been released (R208): the halted members run on behind HALT, and a gang
all of whose members were parked waits for placement as a whole. -/
def resumeGang (s : State) (g : Nat) (x : Gang) : State :=
  let stopped := s.stoppedIn x
  if stopped.all (fun m => x.released.contains (s.thread m).cont.rcd) then
    let s := stopped.foldl releaseHart (s.setGang g (some { x with released := [] }))
    if x.recs.all x.back.contains then (s.setGang g (some { x with released := [], back := [] })).gangWaits g else s
  else s.setGang g (some x)
/-- A member of a gang is released (R208): a halted one stays halted until the others are released as well; a parked one leaves its
thread set, its registers discarded (R114), and waits in the ready queue to go back to its gang. Skipped, it has done with its leader's
head; a leader that skips it goes on at the next (DEDUCED, log 31). -/
def releaseMember (s : State) (g : Nat) (x : Gang) (k : Hart) (rcd : Word) (skip : Bool) : State :=
  if (s.thread k).run == .halted then resumeGang s g { x with released := x.released ++ [rcd] }
  else
    let leads := (s.leads k).isSome
    let s := if skip then putPc s k (s.thread k).cont (s.fall k) else s
    let x := { x with back := x.back ++ [rcd], todo := if skip then x.todo.filter (fun m => m != k) else x.todo
                      redo := x.redo && !(skip && leads) }
    resumeGang (releaseHart (s.setGang g (some x)) k) g x
/-- A queued or waiting record of a gang is retired with the others (R208). -/
def retireQueued (s : State) (h : Hart) (p acc : Nat) (rcd : Word) : State :=
  let x := s.part p
  if x.ready.any (fun e => e.rcd == rcd) || x.waiting.any (fun e => e.rcd == rcd) then
    let s := s.setPart p { x with ready := x.ready.filter (fun e => e.rcd != rcd), waiting := x.waiting.filter (fun e => e.rcd != rcd) }
    let c : Cont := { rcd := rcd, part := p, acc := acc }
    endRecord (putStatus s h c 8) h c 8
  else s
/-- Every member of a gang is retired (R208); a member that still runs is retired at once, its open chunk dropped (DESIGN CHOICE, log
31). -/
def retireGang (s : State) (h : Hart) (p g : Nat) (x : Gang) : State :=
  let held (s : State) (m : Hart) : Bool := (s.thread m).run != .idle && (s.thread m).gang == some g
  let s := x.members.foldl (fun s m => if held s m then retireHart s m else s) s
  (x.recs.foldl (fun s r => retireQueued s h p x.acc r) s).setGang g none

/-- TRET by hart `h` on the record `rcd` with generation `gen` (R208). A copy job's record resumes the job (R304). Gang members
wait until every member that stopped has been released (R208); a second TRET on one that is released and still halted, whatever its
action, is stale (DESIGN CHOICE, log 31), and so is one on a record whose page does not translate (DESIGN CHOICE, log 41). -/
def trapReturn (s : State) (h : Hart) (rcd : Word) (gen : BitVec 16) (action : Nat) : State :=
  let p := (s.thread h).cont.part
  match readRecord s p rcd, s.holderOf p rcd with
  | (some r, s), some k =>
    if r.extractLsb' 288 16 ≠ gen then s.countPart p pStale
    else match s.gangOf k with
    | some (g, x) =>
      if x.released.contains rcd then s.countPart p pStale
      else if action = 0 then retireGang s h p g x
      else releaseMember s g x k rcd (action == 2)
    | none =>
      match s.job k with
      | some j =>
        if action = 0 then retireHart s k else resumeJob s k j
      | none =>
        if action = 0 then retireHart s k
        else
          let s := if action = 2 && (s.thread k).run == .parked then putPc s k (s.thread k).cont (s.fall k) else s
          releaseHart s k
  | (_, s), _ => s.countPart p pStale

end Sys2Proof.Machine
end

