-- ==== Sys2Proof/Machine/Flags.lean ====
section
/-! DEFINITION. The sticky flags of FLAGS (R95) and the results that raise them: rounding, SCALE and CLAMP of a floating result,
wrapping and saturation of an integer result (R129, R161, R162, R235, R236). -/

namespace Sys2Proof.Machine

/-- FLAGS receives the OR of the flags raised (R95, R231). -/
def Regs.raise (r : Regs) (f : Flg) : Regs := { r with ctl := { r.ctl with flags := r.ctl.flags ||| f } }

/-- CLAMP on the rounded value `bits` (R129): 1 is [0,1], 2 is [-1,1]. A NaN passes unchanged. -/
def Fmt.clampUnit (f : Fmt) (mode : Nat) (bits : Nat) : Nat × Flg :=
  let x := f.dec bits
  let one := f.rne (.fin false 1 0)
  let low : Num := if mode = 1 then .fin false 0 0 else .fin true 1 0
  let lowBits := if mode = 1 then 0 else f.signBit true + one
  if x.isNan then (bits, 0)
  else if Num.cmp (.fin false 1 0) x = .lt then (one, fSAT)
  else if Num.cmp x low = .lt then (lowBits, fSAT)
  else (bits, 0)

/-- The destination rule for a floating result (R129, R161, R235): multiply by 2^scale, round once, clamp. -/
def Fmt.finish (f : Fmt) (mode : Mode) (scale : Int) (clamp : Nat) (x : Res) : Nat × Flg :=
  if x.1.isNan then (f.nan, x.2)
  else
    let v := x.1.scale scale
    let r := f.round mode v
    match clamp with
    | 0 => (r.1, x.2 ||| r.2)
    | 3 =>
      match v with
      | .inf neg => (f.maxBits neg, x.2 ||| fSAT)
      | _ => if r.2 &&& fOF = 0 then (r.1, x.2 ||| r.2) else (f.maxBits v.isNeg, x.2 ||| fSAT)
    | m =>
      let c := f.clampUnit m r.1
      (c.1, x.2 ||| r.2 ||| c.2)

/-- Least and greatest value of a `w`-bit integer type (R159). -/
def intMin (signed : Bool) (w : Nat) : Int := if signed then -(2 ^ (w - 1) : Int) else 0
def intMax (signed : Bool) (w : Nat) : Int := if signed then 2 ^ (w - 1) - 1 else 2 ^ w - 1
/-- The value of a `w`-bit pattern, signed or unsigned. -/
def intOf (signed : Bool) (w : Nat) (x : Nat) : Int := if signed && 2 ^ (w - 1) ≤ x then (x : Int) - 2 ^ w else x
/-- The `w`-bit pattern of an integer, wrapping. -/
def wrapInt (w : Nat) (x : Int) : Nat := (x % (2 ^ w : Int)).toNat
/-- The destination rule for an integer result (R129, R236): wrap, or saturate under :sat and say so. -/
def finishInt (signed : Bool) (w : Nat) (clamp : Nat) (x : Int) : Nat × Flg :=
  if clamp = 3 then
    let y := max (intMin signed w) (min (intMax signed w) x)
    (wrapInt w y, flagIf (y != x) fSAT)
  else (wrapInt w x, 0)

/-- SCALE as a signed power of two (R128). -/
def scaleOf (md : BitVec 16) : Int := (modScale md).toInt
def clampOf (md : BitVec 16) : Nat := (modClamp md).toNat

end Sys2Proof.Machine
end

