-- ==== Sys2Proof/Machine/Operands.lean ====
section
/-! DEFINITION. Operand forms: addresses and access checks of R57 to R66 and R214, weak accesses of a chunk (R70, R73, R85),
vector operands with their modifiers, lanes and streams (R89, R129, R231, R232, R249 to R256). -/

namespace Sys2Proof.Machine

abbrev Result := Host.Outcome State Fault Refusal

/-! ## Scalar operands -/

/-- Size in bytes of a lane type. -/
def tyBytes (t : Ty) : Nat := t.width / 8
/-- A loaded pattern extended as its type says (R211). -/
def extendTy (t : Ty) (n : Nat) : Word :=
  if t.isInt && t.isSigned then BitVec.ofInt 64 (intOf true t.width (n % 2 ^ t.width)) else BitVec.ofNat 64 (n % 2 ^ t.width)
/-- Effective address word (R210). -/
def State.ea (s : State) (base : Reg) (off : BitVec 16) : Word := s.rs base + off.signExtend 64
/-- The partition of the issuing hart, and the acceptance number of its task. -/
def State.myPart (s : State) : Nat := s.me.cont.part
def State.myAcc (s : State) : Nat := s.me.cont.acc

/-! ## Access checks -/

/-- What an on-chip access wants. -/
inductive Acc where
  | weakLoad
  | weakStore
  /-- LDA and STL. -/
  | strong
  /-- AMO and RED. -/
  | rmw
  /-- PUTC data, APND descriptor and destination. -/
  | plain
  deriving DecidableEq, Repr

/-- A byte that an access of `n` bytes from `oa` on touches, in a register window or in regions 10 and 11, which take no access of
that size and alignment: a window takes 8 aligned bytes, its vector registers 64 as well (R61), and a 64-byte weak access to regions 10
and 11 is refused at every offset, whatever lies there (R212). -/
def badTouch (oa n k : Nat) : Bool :=
  match oaSpace k with
  | some .window =>
    let w := oaOff k % 0x10000
    !((n == 8 || (n == 64 && decide (0x1000 ≤ w && w < 0x1800))) && oa % n == 0)
  | _ => n == 64 && (oaRegion k == 10 || oaRegion k == 11)
/-- The size and alignment rules of R61, R66 and R212: what raises MISALIGN. Weak and strong loads and stores are the accesses that a
register window knows, and are judged by every byte they touch; any other is only aligned as R66 says, and R214 refuses a window. -/
def misaligned (a : Acc) (oa n : Nat) : Bool :=
  (a != .weakLoad && a != .weakStore && oa % n != 0) ||
  ((a == .weakLoad || a == .weakStore || a == .strong) && decide (oa < 2 ^ 40) && (List.range n).any (fun i => badTouch oa n (oa + i)))

/-- The targets of R62 and R214 that an access may name. -/
def targetOk (a : Acc) (sp : Space) : Bool :=
  match a with
  | .weakLoad => true
  | .weakStore => sp != .kindling && sp != .counter && sp != .wt
  | .strong => sp != .kindling
  | .rmw => sp != .kindling && sp != .window
  | .plain => sp == .scratch || sp == .acc

/-- The trap an on-chip access of `n` bytes takes, if any, in the order of R113. -/
def State.accessTrap (s : State) (a : Acc) (ea : Word) (n : Nat) : Option Trap :=
  if misaligned a ea.toNat n then some .misalign
  else if !isOA ea then some .window
  else if !s.oaOk s.myPart ea.toNat n then some .window
  else match oaSpace ea.toNat with
  | some sp => if targetOk a sp then none else some .window
  | none => some .window

/-- Raise the trap that a bad address takes. A word that breaks R57 is PAGE where the issuer is no core. -/
def addressTrap (s : State) (t : Trap) (ea : Word) : Result :=
  if t = .window && !isAddr ea then windowTrap s ea else takeTrap s t ea 0

/-- What a counter address word is refused for (R198, R221): a word that is not a multiple of 8 first, wherever it lies (R66, R113)
(DEDUCED, log 38). -/
def State.counterTrap (s : State) (w : Word) : Option Trap :=
  if w.toNat % 8 ≠ 0 then some .misalign
  else if isOA w && oaSpace w.toNat == some .counter && s.dieIn s.myPart (oaDie w.toNat) then none
  else some .window

/-! ## Weak accesses of the open chunk -/

/-- A cluster control register as the chunk of `h` sees it: the order's value overlaid with the chunk's own stores. -/
def State.ownCtl (s : State) (h : Hart) (n : Nat) : Word :=
  let c := (s.thread h).chunk
  let s' := (c.stores.filter (fun w => w.key < 2 ^ 40 && oaSpace w.key == some .ctl && oaCl w.key == hartCl h)).foldl
    (fun s w => storeCtl s (hartCl h) (oaOff w.key) w.data) s
  (s'.cluster (hartCl h)).getCtl n

/-- A byte of a register window as the chunk of `h` sees it: its own stores there have the effect they will have when they
land, so what is discarded is not seen (R61, R90, R91). Stores to an idle thread set are discarded (DEDUCED, log 34). -/
def State.ownWindow (s : State) (h : Hart) (k : Nat) : Byte :=
  let t := s.thread (coreHart (oaCl k) (oaRegion k) ((oaOff k - 0x1000000) / 0x10000))
  let mine := (s.thread h).chunk.stores.filter (fun w => w.key < 2 ^ 40 && oaSpace w.key == some .window && oaUnit w.key == oaUnit k)
  if t.run = .idle then s.byteAt k
  else windowByte (mine.foldl (fun r w => (windowStore r (oaOff w.key % 0x10000) w.data).1) t.windowRegs) (oaOff k % 0x10000)

/-- What the last of some stores to write byte `k` left there. -/
def storedByte (l : List WStore) (k : Nat) : Option Byte :=
  (l.reverse.find? (fun w => w.key ≤ k && k < w.key + w.data.length)).map (fun w => (w.data[k - w.key]?).getD 0)
/-- A byte as hart `h` reads it: the order's value overlaid with the chunk's own earlier stores (R70). -/
def State.ownByte (s : State) (h : Hart) (k : Nat) : Byte :=
  if k < 2 ^ 40 && oaSpace k == some .ctl && kindOf h == .core && oaCl k == hartCl h then
    (s.ownCtl h (16 + oaOff k / 8)).extractLsb' (8 * (k % 8)) 8
  else if k < 2 ^ 40 && oaSpace k == some .window then s.ownWindow h k
  else (storedByte (s.thread h).chunk.stores k).getD (s.byteAt k)
def State.ownBytes (s : State) (h : Hart) (k n : Nat) : List Byte := (List.range n).map (fun i => s.ownByte h (k + i))

def addLines (l new : List Nat) : List Nat := new.foldl (fun l x => if l.contains x then l else x :: l) l

/-- The chunk of `h` reads `n` bytes at `k`: the lines join its read signature. -/
def State.noteRead (s : State) (h : Hart) (k n : Nat) : State :=
  let t := s.thread h
  s.setThread h { t with chunk := { t.chunk with rlines := addLines t.chunk.rlines (linesOf k n) } }
/-- A weak store of the chunk of `h`, buffered until commit (R69). A store to s0 or m0 of a register window is discarded (R61). -/
def State.weakStore (s : State) (h : Hart) (k : Nat) (bytes : List Byte) : State :=
  let t := s.thread h
  let w := oaOff k % 0x10000
  if k < 2 ^ 40 && oaSpace k == some .window && (w < 8 || (0x2000 ≤ w && w < 0x2008)) then s
  else s.setThread h { t with chunk := { t.chunk with
    stores := t.chunk.stores ++ [{ key := k, data := bytes }], wlines := addLines t.chunk.wlines (linesOf k bytes.length) } }

/-- A weak load that may go on now: an own message to the bytes (R215) and an unfilled destination (R85) hold it. -/
def State.held (s : State) (h : Hart) (k n : Nat) : Bool := s.mustWait h k n || s.guarded k n

/-! ## Stream bindings -/

def Regs.binding (r : Regs) (n : Reg) : Option Binding := if 24 ≤ n.toNat then Tab.get none r.streams (n.toNat - 24) else none
def Regs.setBinding (r : Regs) (n : Reg) (b : Option Binding) : Regs := { r with streams := Tab.set none r.streams (n.toNat - 24) b }

/-- N of R251. -/
def Binding.total (b : Binding) : Nat := b.bounds.foldl (fun a x => a * x) 1
/-- Σ id × STRIDEd for element `k`. -/
def strideSum : Nat → List Nat → List Int → Int
  | k, bd :: bs, st :: ss => ((k % bd : Nat) : Int) * st + strideSum (k / bd) bs ss
  | _, _, _ => 0
/-- Key of element `k` of an affine pattern (R251). -/
def Binding.elem (b : Binding) (k : Nat) : Nat := ((b.base : Int) + strideSum k b.bounds b.strides).toNat

/-- An element of a read binding, given what the cluster order held there when it was read: overlaid with the thread's own stores
before the SBIND (R254). After a squash these are the stores of the run that bound it. -/
def Binding.seen (b : Binding) (k : Nat) (raw : Vec) : Vec :=
  bytesVec ((List.range 64).map (fun i => (storedByte b.own (k + i)).getD (raw.extractLsb' (8 * i) 8)))

/-- The first register read or written against its binding's direction (R89), which DETAIL names: the first source, and the
destination only where no source offends (DESIGN CHOICE, log 37). -/
def Regs.against (r : Regs) (srcs : List Reg) (dst : Option Reg) : Option Reg :=
  match srcs.find? (fun n => match r.binding n with | some b => b.write | none => false) with
  | some n => some n
  | none => match dst with
    | none => none
    | some n => match r.binding n with
      | some b => if b.write then none else some n
      | none => none

/-- What popping gives. -/
inductive Pop where
  | stall
  /-- A marked query heads channel `ch` at entry `idx`: query `qid` of table slot `slot` (R330). -/
  | range (ch qid slot : Nat)
  | ok (vals : List (Reg × Vec)) (s : State)

def logKey (n : Reg) (k : Nat) : Nat := n.toNat * 2 ^ 64 + k
def overrunKey : Nat := 2 ^ 50

/-- The entry that the next pop of hart `h` takes from a channel: the first of those it must take again after a squash, then the
first that no other open chunk has taken (R71, R256). `done` counts those it has popped in its chunk. -/
def nextEntry (h : Hart) : Nat → List ArrEntry → Option ArrEntry
  | _, [] => none
  | done, e :: r =>
    if e.taken = some h then (match done with
      | 0 => some e
      | k + 1 => nextEntry h k r)
    else if e.taken.isSome then nextEntry h done r
    else some e
/-- The first `n` entries that are hart `h`'s or free are its own from now on. -/
def takeEntries (h : Hart) : Nat → List ArrEntry → List ArrEntry
  | _, [] => []
  | 0, l => l
  | n + 1, e :: r =>
    if e.taken.isNone || e.taken = some h then { e with taken := some h } :: takeEntries h n r else e :: takeEntries h (n + 1) r
/-- Hart `h` has popped `n` entries of a channel in its chunk. -/
def State.popTo (s : State) (h : Hart) (ch n : Nat) : State :=
  let c := s.core (hartCore h)
  let s := s.setCore (hartCore h) (c.setArrivals ch (takeEntries h n (c.arrivals ch)))
  let t := s.thread h
  s.setThread h { t with chunk := { t.chunk with pops := Tab.set 0 t.chunk.pops ch n } }

/-- One pop of register `n` bound as `b` by the issuing hart. What an affine pop took from the cluster order is kept for replay as it
stood there (R71). -/
def popOne (s : State) (n : Reg) (b : Binding) : Pop :=
  let h := s.cur
  let t := s.thread h
  if b.arrival then
    let taken := Tab.get 0 t.chunk.pops b.channel
    match nextEntry h taken ((s.core (hartCore h)).arrivals b.channel) with
    | none => .stall
    | some e =>
      match e.kind with
      | .query qid (some slot) => .range b.channel qid slot
      | _ =>
        let r := t.regs.setBinding n (some { b with count := b.count + 1 })
        .ok [(n, e.data)] ((s.setThread h { t with regs := r }).popTo h b.channel (taken + 1))
  else
    let past := b.total ≤ b.pos
    let k := b.elem b.pos
    let key := logKey n (if past then overrunKey else k)
    let nb : Binding :=
      { b with pos := if past then b.pos else b.pos + 1, count := b.count + 1, fetched := b.fetched.drop 1 }
    let fin (x : Vec) (replay : List (Nat × Vec)) : Pop :=
      let chunk : Chunk := { t.chunk with log := t.chunk.log ++ [(key, x)], past := t.chunk.past + (if past then 1 else 0) }
      .ok [(n, if past then x else b.seen k x)]
        (s.setThread h { t with regs := t.regs.setBinding n (some nb), replay := replay, chunk := chunk })
    match t.replay.find? (fun e => e.1 == key) with
    | some e => fin e.2 (t.replay.erase e)
    | none =>
      if past then fin 0 t.replay
      else match b.fetched with
        | x :: _ => fin x t.replay
        | [] => if s.held h k 64 then .stall else fin (bytesVec (s.bytesAt k 64)) t.replay

/-- Pop every bound register among the sources once (R89). -/
def popAll (s : State) : List Reg → Pop
  | [] => .ok [] s
  | n :: r =>
    match popAll s r with
    | .ok vals s' =>
      if (vals.map Prod.fst).contains n then .ok vals s'
      else match s'.me.regs.binding n with
        | none => .ok vals s'
        | some b => match popOne s' n b with
          | .ok v s'' => .ok (v ++ vals) s''
          | x => x
    | x => x

/-- Remove every entry of query `qid` from a channel. -/
def State.dropQuery (s : State) (core ch qid : Nat) : State :=
  s.setCore core ((s.core core).setArrivals ch (((s.core core).arrivals ch).filter (fun e => match e.kind with
    | .query q _ => q != qid
    | _ => true)))

/-- TQRANGE at a pop (R330): the trap removes the query's entries. -/
def rangeTrap (s : State) (ch qid slot : Nat) : Result :=
  match s.endChunk s.cur with
  | .error s' => .next s'
  | .ok s' =>
    let i := trapHere s' s'.cur .tqrange 0 slot
    if s'.blocked s'.cur then .next s' else .next (park (s'.dropQuery (hartCore s'.cur) ch qid) s'.cur i)

/-- The push that a vector destination is bound for must wait: an own message targets the element, or a copy has not filled it yet
(R85, R215, R255). -/
def State.pushWaits (s : State) (dst : Option Reg) : Bool :=
  match dst with
  | none => false
  | some n => match s.me.regs.binding n with
    | some b => b.write && decide (b.pos < b.total) && s.held s.cur (b.elem b.pos) 64
    | none => false

/-- Check the directions of a vector instruction's registers, then go on (R89, R113); a push that must wait leaves the head for
another turn. -/
def withDir (s : State) (srcs : List Reg) (dst : Option Reg) (k : State → Result) : Result :=
  match s.me.regs.against srcs dst with
  | some n => takeTrap s .stream 0 n.toNat
  | none => if s.pushWaits dst then .next s else k s

/-- Pop the bound sources and go on with the value of each source register. -/
def withPops (s : State) (i : Instr) (srcs : List Reg) (k : State → (Reg → Vec) → Result) : Result :=
  match popAll s srcs with
  | .stall => s.stalled i
  | .range ch qid slot => rangeTrap s ch qid slot
  | .ok vals s' => k s' (fun n => (vals.lookup n).getD (s.me.regs.getV n))

/-- What a vector destination holds before it is written: zero where it is bound, since a pushed lane that is not written is
zero (R232). -/
def State.oldV (s : State) (n : Reg) : Vec := if (s.me.regs.binding n).isSome then 0 else s.me.regs.getV n

/-- Write a vector destination: a bound register pushes to its next element as a weak store of the chunk (R251, R255). -/
def State.putV (s : State) (n : Reg) (x : Vec) : State :=
  let h := s.cur
  let t := s.thread h
  match t.regs.binding n with
  | none => s.setRegs (t.regs.setV n x)
  | some b =>
    if b.total ≤ b.pos then
      s.setThread h { t with regs := t.regs.setBinding n (some { b with count := b.count + 1 })
                             chunk := { t.chunk with past := t.chunk.past + 1 } }
    else
      let s := s.setThread h { t with regs := t.regs.setBinding n (some { b with pos := b.pos + 1, count := b.count + 1 }) }
      s.weakStore h (b.elem b.pos) (vecBytes x 0 64)

/-! ## Lanes and modifiers -/

def laneOf (w : Nat) (v : Vec) (i : Nat) : Nat := (v.extractLsb' (w * i) w).toNat
/-- A vector from its lanes, lane 0 first. -/
def ofLanes (w : Nat) (l : List Nat) : Vec := BitVec.ofNat 512 (l.foldr (fun x a => x % 2 ^ w + 2 ^ w * a) 0)
def lanesOf (t : Ty) : Nat := 512 / t.width
/-- Bit `i` of the write mask of a modifier word (R232). -/
def maskOn (s : State) (md : BitVec 16) (i : Nat) : Bool := (s.me.regs.getM (modMask md).toNat).getLsbD i

/-- Source `k` of type `t` under ABS and NEG (R129). -/
def modLane (t : Ty) (md : BitVec 16) (k : Nat) (x : Nat) : Nat :=
  let w := t.width
  if t.isInt then
    let a := if modAbs md k && 2 ^ (w - 1) ≤ x then wrapInt w (2 ^ w - x) else x
    if modNeg md k then wrapInt w (-(a : Int)) else a
  else
    let a := if modAbs md k then x % 2 ^ (w - 1) else x
    if modNeg md k then (if 2 ^ (w - 1) ≤ a then a - 2 ^ (w - 1) else a + 2 ^ (w - 1)) else a

/-- Every enabled lane of a vector of type `t` takes `f i`, the others keep `old`; the flags of the enabled lanes. -/
def mapLanes (t : Ty) (on : Nat → Bool) (old : Vec) (f : Nat → Nat × Flg) : Vec × Flg :=
  let w := t.width
  let l := (List.range (lanesOf t)).map (fun i => if on i then f i else (laneOf w old i, (0 : Flg)))
  (ofLanes w (l.map Prod.fst), (l.map Prod.snd).foldl (fun a b => a ||| b) 0)

/-- The result of a vector instruction is written and its flags raised; the head is done. -/
def State.doneV (s : State) (vd : Reg) (x : Vec) (f : Flg) : Result :=
  ((s.putV vd x).setRegs ((s.putV vd x).me.regs.raise f)).done
/-- Flags raised and a scalar result written; the head is done. -/
def State.doneS (s : State) (rd : Reg) (w : Word) (f : Flg) : Result :=
  (s.setRegs ((s.me.regs.raise f).setS rd w)).done
/-- The value of a pattern of type `t` (R157, R159). -/
def valOf (t : Ty) (x : Nat) : Num := if t.isInt then Num.ofInt (intOf t.isSigned t.width x) else (fmtOf t.toNat).dec x

end Sys2Proof.Machine
end

