-- ==== Sys2Proof/Machine/Fetch.lean ====
section
/-! DEFINITION. What stands between a thread set's turn and the meaning of its head: run status, deadline, gang order, chunk end,
pending window stores, MNF delivery, fetch, decoding, the heads each kind of hart takes, and the staggering of REP. -/

namespace Sys2Proof.Machine

/-! ## Heads that a kind of hart takes (R134, R287, R323, R337) -/

/-- Whether a head of this major and fields may issue on a hart of kind `k`; elsewhere it raises ILLEGAL. -/
def hartTakes (k : HartKind) (major : Nat) (a b : Nat) : Bool :=
  match k with
  | .core => !(major == 0x28 || major == 0x29 || major == 0x2C)
  | .stoker =>
    !(0x23 ≤ major && major ≤ 0x27) && major != 0x2A && !(0x2C ≤ major && major ≤ 0x2F) &&
    !(major == 0x0D && (a == 4 || a == 5)) && !(major == 0x0F && 16 ≤ b) && !(major == 0x10 && 16 ≤ a)
  | .hob =>
    (1 ≤ major && major ≤ 8) || (major == 0x0D && (a == 0 || a == 1 || a == 7)) || major == 0x11 || major == 0x12 || major == 0x2C

/-- HTLOAD, HMODE and HOVL are legal on stoker harts only (R323). -/
def stokerOnly : Instr → Bool
  | .htload _ _ _ | .hmode _ _ | .hovl _ _ _ => true
  | _ => false

/-! ## REP (R192 to R195) -/

/-- The PCs of `n` heads from `pc` on in fall-through order, and the head after them. -/
def State.bodyPcs (s : State) (h : Hart) : Nat → Word → List Word × Word
  | 0, pc => ([], pc)
  | n + 1, pc =>
    let next := match s.lineAt h pc with
      | some l => fallPc l pc
      | none => pcMove pc 0 (pcSlot pc + 1)
    let r := State.bodyPcs s h n next
    (pc :: r.1, r.2)

/-- The head at a PC, where its line can be fetched and is well formed. -/
def State.headOf (s : State) (h : Hart) (pc : Word) : Option (Head × Tail) :=
  match s.lineAt h pc with
  | none => none
  | some l => match lineSlot l (pcSlot pc) with
    | .ok x => some x
    | .error _ => none

/-- A head that no REP body may hold (R194). A body line that cannot be fetched, or that is fetched and malformed (R120), bars
nothing here and traps when its head is reached (DEDUCED, log 39). -/
def repBars (hd : Head) : Bool :=
  0x06 ≤ hd.major.toNat && hd.major.toNat ≤ 0x0E && !(hd.major.toNat == 0x0D && hd.fieldA == 0#5)

/-- Change the vector fields of an instruction (R193). -/
def mapVec (f : Reg → Reg) : Instr → Instr
  | .ldv vd b o => .ldv (f vd) b o
  | .stv vs b o => .stv (f vs) b o
  | .dldVector vd b o => .dldVector (f vd) b o
  | .dstVector vs b o => .dstVector (f vs) b o
  | .vadd d a b t m => .vadd (f d) (f a) (f b) t m
  | .vsub d a b t m => .vsub (f d) (f a) (f b) t m
  | .vmul d a b t m => .vmul (f d) (f a) (f b) t m
  | .vfma d a b c t m => .vfma (f d) (f a) (f b) (f c) t m
  | .vfms d a b c t m => .vfms (f d) (f a) (f b) (f c) t m
  | .vfnma d a b c t m => .vfnma (f d) (f a) (f b) (f c) t m
  | .vdiv d a b t m => .vdiv (f d) (f a) (f b) t m
  | .vsqrt d a t m => .vsqrt (f d) (f a) t m
  | .vmin d a b t m => .vmin (f d) (f a) (f b) t m
  | .vmax d a b t m => .vmax (f d) (f a) (f b) t m
  | .vand d a b t m => .vand (f d) (f a) (f b) t m
  | .vor d a b t m => .vor (f d) (f a) (f b) t m
  | .vxor d a b t m => .vxor (f d) (f a) (f b) t m
  | .vshl d a b t m => .vshl (f d) (f a) (f b) t m
  | .vshlImm d a n t m => .vshlImm (f d) (f a) n t m
  | .vshr d a b t m => .vshr (f d) (f a) (f b) t m
  | .vshrImm d a n t m => .vshrImm (f d) (f a) n t m
  | .vsra d a b t m => .vsra (f d) (f a) (f b) t m
  | .vsraImm d a n t m => .vsraImm (f d) (f a) n t m
  | .vsel d a b k t m => .vsel (f d) (f a) (f b) k t m
  | .vmov d a t m => .vmov (f d) (f a) t m
  | .vcmp d a b c t m => .vcmp d (f a) (f b) c t m
  | .vclass d a st t m => .vclass d (f a) st t m
  | .vcvt d a dt st p md m => .vcvt (f d) (f a) dt st p md m
  | .vqnt d a b t m => .vqnt (f d) (f a) (f b) t m
  | .vdq d a p t m => .vdq (f d) (f a) p t m
  | .vsplat d r t m => .vsplat (f d) r t m
  | .vext r a i t => .vext r (f a) i t
  | .vins d r i t => .vins (f d) r i t
  | .vperm d a b t m => .vperm (f d) (f a) (f b) t m
  | .vredAdd r a t m => .vredAdd r (f a) t m
  | .vredMin r a t m => .vredMin r (f a) t m
  | .vredMax r a t m => .vredMax r (f a) t m
  | .vdot r a b t m => .vdot r (f a) (f b) t m
  | .vidx d r t m => .vidx (f d) r t m
  | .sbind v d => .sbind (f v) d
  | .sunb v => .sunb (f v)
  | .sskip v c => .sskip (f v) c
  | .tqB v x => .tqB (f v) x
  | .tqH v x => .tqH (f v) x
  | .tqPair v x w => .tqPair (f v) x (f w)
  | .tqIntp v x => .tqIntp (f v) x
  | .knmode v => .knmode (f v)
  | .knlaunch a b => .knlaunch (f a) (f b)
  | .kncapt a b => .kncapt (f a) (f b)
  | .knfirst a b => .knfirst (f a) (f b)
  | i => i

/-- The head as pass `p` of a REP issues it: a field that names a bound register keeps it (R193) (DEDUCED, log 37). -/
def stagger (r : Regs) (i : Instr) : Instr :=
  match r.rep with
  | none => i
  | some x => mapVec (fun n => if (r.binding n).isSome then n else n + BitVec.ofNat 5 (x.pass * x.stride)) i

/-! ## A turn of a hart -/

/-- What a hart's turn comes to: an answer, an event at a place, or the issue of an instruction. -/
inductive Prep where
  | answer (o : Result)
  | event (i : Instr) (place : Nat)
  | issue (i : Instr) (s : State)

/-- The head of hart `h`: its line is fetched and held, checked and the head decoded; otherwise its trap (R118, R121, R123, R134): a
fetch without a valid translation or outside the partition is WINDOW on every hart, as the last row of R123 has it. A page that a migration holds keeps the fetch waiting (R310), and a redirect moves a stoker's hart (R305);
a hob unit's PC outside its overlay is a hob fault (R341). -/
def fetchDecode (s : State) (h : Hart) : Prep :=
  let pc := (s.thread h).regs.pc
  match s.fetchMoves h pc with
  | some st => .answer (.next (s.setThread h { s.thread h with wait := .redirect st }))
  | none =>
  match s.fetchLine h pc with
  | (.wait, s) => .answer (.next s)
  | (.fail, s) =>
    let ln := pcMove pc 0 0
    if kindOf h = .hob then .answer (hobFault s h 6)
    else .answer (takeTrapInfo s h { trapHere s h .window ln 0 with pc := ln })
  | (.line l, s) =>
    let s := s.holdLine h pc l
    match lineSlot l (pcSlot pc) with
    | .error _ => .answer (takeTrapInfo s h (trapHere s h .linefmt 0 0))
    | .ok (hd, tl) =>
      let bad := Prep.answer (takeTrapInfo s h (trapHere s h .illegal 0 0))
      match decode hd tl with
      | .error _ => bad
      | .ok i =>
        let j := stagger (s.thread h).regs i
        if hartTakes (kindOf h) hd.major.toNat hd.fieldA.toNat hd.fieldB.toNat && (kindOf h == .stoker || !stokerOnly i)
            && j.wellFormed then .issue j s
        else bad

/-- The chunk of a gang's member, not its leader, ends here, the heads that it runs again done: it holds the commit token, which comes back
before its leader goes on, or its leader is about to take it (R72, R202) (DEDUCED, log 31). -/
def tokenEnds (s : State) (h : Hart) : Bool :=
  let t := s.thread h
  t.path.isEmpty && t.chunk.executed != 0 &&
    (s.gangOf h).any (fun x => x.2.members.head?.any (fun k => k != h && (s.tokenOf (arbOf h) == some h || s.tokenDue k)))
/-- The leader of a gang that is to hold the commit token takes it as it issues the first head of its chunk (R72). -/
def takeToken (s : State) (h : Hart) : State := if s.tokenDue h then s.setToken (arbOf h) (some h) else s

/-- Where hart `h` stands in its gang: whether it may issue now. A leader waits until every member stands where it does with its
chunk committed as far as the leader's (R202), none of them holds the commit token, and none has heads to commit where the leader is to
take it (R72); at a head that it trapped at before it goes first, and its members wait for its
outcome until that head has committed (DEDUCED, log 31). -/
def gangTurn (s : State) (h : Hart) : Bool :=
  let t := s.thread h
  if !t.path.isEmpty then true
  else match t.gang.bind s.gang with
  | none => true
  | some x =>
    if (s.leads h).isSome then
      (if x.redo then t.chunk.executed == 0 else x.todo.isEmpty) && x.members.all (fun m => let u := s.thread m
                                               u.path.isEmpty && u.run == .running && !u.chunk.ended &&
                                               (m == h || (s.tokenOf (arbOf h) != some m && (!s.tokenDue h || u.chunk.executed == 0))))
    else x.todo.contains h && !(x.redo && (x.members.head?.map (fun k => (s.thread k).run == .running)).getD false)

/-- The MNF record that a hart meets before its next head (R113, R115, R277). -/
def mnfInfo (s : State) (h : Hart) (m : MnfRec) : TrapInfo :=
  { trapHere s h .mnf 0 m.tile with head := m.head, tail := m.tail, row := m.row, col := m.col
                                    fmta := m.fmta, fmtb := m.fmtb, fmtc := m.fmtc }

/-- Whether a store pending for a hart may land: its chunk has not begun (R61), not even with a head that has issued and waits, for a
remote load, a stream's entries or whatever it stalls at. The boundary of a chunk that a head performed on its own ends lies behind that
head (DESIGN CHOICE, log 34). -/
def atBoundary (t : Thread) : Bool :=
  t.run == .running && t.chunk.executed == 0 && t.chunk.pops.isEmpty && (match t.wait with
    | .load _ | .stall _ => false
    | _ => true)

/-- One turn of hart `h`. -/
def prepare (s : State) (h : Hart) : Prep :=
  let t := s.thread h
  if t.run ≠ .running || (s.job h).isSome then .answer (.next s)
  else if (match t.mark with | some d => decide (d ≤ s.now) | none => false) then .event .overdue h
  else match t.wait with
  | .load _ | .msg _ _ | .bar _ _ | .answer _ | .gang _ | .redirect _ => .answer (.next s)
  | .none | .stall _ =>
    if atBoundary t && !t.pend.isEmpty then
      .event (if (t.pend.head?.map (fun w => decide (0x3000 ≤ w.key))).getD false then .registerWrite else .registerWindowStore) h
    else if t.chunk.ended then .event .chunkCommit h
    else if tokenEnds s h then .answer (.next (s.markEnded h))
    else if 512 ≤ t.chunk.executed then .event .chunkLengthEnd h
    else if 64 ≤ t.chunk.wlines.length then .event .storeFootprintEnd h
    else if !gangTurn s h then .answer (.next s)
    else match t.mnf.filter (fun m => m.after ≤ t.chunk.executed) with
    | some m => .answer (takeTrapInfo s h (mnfInfo s h m))
    | none =>
      if kindOf h = .hob && 2 ^ 28 ≤ (Tab.get {} (s.stack (hartStack h)).hobs ((h - 13824) % 96)).executed then
        .event .hobBudgetExhausted (h - 13824)
      else fetchDecode (takeToken s h) h

end Sys2Proof.Machine
end

