-- ==== Sys2Proof/Machine/Access.lean ====
section
/-! DEFINITION. Loads and stores: LD, ST, LDV, STV, LDA, STL (R210 to R213), DLD and DST (R315), and the events of chunks, remote
accesses and register windows (R61, R68 to R74). -/

namespace Sys2Proof.Machine

/-! ## Weak loads and stores (R211, R212) -/

/-- The value of a weak load of hart `h`, as the bytes stand. -/
def State.loadNat (s : State) (h : Hart) (k n : Nat) : Nat := leNat (s.ownBytes h k n)

/-- A weak load of `n` bytes at key `k`: held back, taken at the own arbiter, or outstanding at another (R73, R85). -/
def weakLoad (s : State) (i : Instr) (k n : Nat) (f : State → Nat → Result) : Result :=
  if s.held s.cur k n then s.stalled i
  else if arbOfKey k = arbOf s.cur then f (s.noteRead s.cur k n) (s.loadNat s.cur k n)
  else .next (s.setMe { s.me with wait := .load i })
/-- A weak store of the chunk. -/
def weakStoreTo (s : State) (i : Instr) (k : Nat) (bytes : List Byte) : Result :=
  if s.held s.cur k bytes.length then s.stalled i else (s.weakStore s.cur k bytes).done

/-- A hob unit's LD and ST address its data memory (R337). -/
def hobData (s : State) (ea : Word) (n : Nat) (f : Nat → Result) : Result :=
  if ea.toNat + n ≤ 8192 then f (hobKey (s.cur - 13824) ea.toNat) else hobFault s s.cur 6

def execLd (rd base : Reg) (ty : Ty) (off : BitVec 16) (s : State) : Result :=
  let ea := s.ea base off
  let n := tyBytes ty
  let fin (k : Nat) : Result := weakLoad s (.ld rd base ty off) k n (fun s v => (s.ws rd (extendTy ty v)).done)
  if kindOf s.cur = .hob then hobData s ea n fin
  else match s.accessTrap .weakLoad ea n with
  | some t => addressTrap s t ea
  | none => fin ea.toNat

def execSt (rs base : Reg) (ty : Ty) (off : BitVec 16) (s : State) : Result :=
  let ea := s.ea base off
  let n := tyBytes ty
  let fin (k : Nat) : Result := weakStoreTo s (.st rs base ty off) k (leBytes n (s.rs rs).toNat)
  if kindOf s.cur = .hob then hobData s ea n fin
  else match s.accessTrap .weakStore ea n with
  | some t => addressTrap s t ea
  | none => fin ea.toNat

def execLdv (vd base : Reg) (off : BitVec 16) (s : State) : Result :=
  let ea := s.ea base off
  withDir s [] (some vd) (fun s =>
    match s.accessTrap .weakLoad ea 64 with
    | some t => addressTrap s t ea
    | none => weakLoad s (.ldv vd base off) ea.toNat 64 (fun s v => (s.putV vd (BitVec.ofNat 512 v)).done))

def execStv (vs base : Reg) (off : BitVec 16) (s : State) : Result :=
  let ea := s.ea base off
  withDir s [vs] none (fun s =>
    match s.accessTrap .weakStore ea 64 with
    | some t => addressTrap s t ea
    | none =>
      if s.held s.cur ea.toNat 64 then s.stalled (.stv vs base off)
      else withPops s (.stv vs base off) [vs] (fun s v => (s.weakStore s.cur ea.toNat (vecBytes (v vs) 0 64)).done))

/-! ## Strong loads and stores (R213) -/

/-- A strong access waits for the hart's earlier messages to the same bytes (R215). -/
def strongly (s : State) (i : Instr) (k n : Nat) (f : State → Result) : Result :=
  if s.mustWait s.cur k n then s.stalled i else f s

def execLda (rd base : Reg) (ty : Ty) (off : BitVec 16) (_scope : BitVec 3) (s : State) : Result :=
  let ea := s.ea base off
  let n := tyBytes ty
  match s.accessTrap .strong ea n with
  | some t => addressTrap s t ea
  | none => withChunkEnd s (fun s => strongly s (.lda rd base ty off _scope) ea.toNat n (fun s =>
      (s.ws rd (extendTy ty (s.readAt ea.toNat n))).doneStrong))

def execStl (rs base : Reg) (ty : Ty) (off : BitVec 16) (_scope : BitVec 3) (s : State) : Result :=
  let ea := s.ea base off
  let n := tyBytes ty
  match s.accessTrap .strong ea n with
  | some t => addressTrap s t ea
  | none => withRelease s (fun s => strongly s (.stl rs base ty off _scope) ea.toNat n (fun s =>
      (s.writeAt s.cur ea.toNat (leBytes n (s.rs rs).toNat)).doneStrong))

/-! ## DLD and DST (R315) -/

/-- Where a stack access of `n` bytes goes: the keys of its parts, or what stops it (R64, R305, R315, R371). The word is checked under
R57 and then R58 (R210): a word of neither form is PAGE on a stoker, an on-chip word WINDOW. -/
def stackAccess (s : State) (i : Instr) (ea : Word) (n : Nat) (write : Bool)
    (f : State → List (Nat × Nat × Nat) → Result) : Result :=
  if !isVA ea then addressTrap s .window ea
  else match s.xlateRange s.myPart s.myAcc (vaOf ea) n write with
  | (.ok l, s) => if l.any (fun x => s.mustWait s.cur x.1 x.2.2) then s.stalled i else f s l
  | (.error .held, s) => s.stalled i
  | (.error (.redirect st), s) => .next (s.setMe { s.me with wait := .redirect st })
  | (.error _, s) => pageTrap s ea

/-- The first redirect that an access of hart `cur` meets in the TLB slice of its own stoker, if any. -/
def State.redirectOf (s : State) (p va n : Nat) (write : Bool) : Option Nat := s.redirectFor s.cur p s.myAcc va n write

/-- A stoker hart moves to the new home of a redirected page before the access (R305); once there it goes on. -/
def dldAccess (s : State) (i : Instr) (ea : Word) (n : Nat) (write : Bool)
    (f : State → List (Nat × Nat × Nat) → Result) : Result :=
  match (if isVA ea then s.redirectOf s.myPart (vaOf ea) n write else none) with
  | some st =>
    if !s.stackIn s.myPart st then pageTrap s ea
    else if st = hartStack s.cur then stackAccess s i ea n write f
    else .next (s.setMe { s.me with wait := .redirect st })
  | none => stackAccess s i ea n write f

/-- Bytes of the parts of a stack access as hart `h` reads them. -/
def State.loadParts (s : State) (h : Hart) (l : List (Nat × Nat × Nat)) : List Byte :=
  (l.map (fun x => s.ownBytes h x.1 x.2.2)).flatten
def State.noteParts (s : State) (h : Hart) (l : List (Nat × Nat × Nat)) : State :=
  l.foldl (fun s x => if arbOfKey x.1 = arbOf h then s.noteRead h x.1 x.2.2 else s) s
def State.storeParts (s : State) (h : Hart) (l : List (Nat × Nat × Nat)) (bytes : List Byte) : State :=
  l.foldl (fun s x => s.weakStore h x.1 ((bytes.drop x.2.1).take x.2.2)) s

def execDld (rd base : Reg) (ty : Ty) (off : BitVec 16) (s : State) : Result :=
  dldAccess s (.dld rd base ty off) (s.ea base off) (tyBytes ty) false (fun s l =>
    ((s.noteParts s.cur l).ws rd (extendTy ty (leNat (s.loadParts s.cur l)))).done)
def execDldVector (vd base : Reg) (off : BitVec 16) (s : State) : Result :=
  dldAccess s (.dldVector vd base off) (s.ea base off) 64 false (fun s l =>
    ((s.noteParts s.cur l).putV vd (bytesVec (s.loadParts s.cur l))).done)
def execDst (rs base : Reg) (ty : Ty) (off : BitVec 16) (s : State) : Result :=
  dldAccess s (.dst rs base ty off) (s.ea base off) (tyBytes ty) true (fun s l =>
    (s.storeParts s.cur l (leBytes (tyBytes ty) (s.rs rs).toNat)).done)
def execDstVector (vs base : Reg) (off : BitVec 16) (s : State) : Result :=
  dldAccess s (.dstVector vs base off) (s.ea base off) 64 true (fun s l =>
    (s.storeParts s.cur l (vecBytes (s.me.regs.getV vs) 0 64)).done)

/-! ## Chunk events (R68, R69, R72) -/

/-- CHUNK_COMMIT: hart `cur`, whose chunk has ended. While another hart holds the token, its gang's leader has not committed or a
store meets an unfilled copy destination, it waits (R72, R85, R202); signatures that overlap, or that `arg` = 1 says overlap, squash
it (R69) (DESIGN CHOICE, log 13). -/
def execChunkCommit (s : State) : Result :=
  let h := s.cur
  let t := s.thread h
  if t.run ≠ .running || !t.chunk.ended then .next s
  else match s.leaderOpen h with
  | some k => .next (s.markEnded k)
  | none =>
    if !s.tokenFree h then .next s
    else if t.chunk.overlaps || s.arg = 1 then .next (s.squash h)
    else if s.storesWait h then .next s
    else .next (s.commit h)

/-- CHUNK_LENGTH_END: 512 heads of the chunk have been executed (R68). -/
def execChunkLengthEnd (s : State) : Result :=
  if 512 ≤ (s.thread s.cur).chunk.executed then .next (s.markEnded s.cur) else .next s
/-- STORE_FOOTPRINT_END: the chunk has stored to 64 distinct lines (R68). -/
def execStoreFootprintEnd (s : State) : Result :=
  if 64 ≤ (s.thread s.cur).chunk.wlines.length then .next (s.markEnded s.cur) else .next s

/-! ## Remote accesses (R73) -/

/-- No earlier item of the same hart in flight targets a byte of this one's target: stores and messages to one location are
performed in program order (R73, R215). -/
def State.firstOf (s : State) (m : Msg) : Bool :=
  !(s.net.takeWhile (fun n => n.id != m.id)).any (fun n => n.hart == m.hart &&
    (s.targets n.item).any (fun y => (s.targets m.item).any (fun x => rangesMeet x.1 x.2 y.1 y.2)))

/-- An item in flight, by number. -/
def State.msg (s : State) (id : Nat) : Option Msg := s.net.find? (fun m => m.id == id)

/-- A remote weak store that meets an unfilled copy destination waits (R85). -/
def State.mayLand (s : State) (m : Msg) : Bool :=
  s.firstOf m && (match m.item with
    | .rstore k d => !s.guarded k d.length
    | _ => true)

/-- REMOTE_STORE_COMMIT: fabric item `cur` commits at its target as a single access. -/
def execRemoteStoreCommit (s : State) : Result :=
  match s.msg s.cur with
  | none => .next s
  | some m => match m.item with
    | .rstore k _ =>
      if isHobKey k || isStackKey k || oaSpace k != some .ctl then
        (if s.mayLand m then .next (performItem s m) else .next s)
      else .next s
    | _ => .next s

/-- REMOTE_LOAD: the outstanding load of hart `cur` is performed at the target's arbiter and returns. -/
def execRemoteLoad (s : State) : Result :=
  let h := s.cur
  match (s.thread h).wait with
  | .load (.ld rd base ty off) =>
    let k := (s.ea base off).toNat
    if s.held h k (tyBytes ty) then .next s else (s.ws rd (extendTy ty (s.loadNat h k (tyBytes ty)))).done
  | .load (.ldv vd base off) =>
    let k := (s.ea base off).toNat
    if s.held h k 64 then .next s else (s.putV vd (BitVec.ofNat 512 (s.loadNat h k 64))).done
  | _ => .next s

/-! ## Register windows (R61, R91) -/

/-- REGISTER_WINDOW_STORE: the oldest store pending for hart `cur`, to a scalar, vector or mask register. -/
def execRegisterWindowStore (s : State) : Result :=
  let t := s.thread s.cur
  if atBoundary t && (t.pend.head?.map (fun w => decide (w.key < 0x3000))).getD false then .next (landPending s s.cur) else .next s

/-- REGISTER_WRITE: the oldest store pending for hart `cur`, to a control register; or fabric item `arg`, to a cluster control
register (R91). -/
def execRegisterWrite (s : State) : Result :=
  if s.arg = 0 then
    let t := s.thread s.cur
    if atBoundary t && (t.pend.head?.map (fun w => decide (0x3000 ≤ w.key))).getD false then .next (landPending s s.cur) else .next s
  else match s.msg s.arg with
  | none => .next s
  | some m => match m.item with
    | .rstore k _ =>
      if k < 2 ^ 40 && oaSpace k == some .ctl && s.mayLand m then .next (performItem s m) else .next s
    | _ => .next s

end Sys2Proof.Machine
end

