-- ==== Sys2Proof/Machine/Control.lean ====
section
/-! DEFINITION. Control, suspension and system instructions (R188 to R209), with gangs (R200 to R203). -/

namespace Sys2Proof.Machine

/-! ## Branches and jumps (R188 to R191) -/

/-- A conditional branch: the target under R123, or the next head. -/
def branch (s : State) (taken : Bool) (ldisp : BitVec 22) (slot : BitVec 5) : Result :=
  if taken then .next (s.goto s.cur (relPc s.me.regs.pc ldisp slot)) else s.done

def execBeq (rs1 rs2 : Reg) (ldisp : BitVec 22) (slot : BitVec 5) (s : State) : Result :=
  branch s (s.rs rs1 == s.rs rs2) ldisp slot
def execBne (rs1 rs2 : Reg) (ldisp : BitVec 22) (slot : BitVec 5) (s : State) : Result :=
  branch s (s.rs rs1 != s.rs rs2) ldisp slot
def execBlt (rs1 rs2 : Reg) (ldisp : BitVec 22) (slot : BitVec 5) (s : State) : Result :=
  branch s ((s.rs rs1).slt (s.rs rs2)) ldisp slot
def execBge (rs1 rs2 : Reg) (ldisp : BitVec 22) (slot : BitVec 5) (s : State) : Result :=
  branch s (!(s.rs rs1).slt (s.rs rs2)) ldisp slot
def execBltz (rs1 rs2 : Reg) (ldisp : BitVec 22) (slot : BitVec 5) (s : State) : Result :=
  branch s ((s.rs rs1).ult (s.rs rs2)) ldisp slot
def execBgez (rs1 rs2 : Reg) (ldisp : BitVec 22) (slot : BitVec 5) (s : State) : Result :=
  branch s (!(s.rs rs1).ult (s.rs rs2)) ldisp slot

/-- LOOP (R189): a counter of 0 wraps and the branch is taken. -/
def execLoop (rs : Reg) (ldisp : BitVec 22) (slot : BitVec 5) (s : State) : Result :=
  branch (s.ws rs (s.rs rs - 1)) (s.rs rs - 1 != 0) ldisp slot

def execJmp (ldisp : BitVec 22) (slot : BitVec 5) (s : State) : Result := branch s true ldisp slot
/-- CALL (R190): s1 takes the next head. -/
def execCall (ldisp : BitVec 22) (slot : BitVec 5) (s : State) : Result := branch (s.ws 1 (s.fall s.cur)) true ldisp slot

/-- A gang member other than the leader, or a re-executed head of one: the leader's outcome is taken (R202) (DEDUCED, log 31). -/
def State.follows (s : State) : Bool := !s.me.path.isEmpty || ((s.gangOf s.cur).isSome && (s.leads s.cur).isNone)

/-- A register target (R123): MISALIGN, WINDOW on any hart, or control goes there; a hob unit's targets are overlay offsets (R337)
(DEDUCED, log 39). -/
def jumpTo (s : State) (t : Word) (s' : State) : Result :=
  if s.follows then .next (s'.goto s.cur t)
  else if kindOf s.cur = .hob then
    (if 4096 ≤ t.toNat || t.toNat % 2 = 1 || t.toNat % 64 = 0 then hobFault s s.cur 6 else .next (s'.goto s.cur t))
  else if t.toNat % 2 = 1 || t.toNat % 64 = 0 then misalign s t
  else if !isVA t then takeTrap s .window t 0
  else .next (s'.goto s.cur t)

def execJmpr (rs : Reg) (s : State) : Result := jumpTo s (s.rs rs) s
/-- CALLR (R191): the old value of the register is the target. -/
def execCallr (rs : Reg) (s : State) : Result := jumpTo s (s.rs rs) (s.ws 1 (s.fall s.cur))
def execRet (s : State) : Result := jumpTo s (s.rs 1) s

/-! ## REP (R192 to R195) -/

def execRep (n : BitVec 5) (count : BitVec 16) (stride : BitVec 6) (s : State) : Result :=
  let b := s.bodyPcs s.cur n.toNat (s.fall s.cur)
  if b.1.any (fun pc => (s.fetchLine s.cur pc).1 == .wait) then s.stalled (.rep n count stride)
  else if b.1.any (fun pc => match s.headOf s.cur pc with
    | some x => repBars x.1
    | none => false) then illegal s
  else if count = 0 then .next (s.goto s.cur b.2)
  else
    let s' := s.advance s.cur
    let r : RepState := { body := s.fall s.cur, n := n.toNat, count := count.toNat, stride := stride.toNat, pass := 0, pos := 0 }
    .next (s'.setRegs { s'.me.regs with rep := some r })

/-! ## Suspension points (R33 to R35, R196 to R199) -/

/-- A gang's head is issued by `h` without its going on at once (a suspension or a halt): the leader's next head is fixed, a
member has issued it. -/
def noteGang (s : State) (h : Hart) (next : Word) : State :=
  let t := s.thread h
  match t.gang with
  | none => s
  | some g => match s.gang g with
    | none => s
    | some x =>
      if (s.leads h).isSome then (s.leadTo h g x next).setGang g (((s.leadTo h g x next).gang g).map (fun x => { x with redo := false }))
      else s.setGang g (some { x with todo := x.todo.filter (fun m => m != h) })

/-- The continuation of `h` leaves its thread set with a STATUS, and a PC where the suspension point writes one: the record
is written as part of a release (R35), an owned array is given up, `f` does what follows, the thread set falls idle. -/
def leave (s : State) (h : Hart) (status : Nat) (pc : Option Word) (f : State → State) : State :=
  let c := (s.thread h).cont
  let s := match pc with
    | some w => putPc s h c w
    | none => s
  let s := (putStatus s h c status).releaseArray h
  let s := noteGang s h (pc.getD (s.thread h).regs.pc)
  (f s).goIdle h

/-- SAVED, YIELD and a woken WAITC enter the ready queue at the launched priority (R54). A saved continuation of a core or
gang level waits for its whole instance (R41); one without a level of cluster width may resume in another cluster (R109). -/
def savedEntry (s : State) (h : Hart) (c : Cont) : ReadyEnt :=
  let e := readyEntry s h c
  let wide := ((s.task c.acc).map (fun t => t.levels.any (fun l => 3 ≤ l.1))).getD false
  { e with core := none, cl := if wide then e.cl else none, marked := e.core.isSome }

/-- The safe points of the kernel a continuation runs (R104, R105). -/
def State.safesOf (s : State) (c : Cont) : List SafePt :=
  match s.runJob c.part c.rcd with
  | some (_, j) => j.safes
  | none => ((s.task c.acc).map (fun t => t.safes)).getD []

/-- Whether SAFE enters the save routine at hart `cur`: a thread by its own mark, a gang by its leader's (R50, R106). -/
def State.entersSave (s : State) : Bool :=
  match s.gangOf s.cur with
  | some (_, x) => if (s.leads s.cur).isSome then s.me.mark.isSome else x.saving
  | none => s.me.mark.isSome
/-- A gang's members do what its leader does at SAFE. -/
def State.noteSaving (s : State) : State :=
  match s.leads s.cur with
  | some (g, x) => s.setGang g (some { x with saving := s.me.mark.isSome })
  | none => s

/-- SAFE k (R106). The mark's deadline goes on through the save routine. -/
def execSafe (k : BitVec 10) (s : State) : Result :=
  match (s.safesOf s.me.cont)[k.toNat]? with
  | none => illegal s
  | some p =>
    if s.me.savemode.isSome then illegal s
    else withChunkEnd s (fun s =>
      let enters := s.entersSave
      let s := s.noteSaving
      if enters then
        let s' := ((s.ws 1 (s.fall s.cur)).ws 2 s.me.cont.savearea).goto s.cur p.savepc
        .next ((s'.setMe { s'.me with savemode := some k.toNat }).boundary s.cur)
      else s.doneStrong)

/-- SAVED (R108). -/
def execSaved (s : State) : Result :=
  match s.me.savemode with
  | none => illegal s
  | some k =>
    withRelease s (fun s =>
      let c := s.me.cont
      let pc := (((s.safesOf c)[k]?).map (fun p => p.restpc)).getD 0
      let s := putRecord s s.cur c 38 [BitVec.ofNat 8 k]
      .next (leave s s.cur 4 (some pc) (fun s => s.enqueue c.part (savedEntry s s.cur c))))

/-- The successors EXIT hands to the grate of the die where the thread ran (R43, R197); a gang's are its leader's (R202). -/
def offerAll (s : State) (h : Hart) (c : Cont) (l : List Word) : State :=
  l.foldl (fun s w => s.offer (hartDie h) { lb := w, part := c.part, group := none, src := some (c.part, c.rcd) }) s

/-- EXIT (R197). The thread is no member of its gang any more. A record without successors to take returns to STATUS 0 at once (R367); a RUN job completes (R302). -/
def execExit (first count : Reg) (s : State) : Result :=
  if s.me.savemode.isSome then illegal s
  else withRelease s (fun s =>
    let h := s.cur
    let c := s.me.cont
    let l := if s.follows then [] else (List.range count.toNat).map (fun i => s.rs (first + BitVec.ofNat 5 i))
    if s.recordWaits c.part c.rcd then s.stalled (.exit first count) else .next (leave s h 7 none (fun s =>
      let s := offerAll s h c l
      match s.runJob c.part c.rcd with
      | some (n, j) =>
        let s := (chanEnd s h j 1 0 0 .idle).setJob n none
        if l.isEmpty then putStatus s h c 0 else s
      | none =>
        let s := leaveGang (endRecord s h c 7) h
        if l.isEmpty then putStatus s h c 0 else s)))

/-- The counter and threshold words of a gang leader's WAITC, for its members (R202). -/
def State.noteVals (s : State) (w th : Word) : State :=
  match s.leads s.cur with
  | some (g, x) => s.setGang g (some { x with vals := (w, th) })
  | none => s
/-- WAITC (R198): the record waits on the counter; a gang waits on its leader's. -/
def execWaitc (sc st : Reg) (s : State) : Result :=
  if s.me.savemode.isSome then illegal s
  else
    let lead := if s.follows then (s.me.gang.bind s.gang).map (fun x => x.vals) else none
    let w := (lead.map Prod.fst).getD (s.rs sc)
    let th := (lead.map Prod.snd).getD (s.rs st)
    let s := s.noteVals w th
    match s.counterTrap w with
    | some t => addressTrap s t w
    | none => withRelease s (fun s =>
      let h := s.cur
      let c := s.me.cont
      .next (leave s h 3 (some (s.fall h)) (fun s =>
        let now := (s.cluster (oaCl w.toNat)).counter (oaOff w.toNat / 8)
        s.setPart c.part { s.part c.part with waiting := (s.part c.part).waiting ++
          [{ rcd := c.rcd, counter := w.toNat, thresh := th, met := decide (th.toNat ≤ now.toNat), ent := readyEntry s h c }] })))

/-- YIELD (R199). -/
def execYield (s : State) : Result :=
  if s.me.savemode.isSome then illegal s
  else withRelease s (fun s =>
    let h := s.cur
    let c := s.me.cont
    .next (leave s h 1 (some (s.fall h)) (fun s => s.enqueue c.part (readyEntry s h c))))

/-! ## Gangs (R200 to R203) -/

/-- GANG g (R200): the thread stalls until its group is placed (GANG_PLACE). -/
def execGang (g : BitVec 5) (s : State) : Result :=
  if s.me.savemode.isSome || s.me.gang.isSome then illegal s
  else withChunkEnd s (fun s => .next ((s.setMe { s.me with wait := .gang g.toNat, since := s.now }).boundary s.cur))

/-- A member that SPLIT releases is bound to its core, as a core level of its task would bind it (R203). -/
def State.bindSplit (s : State) (h : Hart) : State :=
  let c := (s.thread h).cont
  match s.task c.acc with
  | some t =>
    if t.narrow then s
    else s.setTask (({ t with split := c.lin :: t.split.filter (fun l => l != c.lin) } : Task).onCore c.lin (hartCore h))
  | none => s
/-- SPLIT (R203): the gang is dissolved once every member has issued it. -/
def execSplit (s : State) : Result :=
  if s.me.savemode.isSome then illegal s
  else match s.me.gang with
  | none => illegal s
  | some g => withChunkEnd s (fun s =>
    let h := s.cur
    let s := (s.advance h).boundary h
    let s := (s.setThread h { s.thread h with gang := none }).bindSplit h
    match s.gang g with
    | some x => .next (if x.todo.isEmpty && x.members.head? != some h then s.setGang g none else s)
    | none => .next s)

/-! ## System instructions (R204 to R209) -/

def execNop (s : State) : Result := s.done
/-- CHUNK ends the chunk and orders nothing else (R68, R204). -/
def execChunk (s : State) : Result := withChunkEnd s State.doneStrong
/-- FENCE: every earlier access of the hart is performed before it is done, at any scope (R80, log 6). -/
def execFence (_scope : BitVec 5) (s : State) : Result := withRelease s State.doneStrong

/-- HALT (R207): window stores that were pending land, since the chunk has ended (R61). On a hob unit it ends the command with END 1
and s3 to s9 (R339). -/
def execHalt (s : State) : Result :=
  if kindOf s.cur = .hob then
    withRelease s (fun s => if s.hobWaits s.cur then s.stalled .halt else .next (endHob s s.cur 1 0 ((List.range 7).map (fun i => leBytes 8 (s.rs (BitVec.ofNat 5 (3 + i))).toNat)).flatten))
  else withChunkEnd s (fun s =>
    let s := landAll (noteGang s s.cur (s.fall s.cur)) s.cur
    .next ((s.setMe { s.me with run := .halted }).boundary s.cur))

/-- BRK (R206): a trap, or one more break counted when the chunk commits. A stoker has no cluster whose counter would count
(DEDUCED, log 24). -/
def execBrk (s : State) : Result :=
  if s.me.regs.ctl.trapen.getLsbD 2 then takeTrap s .brk 0 0
  else if kindOf s.cur = .core then
    (s.setMe { s.me with chunk := { s.me.chunk with brks := s.me.chunk.brks + 1 } }).done
  else s.done

/-- TRET (R208): a word that names no record of the partition is WINDOW on every hart. A retirement waits for the mailbox record of a
job that ends with it (R85). -/
def execTret (sb : Reg) (s : State) : Result :=
  let a := s.rs sb
  let g := s.rs (sb + 1)
  let rcd := a &&& ~~~63#64
  if a.toNat % 4 = 3 || a.toNat / 4 % 16 ≠ 0 || 2 ^ 16 ≤ g.toNat then illegal s
  else if !isVA rcd || !s.stackIn s.myPart (vaStack (vaOf rcd)) then takeTrap s .window rcd 0
  else withRelease s (fun s =>
    if a.toNat % 4 = 0 && s.recordWaits s.myPart rcd then s.stalled (.tret sb)
    else (trapReturn s s.cur rcd (g.setWidth 16) (a.toNat % 4)).doneStrong)

/-- TRAP (R205). -/
def execTrap (imm : BitVec 16) (s : State) : Result := takeTrap s .trap 0 imm.toNat

/-- CRD (R209): a cluster register is read by a weak load at the chunk's point. -/
def execCrd (rd n : Reg) (s : State) : Result :=
  let k := mkOA (hartCl s.cur) 11 (8 * (n.toNat - 16))
  if n.toNat < 16 then (s.ws rd (s.me.regs.getCtl n.toNat)).done
  else if kindOf s.cur ≠ .core then illegal s
  else if s.mustWait s.cur k 8 then s.stalled (.crd rd n)
  else ((s.noteRead s.cur k 8).ws rd (s.ownCtl s.cur n.toNat)).done

/-- CWR (R209): a non-zero reserved bit raises ILLEGAL (R91); a cluster register is written by a weak store. -/
def execCwr (n rs : Reg) (s : State) : Result :=
  let k := mkOA (hartCl s.cur) 11 (8 * (n.toNat - 16))
  let w := s.rs rs
  if w &&& ctlReserved n.toNat ≠ 0 then illegal s
  else if n.toNat < 16 then (s.setRegs (s.me.regs.setCtl n.toNat w)).done
  else if kindOf s.cur ≠ .core then illegal s
  else if s.mustWait s.cur k 8 then s.stalled (.cwr n rs)
  else (s.weakStore s.cur k (leBytes 8 w.toNat)).done

end Sys2Proof.Machine
end

