-- ==== Sys2Proof/Machine/Message.lean ====
section
/-! DEFINITION. Messages and fences: AMO, RED, PUTC, APND, AFENCE, WARM, QPOP and the events that perform them at their targets
(R214 to R230). -/

namespace Sys2Proof.Machine

/-! ## Targets (R215) -/

/-- A virtual target of `n` bytes as its home stoker accepts it: its key, or what stops the message. `rd` and `wr` say which
permissions it needs. -/
def stackTarget (s : State) (i : Instr) (p : Nat) (ea : Word) (n : Nat) (rd wr : Bool) (k : State → Nat → Result) : Result :=
  let va := vaOf ea
  let moved := if kindOf s.cur = .stoker then s.redirectOf p va n wr else none
  let here : Result := match (if rd then s.xlate p s.myAcc va false else (.ok 0, s)) with
    | (.ok _, s) =>
      (match s.xlate p s.myAcc va wr with
       | (.ok key, s) => k s key
       | (.held, s) => s.stalled i
       | (_, s) => windowTrap s ea)
    | (.held, s) => s.stalled i
    | (_, s) => windowTrap s ea
  match moved with
  | some st =>
    if !s.stackIn p st then pageTrap s ea
    else if st = hartStack s.cur then here else .next (s.setMe { s.me with wait := .redirect st })
  | none => here

/-- A message's target at issue: on-chip it is checked (R63, R214), virtual it is translated (R215). -/
def msgTarget (s : State) (i : Instr) (a : Acc) (ea : Word) (n : Nat) (rd wr : Bool) (k : State → Nat → Result) : Result :=
  if isVA ea then (if ea.toNat % n ≠ 0 then misalign s ea else stackTarget s i s.myPart ea n rd wr k)
  else match s.accessTrap a ea n with
  | some t => addressTrap s t ea
  | none => k s ea.toNat

/-! ## AMO and RED (R216 to R219) -/

/-- An AMO is accepted: every earlier access is performed first, the operation travels to its target and the hart waits for
the old value. -/
def amo (s : State) (i : Instr) (op : Nat) (rd sa sv sc : Reg) (ty : Ty) : Result :=
  let n := tyBytes ty
  msgTarget s i .rmw (s.rs sa) n true true (fun s k => withRelease s (fun s =>
    let id := s.fresh
    let s := s.pushMsg s.cur (.rmw k op n (s.rs sv) (s.rs sc) (some rd) (ty == 14#5))
    .next (s.setMe { s.me with wait := .msg id rd })))
/-- A RED is accepted and the hart goes on. -/
def red (s : State) (i : Instr) (op : Nat) (sa sv : Reg) (ty : Ty) : Result :=
  let n := tyBytes ty
  msgTarget s i .rmw (s.rs sa) n true true (fun s k => withRelease s (fun s =>
    (s.pushMsg s.cur (.rmw k op n (s.rs sv) 0 none false)).doneStrong))

def execAmoAdd (rd sa sv : Reg) (ty : Ty) (scope : BitVec 3) (s : State) : Result :=
  amo s (.amoAdd rd sa sv ty scope) 0 rd sa sv 0 ty
def execAmoAnd (rd sa sv : Reg) (ty : Ty) (scope : BitVec 3) (s : State) : Result :=
  amo s (.amoAnd rd sa sv ty scope) 1 rd sa sv 0 ty
def execAmoOr (rd sa sv : Reg) (ty : Ty) (scope : BitVec 3) (s : State) : Result :=
  amo s (.amoOr rd sa sv ty scope) 2 rd sa sv 0 ty
def execAmoXor (rd sa sv : Reg) (ty : Ty) (scope : BitVec 3) (s : State) : Result :=
  amo s (.amoXor rd sa sv ty scope) 3 rd sa sv 0 ty
def execAmoSwap (rd sa sv : Reg) (ty : Ty) (scope : BitVec 3) (s : State) : Result :=
  amo s (.amoSwap rd sa sv ty scope) 4 rd sa sv 0 ty
def execAmoSmin (rd sa sv : Reg) (ty : Ty) (scope : BitVec 3) (s : State) : Result :=
  amo s (.amoSmin rd sa sv ty scope) 5 rd sa sv 0 ty
def execAmoSmax (rd sa sv : Reg) (ty : Ty) (scope : BitVec 3) (s : State) : Result :=
  amo s (.amoSmax rd sa sv ty scope) 6 rd sa sv 0 ty
def execAmoZmin (rd sa sv : Reg) (ty : Ty) (scope : BitVec 3) (s : State) : Result :=
  amo s (.amoZmin rd sa sv ty scope) 7 rd sa sv 0 ty
def execAmoZmax (rd sa sv : Reg) (ty : Ty) (scope : BitVec 3) (s : State) : Result :=
  amo s (.amoZmax rd sa sv ty scope) 8 rd sa sv 0 ty
def execAmoFadd (rd sa sv : Reg) (ty : Ty) (scope : BitVec 3) (s : State) : Result :=
  amo s (.amoFadd rd sa sv ty scope) 9 rd sa sv 0 ty
def execAmoFmin (rd sa sv : Reg) (ty : Ty) (scope : BitVec 3) (s : State) : Result :=
  amo s (.amoFmin rd sa sv ty scope) 10 rd sa sv 0 ty
def execAmoFmax (rd sa sv : Reg) (ty : Ty) (scope : BitVec 3) (s : State) : Result :=
  amo s (.amoFmax rd sa sv ty scope) 11 rd sa sv 0 ty
/-- CAS compares bit patterns (R218, R219) (DEDUCED, log 38). -/
def execAmoCas (rd sa sv sc : Reg) (ty : Ty) (scope : BitVec 3) (s : State) : Result :=
  amo s (.amoCas rd sa sv sc ty scope) 12 rd sa sv sc ty

def execRedAdd (sa sv : Reg) (ty : Ty) (scope : BitVec 3) (s : State) : Result :=
  red s (.redAdd sa sv ty scope) 0 sa sv ty
def execRedAnd (sa sv : Reg) (ty : Ty) (scope : BitVec 3) (s : State) : Result :=
  red s (.redAnd sa sv ty scope) 1 sa sv ty
def execRedOr (sa sv : Reg) (ty : Ty) (scope : BitVec 3) (s : State) : Result :=
  red s (.redOr sa sv ty scope) 2 sa sv ty
def execRedXor (sa sv : Reg) (ty : Ty) (scope : BitVec 3) (s : State) : Result :=
  red s (.redXor sa sv ty scope) 3 sa sv ty
def execRedSwap (sa sv : Reg) (ty : Ty) (scope : BitVec 3) (s : State) : Result :=
  red s (.redSwap sa sv ty scope) 4 sa sv ty
def execRedSmin (sa sv : Reg) (ty : Ty) (scope : BitVec 3) (s : State) : Result :=
  red s (.redSmin sa sv ty scope) 5 sa sv ty
def execRedSmax (sa sv : Reg) (ty : Ty) (scope : BitVec 3) (s : State) : Result :=
  red s (.redSmax sa sv ty scope) 6 sa sv ty
def execRedZmin (sa sv : Reg) (ty : Ty) (scope : BitVec 3) (s : State) : Result :=
  red s (.redZmin sa sv ty scope) 7 sa sv ty
def execRedZmax (sa sv : Reg) (ty : Ty) (scope : BitVec 3) (s : State) : Result :=
  red s (.redZmax sa sv ty scope) 8 sa sv ty
def execRedFadd (sa sv : Reg) (ty : Ty) (scope : BitVec 3) (s : State) : Result :=
  red s (.redFadd sa sv ty scope) 9 sa sv ty
def execRedFmin (sa sv : Reg) (ty : Ty) (scope : BitVec 3) (s : State) : Result :=
  red s (.redFmin sa sv ty scope) 10 sa sv ty
def execRedFmax (sa sv : Reg) (ty : Ty) (scope : BitVec 3) (s : State) : Result :=
  red s (.redFmax sa sv ty scope) 11 sa sv ty

/-! ## PUTC (R221 to R223) -/

/-- Fields of a partition-queue declaration (R425). -/
def pqV (w : BitVec 256) : Bool := w.getLsbD 0
def pqProd (w : BitVec 256) : Nat := (w.extractLsb' 1 2).toNat
def pqCons (w : BitVec 256) : Nat := (w.extractLsb' 3 2).toNat
def pqCl (w : BitVec 256) : Nat := (w.extractLsb' 16 2).toNat * 96 + (w.extractLsb' 18 7).toNat
def pqFirst (w : BitVec 256) : Nat := (w.extractLsb' 25 8).toNat
def pqNum (w : BitVec 256) : Nat := (w.extractLsb' 33 5).toNat
def pqBase (w : BitVec 256) : Word := w.extractLsb' 64 64
def pqLen (w : BitVec 256) : Nat := (w.extractLsb' 128 64).toNat

/-- The partition queue that lets a PUTC of partition `p` cross: `sd` in its range, `sc` one of its counters (R223). -/
def State.queueFor (s : State) (p : Nat) (sc sd : Word) (n : Nat) : Option (BitVec 256) :=
  (s.ctrl.pqueues.map Prod.snd).find? (fun q => pqV q && pqProd q == p && isOA sc && oaSpace sc.toNat == some .counter &&
    sc.toNat % 8 == 0 && oaCl sc.toNat == pqCl q && pqFirst q ≤ oaOff sc.toNat / 8 && oaOff sc.toNat / 8 < pqFirst q + pqNum q &&
    isVA sd && (pqBase q).toNat ≤ sd.toNat && sd.toNat + n ≤ (pqBase q).toNat + pqLen q)

/-- A PUTC is accepted and the hart goes on. The stale-message counter that a suppressed one raises is that of the issuer's
partition, also where the PUTC crosses into another's queue (R222) (DESIGN CHOICE, log 52). -/
def putcGo (s : State) (sc : Word) (data : Option (Nat × List Byte)) (gen : BitVec 16) : Result :=
  withRelease s (fun s => (s.pushMsg s.cur (.putc sc.toNat data gen s.myPart)).doneStrong)

/-- PUTC (R222) at issue (DEDUCED, log 38). Where counter and data word are refused with one code, the trap names the counter (DESIGN
CHOICE, log 38). -/
def execPutc (sc sd sv sg : Reg) (ty : Ty) (scope : BitVec 3) (s : State) : Result :=
  let i := Instr.putc sc sd sv sg ty scope
  let n := tyBytes ty
  let c := s.rs sc
  let d := s.rs sd
  let gen := (s.rs sg).setWidth 16
  let bytes := leBytes n (s.rs sv).toNat
  let cross := sd != 0#5 && scope == 5#3 && (s.queueFor s.myPart c d n).isSome && d.toNat % n == 0
  if cross then
    stackTarget s i (((s.queueFor s.myPart c d n).map pqCons).getD 0) d n false true (fun s k => putcGo s c (some (k, bytes)) gen)
  else match s.counterTrap c with
  | some .misalign => misalign s c
  | bad =>
    if sd != 0#5 && d.toNat % n ≠ 0 then misalign s d
    else match bad with
    | some t => addressTrap s t c
    | none =>
      if sd = 0#5 then putcGo s c none gen
      else msgTarget s i .plain d n false true (fun s k => putcGo s c (some (k, bytes)) gen)

/-! ## APND (R224 to R226) -/

/-- Where the row of an append goes. -/
inductive RowTo where
  | refused
  /-- A page of the range is held by a migration: the append waits (R310). -/
  | wait
  | parts (l : List (Nat × List Byte))
  deriving DecidableEq, Repr

/-- The parts of a destination range of an append, where it is a valid target in one region of the partition. -/
def rowParts (s : State) (t : Word) (row : List Byte) : RowTo × State :=
  let n := row.length
  if isOA t then
    (if s.oaOk s.myPart t.toNat n && ((oaSpace t.toNat).map (targetOk .plain)).getD false then .parts [(t.toNat, row)] else .refused, s)
  else if isVA t && isVA (t + BitVec.ofNat 64 (n - 1)) && vaStack (vaOf t) == vaStack (vaOf t + n - 1) then
    match s.xlateRange s.myPart s.myAcc (vaOf t) n true with
    | (.ok l, s) => (.parts (l.map (fun x => (x.1, (row.drop x.2.1).take x.2.2))), s)
    | (.error .held, s) => (.wait, s)
    | (.error _, s) => (.refused, s)
  else (.refused, s)

/-- The reservation at the descriptor's arbiter, and the row on its way. A refused append is counted at the issuing cluster
(DEDUCED, log 38); one that a stoker hart issued, which belongs to no cluster, is counted nowhere (DESIGN CHOICE, log 38). -/
def apndAt (s : State) (i : Instr) (rd : Reg) (k : Nat) (row : List Byte) : Result :=
  let w (j : Nat) : Word := BitVec.ofNat 64 (s.readAt (k + 8 * j) 8)
  let t := w 0
  let r := rowParts s t row
  match (if w 3 = 0 && t.toNat + row.length ≤ (w 1).toNat then r.1 else .refused) with
  | .wait => s.stalled i
  | .parts parts =>
    let s := r.2.writeAt s.cur k (leBytes 8 (t.toNat + row.length))
    ((s.pushMsg s.cur (.apndRow parts (k + 16) row.length)).ws rd t).doneStrong
  | .refused =>
    let s := if kindOf s.cur = .core then s.countCl (hartCl s.cur) cAppendRefused 1 else s
    (s.ws rd (BitVec.allOnes 64)).doneStrong

/-- APND (R225) at issue: a source that is no row of one scratchpad is MISALIGN or WINDOW on every hart. Where descriptor and source are
both misaligned the trap names the descriptor, and where both are WINDOW the source (DESIGN CHOICE, log 38). -/
def execApnd (rd st sr sl : Reg) (scope : BitVec 3) (s : State) : Result :=
  let n := (s.rs sl).toNat
  let src := s.rs sr
  let d := s.rs st
  let i := Instr.apnd rd st sr sl scope
  if n < 64 || 512 < n || n % 64 ≠ 0 then illegal s
  else if d.toNat % 32 ≠ 0 then misalign s d
  else if src.toNat % 64 ≠ 0 then misalign s src
  else if !s.inSpad s.myPart src n then takeTrap s .window src 0
  else msgTarget s i .plain d 32 true true (fun s k => withRelease s (fun s =>
    if s.held s.cur src.toNat n || s.mustWait s.cur k 16 || s.mustWait s.cur (k + 24) 8 then s.stalled i
    else apndAt s i rd k (s.ownBytes s.cur src.toNat n)))

/-! ## AFENCE and WARM (R227, R228) -/

/-- AFENCE: the hart's own messages are performed; aliases of one frame are one location here (log 7). -/
def execAfence (sb sn : Reg) (s : State) : Result :=
  let b := s.rs sb
  let n := (s.rs sn).toNat
  if !isVA b then addressTrap s .window b
  else if n ≠ 0 && 2 ^ 54 < vaOf b % 2 ^ 54 + n then addressTrap s .window b
  else if n ≠ 0 && !s.stackIn s.myPart (vaStack (vaOf b)) then addressTrap s .window b
  else withRelease s State.doneStrong

/-- WARM: the home stoker translates each page of the range, at most 2 MiB; nothing else changes. -/
def execWarm (sb sn : Reg) (s : State) : Result :=
  let b := s.rs sb
  let n := min (s.rs sn).toNat (2 ^ 21)
  if !isVA b || n = 0 then s.done
  else
    let va := vaOf b
    let pages := (List.range ((va + n - 1) / 2 ^ 16 - va / 2 ^ 16 + 1)).map (fun i => (va / 2 ^ 16 + i) * 2 ^ 16)
    (pages.foldl (fun s a => if a < 2 ^ 57 then (s.xlate s.myPart s.myAcc a false).2 else s) s).done

/-! ## QPOP (R229, R230) -/

/-- A word of the descriptor at `k`. -/
def queueWord (s : State) (k j : Nat) : Word := BitVec.ofNat 64 (s.readAt (k + 8 * j) 8)

/-- QPOP (R230): every earlier access of the thread comes first, the descriptor's check among what follows (R215). A word not in virtual
form and a CNTADDR that names no counter of the partition are WINDOW on every hart. -/
def execQpop (rd sq : Reg) (s : State) : Result :=
  let q := s.rs sq
  if q.toNat % 64 ≠ 0 then misalign s q
  else if !isVA q then takeTrap s .window q 0
  else withRelease s (fun s => stackTarget s (.qpop rd sq) s.myPart q 64 true true (fun s k =>
    let ql := queueWord s k 1
    let c := queueWord s k 2
    if s.mustWait s.cur k 64 then s.stalled (.qpop rd sq)
    else if ql.toNat % 16 ≠ 0 || 2 ^ 9 ≤ ql.toNat || 20 < ql.toNat / 16 % 32
      || (List.range 4).any (fun j => queueWord s k (4 + j) != 0) then illegal s
    else if !(isOA c && oaSpace c.toNat == some .counter && c.toNat % 8 = 0 && s.dieIn s.myPart (oaDie c.toNat)) then
      takeTrap s .window c 0
    else
      let cnt := (s.cluster (oaCl c.toNat)).counter (oaOff c.toNat / 8)
      let hd := queueWord s k 3
      if hd.toNat < cnt.toNat then
        let s := s.writeAt s.cur (k + 24) (leBytes 8 (hd.toNat + 1))
        (s.ws rd (queueWord s k 0 + BitVec.ofNat 64 (64 * (hd.toNat % 2 ^ (ql.toNat / 16 % 32))))).doneStrong
      else (s.ws rd (BitVec.allOnes 64)).doneStrong))

/-! ## Arrivals -/

/-- The target of a read-modify-write is a waiting-task entry (R375). -/
def toEntry (k : Nat) : Bool := k < 2 ^ 40 && oaSpace k == some .wt

/-- MESSAGE_ARRIVAL: fabric item `cur`, an AMO or RED, is performed at its target's arbiter (R217). -/
def execMessageArrival (s : State) : Result :=
  match s.msg s.cur with
  | none => .next s
  | some m => match m.item with
    | .rmw k _ _ _ _ _ _ => if !toEntry k && s.firstOf m then .next (performItem s m) else .next s
    | _ => .next s

/-- WAITING_TASK_ARM: fabric item `cur`, an AMO or RED to a waiting-task entry (R375). -/
def execWaitingTaskArm (s : State) : Result :=
  match s.msg s.cur with
  | none => .next s
  | some m => match m.item with
    | .rmw k _ _ _ _ _ _ => if toEntry k && s.firstOf m then .next (performItem s m) else .next s
    | _ => .next s

/-- PUTC_ARRIVAL: fabric item `cur` at the counter's arbiter (R222). -/
def execPutcArrival (s : State) : Result :=
  match s.msg s.cur with
  | none => .next s
  | some m => match m.item with
    | .putc _ _ _ _ => if s.firstOf m then .next (performItem s m) else .next s
    | _ => .next s

/-- APND_ROW_WRITE: the row of fabric item `cur` is written, then FILLED grows (R225). -/
def execApndRowWrite (s : State) : Result :=
  match s.msg s.cur with
  | none => .next s
  | some m => match m.item with
    | .apndRow _ _ _ => if s.firstOf m then .next (performItem s m) else .next s
    | _ => .next s

end Sys2Proof.Machine
end

