-- ==== Sys2Proof/Machine/Matrix.lean ====
section
/-! DEFINITION. The matrix unit: operand formats, scales, EC8 and sparse rows (R165 to R175), the arithmetic of MMA (R176, R177,
R266), checksums (R272), issue checks (R264, R281), the arbiter and the events of a command's life (R258 to R286). -/

namespace Sys2Proof.Machine

/-! ## Fields of the format and scale registers (R93, R94) -/

def fmtCode (w : Word) : Nat := w.toNat % 32
def fmtEc (w : Word) : Bool := w.getLsbD 5
def fmtSparse (w : Word) : Bool := w.getLsbD 6
def fmtCtab (w : Word) : Nat := w.toNat / 2 ^ 24
def sclMode (w : Word) : Nat := w.toNat % 4
def sclAddr (w : Word) : Nat := w.toNat / 2 ^ 24

/-- Operand classes (R263). -/
inductive MClass where
  | f8
  | i8
  | i4
  | half
  | single
  | double
  deriving DecidableEq, Repr

def mClass (code : Nat) : Option MClass :=
  match code with
  | 4 | 5 | 6 => some .f8
  | 10 | 11 => some .i8
  | 8 | 9 => some .i4
  | 2 | 3 => some .half
  | 1 => some .single
  | 0 => some .double
  | _ => none

/-- Width in bits of an operand type. -/
def elBits (code : Nat) : Nat := Ty.width (BitVec.ofNat 5 code)
/-- The value of an operand pattern (R157, R159). -/
def elVal (code x : Nat) : Num :=
  if code = 8 then Num.ofInt (intOf true 4 x) else if code = 9 then Num.ofInt x else valOf (BitVec.ofNat 5 code) x

/-- Busy cycles of an MMA of `k` positions (R267). -/
def MClass.busy (c : MClass) (sparse : Bool) (k : Nat) : Nat :=
  (match c with
   | .f8 | .i8 => k
   | .i4 => k / 2
   | .half => 2 * k
   | .single => 8 * k
   | .double => 32 * k) / (if sparse then 2 else 1)

/-! ## EC8 (R165 to R170) -/

/-- Code lengths of the table at `key` (R168). -/
def ec8Lens (s : State) (key : Nat) (e5 : Bool) : List Nat :=
  (s.bytesAt key (if e5 then 16 else 8)).flatMap (fun b => [b.toNat % 16, b.toNat / 16])
def ec8Valid (lens : List Nat) : Bool :=
  lens.all (fun n => n ≤ 12) && lens.any (fun n => n != 0) &&
  (lens.map (fun n => if n = 0 then 0 else 2 ^ (12 - n))).sum ≤ 4096
/-- Symbol, length and codeword of every present symbol (R169). -/
def ec8Codes (lens : List Nat) : List (Nat × Nat × Nat) :=
  ((List.range 12).foldl (fun (st : Nat × List (Nat × Nat × Nat)) l =>
    let st := (List.range lens.length).foldl (fun (st : Nat × List (Nat × Nat × Nat)) sym =>
      if (lens[sym]?).getD 0 = l + 1 then (st.1 + 1, st.2 ++ [(sym, l + 1, st.1)]) else st) st
    (2 * st.1, st.2)) (0, [])).2
/-- Bit `n` of an exponent plane (R167). -/
def planeBit (plane : List Byte) (n : Nat) : Nat := (((plane[n / 8]?).getD 0).toNat / 2 ^ (7 - n % 8)) % 2
/-- The token at bit `pos`: its symbol and length, at most `fuel` further bits long. -/
def ec8Token (codes : List (Nat × Nat × Nat)) (plane : List Byte) (pos len code : Nat) : Nat → Option (Nat × Nat)
  | 0 => none
  | fuel + 1 =>
    let c := 2 * code + planeBit plane (pos + len)
    match codes.find? (fun x => x.2.1 == len + 1 && x.2.2 == c) with
    | some x => some (x.1, len + 1)
    | none => ec8Token codes plane pos (len + 1) c fuel
/-- `n` tokens from bit `pos`: their symbols and the bits consumed. -/
def ec8Tokens (codes : List (Nat × Nat × Nat)) (plane : List Byte) : Nat → Nat → Option (List Nat × Nat)
  | 0, pos => some ([], pos)
  | n + 1, pos =>
    match ec8Token codes plane pos 0 0 12 with
    | none => none
    | some (sym, len) => match ec8Tokens codes plane n (pos + len) with
      | none => none
      | some (l, p) => some (sym :: l, p)

/-- The block that begins the bytes `b`: its 32 element bytes, none when it is bad, and the offset of the next block (R170).
Fewer bytes than the block has means that it crosses the pitch (R264). -/
def ec8Block (lens : List Nat) (e5 : Bool) (b : List Byte) : Option (List Nat) × Nat :=
  let hdr := leNat (b.take 2)
  let len := hdr % 4096
  let eb := if e5 then 5 else 4
  let next := 18 + 2 * ((len + 15) / 16)
  let plane := b.drop 18
  let fixed := (List.range 32).map (fun i => ((b[2 + i / 2]?).getD 0).toNat / 16 ^ (i % 2) % 16)
  let shape := b.length < next || hdr / 4096 % 8 ≠ 0 || (e5 && fixed.any (fun n => n / 4 % 2 == 1))
  let exps : Option (List Nat) :=
    if hdr / 2 ^ 15 = 1 then
      (if len = 32 * eb then
        some ((List.range 32).map (fun i => (List.range eb).foldl (fun a k => 2 * a + planeBit plane (eb * i + k)) 0))
       else none)
    else if !ec8Valid lens then none
    else match ec8Tokens (ec8Codes lens) plane 32 0 with
      | some (l, used) => if used = len then some l else none
      | none => none
  (match (if shape then none else exps) with
   | none => none
   | some l => some (List.zipWith (fun n e => n / 8 * 128 + (if e5 then e * 4 + n % 4 else e * 8 + n % 8)) fixed l), next)

/-- The 32 values of a block, NaN throughout when it is bad. -/
def ec8Vals (e5 : Bool) (x : Option (List Nat)) : List Num :=
  match x with
  | some l => l.map (fun v => (fmtOf (if e5 then 5 else 4)).dec v)
  | none => List.replicate 32 (.nan false)

/-! ## Operand rows (R262, R165, R173 to R175) -/

/-- The values of a group of 32 positions from its keep mask and stored values, and whether it keeps too many (R173, R174). -/
def sparseGroup (mask : Nat) (vals : List Num) : List Num × Bool :=
  let r := (List.range 32).foldl (fun (st : List Num × List Num) p =>
    if mask.testBit p then
      match st.2 with
      | v :: r => (st.1 ++ [v], r)
      | [] => (st.1 ++ [.fin false 0 0], [])
    else (st.1 ++ [.fin false 0 0], st.2)) ([], vals.take 16)
  (r.1, 16 < ((List.range 32).filter (fun p => mask.testBit p)).length)

/-- `n` EC8 blocks, dense: values and bad blocks. -/
def ec8Dense (lens : List Nat) (e5 : Bool) : Nat → List Byte → List Num × Nat
  | 0, _ => ([], 0)
  | n + 1, b =>
    let x := ec8Block lens e5 b
    let r := ec8Dense lens e5 n (b.drop x.2)
    (ec8Vals e5 x.1 ++ r.1, r.2 + (if x.1.isNone then 1 else 0))
/-- `n` pairs of groups with their EC8 blocks (R175): values, bad blocks and masks that keep too many. A mask byte past the row's
pitch reads as 0, so its positions are zero (DESIGN CHOICE, log 54). -/
def ec8Sparse (lens : List Nat) (e5 : Bool) : Nat → List Byte → List Num × Nat × Nat
  | 0, _ => ([], 0, 0)
  | n + 1, b =>
    let x := ec8Block lens e5 (b.drop 8)
    let v := ec8Vals e5 x.1
    let g0 := sparseGroup (leNat (b.take 4)) (v.take 16)
    let g1 := sparseGroup (leNat ((b.drop 4).take 4)) (v.drop 16)
    let r := ec8Sparse lens e5 n (b.drop (8 + x.2))
    (g0.1 ++ g1.1 ++ r.1, r.2.1 + (if x.1.isNone then 1 else 0),
      r.2.2 + (if g0.2 then 1 else 0) + (if g1.2 then 1 else 0))
/-- `n` sparse groups of a type of `w` bits (R173). -/
def sparseRow (code : Nat) : Nat → List Byte → List Num × Nat
  | 0, _ => ([], 0)
  | n + 1, b =>
    let size := elBits code / 8
    let vals := (List.range 16).map (fun i => elVal code (leNat ((b.drop (4 + i * size)).take size)))
    let g := sparseGroup (leNat (b.take 4)) vals
    let r := sparseRow code n (b.drop (4 + 16 * size))
    (g.1 ++ r.1, r.2 + (if g.2 then 1 else 0))

/-- Bytes of a row as R264 gives them; EC8 rows have no fixed length. -/
def rowBytes (f : Word) (k : Nat) : Nat :=
  if fmtSparse f then k / 32 * (4 + 16 * (elBits (fmtCode f) / 8)) else k * elBits (fmtCode f) / 8

/-- The `k` values of the row at `key`, unscaled; bad EC8 blocks and sparse masks that keep too many. The second mask of the last
pair of a row with an odd number of groups is counted like any other, and its values are dropped (DESIGN CHOICE, log 54). -/
def readRow (s : State) (f : Word) (key pitch k : Nat) : List Num × Nat × Nat :=
  let code := fmtCode f
  if code = 6 then
    let lens := ec8Lens s (fmtCtab f) (fmtEc f)
    let b := s.bytesAt key pitch
    if fmtSparse f then
      let r := ec8Sparse lens (fmtEc f) ((k / 32 + 1) / 2) b
      (r.1.take k, r.2)
    else
      let r := ec8Dense lens (fmtEc f) (k / 32) b
      (r.1, r.2, 0)
  else
    let b := s.bytesAt key (rowBytes f k)
    if fmtSparse f then
      let r := sparseRow code (k / 32) b
      (r.1, 0, r.2)
    else
      let w := elBits code
      let n := leNat b
      ((List.range k).map (fun i => elVal code (n / 2 ^ (w * i) % 2 ^ w)), 0, 0)

/-- The scale of row `row` at K-block `blk` (R171, R172, R281). -/
def scaleVal (s : State) (scl : Word) (row blk perRow : Nat) : Num :=
  match sclMode scl with
  | 0 => .fin false 1 0
  | 1 => f32.dec (s.readAt (sclAddr scl) 4)
  | 2 => f32.dec (s.readAt (sclAddr scl + 4 * row) 4)
  | _ =>
    let b := s.readAt (sclAddr scl + row * perRow + blk) 1
    if b = 255 then .nan false else .fin false 1 ((b : Int) - 127)

/-- Each row of an operand with its scale applied exactly; bad blocks and over-full masks of all rows. -/
def operand (s : State) (f scl sa : Word) (pitch rows k : Nat) : List (List Num) × Nat × Nat :=
  let r := (List.range rows).map (fun i =>
    let x := readRow s f (sa.toNat + i * pitch) pitch k
    let v := (x.1.zipIdx).map (fun e =>
      if sclMode scl = 0 then e.1 else (Num.mul e.1 (scaleVal s scl i (e.2 / 32) (k / 32))).1)
    (v, x.2))
  (r.map Prod.fst, (r.map (fun x => x.2.1)).sum, (r.map (fun x => x.2.2)).sum)

/-! ## The arithmetic (R176, R177, R266) and the checksums (R272) -/

/-- A list cut into blocks of `n`, at most `fuel` of them. -/
def blocksOf {α : Type} (n : Nat) : Nat → List α → List (List α)
  | 0, _ => []
  | fuel + 1, l => if l.isEmpty then [] else l.take n :: blocksOf n fuel (l.drop n)
/-- The exact sum of a list, a NaN where R176 says so. -/
def sumAll : List Num → Num
  | [] => .fin false 0 0
  | x :: r => r.foldl (fun a b => (Num.add a b).1) x
/-- The block sum as a pattern (R176), negated for MMAS unless it is a NaN. -/
def blockSum (f : Fmt) (neg : Bool) (p : List Num) : Nat :=
  let x := f.rne (sumAll p)
  if neg && !(f.dec x).isNan then f.rne (f.dec x).neg else x

/-- What an element comes to: the result and, for the checksums, its start value, the sum of its products, the sum of their
magnitudes and whether all of them are finite. -/
structure MElem where
  res : Nat
  base : Nat
  sum : Num
  mag : Num
  fin : Bool
  deriving DecidableEq, Repr

def elemOf (f : Fmt) (neg : Bool) (blk base : Nat) (a b : List Num) : MElem :=
  let p := List.zipWith (fun x y => (Num.mul x y).1) a b
  let res := (blocksOf blk p.length p).foldl (fun c q => f.addF c (blockSum f neg q)) base
  let t := sumAll p
  { res := res, base := base, sum := if neg then t.neg else t, mag := sumAll (p.map Num.abs)
    fin := p.all Num.isFin && f.isFinite base && f.isFinite res }

/-- The elements of a row or column pass: not tested, or `|S - T| ≤ TOL * E`. -/
def sumsPass (f : Fmt) (tol : Num) (l : List MElem) : Bool :=
  if !l.all MElem.fin then true
  else
    let d := sumAll (l.map (fun e => (Num.add (Num.add (f.dec e.res) (f.dec e.base).neg).1 e.sum.neg).1))
    let e := (Num.mul tol (sumAll (l.map MElem.mag))).1
    Num.cmp d.abs e != .gt

/-- No tested row or column mismatches (R273). An infinite TOL tests nothing. -/
def checkPass (f : Fmt) (tol : Nat) (m n : Nat) (l : List MElem) : Bool :=
  let t := f32.dec tol
  !t.isFin ||
  ((List.range m).all (fun i => sumsPass f t ((l.drop (i * n)).take n)) &&
   (List.range n).all (fun j => sumsPass f t ((List.range m).filterMap (fun i => l[i * n + j]?))))

/-! ## A command's fields -/

/-- Rows, columns and K of a command. -/
def MEntry.geom (e : MEntry) : Nat × Nat × Nat :=
  match e.instr with
  | .mma _ _ _ _ _ _ _ k n m | .mmas _ _ _ _ _ _ _ k n m => (m.toNat + 1, n.toNat + 1, 4 * (k.toNat + 1))
  | .mldt _ _ _ _ _ _ n m | .mstt _ _ _ _ _ _ _ n m => (m.toNat + 1, n.toNat + 1, 0)
  | _ => (128, 128, 0)
/-- NOTIFY and its counter. -/
def MEntry.notify (e : MEntry) : Option Nat :=
  match e.instr with
  | .mma _ _ _ _ _ nf ci _ _ _ | .mmas _ _ _ _ _ nf ci _ _ _ => if nf then some ci.toNat else none
  | .mzero _ nf ci => if nf then some ci.toNat else none
  | .mldt _ _ _ _ nf ci _ _ | .mstt _ _ _ _ _ nf ci _ _ => if nf then some ci.toNat else none
  | _ => none
def MEntry.pitchA (e : MEntry) : Nat := e.sp.toNat % 2 ^ 32
def MEntry.pitchB (e : MEntry) : Nat := e.sp.toNat / 2 ^ 32
/-- Accumulator format of the command. -/
def MEntry.acc (e : MEntry) : Fmt := if e.tileOf.2 then f64 else f32
def MEntry.isStore (e : MEntry) : Bool := match e.instr with
  | .mstt _ _ _ _ _ _ _ _ _ => true
  | _ => false
def MEntry.isMma (e : MEntry) : Bool := match e.instr with
  | .mma _ _ _ _ _ _ _ _ _ _ | .mmas _ _ _ _ _ _ _ _ _ _ => true
  | _ => false
def MEntry.clears (e : MEntry) : Bool := match e.instr with
  | .mzero _ _ _ | .mldt _ _ _ _ _ _ _ _ => true
  | _ => false
/-- Busy cycles of a command (R267). -/
def MEntry.busy (e : MEntry) : Nat :=
  let g := e.geom
  match e.instr with
  | .mma _ _ _ _ _ _ _ _ _ _ | .mmas _ _ _ _ _ _ _ _ _ _ =>
    ((mClass (fmtCode e.fmta)).getD .f8).busy (fmtSparse e.fmta || fmtSparse e.fmtb) g.2.2
  | .mldt _ _ _ _ _ _ _ _ | .mstt _ _ _ _ _ _ _ _ _ => g.1
  | _ => 1

/-- The registers a command samples at acceptance (R259). -/
def sampled (s : State) (i : Instr) (sa sb sp : Reg) : MEntry :=
  let t := s.me
  let c := t.regs.ctl
  { id := s.fresh, core := hartCore s.cur % 8, instr := i, hart := s.cur, sa := s.rs sa, sb := s.rs sb, sp := s.rs sp
    fmta := c.fmta, fmtb := c.fmtb, fmtc := c.fmtc, scla := c.scla, sclb := c.sclb, sclc := c.sclc
    mmnf := c.trapen.getLsbD 0, tol := ((s.cluster (hartCl s.cur)).chktol).setWidth 32
    rcd := t.cont.rcd, gen := t.cont.gen, st := .accepted, base := [], res := [], ok := true }

/-! ## Issue checks (R93, R94, R263, R264, R281), in the order of R113 -/

/-- `n` bytes at `w` lie in one scratchpad of cluster `cl`. -/
def inClusterSpad (cl : Nat) (w : Word) (n : Nat) : Bool :=
  isOA w && oaCluster w.toNat < 96 && oaCl w.toNat == cl && oaRegion w.toNat < 8 && oaOff w.toNat + n ≤ spadSize

def sclWord (w : Word) : Word := BitVec.ofNat 64 (sclAddr w)
def sclMis (w : Word) : Bool := (sclMode w == 1 || sclMode w == 2) && sclAddr w % 4 != 0
def sclOut (cl : Nat) (w : Word) (rows k : Nat) : Bool :=
  let n := match sclMode w with
    | 1 => 4
    | 2 => 4 * rows
    | _ => rows * (k / 32)
  sclMode w != 0 && !inClusterSpad cl (sclWord w) n
/-- SADDR of a scale that the command does not read lies in no scratchpad of the cluster (R94). -/
def sclAway (cl : Nat) (w : Word) : Bool := sclMode w != 0 && !inClusterSpad cl (sclWord w) 1
def ctabWord (f : Word) : Word := BitVec.ofNat 64 (fmtCtab f)
def ctabMis (f : Word) : Bool := fmtCode f == 6 && fmtCtab f % 16 != 0
def ctabOut (cl : Nat) (f : Word) : Bool :=
  fmtCode f == 6 && !inClusterSpad cl (ctabWord f) (if fmtEc f then 16 else 8)
/-- The first address whose condition holds. -/
def firstBad (l : List (Bool × Word)) : Option Word := (l.find? Prod.fst).map Prod.snd

/-- ILLEGAL conditions of one operand format. -/
def fmtIllegal (f : Word) : Bool :=
  (mClass (fmtCode f)).isNone || (fmtSparse f && (fmtCode f == 8 || fmtCode f == 9)) || (fmtEc f && fmtCode f != 6)
/-- A row longer than its pitch; EC8 rows have no length check (DEDUCED, log 36). -/
def rowTooLong (f : Word) (k pitch : Nat) : Bool := fmtCode f != 6 && pitch < rowBytes f k

/-- The trap of an MMA or MMAS and the address it reports, if any. A pitch that is no multiple of 64 reports its operand's address,
since a pitch has none (R115), and MODE 3 with the double class is tested in SCLA and SCLB, the scales that the command reads (R263)
(DESIGN CHOICE, log 36). -/
def mmaTrap (cl : Nat) (e : MEntry) : Option (Trap × Word) :=
  let (m, n, k) := e.geom
  let ca := mClass (fmtCode e.fmta)
  let dbl := ca == some .double
  let sparse := fmtSparse e.fmta || fmtSparse e.fmtb
  let mult := if dbl && !sparse then 4 else 32
  if fmtIllegal e.fmta || fmtIllegal e.fmtb || fmtEc e.fmtc || fmtSparse e.fmtc
    || ca != mClass (fmtCode e.fmtb) || fmtCode e.fmtc != (if dbl then 0 else 1)
    || (fmtSparse e.fmta && fmtSparse e.fmtb) || (dbl && (sclMode e.scla == 3 || sclMode e.sclb == 3))
    || e.pitchA = 0 || e.pitchB = 0 || k % mult ≠ 0 || (dbl && (64 < n || e.tileOf.1 % 2 = 1))
    || rowTooLong e.fmta k e.pitchA || rowTooLong e.fmtb k e.pitchB then some (.illegal, 0)
  else match firstBad [(e.sa.toNat % 64 != 0 || e.pitchA % 64 != 0, e.sa), (e.sb.toNat % 64 != 0 || e.pitchB % 64 != 0, e.sb),
      (sclMis e.scla, sclWord e.scla), (sclMis e.sclb, sclWord e.sclb), (sclMis e.sclc, sclWord e.sclc),
      (ctabMis e.fmta, ctabWord e.fmta), (ctabMis e.fmtb, ctabWord e.fmtb)] with
  | some w => some (.misalign, w)
  | none => match firstBad [(!inClusterSpad cl e.sa (m * e.pitchA), e.sa), (!inClusterSpad cl e.sb (n * e.pitchB), e.sb),
      (sclOut cl e.scla m k, sclWord e.scla), (sclOut cl e.sclb n k, sclWord e.sclb), (sclAway cl e.sclc, sclWord e.sclc),
      (ctabOut cl e.fmta, ctabWord e.fmta), (ctabOut cl e.fmtb, ctabWord e.fmtb)] with
  | some w => some (.window, w)
  | none => none

/-- The trap of an MLDT or MSTT of element type `ty` and the address it reports, a pitch's as in `mmaTrap`, if any. SCLC's address is checked
as R94 has SCLA's and SCLB's checked, MISALIGN or WINDOW (DESIGN CHOICE, log 36). -/
def moveTrap (cl : Nat) (e : MEntry) (ty : Ty) : Option (Trap × Word) :=
  let (m, n, _) := e.geom
  let okTy : Bool := match fmtCode e.fmtc, ty.toNat with
    | 1, 1 | 1, 2 | 1, 3 | 0, 0 | 0, 1 => true
    | 1, 4 | 1, 5 => e.isStore
    | _, _ => false
  let dbl := e.tileOf.2
  if !okTy || (dbl && (64 < n || e.tileOf.1 % 2 = 1)) || sclMode e.sclc == 3 || 2 ^ 32 ≤ e.sp.toNat || e.pitchA = 0
    || e.pitchA < n * (ty.width / 8) then some (.illegal, 0)
  else match firstBad [(e.sa.toNat % 64 != 0 || e.pitchA % 64 != 0, e.sa), (sclMis e.sclc, sclWord e.sclc)] with
  | some w => some (.misalign, w)
  | none => match firstBad [(!inClusterSpad cl e.sa (m * e.pitchA), e.sa), (sclOut cl e.sclc m 0, sclWord e.sclc)] with
  | some w => some (.window, w)
  | none => none

/-! ## The commands (R258 to R260) -/

/-- Entries that a core occupies (R258). -/
def Cluster.occupied (c : Cluster) (core : Nat) : Nat :=
  ((c.queue ++ c.granted).filter (fun e => e.core == core)).length

/-- A command whose checks pass enters its core's queue, or stalls while the queue is full. -/
def mCommand (s : State) (i : Instr) (sa sb sp : Reg) (check : MEntry → Option (Trap × Word)) : Result :=
  match check (sampled s i sa sb sp) with
  | some (t, w) => takeTrap s t w 0
  | none =>
    if 4 ≤ (s.cluster (hartCl s.cur)).occupied (hartCore s.cur % 8) then s.stalled i
    else withRelease s (fun s =>
      let e := sampled s i sa sb sp
      let cl := hartCl s.cur
      let s := s.setCluster cl { s.cluster cl with queue := (s.cluster cl).queue ++ [e] }
      State.doneStrong { s with fresh := s.fresh + 1 })

def execMma (tile sa sb sp : Reg) (zero nf : Bool) (ci : BitVec 8) (k : BitVec 11) (n m : BitVec 7) (s : State) : Result :=
  mCommand s (.mma tile sa sb sp zero nf ci k n m) sa sb sp (mmaTrap (hartCl s.cur))
def execMmas (tile sa sb sp : Reg) (zero nf : Bool) (ci : BitVec 8) (k : BitVec 11) (n m : BitVec 7) (s : State) : Result :=
  mCommand s (.mmas tile sa sb sp zero nf ci k n m) sa sb sp (mmaTrap (hartCl s.cur))
def execMzero (tile : Reg) (nf : Bool) (ci : BitVec 8) (s : State) : Result :=
  mCommand s (.mzero tile nf ci) 0 0 0 (fun _ => none)
def execMldt (tile sa sp : Reg) (ty : Ty) (nf : Bool) (ci : BitVec 8) (n m : BitVec 7) (s : State) : Result :=
  mCommand s (.mldt tile sa sp ty nf ci n m) sa 0 sp (fun e => moveTrap (hartCl s.cur) e ty)
def execMstt (tile sa sp : Reg) (ty : Ty) (sat nf : Bool) (ci : BitVec 8) (n m : BitVec 7) (s : State) : Result :=
  mCommand s (.mstt tile sa sp ty sat nf ci n m) sa 0 sp (fun e => moveTrap (hartCl s.cur) e ty)

/-- The head hart `h` stalls at, when nothing comes before it. -/
def State.stalledHead (s : State) (h : Hart) : Option Instr :=
  let t := s.thread h
  match t.run, t.mnf, t.wait with
  | .running, none, .stall i => if t.mark.any (fun d => decide (d ≤ s.now)) then none else some i
  | _, _, _ => none

/-- MATRIX_QUEUE_ACCEPT: hart `cur`, stalled at a matrix command, is accepted once an entry is free. -/
def execMatrixQueueAccept (s : State) : Result :=
  match s.stalledHead s.cur with
  | some (.mma tile sa sb sp zero nf ci k n m) => execMma tile sa sb sp zero nf ci k n m s
  | some (.mmas tile sa sb sp zero nf ci k n m) => execMmas tile sa sb sp zero nf ci k n m s
  | some (.mzero tile nf ci) => execMzero tile nf ci s
  | some (.mldt tile sa sp ty nf ci n m) => execMldt tile sa sp ty nf ci n m s
  | some (.mstt tile sa sp ty sat nf ci n m) => execMstt tile sa sp ty sat nf ci n m s
  | _ => .next s

/-! ## The result of a command -/

/-- The 32-bit word that a granted command will write at position (i, j) of a tile (R270, R271, R280). -/
def MEntry.wordAt (e : MEntry) (tile i j : Nat) : Option Nat :=
  let (m, n, _) := e.geom
  if e.isStore || !e.names tile then none
  else match e.instr with
  | .mzero _ _ _ => some 0
  | _ =>
    if i < m && j < n then
      (e.res[i * n + j]?).map (fun v => if tile = e.tileOf.1 then v % 2 ^ 32 else v / 2 ^ 32)
    else none
/-- A word of a tile as the write-backs of every command granted so far leave it. -/
def tileWord (s : State) (cl tile i j : Nat) : Nat :=
  match (s.cluster cl).granted.reverse.findSome? (fun e => e.wordAt tile i j) with
  | some v => v
  | none => leNat (Memory.read s.mem (tileKey cl tile i j) 4)
/-- The region of a command at its grant, row-major. -/
def regionBase (s : State) (cl : Nat) (e : MEntry) : List Nat :=
  let (m, n, _) := e.geom
  let t := e.tileOf
  (List.range (m * n)).map (fun x =>
    tileWord s cl t.1 (x / n) (x % n) + (if t.2 then 2 ^ 32 * tileWord s cl (t.1 + 1) (x / n) (x % n) else 0))

/-- Compute a command from its region at grant and the operands as they stand: the result and whether it passes, with the bad
blocks and over-full masks of its operands counted. -/
def compute (s : State) (cl : Nat) (e : MEntry) : State × MEntry :=
  let (m, n, k) := e.geom
  let f := e.acc
  match e.instr with
  | .mma _ _ _ _ zero _ _ _ _ _ | .mmas _ _ _ _ zero _ _ _ _ _ =>
    let neg := match e.instr with
      | .mmas _ _ _ _ _ _ _ _ _ _ => true
      | _ => false
    let a := operand s e.fmta e.scla e.sa e.pitchA m k
    let b := operand s e.fmtb e.sclb e.sb e.pitchB n k
    let blk := if e.tileOf.2 then 4 else 32
    let l := (List.range (m * n)).map (fun x =>
      elemOf f neg blk (if zero then 0 else (e.base[x]?).getD 0) ((a.1[x / n]?).getD []) ((b.1[x % n]?).getD []))
    ((s.countCl cl cEc8 (a.2.1 + b.2.1)).countCl cl cSparse (a.2.2 + b.2.2),
      { e with res := l.map MElem.res, ok := checkPass f e.tol.toNat m n l })
  | .mldt _ _ _ ty _ _ _ _ =>
    let size := ty.width / 8
    (s, { e with res := (List.range (m * n)).map (fun x =>
      let v := valOf ty (s.readAt (e.sa.toNat + x / n * e.pitchA + x % n * size) size)
      f.rne (Num.mul v (scaleVal s e.sclc (x / n) 0 0)).1) })
  | .mstt _ _ _ ty sat _ _ _ _ =>
    (s, { e with res := (List.range (m * n)).map (fun x =>
      let v := (Num.mul (f.dec ((e.base[x]?).getD 0)) (scaleVal s e.sclc (x / n) 0 0)).1
      ((fmtOf ty.toNat).finish .rne 0 (if sat then 3 else 0) (v, 0)).1) })
  | _ => (s, e)

/-- Some byte of the `len` first bytes of `rows` rows from `base` on is an unfilled byte of a copy's destination (R85). -/
def State.rowsGuarded (s : State) (base pitch rows len : Nat) : Bool := (List.range rows).any (fun i => s.guarded (base + i * pitch) len)
/-- The same of a scale register's scale or scale array, and of an operand's EC8 code table (R93, R94). -/
def State.sclGuarded (s : State) (scl : Word) (rows k : Nat) : Bool :=
  match sclMode scl with
  | 0 => false
  | 1 => s.guarded (sclAddr scl) 4
  | 2 => s.guarded (sclAddr scl) (4 * rows)
  | _ => s.guarded (sclAddr scl) (rows * (k / 32))
def State.ctabGuarded (s : State) (f : Word) : Bool := fmtCode f == 6 && s.guarded (fmtCtab f) (if fmtEc f then 16 else 8)
/-- Some byte of `n` EC8 blocks from `key` on, `skip` mask bytes before each, is an unfilled byte of a copy's destination; of the row's
`left` bytes those behind its last block are not read (R165, R175). -/
def State.ec8Guarded (s : State) (skip : Nat) : Nat → Nat → Nat → Bool
  | 0, _, _ => false
  | n + 1, key, left =>
    if s.guarded key (min left (skip + 2)) then true
    else
      let next := skip + 18 + 2 * ((leNat (s.bytesAt (key + skip) 2) % 4096 + 15) / 16)
      s.guarded key (min left next) || State.ec8Guarded s skip n (key + next) (left - next)
/-- An operand of `rows` rows with its scales and its code table. -/
def State.matrixGuarded (s : State) (f scl sa : Word) (pitch rows k : Nat) : Bool :=
  (if fmtCode f = 6 then (List.range rows).any (fun i =>
      if fmtSparse f then s.ec8Guarded 8 ((k / 32 + 1) / 2) (sa.toNat + i * pitch) pitch
      else s.ec8Guarded 0 (k / 32) (sa.toNat + i * pitch) pitch)
   else s.rowsGuarded sa.toNat pitch rows (rowBytes f k)) || s.sclGuarded scl rows k || s.ctabGuarded f
/-- A weak read of the command meets an unfilled copy destination: its operand reads stall (R82, R85) (DEDUCED, log 36). -/
def readGuarded (s : State) (e : MEntry) : Bool :=
  let (m, n, k) := e.geom
  match e.instr with
  | .mma _ _ _ _ _ _ _ _ _ _ | .mmas _ _ _ _ _ _ _ _ _ _ =>
    s.matrixGuarded e.fmta e.scla e.sa e.pitchA m k || s.matrixGuarded e.fmtb e.sclb e.sb e.pitchB n k
  | .mldt _ _ _ ty _ _ _ _ => s.rowsGuarded e.sa.toNat e.pitchA m (n * (ty.width / 8)) || s.sclGuarded e.sclc m 0
  | .mstt _ _ _ _ _ _ _ _ _ => s.sclGuarded e.sclc m 0
  | _ => false
/-- A weak write of the command does (R82, R85) (DEDUCED, log 36). -/
def writeGuarded (s : State) (e : MEntry) : Bool :=
  let (m, n, _) := e.geom
  match e.instr with
  | .mstt _ _ _ ty _ _ _ _ _ => s.rowsGuarded e.sa.toNat e.pitchA m (n * (ty.width / 8))
  | _ => false

/-! ## Events (R267 to R271) -/

/-- The cluster at which the stagger token of every die stands (R27) (DESIGN CHOICE, log 42). -/
def tokenAt (now : Nat) : Nat := now / 16 % 96
/-- The unit of cluster `cl` is parked, by the event or by 4,096 idle cycles (DEDUCED, log 36). -/
def Cluster.isParked (c : Cluster) (now : Nat) : Bool :=
  c.parked || (c.granted.isEmpty && c.idleSince + 4096 ≤ now)
/-- The cycle on which the token reaches cluster `cl` (R27). -/
def tokenReaches (now cl : Nat) : Bool := now % 16 == 0 && tokenAt now == cl % 96
def Cluster.isRunning (c : Cluster) : Bool := c.granted.any (fun e => match e.st with
  | .reading | .running _ _ => true
  | _ => false)

/-- The weight of core `k` (R99). -/
def weightOf (w : Word) (k : Nat) : Nat := w.toNat / 16 ^ k % 16
/-- The core the arbiter grants, with the credits after any refill (R268). -/
def arbitrate (c : Cluster) : Option (Nat × Vector Nat 8) :=
  let waits (k : Nat) : Bool := c.queue.any (fun e => e.core == k)
  if c.queue.isEmpty then none
  else
    let dry := (List.range 8).all (fun k => !waits k || (c.credit.toList[k]?).getD 0 == 0)
    let cr : Vector Nat 8 := if dry then Vector.ofFn (fun k => weightOf c.mwgt k.val) else c.credit
    (((List.range 8).map (fun d => (c.last + 1 + d) % 8)).find? (fun k => waits k && (cr.toList[k]?).getD 0 != 0)).map
      (fun k => (k, cr))

/-- The operands of a granted command are read and its busy cycles begin; while a copy has yet to fill a byte of them it stands
granted, and its reads stall (R85, R269) (DEDUCED, log 36). -/
def beginRun (s : State) (cl : Nat) (e : MEntry) : State × MEntry :=
  if readGuarded s e then (s, { e with st := .reading })
  else compute s cl { e with st := .running (s.now + e.busy - 1) false }
/-- The unit of cluster `cl` grants what its arbiter chooses, if anything (R268). -/
def grantNext (s : State) (cl : Nat) : State :=
  match arbitrate (s.cluster cl) with
  | none => s
  | some (k, cr) => match (s.cluster cl).queue.find? (fun e => e.core == k) with
    | none => s
    | some e =>
      let x := beginRun s cl { e with base := regionBase s cl e }
      let c := x.1.cluster cl
      x.1.setCluster cl { c with
        queue := c.queue.filter (fun f => f.id != e.id), granted := c.granted ++ [x.2], parked := false, last := k
        credit := Vector.ofFn (fun i => if i.val = k then cr[i] - 1 else cr[i]) }

/-- MATRIX_GRANT: cluster `cur`; a parked unit grants on the cycle the token reaches it (R27). -/
def execMatrixGrant (s : State) : Result :=
  let c := s.cluster s.cur
  if c.isRunning || s.now < c.freeAt || (c.isParked s.now && !tokenReaches s.now s.cur) then .next s
  else .next (grantNext s s.cur)

/-- Change the status of every tile a command names. -/
def Cluster.onTiles (c : Cluster) (e : MEntry) (f : TileMeta → TileMeta) : Cluster :=
  (List.range 8).foldl (fun c t => if e.names t then c.setTile t (f (c.tile t)) else c) c
/-- Replace an entry by id. -/
def Cluster.putEntry (c : Cluster) (e : MEntry) : Cluster :=
  { c with granted := c.granted.map (fun x => if x.id == e.id then e else x) }

/-- A granted command's operand reads, which stalled, go on: its busy cycles begin (R85). -/
def readOn (s : State) (cl : Nat) (e : MEntry) : State :=
  let x := beginRun s cl e
  x.1.setCluster cl ((x.1.cluster cl).putEntry x.2)
/-- MATRIX_BUSY_END: the running command of cluster `cur` reaches its last busy cycle (R269, R274); a command whose operand reads
stalled begins its busy cycles. -/
def execMatrixBusyEnd (s : State) : Result :=
  let cl := s.cur
  let c := s.cluster cl
  match c.granted.find? (fun e => e.st == .reading) with
  | some e => .next (readOn s cl e)
  | none =>
  match c.granted.find? (fun e => match e.st with
    | .running stop _ => stop ≤ s.now
    | _ => false) with
  | none => .next s
  | some e =>
    let (stop, rerun) := match e.st with
      | .running stop rerun => (stop, rerun)
      | _ => (0, false)
    let fin (s : State) (e : MEntry) (c : Cluster) : Result :=
      .next (s.setCluster cl { c.putEntry { e with st := .writeback (stop + 24) } with freeAt := stop + 1, idleSince := stop + 1 })
    if e.ok then fin s e c
    else
      let bumpRerun (m : TileMeta) : TileMeta := { m with reruns := if m.reruns = 255 then 255 else m.reruns + 1 }
      if rerun then
        let s := (s.countCl cl cRerun 1).countCl cl cSpoiledTile 1
        fin s e ((s.cluster cl).onTiles e (fun m => { m with spoiled := true }))
      else if readGuarded s e then .next s
      else
        let x := compute (s.countCl cl cRerun 1) cl { e with st := .running (stop + e.busy) true }
        .next (x.1.setCluster cl (((x.1.cluster cl).putEntry x.2).onTiles e bumpRerun))

/-- The region of a command is written (R269, R270, R281). -/
def writeRegion (s : State) (cl : Nat) (e : MEntry) : State :=
  let (m, n, _) := e.geom
  let t := e.tileOf
  match e.instr with
  | .mzero _ _ _ =>
    let s : State := { s with mem := Memory.write s.mem (tileKey cl t.1 0 0) (List.replicate 0x10000 0) }
    s.noteLines cl (linesOf (tileKey cl t.1 0 0) 0x10000) deviceHart
  | .mstt _ _ _ ty _ _ _ _ _ =>
    let size := ty.width / 8
    (List.range m).foldl (fun s i => s.writeAt deviceHart (e.sa.toNat + i * e.pitchA)
      (((e.res.drop (i * n)).take n).flatMap (fun v => leBytes size v))) s
  | _ =>
    let s := (e.res.zipIdx).foldl (fun s x => s.setTileEl cl t.1 t.2 (x.2 / n) (x.2 % n) x.1) s
    (List.range m).foldl (fun s i =>
      s.noteLines cl (linesOf (tileKey cl t.1 i 0) (4 * n) ++ (if t.2 then linesOf (tileKey cl (t.1 + 1) i 0) (4 * n) else []))
        deviceHart) s

/-- Position of the first element that is non-finite in the result and was finite at grant (R277). -/
def firstNonfinite (e : MEntry) : Option Nat :=
  if e.isStore then none
  else (List.range e.res.length).find? (fun x =>
    !e.acc.isFinite ((e.res[x]?).getD 0) && e.acc.isFinite ((e.base[x]?).getD 0))

/-- MNF is left for the tagged continuation, or counted (R277), as a second one is while one is pending for it (DESIGN CHOICE, log 55). -/
def postMnf (s : State) (cl : Nat) (e : MEntry) (x : Nat) : State :=
  let n := e.geom.2.1
  let t := s.thread e.hart
  let enc := (encode e.instr).getD (0, 0)
  if e.mmnf && (t.run == .running || t.run == .halted) && t.cont.rcd == e.rcd && t.cont.gen == e.gen && t.mnf.isNone then
    let m : MnfRec := { head := enc.1, tail := enc.2, row := x / n, col := x % n, tile := e.tileOf.1
                        fmta := e.fmta, fmtb := e.fmtb, fmtc := e.fmtc }
    s.setThread e.hart { t with mnf := some m }
  else s.countCl cl cMnf 1

/-- The addends held behind tiles that are no longer busy are applied in arrival order (R271). -/
def applyHeld (s : State) (cl : Nat) : State :=
  let c := s.cluster cl
  let busy (a : Addend) : Bool := c.tileBusy a.tile a.f64
  (c.held.filter (fun a => !busy a)).foldl (fun s a => applyAddend s cl a) (s.setCluster cl { c with held := c.held.filter busy })

/-- MATRIX_WRITEBACK: the oldest command of cluster `cur` whose 24 cycles are over. -/
def execMatrixWriteback (s : State) : Result :=
  let cl := s.cur
  match (s.cluster cl).granted.find? (fun e => match e.st with
    | .writeback due => due ≤ s.now
    | _ => false) with
  | none => .next s
  | some e =>
    if writeGuarded s e then .next s
    else
      let s := writeRegion s cl e
      let bad := firstNonfinite e
      let upd (m : TileMeta) : TileMeta :=
        { m with spoiled := m.spoiled && !e.clears, nonfinite := (m.nonfinite && !e.clears) || bad.isSome, pair64 := e.tileOf.2 }
      let c := s.cluster cl
      let c := if e.isStore then c else c.onTiles e upd
      let s := s.setCluster cl { c with
        granted := c.granted.filter (fun x => x.id != e.id), idleSince := max c.idleSince (s.now + 1) }
      let s := match bad with
        | some x => postMnf s cl e x
        | none => s
      let s := match e.notify with
        | some i => notifyUp s cl i
        | none => s
      .next (applyHeld s cl)

/-- MATRIX_PARK: the unit of cluster `cur` has been idle for 4,096 cycles (R27, R261). -/
def execMatrixPark (s : State) : Result :=
  let c := s.cluster s.cur
  if c.up && c.granted.isEmpty && c.idleSince + 4096 ≤ s.now then .next (s.setCluster s.cur { c with parked := true }) else .next s

/-- A parked unit with a command waiting re-enters on this cycle: it grants (R27). -/
def reenter (s : State) (cl : Nat) : State :=
  let c := s.cluster cl
  if c.isParked s.now && !c.queue.isEmpty && !c.isRunning && c.freeAt ≤ s.now then
    grantNext (s.setCluster cl { c with parked := false, idleSince := s.now }) cl
  else s
/-- STAGGER_TOKEN_MOVE: on a cycle that moves the token, the parked unit it reaches on each die re-enters when a command waits
there (R27). -/
def execStaggerTokenMove (s : State) : Result :=
  if s.now % 16 ≠ 0 then .next s
  else .next ((List.range 4).foldl (fun s d => reenter s (96 * d + tokenAt s.now)) s)

/-- ADDEND_PACKET: the next line of fabric item `cur`, an FACC, reaches its tile's arbiter (R286, R397). -/
def execAddendPacket (s : State) : Result :=
  match s.net.find? (fun m => m.id == s.cur) with
  | none => .next s
  | some m => match m.item with
    | .reduce 7 k tag ci l =>
      if !s.firstOf m then .next s else
      let r := reduceStep s m.hart 7 k tag ci l
      if r.2.2.isEmpty then .next (r.1.dropMsg m.id)
      else
        let put (x : Msg) : Msg := if x.id == m.id then { x with item := .reduce 7 r.2.1 tag ci r.2.2 } else x
        .next { r.1 with net := r.1.net.map put }
    | _ => .next s

/-! ## MWAIT, MFAB and MCHK (R282 to R285) -/

/-- Commands tagged with the issuing continuation that are not complete. -/
def State.tagged (s : State) (l : List MEntry) : List MEntry :=
  l.filter (fun e => e.rcd == s.me.cont.rcd && e.gen == s.me.cont.gen)

def execMwait (n : Reg) (s : State) : Result :=
  withChunkEnd s (fun s =>
    let left := (s.clusters.map (fun c => if s.dieIn s.myPart (c.1 / 96) then
      (s.tagged (c.2.queue ++ c.2.granted)).length else 0)).sum
    if left ≤ n.toNat then s.doneStrong else s.stalled (.mwait n))

def execMfab (tile sc : Reg) (s : State) : Result :=
  let w := s.rs sc
  let code := fmtCode s.me.regs.ctl.fmtc
  if 2 ^ 32 ≤ w.toNat || 1 < code || (code = 0 && tile.toNat % 2 = 1) then illegal s
  else withRelease s (fun s =>
    let cl := hartCl s.cur
    let c := s.cluster cl
    let m := { c.tile tile.toNat with arming := (c.tile tile.toNat).arming + 1, armed := w.setWidth 8 != 0#8, f64 := code == 0, remain := w.setWidth 8
                                      ci := w.extractLsb' 8 8, round := w.extractLsb' 16 16 }
    (s.setCluster cl (c.setTile tile.toNat m)).doneStrong)

/-- The status word of MCHK (R284). -/
def TileMeta.word (m : TileMeta) : Word :=
  BitVec.ofNat 64 ((if m.spoiled then 1 else 0) + (if m.nonfinite then 2 else 0) + (if m.armed then 4 else 0)
    + (if m.pair64 then 8 else 0) + m.reruns.toNat * 2 ^ 8 + m.remain.toNat * 2 ^ 16 + m.round.toNat * 2 ^ 32)

def execMchk (rd tile clear : Reg) (s : State) : Result :=
  withChunkEnd s (fun s =>
    let cl := hartCl s.cur
    let c := s.cluster cl
    if (s.tagged (c.queue ++ c.granted)).any (fun e => e.names tile.toNat) then s.stalled (.mchk rd tile clear)
    else
      let m := c.tile tile.toNat
      let s := if clear = 0 then s else
        s.setCluster cl (c.setTile tile.toNat { m with spoiled := false, nonfinite := false, reruns := 0 })
      (s.ws rd m.word).doneStrong)

end Sys2Proof.Machine
end

