-- ==== Sys2Proof/Machine/Hearth.lean ====
section
/-! DEFINITION. The hearth: tables and queries (R320 to R330), modes and refresh (R316 to R319), the command queues, indexed
reduce (R331 to R335) and hob units (R337 to R342). -/

namespace Sys2Proof.Machine

/-! ## Pseudo-channels (R316) -/

def keyPa (k : Nat) : Nat := (k - 2 ^ 40) % 2 ^ 36
/-- Pseudo-channel of a stack-physical address, 0 to 95. -/
def pcOfPa (pa : Nat) : Nat := 8 * (pa / 2 ^ 21 % 12) + pa / 2 ^ 18 % 8
def onePc (pa n : Nat) : Bool := pa / 2 ^ 18 == (pa + n - 1) / 2 ^ 18
/-- `n` bytes from `va` lie in the page that stack `st` has translated `va` by. -/
def State.onePage (s : State) (st p va n : Nat) : Bool :=
  match (s.stack st).tlb.find? (fun e => e.covers p va) with
  | some e => va + n ≤ e.va + e.size
  | none => false
/-- Key of byte `off` of a range at `va` whose translation `pa` is held, for the task `acc` (R309, R371). -/
def State.heldKey (s : State) (acc st va pa off : Nat) (write : Bool) : Nat :=
  stackKey ((s.slotFor acc ((va + off) / 2 ^ 16) write).getD 0) st (pa + off)
/-- The task may write every tile of a range. -/
def State.mayWrite (s : State) (acc va n : Nat) : Bool :=
  (List.range ((va + n - 1) / 2 ^ 16 - va / 2 ^ 16 + 1)).all (fun i => (s.slotFor acc (va / 2 ^ 16 + i) true).isSome)

/-- Stoker (0 to 95) of a pseudo-channel `96 * stack + number`, and the pseudo-channel as the stack numbers it. -/
def pcStoker (pc : Nat) : Nat := pc / 96 * 12 + pc % 96 / 8
def State.hq (s : State) (sk : Nat) : List HCmd := Tab.get [] s.hqueue sk
def State.setHq (s : State) (sk : Nat) (l : List HCmd) : State := { s with hqueue := Tab.set [] s.hqueue sk l }
def State.hob (s : State) (pc : Nat) : Hob := Tab.get {} (s.stack (pc / 96)).hobs (pc % 96)
def State.setHob (s : State) (pc : Nat) (u : Hob) : State :=
  s.setStack (pc / 96) { s.stack (pc / 96) with hobs := Tab.set {} (s.stack (pc / 96)).hobs (pc % 96) u }
/-- The pseudo-channel is in compute mode (R317). -/
def State.computing (s : State) (pc : Nat) : Bool := Tab.get false (s.stack (pc / 96)).compute (pc % 96)

/-! ## HTLOAD (R321, R324) -/

/-- The descriptor's own fields are well formed. -/
def tableDescOk (d : BitVec 256) : Bool :=
  let width := (d.extractLsb' 80 2).toNat
  let policy := (d.extractLsb' 82 2).toNat
  let ien := d.getLsbD 84
  let ifmt := (d.extractLsb' 85 5).toNat
  d.extractLsb' 90 38 == 0#38 && d.extractLsb' 160 96 == 0#96 && width != 3 && policy != 3 &&
  (if ien then (ifmt == 1 && width == 2) || ((ifmt == 2 || ifmt == 3) && width == 1) else ifmt == 0)

/-- Install the table a descriptor names in a slot of stack `st`: the code of R324 and the state; no code while a migration holds
the page of BASE (R310). -/
def installTable (s : State) (st p acc slot : Nat) (d : BitVec 256) : Option Nat × State :=
  let base : Word := d.extractLsb' 0 64
  let entries := (d.extractLsb' 64 16).toNat + 1
  let width := (d.extractLsb' 80 2).toNat
  let n := entries * 2 ^ width
  if !tableDescOk d then (some 3, s)
  else if !isVA base then (some 1, s)
  else match s.xlate p acc (vaOf base) false with
  | (.outside, s) => (some 2, s)
  | (.held, s) => (none, s)
  | (.ok k, s) =>
    let pa := keyPa k
    if keyStack k ≠ st || base.toNat % 64 ≠ 0 || !s.onePage st p (vaOf base) n || !onePc pa n then (some 2, s)
    else if !s.computing (96 * st + pcOfPa pa) then (some 4, s)
    else
      let t : HTable := { va := vaOf base, pa := pa, entries := entries, width := width, policy := (d.extractLsb' 82 2).toNat
                          ien := d.getLsbD 84, ifmt := (d.extractLsb' 85 5).toNat, dflt := d.extractLsb' 128 32, part := p
                          acc := acc
                          page := (((s.stack st).tlb.find? (fun e => e.covers p (vaOf base))).map (fun e => e.va)).getD 0
                          big := ((s.stack st).tlb.find? (fun e => e.covers p (vaOf base))).any (fun e => e.big) }
      let x := s.stack st
      (some 0, s.setStack st { x with htabs := Tab.set none x.htabs slot (some t), lastWidth := Tab.set 0 x.lastWidth slot width })
  | (_, s) => (some 1, s)

/-- The stack to whose stoker the hart moves before it reads `n` bytes of a descriptor or command in stack memory (R305). -/
def State.movesTo (s : State) (w : Word) (n : Nat) : Option Nat :=
  (s.redirectOf s.myPart (vaOf w) n false).filter (fun st => s.stackIn s.myPart st && st != hartStack s.cur)

/-- The descriptor is read and the table installed, or the slot emptied (DEDUCED, log 22). -/
def htloadCode (s : State) (st p acc : Nat) (sd : Reg) (a slotw : Word) : Option Nat × State :=
  let slot := slotw.toNat
  if 256 ≤ slot then (some 3, s)
  else if sd = 0#5 then
    let x := s.stack st
    (some 0, s.setStack st { x with htabs := Tab.set none x.htabs slot none })
  else if !isVA a || a.toNat % 32 ≠ 0 then (some 3, s)
  else if !s.stackIn p (vaStack (vaOf a)) then (some 2, s)
  else match s.readVA p acc (vaOf a) 32 with
  | (none, s) => (some 1, s)
  | (some b, s) => installTable s st p acc slot (BitVec.ofNat 256 (leNat b))

def execHtload (rd sd st : Reg) (s : State) : Result :=
  let a := s.rs sd
  match (if (s.rs st).toNat < 256 && sd != 0#5 && isVA a && a.toNat % 32 = 0 then s.movesTo a 32 else none) with
  | some st => .next (s.setMe { s.me with wait := .redirect st })
  | none => withRelease s (fun s =>
    let r := htloadCode s (hartStack s.cur) s.myPart s.myAcc sd (s.rs sd) (s.rs st)
    match r.1 with
    | some c => (r.2.ws rd (BitVec.ofNat 64 c)).doneStrong
    | none => r.2.stalled (.htload rd sd st))

/-! ## HMODE and refresh (R317, R318, R325) -/

/-- Hand refresh over to the other owner: what is postponed is issued, pointer and time to due pass on. -/
def handOver (r : Refresh) (sequencer : Bool) : Refresh :=
  { r with sequencer := sequencer, postponed := 0, pointer := r.pointer + r.postponed }

/-- The code of HMODE by stoker `sk` for the selector `w`. -/
def hmodeCode (s : State) (sk : Nat) (w : Word) : Nat × State :=
  let n := w.toNat % 128
  let pc := sk / 12 * 96 + n
  let x := s.stack (sk / 12)
  let set (s : State) (b : Bool) : Nat × State :=
    (0, s.setStack (sk / 12) { x with compute := Tab.set false x.compute n b
                                      refresh := Tab.set {} x.refresh n (handOver (Tab.get {} x.refresh n) b) })
  if 2 ^ 9 ≤ w.toNat || w.getLsbD 7 then (3, s)
  else if n / 8 ≠ sk % 12 then (2, s)
  else if w.getLsbD 8 then (if s.computing pc then (0, s) else set s true)
  else if !s.computing pc then (0, s)
  else if x.htabs.any (fun e => match e.2 with
      | some t => pcOfPa t.pa == n
      | none => false)
    || (s.hob pc).cmd.isSome || (s.hq sk).any (fun c => c.kind == 1 && c.pc == pc) then (5, s)
  else set s false

def execHmode (rd sp : Reg) (s : State) : Result :=
  withRelease s (fun s =>
    let r := hmodeCode s (hartSk s.cur) (s.rs sp)
    (r.2.ws rd (BitVec.ofNat 64 r.1)).doneStrong)

/-- REFRESH: pseudo-channel `cur`. A refresh that has fallen due is issued with every postponed one; with `arg` 1, while a
lock-step command holds the pseudo-channel, it is postponed, up to 8 (R319). The period is the device's (Config). -/
def execRefresh (s : State) : Result :=
  let x := s.stack (s.cur / 96)
  let r := Tab.get {} x.refresh (s.cur % 96)
  let put (r : Refresh) : Result := .next (s.setStack (s.cur / 96) { x with refresh := Tab.set {} x.refresh (s.cur % 96) r })
  if s.now < r.due || 768 ≤ s.cur then .next s
  else if s.arg = 1 && r.postponed < 8 then put { r with postponed := r.postponed + 1, due := s.now + Config.refreshPeriod }
  else put { r with postponed := 0, pointer := r.pointer + r.postponed + 1, due := s.now + Config.refreshPeriod }

/-! ## Table queries (R326 to R330) -/

/-- Entries that may still be taken up in an arrival channel (R328): one that an open chunk has popped is present until that chunk
commits (R256). -/
def arrivalRoom (s : State) (core ch : Nat) : Nat :=
  let reserved := ((s.queries.filter (fun q => q.core == core && q.ch == ch)).map Query.need).sum
  16 - ((s.core core).arrivals ch).length - reserved

/-- The head is done and the chunk that holds only it commits, so that its pops leave their channels. -/
def State.doneCommit (s : State) : Result := .next ((s.advance s.cur).commit s.cur)

/-- A query of form `form`: checks, room, the pops and the query on its way (DEDUCED, log 22). -/
def tableQuery (s : State) (i : Instr) (form need : Nat) (va ss : Reg) (vb : Option Reg) : Result :=
  let w := s.rs ss
  let st := w.toNat / 256 % 8
  let ch := w.toNat / 2 ^ 12 % 16
  let core := hartCore s.cur
  let srcs := va :: vb.toList
  if 2 ^ 16 ≤ w.toNat || w.getLsbD 11 then illegal s
  else withDir s srcs none (fun s =>
    if !s.stackIn s.myPart st then takeTrap s .window 0 0
    else withRelease s (fun s =>
      if arrivalRoom s core ch < need then s.stalled i
      else withPops s i srcs (fun s v =>
        let q : Query := { qid := s.fresh, core := core, ch := ch, stack := st, slot := w.toNat % 256, form := form, va := v va
                           vb := (vb.map v).getD 0, issued := s.now, need := need, result := none }
        State.doneCommit { s with queries := s.queries ++ [q], fresh := s.fresh + 1 })))

def execTqB (va ss : Reg) (s : State) : Result := tableQuery s (.tqB va ss) 0 4 va ss none
def execTqH (va ss : Reg) (s : State) : Result := tableQuery s (.tqH va ss) 1 2 va ss none
def execTqPair (va ss vb : Reg) (s : State) : Result := tableQuery s (.tqPair va ss vb) 2 4 va ss (some vb)
def execTqIntp (va ss : Reg) (s : State) : Result := tableQuery s (.tqIntp va ss) 3 2 va ss none

/-- TQ_RESERVE: hart `cur`, stalled at a table query, reserves its entries once they are free. -/
def execTqReserve (s : State) : Result :=
  match s.stalledHead s.cur with
  | some (.tqB va ss) => execTqB va ss s
  | some (.tqH va ss) => execTqH va ss s
  | some (.tqPair va ss vb) => execTqPair va ss vb s
  | some (.tqIntp va ss) => execTqIntp va ss s
  | _ => .next s

/-- Entry `x` of a table, as its width has it. -/
def tableEntry (s : State) (st : Nat) (t : HTable) (x : Nat) : Nat :=
  let size := 2 ^ t.width
  leNat ((List.range size).map (fun i => s.byteAt (s.heldKey t.acc st t.va t.pa (x * size + i) false)))

/-- The index lanes of a query. -/
def queryIndices (q : Query) : List Nat :=
  match q.form with
  | 0 => (List.range 64).map (laneOf 8 q.va)
  | 1 | 3 => (List.range 32).map (laneOf 16 q.va)
  | _ => (List.range 64).map (fun i => laneOf 8 q.va i % 16 * 16 + laneOf 8 q.vb i % 16)

/-- The value TQ.INTP gives between entries (R329), a binary32 pattern. -/
def interpolate (s : State) (st : Nat) (t : HTable) (n f : Nat) : Nat :=
  let val (x : Nat) : Nat := f32.rne ((fmtOf t.ifmt).dec (tableEntry s st t x))
  let a := val n
  let y :=
    if f = 0 then a
    else
      let d := f32.subF (val (n + 1)) a
      let p := f32.rne (Num.mul (.fin false f (-8)) (f32.dec d)).1
      f32.addF a p
  if (f32.dec y).isNan then 0x7FC00000 else y

/-- One result under an installed table: the value, whether the index is out of range, and whether it marks the query. -/
def queryResult (s : State) (st : Nat) (t : HTable) (form x : Nat) : Nat × Bool × Bool :=
  let n := if form = 3 then x / 256 else x
  let f := if form = 3 then x % 256 else 0
  let out := t.entries ≤ n || (f != 0 && t.entries ≤ n + 1)
  let get (n f : Nat) : Nat := if form = 3 then interpolate s st t n f else tableEntry s st t n
  if !out then (get n f, false, false)
  else match t.policy with
  | 0 => (get (min n (t.entries - 1)) 0, true, false)
  | 1 => (if form = 3 then t.dflt.toNat else t.dflt.toNat % 2 ^ (8 * 2 ^ t.width), true, false)
  | _ => (0, true, true)

/-- Results packed into 64-byte entries, zero-filled. -/
def packResults (size : Nat) (l : List Nat) : List Vec :=
  let b := l.flatMap (leBytes size)
  (List.range ((b.length + 63) / 64)).map (fun i => bytesVec ((b.drop (64 * i)).take 64))

/-- The answer of the sequencer to a query: its entries, a mark, and the counters (R329). -/
def answerQuery (s : State) (q : Query) : (List Vec × Option Nat) × State :=
  let x := s.stack q.stack
  let idx := queryIndices q
  match Tab.get none x.htabs q.slot with
  | none =>
    let size := if q.form = 3 then 4 else 2 ^ Tab.get 0 x.lastWidth q.slot
    ((packResults size (idx.map (fun _ => 0)), none), s.countStack q.stack kAbsent 1)
  | some t =>
    if q.form = 3 && !t.ien then
      ((packResults 4 (idx.map (fun _ => 0x7FC00000)), none), s.countStack q.stack kRange 1)
    else
      let r := idx.map (queryResult s q.stack t q.form)
      let outs := (r.filter (fun e => e.2.1)).length
      ((packResults (if q.form = 3 then 4 else 2 ^ t.width) (r.map Prod.fst), if r.any (fun e => e.2.2) then some q.slot else none),
        if outs = 0 then s else s.countStack q.stack kRange outs)

/-- Deliver an answered query that heads its channel and has been on its way for 48 cycles (R328). -/
def deliverQuery (s : State) (q : Query) : State :=
  match s.queries.find? (fun r => r.core == q.core && r.ch == q.ch) with
  | none => s
  | some r =>
    match (if r.qid = q.qid && q.issued + 48 ≤ s.now then q.result else none) with
    | none => s
    | some (l, mark) =>
      let es : List ArrEntry := (l.zipIdx).map (fun e => { kind := .query q.qid (if e.2 = 0 then mark else none), data := e.1 })
      let c := s.core q.core
      let s := s.setCore q.core (c.setArrivals q.ch (c.arrivals q.ch ++ es))
      { s with queries := s.queries.filter (fun r => r.qid != q.qid) }

/-- TABLE_QUERY_ANSWER: the sequencer of stack `cur` takes unanswered query number `arg` of its own, and every answer that may
be delivered is. -/
def execTableQueryAnswer (s : State) : Result :=
  let s := match (s.queries.filter (fun q => q.stack == s.cur && q.result.isNone))[s.arg]? with
    | none => s
    | some q =>
      let r := answerQuery s q
      let put (x : Query) : Query := if x.qid == q.qid then { x with result := some r.1 } else x
      { r.2 with queries := r.2.queries.map put }
  .next (s.queries.foldl deliverQuery s)

/-! ## Commands (R331 to R334, R339) -/

/-- What is wrong with a mailbox word, if anything (R331). -/
def mailboxTrap (s : State) (w : Word) : Option Trap :=
  if w = 0 then none
  else if w.toNat % 64 ≠ 0 then some .misalign
  else if s.inSpad s.myPart w 64 || (kindOf s.cur == .stoker && isVA w && s.stackIn s.myPart (vaStack (vaOf w))) then none
  else some .window
def mboxOf (w : Word) : Option Word := if w = 0 then none else some w

/-- Read the 64 bytes a command names at issue, on-chip from a core and in stack memory from a stoker (R334). `win` is another operand
that raises WINDOW, which comes before a stoker's PAGE (R113). -/
def commandBytes (s : State) (i : Instr) (w : Word) (win : Option Word) (k : State → Vec → Result) : Result :=
  if w.toNat % 64 ≠ 0 then misalign s w
  else if kindOf s.cur = .core && !inClusterSpad (hartCl s.cur) w 64 then windowTrap s w
  else match win with
  | some a => takeTrap s .window a 0
  | none =>
  if kindOf s.cur = .core then
    (if s.held s.cur w.toNat 64 then s.stalled i
     else k (s.noteRead s.cur w.toNat 64) (bytesVec (s.ownBytes s.cur w.toNat 64)))
  else if !isVA w then windowTrap s w
  else match s.movesTo w 64 with
  | some st => .next (s.setMe { s.me with wait := .redirect st })
  | none => match s.xlate s.myPart s.myAcc (vaOf w) false with
  | (.ok key, s) =>
    if s.mustWait s.cur key 64 then s.stalled i
    else k (if arbOfKey key = arbOf s.cur then s.noteRead s.cur key 64 else s) (bytesVec (s.ownBytes s.cur key 64))
  | (.held, s) => s.stalled i
  | (_, s) => pageTrap s w

/-- The hart number under which the hearth writes mailboxes and sums: every thread's open chunk, the issuer's too, is checked against what
it writes (R70, R331). -/
def hearthHart : Hart := 16385

/-- Put a command into the queue of the stoker of its pseudo-channel. -/
def pushCommand (s : State) (c : HCmd) : State :=
  { s.setHq (pcStoker c.pc) (s.hq (pcStoker c.pc) ++ [{ c with id := s.fresh }]) with fresh := s.fresh + 1 }
def queueFull (s : State) (pc : Nat) : Bool := 32 ≤ (s.hq (pcStoker pc)).length

/-- Fields of an IRED command (R333). -/
def iredDst (c : Vec) : Word := c.extractLsb' 64 64
def iredSrc (c : Vec) : Word := c.extractLsb' 128 64
def iredOp (c : Vec) : Nat := (c.extractLsb' 0 4).toNat
def iredN (c : Vec) : Nat := (c.extractLsb' 8 4).toNat
def iredZero (c : Vec) : Bool := c.getLsbD 12
def iredLen (c : Vec) : Nat := (c.extractLsb' 16 16).toNat
def iredRows (c : Vec) : Nat := (c.extractLsb' 32 32).toNat
def iredPitch (c : Vec) : Nat := (c.extractLsb' 192 32).toNat
def iredIdx (c : Vec) (e : Nat) : Nat := (c.extractLsb' (256 + 32 * e) 32).toNat

/-- The pseudo-channel whose adder takes a command: that of DST's frame, or the first of its home stoker's where DST does not
translate. -/
def iredPc (s : State) (p acc : Nat) (dst : Word) : Nat :=
  let va := vaOf dst
  match (s.xlate p acc va true).1 with
  | .ok k => 96 * keyStack k + pcOfPa (keyPa k)
  | _ => 96 * vaStack va + 8 * (va % 2 ^ 54 / 2 ^ 21 % 12)

def execIred (sc sm : Reg) (s : State) : Result :=
  let i := Instr.ired sc sm
  let m := s.rs sm
  match (if (mailboxTrap s m) == some .misalign then some Trap.misalign else none) with
  | some t => takeTrap s t m 0
  | none => commandBytes s i (s.rs sc) ((mailboxTrap s m).map (fun _ => m)) (fun s c =>
    let dst := iredDst c
    let src := iredSrc c
    if !isVA dst || !s.stackIn s.myPart (vaStack (vaOf dst)) then windowTrap s dst
    else if !isVA src then windowTrap s src
    else
      let pc := iredPc s s.myPart s.myAcc dst
      if queueFull s pc then s.stalled i
      else withRelease s (fun s =>
        (pushCommand s { id := 0, kind := 0, pc := pc, cmd := c, sel := 0, mbox := mboxOf m, hart := s.cur, rd := 0
                         cont := s.me.cont, job := none, dpa := none, pos := 0, skipped := 0, fault := false }).doneStrong))

/-- Fields of a hob selector (R339). -/
def selPc (w : Word) : Nat := w.toNat % 128
def selStack (w : Word) : Nat := w.toNat / 2 ^ 8 % 8
def selEntry (w : Word) : Nat := w.toNat / 2 ^ 16 % 2 ^ 12
def selOk (w : Word) : Bool :=
  w.toNat < 2 ^ 28 && !w.getLsbD 7 && w.extractLsb' 11 5 == 0#5 && selPc w < 96 && selEntry w % 2 == 0 && 2 ≤ selEntry w % 64

/-- HCMD once its argument words have been read (DEDUCED, log 22). -/
def hcmdGo (s : State) (i : Instr) (w m : Word) (args : Vec) : Result :=
  let pc := 96 * selStack w + selPc w % 96
  if selOk w && queueFull s pc then s.stalled i
  else withRelease s (fun s =>
    if !selOk w then (putMailbox s s.cur s.myPart s.myAcc (mboxOf m) (2 + 256 * 3) []).doneStrong
    else (pushCommand s { id := 0, kind := 1, pc := pc, cmd := args, sel := w, mbox := mboxOf m, hart := s.cur, rd := 0
                          cont := s.me.cont, job := none, dpa := none, pos := 0, skipped := 0, fault := false }).doneStrong)

def execHcmd (sh sa sm : Reg) (s : State) : Result :=
  let i := Instr.hcmd sh sa sm
  let m := s.rs sm
  let w := s.rs sh
  match (if (mailboxTrap s m) == some .misalign then some Trap.misalign else none) with
  | some t => takeTrap s t m 0
  | none =>
    let win := match mailboxTrap s m with
      | some _ => some m
      | none => if s.stackIn s.myPart (selStack w) then none else some 0
    if sa = 0#5 then (match win with
      | some a => takeTrap s .window a 0
      | none => hcmdGo s i w m 0)
    else commandBytes s i (s.rs sa) win (fun s args => hcmdGo s i w m args)

/-- HOVL (R342): a bad operand is answered at once, otherwise the load is queued and the hart waits for its answer. -/
def execHovl (rd sh si : Reg) (s : State) : Result :=
  let w := s.rs sh
  let img := s.rs si
  let sk := hartSk s.cur
  let pc := 96 * (sk / 12) + selPc w
  let code :=
    if 2 ^ 11 ≤ w.toNat || w.getLsbD 7 || !isVA img || img.toNat % 4096 ≠ 0 then 3
    else if selStack w ≠ sk / 12 || selPc w / 8 ≠ sk % 12 then 2
    else 0
  if code ≠ 0 then withRelease s (fun s => (s.ws rd (BitVec.ofNat 64 code)).doneStrong)
  else if queueFull s pc then s.stalled (.hovl rd sh si)
  else withRelease s (fun s =>
    let s := pushCommand s { id := 0, kind := 2, pc := pc, cmd := 0, sel := img, mbox := none, hart := s.cur, rd := rd
                             cont := s.me.cont, job := none, dpa := none, pos := 0, skipped := 0, fault := false }
    .next (s.setMe { s.me with wait := .answer rd }))

/-- HEARTH_QUEUE_ACCEPT: hart `cur`, stalled at a full command queue, is accepted once an entry is free. -/
def execHearthQueueAccept (s : State) : Result :=
  match s.stalledHead s.cur with
  | some (.ired sc sm) => execIred sc sm s
  | some (.hcmd sh sa sm) => execHcmd sh sa sm s
  | some (.hovl rd sh si) => execHovl rd sh si s
  | _ => .next s

/-! ## Indexed reduce (R334, R335) -/

/-- The job that still waits for command `id`, under whatever hart or number it is kept now: the one that built it may be gone (R302),
or go on elsewhere (R289, R305). -/
def State.jobOfCmd (s : State) (id : Nat) : Option (Nat × Job) :=
  match s.jobs.find? (fun e => e.2.any (fun j => j.cmds.contains id)) with
  | some (k, some j) => some (k, j)
  | _ => none
/-- An IRED ends: its mailbox, and the REDUCE job that built it, while that waits for it (R302, R336). -/
def endIred (s : State) (c : HCmd) (stop fcode : Nat) : State :=
  let sk := pcStoker c.pc
  let s := s.setHq sk ((s.hq sk).filter (fun x => x.id != c.id))
  let s := putMailbox s hearthHart c.cont.part c.cont.acc c.mbox (stop + 256 * fcode + c.skipped * 2 ^ 16) []
  match c.job.bind (fun _ => s.jobOfCmd c.id) with
  | none => s
  | some (k, j) =>
    let fail := if stop = 1 then j.fail else match j.fail with
      | some f => if f.1 < c.id then some f else some (c.id, stop, fcode, iredDst c.cmd)
      | none => some (c.id, stop, fcode, iredDst c.cmd)
    s.setJob k (some { j with cmds := j.cmds.filter (fun x => x != c.id), invalid := j.invalid + BitVec.ofNat 32 c.skipped
                              fail := fail })

/-- Bytes of an element: 2 for .bf16, else 4. -/
def addSize (op : Nat) : Nat := if op = 1 then 2 else 4
/-- One element sum (R334). -/
def addElem (op a b : Nat) : Nat :=
  match op with
  | 0 => f32.addF a b
  | 1 => (fmtOf 2).addF a b
  | _ => (a + b) % 2 ^ 32

/-- What a command that may start comes to: it waits while a migration holds its destination, is refused with a code, goes on to
another pseudo-channel's adder, or starts at a stack-physical address. -/
inductive IredStart where
  | wait
  | refuse (code : Nat)
  | move (pc : Nat)
  | go (pa : Nat)
  deriving DecidableEq, Repr

/-- What refuses a command before it starts, or where its destination row lies (R334, R310, R371). -/
def startIred (s : State) (c : HCmd) : IredStart × State :=
  let d := c.cmd
  let len := iredLen d
  let p := c.cont.part
  let va := vaOf (iredDst d)
  if d.extractLsb' 4 4 != 0#4 || d.extractLsb' 13 3 != 0#3 || d.extractLsb' 224 32 != 0#32 || 2 < iredOp d || 8 < iredN d
    || len < 4 || 4096 < len || len % 4 ≠ 0 || iredPitch d % 4 ≠ 0 || iredPitch d < len
    || (iredDst d).toNat % 4 ≠ 0 || (iredSrc d).toNat % 4 ≠ 0 then (.refuse 3, s)
  else match s.xlate p c.cont.acc va true with
  | (.outside, s) | (.readonly, s) => (.refuse 2, s)
  | (.held, s) => (.wait, s)
  | (.ok k, s) =>
    let st := keyStack k
    let pc := 96 * st + pcOfPa (keyPa k)
    if !s.onePage st p va len || !onePc (keyPa k) len || !s.mayWrite c.cont.acc va len then (.refuse 2, s)
    else if pc ≠ c.pc then (.move pc, s)
    else
      let home := vaStack (vaOf (iredSrc d))
      let x := s.xlateAt home p c.cont.acc (vaOf (iredSrc d)) false
      let src := match x.1 with
        | .redirect st' => st'
        | _ => home
      if src ≠ st then (.refuse 2, x.2) else (.go (keyPa k), x.2)
  | (_, s) => (.refuse 1, s)

/-- Up to `n` element accesses of a started command, from access `c.pos` on: first the zeroing, then index after index. -/
def iredRun (s : State) (c : HCmd) (st pa : Nat) : Nat → State × HCmd
  | 0 => (s, c)
  | n + 1 =>
    let d := c.cmd
    let op := iredOp d
    let size := addSize op
    let per := iredLen d / size
    let zeros := if iredZero d then iredLen d / 4 else 0
    let va := vaOf (iredDst d)
    let acc := c.cont.acc
    if c.pos < zeros then
      let s := s.writeAt hearthHart (s.heldKey acc st va pa (4 * c.pos) true) (leBytes 4 0)
      iredRun s { c with pos := c.pos + 1 } st pa n
    else
      let e := (c.pos - zeros) / per
      let k := (c.pos - zeros) % per
      let x := iredIdx d e
      let row := vaOf (iredSrc d) + x * iredPitch d
      if iredN d ≤ e then (s, c)
      else if k = 0 && (x.testBit 31 || iredRows d ≤ x) then
        iredRun s { c with pos := c.pos + per, skipped := c.skipped + 1 } st pa n
      else match s.xlate c.cont.part acc row false with
      | (.ok key, s) =>
        if !s.onePage (keyStack key) c.cont.part row (iredLen d) then
          iredRun s { c with pos := c.pos + (per - k), skipped := c.skipped + 1, fault := true } st pa n
        else
          let src := leNat ((List.range size).map (fun b =>
            s.byteAt (s.heldKey acc (keyStack key) row (keyPa key) (k * size + b) false)))
          let dk := s.heldKey acc st va pa (k * size) true
          let s := s.writeAt hearthHart dk (leBytes size (addElem op (s.readAt dk size) src))
          iredRun s { c with pos := c.pos + 1 } st pa n
      | (.held, s) => (s, c)
      | (_, s) => iredRun s { c with pos := c.pos + (per - k), skipped := c.skipped + 1, fault := true } st pa n
/-- Accesses of a whole command. -/
def iredTotal (c : HCmd) : Nat :=
  (if iredZero c.cmd then iredLen c.cmd / 4 else 0) + iredN c.cmd * (iredLen c.cmd / addSize (iredOp c.cmd))

/-- A command whose destination row meets that of `c` stands before `c` in its stoker's queue, or has started in another one: `c`
waits for it (R335). -/
def State.iredBehind (s : State) (c : HCmd) : Bool :=
  let meets (d : HCmd) : Bool := d.kind == 0 && d.cont.part == c.cont.part &&
    rangesMeet (vaOf (iredDst d.cmd)) (iredLen d.cmd) (vaOf (iredDst c.cmd)) (iredLen c.cmd)
  ((s.hq (pcStoker c.pc)).takeWhile (fun d => d.id != c.id)).any meets ||
  s.hqueue.any (fun q => q.2.any (fun d => d.id != c.id && d.dpa.isSome && meets d))
/-- A command that has not started goes on to the adder of pseudo-channel `pc` (R310, R334): it keeps its place in the queue of
its own stoker, and enters another's behind what has arrived there, once an entry is free (R332). -/
def moveIred (s : State) (c : HCmd) (pc : Nat) : State :=
  let sk := pcStoker c.pc
  if pcStoker pc = sk then s.setHq sk ((s.hq sk).map (fun x => if x.id == c.id then { x with pc := pc } else x))
  else if queueFull s pc then s
  else
    let s := s.setHq sk ((s.hq sk).filter (fun x => x.id != c.id))
    s.setHq (pcStoker pc) (s.hq (pcStoker pc) ++ [{ c with pc := pc }])

/-- IRED_APPLY: the adder of pseudo-channel `cur` goes on with its oldest command, by at most `arg` element accesses (DESIGN
CHOICE, log 25). -/
def execIredApply (s : State) : Result :=
  let sk := pcStoker s.cur
  match (s.hq sk).find? (fun c => c.kind == 0 && c.pc == s.cur) with
  | none => .next s
  | some c =>
    if c.dpa.isNone && s.iredBehind c then .next s
    else match (match c.dpa with
      | some pa => (IredStart.go pa, s)
      | none => startIred s c) with
    | (.wait, s) => .next s
    | (.refuse code, s) => .next (endIred s c 2 code)
    | (.move pc, s) => .next (moveIred s c pc)
    | (.go pa, s) =>
      let r := iredRun s { c with dpa := some pa } (c.pc / 96) pa (s.arg + 1)
      if iredTotal c ≤ r.2.pos then
        .next (endIred r.1 r.2 (if r.2.fault then 3 else 1) (if r.2.fault then 1 else 0))
      else .next (r.1.setHq sk ((r.1.hq sk).map (fun x => if x.id == c.id then r.2 else x)))

/-! ## Hob units (R337 to R342) -/

/-- The oldest hob command or overlay load of a pseudo-channel. -/
def State.nextHob (s : State) (pc : Nat) : Option HCmd := (s.hq (pcStoker pc)).find? (fun c => c.kind != 0 && c.pc == pc)

/-- HOB_COMMAND_RUN: the hob unit of pseudo-channel `cur` takes its next command. -/
def execHobCommandRun (s : State) : Result :=
  let pc := s.cur
  let h := 13824 + pc
  match (if (s.hob pc).cmd.isNone then s.nextHob pc else none) with
  | none => .next s
  | some c =>
    if c.kind ≠ 1 then .next s
    else
      let s := s.setHq (pcStoker pc) ((s.hq (pcStoker pc)).filter (fun x => x.id != c.id))
      if !s.computing pc then .next (putMailbox s hearthHart c.cont.part c.cont.acc c.mbox (2 + 256 * 4) [])
      else
        let r : Regs := (List.range 8).foldl (fun r i =>
          r.setS (BitVec.ofNat 5 (3 + i)) (c.cmd.extractLsb' (64 * i) 64)) { pc := BitVec.ofNat 64 (selEntry c.sel) }
        let s := s.setHob pc { s.hob pc with cmd := some c, executed := 0 }
        .next (s.setThread h { run := .running, regs := r, chunk := { begun := r }, cont := c.cont })

/-- HOB_BUDGET_EXHAUSTED: the command of the hob unit of pseudo-channel `cur` has executed 2^28 heads (R339). -/
def execHobBudgetExhausted (s : State) : Result :=
  if (s.hob s.cur).cmd.isSome && 2 ^ 28 ≤ (s.hob s.cur).executed then hobFault s (13824 + s.cur) 7 else .next s

/-- The answer of HOVL reaches its hart, which goes on. -/
def answerHart (s : State) (h : Hart) (rd : Reg) (code : Nat) : State :=
  let t := s.thread h
  if t.wait = .answer rd then
    ((s.setThread h { t with regs := t.regs.setS rd (BitVec.ofNat 64 code) }).advance h).boundary h
  else s

/-- HOVL_LOAD: the hob unit of pseudo-channel `cur` loads the overlay that heads its queue. -/
def execHovlLoad (s : State) : Result :=
  let pc := s.cur
  match (if (s.hob pc).cmd.isNone then s.nextHob pc else none) with
  | none => .next s
  | some c =>
    if c.kind ≠ 2 then .next s
    else
      let p := c.cont.part
      match s.xlate p c.cont.acc (vaOf c.sel) false with
      | (.held, s) => .next s
      | (x, s) =>
        let s := s.setHq (pcStoker pc) ((s.hq (pcStoker pc)).filter (fun y => y.id != c.id))
        match x with
        | .ok k =>
          let ov := (List.range 4096).foldl (fun o i => Tab.set (0 : Byte) o i (s.byteAt (k + i))) ([] : Tab Byte)
          .next (answerHart (s.setHob pc { s.hob pc with overlay := ov }) c.hart c.rd 0)
        | .outside => .next (answerHart s c.hart c.rd 2)
        | _ => .next (answerHart s c.hart c.rd 1)

/-! ## ROWLD, ROWST and ROWADD (R340) -/

/-- The row of `lines` lines at `s[sb]` and the data at `s[sl]`, checked: the offset and the parts of the row. -/
def rowAccess (s : State) (i : Instr) (sl sb : Reg) (linesm1 : BitVec 7) (write : Bool)
    (f : State → Nat → List (Nat × Nat × Nat) → Result) : Result :=
  let off := (s.rs sl).toNat
  let w := s.rs sb
  let n := 64 * (linesm1.toNat + 1)
  let pc := s.cur - 13824
  if off % 64 ≠ 0 || 8192 < off + n || w.toNat % 64 ≠ 0 || !isVA w then hobFault s s.cur 6
  else match s.xlateRange s.myPart s.myAcc (vaOf w) n write with
  | (.ok l, s) =>
    let k := (l.head?.map Prod.fst).getD 0
    if keyStack k ≠ pc / 96 || pcOfPa (keyPa k) ≠ pc % 96 then hobFault s s.cur 2
    else if !onePc (keyPa k) n || !s.onePage (keyStack k) s.myPart (vaOf w) n then hobFault s s.cur 6
    else if l.any (fun x => s.mustWait s.cur x.1 x.2.2) then s.stalled i
    else f s (hobKey pc off) l
  | (.error .held, s) => s.stalled i
  | (.error .outside, s) | (.error .readonly, s) => hobFault s s.cur 2
  | (.error _, s) => hobFault s s.cur 1

def rowBytesAt (s : State) (l : List (Nat × Nat × Nat)) : List Byte := (l.map (fun x => s.ownBytes s.cur x.1 x.2.2)).flatten

def execRowld (sl sb : Reg) (linesm1 : BitVec 7) (s : State) : Result :=
  rowAccess s (.rowld sl sb linesm1) sl sb linesm1 false (fun s d l =>
    let s' := l.foldl (fun s x => s.noteRead s.cur x.1 x.2.2) s
    (s'.weakStore s.cur d (rowBytesAt s l)).done)
def execRowst (sl sb : Reg) (linesm1 : BitVec 7) (s : State) : Result :=
  rowAccess s (.rowst sl sb linesm1) sl sb linesm1 true (fun s d l =>
    let b := s.ownBytes s.cur d (64 * (linesm1.toNat + 1))
    (l.foldl (fun s x => s.weakStore s.cur x.1 ((b.drop x.2.1).take x.2.2)) s).done)
/-- ROWADD: each element is one read-modify-write access of its own, so the chunk ends first (R340). -/
def execRowadd (sl sb : Reg) (ty : Ty) (linesm1 : BitVec 7) (s : State) : Result :=
  rowAccess s (.rowadd sl sb ty linesm1) sl sb linesm1 true (fun s d l => withChunkEnd s (fun s =>
    let op := if ty.toNat = 1 then 0 else if ty.toNat = 2 then 1 else 2
    let size := addSize op
    let b := s.ownBytes s.cur d (64 * (linesm1.toNat + 1))
    (l.foldl (fun s x => (List.range (x.2.2 / size)).foldl (fun s e =>
      let k := x.1 + e * size
      s.writeAt s.cur k (leBytes size (addElem op (s.readAt k size) (leNat ((b.drop (x.2.1 + e * size)).take size))))) s) s).doneStrong))

end Sys2Proof.Machine
end

