-- ==== Sys2Proof/Machine/Flue.lean ====
section
/-! DEFINITION. The flue (20): timetable images and their test, barriers and rounds, packets and packet reductions, and the
instructions TTLOAD, TTARM, BAR, FSEND, FRECV, MSRED, XORRED and FACC. -/

namespace Sys2Proof.Machine

/-! ## Timetable images (R379 to R381) -/

/-- Fields of a party word (R380). -/
def ptyRemote (w : Word) : Bool := w.getLsbD 0
def ptyDie (w : Word) : Nat := (w.extractLsb' 1 2).toNat
def ptyCluster (w : Word) : Nat := (w.extractLsb' 3 7).toNat
def ptyPeer (w : Word) : Nat := (w.extractLsb' 16 12).toNat
def ptyFirst (w : Word) : Nat := (w.extractLsb' 32 16).toNat
def ptyCount (w : Word) : Nat := (w.extractLsb' 48 16).toNat
/-- The slot an on-device party is: 2 * core + slot, cores 0 to 3071. -/
def ptyId (w : Word) : Nat :=
  2 * ((ptyDie w * 96 + ptyCluster w) * 8 + (w.extractLsb' 10 3).toNat) + (w.extractLsb' 13 1).toNat

/-- Fields of an entry (R381). -/
def entOff (w : Word) : Nat := (w.extractLsb' 0 16).toNat
def entOp (w : Word) : Nat := (w.extractLsb' 16 4).toNat
def entLine (w : Word) : Nat := (w.extractLsb' 20 13).toNat
def entAcc (w : Word) : Bool := w.getLsbD 33
def entPeer (w : Word) : Nat := (w.extractLsb' 34 6).toNat
def entLines (w : Word) : Nat := (w.extractLsb' 40 7).toNat + 1
def entTile (w : Word) : Nat := (w.extractLsb' 47 3).toNat
def entRow (w : Word) : Nat := (w.extractLsb' 50 7).toNat
def entChunk (w : Word) : Nat := (w.extractLsb' 57 3).toNat

def Image.party (m : Image) (p : Nat) : Word := (m.parties[p]?).getD 0
def Image.entry (m : Image) (e : Nat) : Word := (m.entries[e]?).getD 0
/-- The entries of a party, by index in the image, in the order of its list. -/
def Image.listOf (m : Image) (p : Nat) : List Nat :=
  (List.range (ptyCount (m.party p))).map (fun k => ptyFirst (m.party p) + k)
/-- The party that has an entry in its list. -/
def Image.owner (m : Image) (e : Nat) : Nat :=
  m.parties.findIdx (fun w => ptyFirst w ≤ e && e < ptyFirst w + ptyCount w)
/-- The index of the party that is slot `id` of this device. -/
def Image.selfOf (m : Image) (id : Nat) : Nat := m.parties.findIdx (fun w => !ptyRemote w && ptyId w == id)
/-- The parties on this device: the barrier domain (R378). -/
def Image.onDevice (m : Image) : List Nat := (List.range m.parties.length).filter (fun p => !ptyRemote (m.party p))
def Image.sends (m : Image) (p q : Nat) : List Nat :=
  (m.listOf p).filter (fun e => entOp (m.entry e) == 0 && entPeer (m.entry e) == q)
def Image.recvs (m : Image) (q p : Nat) : List Nat :=
  (m.listOf q).filter (fun e => entOp (m.entry e) != 0 && entPeer (m.entry e) == p)
/-- The receive entry that a SEND entry is matched with (R382). -/
def Image.matchOf (m : Image) (e : Nat) : Option Nat :=
  let p := m.owner e
  let q := entPeer (m.entry e)
  (m.recvs q p)[(m.sends p q).findIdx (fun x => x == e)]?

/-! ## What TTLOAD checks (R382 to R384) -/

/-- The links of a message on a die: along its row first, then along its column (R383), each by the clusters it joins. -/
def meshPath (a b : Nat) : List (Nat × Nat) :=
  let (x0, y0) := (a % 12, a / 12)
  let (x1, y1) := (b % 12, b / 12)
  let row := (List.range (max x0 x1 - min x0 x1)).map (fun k =>
    if x0 < x1 then (12 * y0 + x0 + k, 12 * y0 + x0 + k + 1) else (12 * y0 + x0 - k, 12 * y0 + x0 - k - 1))
  let col := (List.range (max y0 y1 - min y0 y1)).map (fun k =>
    if y0 < y1 then (12 * (y0 + k) + x1, 12 * (y0 + k + 1) + x1) else (12 * (y0 - k) + x1, 12 * (y0 - k - 1) + x1))
  row ++ col
/-- The die edges from die `a` to die `b`: along the column first (R8), also where the die at the corner belongs to another partition,
whose edges R25 keeps for queue and management traffic (DESIGN CHOICE, log 27). -/
def diePath (a b : Nat) : List (Nat × Nat) :=
  if a = b then []
  else if a % 2 ≠ b % 2 && a / 2 ≠ b / 2 then [(a, b / 2 * 2 + a % 2), (b / 2 * 2 + a % 2, b)]
  else [(a, b)]
/-- Latency of the path between two on-device parties (R382) (DEDUCED, log 27). -/
def pathLatency (a b : Word) : Nat :=
  if ptyDie a = ptyDie b then
    (if ptyCluster a = ptyCluster b then 4 else 4 + 2 * (meshPath (ptyCluster a) (ptyCluster b)).length)
  else 56 * (diePath (ptyDie a) (ptyDie b)).length

/-- An entry on its own: reserved bits, operation, space, peer and lengths (R381, R384). -/
def entryOk (m : Image) (w : Word) : Bool :=
  (w.extractLsb' 60 4 == 0#4) && entOp w ≤ 4 && (!entAcc w || entOp w == 0) && entPeer w < m.parties.length &&
  (entOp w == 4 || w.extractLsb' 47 13 == 0#13) && (entOp w != 2 || entLines w % 3 == 0)
/-- A party word on its own; `here` are the dies of the partition (R25, R380) (DEDUCED, log 27). -/
def partyOk (here : Nat → Bool) (w : Word) : Bool :=
  (w.extractLsb' 14 2 == 0#2) && (w.extractLsb' 28 4 == 0#4) && ptyCluster w < 96 && ptyCount w ≤ 256 &&
  (if ptyRemote w then ptyPeer w != 0 else ptyPeer w == 0 && here (ptyDie w))
/-- The list of a party: within the image, rising offsets, no entry that names the party itself. -/
def listOk (m : Image) (p : Nat) : Bool :=
  let l := m.listOf p
  l.all (fun e => e < m.entries.length && entPeer (m.entry e) != p) &&
  (l.zip (l.drop 1)).all (fun x => entOff (m.entry x.1) < entOff (m.entry x.2))
def rangesApart (m : Image) : Bool :=
  (List.range m.parties.length).all (fun p => (List.range m.parties.length).all (fun q =>
    p == q || !rangesMeet (ptyFirst (m.party p)) (ptyCount (m.party p)) (ptyFirst (m.party q)) (ptyCount (m.party q))))
/-- Everything in R384 but the match, the collisions and the loading slot. -/
def wellTimed (here : Nat → Bool) (m : Image) : Bool :=
  !ptyRemote (m.party 0) && m.parties.all (partyOk here) && m.entries.all (entryOk m) &&
  (List.range m.parties.length).all (listOk m) && rangesApart m

/-- What a SEND entry occupies between two on-device parties: mesh links or die edges, each with its first cycle (R383). The k-th
edge of a path is entered 56 cycles after the one before it. -/
def occupies (m : Image) (e : Nat) : List ((Bool × Nat × Nat × Nat) × Nat) :=
  let w := m.entry e
  let p := m.party (m.owner e)
  let q := m.party (entPeer w)
  if m.parties.length ≤ m.owner e || entOp w ≠ 0 || ptyRemote p || ptyRemote q then []
  else if ptyDie p = ptyDie q then
    ((meshPath (ptyCluster p) (ptyCluster q)).zipIdx).map (fun x => ((true, ptyDie p, x.1.1, x.1.2), entOff w + 2 * x.2))
  else ((diePath (ptyDie p) (ptyDie q)).zipIdx).map (fun x => ((false, 0, x.1.1, x.1.2), entOff w + 56 * x.2))

/-- Two entries use one mesh link direction in one cycle, or one port (R383). -/
def clash (m : Image) (e f : Nat) : Bool :=
  let le := entLines (m.entry e)
  let lf := entLines (m.entry f)
  (m.owner e == m.owner f && m.owner e < m.parties.length && rangesMeet (entOff (m.entry e)) le (entOff (m.entry f)) lf) ||
  (occupies m e).any (fun x => x.1.1 && (occupies m f).any (fun y => x.1 == y.1 && rangesMeet x.2 le y.2 lf))
/-- Lines on an edge direction in a cycle. -/
def edgeLoad (m : Image) (edge : Bool × Nat × Nat × Nat) (c : Nat) : Nat :=
  ((List.range m.entries.length).filter (fun f => (occupies m f).any (fun y =>
    y.1 == edge && y.2 ≤ c && c < y.2 + entLines (m.entry f)))).length
/-- An entry takes part in a collision. -/
def collides (m : Image) (e : Nat) : Bool :=
  (List.range m.entries.length).any (fun f => e != f && clash m e f) ||
  (occupies m e).any (fun x => !x.1.1 && (List.range (entLines (m.entry e))).any (fun k => 128 < edgeLoad m x.1 (x.2 + k)))

/-- An entry breaks the match of R382: without a partner, or a receive of another length or before its message can be there. -/
def mismatched (m : Image) (e : Nat) : Bool :=
  let w := m.entry e
  let p := m.owner e
  let q := entPeer w
  if m.parties.length ≤ p || ptyRemote (m.party p) || ptyRemote (m.party q) then false
  else if entOp w = 0 then (m.matchOf e).isNone
  else match (m.sends q p)[(m.recvs p q).findIdx (fun x => x == e)]? with
    | none => true
    | some f => entLines (m.entry f) != entLines w || entOff w < entOff (m.entry f) + pathLatency (m.party q) (m.party p)

/-- The value of TTLOAD for a whole image and slot `id`: 0, or a code with the first offending entry (R394) (DEDUCED, log 27). -/
def imageCode (here : Nat → Bool) (m : Image) (id : Nat) : Nat :=
  let all := List.range m.entries.length
  if !wellTimed here m then 1
  else if (m.parties.filter (fun w => !ptyRemote w && ptyId w == id)).length ≠ 1 then 2
  else match all.find? (collides m) with
    | some e => 3 + 2 ^ 16 * e
    | none => match all.find? (mismatched m) with
      | some e => 4 + 2 ^ 16 * e
      | none => 0

/-! ## Peers (R419, R426) -/

/-- An entry of the peer table is valid (R426). -/
def State.peerOk (s : State) (p ep : Nat) : Bool := (Tab.get 0 (s.part p).peers ep).getLsbD 0
/-- A peer-table entry names a partition by its job identifier, its PIDonFEP and the address of its fabric endpoint. -/
def peerNames (e : BitVec 256) (jobid : BitVec 24) (pid : BitVec 12) (fep : BitVec 128) : Bool :=
  e.extractLsb' 16 24 == jobid && e.extractLsb' 40 12 == pid && e.extractLsb' 64 128 == fep
/-- The lowest valid entry of the target partition that names the source of a packet. -/
def State.sourceOf (s : State) (x : PeerSrc) : Option Nat :=
  ((s.part x.part).peers.find? (fun e => e.2.getLsbD 0 && peerNames e.2 x.jobid x.pid x.fep)).map Prod.fst

/-- What a partition and its endpoint are assigned (R419), and the addresses of its ports: those of its own dies (R16, R25). -/
def State.endpoint (s : State) (p : Nat) : Endpoint := (s.ctrl.endpoints[p]?).getD {}
def State.portsOf (s : State) (p : Nat) : List (BitVec 128) :=
  (s.ctrl.ports.zipIdx).filterMap (fun x => if s.dieIn p (x.2 / 4) then some x.1 else none)
/-- The partition of this module that a peer endpoint of partition `p` names, with the source as that partition sees it: the sender
leaves through the port that the other's table names, or its lowest (DESIGN CHOICE, log 53). -/
def State.localPeer (s : State) (p ep : Nat) : Option PeerSrc :=
  let e := Tab.get 0 (s.part p).peers ep
  let me := s.endpoint p
  let reached (q : Nat) : Bool :=
    let x := s.endpoint q
    x.pid != 0 && (s.portsOf q).any (fun a => peerNames e x.jobid x.pid a)
  ((List.range s.ctrl.layout.length).find? reached).map (fun q =>
    let known (a : BitVec 128) : Bool := (s.part q).peers.any (fun x => x.2.getLsbD 0 && peerNames x.2 me.jobid me.pid a)
    { part := q, jobid := me.jobid, pid := me.pid, fep := ((s.portsOf p).find? known).getD ((s.portsOf p).head?.getD 0) })

/-! ## Slots, barriers and rounds (R386, R387) -/

/-- Timetable slot `p` of the module: slot p % 2 of core p / 2. -/
def State.port (s : State) (p : Nat) : Slot := s.slot (p / 2) (p % 2)
def State.setPort (s : State) (p : Nat) (x : Slot) : State := s.setSlot (p / 2) (p % 2) x
def portCl (p : Nat) : Nat := p / 16
/-- The hart number under which a flue port accesses memory. -/
def portHart : Hart := 16387

/-- Round `a` counts as later than round `b` (R387). -/
def laterRound (a b : BitVec 16) : Bool := 0 < (a - b).toInt

def State.notify (s : State) (p : Nat) (n : Notice) : State :=
  s.setPort p { s.port p with notices := (s.port p).notices ++ [n] }

/-- An arrival at its home: answered void, counted, or held (R387). -/
def arriveHome (s : State) (home party : Nat) (round : BitVec 16) : State :=
  let x := s.port home
  let hold := s.setPort home { x with held := x.held ++ [(party, round)] }
  match x.img with
  | none => hold
  | some m =>
    if (match x.lastr with
      | some l => !laterRound round l
      | none => false) then
      s.notify (ptyId (m.party party)) { round := round, t := 0, voids := [], void := true }
    else if x.rounds.any (fun r => laterRound round r.round) then hold
    else if x.rounds.any (fun r => r.round == round) then
      let add (r : Arriving) : Arriving := if r.round == round then { r with parties := party :: r.parties } else r
      s.setPort home { x with rounds := x.rounds.map add }
    else s.setPort home { x with rounds := x.rounds ++ [{ round := round, first := s.now, parties := [party] }] }

/-- The home decides a round: T and the void parties go to every on-device party. -/
def decideRound (s : State) (home : Nat) (m : Image) (r : Arriving) : State :=
  let voids := m.onDevice.filter (fun p => !r.parties.contains p)
  let x := s.port home
  let s := s.setPort home { x with rounds := x.rounds.filter (fun q => q.round != r.round), lastr := some r.round }
  m.onDevice.foldl (fun s p => s.notify (ptyId (m.party p))
    { round := r.round, t := s.now + 64, voids := voids, void := voids.contains p }) s

/-- Whether a round is ready to be decided: every on-device party has arrived, or the barrier wait is over. -/
def roundReady (m : Image) (now : Nat) (r : Arriving) : Bool :=
  m.onDevice.all (fun p => r.parties.contains p) || r.first + m.dwait ≤ now

/-- Decide what is ready and take up the arrivals held, `n` times over. -/
def settle (s : State) (home : Nat) : Nat → State
  | 0 => s
  | n + 1 =>
    match (s.port home).img with
    | none => s
    | some m =>
      let s := ((s.port home).rounds.filter (roundReady m s.now)).foldl (fun s r => decideRound s home m r) s
      let held := (s.port home).held
      settle (held.foldl (fun s a => arriveHome s home a.1 a.2) (s.setPort home { s.port home with held := [] })) home n
def State.settleHome (s : State) (home : Nat) : State := settle s home ((s.port home).held.length + 2)

/-- BARRIER_ARRIVAL: fabric item `cur` reaches the home. -/
def execBarrierArrival (s : State) : Result :=
  match s.msg s.cur with
  | none => .next s
  | some m => match m.item with
    | .arrival home party round => .next ((arriveHome (s.dropMsg m.id) home party round).settleHome home)
    | _ => .next s

/-- BARRIER_DEADLINE: home slot `cur` decides every round whose wait is over. -/
def execBarrierDeadline (s : State) : Result := .next (s.settleHome s.cur)

/-- The value of BAR returns to the thread that waits for it. -/
def wakeBar (s : State) (p : Nat) (w : Word) : State :=
  (List.range 4).foldl (fun s ts =>
    let h := p / 2 * 4 + ts
    let t := s.thread h
    match t.wait with
    | .bar rd k => if k = p % 2 then ((s.setThread h { t with regs := t.regs.setS rd w }).advance h).boundary h else s
    | _ => s) s

/-- RELEASE_NOTICE: the notice of the round that party `cur` waits for; BAR has left it none from before (R387). -/
def execReleaseNotice (s : State) : Result :=
  let p := s.cur
  let x := s.port p
  if x.st ≠ .waiting then .next s
  else match x.notices.find? (fun n => n.round == x.round) with
  | none => .next s
  | some n =>
    let x' : Slot := { x with st := .running, t := n.t, void := n.void, voidSet := n.voids, next := 0, line := 0, buf := []
                              ident := false, mark := false, notices := [], doneAt := 0 }
    .next (wakeBar (s.setPort p x') p (if n.void then BitVec.allOnes 64 else BitVec.ofNat 64 n.t))

/-! ## Entries (R388 to R390) -/

/-- The entry a running party performs next, with its position in the list: a void party has only its SEND entries. -/
def Slot.entry (x : Slot) (p : Nat) : Option (Nat × Nat × Word) :=
  match x.img with
  | none => none
  | some m => ((((m.listOf (m.selfOf p)).zipIdx).drop x.next).find? (fun e => !x.void || entOp (m.entry e.1) == 0)).map
      (fun e => (e.1, e.2, m.entry e.1))

/-- A line of an accumulator file; past its end the manual gives no value (log 14). -/
def State.accLine (s : State) (cl l : Nat) : Vec :=
  if l < 8192 then bytesVec (s.bytesAt (accKey cl (64 * l)) 64)
  else bytesVec ((List.range 64).map (fun i => Config.freeByte ((s.fresh + s.now) * 2 ^ 44 + 64 * l + i)))

/-- The lines of an MS message as it is folded: every element of a spoiled one counts as n = 0 (R388). -/
def foldLines (spoiled : Bool) (lines : List Vec) : List Vec :=
  if spoiled then (lines.zipIdx).map (fun x => if x.2 % 3 = 0 then 0 else x.1) else lines

/-- A message of round `round` late for receive entry `e` of slot `p` (R389, R390): held behind what the carry buffer holds, or
dropped (DEDUCED, log 27). -/
def lateAt (s : State) (p e : Nat) (round : BitVec 16) (spoiled : Bool) (lines : List Vec) : State :=
  let s := s.countCl (portCl p) cLateMsg 1
  let x := s.port p
  let ms := (x.img.map (fun m => entOp (m.entry e) == 2)).getD false
  if ms && x.late then
    let over' := x.round == round && (x.st == .loaded || x.st == .empty)
    let c : Carried := { round := if over' then none else some round, lines := foldLines spoiled lines, spoiled := spoiled }
    s.setPort p { x with carry := Tab.set [] x.carry e (Tab.get [] x.carry e ++ [c]) }
  else s

/-- The message of a SEND entry leaves (R388, R389, R426). -/
def sendMessage (s : State) (p : Nat) (x : Slot) (m : Image) (e : Nat) (spoiled : Bool) (lines : List Vec) : State :=
  let q := entPeer (m.entry e)
  let w := m.party q
  if ptyRemote w then
    let from' := s.partOfDie (portCl p / 96)
    let g : RMsg := { round := x.round, entry := e, spoiled := spoiled, lines := lines }
    let s : State := { s with outbox := s.outbox ++ [.round from' (ptyPeer w) (ptyId w / 2) (ptyId w % 2) g] }
    match s.localPeer from' (ptyPeer w) with
    | none => s
    | some src => { s with net := s.net ++ [{ id := s.fresh, hart := portHart, part := src.part
                                              item := .peerRound src (ptyId w / 2) (ptyId w % 2) g }], fresh := s.fresh + 1 }
  else match m.matchOf e with
    | none => s
    | some f =>
      if x.void then
        { s with net := s.net ++ [{ id := s.fresh, hart := portHart, part := s.partOfDie (portCl p / 96)
                                    item := .late (ptyId w) f x.round spoiled lines }], fresh := s.fresh + 1 }
      else if x.voidSet.contains q then s
      else
        let y := s.port (ptyId w)
        s.setPort (ptyId w) { y with msgs := y.msgs ++ [{ round := x.round, entry := f, spoiled := spoiled, lines := lines }] }

/-- The entry at position `pos` is done, its last line in cycle `last`. -/
def Slot.finish (x : Slot) (pos last : Nat) : Slot :=
  { x with next := pos + 1, line := 0, buf := [], ident := false, mark := false, doneAt := max x.doneAt last }
def stop255 (n : Nat) : Nat := if n < 255 then n + 1 else 255

/-- The party performs an entry of operation `op` now, and its cycle has come. -/
def State.turnOf (s : State) (p op : Nat) : Option (Image × Nat × Nat × Word) :=
  let x := s.port p
  if x.st ≠ .running then none
  else match x.img, x.entry p with
  | some m, some (e, pos, w) =>
    if entOp w = op && (x.void || x.t + entOff w + x.line ≤ s.now) then some (m, e, pos, w) else none
  | _, _ => none

/-- TT_SEND: party `cur` reads the next line of its SEND entry, from its window or from its cluster's accumulator file; with the
last line the message leaves. A line that a copy still fills keeps the port waiting (R82, R85). -/
def execTtSend (s : State) : Result :=
  let p := s.cur
  match s.turnOf p 0 with
  | none => .next s
  | some (m, e, pos, w) =>
    let x := s.port p
    let l := entLine w + x.line
    let mark := x.mark || (entAcc w && l < 8192 && ((s.cluster (portCl p)).tile (l / 1024)).spoiled)
    let buf := x.buf ++ [if entAcc w then s.accLine (portCl p) l else bytesVec (s.bytesAt (x.wbase + 64 * l) 64)]
    if !entAcc w && s.guarded (x.wbase + 64 * l) 64 then .next s
    else if x.line + 1 < entLines w then .next (s.setPort p { x with line := x.line + 1, buf := buf, mark := mark })
    else .next (sendMessage (s.setPort p (x.finish pos s.now)) p x m e mark buf)

/-- The data of a receive entry, fixed at its first access (R388, R390): what is held from other rounds, then what was received. An
on-device message is waited for; `none` is that wait. -/
def takeData (s : State) (p : Nat) (m : Image) (e : Nat) (w : Word) : Option State :=
  let x := s.port p
  if x.line ≠ 0 then some s
  else
    let q := entPeer w
    let found := x.msgs.find? (fun r => r.round == x.round && r.entry == e)
    if found.isNone && !ptyRemote (m.party q) && !x.voidSet.contains q then none
    else
      let held := Tab.get [] x.carry e
      let now' (c : Carried) : Bool := c.round != some x.round
      let old := held.filter now'
      let spoiled := (found.map RMsg.spoiled).getD false || old.any Carried.spoiled
      let got := found.map (fun r => if entOp w = 2 then foldLines r.spoiled r.lines else r.lines)
      let parts := old.map Carried.lines ++ got.toList
      let x' : Slot := { x with
        buf := (parts.drop 1).foldl mergeLines (parts.head?.getD []), ident := parts.isEmpty
        msgs := x.msgs.filter (fun r => !(r.round == x.round && r.entry == e))
        carry := Tab.set [] x.carry e (held.filter (fun c => !now' c)), carried := x.carried || !old.isEmpty
        voidrx := if parts.isEmpty then stop255 x.voidrx else x.voidrx
        spoilrx := if spoiled then stop255 x.spoilrx else x.spoilrx }
      some ((if spoiled then s.countCl (portCl p) cSpoiledContrib 1 else s).setPort p x')

/-- One access of a receive entry that takes `step` lines: `f` applies them at the window key, which waits for a copy that still
fills it (R82, R85). -/
def receive (s : State) (op step : Nat) (f : State → Nat → List Vec → State) : Result :=
  let p := s.cur
  match s.turnOf p op with
  | none => .next s
  | some (m, e, pos, w) =>
    if s.guarded ((s.port p).wbase + 64 * (entLine w + (s.port p).line)) (64 * step) then .next s
    else match takeData s p m e w with
    | none => .next s
    | some s =>
      let x := s.port p
      let l := (x.buf.drop x.line).take step
      let s := if x.ident || l.length < step then s else f s (x.wbase + 64 * (entLine w + x.line)) l
      if x.line + step < entLines w then .next (s.setPort p { s.port p with line := x.line + step })
      else .next (s.setPort p ((s.port p).finish pos (x.t + entOff w + entLines w - 1)))

/-- TT_COPY: party `cur` writes the next line of its COPY entry to its window. -/
def execTtCopy (s : State) : Result := receive s 1 1 (fun s k l => s.writeAt portHart k (vecBytes (l.head?.getD 0) 0 64))
/-- TT_MS: party `cur` merges the next 3-line group of its MS entry into its window as one access (R392). -/
def execTtMs (s : State) : Result := receive s 2 3 (fun s k l => (reduceStep s portHart 5 k 0 none l).1)
/-- TT_XOR: party `cur` combines the next line of its XOR entry with its window. -/
def execTtXor (s : State) : Result := receive s 3 1 (fun s k l => (reduceStep s portHart 6 k 0 none l).1)
/-- TT_ACC: party `cur` delivers the next line of its ACC entry to the tile as one addend packet; identity is an empty packet. -/
def execTtAcc (s : State) : Result :=
  let p := s.cur
  match s.turnOf p 4 with
  | none => .next s
  | some (m, e, pos, w) =>
    match takeData s p m e w with
    | none => .next s
    | some s =>
      let x := s.port p
      let wide := ((s.cluster (portCl p)).tile (entTile w)).f64
      let at' := addendPos wide (entRow w) (entChunk w * (if wide then 8 else 16)) x.line
      let a : Addend := { tile := entTile w, round := x.round, row := at'.1, col := at'.2, data := (x.buf[x.line]?).getD 0
                          ident := x.ident || x.buf.length ≤ x.line, ci := none }
      let s := arriveAddend s (portCl p) a
      if x.line + 1 < entLines w then .next (s.setPort p { s.port p with line := x.line + 1 })
      else .next (s.setPort p ((s.port p).finish pos (x.t + entOff w + entLines w - 1)))

/-- LATE_MESSAGE: fabric item `cur`, from a void party, reaches its receiver. -/
def execLateMessage (s : State) : Result :=
  match s.msg s.cur with
  | none => .next s
  | some m => match m.item with
    | .late p e round spoiled lines => .next (lateAt (s.dropMsg m.id) p e round spoiled lines)
    | _ => .next s

/-- Bits [191:128] of a round descriptor at completion (R385). -/
def roundStatus (x : Slot) : Nat :=
  (if x.void then 2 else 1) + 4 * x.voidrx + 2 ^ 10 * x.spoilrx + (if x.carried then 2 ^ 18 else 0)
    + 2 ^ 32 * (if x.void then 2 ^ 32 - 1 else x.t % 2 ^ 32)

/-- A slot whose round is over: its data that no entry took is gone, what it holds may be used in any round to come, and its counter
is due eight cycles after the last line (R390, R391). -/
def Slot.endRound (x : Slot) : Slot :=
  let free (c : Carried) : Carried := if c.round = some x.round then { c with round := none } else c
  { x with st := .loaded, ran := if x.ran.contains x.round then x.ran else x.round :: x.ran
           msgs := x.msgs.filter (fun r => r.round != x.round), carry := x.carry.map (fun c => (c.1, c.2.map free))
           rises := x.rises ++ [((if x.void then x.doneAt else max x.doneAt x.t) + 8, x.ci)] }

/-- ROUND_COMPLETE: once the last entry of its round has been performed, party `cur` writes STATUS, weakly, and leaves RUNNING; eight
cycles after its last line it raises CI (R386, R391). STATUS waits while a copy has yet to fill its bytes (R85). -/
def execRoundComplete (s : State) : Result :=
  let p := s.cur
  let x := s.port p
  if x.st = .running && (x.entry p).isNone && (x.void || x.t ≤ s.now) then
    if s.guarded (x.desc + 16) 8 then .next s
    else
      let s := s.writeAt portHart (x.desc + 16) (leBytes 8 (roundStatus x))
      .next (s.setPort p (s.port p).endRound)
  else match x.rises with
  | (due, ci) :: r => if due ≤ s.now then .next (notifyUp (s.setPort p { x with rises := r }) (portCl p) ci.toNat) else .next s
  | [] => .next s

/-! ## TTLOAD, TTARM and BAR (R394) -/

/-- `n` bytes at a word lie in the scratchpad of a core. -/
def ownSpad (core : Nat) (w : Word) (n : Nat) : Bool :=
  isOA w && oaCluster w.toNat < 96 && oaRegion w.toNat < 8 && oaCore w.toNat == core && oaOff w.toNat + n ≤ spadSize
/-- Words of memory as the hart sees them. -/
def ownWords (s : State) (k n : Nat) : List Word :=
  (List.range n).map (fun i => BitVec.ofNat 64 (leNat (s.ownBytes s.cur (k + 8 * i) 8)))

/-- A new series of rounds begins at its home: the on-device parties have run none of it (R387, log 27). -/
def beginSeries (s : State) (m : Image) : State :=
  m.onDevice.foldl (fun s q => let id := ptyId (m.party q)
    s.setPort id { s.port id with ran := [] }) s
/-- A slot takes an accepted image: carries are discarded and counted, the home starts afresh (R386, R387). -/
def acceptImage (s : State) (p : Nat) (m : Image) : State :=
  let x := s.port p
  let s := if x.carry.isEmpty then s else s.countCl (portCl p) cLateDropped x.carry.length
  let s := s.setPort p { st := .loaded, img := some m, held := x.held, rounds := x.rounds, rises := x.rises }
  (if ptyId (m.party 0) = p then beginSeries s m else s).settleHome p

/-- TTLOAD (R394), by the state of the slot as R386 has it (DEDUCED, log 27). -/
def execTtload (rd sa slot : Reg) (s : State) : Result :=
  let i := Instr.ttload rd sa slot
  let a := s.rs sa
  let core := hartCore s.cur
  let p := 2 * core + slot.toNat
  let fin (code : Nat) : Result := withChunkEnd s (fun s => (s.ws rd (BitVec.ofNat 64 code)).doneStrong)
  if a.toNat % 64 ≠ 0 then misalign s a
  else if !ownSpad core a 64 then addressTrap s .window a
  else if (s.port p).st = .waiting || (s.port p).st = .running then fin 5
  else if s.held s.cur a.toNat 64 then s.stalled i
  else
    let busy := (s.port p).st = .armed
    let h : Vec := bytesVec (s.ownBytes s.cur a.toNat 64)
    let np := (h.extractLsb' 0 8).toNat
    let ne := (h.extractLsb' 16 16).toNat
    let size := 64 + 8 * np + 8 * ne
    if np = 0 || 64 < np || ne = 0 || 4096 < ne || (h.extractLsb' 32 32).toNat < 64 || h.extractLsb' 8 8 ≠ 0#8
      || h.extractLsb' 64 448 ≠ 0#448 then fin (if busy then 5 else 1)
    else if !ownSpad core a size then addressTrap s .window a
    else if s.held s.cur a.toNat size then s.stalled i
    else
      let m : Image := { dwait := (h.extractLsb' 32 32).toNat, parties := ownWords s (a.toNat + 64) np
                         entries := ownWords s (a.toNat + 64 + 8 * np) ne }
      let code := imageCode (s.dieIn s.myPart) m p
      if code ≠ 0 then fin (if busy then 5 else code)
      else withChunkEnd s (fun s => ((acceptImage s p m).ws rd 0).doneStrong)

/-- The window lines that a party's entries name lie in one scratchpad of the cluster. -/
def windowOk (cl : Nat) (m : Image) (p : Nat) (wbase : Word) : Bool :=
  (m.listOf (m.selfOf p)).all (fun e =>
    let w := m.entry e
    entAcc w || entOp w == 4 || inClusterSpad cl wbase (64 * (entLine w + entLines w)))

/-- TTARM (R394): the descriptor is checked and the slot armed for a round. Of the rounds it has run it keeps those that the round
is later than: a number run in an earlier lap or series is a round to come (DEDUCED, log 27). -/
def execTtarm (sd slot : Reg) (s : State) : Result :=
  let d := s.rs sd
  let core := hartCore s.cur
  let p := 2 * core + slot.toNat
  match (s.port p).img with
  | none => illegal s
  | some m =>
    if d.toNat % 32 ≠ 0 then misalign s d
    else if !ownSpad core d 32 then addressTrap s .window d
    else if (s.port p).st = .waiting || (s.port p).st = .running then s.stalled (.ttarm sd slot)
    else if s.held s.cur d.toNat 32 then s.stalled (.ttarm sd slot)
    else
      let b : BitVec 256 := BitVec.ofNat 256 (leNat (s.ownBytes s.cur d.toNat 32))
      let wbase := b.extractLsb' 64 64
      if b.extractLsb' 17 7 ≠ 0#7 || b.extractLsb' 32 32 ≠ 0#32 || b.extractLsb' 147 13 ≠ 0#13 || b.extractLsb' 192 64 ≠ 0#64 then
        illegal s
      else if wbase.toNat % 64 ≠ 0 then misalign s wbase
      else if !windowOk (hartCl s.cur) m p wbase then addressTrap s .window wbase
      else withChunkEnd s (fun s =>
        let x : Slot := { s.port p with st := .armed, desc := d.toNat, round := b.extractLsb' 0 16, late := b.getLsbD 16
                                        ci := b.extractLsb' 24 8, wbase := wbase.toNat, voidrx := 0, spoilrx := 0, carried := false
                                        ran := (s.port p).ran.filter (laterRound (b.extractLsb' 0 16)) }
        ((s.setPort p x).writeAt portHart (d.toNat + 16) [(s.byteAt (d.toNat + 16)) &&& 0xFC]).doneStrong)

def execBar (rd slot : Reg) (s : State) : Result :=
  let p := 2 * hartCore s.cur + slot.toNat
  match (s.port p).st, (s.port p).img with
  | .armed, some m => withRelease s (fun s =>
    let x := s.port p
    let s := (s.setPort p { x with st := .waiting, notices := [] }).pushMsg s.cur (.arrival (ptyId (m.party 0)) (m.selfOf p) x.round)
    .next ((s.setMe { s.me with wait := .bar rd slot.toNat }).boundary s.cur))
  | _, _ => illegal s

/-! ## Packets (R395 to R398, R426) -/

/-- A packet for a peer endpoint leaves through a port of the sending partition; one for another partition of this module comes
back in over the fabric outside (R426). -/
def State.sendPeer (s : State) (ep kind : Nat) (w pw : Word) (lines : List Vec) : State :=
  let s : State := { s with outbox := s.outbox ++ [.packet s.myPart ep kind w pw lines] }
  match s.localPeer s.myPart ep with
  | none => s
  | some src => s.pushMsg s.cur (.peer { src := src, kind := kind, word := w, peerWord := pw, lines := lines })
/-- Lines of memory as the hart sees them. -/
def ownLines (s : State) (k n : Nat) : List Vec := (List.range n).map (fun i => bytesVec (s.ownBytes s.cur (k + 64 * i) 64))

/-- Destination word of FSEND (R395). -/
def fsendDie (w : Word) : Nat := (w.extractLsb' 12 2).toNat
def fsendCluster (w : Word) : Nat := (w.extractLsb' 14 7).toNat
def fsendCore (w : Word) : Nat := (fsendDie w * 96 + fsendCluster w) * 8 + (w.extractLsb' 21 3).toNat
def fsendCh (w : Word) : Nat := (w.extractLsb' 24 4).toNat
/-- Header word of a packet (R396): payload lines, source endpoint, source core (0 to 3071, for endpoint 0) and tag. -/
def headerWord (n ep core : Nat) (tag : BitVec 16) : Word :=
  BitVec.ofNat 64 (n + ep * 2 ^ 8 + (if ep = 0 then core / 768 * 2 ^ 20 + core / 8 % 96 * 2 ^ 22 + core % 8 * 2 ^ 29 else 0)
    + tag.toNat * 2 ^ 32)

def execFsend (sa sh sn : Reg) (scope : BitVec 3) (s : State) : Result :=
  let a := s.rs sa
  let w := s.rs sh
  let n := (s.rs sn).toNat
  let ep := w.toNat % 2 ^ 12
  if n = 0 || 15 < n || w.extractLsb' 28 4 ≠ 0#4 || w.extractLsb' 48 16 ≠ 0#16 then illegal s
  else if a.toNat % 64 ≠ 0 then misalign s a
  else if !inClusterSpad (hartCl s.cur) a (64 * n) then addressTrap s .window a
  else if ep ≠ 0 && !s.peerOk s.myPart ep then takeTrap s .window 0 0
  else if ep = 0 && (96 ≤ fsendCluster w || !s.dieIn s.myPart (fsendDie w)) then takeTrap s .window 0 0
  else if s.held s.cur a.toNat (64 * n) then s.stalled (.fsend sa sh sn scope)
  else withRelease s (fun s =>
    let lines := ownLines s a.toNat n
    if ep ≠ 0 then (s.sendPeer ep 3 w 0 lines).doneStrong
    else
      (s.pushMsg s.cur (.packet (fsendCore w) (fsendCh w) (headerWord n 0 (hartCore s.cur) (w.extractLsb' 32 16)) lines)).doneStrong)

/-- FRECV (R396): entries that another open chunk of the core has popped stay with it. -/
def execFrecv (rd ch : Reg) (s : State) : Result :=
  withChunkEnd s (fun s =>
    match nextEntry s.cur 0 ((s.core (hartCore s.cur)).arrivals ch.toNat) with
    | none => s.stalled (.frecv rd ch)
    | some e =>
      match e.kind with
      | .header => ((s.popTo s.cur ch.toNat 1).ws rd (e.data.setWidth 64)).doneCommit
      | _ => (s.ws rd 0).doneStrong)

/-- A target of a packet reduction as its device accepts it: a scratchpad range, or an element of a tile file (R397). -/
def reduceTarget (s : State) (p kind : Nat) (t : Word) (n : Nat) : Bool :=
  if kind = 7 then isOA t && oaSpace t.toNat == some .acc && s.dieIn p (oaDie t.toNat) && t.toNat % 4 = 0
  else s.inSpad p t (64 * n) && t.toNat % 64 = 0
def pwNotify (w : Word) : Option (BitVec 8) := if w.getLsbD 40 then some (w.extractLsb' 32 8) else none

/-- MSRED, XORRED and FACC. -/
def packetReduce (s : State) (i : Instr) (kind : Nat) (st sa sn sp : Reg) : Result :=
  let t := s.rs st
  let a := s.rs sa
  let n := (s.rs sn).toNat
  let w := s.rs sp
  let ep := w.toNat % 2 ^ 12
  if n = 0 || 128 < n || (kind = 5 && n % 3 ≠ 0) || w.extractLsb' 12 4 ≠ 0#4 || w.extractLsb' 41 23 ≠ 0#23
    || (kind ≠ 7 && w.extractLsb' 16 16 ≠ 0#16) then illegal s
  else if a.toNat % 64 ≠ 0 then misalign s a
  else if ep = 0 && t.toNat % (if kind = 7 then 4 else 64) ≠ 0 then misalign s t
  else if !inClusterSpad (hartCl s.cur) a (64 * n) then addressTrap s .window a
  else if ep = 0 && !reduceTarget s s.myPart kind t n then addressTrap s .window t
  else if ep ≠ 0 && !s.peerOk s.myPart ep then takeTrap s .window 0 0
  else if s.held s.cur a.toNat (64 * n) then s.stalled i
  else withRelease s (fun s =>
    let lines := ownLines s a.toNat n
    if ep ≠ 0 then (s.sendPeer ep kind t w lines).doneStrong
    else (s.pushMsg s.cur (.reduce kind t.toNat (w.extractLsb' 16 16) (pwNotify w) lines)).doneStrong)

def execMsred (st sa sn sp : Reg) (scope : BitVec 3) (s : State) : Result :=
  packetReduce s (.msred st sa sn sp scope) 5 st sa sn sp
def execXorred (st sa sn sp : Reg) (scope : BitVec 3) (s : State) : Result :=
  packetReduce s (.xorred st sa sn sp scope) 6 st sa sn sp
def execFacc (st sa sn sp : Reg) (scope : BitVec 3) (s : State) : Result :=
  packetReduce s (.facc st sa sn sp scope) 7 st sa sn sp

/-- The hart number under which packets from peers travel on this device. -/
def peerHart : Hart := 16388
/-- The packet at the head of the inbox and what is left behind it. -/
def State.peerHead (s : State) : Option (PeerPacket × State) :=
  match s.inbox with
  | .packet k :: r => some (k, { s with inbox := r })
  | _ => none

/-- No earlier packet of the same core waits for the same channel (R395), nor one on its way to it between partitions. -/
def firstPacket (s : State) (m : Msg) (core ch : Nat) : Bool :=
  !(s.net.takeWhile (fun n => n.id != m.id)).any (fun n => hartCore n.hart == hartCore m.hart && (match n.item with
    | .packet c d _ _ => c == core && d == ch
    | .peer k => k.kind == 3 && fsendCore k.word == core && fsendCh k.word == ch
    | _ => false))

/-- A packet of FSEND from a peer enters the device: dropped without a valid source, refused when it names nothing here,
otherwise in the fabric of its channel, under the hart `h`. -/
def enterPacket (s : State) (h : Hart) (k : PeerPacket) : State :=
  match s.sourceOf k.src with
  | none => s.countPart k.src.part pPeerDropped
  | some ep =>
    let n := k.lines.length
    if n = 0 || 15 < n || 96 ≤ fsendCluster k.word || !s.dieIn k.src.part (fsendDie k.word) then s.countPart k.src.part pRefusedMsg
    else
      { s with net := s.net ++ [{ id := s.fresh, hart := h, part := k.src.part
                                  item := .packet (fsendCore k.word) (fsendCh k.word)
                                    (headerWord n ep 0 (k.word.extractLsb' 32 16)) k.lines }], fresh := s.fresh + 1 }

/-- PACKET_DELIVER: fabric item `cur` is delivered when its channel has room for all of it, or, with `cur` 0, the FSEND packet at
the head of the inbox enters the fabric; one between partitions of this module enters in the order of its flow. -/
def execPacketDeliver (s : State) : Result :=
  if s.cur = 0 then
    (match s.peerHead with
     | some (k, s') => if k.kind = 3 then .next (enterPacket s' peerHart k) else .next s
     | none => .next s)
  else match s.msg s.cur with
  | none => .next s
  | some m => match m.item with
    | .packet core ch header lines =>
      if arrivalRoom s core ch < lines.length + 1 || !firstPacket s m core ch then .next s
      else
        let es : List ArrEntry := lines.map (fun v => { kind := .payload, data := v })
        let c := s.core core
        .next ((s.dropMsg m.id).setCore core (c.setArrivals ch (c.arrivals ch ++ { kind := .header, data := header.setWidth 512 } :: es)))
    | .peer k =>
      if k.kind = 3 && firstPacket s m (fsendCore k.word) (fsendCh k.word) then .next (enterPacket (s.dropMsg m.id) m.hart k) else .next s
    | _ => .next s

/-- A packet reduction from a peer, checked and performed at its destination (R397, R426) (DEDUCED, log 28). -/
def enterReduce (s : State) (k : PeerPacket) : State :=
  match s.sourceOf k.src with
  | none => s.countPart k.src.part pPeerDropped
  | some _ =>
    let n := k.lines.length
    if n = 0 || 128 < n || (k.kind = 5 && n % 3 ≠ 0) || !reduceTarget s k.src.part k.kind k.word n then
      s.countPart k.src.part pRefusedMsg
    else
      { s with net := s.net ++ [{ id := s.fresh, hart := peerHart, part := k.src.part
                                  item := .reduce k.kind k.word.toNat (k.peerWord.extractLsb' 16 16) (pwNotify k.peerWord) k.lines }]
               fresh := s.fresh + 1 }

/-- PACKET_REDUCE_ARRIVAL: fabric item `cur` makes its next access at its target, or all of them when `arg` is 0, once no copy
still fills what it accesses (R85); with `cur` 0 the packet reduction at the head of the inbox enters the fabric, as one between partitions of this module does. -/
def execPacketReduceArrival (s : State) : Result :=
  if s.cur = 0 then
    (match s.peerHead with
     | some (k, s') => if k.kind = 3 then .next s else .next (enterReduce s' k)
     | none => .next s)
  else match s.msg s.cur with
  | none => .next s
  | some m => match m.item with
    | .reduce kind k tag ci l =>
      let n := if s.arg = 0 then 64 * l.length else if kind = 5 then 192 else 64
      if !s.firstOf m || kind ≠ 7 && s.guarded k n then .next s
      else if s.arg = 0 then .next (performItem s m)
      else
        let r := reduceStep s m.hart kind k tag ci l
        if r.2.2.isEmpty then .next (r.1.dropMsg m.id)
        else
          let put (x : Msg) : Msg := if x.id == m.id then { x with item := .reduce kind r.2.1 tag ci r.2.2 } else x
          .next { r.1 with net := r.1.net.map put }
    | .peer k => if k.kind = 3 then .next s else .next (enterReduce (s.dropMsg m.id) k)
    | _ => .next s

/-- Round data for receive entry `e` of slot `p` that comes too late (R389): the slot has run the round in this lap of the round
numbers and this series, or runs it and has begun the entry (DEDUCED, log 27). -/
def isLate (x : Slot) (m : Image) (p e : Nat) (round : BitVec 16) : Bool :=
  x.ran.contains round ||
  (x.st == .running && x.round == round && (x.void || (m.listOf (m.selfOf p)).findIdx (fun f => f == e) < x.next ||
    ((x.entry p).any (fun c => c.1 == e) && x.line != 0)))

/-- A round packet of a peer reaches slot `p`: its message names the sender's entry (DEDUCED, log 28). -/
def enterRound (s : State) (src : PeerSrc) (core slot : Nat) (r : RMsg) : State :=
  let p := 2 * core + slot % 2
  match s.sourceOf src, (s.port p).img with
  | none, _ => s.countPart src.part pPeerDropped
  | some ep, some m =>
    let w := m.party (m.owner r.entry)
    match (if s.dieIn src.part (core / 768) && ptyRemote w && ptyPeer w == ep then m.matchOf r.entry else none) with
    | none => s.countPart src.part pRefusedMsg
    | some e =>
      let x := s.port p
      if (m.owner e) ≠ m.selfOf p then s.countPart src.part pRefusedMsg
      else if isLate x m p e r.round then lateAt s p e r.round r.spoiled r.lines
      else s.setPort p { x with msgs := x.msgs ++ [{ r with entry := e }] }
  | some _, none => s.countPart src.part pRefusedMsg

/-- ROUND_PACKET_ARRIVAL: fabric item `cur`, or, with `cur` 0, the round packet at the head of the inbox. -/
def execRoundPacketArrival (s : State) : Result :=
  if s.cur = 0 then
    (match s.inbox with
     | .round src core slot r :: rest => .next (enterRound { s with inbox := rest } src core slot r)
     | _ => .next s)
  else match s.msg s.cur with
  | none => .next s
  | some m => match m.item with
    | .peerRound src core slot r => .next (enterRound (s.dropMsg m.id) src core slot r)
    | _ => .next s

end Sys2Proof.Machine
end

