-- ==== Sys2Proof/Machine/Damper.lean ====
section
/-! DEFINITION. The dampers (21): group records and statistics, folding, the test, the closure, and GCFG, GACC, GTEST, GSTEP,
GBIND and GDROP. -/

namespace Sys2Proof.Machine

/-- The hart number under which a damper accesses memory (R402). -/
def damperHart : Hart := 16389

/-! ## Records and statistics (R399 to R402) -/

/-- The die whose damper owns a group of partition `p` (R399). -/
def State.ownerOf (s : State) (p gid : Nat) : Option Nat :=
  (List.range 4).find? (fun d => s.dieIn p d && (s.die d).gfirst ≤ gid && gid < (s.die d).gfirst + (s.die d).gcount)

def bitIf (b : Bool) (n : Nat) : Nat := if b then 2 ^ n else 0
/-- A record in full (R400). -/
def Group.image (g : Group) (gid : Nat) : BitVec 512 :=
  BitVec.ofNat 512 (gid + bitIf g.late 16 + bitIf g.active 17 + bitIf g.drain 18 + g.step.toNat * 2 ^ 32 + g.n.toNat * 2 ^ 64
    + g.snr.toNat * 2 ^ 96 + g.theta.toNat * 2 ^ 128 + g.nmin.toNat * 2 ^ 160 + g.nmax.toNat * 2 ^ 192 + g.nel.toNat * 2 ^ 224
    + g.stats.toNat * 2 ^ 256 + g.succ.toNat * 2 ^ 320 + g.tiles.toNat * 2 ^ 384 + g.cln.toNat * 2 ^ 448
    + g.nlate.toNat * 2 ^ 480 + g.nspoil.toNat * 2 ^ 496)

/-- The damper of die `d` writes bytes of stack memory; where no page translates nothing is written (log 14). -/
def damperWrite (s : State) (d : Nat) (w : Word) (bytes : List Byte) : State :=
  (s.writeVA damperHart (s.partOfDie d) 0 (vaOf w) bytes).2

/-- The record of a group is written to memory as one release (R402). -/
def writeBack (s : State) (k : Nat) : State :=
  let d := k / 65536
  let gid := k % 65536
  damperWrite s d ((s.die d).gtbase + BitVec.ofNat 64 (64 * (gid - (s.die d).gfirst))) (vecBytes ((s.group k).image gid) 0 64)
/-- Change a record and write it back. -/
def keepGroup (s : State) (k : Nat) (g : Group) : State := writeBack (s.setGroup k g) k

/-- Bytes of a half of the statistics area (R401). -/
def Group.half (g : Group) : Nat := 128 * ((g.nel.toNat + 15) / 16)
/-- Address word of the half that step `st` accumulates in. -/
def Group.halfAt (g : Group) (st : BitVec 32) : Word := g.stats + BitVec.ofNat 64 (st.toNat % 2 * g.half)
/-- The record with the statistics of no sample. -/
def Group.cleared (g : Group) : Group := { g with vals := List.replicate g.nel.toNat (0, 0) }
/-- The half of group `k` that its step accumulates in is cleared, in the damper and in memory. -/
def zeroHalf (s : State) (k : Nat) : State :=
  let g := s.group k
  damperWrite (s.setGroup k g.cleared) (k / 65536) (g.halfAt g.step) (List.replicate g.half 0)

/-- The bytes of a half: lanes at or beyond NEL are +0. -/
def statsBytes (nel : Nat) (l : List (Nat × Nat)) : List Byte :=
  (List.range ((nel + 15) / 16)).flatMap (fun b =>
    let lanes (f : Nat × Nat → Nat) : List Byte := (List.range 16).flatMap (fun e => leBytes 4 (((l[16 * b + e]?).map f).getD 0))
    lanes Prod.fst ++ lanes Prod.snd)

/-! ## Comparisons of values -/

def numEq (a b : Num) : Bool := !a.isNan && !b.isNan && Num.cmp a b == .eq
/-- Neither is a NaN and `b` ≤ `a`. -/
def numGe (a b : Num) : Bool := !a.isNan && !b.isNan && Num.cmp a b != .lt
def numGt (a b : Num) : Bool := numGe a b && !numEq a b
def zNum (n : BitVec 32) : Num := Num.ofInt n.toNat
/-- A count of a contribution: an integer from 0 to 2^24 (R403). -/
def isCount (c : Num) : Bool :=
  match c with
  | .fin neg m e =>
    m == 0 || (!neg && (if 0 ≤ e then m * 2 ^ e.toNat ≤ 2 ^ 24 else m % 2 ^ (-e).toNat == 0 && m / 2 ^ (-e).toNat ≤ 2 ^ 24))
  | _ => false

/-! ## Closures (R406) -/

/-- The end of a closure: the new half is cleared, the record is open again and the successor goes to the grate. -/
def finishClosure (s : State) (k : Nat) : State :=
  let s := keepGroup (zeroHalf s k) k { (s.group k).cleared with drain := false }
  let g := s.group k
  if g.succ = 0 then s
  else
    let n := g.closures + 1
    (s.setGroup k { g with live := true, closures := n }).offer (k / 65536)
      { lb := g.succ, part := s.partOfDie (k / 65536), group := some { key := k, no := n, step := g.step.toNat } }

/-- A closure: the record is released, then it drains or finishes. -/
def closeGroup (s : State) (k : Nat) : State :=
  let g := s.group k
  let s := keepGroup s k { g with cln := g.n, step := g.step + 1, n := 0 }
  if g.live then keepGroup s k { s.group k with drain := true } else finishClosure s k

/-- DAMPER_DRAIN_FINISH: the previous successor of group `cur` has ended or was refused. -/
def execDamperDrainFinish (s : State) : Result :=
  let g := s.group s.cur
  if g.drain && !g.live then .next (finishClosure s s.cur) else .next s

/-! ## Instructions (R403 to R405, R411 to R414) -/

/-- An on-chip word in regions 0 to 7 of the issuing cluster (R411). -/
def inOwnRegions (cl : Nat) (w : Word) : Bool := isOA w && oaCluster w.toNat < 96 && oaCl w.toNat == cl && oaRegion w.toNat < 8

/-- What an instruction's operands are refused for, with the ADDR of the record: ILLEGAL for a bad number, the checks of its address
operand, WINDOW for a group no damper owns; otherwise its group. -/
def groupOperand (s : State) (sg : Reg) (bad : Bool) (addr : Option Word) : Except (Trap × Word) Nat :=
  let g := s.rs sg
  if bad || 2 ^ 16 ≤ g.toNat then .error (.illegal, 0)
  else match addr.bind (fun w =>
      if w.toNat % 64 ≠ 0 then some (Trap.misalign, w)
      else if !inOwnRegions (hartCl s.cur) w then some (Trap.window, w) else none) with
  | some x => .error x
  | none => match s.ownerOf s.myPart g.toNat with
    | none => .error (.window, 0)
    | some d => .ok (groupKey d g.toNat)
def withGroup (s : State) (sg : Reg) (bad : Bool) (addr : Option Word) (k : Nat → Result) : Result :=
  match groupOperand s sg bad addr with
  | .error x => takeTrap s x.1 x.2 0
  | .ok key => k key

/-- A damper instruction ends the chunk, is a release and an acquire, and stalls while a copy's watermark holds an earlier store of its
hart (R85) or the group drains (R408, R411) (DEDUCED, log 29). While it stalls no pending store lands in a register (`atBoundary`), so
that a GACC has TRAPEN as it stood when it issued (R403). -/
def atDamper (s : State) (i : Instr) (key : Nat) (k : State → Result) : Result :=
  withChunkEnd s (fun s =>
    if s.blocked s.cur then s.stalled i
    else
      let s := s.drain s.cur
      if (s.group key).drain then s.stalled i else k s)

/-- The code of GCFG for an image (R412), 0 when it configures. -/
def gcfgCode (s : State) (p gid : Nat) (b : Vec) : Nat :=
  let f (lo n : Nat) : Nat := (b.extractLsb' lo n).toNat
  let theta := f32.dec (f 128 32)
  let half := 128 * ((f 224 32 + 15) / 16)
  let stats := b.extractLsb' 256 64
  let succ := b.extractLsb' 320 64
  let inPart (w : Word) : Bool := isVA w && s.stackIn p (vaStack (vaOf w))
  let last := f 384 41 + f 425 16
  if f 0 16 ≠ gid || f 19 13 ≠ 0 || !numGt theta (Num.ofInt 0) || f 160 32 < 2 || 2 ^ 24 < f 160 32
    || (f 192 32 ≠ 0 && (f 192 32 < f 160 32 || 2 ^ 24 < f 192 32)) || f 224 32 = 0 || 2 ^ 20 < f 224 32
    || f 256 6 ≠ 0 || f 441 7 ≠ 0 then 1
  else if !inPart stats || 2 ^ 54 < vaOf stats % 2 ^ 54 + 2 * half || (succ ≠ 0 && !(succ.toNat % 64 == 0 && inPart succ))
    || !s.stackIn p (f 422 3) || !s.stackIn p (last / 2 ^ 38) then 2
  else 0

/-- A group whose STEP is set to `step` closes with the steps behind it anew: of those none counts as freed on its tiles, while a step up
to STEP that was freed stays gone (R366, R414) (DEDUCED, log 29). -/
def State.forgetSteps (s : State) (tiles : Word) (step : Nat) : State :=
  let first := tiles.toNat % 2 ^ 41
  let n := tiles.toNat / 2 ^ 41 % 2 ^ 16 + 1
  let keep (x : Nat × List Nat) : Nat × List Nat :=
    if x.1 < first || first + n ≤ x.1 then x else (x.1, x.2.filter (fun st => decide (st ≤ step)))
  { s with gone := (s.gone.map keep).filter (fun x => !x.2.isEmpty) }

def execGcfg (rd sr sg : Reg) (s : State) : Result :=
  let a := s.rs sr
  withGroup s sg false (some a) (fun key =>
    match s.accessTrap .weakLoad a 64 with
    | some t => addressTrap s t a
    | none =>
      atDamper s (.gcfg rd sr sg) key (fun s =>
        let b : Vec := bytesVec (s.bytesAt a.toNat 64)
        let code := gcfgCode s s.myPart (key % 65536) b
        if s.guarded a.toNat 64 then s.stalled (.gcfg rd sr sg)
        else if code ≠ 0 then (s.ws rd (BitVec.ofNat 64 code)).doneStrong
        else
          let g : Group := { configured := true, late := b.getLsbD 16, active := true, step := b.extractLsb' 32 32
                             theta := b.extractLsb' 128 32, nmin := b.extractLsb' 160 32, nmax := b.extractLsb' 192 32
                             nel := b.extractLsb' 224 32, stats := b.extractLsb' 256 64, succ := b.extractLsb' 320 64
                             tiles := b.extractLsb' 384 64, live := (s.group key).live
                             closures := (s.group key).closures }
          (((writeBack (zeroHalf (s.setGroup key g) key) key).forgetSteps g.tiles g.step.toNat).ws rd 0).doneStrong))

/-- The group binding of the issuing continuation's task for a group, as its number (R404). -/
def bindingOf (s : State) (gid : Nat) : Option Nat :=
  ((s.task s.myAcc).bind (fun t => t.groups.findIdx? (fun b => b.word.toNat % 2 ^ 16 == gid)))

/-- The groups of an n, a mean and an M2 line in a contribution window. -/
structure Contribution where
  n : List Nat
  vals : List (Nat × Nat)
  deriving DecidableEq, Repr

def readWindow (s : State) (k nel : Nat) : Contribution :=
  let lane (line i : Nat) : Nat := s.readAt (k + 64 * (3 * (i / 16) + line) + 4 * (i % 16)) 4
  { n := (List.range nel).map (lane 0), vals := (List.range nel).map (fun i => (lane 1 i, lane 2 i)) }

def finitePair (x : Nat × Nat) : Bool := f32.isFinite x.1 && f32.isFinite x.2

/-- What a GACC comes to (R403): MNF, or the outcome with the record and, when a contribution is folded, the new statistics. -/
inductive Fold where
  | mnf
  | done (outcome : Nat) (g : Group) (stats : Option (List (Nat × Nat)))
  deriving DecidableEq, Repr

/-- The fold of a contribution that has passed the tests of ACTIVE and tag, into statistics `old`; `w` is none when the window
does not lie in its scratchpad. -/
def foldGroup (g : Group) (late spoil gmnf : Bool) (w : Option Contribution) (old : List (Nat × Nat)) : Fold :=
  let spoilt (g : Group) : Fold := .done 3 { g with nspoil := g.nspoil + 1 } none
  match w with
  | none => spoilt g
  | some w =>
    let c := w.n.head?.getD 0
    if spoil || !isCount (f32.dec c) || w.n.any (fun x => !numEq (f32.dec x) (f32.dec c)) then spoilt g
    else if !w.vals.all finitePair then (if gmnf then .mnf else spoilt g)
    else if (f32.dec c).isZero then .done (if late then 1 else 0) g none
    else
      let new := (old.zip w.vals).map (fun (x : (Nat × Nat) × (Nat × Nat)) =>
        let m := mergeMs ⟨g.n.toNat, x.1.1, x.1.2⟩ ⟨c, x.2.1, x.2.2⟩
        (m.mu, m.m2))
      if !new.all finitePair then (if gmnf then .mnf else spoilt g)
      else .done (if late then 1 else 0) { g with n := BitVec.ofNat 32 (f32.addF g.n.toNat c) } (some new)

/-- What the tests of ACTIVE and tag leave of a GACC (R403): an outcome that ends it, or the record to fold with and whether the
contribution is late. -/
inductive TagTest where
  | stop (outcome : Nat) (g : Group)
  | fold (g : Group) (late : Bool)
  deriving DecidableEq, Repr

def tagTest (s : State) (key : Nat) (st : Word) : TagTest :=
  let g := s.group key
  let auto := (bindingOf s (key % 65536)).map (fun b => s.me.cont.boundver.extractLsb' (16 * b) 16)
  let tag := if st.getLsbD 17 then auto else some (st.extractLsb' 0 16)
  if !g.active then .stop 5 g
  else match tag with
  | none => .stop 4 g
  | some t =>
    let delta := (t - g.step.extractLsb' 0 16).toInt
    if 0 < delta then .stop 4 g
    else if delta < 0 then
      (let g := { g with nlate := g.nlate + 1 }
       if g.late then .fold g true else .stop 2 g)
    else .fold g false

/-- Bytes of the contribution window of a group, and whether it lies in its scratchpad (R403). -/
def Group.windowBytes (g : Group) : Nat := 192 * ((g.nel.toNat + 15) / 16)
def Group.windowIn (g : Group) (win : Word) : Bool := oaOff win.toNat + g.windowBytes ≤ spadSize

/-- The fold of the contribution at `win` into the statistics. -/
def foldAt (s : State) (g : Group) (late : Bool) (win st : Word) : Fold :=
  let w := if g.windowIn win then some (readWindow s win.toNat g.nel.toNat) else none
  foldGroup g late (st.getLsbD 16) (s.me.regs.ctl.trapen.getLsbD 1) w g.vals

/-- GACC at the damper: a window that a copy still fills keeps it waiting once the tests have passed (R85). -/
def gaccAt (s : State) (i : Instr) (rd : Reg) (key : Nat) (win st : Word) : Result :=
  let fin (s : State) (outcome : Nat) : Result :=
    (s.ws rd (BitVec.ofNat 64 (outcome + (s.group key).n.toNat * 2 ^ 32))).doneStrong
  match tagTest s key st with
  | .stop o g => fin (if g = s.group key then s else keepGroup s key g) o
  | .fold g late =>
    if g.windowIn win && s.guarded win.toNat g.windowBytes then s.stalled i
    else match foldAt s g late win st with
    | .mnf => takeTrapInfo s s.cur { trapHere s s.cur .mnf 0 0xFFFF with row := 0xFFFF, col := 0xFFFF }
    | .done o g' none => fin (keepGroup s key g') o
    | .done o g' (some l) =>
      fin (keepGroup (damperWrite s (key / 65536) (g.halfAt g.step) (statsBytes g.nel.toNat l)) key { g' with vals := l }) o

/-- The contribution at `win` would raise MNF. -/
def gaccMnf (s : State) (sg : Reg) (win st : Word) : Bool :=
  let g := s.rs sg
  if 2 ^ 16 ≤ g.toNat || !inOwnRegions (hartCl s.cur) win then false
  else match s.ownerOf s.myPart g.toNat with
  | none => false
  | some d =>
    let key := groupKey d g.toNat
    match tagTest s key st with
    | .fold g late => !(s.group key).drain && g.windowIn win && foldAt s g late win st == .mnf
    | .stop _ _ => false

/-- GACC. An MNF that it would raise, once its chunk has committed, but for a code ranked before it that its operands raise, is counted
(R113). -/
def execGacc (rd sw sg st : Reg) (s : State) : Result :=
  let a := s.rs sw
  let w := s.rs st
  match groupOperand s sg (2 ^ 18 ≤ w.toNat) (some a) with
  | .ok key => atDamper s (.gacc rd sw sg st) key (fun s => gaccAt s (.gacc rd sw sg st) rd key a w)
  | .error x => withChunkEnd s (fun s =>
    match takeTrap s x.1 x.2 0 with
    | .next u => .next (if gaccMnf s sg a w && u.me.run == .parked then u.countCl (hartCl u.cur) cMnf 1 else u)
    | r => r)

/-- The signal-to-noise ratio of GTEST (R405). -/
def snrOf (g : Group) (l : List (Nat × Nat)) : Nat :=
  let sums := l.foldl (fun (x : Nat × Nat) e => (f32.addF x.1 (f32.mulF e.1 e.1), f32.addF x.2 e.2)) (0, 0)
  let n := g.n.toNat
  let one := 0x3F800000
  if !numGe (f32.dec n) (Num.ofInt 2) then 0
  else
    let est := f32.divF sums.2 (f32.mulF n (f32.subF n one))
    if (f32.dec est).isZero then (if numGt (f32.dec sums.1) (Num.ofInt 0) then 0x7F800000 else 0)
    else f32.divF sums.1 est

/-- Whether a test closes its group (R405): by its threshold, which +∞ disables whatever the ratio is (R400) (DEDUCED, log 29), or by
NMAX. -/
def closes (g : Group) : Bool :=
  let n := f32.dec g.n.toNat
  (numGe n (zNum g.nmin) && g.theta != 0x7F800000 && numGe (f32.dec g.snr.toNat) (f32.dec g.theta.toNat)) || (g.nmax != 0 && numGe n (zNum g.nmax))

/-- The value of GTEST and GSTEP after the test. -/
def testWord (g : Group) (close : Bool) : Word :=
  BitVec.ofNat 64 (g.snr.toNat + bitIf close 32 + g.step.toNat % 2 ^ 16 * 2 ^ 48)

def execGtest (rd sg : Reg) (s : State) : Result :=
  withGroup s sg false none (fun key => atDamper s (.gtest rd sg) key (fun s =>
    let g := s.group key
    if !g.active then (s.ws rd 0).doneStrong
    else
      let g : Group := { g with snr := BitVec.ofNat 32 (snrOf g g.vals) }
      let s := s.setGroup key g
      let s := if closes g then closeGroup s key else writeBack s key
      (s.ws rd (testWord (s.group key) (closes g))).doneStrong))

def execGstep (rd sg : Reg) (s : State) : Result :=
  withGroup s sg false none (fun key => atDamper s (.gstep rd sg) key (fun s =>
    if !(s.group key).active then (s.ws rd 0).doneStrong
    else
      let s := closeGroup s key
      (s.ws rd (testWord (s.group key) true)).doneStrong))

/-- The value of GBIND (R414). -/
def gbindWord (s : State) (key : Nat) (ss : Word) : Word :=
  let g := s.group key
  let l := s.vslots (g.tiles.toNat % 2 ^ 41)
  let newest := (l.filterMap (fun v => match v with
    | .published _ st => some st
    | _ => none)).max?
  match (if ss = BitVec.allOnes 64 then newest else some (ss.toNat % 2 ^ 32)) with
  | none => BitVec.allOnes 64
  | some st =>
    if !g.configured || g.step.toNat < st || l.all (fun v => match v.step with
        | some x => decide (st < x)
        | none => true) then BitVec.allOnes 64
    else BitVec.ofNat 64 (key % 65536 + 2 ^ 16 + st * 2 ^ 32)

def execGbind (rd sg ss : Reg) (s : State) : Result :=
  let w := s.rs ss
  withGroup s sg (w != BitVec.allOnes 64 && decide (2 ^ 32 ≤ w.toNat)) none (fun key =>
    withChunkEnd s (fun s => (s.ws rd (gbindWord s key w)).doneStrong))

def execGdrop (rd sg mode : Reg) (s : State) : Result :=
  withGroup s sg false none (fun key => atDamper s (.gdrop rd sg mode) key (fun s =>
    let g := s.group key
    if !g.active then (s.ws rd 5).doneStrong
    else ((keepGroup (zeroHalf s key) key { g.cleared with n := 0, active := mode == 0 }).ws rd 0).doneStrong))

end Sys2Proof.Machine
end

