-- ==== Sys2Proof/Machine/Records.lean ====
section
/-! DEFINITION. Continuation records as the pool holds them (R28, R30, R367), kernel headers (R103 to R105) and the registers at a
pickup (R32). -/

namespace Sys2Proof.Machine

/-- A continuation record in full (R28). -/
def recordVec (c : Cont) (pc : Word) (safeidx status : Nat) : Vec :=
  BitVec.ofNat 512 (pc.toNat + c.savearea.toNat * 2 ^ 64 + c.argblk.toNat * 2 ^ 128 + c.levels.toNat * 2 ^ 192
    + c.taskid.toNat * 2 ^ 256 + c.gen.toNat * 2 ^ 288 + safeidx * 2 ^ 304 + status * 2 ^ 312
    + c.launchblk.toNat * 2 ^ 320 + c.boundver.toNat * 2 ^ 384)

def recStatus (r : Vec) : Nat := (r.extractLsb' 312 8).toNat
def recPc (r : Vec) : Word := r.extractLsb' 0 64
/-- The continuation that a record describes; its task, linear index and partition come from the grate. -/
def contOf (rcd : Word) (r : Vec) (acc lin part : Nat) : Cont :=
  { rcd := rcd, savearea := r.extractLsb' 64 64, argblk := r.extractLsb' 128 64, levels := r.extractLsb' 192 64
    taskid := r.extractLsb' 256 32, gen := r.extractLsb' 288 16, launchblk := r.extractLsb' 320 64
    boundver := r.extractLsb' 384 64, lin := lin, part := part, acc := acc }

/-- The `n` lowest-numbered free records of the pool from record `i` on, looking at `fuel` of them; fewer when there are not
enough (R367). -/
def freeRecords (s : State) (p n i : Nat) : Nat → List Word × State
  | 0 => ([], s)
  | fuel + 1 =>
    match n with
    | 0 => ([], s)
    | m + 1 =>
      let rcd := (s.part p).pbase + BitVec.ofNat 64 (64 * i)
      match readRecord s p rcd with
      | (r, s) =>
        if r.any (fun r => recStatus r == 0) then
          let x := freeRecords s p m (i + 1) fuel
          (rcd :: x.1, x.2)
        else freeRecords s p n (i + 1) fuel
/-- The first `n` free records of a partition's pool, if there are as many (R367; DEDUCED, log 41). -/
def takeRecords (s : State) (p n : Nat) : Option (List Word) × State :=
  if !(s.part p).pooled then (none, s)
  else
    let l := freeRecords s p n 0 (2 ^ (s.part p).plog2)
    (if l.1.length = n then some l.1 else none, l.2)

/-- A kernel header as read. -/
structure Header where
  entry : Word
  savesz : Nat
  safes : List SafePt
  ok : Bool
  deriving DecidableEq, Repr

/-- A head address: even, and not in a line's header. -/
def isHeadPc (w : Word) : Bool := w.toNat % 2 == 0 && 2 ≤ w.toNat % 64

/-- Read the kernel header at a virtual-form word (R103, R104); `ok` is the part of R105 that concerns the header alone. It is read where
it stands, aligned to 64 bytes or not; one that is not in virtual form or does not translate is none (DESIGN CHOICE, log 29). -/
def readHeader (s : State) (p acc : Nat) (w : Word) : Option Header × State :=
  if !isVA w then (none, s)
  else match s.readVA p acc (vaOf w) 32 with
  | (none, s) => (none, s)
  | (some b, s) =>
    let h : BitVec 256 := BitVec.ofNat 256 (leNat b)
    let n := (h.extractLsb' 64 8).toNat
    match (if n = 0 then (some [], s) else s.readVA p acc (vaOf w + 32) (32 * n)) with
    | (none, s) => (none, s)
    | (some e, s) =>
      let pts : List (BitVec 256) := (List.range n).map (fun k => BitVec.ofNat 256 (leNat ((e.drop (32 * k)).take 32)))
      let safes : List SafePt := pts.map (fun x => { savepc := x.extractLsb' 0 64, restpc := x.extractLsb' 64 64 })
      let ok := h.extractLsb' 72 8 == 0#8 && h.extractLsb' 96 160 == 0#160 && isHeadPc (h.extractLsb' 0 64)
        && pts.all (fun x => x.extractLsb' 208 48 == 0#48) && safes.all (fun x => isHeadPc x.savepc && isHeadPc x.restpc)
      (some { entry := h.extractLsb' 0 64, savesz := (h.extractLsb' 80 16).toNat, safes := safes, ok := ok }, s)

/-- Registers of a continuation at a pickup; `later` is any but the first (R32). -/
def pickupRegs (c : Cont) (pc : Word) (later : Bool) : Regs :=
  let r : Regs := ((({ pc := pc } : Regs).setS 30 c.argblk).setS 29 c.levels).setS 28 c.rcd
  if later then r.setS 2 c.savearea else r

/-- Place a continuation on thread set `h`: STATUS 2 and the registers of R32. -/
def placeOn (s : State) (h : Hart) (c : Cont) (pc : Word) (later : Bool) : State :=
  let r := pickupRegs c pc later
  ((putStatus s h c 2).setThread h { run := .running, regs := r, chunk := { begun := r }, cont := c, placed := s.now }).noteWindow h
    (fun _ => true)

end Sys2Proof.Machine
end

