-- ==== Sys2Proof/Machine/Launch.lean ====
section
/-! DEFINITION. Launches as the grates handle them (19): launch blocks and their checks, admission, the hold, versions of tiles,
and the life of a task up to its ready queue. -/

namespace Sys2Proof.Machine

/-- The hart number under which a grate accesses memory. -/
def grateHart : Hart := 16390

/-! ## Levels (R36 to R38) -/

/-- The narrowest scope a level of a domain may name. -/
def naturalScope (dom : Nat) : Nat := (([0, 2, 1, 2, 3, 3, 5, 5] : List Nat)[dom]?).getD 0
/-- Size of a domain in thread sets; `ext` is the extent of the level, which sizes a gang, and `nd` the dies of the partition. -/
def domainSize (nd dom ext : Nat) : Nat :=
  match dom with
  | 0 => 1
  | 1 => ext
  | 2 => 4
  | 3 => 32
  | 4 => 384
  | 5 => 3072
  | 6 => 12288
  | _ => 3072 * nd
def descDom (d : BitVec 16) : Nat := (d.extractLsb' 0 3).toNat
def descExt (d : BitVec 16) : Nat := (d.extractLsb' 8 8).toNat + 1

/-- A level descriptor on its own (R37). -/
def descOk (several : Bool) (d : BitVec 16) : Bool :=
  !d.getLsbD 3 && !d.getLsbD 7 && (d.extractLsb' 4 3).toNat ≠ 7 && naturalScope (descDom d) ≤ (d.extractLsb' 4 3).toNat &&
  !(descDom d == 6 && several)
/-- Two neighbouring levels: strictly wider, no thread sets below a gang, no gang in a core (R37). -/
def stepOk (lo hi : BitVec 16) : Bool :=
  descDom lo < descDom hi && !(descDom lo == 0 && descDom hi == 1) && !(descDom lo == 1 && descDom hi == 2)
/-- The extent of a level fits the level above it, or the partition (R38). -/
def extentOk (nd : Nat) (d : BitVec 16) (up : Option (BitVec 16)) : Bool :=
  if descDom d = 1 then 2 ≤ descExt d && descExt d ≤ 8
  else
    let room := match up with
      | some u => domainSize nd (descDom u) (descExt u)
      | none => 3072 * nd
    descExt d ≤ min 256 (room / domainSize nd (descDom d) (descExt d))
def levelsOk (nd : Nat) (several : Bool) (l : List (BitVec 16)) : Bool :=
  l.all (descOk several) && (l.zip (l.drop 1)).all (fun x => stepOk x.1 x.2) &&
  (List.range l.length).all (fun i => extentOk nd ((l[i]?).getD 0) l[i + 1]?)

/-! ## Launch blocks (R362 to R364) -/

/-- The tiles of a range descriptor: the first and their number (R363). -/
def tileRun (w : Word) : Nat × Nat := ((w.extractLsb' 0 41).toNat, (w.extractLsb' 41 16).toNat + 1)
def runOk (s : State) (p : Nat) (w : Word) : Bool :=
  let r := tileRun w
  (w.extractLsb' 57 7 == 0#7) && s.stackIn p (r.1 / 2 ^ 38) && r.1 % 2 ^ 38 + r.2 ≤ 2 ^ 38
/-- Fields of a group binding (R363). -/
def bindGid (w : Word) : Nat := w.toNat % 2 ^ 16
def bindNamed (w : Word) : Bool := w.getLsbD 16
def bindWrite (w : Word) : Bool := w.getLsbD 17
def bindStep (w : Word) : Nat := w.toNat / 2 ^ 32
/-- The record of a bound group, when a damper of the partition owns it and GCFG has configured it. -/
def State.boundGroup (s : State) (p : Nat) (w : Word) : Option Group :=
  (s.ownerOf p (bindGid w)).bind (fun d =>
    let g := s.group (groupKey d (bindGid w))
    if g.configured then some g else none)
/-- A group binding of a launch block can be met (R366; DEDUCED, log 29). -/
def bindingOk (s : State) (p : Nat) (w : Word) : Bool :=
  (w.extractLsb' 18 14 == 0#14) && (bindNamed w || bindStep w == 0) && (s.boundGroup p w).isSome

/-- What the grate reads at an address word: stack memory, or a scratchpad of the partition. -/
def grateRead (s : State) (p : Nat) (w : Word) (n : Nat) : Option (List Byte) × State :=
  if n = 0 then (some [], s)
  else if isVA w then s.readVA p 0 (vaOf w) n
  else if s.inSpad p w n then (some (s.bytesAt w.toNat n), s)
  else (none, s)

/-- The reserved fields of a block. -/
def blockReserved : List (Nat × Nat) := [(259, 1), (263, 1), (267, 5), (285, 3), (299, 21), (416, 32), (768, 256)]

/-- A launch block that has been read: every check of R37, R43 and R364 that concerns the block alone. -/
def blockOk (s : State) (p : Nat) (b : BitVec 1024) : Bool :=
  let f (lo n : Nat) : Nat := (b.extractLsb' lo n).toNat
  let descs : List (BitVec 16) := (List.range 8).map (fun i => b.extractLsb' (128 + 16 * i) 16)
  let nlev := f 256 3 + 1
  let used := descs.take nlev
  let doms := used.map descDom
  let ngrp := f 296 3
  let grps : List Word := (List.range 4).map (fun i => b.extractLsb' (512 + 64 * i) 64)
  let bound := grps.take ngrp
  let pin := b.getLsbD 266
  let pincore := b.getLsbD 284
  blockReserved.all (fun x => f x.1 x.2 == 0) && (descs.drop nlev).all (fun d => d == 0) && ngrp ≤ 4 && (grps.drop ngrp).all (fun g => g == 0)
    && f 264 2 == p
    && levelsOk ((s.ctrl.layout[p]?).getD []).length (1 < s.ctrl.layout.length) used
    && !(pin && (doms.any (fun d => 4 ≤ d) || used.any (fun d => descDom d == 3 && descExt d != 1)))
    && !(pincore && (!pin || used.any (fun d => (descDom d == 1 || descDom d == 2) && descExt d != 1)))
    && !(pin && (96 ≤ f 274 7 || !s.dieIn p (f 272 2)))
    && f 384 32 % 64 == 0
    && bound.all (bindingOk s p) && (bound.map bindGid).Nodup
    && (f 288 4 + f 292 4 == 0 || f 448 3 == 0)

/-- A group binding as acceptance finds its group (R363, R366): the STEP that a WRITE binding opens is the one that the closure
opened when this group's closure launched the task (R407), otherwise the group's present one (DEDUCED, log 29). -/
def bindGroup (s : State) (l : Launch) (w : Word) : GroupBind :=
  match (s.ownerOf l.part (bindGid w)).map (fun d => groupKey d (bindGid w)) with
  | none => { word := w, run := (0, 0), step := 0 }
  | some k =>
    { word := w, run := tileRun (s.group k).tiles
      step := match l.group.filter (fun c => c.key = k) with
        | some c => c.step
        | none => (s.group k).step.toNat }

/-- The task of a launch block, as admitted. -/
def taskOf (s : State) (l : Launch) (b : BitVec 1024) (hd : Header) (runs : List Word) : Task :=
  let f (lo n : Nat) : Nat := (b.extractLsb' lo n).toNat
  let descs : List (BitVec 16) := (List.range (f 256 3 + 1)).map (fun i => b.extractLsb' (128 + 16 * i) 16)
  let grps : List Word := (List.range (f 296 3)).map (fun i => b.extractLsb' (512 + 64 * i) 64)
  let nrd := f 288 4
  let binds := grps.map (bindGroup s l)
  let next := s.part l.part
  { acc := s.accno + 1, die := 0, part := l.part, taskid := if next.taskctr + 1 = 0 then 1 else next.taskctr + 1, st := .admitted
    lb := l.lb, khdr := b.extractLsb' 0 64, entry := hd.entry, safes := hd.safes, argblk := b.extractLsb' 64 64
    levels := descs.map (fun d => (descDom d, descExt d)), prio := f 260 3
    pin := if b.getLsbD 266 then some (96 * f 272 2 + f 274 7, if b.getLsbD 284 then some (f 281 3) else none) else none
    savebase := b.extractLsb' 320 64, savestride := f 384 32
    reads := (runs.take nrd).map tileRun ++ binds.map GroupBind.run
    writes := (runs.drop nrd).map tileRun ++ (binds.filter (fun b => bindWrite b.word)).map GroupBind.run
    groups := binds, entries := nrd + f 292 4, bound := [], opened := [], boundver := 0, recs := [], retired := false, inst := []
    group := l.group }

/-- Read and check a launch (R366): its task, or none when it is refused, as it is where the block or its kernel header cannot be
read (DESIGN CHOICE, log 29). -/
def checkLaunch (s : State) (l : Launch) : Option Task × State :=
  if !isVA l.lb || l.lb.toNat % 64 ≠ 0 || !s.stackIn l.part (vaStack (vaOf l.lb)) then (none, s)
  else match s.readVA l.part 0 (vaOf l.lb) 128 with
  | (none, s) => (none, s)
  | (some bytes, s) =>
    let b : BitVec 1024 := BitVec.ofNat 1024 (leNat bytes)
    let f (lo n : Nat) : Nat := (b.extractLsb' lo n).toNat
    if !blockOk s l.part b then (none, s)
    else match readHeader s l.part 0 (b.extractLsb' 0 64) with
    | (none, s) => (none, s)
    | (some hd, s) =>
      match grateRead s l.part (b.extractLsb' 448 64) (8 * (f 288 4 + f 292 4)) with
      | (none, s) => (none, s)
      | (some rb, s) =>
        let runs : List Word := (List.range (f 288 4 + f 292 4)).map (fun i => BitVec.ofNat 64 (leNat ((rb.drop (8 * i)).take 8)))
        let t := taskOf s l b hd runs
        let saveOk := hd.savesz == 0 ||
          (t.savebase.toNat % 64 == 0 && s.inSpad l.part t.savebase (t.threads * t.savestride))
        if hd.ok && 64 * hd.savesz ≤ t.savestride && saveOk && runs.all (runOk s l.part) then (some t, s) else (none, s)

/-- The grate's read of an on-chip TILESET meets bytes that a copy has yet to fill, and waits for them (R85). -/
def tileSetWaits (s : State) (l : Launch) : Bool :=
  isVA l.lb && l.lb.toNat % 64 == 0 && s.stackIn l.part (vaStack (vaOf l.lb)) &&
  match s.readVA l.part 0 (vaOf l.lb) 128 with
  | (none, _) => false
  | (some bytes, s) =>
    let b : BitVec 1024 := BitVec.ofNat 1024 (leNat bytes)
    let w : Word := b.extractLsb' 448 64
    let n := 8 * ((b.extractLsb' 288 4).toNat + (b.extractLsb' 292 4).toNat)
    blockOk s l.part b && (readHeader s l.part 0 (b.extractLsb' 0 64)).1.isSome && !isVA w && s.inSpad l.part w n && s.guarded w.toNat n

/-! ## Refusals and trap records of the grate (R37, R115) -/

/-- A trap record that no hart stands behind: what R115 leaves without a value there is free (log 14). -/
def grateTrap (s : State) (p : Nat) (code : Trap) (addr : Word) (c : Option Cont) (pc : Option Word) : State :=
  let w (k : Nat) : Word := Config.freeWord (2 ^ 80 + 16 * s.fresh + k)
  let i : TrapInfo := { code := code.code, pc := pc.getD (w 0), head := (w 1).setWidth 16, tail := w 2, addr := addr
                        fmta := w 3, fmtb := w 4, fmtc := w 5, parked := false }
  let c : Cont := c.getD { rcd := w 6, gen := (w 7).setWidth 16, taskid := (w 8).setWidth 32 }
  State.addTrap { s with fresh := s.fresh + 1 } p (trapDataAt ((w 9).setWidth 16) c false false i)

/-- A launch is refused: no record, a LAUNCH trap record; for a damper its successor has ended (R37, R406). -/
def refuseLaunch (s : State) (p : Nat) (lb : Word) (group : Option Closure) : State :=
  let s := grateTrap s p .launch lb none none
  match group with
  | some k => s.endSuccessor k
  | none => s

/-- Once no launch named by a thread's EXIT is left to take, its record returns to the pool (R367). -/
def returnExited (s : State) (src : Option (Nat × Word)) : State :=
  match src with
  | none => s
  | some (p, rcd) =>
    if s.dies.any (fun d => d.2.offers.any (fun l => l.src == src)) then s
    else putStatus s grateHart { rcd := rcd, part := p } 0

/-- LAUNCH_ACCEPT: the oldest launch offered to the grate of die `cur`, whose tile set waits for a copy that has yet to fill it (R85). -/
def execLaunchAccept (s : State) : Result :=
  let d := s.cur
  match (s.die d).offers with
  | [] => .next s
  | l :: rest =>
    if tileSetWaits s l then .next s else
    let s := s.setDie d { s.die d with offers := rest }
    match checkLaunch s l with
    | (none, s) => .next (returnExited (refuseLaunch s l.part l.lb l.group) l.src)
    | (some t, s) =>
      let s := s.setPart l.part { s.part l.part with taskctr := t.taskid }
      let s := s.setDie d { s.die d with admits := (s.die d).admits ++ [t.acc] }
      .next (returnExited { s with accno := t.acc, tasks := s.tasks ++ [{ t with die := d }] } l.src)

/-- LAUNCH_ADMIT: the head of the admission queue of die `cur` takes its dependence entries, of which a die has 4,096 (R17). -/
def execLaunchAdmit (s : State) : Result :=
  let d := s.die s.cur
  match d.admits with
  | [] => .next s
  | a :: rest => match s.task a with
    | none => .next (s.setDie s.cur { d with admits := rest })
    | some t =>
      if 4096 < d.entries + t.entries then .next s
      else .next ((s.setDie s.cur { d with admits := rest, entries := d.entries + t.entries }).setTask { t with st := .held })

/-! ## Binding and opening (R366, R368, R370) -/

def runTiles (r : Nat × Nat) : List Nat := (List.range r.2).map (fun i => r.1 + i)
def GroupBind.covers (b : GroupBind) (tile : Nat) : Bool := b.run.1 ≤ tile && tile < b.run.1 + b.run.2
def runsMeet (l r : List (Nat × Nat)) : Bool := l.any (fun a => r.any (fun b => rangesMeet a.1 a.2 b.1 b.2))
/-- The NAMED binding of a task that covers a tile, as its step. -/
def namedStep (t : Task) (tile : Nat) : Option Nat :=
  (t.groups.find? (fun b => bindNamed b.word && b.covers tile)).map (fun b => bindStep b.word)
/-- The published slot with a STEP. -/
def slotWithStep (l : List VSlot) (st : Nat) : Option Nat :=
  (List.range 4).find? (fun k => match l[k]? with
    | some (.published _ x) => x == st
    | _ => false)
/-- The slot a read of the task would bind now (R370). -/
def bindSlot (s : State) (t : Task) (tile : Nat) : Option Nat :=
  match namedStep t tile with
  | some st => slotWithStep (s.vslots tile) st
  | none => bestSlot (s.vslots tile) (some t.acc)

/-- The slot of a tile's step has been freed, and none holds it again (R366, R414). -/
def State.stepGone (s : State) (tile st : Nat) : Bool :=
  (Tab.get [] s.gone tile).contains st && (s.vslots tile).all (fun v => v.step != some st)
/-- The tiles of the NAMED bindings of a task, with their steps. -/
def namedTiles (t : Task) : List (Nat × Nat) :=
  (t.groups.filter (fun b => bindNamed b.word)).flatMap (fun b => (runTiles b.run).map (fun x => (x, bindStep b.word)))

def TaskSt.live (st : TaskSt) : Bool := st == .ready || st == .running
/-- The hold conditions of R366 but for the records. -/
def holdMet (s : State) (t : Task) : Bool :=
  !s.tasks.any (fun u => u.die == t.die && u.acc < t.acc && u.st != .ended && runsMeet u.writes t.reads) &&
  (t.writes.flatMap runTiles).all (fun x => (s.vslots x).contains .free) &&
  (namedTiles t).all (fun x => (slotWithStep (s.vslots x.1) x.2).isSome)

/-- The stack and the stack-physical address of a tile, redirects followed, whichever access its page allows. -/
def tileFrame (s : State) (p tile : Nat) : Option (Nat × Nat) × State :=
  let place (k : Nat) : Nat × Nat := (keyStack k, (k - 2 ^ 40) % 2 ^ 36)
  match s.xlate p 0 (tile * 2 ^ 16) false true with
  | (.ok k, s) => (some (place k), s)
  | (_, s) => match s.xlate p 0 (tile * 2 ^ 16) true true with
    | (.ok k, s) => (some (place k), s)
    | (_, s) => (none, s)
/-- The contents of slot `src` of a tile are copied into slot `dst` (R368); a tile without a translation has none. -/
def copyTile (s : State) (p tile src dst : Nat) : State :=
  match tileFrame s p tile with
  | (some (st, pa), s) => s.writeAt grateHart (stackKey dst st pa) (s.bytesAt (stackKey src st pa) (2 ^ 16))
  | (none, s) => s

/-- Open a version of a tile for the task: its slot, with the newest published contents. -/
def openTile (s : State) (t : Task) (step tile : Nat) : State × Nat :=
  let l := s.vslots tile
  let k := l.findIdx (fun v => v == .free)
  let s := copyTile s t.part tile ((bestSlot l none).getD 0) k
  (s.setVslots tile (l.set k (.opened t.acc step)), k)

/-- The STEP with which the task opens a tile: the group's step for a WRITE binding, otherwise zero (R368, R407). -/
def openStep (t : Task) (tile : Nat) : Nat :=
  ((t.groups.find? (fun b => bindWrite b.word && b.covers tile)).map GroupBind.step).getD 0
def openAll (s : State) (t : Task) (tiles : List Nat) : State × List (Nat × Nat) :=
  tiles.foldl (fun (x : State × List (Nat × Nat)) tile =>
    let r := openTile x.1 t (openStep t tile) tile
    (r.1, x.2 ++ [(tile, r.2)])) (s, [])

/-- BOUNDVER (R28, R370): the low 16 bits of the STEP bound for each group binding. -/
def boundverOf (s : State) (t : Task) (bound : List (Nat × Nat)) : Word :=
  BitVec.ofNat 64 ((t.groups.zipIdx).foldl (fun a x =>
    let first := x.1.run.1
    let st := if bindNamed x.1.word then bindStep x.1.word
      else ((bound.lookup first).bind (fun k => ((s.vslots first)[k]?).bind VSlot.step)).getD 0
    a + st % 2 ^ 16 * 2 ^ (16 * x.2)) 0)

/-- Level coordinates of linear index `lin` (R28, R31): byte L is the coordinate at level L. -/
def levelWord : List (Nat × Nat) → Nat → Nat
  | [], _ => 0
  | l :: r, lin => lin % l.2 + 256 * levelWord r (lin / l.2)

/-- The record of thread `lin` is created and queued (R28, R366). A gang level's threads belong to the gang `gang0` + their gang. -/
def createRecord (s : State) (t : Task) (gang : Option Nat) (lin : Nat) (rcd : Word) : State :=
  let x := readRecord s t.part rcd
  let s := x.2
  let gen := (x.1.map (fun r => r.extractLsb' 288 16)).getD 0 + 1
  let c : Cont := { rcd := rcd, savearea := t.savebase + BitVec.ofNat 64 (lin * t.savestride), argblk := t.argblk
                    levels := BitVec.ofNat 64 (levelWord t.levels lin), taskid := t.taskid, gen := gen, launchblk := t.lb
                    boundver := t.boundver, lin := lin, part := t.part, acc := t.acc }
  let e : ReadyEnt := { rcd := rcd, acc := t.acc, lin := lin, taskid := t.taskid, prio := t.prio, since := s.now, rise := 0
                        stoker := none, core := none, cl := none, gang := gang, marked := false, first := true }
  (putRecord s grateHart c 0 (vecBytes (recordVec c t.entry 0xFF 1) 0 64)).enqueue t.part e

/-- Extent of a task's gang level, if it has one. -/
def Task.gangSize (t : Task) : Option Nat := (t.levels.find? (fun l => l.1 == 1)).map Prod.snd

/-- Bind, open, create records and queue them: the task is READY. -/
def readyTask (s : State) (t : Task) (rcds : List Word) : State :=
  let bound := (distinct (t.reads.flatMap runTiles)).filterMap (fun x => (bindSlot s t x).map (fun k => (x, k)))
  let t : Task := { t with bound := bound, boundver := boundverOf s t bound }
  let r := openAll s t (distinct (t.writes.flatMap runTiles))
  let t : Task := { t with opened := r.2, st := .ready, recs := rcds.map (fun w => (w, 0)) }
  let s := r.1.setTask t
  let n := match t.gangSize with
    | some g => g
    | none => 0
  let base := s.fresh
  let gangs := if n = 0 then 0 else t.threads / n
  let s : State := { s with fresh := s.fresh + gangs }
  let s := (List.range gangs).foldl (fun s k =>
    let g : Gang := { members := [], recs := (rcds.drop (k * n)).take n, cl := 0, acc := t.acc, head := 0, next := 0, todo := []
                      vals := (0, 0), released := [] }
    s.setGang (base + k) (some g)) s
  (rcds.zipIdx).foldl (fun s x => createRecord s t (if n = 0 then none else some (base + x.2 / n)) x.2 x.1) s

/-- LAUNCH_RELEASE: held task `cur` becomes READY when its hold is over; a NAMED step found freed refuses it. -/
def execLaunchRelease (s : State) : Result :=
  match s.task s.cur with
  | none => .next s
  | some t =>
    if t.st ≠ .held then .next s
    else if (namedTiles t).any (fun x => s.stepGone x.1 x.2) then
      let d := s.die t.die
      let s := (s.setDie t.die { d with entries := d.entries - t.entries }).setTask { t with st := .ended }
      .next (refuseLaunch s t.part t.lb t.group)
    else if !holdMet s t then .next s
    else match takeRecords s t.part t.threads with
    | (none, s) => .next s
    | (some rcds, s) => .next (readyTask s t rcds)

/-- VERSION_PUBLISH: slot `arg` of tile `cur`, opened by a task that has ended with no thread retired, is published in its turn
(R369). -/
def execVersionPublish (s : State) : Result :=
  let l := s.vslots s.cur
  match l[s.arg]? with
  | some (.opened a st) =>
    let ended := (s.task a).any (fun t => t.st == .ended && !t.retired)
    let earlier := l.any (fun v => match v with
      | .opened b _ => decide (b < a)
      | _ => false)
    if ended && !earlier then .next (s.setVslots s.cur (l.set s.arg (.published a st))) else .next s
  | _ => .next s

/-- VERSION_SLOT_FREE: slot `arg` of tile `cur` is published, superseded, bound by no live task and wanted by none that waits in the
grate that accepted the writer of the newest version (R370) (DEDUCED, log 29). -/
def execVersionSlotFree (s : State) : Result :=
  let l := s.vslots s.cur
  match l[s.arg]? with
  | some (.published a _) =>
    let newest := ((l.filterMap VSlot.pubAcc).max?).getD 0
    let grate := (s.task newest).map (fun t => t.die)
    let held := s.tasks.any (fun t =>
      (t.st.live && t.bound.contains (s.cur, s.arg)) ||
      ((t.st == .admitted || t.st == .held) && grate == some t.die && t.reads.any (fun r => r.1 ≤ s.cur && s.cur < r.1 + r.2) &&
        bindSlot s t s.cur == some s.arg))
    if a < newest && !held then .next (s.freeSlot s.cur s.arg) else .next s
  | _ => .next s

end Sys2Proof.Machine
end

