-- ==== Sys2Proof/Machine/Grate.lean ====
section
/-! DEFINITION. Placement by the grates (02, 19): pickups, instances, gangs and their drains, aging, pre-emption marks, deadlines,
wakes from WAITC and the trap queue. -/

namespace Sys2Proof.Machine

/-! ## Core instances (R41, R42) -/

/-- The ready members of an entry's core instance that are placed as threads of their own. -/
def instanceOf (s : State) (t : Task) (e : ReadyEnt) : List ReadyEnt := (instanceReady s t e).filter (fun f => f.gang.isNone)

/-- No member of the instance holds a thread set. -/
def instanceStill (s : State) (t : Task) (e : ReadyEnt) : Bool :=
  !s.threads.any (fun x => kindOf x.1 == .core && x.2.run != .idle && x.2.cont.acc == t.acc && t.coreOf x.2.cont.lin == t.coreOf e.lin)
/-- Core instance `i` of a task holds its core against the task's other instances, each of which has a core of its own (R38): a thread
of it is on a thread set, or waits or is ready to go back there. One that was saved, or has ended, leaves its core to any (R41). -/
def instanceHolds (s : State) (t : Task) (i : Nat) : Bool :=
  let mine (acc lin : Nat) : Bool := acc == t.acc && t.coreOf lin == some i
  let ready := (s.part t.part).ready.filter (fun e => mine e.acc e.lin)
  s.threads.any (fun x => kindOf x.1 == .core && x.2.run != .idle && mine x.2.cont.acc x.2.cont.lin) ||
  ((!ready.isEmpty || (s.part t.part).waiting.any (fun w => mine w.ent.acc w.ent.lin)) &&
    !(t.preempted.contains i && ready.any (fun f => f.marked)))

/-- The cores inside its clusters that a ready continuation may run on, whoever holds them (R38, R41, PIN): its core instance's own,
any where that resumes elsewhere, and none that another instance of its task holds. -/
def coreHeld (s : State) (t : Task) (e : ReadyEnt) (core : Nat) : Bool :=
  ((judged s t e).core.map (fun k => k == core)).getD true &&
  (match t.pin with
   | some (_, some k) => core % 8 == k
   | _ => true) &&
  (match t.coreOf e.lin with
   | none => true
   | some i => ((t.cores.lookup i).all (fun k => instanceMoves s t e || k == core)) &&
     (!t.narrow || t.cores.all (fun x => x.1 == i || x.2 != core || !instanceHolds s t x.1)))
/-- The cores that a ready continuation may run on, whoever holds them (R38, R40, R41, PIN). -/
def coreFits (s : State) (t : Task) (e : ReadyEnt) (core : Nat) : Bool :=
  let cl := core / 8
  (s.cluster cl).up && (clustersFor s t e.lin).contains cl && ((judged s t e).cl.map (fun c => c == cl)).getD true && coreHeld s t e core
/-- Whether a ready continuation may be placed on a core, its idle thread sets aside: no gang runs there or drains it (R47, R48). -/
def coreAllowed (s : State) (t : Task) (e : ReadyEnt) (core : Nat) : Bool := coreFits s t e core && !s.closedCore core

/-! ## Pickups (R30, R32, R372) -/

/-- Current priority of a ready continuation (R54). -/
def ReadyEnt.level (e : ReadyEnt) : Nat := min 7 (e.prio + e.rise)
/-- `a` is picked before `b` (R372). -/
def pickedBefore (a b : ReadyEnt) : Bool :=
  if a.level ≠ b.level then b.level < a.level
  else if a.since ≠ b.since then a.since < b.since
  else if a.taskid ≠ b.taskid then a.taskid.toNat < b.taskid.toNat
  else a.lin < b.lin

/-- The core an entry goes to now: in the allowed cluster with the most idle thread sets, the allowed core with the most. A
pre-empted core instance needs room for all its ready members, a core of its own when it moves, and goes after a gang that one of its
threads waits in. -/
def placeFor (s : State) (t : Task) (e : ReadyEnt) : Option Nat :=
  let whole := wholeOnly t e
  let all := instanceOf s t e
  if whole && (!instanceStill s t e || (instanceReady s t e).any (fun f => f.gang.isSome)) then none
  else
    let moves := instanceMoves s t e
    let room := if whole then all.length else 1
    let ok (core : Nat) : Bool :=
      (if moves then s.idleOn core == 4 else decide (room ≤ s.idleOn core)) && coreAllowed s t e core
    let cls := (clustersFor s t e.lin).filter (fun c => (List.range 8).any (fun k => ok (8 * c + k)))
    (leastBy (fun a b => s.idleIn b < s.idleIn a || (s.idleIn a == s.idleIn b && a < b)) cls).bind (fun c =>
      leastBy (fun a b => s.idleOn b < s.idleOn a || (s.idleOn a == s.idleOn b && a < b))
        (((List.range 8).map (fun k => 8 * c + k)).filter ok))
/-- The idle thread sets of a core, or of a stoker, lowest first. -/
def State.idleSets (s : State) (first n : Nat) : List Hart := ((List.range n).map (fun i => first + i)).filter s.idleAt

/-- A record that fails its check before placement is retired (R30); a RUN job ends with it (R302). -/
def badRecord (s : State) (p : Nat) (c : Cont) (pc : Word) : State :=
  let s := (putStatus s grateHart c 8).countPart p pBadRecord
  let s := grateTrap s p .illegal 0 (some c) (some pc)
  match s.runJob p c.rcd with
  | some (n, j) => (putStatus (chanEnd s grateHart j 2 4 0 .idle) grateHart c 0).setJob n none
  | none => endRecord s grateHart c 8

/-- A copy job that has come to another stoker goes on with the hart that holds its continuation (R305). -/
def takeBack (s : State) (h : Hart) (c : Cont) : State :=
  match s.runJob c.part c.rcd with
  | some (n, j) => if j.kind = 6 then s else (s.setJob n none).setJob h (some j)
  | none => s

/-- The record of a ready continuation is checked, then placed, or retired as bad (R30, R32); a continuation that changes stoker has
STATUS 6 (R305) (DEDUCED, log 23). Where the record's page does not translate, free bytes are checked in its place, so that it may pass
or fail (DESIGN CHOICE, log 41). -/
def pickOne (s : State) (p : Nat) (e : ReadyEnt) (h : Hart) : State :=
  let s := s.setPart p { s.part p with ready := (s.part p).ready.filter (fun f => f.rcd != e.rcd) }
  let x := readRecord s p e.rcd
  let s := x.2
  let r := x.1.getD
    (bytesVec ((List.range 64).map (fun i => Config.freeByte ((s.fresh + s.now) * 2 ^ 44 + e.rcd.toNat % 2 ^ 20 + i))))
  let c := contOf e.rcd r e.acc e.lin p
  if (recStatus r == 1 || recStatus r == 3 || recStatus r == 4 || (recStatus r == 6 && e.stoker.isSome)) &&
      r.extractLsb' 448 64 == 0#64 then
    let s := match s.task e.acc with
      | some t =>
        let t : Task := { t with st := if t.st == .ready then .running else t.st, inst := (instances s t).getD t.inst }
        s.setTask (if kindOf h = .core then t.onCore e.lin (hartCore h) else t)
      | none => s
    let s := placeOn s h c (recPc r) (!e.first)
    takeBack (s.setThread h { s.thread h with gang := e.gang }) h c
  else badRecord s p c (recPc r)

/-- Where an entry may be placed now: the first thread set, and with it the entries placed at once. A job's record waits while the
mailbox record that a bad one would end with does (R85). -/
def placeable (s : State) (e : ReadyEnt) : Option (List (ReadyEnt × Hart)) :=
  if e.gang.isSome then none
  else match e.stoker with
  | some sk =>
    if (s.stack (sk / 12)).up && !s.recordWaits (s.partOfDie (sk / 24)) e.rcd then ((s.idleSets (12288 + 16 * sk) 16).head?).map (fun h => [(e, h)]) else none
  | none => (s.task e.acc).bind (fun t => (placeFor s t e).map (fun core =>
      (if wholeOnly t e then instanceOf s t e else [e]).zip (s.idleSets (4 * core) 4)))

/-- The gangs that wait in ready queues, by number. -/
def waitingGangs (s : State) : List (Nat × List ReadyEnt) :=
  s.gangs.filterMap (fun x => x.2.bind (fun g => (readyGang s x.1 g).map (fun l => (x.1, l))))

/-- The ways to choose `n` elements of a list, in its order. -/
def choose {α : Type} : Nat → List α → List (List α)
  | 0, _ => [[]]
  | _ + 1, [] => []
  | n + 1, x :: r => (choose n r).map (x :: ·) ++ choose (n + 1) r
/-- A member of a waiting gang may run on a core (R38, R41): one whose core instance was saved on any, another on its own; and no core
instance that was pre-empted has a thread running (R42). -/
def memberFits (s : State) (e : ReadyEnt) (core : Nat) : Bool :=
  (s.task e.acc).any (fun t => coreHeld s t e core && (!wholeOnly t e || instanceStill s t e))
/-- The members of a waiting gang may run on these cores, each on the one at its place. -/
def gangFits (s : State) (l : List ReadyEnt) (cores : List Nat) : Bool := (l.zip cores).all (fun x => memberFits s x.1 x.2)
/-- The ways to give each entry a core of its own, among some cores, that it may run on. -/
def arrange (s : State) : List ReadyEnt → List Nat → List (List Nat)
  | [], _ => [[]]
  | e :: r, among => (among.filter (memberFits s e)).flatMap (fun k => (arrange s r (among.filter (fun x => x != k))).map (k :: ·))
/-- The cores among some that fit a waiting gang, in member order: increasing (R38), and where no such choice fits a gang that GANG
formed, whose members may have changed cores one by one (R41), in any order (DEDUCED, log 41). -/
def gangCores (s : State) (l : List ReadyEnt) (among : List Nat) : Option (List Nat) :=
  match ((choose l.length among).map (sortBy (fun a b => a < b))).find? (gangFits s l) with
  | some k => some k
  | none =>
    if (l.head?.bind (fun e => s.task e.acc)).any (fun t => t.levels.any (fun x => x.1 == 1)) then none else (arrange s l among).head?

/-- Where a waiting gang can be placed now: on the cores drained for it, or on the lowest fully idle cores that its members may run on,
in the cluster with the most idle thread sets, always inside its instances (R40, R41, R47, R48, R372) (DEDUCED, log 29). -/
def gangPlaceFor (s : State) (g : Nat) (l : List ReadyEnt) : Option (Nat × List Nat) :=
  let free (c : Nat) : List Nat := (wholeIdle s c).filter (fun k => !s.closedCore k)
  match s.clusters.findSome? (fun c => c.2.drain.bind (fun d => if d.gang = g then some (c.1, d.cores) else none)) with
  | some (c, k) =>
    if (gangClusters s l).contains c && k.all (fun x => (wholeIdle s c).contains x) && gangFits s l k then some (c, k) else none
  | none =>
    ((leastBy (fun a b => s.idleIn b < s.idleIn a || (s.idleIn a == s.idleIn b && a < b))
      ((gangClusters s l).filter (fun c => (gangCores s l (free c)).isSome)))).bind (fun c => (gangCores s l (free c)).map (fun k => (c, k)))

/-- What a grate may place next: continuations on thread sets, or a waiting gang on cores of a cluster. -/
inductive Pick where
  | some (l : List (ReadyEnt × Hart))
  | gang (g : Nat) (l : List ReadyEnt) (cl : Nat) (cores : List Nat)
  deriving DecidableEq, Repr

/-- The next pick of partition `p`: the first in the order of R372 that can be placed now, a gang by its leader's entry. -/
def nextPick (s : State) (p : Nat) : Option (ReadyEnt × Pick) :=
  let ones := (s.part p).ready.filterMap (fun e => (placeable s e).map (fun l => (e, Pick.some l)))
  let gangs := (waitingGangs s).filterMap (fun x => x.2.head?.bind (fun e =>
    if (s.part p).ready.contains e then (gangPlaceFor s x.1 x.2).map (fun k => (e, Pick.gang x.1 x.2 k.1 k.2)) else none))
  leastBy (fun a b => pickedBefore a.1 b.1) (ones ++ gangs)

/-- The other members of a core instance, at WAITC or ready, those of a gang included, follow it to the core where it resumes (R41). -/
def moveWaiting (s : State) (t : Task) (e : ReadyEnt) (core : Nat) : State :=
  let x := s.part t.part
  let put (f : ReadyEnt) : ReadyEnt :=
    if f.acc == e.acc && (t.coreOf e.lin).isSome && t.coreOf f.lin == t.coreOf e.lin then
      { f with core := some core, cl := some (core / 8), marked := false } else f
  s.setPart t.part { x with waiting := x.waiting.map (fun w => { w with ent := put w.ent }), ready := x.ready.map put }

/-- A pre-empted core instance has resumed as a whole (R42). -/
def resumeWhole (s : State) (e : ReadyEnt) (core : Nat) : State :=
  match s.task e.acc with
  | none => s
  | some t =>
    if wholeOnly t e then
      moveWaiting (s.setTask { t with preempted := t.preempted.filter (fun i => t.coreOf e.lin != some i) }) t e core
    else s

/-- PICKUP: the grates of partition `cur` make their next pick; a gang's is made by GANG_PLACE. -/
def execPickup (s : State) : Result :=
  match nextPick s s.cur with
  | some (e, .some l) =>
    .next (resumeWhole (l.foldl (fun st x => pickOne st s.cur x.1 x.2) s) e (hartCore ((l.head?.map Prod.snd).getD 0)))
  | _ => .next s

/-! ## Waking, aging, marks and deadlines (R52, R54, R198, R376) -/

/-- WAITC_WAKE: the record at address word `cur` has met its condition: STATUS 1, and it is queued at its launched priority. -/
def execWaitcWake (s : State) : Result :=
  match s.parts.findSome? (fun p => (p.2.waiting.find? (fun w => w.rcd.toNat == s.cur && w.met)).map (fun w => (p.1, w))) with
  | none => .next s
  | some (p, w) =>
    let s := putStatus s grateHart { rcd := w.rcd, part := p } 1
    let x := s.part p
    let s := s.setPart p { x with waiting := x.waiting.filter (fun v => v.rcd != w.rcd) }
    .next (s.enqueue p { w.ent with since := s.now, rise := 0 })

/-- Change the ready entry of a record. -/
def State.onReady (s : State) (rcd : Nat) (f : ReadyEnt → ReadyEnt) : State :=
  { s with parts := s.parts.map (fun (p : Nat × Part) =>
      (p.1, { p.2 with ready := p.2.ready.map (fun e => if e.rcd.toNat == rcd then f e else e) })) }
/-- The ready entry of a record and its partition. -/
def State.readyOf (s : State) (rcd : Nat) : Option (Nat × ReadyEnt) :=
  s.parts.findSome? (fun p => (p.2.ready.find? (fun e => e.rcd.toNat == rcd)).map (fun e => (p.1, e)))

/-- PRIORITY_AGING: the ready record at `cur` has waited another 2^16 cycles. -/
def execPriorityAging (s : State) : Result :=
  match s.readyOf s.cur with
  | none => .next s
  | some (_, e) =>
    if e.level < 7 && e.since + (e.rise + 1) * 2 ^ 16 ≤ s.now then .next (s.onReady s.cur (fun e => { e with rise := e.rise + 1 }))
    else .next s

/-- A running thread is marked (R51, R97, R107): a mark it has, or a save routine it is in, stands. -/
def markOne (s : State) (h : Hart) : State :=
  let t := s.thread h
  if kindOf h = .core && t.live && t.mark.isNone && t.savemode.isNone then
    s.setThread h { t with mark := some (s.now + t.regs.ctl.pdead.toNat) }
  else s
/-- The threads of the core or gang instance of a running thread, itself among them (R42, R50). -/
def instanceHarts (s : State) (h : Hart) : List Hart :=
  let t := s.thread h
  match t.gang with
  | some g => (s.threads.filter (fun x => x.2.gang == some g)).map Prod.fst
  | none => match s.task t.cont.acc with
    | none => [h]
    | some k => match k.coreOf t.cont.lin with
      | none => [h]
      | some i => h :: (s.threads.filter (fun x => x.1 != h && kindOf x.1 == .core && x.2.live &&
          x.2.cont.acc == k.acc && k.coreOf x.2.cont.lin == some i)).map Prod.fst
/-- The core instance of a marked thread, where it has one, resumes as a whole (R42). -/
def notePreempted (s : State) (h : Hart) : State :=
  let c := (s.thread h).cont
  match (s.task c.acc).bind (fun k => (k.coreOf c.lin).map (fun i => (k, i))) with
  | some (k, i) => if k.preempted.contains i then s else s.setTask { k with preempted := i :: k.preempted }
  | none => s
/-- A mark and the marks that go with it (R42): the core instance resumes as a whole, and so does that of every member of a gang
(R50). -/
def markThread (s : State) (h : Hart) : State :=
  let l := instanceHarts s h
  let s := l.foldl markOne s
  if kindOf h = .core && (s.thread h).live then l.foldl notePreempted s else s

/-- A running thread that a waiting continuation may have marked (R376). Its core may be a running gang's, all of which is marked
(R50), or one drained for a gang, for a member of that gang. -/
def victim (s : State) (t : Task) (e : ReadyEnt) (h : Hart) : Option (Nat × Nat × Nat) :=
  let x := s.thread h
  if kindOf h ≠ .core || !x.live || x.mark.isSome then none
  else match s.task x.cont.acc with
  | none => none
  | some k =>
    let drains := (s.cluster (hartCl h)).drain.any (fun d => d.cores.contains (hartCore h) && e.gang != some d.gang)
    if k.prio + 1 < e.level && !k.safes.isEmpty && coreFits s t e (hartCore h) && !drains then some (k.prio, x.placed, x.cont.taskid.toNat) else none

/-- PREEMPT_MARK: the ready record at `cur` has waited 2^14 cycles with no thread set for it; one running continuation is
marked. A stoker's continuation may run on no core's thread set, and stoker harts are never marked. -/
def execPreemptMark (s : State) : Result :=
  match s.readyOf s.cur with
  | none => .next s
  | some (_, e) => match s.task e.acc with
    | none => .next s
    | some t =>
      let out := match e.asked with
        | some (h, rcd) => (s.thread h).mark.isSome && (s.thread h).cont.rcd == rcd
        | none => false
      let fits := (placeable s e).isSome || (waitingGangs s).any (fun x => e.gang == some x.1 && (gangPlaceFor s x.1 x.2).isSome)
      if e.stoker.isSome || e.prio < 2 || s.now < e.since + 2 ^ 14 || out || fits then .next s
      else
        let l := s.threads.filterMap (fun x => (victim s t e x.1).map (fun v => (v, x.1)))
        let before (a b : (Nat × Nat × Nat) × Hart) : Bool :=
          if a.1.1 ≠ b.1.1 then a.1.1 < b.1.1
          else if a.1.2.1 ≠ b.1.2.1 then a.1.2.1 < b.1.2.1
          else a.1.2.2 < b.1.2.2
        match leastBy before l with
        | none => .next s
        | some (_, h) => .next ((markThread s h).onReady s.cur (fun e => { e with asked := some (h, (s.thread h).cont.rcd) }))

/-- A drain for a group of GANG ends when one of its threads is gone (R49, R201). -/
def leaveGroup (s : State) (h : Hart) : State :=
  let c := s.cluster (hartCl h)
  match c.drain, (s.thread h).wait with
  | some d, .gang _ => if d.gang = 0 && d.cores.contains (hartCore h) then s.setCluster (hartCl h) { c with drain := none } else s
  | _, _ => s

/-- The chunk of a hart whose deadline has passed is squashed and not run again (R52). -/
def dropChunk (s : State) (h : Hart) : State :=
  let t := s.thread h
  let s := (s.setThread h { t with regs := t.chunk.begun, chunk := { begun := t.chunk.begun } }).settlePops h []
  if kindOf h = .core then s.countCl (hartCl h) cSquash 1 else s

/-- OVERDUE: the deadline of hart `cur` has passed (R52, R110, R207). A chunk that cannot commit is squashed and not run again; a
halted thread is about to issue the head after HALT (DEDUCED, log 32). An MNF that was due is counted instead (R113). Stores pending
for its register window land, its chunk being at an end (R61). The thread runs no further head; its STATUS 8 is written after the trap
record, and the task ends with it. -/
def execOverdue (s : State) : Result :=
  let h := s.cur
  let t := s.thread h
  if t.run = .retiring then .next (finishRetiring s h)
  else if !t.live || !(match t.mark with
      | some d => decide (d ≤ s.now)
      | none => false) then .next s
  else
    let s := match s.endChunk h with
      | .ok s => s
      | .error _ => dropChunk s h
    let s := s.drain h
    let s := if t.mnf.isSome then s.countCl (hartCl h) cMnf 1 else s
    let u := s.thread h
    let s := if u.run = .halted then s.setThread h { u with regs := { u.regs with pc := s.fall h } } else s
    let i := { trapHere s h .overdue 0 0 with parked := false }
    let p := t.cont.part
    let d := trapData h t.cont t.savemode.isSome t.gang.isSome i
    let s := s.setPart p { s.part p with traps := (s.part p).traps ++ [{ data := d, retire := some (h, t.cont) }] }
    let s := landAll ((leaveGroup (leaveGang (s.releaseArray h) h) h).dropToken h) h
    let u := s.thread h
    .next ((s.countPart p pOverdue).setThread h { u with
      run := .retiring, chunk := { begun := u.regs }, wait := .none, mark := none, mnf := none, gang := none, replay := [], path := [] })

/-! ## Gangs (R47 to R50, R200) -/

/-- A thread joins the first group of its task and size that is short of members and holds no thread of its core (R200). -/
def joinGroup (k : Nat × Nat) (h : Hart) : List ((Nat × Nat) × List Hart) → List ((Nat × Nat) × List Hart)
  | [] => [(k, [h])]
  | x :: r =>
    if x.1 == k && x.2.length < k.2 && !(x.2.map hartCore).contains (hartCore h) then (k, x.2 ++ [h]) :: r
    else x :: joinGroup k h r

/-- The groups that threads of a cluster stalled at GANG form, in the order they issued it: complete ones only (R200). -/
def formedGroups (s : State) (cl : Nat) : List (List Hart) :=
  let w := (s.threads.filter (fun x => hartCl x.1 == cl && kindOf x.1 == .core && x.2.run == .running && (match x.2.wait with
    | .gang _ => true
    | _ => false)))
  let key (t : Thread) : Nat × Nat := (t.cont.acc, match t.wait with
    | .gang g => g
    | _ => 0)
  let order := sortBy (fun a b => a.2.since < b.2.since || (a.2.since == b.2.since && a.1 ≤ b.1)) w
  let groups := order.foldl (fun l x => joinGroup (key x.2) x.1 l) []
  (groups.filter (fun x => x.2.length == x.1.2)).map (fun x => sortBy (fun a b => a < b) x.2)

/-- Who would drain cluster `cl`: the cycle its wait began, its task, its gang (0 for a complete group of GANG) and the cores it
gets. A gang waits 2^20 cycles first (R48, R200). -/
def drainers (s : State) (cl : Nat) : List (Nat × Nat × Nat × List Nat) :=
  let order := sortBy (fun a b => s.idleOn b < s.idleOn a || (s.idleOn a == s.idleOn b && a < b)) ((List.range 8).map (fun k => 8 * cl + k))
  (formedGroups s cl).map (fun g => ((g.map (fun h => (s.thread h).since)).foldl max 0,
    (s.thread (g.head?.getD 0)).cont.taskid.toNat, 0, g.map hartCore)) ++
  (waitingGangs s).filterMap (fun x => (s.gang x.1).bind (fun g =>
    if g.waitFrom + 2 ^ 20 ≤ s.now && gangCand s g x.2 == some cl then
      (gangCores s x.2 order).map (fun k => (g.waitFrom, (x.2.head?.map (fun e => e.taskid.toNat)).getD 0, x.1, k))
    else none))

/-- GANG_DRAIN: cluster `cur`, which drains for nobody, drains for the one that has waited longest, on a tie the lower task, of the
gangs whose candidate it is and the groups of GANG formed in it (R48, R49, R200). -/
def execGangDrain (s : State) : Result :=
  let cl := s.cur
  let c := s.cluster cl
  if c.drain.isSome then .next s
  else match leastBy (fun a b => a.1 < b.1 || (a.1 == b.1 && a.2.1 < b.2.1)) (drainers s cl) with
  | none => .next s
  | some (_, _, g, cores) =>
    let s := match s.gang g with
      | some x => (s.fixInst x.acc).setGang g (some { x with cand := some cl })
      | none => s
    .next (s.setCluster cl { c with drain := some { cores := cores, gang := g } })

/-- The drain of a cluster ends with the placement of its gang: the waits of the other gangs that would drain the cluster start again (R49). -/
def endDrain (s : State) (cl : Nat) : State :=
  let s := s.setCluster cl { s.cluster cl with drain := none }
  (waitingGangs s).foldl (fun s x => match s.gang x.1 with
    | some g => if gangCand s g x.2 = some cl then s.setGang x.1 (some { g with waitFrom := s.now }) else s
    | none => s) s

/-- A gang whose members `m`, each with its record, now stand on their thread sets goes on as one: at the record PC of a leader that has
come back to go on from there, otherwise where its leader went. A member that has the leader's head yet to issue stands at it; each
other goes on with the leader (R202, R208) (DEDUCED, log 31). `back` are the harts that have been placed now and `todo` those with a
head to issue. -/
def joinGang (s : State) (g : Nat) (x : Gang) (cl : Nat) (m : List (Hart × Word)) (back todo : List Hart) : State :=
  match m with
  | [] => s.setGang g none
  | (lead, _) :: rest =>
    let leadsOn := back.contains lead && !todo.contains lead && !x.redo
    let next := if leadsOn then (s.thread lead).regs.pc else x.next
    let s := rest.foldl (fun s k =>
      if todo.contains k.1 || !(leadsOn || back.contains k.1) then s else s.setThread k.1 ((s.thread k.1).sendTo next)) s
    s.setGang g (some { x with
      members := m.map Prod.fst, recs := m.map Prod.snd, cl := cl, next := next, todo := todo.filter (fun h => (m.map Prod.fst).contains h)
      released := [], back := [], cand := none })

/-- A waiting gang is placed on cores of a cluster, each member on the core at its place, coordinate c of a gang level on the c-th
lowest (R38); the core instances of its members follow
it there (R41). A member whose record is bad is retired and takes no part. -/
def placeGang (s : State) (cl g : Nat) (l : List ReadyEnt) (cores : List Nat) : State :=
  let p := ((l.head?.bind (fun e => s.task e.acc)).map (fun t => t.part)).getD 0
  let pairs := l.zip (cores.map (fun c => 4 * c))
  let s := pairs.foldl (fun s x => pickOne s p x.1 x.2) s
  let s := pairs.foldl (fun s x => resumeWhole s x.1 (hartCore x.2)) s
  let m := (pairs.filter (fun x => (s.thread x.2).gang == some g)).map (fun x => (x.2, x.1.rcd))
  let s := match s.gang g with
    | some x =>
      let late : List Word := ((x.members.zip x.recs).filter (fun (k : Hart × Word) => x.todo.contains k.1)).map Prod.snd
      joinGang s g x cl m (m.map Prod.fst) ((m.filter (fun (k : Hart × Word) => late.contains k.2)).map Prod.fst)
    | none => s
  match (s.cluster cl).drain with
  | some d => if d.gang = g then endDrain s cl else s
  | none => s

/-- The gangs with members that go back to their cores after TRET: all of them ready, and no member left that is parked or halted
(R208). -/
def rejoining (s : State) (cl : Nat) : Option (Nat × Gang × List (ReadyEnt × Hart)) :=
  s.gangs.findSome? (fun x => x.2.bind (fun g =>
    if g.cl ≠ cl || g.back.isEmpty || !(s.stoppedIn g).isEmpty then none
    else (s.task g.acc).bind (fun t =>
      let l := (g.members.zip g.recs).filterMap (fun k =>
        if g.back.contains k.2 then ((s.part t.part).ready.find? (fun e => e.rcd == k.2)).map (fun e => (e, k.1)) else none)
      if l.length = g.back.length && l.all (fun k => s.idleAt k.2) then some (x.1, g, l) else none)))

/-- Released members of a gang are placed on their cores and the gang goes on as one (R208). -/
def rejoinGang (s : State) (g : Nat) (x : Gang) (l : List (ReadyEnt × Hart)) : State :=
  let p := ((s.task x.acc).map (fun t => t.part)).getD 0
  let s := l.foldl (fun s k => pickOne s p k.1 k.2) s
  let back := l.map Prod.snd
  joinGang s g x x.cl ((x.members.zip x.recs).filter (fun k => !back.contains k.1 || (s.thread k.1).gang == some g)) back x.todo

/-- A complete group of GANG starts: its members go on from the head after the leader's GANG (R200). -/
def startGroup (s : State) (cl : Nat) (g : List Hart) : State :=
  let lead := g.head?.getD 0
  let pc := s.fall lead
  let id := s.fresh
  let x : Gang := { members := g, recs := g.map (fun h => (s.thread h).cont.rcd), cl := cl, acc := (s.thread lead).cont.acc
                    head := (s.thread lead).regs.pc, next := pc, todo := [], vals := (0, 0), released := [] }
  let s := State.setGang { s with fresh := s.fresh + 1 } id (some x)
  let s := g.foldl (fun s h =>
    let t := s.thread h
    let r := { t.regs with pc := pc }
    s.setThread h { t with regs := r, chunk := { begun := r }, wait := .none, gang := some id }) s
  match (s.cluster cl).drain with
  | some d => if d.gang = 0 && d.cores == g.map hartCore then endDrain s cl else s
  | none => s

/-- GANG_PLACE: in cluster `cur`, a complete group of GANG whose cores have no other thread starts, released members go back to
their gang, or the gang that is the next pick is placed (R372). -/
def execGangPlace (s : State) : Result :=
  let cl := s.cur
  match (formedGroups s cl).find? (fun g => g.all (fun h => s.idleOn (hartCore h) == 3)) with
  | some g => .next (startGroup s cl g)
  | none => match rejoining s cl with
    | some (g, x, l) => .next (rejoinGang s g x l)
    | none => match nextPick s (s.partOfDie (cl / 96)) with
      | some (_, .gang g l c cores) => if c = cl then .next (placeGang s cl g l cores) else .next s
      | _ => .next s

/-! ## The trap queue (R116, R117) -/

/-- One more trap is lost (R116): the count in the vector, where it can be written, and the partition's counter (DEDUCED, log 29).
While no trap vector has been declared, no LOST field exists and nothing is written (DESIGN CHOICE, log 49). -/
def loseTrap (s : State) (p : Nat) : State :=
  let w := (s.part p).tvec
  let s := s.countPart p pLost
  if !isVA w then s
  else match s.readVA p 0 (vaOf w + 40) 8 with
  | (some b, s) => (s.writeVA grateHart p 0 (vaOf w + 40) (leBytes 8 (leNat b + 1))).2
  | (none, s) => s

/-- The continuation that OVERDUE ended takes STATUS 8 once its trap record is written or lost (R110). -/
def finishRetire (s : State) (r : TrapRec) : State :=
  match r.retire with
  | some (h, _) => finishRetiring s h
  | none => s

/-- The trap vector's fields are valid (R116). -/
def vectorOk (s : State) (p : Nat) (v : Vec) : Bool :=
  let f (lo n : Nat) : Nat := (v.extractLsb' lo n).toNat
  let q := v.extractLsb' 0 64
  let c := v.extractLsb' 128 64
  f 64 4 == 0 && f 73 55 == 0 && f 384 128 == 0 && 6 ≤ f 68 5 && f 68 5 ≤ 16 && isVA q && f 0 6 == 0 &&
  isOA c && oaSpace c.toNat == some .counter && c.toNat % 8 == 0 && s.dieIn p (oaDie c.toNat)

/-- The grate writes one trap record (R117), or loses it (DEDUCED, log 41). Where the vector's page can be read and not written, TAIL
keeps its value while the record is written and the counter raised (DESIGN CHOICE, log 41). -/
def writeTrap (s : State) (p : Nat) (r : TrapRec) : State :=
  let w := (s.part p).tvec
  match (if isVA w then s.readVA p 0 (vaOf w) 64 else (none, s)) with
  | (none, s) => loseTrap s p
  | (some b, s) =>
    let v : Vec := bytesVec b
    let q := v.extractLsb' 0 64
    let log := (v.extractLsb' 68 5).toNat
    let cnt := v.extractLsb' 128 64
    let head := v.extractLsb' 192 64
    let tail := v.extractLsb' 256 64
    let oa := cnt.toNat
    if !vectorOk s p v then loseTrap s p
    else if 2 ^ log ≤ (tail - head).toNat then loseTrap s p
    else
      let slot := vaOf q + 64 * (tail.toNat % 2 ^ log)
      let data := r.data ||| (BitVec.ofNat 512 (tail.toNat % 2 ^ 32 * 2 ^ 480))
      match s.writeVA grateHart p 0 slot (vecBytes data 0 64) with
      | (false, s) => (loseTrap s p).logEvent 10 p 0
      | (true, s) =>
        let s := (s.writeVA grateHart p 0 (vaOf w + 32) (leBytes 8 (tail.toNat + 1))).2
        countUp (s.noteLines (oaCl oa) [lineOf oa] grateHart) (oaCl oa) (oaOff oa / 8)

/-- TRAP_QUEUE_WRITE: the oldest trap of partition `cur`. -/
def execTrapQueueWrite (s : State) : Result :=
  let p := s.cur
  match (s.part p).traps with
  | [] => .next s
  | r :: rest => .next (finishRetire (writeTrap (s.setPart p { s.part p with traps := rest }) p r) r)

end Sys2Proof.Machine
end

