-- ==== Sys2Proof/Machine/Sha3.lean ====
section
/-! DEFINITION. SHA3-512, the digest that the controller's measurement is made of (R428), as the standard of that name has it
(PRESUMED, log 26: FIPS 202). -/

namespace Sys2Proof.Machine

/-- The walk that sets the rotation of each lane: from lane (1, 0), lane (x, y) goes on to (y, 2x + 3y), and the lane at step
`t` turns by the triangular number of `t + 1`.  Lane (0, 0) is not on the walk and does not turn. -/
def keccakWalk : Nat → Nat × Nat
  | 0 => (1, 0)
  | t + 1 => let p := keccakWalk t; (p.2, (2 * p.1 + 3 * p.2) % 5)
/-- By how many bits lane (x, y) turns. -/
def keccakRot (x y : Nat) : Nat :=
  ((List.range 24).map (fun t => if keccakWalk t = (x % 5, y % 5) then (t + 1) * (t + 2) / 2 % 64 else 0)).sum
/-- The shift register of 8 bits that the round constants are read from, after `t` shifts: a bit that falls out at the top comes
back in the places of x^8 + x^6 + x^5 + x^4 + 1. -/
def keccakShift : Nat → Nat
  | 0 => 1
  | t + 1 => let v := 2 * keccakShift t; if v < 256 then v else (v % 256) ^^^ 0x71
/-- The constant of round `r`: bit 2^j - 1 of the lane is the low bit of the register after j + 7r shifts. -/
def keccakRc (r : Nat) : Word :=
  BitVec.ofNat 64 ((List.range 7).map (fun j => keccakShift (j + 7 * r) % 2 * 2 ^ (2 ^ j - 1))).sum

/-- Lane (x, y) of a state of 25 lanes. -/
def lane (a : List Word) (x y : Nat) : Word := (a[x % 5 + 5 * (y % 5)]?).getD 0
/-- One round: column parities, rotation and permutation of the lanes, the row step, and the round constant. -/
def keccakRound (a : List Word) (rc : Word) : List Word :=
  let c := (List.range 5).map (fun x => lane a x 0 ^^^ lane a x 1 ^^^ lane a x 2 ^^^ lane a x 3 ^^^ lane a x 4)
  let d := (List.range 5).map (fun x => lane c (x + 4) 0 ^^^ (lane c (x + 1) 0).rotateLeft 1)
  let a := (List.range 25).map (fun i => lane a i (i / 5) ^^^ lane d i 0)
  let b := (List.range 25).map (fun i =>
    let x := i % 5 + 3 * (i / 5)
    (lane a x i).rotateLeft (keccakRot x i))
  (List.range 25).map (fun i =>
    let v := lane b i (i / 5) ^^^ (~~~(lane b (i + 1) (i / 5)) &&& lane b (i + 2) (i / 5))
    if i = 0 then v ^^^ rc else v)
def keccak (a : List Word) : List Word := (List.range 24).foldl (fun a r => keccakRound a (keccakRc r)) a

/-- Bytes of a block that SHA3-512 takes in at once. -/
def sha3Rate : Nat := 72
/-- A block of bytes enters the state. -/
def absorb (a : List Word) (block : List Byte) : List Word :=
  keccak ((List.range 25).map (fun i => lane a i (i / 5) ^^^ BitVec.ofNat 64 (leNat ((block.drop (8 * i)).take 8))))
/-- The message with its padding: the bits 01 and then a 1, zeros and a 1 up to whole blocks. -/
def sha3Pad (m : List Byte) : List Byte :=
  let n := sha3Rate - m.length % sha3Rate
  if n = 1 then m ++ [0x86] else m ++ [0x06] ++ List.replicate (n - 2) 0 ++ [0x80]
/-- SHA3-512 of a message, the first byte of the digest lowest (R2). -/
def sha3_512 (m : List Byte) : BitVec 512 :=
  let p := sha3Pad m
  let a := (List.range (p.length / sha3Rate)).foldl (fun a k => absorb a ((p.drop (sha3Rate * k)).take sha3Rate))
    (List.replicate 25 (0 : Word))
  bytesVec (((List.range 8).map (fun i => lane a i (i / 5))).flatMap (fun w => leBytes 8 w.toNat))

end Sys2Proof.Machine
end

