-- ==== Sys2Proof/Machine/Controller.lean ====
section
/-! DEFINITION. The Shusosar controller and the host (01, 24): power-up and staggered start, management requests, sensors, and host
requests through windows. -/

namespace Sys2Proof.Machine

/-- The hart number under which the host accesses memory (R422). -/
def hostHart : Hart := 16391

/-! ## Requests and replies -/

/-- The request at the head of the inbox, taken (DESIGN CHOICE, log 40). -/
def State.request (s : State) : Option (Input × State) :=
  match s.inbox with
  | [] => none
  | i :: r => some (i, { s with inbox := r })
def State.reply (s : State) (o : Out) : State := { s with outbox := s.outbox ++ [o] }
/-- A request that is refused: nothing changes but the log (R427). -/
def State.refuse (s : State) (p : Nat) : State := (s.logEvent 6 p 0).reply .refused

/-- The active image. -/
def Controller.image (c : Controller) : Option FlashImage := c.active.map (fun b => if b then c.slotB else c.slotA)
/-- The sender stands in the operator list of the active image (R427). -/
def Controller.knows (c : Controller) (q : Mgmt) : Bool :=
  match c.image with
  | some m => m.operators.contains q.sender
  | none => false
/-- A configuring request passes the checks of R427. -/
def Controller.grants (c : Controller) (q : Mgmt) : Bool := c.knows q && q.verified && c.seq.toNat < q.seq.toNat

/-- A configuring request: refused when it fails the checks or `f` refuses its content; otherwise `f` has performed it. -/
def configure (s : State) (q : Mgmt) (p : Nat) (f : State → Option State) : Result :=
  if !s.ctrl.grants q then .next (s.refuse p)
  else match f s with
    | none => .next (s.refuse p)
    | some s => .next (({ s with ctrl := { s.ctrl with seq := q.seq } } : State).reply .accepted)

/-- The partition exists. -/
def State.hasPart (s : State) (p : Nat) : Bool := p < s.ctrl.layout.length
/-- A virtual-form word, 64-byte aligned, whose home stack is in the partition. -/
def State.baseOk (s : State) (p : Nat) (w : Word) : Bool := isVA w && w.toNat % 64 == 0 && s.stackIn p (vaStack (vaOf w))

/-! ## Power-up and boot (R26, R428) -/

def FlashImage.valid (x : FlashImage) (minSvn : Nat) : Bool := x.signed && x.digestOk && minSvn ≤ x.svn
def Controller.slotOf (c : Controller) (b : Bool) : FlashImage := if b then c.slotB else c.slotA
def Controller.validSlot (c : Controller) (b : Bool) : Bool := (c.slotOf b).valid c.minSvn
/-- The valid slot of higher version; A when the versions are equal (log 30). -/
def Controller.higher (c : Controller) : Option Bool :=
  match c.validSlot false, c.validSlot true with
  | true, true => some (c.slotA.version < c.slotB.version)
  | true, false => some false
  | false, true => some true
  | false, false => none
/-- The slot the ROM chooses. -/
def Controller.choose (c : Controller) : Option Bool :=
  match c.pending with
  | some b => if c.validSlot b then some b else c.higher
  | none => c.higher
/-- M over the components' digests in image order: M stands before the digest in what is hashed, each with its lowest byte first (R2,
R428). -/
def measure (l : List (BitVec 512)) : BitVec 512 := l.foldl (fun m d => sha3_512 (vecBytes m 0 64 ++ vecBytes d 0 64)) 0

/-- What power-up leaves before the ROM runs: the state of reset with the flash, with the sequence number last accepted, below which no
later request may come (R427), and with what is outside the module. -/
def State.powered (s : State) : State :=
  { agenda := s.agenda, cur := s.cur, arg := s.arg, rr := s.rr, fresh := s.fresh, inbox := s.inbox, outbox := s.outbox
    ctrl := { slotA := s.ctrl.slotA, slotB := s.ctrl.slotB, pending := s.ctrl.pending, attempted := s.ctrl.attempted
              minSvn := s.ctrl.minSvn, seq := s.ctrl.seq } }

/-- The controller assigns a job identifier and a PIDonFEP to each partition of the layout that `fresh'` names (R419): which values,
the manual leaves open (DESIGN CHOICE, log 53). -/
def assignEndpoints (s : State) (fresh' : Nat → Bool) : State :=
  let new (p : Nat) : Endpoint :=
    { jobid := Config.jobId (4 * s.fresh + p), pid := BitVec.ofNat 12 ((Config.pidOnFep (4 * s.fresh + p)).val + 1) }
  { s with fresh := s.fresh + 1
           ctrl := { s.ctrl with endpoints := (List.range s.ctrl.layout.length).map (fun p => if fresh' p then new p else s.endpoint p) } }

/-- Every stack is up before any cluster (R26). -/
def stacksUp (s : State) : State := (List.range 8).foldl (fun s st => s.setStack st { s.stack st with up := true }) s

/-- POWER_UP: the module is powered and its ROM boots. A pending image that did not reach READY in time gives way to the other
slot (DEDUCED, log 17). -/
def execPowerUp (s : State) : Result :=
  let s := s.powered
  let failed := s.ctrl.attempted && s.ctrl.pending.isSome
  let other := s.ctrl.pending.map not
  let s := if failed then
      ({ s with ctrl := { s.ctrl with pending := none, attempted := false } } : State).logEvent 3 0 0
    else s
  let pick := if failed && other.any s.ctrl.validSlot then other else s.ctrl.choose
  match pick with
  | none => .next (({ s with ctrl := { s.ctrl with halted := true } } : State).logEvent 1 0 0)
  | some b =>
    let c : Controller := { s.ctrl with active := some b, attempted := s.ctrl.pending == some b
                                        meas := measure (s.ctrl.slotOf b).components
                                        ports := (List.range 16).map Config.portAddress }
    .next (stacksUp (assignEndpoints { s with ctrl := c } (fun _ => true)))

/-- Cycles from one cluster to the next, 2 µs at 1.1 GHz (R7, R26), and 2 s (DEDUCED, log 20). -/
def clusterGap : Nat := 2200
def bootLimit : Nat := 2200000000

/-- CLUSTER_READY: the next cluster of the staggered start is ready when its time has come; the last one makes the image READY. -/
def execClusterReady (s : State) : Result :=
  let c := s.ctrl
  let n := c.next
  let start := if n = 0 then s.now else c.bootAt
  if c.active.isNone || c.halted || 384 ≤ n || s.now < start + clusterGap * n then .next s
  else
    let s := s.setCluster n { s.cluster n with up := true, readyAt := s.now, idleSince := s.now }
    let c : Controller := { c with next := n + 1, bootAt := start }
    if n = 383 then
      let svn := (c.image.map (fun m => m.svn)).getD 0
      .next (({ s with ctrl := { c with ready := true, minSvn := max c.minSvn svn
                                        attempted := c.attempted && !decide (s.now ≤ bootLimit) } } : State).logEvent 2 0 0)
    else .next { s with ctrl := c }

/-! ## Sensors (R430) -/

/-- Samples in 10 ms, and cycles between samples and in 10 ms (DEDUCED, log 20). -/
def sampleGap : Nat := 110000
def averageSpan : Nat := 100

/-- SENSOR_SAMPLE: the readings at the head of the inbox are taken 100 µs after the last ones (DEDUCED, log 19). -/
def execSensorSample (s : State) : Result :=
  match s.request with
  | some (.sample j inlet outlet flowOk watts, s') =>
    let c := s.ctrl
    if c.active.isNone || c.halted || s.now < c.sampleAt + sampleGap then .next s
    else
      let w := (c.watts ++ [watts]).drop (c.watts.length + 1 - averageSpan)
      let c : Controller := { c with sampleAt := s.now, lastSample := some (j, inlet, outlet, flowOk, watts), watts := w }
      let s : State := { s' with ctrl := c }
      if j.any (fun t => 105 ≤ t) || !flowOk then
        let s := s.logEvent 7 0 0
        .next { s with ctrl := { s.ctrl with halted := true } }
      else if w.length = averageSpan && 3000 * averageSpan < w.foldl (· + ·) 0 && c.overAt + averageSpan * sampleGap ≤ s.now then
        let s : State := { s with ctrl := { s.ctrl with overAt := s.now } }
        .next (s.logEvent 8 0 0)
      else .next s
  | _ => .next s

/-! ## Partition layout (R23, R24) -/

/-- The allowed die sets of a partition: one die, a connected pair, three dies or all. -/
def dieSetOk (l : List Nat) : Bool := !([[0, 3], [3, 0], [1, 2], [2, 1]].contains l)
/-- An allowed layout: one to four partitions that hold every die once. -/
def layoutOk (l : List (List Nat)) : Bool :=
  l.all (fun d => !d.isEmpty && dieSetOk d) &&
  (List.range 4).all (fun d => (l.flatten.filter (fun x => x == d)).length == 1) && l.flatten.all (fun x => x < 4)

/-- A unit of a domain of cluster width or wider has clusters on die `d`; a package or a partition takes every die of partition `p`. -/
def unitOnDie (s : State) (p dom u d : Nat) : Bool :=
  match dom with
  | 3 => u / 96 == d
  | 4 => u / 8 == d
  | 5 => u == d
  | _ => s.dieIn p d
/-- The instances that a running task has fixed at its first placement lie on die `d` (R373). -/
def fixedOn (s : State) (t : Task) (d : Nat) : Bool :=
  t.st == .running && t.inst.any (fun x => unitOnDie s t.part ((t.wide.head?.map Prod.fst).getD 6) x.2 d)
/-- A die that moves holds a placed task: a thread set of its clusters is in use, a placed task is fixed to it or is to resume there,
or the trap of a thread that OVERDUE ended there is not written yet. -/
def holdsTask (s : State) (d : Nat) : Bool :=
  let bound (e : ReadyEnt) : Bool := (e.cl.any (fun c => c / 96 == d)) && (s.task e.acc).any (fun t => t.st == .running)
  s.threads.any (fun e => kindOf e.1 == .core && e.1 / 3072 == d && e.2.run != .idle) ||
  s.tasks.any (fun t => fixedOn s t d) ||
  s.parts.any (fun p => p.2.ready.any bound || p.2.waiting.any (fun w => bound w.ent) ||
    p.2.traps.any (fun r => r.retire.any (fun x => kindOf x.1 == .core && x.1 / 3072 == d)))
/-- It holds a queued copy. -/
def holdsCopy (s : State) (d : Nat) : Bool :=
  s.cores.any (fun c => c.1 / 768 == d && (!c.2.fifo.isEmpty || c.2.chans.any (fun x => x.2.st == .queued)))
/-- It holds an open timetabled round: a party waits or runs, or a home has arrivals. -/
def holdsRound (s : State) (d : Nat) : Bool :=
  s.cores.any (fun c => c.1 / 768 == d && c.2.slots.any (fun x =>
    x.2.st == .waiting || x.2.st == .running || !x.2.rounds.isEmpty || !x.2.held.isEmpty || !x.2.rises.isEmpty))
/-- A hob command or HOVL is queued or running on one of its stacks (R338). -/
def holdsHob (s : State) (d : Nat) : Bool :=
  s.hqueue.any (fun q => q.1 / 24 == d && q.2.any (fun c => c.kind != 0)) ||
  s.dram.any (fun x => x.1 / 2 == d && x.2.hobs.any (fun u => u.2.cmd.isSome))
/-- The die may not move: something that R24 names is in progress on it (DEDUCED, log 16). -/
def stays (s : State) (d : Nat) : Bool := holdsTask s d || holdsCopy s d || holdsRound s d || holdsHob s d

/-- The damper of a die that moves writes back every record and completes any drain (R402). -/
def settleDamper (s : State) (d : Nat) : State :=
  (s.groups.filter (fun g => g.1 / 65536 == d && g.2.configured)).foldl (fun s g =>
    let s := writeBack s g.1
    if (s.group g.1).drain then finishClosure (s.setGroup g.1 { s.group g.1 with live := false }) g.1 else s) s

/-- On-chip memory that a layout change resets: scratchpads and accumulator files of the die. -/
def resetKey (d k : Nat) : Bool :=
  k < 2 ^ 40 && oaDie k == d && (oaSpace k == some .scratch || oaSpace k == some .acc)
/-- Carried and held data of a slot that is discarded. -/
def Core.carries (c : Core) : Nat := (c.slots.map (fun x => x.2.carry.length)).foldl (· + ·) 0

/-- The reset of a die that moves (R24, R27, R301, R338, R386) (DEDUCED, log 15). R24 names scratchpads, accumulator files and counters:
the waiting-task entries and arbiter credits of its clusters and the TLB entries, tables and roots of its stacks stay as they are (DESIGN
CHOICE, log 15). -/
def resetDie (s : State) (d : Nat) : State :=
  let s := s.cores.foldl (fun (s : State) c =>
    if c.1 / 768 == d && c.2.carries != 0 then s.countCl (c.1 / 8) cLateDropped c.2.carries else s) s
  let clear (c : Nat × Core) : Nat × Core :=
    if c.1 / 768 == d then (c.1, { c.2 with chans := [], fifo := [], slots := [] }) else c
  let free (j : Nat × Option Job) : Nat × Option Job :=
    (j.1, j.2.map (fun (x : Job) => if x.core / 768 == d then { x with owned := false } else x))
  let s : State := { s with mem := s.mem.filter (fun c => !resetKey d c.1)
                            cores := (s.cores.map clear).filter (fun c => c.2 != ({} : Core)), jobs := s.jobs.map free }
  let s := (List.range 96).foldl (fun s i =>
    let n := 96 * d + i
    let c := s.cluster n
    s.setCluster n { c with counters := [], cgen := [], parked := false, idleSince := s.now
                            tiles := c.tiles.map (fun t => (t.1, { arming := t.2.arming + 1 }))
                            kn := { w := c.kn.w, lastw := c.kn.lastw, nwin := c.kn.nwin } }) s
  [2 * d, 2 * d + 1].foldl (fun s st => s.setStack st { s.stack st with hobs := [] }) s

/-- The dies that partitions `p` of two layouts do not share. -/
def samePart (a b : List (List Nat)) (p : Nat) : Bool :=
  let x := (a[p]?).getD []
  let y := (b[p]?).getD []
  x.all y.contains && y.all x.contains

/-- Windows of partitions whose die set changes, and partition queues that name one, become invalid (R421, R425) (DEDUCED, log 15). -/
def clearShared (s : State) (l : List (List Nat)) : State :=
  let same := samePart s.ctrl.layout l
  let part (p : Nat × Part) : Nat × Part :=
    if same p.1 then p else (p.1, { p.2 with windows := (p.2.windows.map (fun w => (w.1, { w.2 with v := false }))).filter
                                                          (fun w => w.2 != ({} : HostWin)) })
  let queue (q : Nat × BitVec 256) : Nat × BitVec 256 :=
    if same (pqProd q.2) && same (pqCons q.2) then q else (q.1, q.2 &&& ~~~1#256)
  let c : Controller := { s.ctrl with pqueues := (s.ctrl.pqueues.map queue).filter (fun q => q.2 != 0) }
  { s with parts := (s.parts.map part).filter (fun p => p.2 != ({} : Part)), ctrl := c }

/-- The damper of die `d` owns `cnt` groups from `first` on, with their records from `base` on, and forgets the groups of its previous
range (DEDUCED, log 29). -/
def setRange (s : State) (d : Nat) (base : Word) (first cnt : Nat) : State :=
  let keep (g : Nat × Group) : Nat × Group := if g.1 / 65536 == d then (g.1, { live := g.2.live, closures := g.2.closures }) else g
  let s : State := { s with groups := (s.groups.map keep).filter (fun g => g.2 != ({} : Group)) }
  s.setDie d { s.die d with gtbase := base, gfirst := first, gcount := cnt }
/-- A range of die `d` meets that of another damper of its partition (R399). -/
def rangeTaken (s : State) (d first cnt : Nat) : Bool :=
  ((List.range 4).filter (fun e => e != d)).any (fun e =>
    s.dieIn (s.partOfDie d) e && rangesMeet first cnt (s.die e).gfirst (s.die e).gcount)
/-- The range of a die that moves, where it meets one of its new partition, is withdrawn: no two of a partition overlap (R399) (DESIGN
CHOICE, log 15). -/
def settleRange (s : State) (d : Nat) : State :=
  if rangeTaken s d (s.die d).gfirst (s.die d).gcount then setRange s d 0 0 0 else s

/-- The layout changes, unless a die that moves is not free (R24). -/
def changeLayout (s : State) (l : List (List Nat)) : Option State :=
  if !layoutOk l then none
  else
    let place (lay : List (List Nat)) (d : Nat) : Nat := lay.findIdx (fun x => x.contains d)
    let moving := (List.range 4).filter (fun d => place s.ctrl.layout d != place l d)
    if moving.any (stays s) then none
    else
      let s := moving.foldl settleDamper s
      let s := clearShared s l
      let same := samePart s.ctrl.layout l
      let s := moving.foldl settleRange (moving.foldl resetDie { s with ctrl := { s.ctrl with layout := l } })
      some ((assignEndpoints s (fun p => !same p)).logEvent 5 0 0)

/-- PARTITION_LAYOUT (R23, R24). -/
def execPartitionLayout (s : State) : Result :=
  match s.request with
  | some (.layout q l, s) => configure s q 0 (fun s => changeLayout s l)
  | _ => .next s

/-! ## Declarations -/

/-- A vector that nothing has written yet takes its reset value, QLOG2 6 and every other field 0 (R116): it is one that reads 0
throughout (DESIGN CHOICE, log 49). -/
def freshVector (s : State) (p : Nat) (w : Word) : State :=
  match s.readVA p 0 (vaOf w) 64 with
  | (some b, s) => if b.all (fun x => x == 0) then (s.writeVA grateHart p 0 (vaOf w + 8) (leBytes 8 (6 * 2 ^ 4))).2 else s
  | (none, s) => s

/-- TRAP_VECTOR_DECLARE: the vector is checked when a trap is written (R116). -/
def execTrapVectorDeclare (s : State) : Result :=
  match s.request with
  | some (.trapVector q p w, s) => configure s q p (fun s =>
      if !s.hasPart p || !s.baseOk p w then none
      else
        let s := freshVector s p w
        some (s.setPart p { s.part p with tvec := w }))
  | _ => .next s

/-- No record of the pool in force is in use. -/
def poolFree (s : State) (p : Nat) : Bool × State :=
  if !(s.part p).pooled then (true, s)
  else (List.range (2 ^ (s.part p).plog2)).foldl (fun (x : Bool × State) i =>
    if x.1 then
      let r := readRecord x.2 p ((s.part p).pbase + BitVec.ofNat 64 (64 * i))
      (r.1.any (fun v => recStatus v == 0), r.2)
    else x) (true, s)
/-- Every page of a range is mapped for both kinds of access; one that a MIGRATE holds is (R310). -/
def rangeOpen (s : State) (p va n : Nat) : Bool × State :=
  match s.xlateRange p 0 va n false true with
  | (.ok _, s) =>
    let r := s.xlateRange p 0 va n true true
    (r.1.isOk, r.2)
  | (.error _, s) => (false, s)
/-- A pool declaration may be accepted (R367): the state keeps what the walks cached and counted (R308). -/
def poolOk (s : State) (p : Nat) (w : BitVec 128) : Bool × State :=
  let base := w.extractLsb' 0 64
  let log := (w.extractLsb' 64 5).toNat
  let n := 64 * 2 ^ log
  let va := vaOf base
  if !s.hasPart p || w.extractLsb' 69 59 ≠ 0#59 || log < 10 || 20 < log || !s.baseOk p base ||
      vaStack va ≠ vaStack (va + n - 1) then (false, s)
  else match rangeOpen s p va n with
    | (true, s) => poolFree s p
    | (false, s) => (false, s)

/-- RECORD_POOL_DECLARE (R367): an accepted pool is cleared before any record is taken from it (DEDUCED, log 18). -/
def execRecordPoolDeclare (s : State) : Result :=
  match s.request with
  | some (.recordPool q p w, s) =>
    let x := if s.ctrl.grants q then poolOk s p w else (false, s)
    configure x.2 q p (fun s =>
      let base := w.extractLsb' 0 64
      let log := (w.extractLsb' 64 5).toNat
      let y := s.writeVA grateHart p 0 (vaOf base) (List.replicate (64 * 2 ^ log) 0)
      if x.1 && y.1 then some (y.2.setPart p { y.2.part p with pbase := base, plog2 := log, pooled := true }) else none)
  | _ => .next s

/-- DAMPER_RANGE_DECLARE (R399): the die's damper forgets the groups of its previous range (DEDUCED, log 29). -/
def execDamperRangeDeclare (s : State) : Result :=
  match s.request with
  | some (.damperRange q d w, s) => configure s q (s.partOfDie d) (fun s =>
      let base := w.extractLsb' 0 64
      let first := (w.extractLsb' 64 16).toNat
      let cnt := (w.extractLsb' 80 17).toNat
      let others := (List.range 4).filter (fun e => e != d)
      if 4 ≤ d || w.extractLsb' 97 31 ≠ 0#31 || 65536 < first + cnt ||
          (cnt ≠ 0 && !(isVA base && base.toNat % 64 == 0 && vaStack (vaOf base) / 2 == d)) ||
          rangeTaken s d first cnt || 65536 < others.foldl (fun n e => n + (s.die e).gcount) cnt then none
      else some (setRange s d base first cnt))
  | _ => .next s

/-- TRANSLATION_ROOT_DECLARE (R307): the stack's slices drop what they held of the partition (DEDUCED, log 18). -/
def execTranslationRootDeclare (s : State) : Result :=
  match s.request with
  | some (.root q st p w, s) => configure s q p (fun s =>
      if 8 ≤ st || !s.hasPart p || 2 ^ 36 ≤ w.toNat || w.toNat % 2 ^ 21 ≠ 0 then none
      else
        let x := s.stack st
        some (s.setStack st { x with troot := Tab.set none x.troot p (some w.toNat), tlb := x.tlb.filter (fun e => e.part != p) }))
  | _ => .next s

/-- HOST_WINDOW_DECLARE (R421) (DEDUCED, log 18). -/
def execHostWindowDeclare (s : State) : Result :=
  match s.request with
  | some (.window q p idx w, s) => configure s q p (fun s =>
      let base := w.extractLsb' 64 64
      let len := w.extractLsb' 128 64
      if !s.hasPart p || 16 ≤ idx || w.extractLsb' 4 60 ≠ 0#60 || w.extractLsb' 192 64 ≠ 0#64 ||
          (w.getLsbD 0 && (!s.baseOk p base || len.toNat % 64 ≠ 0)) then none
      else
        let x : HostWin := { v := w.getLsbD 0, rd := w.getLsbD 1, wr := w.getLsbD 2, cnt := w.getLsbD 3, base := base, len := len }
        some (s.setPart p { s.part p with windows := Tab.set {} (s.part p).windows idx x }))
  | _ => .next s

/-- The limits of R425. -/
def pqOk (s : State) (w : BitVec 256) : Bool :=
  let base := w.extractLsb' 64 64
  w.extractLsb' 5 11 == 0#11 && w.extractLsb' 38 26 == 0#26 && w.extractLsb' 192 64 == 0#64 &&
  (!w.getLsbD 0 || (pqProd w != pqCons w && s.hasPart (pqProd w) && s.hasPart (pqCons w) &&
    s.dieIn (pqCons w) (w.extractLsb' 16 2).toNat && (w.extractLsb' 18 7).toNat < 96 &&
    1 ≤ (w.extractLsb' 33 5).toNat && (w.extractLsb' 33 5).toNat ≤ 16 &&
    (w.extractLsb' 25 8).toNat + (w.extractLsb' 33 5).toNat ≤ 256 &&
    s.baseOk (pqCons w) base && (w.extractLsb' 128 64).toNat % 64 == 0))

/-- PARTITION_QUEUE_DECLARE (R425). -/
def execPartitionQueueDeclare (s : State) : Result :=
  match s.request with
  | some (.partQueue q idx w, s) => configure s q (pqProd w) (fun s =>
      if 64 ≤ idx || !pqOk s w then none
      else some { s with ctrl := { s.ctrl with pqueues := Tab.set 0 s.ctrl.pqueues idx w } })
  | _ => .next s

/-- PEER_TABLE_WRITE (R426). -/
def execPeerTableWrite (s : State) : Result :=
  match s.request with
  | some (.peer q p idx w, s) => configure s q p (fun s =>
      if !s.hasPart p || idx = 0 || 4096 ≤ idx || w.extractLsb' 1 15 ≠ 0#15 || w.extractLsb' 52 12 ≠ 0#12 ||
          w.extractLsb' 192 64 ≠ 0#64 || (w.getLsbD 0 && w.extractLsb' 40 12 == 0#12) then none
      else some (s.setPart p { s.part p with peers := Tab.set 0 (s.part p).peers idx w }))
  | _ => .next s

/-- A thread that a pre-emption request concerns. -/
def PreTarget.concerns (t : PreTarget) (h : Hart) (c : Cont) : Bool :=
  match t with
  | .die d => h / 3072 == d
  | .partition p => c.part == p
  | .task p k => c.part == p && c.taskid == k

/-- The partition that a pre-emption request concerns (R432). -/
def PreTarget.part (s : State) (t : PreTarget) : Nat :=
  match t with
  | .die d => s.partOfDie d
  | .partition p | .task p _ => p
/-- PREEMPT_REQUEST: every running thread concerned is marked, whatever its NSAFE; stoker harts never are (R376). -/
def execPreemptRequest (s : State) : Result :=
  match s.request with
  | some (.preempt q t, s) => configure s q (t.part s) (fun s =>
      some ((s.threads.filter (fun e => kindOf e.1 == .core && e.2.live && t.concerns e.1 e.2.cont)).foldl
        (fun s e => markThread s e.1) s))
  | _ => .next s

/-- IMAGE_UPDATE: the inactive slot is written, verified and marked pending (R428) (DEDUCED, log 17). -/
def execImageUpdate (s : State) : Result :=
  match s.request with
  | some (.update q m, s) =>
    let c := s.ctrl
    let b := !(c.active.getD true)
    if !c.grants q then .next (s.refuse 0)
    else
      let put : Controller := if b then { c with slotB := m } else { c with slotA := m }
      let bad : Controller := { put with pending := if c.pending = some b then none else c.pending }
      if !m.valid c.minSvn then .next (({ s with ctrl := bad } : State).refuse 0)
      else
        let s : State := { s with ctrl := { put with pending := some b, attempted := false, seq := q.seq } }
        .next ((s.logEvent 4 0 0).reply .accepted)
  | _ => .next s

/-! ## Requests that only read (R427, R429, R431) -/

/-- Part number and stepping (R1). -/
def partNumber : Nat := 7300
def stepping : Nat := 0xA2

/-- ATTEST (R429). -/
def execAttest (s : State) : Result :=
  match s.request with
  | some (.attest q nonce, s) =>
    match s.ctrl.knows q, s.ctrl.active, s.ctrl.image with
    | true, some b, some m =>
      let sig := Config.identitySign ([nonce.toNat, partNumber, stepping, if b then 1 else 0, m.version, m.svn, s.ctrl.meas.toNat] ++
        s.ctrl.layout.flatMap (fun l => l.length :: l))
      .next (s.reply (.attest nonce b m.version m.svn s.ctrl.meas s.ctrl.layout sig))
    | _, _, _ => .next (s.refuse 0)
  | _ => .next s

/-- The counters of one unit as they stand together. -/
def State.snapshot (s : State) (u : CounterUnit) : List (Nat × Word) :=
  let all (t : Tab Word) (n : Nat) : List (Nat × Word) := (List.range n).map (fun i => (i, Tab.get 0 t i))
  match u with
  | .cluster cl => all (s.cluster cl).stat 13
  | .stack st => all (s.stack st).stat 4
  | .partition p => all (s.part p).stat 8
  | .core c => [(0, (s.core c).overrun)]
def CounterUnit.exists' (u : CounterUnit) : Bool :=
  match u with
  | .cluster c => c < 384
  | .stack st => st < 8
  | .partition p => p < 4
  | .core c => c < 3072

/-- The partition that a counter read concerns: the one it names, or the one whose unit it names (R432). -/
def CounterUnit.part (s : State) (u : CounterUnit) : Nat :=
  match u with
  | .cluster c => s.partOfDie (c / 96)
  | .stack st => s.partOfDie (st / 2)
  | .partition p => p
  | .core c => s.partOfDie (c / 768)
/-- COUNTER_READ: a consistent snapshot of one unit's counters (R431). -/
def execCounterRead (s : State) : Result :=
  match s.request with
  | some (.counters q u, s) =>
    if !s.ctrl.knows q || !u.exists' then .next (s.refuse (u.part s)) else .next (s.reply (.counters (s.snapshot u)))
  | _ => .next s

/-! ## Host requests (R419 to R423) -/

/-- A refused host request performs nothing and is counted (R421). -/
def refuseHost (s : State) (p : Nat) : Result := .next ((s.countPart p pRefusedReq).reply .hostError)

inductive HostUse where
  | read
  | write
  | counted
  deriving DecidableEq, Repr
/-- What a window lets a request do; a counted write asks for CNT alone (DEDUCED, log 18). -/
def HostWin.allows (w : HostWin) (u : HostUse) : Bool :=
  w.v && (match u with
    | .read => w.rd
    | .write => w.wr
    | .counted => w.cnt)

/-- The pieces by page of `n` bytes at an offset of a window, for an access that R421 allows. -/
def hostPieces (s : State) (p win : Nat) (off : Word) (n : Nat) (u : HostUse) : Option (List (Nat × Nat × Nat)) × State :=
  let w := Tab.get {} (s.part p).windows win
  if !s.hasPart p || 16 ≤ win || !w.allows u || w.len.toNat < off.toNat + n then (none, s)
  else match s.xlateRange p 0 (vaOf w.base + off.toNat) n (u != .read) true with
    | (.ok l, s) => (some l, s)
    | (.error _, s) => (none, s)
def hostStore (s : State) (l : List (Nat × Nat × Nat)) (data : List Byte) : State :=
  l.foldl (fun s x => s.writeAt hostHart x.1 ((data.drop x.2.1).take x.2.2)) s

/-- HOST_WRITE (R422). -/
def execHostWrite (s : State) : Result :=
  match s.request with
  | some (.hostWrite p win off data, s) =>
    match hostPieces s p win off data.length .write with
    | (some l, s) => .next ((hostStore s l data).reply .hostDone)
    | (none, s) => refuseHost s p
  | _ => .next s

/-- HOST_READ (R422). -/
def execHostRead (s : State) : Result :=
  match s.request with
  | some (.hostRead p win off n, s) =>
    match hostPieces s p win off n .read with
    | (some l, s) => .next (s.reply (.hostData ((l.map (fun x => s.bytesAt x.1 x.2.2)).flatten)))
    | (none, s) => refuseHost s p
  | _ => .next s

/-- COUNTED_WRITE: the data, then the counter and its entries (R423). -/
def execCountedWrite (s : State) : Result :=
  match s.request with
  | some (.counted p win off data hdr, s) =>
    let oa := hdr.toNat
    if !(isOA hdr && s.dieIn p (oaDie oa) && oaSpace oa == some .counter && oaOff oa % 8 == 0) then refuseHost s p
    else match hostPieces s p win off data.length .counted with
      | (some l, s) =>
        let s := (hostStore s l data).noteLines (oaCl oa) [lineOf oa] hostHart
        .next ((countUp s (oaCl oa) (oaOff oa / 8)).reply .hostDone)
      | (none, s) => refuseHost s p
  | _ => .next s

/-- UNSUPPORTED_OPERATION (R419). -/
def execUnsupportedOperation (s : State) : Result :=
  match s.request with
  | some (.unsupported p, s) => .next ((s.countPart p pRefusedReq).reply .unsupportedError)
  | _ => .next s

/-- A packet of the partition on its way outside the module. -/
def Msg.outside (m : Msg) : Bool :=
  match m.item with
  | .peer _ | .peerRound _ _ _ _ => true
  | _ => false
/-- TRANSPORT_FAILURE: packet `id` is abandoned, its operation is not performed; the loss is counted and logged (R420, R426). -/
def execTransportFailure (s : State) : Result :=
  match s.request with
  | some (.transport p id, s) =>
    let s : State := { s with net := s.net.filter (fun m => !(m.id == id && m.outside)) }
    .next ((s.countPart p pTransport).logEvent 9 p 0)
  | _ => .next s

end Sys2Proof.Machine
end

