-- ==== Sys2Proof/Machine/Stoker.lean ====
section
/-! DEFINITION. Copy requests, the jobs stokers run for them, page movement and the channel instructions (R287 to R314, R336). -/

namespace Sys2Proof.Machine

/-! ## Which stoker takes a request (R21, R293) -/

/-- Staged word `k` of a channel. -/
def Chan.word (c : Chan) (k : Nat) : Word :=
  match k with
  | 0 => c.w0
  | 1 => c.w1
  | 2 => c.w2
  | _ => c.w3
def w0Kind (w : Word) : Nat := w.toNat % 16
/-- The stoker (0 to 95) that takes a request of core `core`. -/
def requestStoker (core : Nat) (c : Chan) : Nat :=
  let d := core / 768
  let st := if isVA c.w1 then vaStack (vaOf c.w1) else if isVA c.w2 && w0Kind c.w0 < 4 then vaStack (vaOf c.w2) else 2 * d
  12 * (if st / 2 = d then st else 2 * d) + core / 8 % 96 / 8
/-- The 64 cores of a stoker, by position. -/
def stokerCore (sk n : Nat) : Nat := (sk / 24 * 96 + 8 * (sk % 12)) * 8 + n
/-- The core whose head request stoker `sk` takes next, and its channel. -/
def nextRequest (s : State) (sk : Nat) : Option (Nat × Nat) :=
  let start := Tab.get 0 (s.stack (sk / 12)).taken (sk % 12)
  (List.range 64).findSome? (fun d =>
    let core := stokerCore sk ((start + d) % 64)
    match (s.core core).fifo with
    | ch :: _ => if requestStoker core (s.chan core ch) = sk then some (core, ch) else none
    | [] => none)

/-! ## XPUSH and XPUSHB (R290 to R292, R300) -/

def w0Ok (w : Word) : Bool :=
  w0Kind w ≤ 6 && w0Scope w != 7 && (w.toNat / 2 ^ 14 % 4 == 0) && (!w0Tdst w || w0Kind w == 0)
    && (w0Mben w || w0Mbox w == 0) && (w0Notify w || w0Ci w == 0)

/-- The trap a request raises at issue, with the address it reports (R292). -/
def requestTrap (s : State) (w0 w1 w2 w3 : Word) : Option (Trap × Word) :=
  let kind := w0Kind w0
  if !w0Ok w0 || (4 ≤ kind && w3 ≠ 0) then some (.illegal, 0)
  else if w0Mben w0 && (w0Mbox w0).toNat % 64 ≠ 0 then some (.misalign, w0Mbox w0)
  else if w0Mben w0 && !s.inSpad s.myPart (w0Mbox w0) 64 then some (.window, w0Mbox w0)
  else if 4 ≤ kind then (if isVA w1 then none else some (.window, w1))
  else ([w1, w2, w3].find? (fun w => !isAddr w)).map (fun w => (.window, w))

/-- Watermarks as acceptance resets them (R300). -/
def resetRead (kind : Nat) (tdst : Bool) (w1 : Word) : Word :=
  if ((kind = 0 && tdst) || kind = 2) && isOA w1 then w1 else 0
def resetFill (kind : Nat) (tdst : Bool) (w2 : Word) : Word :=
  if ((kind = 0 && !tdst) || kind = 1) && isOA w2 then w2 else 0

/-- The request is accepted: the four words are staged and the channel is queued. -/
def acceptRequest (s : State) (ch : Nat) (w0 w1 w2 w3 : Word) : State :=
  let core := hartCore s.cur
  let c := s.chan core ch
  let kind := w0Kind w0
  let s := s.setChan core ch { c with
    st := .queued, w0 := w0, w1 := w1, w2 := w2, w3 := w3, seq := c.seq + 1, kind := BitVec.ofNat 4 kind
    rwm := resetRead kind (w0Tdst w0) w1, fwm := resetFill kind (w0Tdst w0) w2
    guard := none, ivec := [0, 0, 0, 0, 0, 0], fva := 0, issuer := s.me.cont }
  s.setCore core { s.core core with fifo := (s.core core).fifo ++ [ch] }

/-- XPUSH and XPUSHB up to acceptance: `full` says what a full FIFO does. -/
def pushRequest (s : State) (sa : Reg) (full : State → Result) (ok : State → State) : Result :=
  let w (k : Nat) : Word := s.rs (sa + BitVec.ofNat 5 k)
  let ch := w0Channel (w 0)
  match requestTrap s (w 0) (w 1) (w 2) (w 3) with
  | some (t, a) => takeTrap s t a 0
  | none =>
    if (s.chan (hartCore s.cur) ch).st ≠ .idle then takeTrap s .fifo 0 ch
    else if 8 ≤ (s.core (hartCore s.cur)).fifo.length then full s
    else withRelease s (fun s => (ok (acceptRequest s ch (w 0) (w 1) (w 2) (w 3))).doneStrong)

def execXpush (sa : Reg) (s : State) : Result := pushRequest s sa (fun s => s.stalled (.xpush sa)) id
def execXpushb (rd sa : Reg) (s : State) : Result :=
  pushRequest s sa (fun s => (s.ws rd 1).done) (fun s => s.ws rd 0)

/-- XPUSH_FIFO_ACCEPT: hart `cur`, stalled at XPUSH, is accepted once the FIFO has a free entry. -/
def execXpushFifoAccept (s : State) : Result :=
  match s.stalledHead s.cur with
  | some (.xpush sa) => execXpush sa s
  | _ => .next s

/-! ## Layout records and the box (R294 to R297) -/

/-- Parse a layout record: none when a reserved field or TYPE breaks R294. -/
def parseLayout (b : List Byte) : Option Layout :=
  let d : BitVec 1024 := BitVec.ofNat 1024 (leNat b)
  let ty : Ty := d.extractLsb' 864 5
  let size := (List.range 6).map (fun i => (d.extractLsb' (32 * i) 32).toNat)
  if d.extractLsb' 869 27 ≠ 0#27 || !(ty.toNat ≤ 5 || (10 ≤ ty.toNat && ty.toNat ≤ 17)) || size.any (fun n => n == 0) then none
  else some
    { size := size
      stride := (List.range 6).map (fun i => (d.extractLsb' (192 + 64 * i) 64).toInt)
      origin := (List.range 6).map (fun i => (d.extractLsb' (576 + 32 * i) 32).toInt)
      extm1 := (List.range 6).map (fun i => (d.extractLsb' (768 + 16 * i) 16).toNat)
      esize := tyBytes ty, fill := d.extractLsb' 896 64, aux := d.extractLsb' 960 64 }

def Layout.row0 (l : Layout) : Nat := ((l.extm1.head?).getD 0 + 1) * l.esize
/-- Rows of the packed side, and elements of the box. -/
def Layout.rows (l : Layout) : Nat := (l.extm1.drop 1).foldl (fun a x => a * (x + 1)) 1
def Layout.total (l : Layout) : Nat := l.extm1.foldl (fun a x => a * (x + 1)) 1
/-- Box vector of element `k`, b0 fastest. -/
def boxDigits : Nat → List Nat → List Nat
  | _, [] => []
  | k, x :: r => k % (x + 1) :: boxDigits (k / (x + 1)) r

/-- A job's sides: the tensor's word, the packed word, and whether the tensor is written. -/
def Job.sides (j : Job) : Word × Word × Bool :=
  if j.kind = 2 || (j.kind = 0 && w0Tdst j.w0) then (j.w2, j.w1, true) else (j.w1, j.w2, false)
/-- Pitch of packed rows: DPITCH of a COPY, else packed. -/
def Job.pitch (j : Job) (l : Layout) : Nat :=
  if j.kind = 0 && l.aux.toNat % 2 ^ 32 ≠ 0 then l.aux.toNat % 2 ^ 32 else l.row0
/-- Where element `k` lies on the packed side. -/
def Job.packedAt (j : Job) (l : Layout) (k : Nat) : Word :=
  let n := (l.extm1.head?).getD 0 + 1
  j.sides.2.1 + BitVec.ofNat 64 (k / n * j.pitch l + k % n * l.esize)
def intAt (l : List Int) (i : Nat) : Int := (l[i]?).getD 0
def natAt (l : List Nat) (i : Nat) : Nat := (l[i]?).getD 0
/-- Whether element `k` lies inside the tensor, and where; `idx` is the row index of a GATHER or SCATTER (R295, R296). -/
def Job.tensorAt (j : Job) (l : Layout) (k idx : Nat) : Bool × Word :=
  let b := boxDigits k l.extm1
  let t : List Int := if j.kind = 0 then (List.range 6).map (fun d => intAt l.origin d + (natAt b d : Int))
    else [intAt l.origin 0 + (natAt b 0 : Int), (idx : Int), 0, 0, 0, 0]
  let inside := (List.range 6).all (fun d => 0 ≤ intAt t d && intAt t d < (natAt l.size d : Int))
    && (j.kind = 0 || !idx.testBit 31)
  let off := ((List.range 6).map (fun d => intAt t d * intAt l.stride d)).sum
  (inside, j.sides.1 + BitVec.ofInt 64 off)

/-- Lowest and highest tensor offset the job may access, none when it accesses nothing. -/
def Job.tensorSpan (j : Job) (l : Layout) : Option (Int × Int) :=
  let r : List (Int × Int) := (List.range 6).map (fun d =>
    if j.kind ≠ 0 && d = 1 then ((0 : Int), (natAt l.size 1 : Int) - 1)
    else (max 0 (intAt l.origin d), min ((natAt l.size d : Int) - 1) (intAt l.origin d + (natAt l.extm1 d : Int))))
  if r.any (fun x => x.2 < x.1) then none
  else
    let e := r.zipIdx
    some ((e.map (fun x => min (x.1.1 * intAt l.stride x.2) (x.1.2 * intAt l.stride x.2))).sum,
          (e.map (fun x => max (x.1.1 * intAt l.stride x.2) (x.1.2 * intAt l.stride x.2))).sum)

/-- `n` bytes from an on-chip base plus an offset lie in one scratchpad of the partition; other sides pass. -/
def sideOk (s : State) (p : Nat) (base : Word) (off : Int) (n : Nat) : Bool :=
  !isOA base || s.inSpad p (base + BitVec.ofInt 64 off) n

/-- The shape and range rules of R296 and R297, for a layout that parsed. -/
def Job.rangeOk (j : Job) (s : State) (l : Layout) : Bool :=
  let (tw, pw, _) := j.sides
  let p := j.cont.part
  let n := (l.rows - 1) * j.pitch l + l.row0
  (if j.kind = 0 then l.aux.toNat < 2 ^ 32 && (l.aux = 0 || l.row0 ≤ l.aux.toNat)
   else (List.range 4).all (fun d => natAt l.size (d + 2) == 1 && intAt l.origin (d + 2) == 0 && natAt l.extm1 (d + 2) == 0)
     && intAt l.origin 1 == 0 && sideOk s p l.aux 0 (4 * (natAt l.extm1 1 + 1)))
  && (!isOA pw || (s.inSpad p pw n && inClusterSpad (j.core / 8) pw n))
  && (match j.tensorSpan l with
      | none => true
      | some (lo, hi) => sideOk s p tw lo ((hi - lo).toNat + l.esize))

/-! ## Accesses of a job -/

/-- The parts of `n` bytes at an address word as the job of hart `cur` accesses them, or what stops it. -/
def jobAccess (s : State) (w : Word) (n : Nat) (write : Bool) : Except (Option JobSt) (List (Nat × Nat × Nat)) × State :=
  let p := s.myPart
  if isOA w then (.ok [(w.toNat, 0, n)], s)
  else if !isVA w then (.error (some (.fault w 1)), s)
  else
    let go : Except (Option JobSt) (List (Nat × Nat × Nat)) × State :=
      match s.xlateRange p s.myAcc (vaOf w) n write with
      | (.ok l, s) => (.ok l, s)
      | (.error .held, s) => (.error none, s)
      | (.error .outside, s) | (.error .readonly, s) => (.error (some (.fault w 2)), s)
      | (.error _, s) => (.error (some (.fault w 1)), s)
    match s.redirectOf p (vaOf w) n write with
    | some st =>
      if !s.stackIn p st then (.error (some (.fault w 2)), s)
      else if st = hartStack s.cur then go
      else (.error (some (.redirect st)), s)
    | none => go

/-- A weak access of job `j` on-chip stalls at the unfilled destination of another copy (R85). -/
def Job.stalls (j : Job) (s : State) (w : Word) (n : Nat) : Bool :=
  isOA w && s.cores.any (fun c => c.2.chans.any (fun x =>
    !(j.owned && c.1 == j.core && x.1 == j.ch) && x.2.unfilled w.toNat n))
def jobRead (s : State) (j : Job) (w : Word) (n : Nat) : Except (Option JobSt) (List Byte) × State :=
  if j.stalls s w n then (.error none, s)
  else match jobAccess s w n false with
  | (.ok l, s) => (.ok ((l.map (fun x => s.bytesAt x.1 x.2.2)).flatten), s)
  | (.error e, s) => (.error e, s)
def jobWrite (s : State) (j : Job) (w : Word) (b : List Byte) : Except (Option JobSt) Unit × State :=
  if j.stalls s w b.length then (.error none, s)
  else match jobAccess s w b.length true with
  | (.ok l, s) => (.ok (), l.foldl (fun s x => s.writeAt s.cur x.1 ((b.drop x.2.1).take x.2.2)) s)
  | (.error e, s) => (.error e, s)

/-- The job after an access that did not go through: held for now, or stopped. -/
def Job.stop (j : Job) (e : Option JobSt) : Job := match e with
  | some st => { j with st := st }
  | none => j

/-! ## Taking a request (R288) -/

def Job.make (core ch : Nat) (c : Chan) (cont : Cont) : Job :=
  { core := core, ch := ch, kind := w0Kind c.w0, w0 := c.w0, w1 := c.w1, w2 := c.w2, w3 := c.w3, layout := none, pos := 0
    idx := 0, bag := 0, st := .moving, slices := [], cmds := [], rcd := cont.rcd, cont := cont, owned := true, seq := c.seq
    invalid := 0, safes := [], record := 0, phase := 0, fail := none }

/-- An address of the copy microcode, reserved to the firmware image: an address word in virtual form, of which the manual says no more
(R289). -/
def microcodePc (n : Nat) : Word := vaWord ((Config.microPc n).toNat % 2 ^ 57)

/-- Idle stoker hart `h` takes the next request of its stoker, when it is of the kind wanted and the pool has a free record: the
job's record is written and its channel is active. -/
def takeJob (s : State) (h : Hart) (kind : Nat) (tdst : Bool) : State :=
  let sk := hartSk h
  match nextRequest s sk with
  | none => s
  | some (core, ch) =>
    let c := s.chan core ch
    if w0Kind c.w0 ≠ kind || w0Tdst c.w0 ≠ tdst then s
    else match takeRecords s c.issuer.part 1 with
    | (some [rcd], s) =>
      let cont : Cont := { c.issuer with
        rcd := rcd, savearea := 0, argblk := if kind = 6 then c.w2 else 0, levels := 0, launchblk := 0, boundver := 0, lin := 0 }
      let pc := microcodePc s.fresh
      let s := putRecord { s with fresh := s.fresh + 1 } h cont 0 (vecBytes (recordVec cont pc 255 2) 0 64)
      let s := s.setCore core { s.core core with fifo := (s.core core).fifo.drop 1 }
      let s := s.setChan core ch { c with st := .active }
      let x := s.stack (sk / 12)
      let s := s.setStack (sk / 12) { x with taken := Tab.set 0 x.taken (sk % 12) ((core - stokerCore sk 0 + 1) % 64) }
      let s := s.setJob h (some (Job.make core ch c cont))
      let r : Regs := { pc := pc }
      s.setThread h { run := .running, regs := r, chunk := { begun := r }, cont := cont }
    | (_, s) => s

/-- The job's channel, when it still follows the job. -/
def onChan (s : State) (j : Job) (f : Chan → Chan) : State :=
  if j.owned then s.setChan j.core j.ch (f (s.chan j.core j.ch)) else s

/-! ## COPY, GATHER and SCATTER (R295 to R300) -/

/-- Elements of a row, and the row of element `k`. -/
def Layout.cols (l : Layout) : Nat := natAt l.extm1 0 + 1
def Layout.rowOf (l : Layout) (k : Nat) : Nat := k / l.cols
/-- The first of the next `n` elements from `k` on that accesses the tensor; a row whose index is not read yet counts as a row of
the table (R296) (DEDUCED, log 21). -/
def Job.nextInside (j : Job) (l : Layout) (k : Nat) : Nat → Option Nat
  | 0 => none
  | n + 1 =>
    if (j.tensorAt l k (if j.row = some (l.rowOf k) then j.idx else 0)).1 then some k else j.nextInside l (k + 1) n
/-- Watermarks of a job that has moved `k` elements (R300) (DEDUCED, log 21). -/
def Job.marks (j : Job) (l : Layout) (k : Nat) (c : Chan) : Chan :=
  let (_, pw, towards) := j.sides
  let all : Word := BitVec.allOnes 64
  let past := j.packedAt l (l.total - 1) + BitVec.ofNat 64 l.esize
  let next := j.nextInside l k (l.total - k)
  let tensor : Word := if next.isNone then all else 0
  let packed : Word :=
    match (if towards then next else if l.total ≤ k then none else some k) with
    | some i => if isOA pw then j.packedAt l i else 0
    | none => if isOA pw then past else all
  if towards then { c with rwm := packed, fwm := tensor } else { c with rwm := tensor, fwm := packed }

/-- The layout record is read and checked; the destination is guarded from here on (R85, R297). -/
def setupCopy (s : State) (j : Job) : State × Job :=
  let cancel : Job := { j with st := .done 2 3 0 }
  if j.w3.toNat % 64 ≠ 0 || (isOA j.w3 && !s.inSpad j.cont.part j.w3 128) then (s, cancel)
  else match jobRead s j j.w3 128 with
  | (.error e, s) => (s, j.stop e)
  | (.ok b, s) =>
    match parseLayout b with
    | none => (s, cancel)
    | some l =>
      if !j.rangeOk s l then (s, cancel)
      else
        let (_, pw, towards) := j.sides
        let g := if isOA pw && !towards then some (pw.toNat, j.pitch l, l.row0, l.rows) else none
        (onChan s j (fun c => j.marks l 0 { c with guard := g }), { j with layout := some l })

/-- The index entry of the row of element `pos`, read once (R296). -/
def readIndex (s : State) (j : Job) (l : Layout) : Except (Option JobSt) Job × State :=
  let row := l.rowOf j.pos
  if j.kind = 0 || j.row = some row then (.ok j, s)
  else match jobRead s j (l.aux + BitVec.ofNat 64 (4 * row)) 4 with
  | (.error e, s) => (.error e, s)
  | (.ok b, s) =>
    let x := leNat b
    (.ok { j with idx := x, row := some row, invalid := if x.testBit 31 then j.invalid + 1 else j.invalid }, s)

/-- One element is moved (R295, R296). -/
def moveElement (s : State) (j : Job) (l : Layout) : Except (Option JobSt) Unit × State :=
  let (_, _, towards) := j.sides
  let (inside, ta) := j.tensorAt l j.pos j.idx
  let pa := j.packedAt l j.pos
  if towards then
    if !inside then (.ok (), s)
    else match jobRead s j pa l.esize with
    | (.error e, s) => (.error e, s)
    | (.ok b, s) => jobWrite s j ta b
  else if inside then
    match jobRead s j ta l.esize with
    | (.error e, s) => (.error e, s)
    | (.ok b, s) => jobWrite s j pa b
  else jobWrite s j pa (leBytes l.esize l.fill.toNat)

/-- Up to `n` elements, then the watermarks (DESIGN CHOICE, log 12). -/
def moveElements (s : State) (j : Job) (l : Layout) : Nat → State × Job
  | 0 => (s, j)
  | n + 1 =>
    if l.total ≤ j.pos then (s, { j with st := .done 1 0 0 })
    else match readIndex s j l with
    | (.error e, s) => (s, j.stop e)
    | (.ok j, s) => match moveElement s j l with
      | (.error e, s) => (s, j.stop e)
      | (.ok _, s) =>
        let j : Job := { j with pos := j.pos + 1 }
        moveElements (onChan s j (j.marks l j.pos)) j l n

def copyGo (s : State) (j : Job) (n : Nat) : State × Job :=
  match j.layout with
  | none => setupCopy s j
  | some l => moveElements s j l n

/-! ## REDUCE (R336) -/

/-- The reduce record keeps its limits and its offsets lie in one scratchpad of the issuing cluster. -/
def reduceOk (cl : Nat) (r : Vec) : Bool :=
  let len := iredLen r
  let dp := (r.extractLsb' 96 32).toNat
  let nbag := (r.extractLsb' 128 8).toNat
  r.extractLsb' 4 12 == 0#12 && r.extractLsb' 136 56 == 0#56 && r.extractLsb' 320 192 == 0#192 && iredOp r ≤ 2 &&
  4 ≤ len && len ≤ 4096 && len % 4 == 0 && (r.extractLsb' 64 32).toNat % 4 == 0 && len ≤ (r.extractLsb' 64 32).toNat &&
  dp % 4 == 0 && len ≤ dp && 1 ≤ nbag &&
  inClusterSpad cl (r.extractLsb' 256 64) (4 * (nbag + 1))

/-- Entries of the index array of a REDUCE with offsets `offs`: up to the end of its furthest bag. -/
def reduceEntries (offs : List Nat) : Nat :=
  ((offs.zip (offs.drop 1)).map (fun (x : Nat × Nat) => if x.1 < x.2 then x.2 else 0)).foldl max 0

/-- The IRED of the present bag over `n` of its entries. -/
def reduceCommand (s : State) (j : Job) (n : Nat) : Vec :=
  let r := j.record
  let idx := (r.extractLsb' 192 64).toNat
  let dst : Word := j.w2 + BitVec.ofNat 64 (j.bag * (r.extractLsb' 96 32).toNat)
  let entries := ((List.range n).map (fun e => s.readAt (idx + 4 * (j.pos + e)) 4 * 2 ^ (256 + 32 * e))).sum
  BitVec.ofNat 512 (iredOp r + n * 2 ^ 8 + (if j.phase = 1 then 2 ^ 12 else 0) + iredLen r * 2 ^ 16 + iredRows r * 2 ^ 32
    + dst.toNat * 2 ^ 64 + j.w1.toNat * 2 ^ 128 + (r.extractLsb' 64 32).toNat * 2 ^ 192 + entries)

/-- The microcode goes on by at most `n` commands. -/
def reduceGo (s : State) (j : Job) : Nat → State × Job
  | 0 => (s, j)
  | n + 1 =>
    let nbag := (j.record.extractLsb' 128 8).toNat
    if j.fail.isSome || nbag ≤ j.bag then (s, { j with st := .waiting })
    else
      let j : Job := if j.phase = 0 then
        let lo := natAt j.offs j.bag
        let hi := natAt j.offs (j.bag + 1)
        { j with phase := 1, pos := lo, idx := max lo hi } else j
      let k := min 8 (j.idx - j.pos)
      if j.stalls s (j.record.extractLsb' 192 64 + BitVec.ofNat 64 (4 * j.pos)) (4 * k) then (s, j)
      else
        let c := reduceCommand s j k
        let dst := iredDst c
        if !isVA dst then (s, { j with st := .fault dst 1 })
        else if !s.stackIn j.cont.part (vaStack (vaOf dst)) then (s, { j with st := .fault dst 2 })
        else if !isVA j.w1 then (s, { j with st := .fault j.w1 1 })
        else
          let pc := iredPc s j.cont.part j.cont.acc dst
          if queueFull s pc then (s, j)
          else
            let id := s.fresh
            let s := pushCommand s { id := id, kind := 0, pc := pc, cmd := c, sel := 0, mbox := none, hart := s.cur, rd := 0
                                     cont := j.cont, job := some s.cur, dpa := none, pos := 0, skipped := 0, fault := false }
            let j : Job := { j with cmds := j.cmds ++ [id], pos := j.pos + k, phase := 2 }
            let j : Job := if j.pos < j.idx then j else { j with bag := j.bag + 1, phase := 0 }
            reduceGo s j n

/-- The reduce record and the offsets are read, once, and checked before any command is built. -/
def setupReduce (s : State) (j : Job) : State × Job :=
  let cl := j.core / 8
  let cancel : Job := { j with st := .done 2 3 0 }
  if !inClusterSpad cl j.w3 64 then (s, cancel)
  else if j.stalls s j.w3 64 then (s, j)
  else
    let r := bytesVec (s.bytesAt j.w3.toNat 64)
    let at' : Word := r.extractLsb' 256 64
    let n := (r.extractLsb' 128 8).toNat + 1
    let offs := (List.range n).map (fun b => s.readAt (at'.toNat + 4 * b) 4)
    if !reduceOk cl r then (s, cancel)
    else if j.stalls s at' (4 * n) then (s, j)
    else if !inClusterSpad cl (r.extractLsb' 192 64) (4 * reduceEntries offs) then (s, cancel)
    else (s, { j with record := r, offs := offs, layout := some { size := [], stride := [], origin := [], extm1 := [], esize := 0, fill := 0, aux := 0 } })

/-! ## Page movement (R306, R309, R310) -/

def vaStoker (va : Nat) : Nat := va % 2 ^ 54 / 2 ^ 21 % 12
/-- A translated access to one of the key ranges is still to be performed: a fabric item, a started command or a store buffered in
an open chunk (R309). -/
def framePending (s : State) (ranges : List (Nat × Nat)) : Bool :=
  let meets (k n : Nat) : Bool := ranges.any (fun r => rangesMeet k n r.1 r.2)
  s.net.any (fun m => (s.targets m.item).any (fun x => meets x.1 x.2)) ||
  s.threads.any (fun t => t.2.chunk.stores.any (fun w => isStackKey w.key && meets w.key w.data.length)) ||
  s.hqueue.any (fun q => q.2.any (fun c => match c.dpa with
    | some pa => meets (stackKey 0 (c.pc / 96) pa) (iredLen c.cmd)
    | none => false))
/-- Keys of a frame of `n` bytes in every version slot. -/
def frameKeys (st frame n : Nat) : List (Nat × Nat) := (List.range 4).map (fun k => (stackKey k st frame, n))

/-- SHOOT is taken: the home slices it is delivered to (R309). -/
def setupShoot (s : State) (j : Job) : State × Job :=
  let va := vaOf j.w1
  let n := j.w2.toNat
  let st := vaStack va
  if n = 0 || 2 ^ 54 < n || 2 ^ 54 < va % 2 ^ 54 + n then (s, { j with st := .done 2 3 0 })
  else if !s.stackIn j.cont.part st then (s, { j with st := .fault j.w1 2 })
  else
    let lo := va / 2 ^ 21
    let homes := (List.range (min 12 ((va + n - 1) / 2 ^ 21 - lo + 1))).map (fun i => 12 * st + vaStoker ((lo + i) * 2 ^ 21))
    (s, { j with st := .waiting, slices := homes.dedup })

/-- SHOOT_ACK: TLB slice `arg` answers the SHOOT of stoker hart `cur`, dropping its entries of the range and the tables they hold
(R309, R322), once every access translated through them has been performed. At a redirect entry the SHOOT goes on to the new home
(DEDUCED, log 23). -/
def execShootAck (s : State) : Result :=
  match s.job s.cur with
  | none => .next s
  | some j =>
    let va := vaOf j.w1
    let n := j.w2.toNat
    let p := j.cont.part
    let st := s.arg / 12
    if j.kind ≠ 5 || j.st ≠ .waiting || !j.slices.contains s.arg then .next s
    else
      let x := s.stack st
      let hit (e : TlbEntry) : Bool := e.part == p && rangesMeet va n e.va e.size && vaStoker e.va == s.arg % 12
      if framePending s ((x.tlb.filter hit).flatMap (fun e => if e.redir.isSome then [] else frameKeys st e.frame e.size)) then .next s
      else
        let gone (t : HTable) : Bool := t.part == p && vaStoker t.va == s.arg % 12 &&
          rangesMeet va n t.page (if t.big then 2 ^ 21 else 2 ^ 16)
        let new := (x.tlb.filter hit).filterMap (fun e => e.redir.map (fun r => 12 * r + vaStoker e.va))
        let drops := x.htabs.filter (fun e => e.2.any gone)
        let x := { x with tlb := x.tlb.filter (fun e => !hit e), htabs := x.htabs.filter (fun e => !e.2.any gone) }
        let s := s.setStack st x
        let s := if drops.isEmpty then s else s.countStack st kDropped drops.length
        let left := (j.slices.filter (fun k => k != s.arg) ++ new.filter (fun k => k != s.arg)).dedup
        .next (s.setJob s.cur (some { j with slices := left, st := if left.isEmpty then .done 1 0 0 else .waiting }))

/-- Address of the leaf slot of `va` in the table of a stack, when every level above it is valid (R307). -/
def leafSlot (s : State) (st va table : Nat) (big : Bool) : List (Nat × Nat × Nat × Nat) → Option Nat
  | [] => none
  | (sh, cnt, page, next) :: rest =>
    let slot := table + 8 * (va / 2 ^ sh % cnt)
    let e := s.pte st slot
    if page = (if big then 2 ^ 21 else 2 ^ 16) then some slot
    else
      let addr := e / 256 % 2 ^ 28 * 256
      if e % 2 = 1 && e / 2 % 2 = 0 && e / 16 % 16 = 0 && e / 2 ^ 36 = 0 && next ≠ 0 && addr % next = 0 then
        leafSlot s st va addr big rest
      else none
def tableLevels : List (Nat × Nat × Nat × Nat) :=
  [(39, 262144, 0, 4096), (30, 512, 0, 4096), (21, 512, 2 ^ 21, 256), (16, 32, 2 ^ 16, 0)]
def State.leafSlotOf (s : State) (st p va : Nat) (big : Bool) : Option Nat :=
  (Tab.get none (s.stack st).troot p).bind (fun root => leafSlot s st va root big tableLevels)

/-- The leaf slot at `slot` of the table of a stack is invalid: it holds no valid leaf, and at L2 no valid table pointer (R308,
R310). -/
def State.slotInvalid (s : State) (st p va slot : Nat) (big : Bool) : Bool :=
  let e := s.pte st slot
  !(big && e % 2 == 1 && e / 2 % 2 == 0 && e / 16 % 16 == 0 && e / 2 ^ 36 == 0 && e / 256 % 2 ^ 28 * 256 % 256 == 0) &&
  (match walk s st p va with
   | .leaf _ => false
   | _ => true)

/-- What MIGRATE needs (R310): the page's entry, the target stack, frame and leaf slot; none when it is refused (DEDUCED, log 23). -/
def migratePlan (s : State) (j : Job) : Option (TlbEntry × Nat × Nat × Nat × Nat) :=
  let va := vaOf j.w1
  let p := j.cont.part
  let home := vaStack va
  let dst := j.w2.toNat % 8
  let frame := j.w2.toNat / 2 ^ 16 % 2 ^ 20 * 2 ^ 16
  match walk s home p va with
  | .leaf e =>
    if e.redir.isSome || e.va ≠ va || !s.stackIn p dst || dst = home || frame % e.size ≠ 0 || frame / 2 ^ 21 % 12 ≠ vaStoker va
      || (s.stack home).htabs.any (fun t => t.2.any (fun x => x.part == p && e.covers p x.va)) then none
    else match s.leafSlotOf home p va e.big, s.leafSlotOf dst p va e.big with
    | some hs, some ds => if s.slotInvalid dst p va ds e.big then some (e, dst, frame, hs, ds) else none
    | _, _ => none
  | _ => none

/-- A walk of a table adds one to the stack's bad-entry counter where it meets a malformed entry (R308). -/
def State.countWalk (s : State) (st p va : Nat) : State :=
  match walk s st p va with
  | .malformed => s.countStack st kBadEntry 1
  | _ => s
/-- The walks that the plan of a MIGRATE makes, the page's own and then the target's, as they count (R308). -/
def countPlan (s : State) (j : Job) : State :=
  let va := vaOf j.w1
  let p := j.cont.part
  let dst := j.w2.toNat % 8
  match walk s (vaStack va) p va with
  | .leaf e => if e.redir.isSome || !s.stackIn p dst || dst = vaStack va then s else s.countWalk dst p va
  | _ => s.countWalk (vaStack va) p va

/-- MIGRATE is taken: refused, or the page is held. -/
def setupMigrate (s : State) (j : Job) : State × Job :=
  let va := vaOf j.w1
  let st := vaStack va
  let w := j.w2.toNat
  if va % 2 ^ 16 ≠ 0 || 2 ^ 36 ≤ w || w / 8 % 2 ^ 13 ≠ 0 then (s, { j with st := .done 2 3 0 })
  else if !s.stackIn j.cont.part st then (s, { j with st := .fault j.w1 2 })
  else match migratePlan s j with
  | none => (countPlan s j, { j with st := .done 2 5 0 })
  | some (e, _) =>
    let s := countPlan s j
    let x := s.stack st
    let pages := (List.range (e.size / 2 ^ 16)).map (fun i => (j.cont.part, e.va / 2 ^ 16 + i))
    (s.setStack st { x with heldPages := x.heldPages ++ pages }, { j with st := .waiting })

/-- The hold of a MIGRATE that does not move its page ends. -/
def releaseHold (s : State) (j : Job) : State :=
  if j.kind ≠ 4 then s
  else
    let st := vaStack (vaOf j.w1)
    let x := s.stack st
    let n := match walk s st j.cont.part (vaOf j.w1) with
      | .leaf e => e.size / 2 ^ 16
      | _ => 32
    let lo := vaOf j.w1 / 2 ^ 16
    s.setStack st { x with heldPages := x.heldPages.filter (fun y => !(y.1 == j.cont.part && lo ≤ y.2 && y.2 < lo + n)) }

/-- MIGRATE_MOVE: the held page of the MIGRATE of stoker hart `cur` moves once every access translated for it is performed. What
the hold kept back finds the redirect entry and goes on to the new home. -/
def execMigrateMove (s : State) : Result :=
  match s.job s.cur with
  | none => .next s
  | some j =>
    let va := vaOf j.w1
    let st := vaStack va
    let p := j.cont.part
    if j.kind ≠ 4 || j.st ≠ .waiting then .next s
    else match migratePlan s j with
    | none => .next ((releaseHold (countPlan s j) j).setJob s.cur (some { j with st := .done 2 5 0 }))
    | some (e, dst, frame, hs, ds) =>
      if framePending s (frameKeys st e.frame e.size) then .next s
      else
        let h := s.cur
        let s := (List.range 4).foldl (fun s k =>
          s.writeAt h (stackKey k dst frame) (s.bytesAt (stackKey k st e.frame) e.size)) s
        let perm := (if e.rd then 4 else 0) + (if e.wr then 8 else 0)
        let s := s.writeAt h (stackKey 0 dst ds) (leBytes 8 (3 + perm + frame / 256 * 256))
        let s := s.writeAt h (stackKey 0 st hs) (leBytes 8 (3 + 16 + perm + 32 * dst))
        let x := s.stack st
        let moved (f : TlbEntry) : TlbEntry := if f.covers p va then { f with redir := some dst, frame := 0 } else f
        let s := s.setStack st { x with
          tlb := x.tlb.map moved
          heldPages := x.heldPages.filter (fun y => !(y.1 == p && e.covers p (y.2 * 2 ^ 16))) }
        .next (s.setJob h (some { j with st := .done 1 0 0 }))

/-! ## The events of a job -/

/-- The setup of a job just taken, by its kind. -/
def setupJob (s : State) (j : Job) : State × Job :=
  match j.kind with
  | 3 => setupReduce s j
  | 4 => setupMigrate s j
  | 5 => setupShoot s j
  | _ => setupCopy s j
/-- A job that is moving goes on. -/
def goJob (s : State) (j : Job) (n : Nat) : State × Job :=
  match j.kind, j.layout with
  | 3, some _ => reduceGo s j n
  | 3, none => setupReduce s j
  | 4, _ => setupMigrate s j
  | 5, _ => setupShoot s j
  | _, _ => copyGo s j n

/-- Stoker hart `cur` takes a request of this kind, or its job of this kind goes on. -/
def jobEvent (s : State) (kind : Nat) (tdst : Bool) : Result :=
  let h := s.cur
  match s.job h with
  | some j =>
    if j.kind = kind && w0Tdst j.w0 == tdst && j.st == .moving then
      let r := goJob s j (s.arg + 1)
      .next (r.1.setJob h (some r.2))
    else .next s
  | none =>
    if kindOf h = .stoker && (s.thread h).run == .idle then
      let s := takeJob s h kind tdst
      match s.job h with
      | none => .next s
      | some j =>
        let r := setupJob s j
        .next (r.1.setJob h (some r.2))
    else .next s

def execCopy (s : State) : Result := jobEvent s 0 false
def execCopyToTensor (s : State) : Result := jobEvent s 0 true
def execGather (s : State) : Result := jobEvent s 1 false
def execScatter (s : State) : Result := jobEvent s 2 false
def execReduce (s : State) : Result := jobEvent s 3 false
def execMigrate (s : State) : Result := jobEvent s 4 false
def execShoot (s : State) : Result := jobEvent s 5 false

/-- RUN: stoker hart `cur` takes a RUN request, or goes on with one: the kernel header is read and the program starts (R289). A
header that cannot be read is a PAGE fault of the job (DEDUCED, log 23). -/
def execRun (s : State) : Result :=
  let h := s.cur
  let s := if (s.job h).isNone && kindOf h = .stoker && (s.thread h).run == .idle then takeJob s h 6 false else s
  match s.job h with
  | none => .next s
  | some j =>
    if j.kind ≠ 6 || j.st ≠ .moving then .next s
    else
      let p := j.cont.part
      let fault (s : State) (code : Nat) : Result := .next (s.setJob h (some { j with st := .fault j.w1 code }))
      if !s.stackIn p (vaStack (vaOf j.w1)) then fault s 2
      else match readHeader s p j.cont.acc j.w1 with
      | (none, s) => fault s 1
      | (some hd, s) =>
        let s := putPc s h j.cont hd.entry
        let key := 16384 + s.fresh
        let s := { (s.setJob h none).setJob key (some { j with safes := hd.safes, st := .waiting }) with fresh := s.fresh + 1 }
        .next (placeOn s h { j.cont with levels := 0 } hd.entry false)

/-- The job of hart `h` ends: channel, record and thread set (R288, R301, R302). -/
def endJob (s : State) (h : Hart) (j : Job) (stop fcode : Nat) (fva : Word) : State :=
  let s := chanEnd s h j stop fcode fva .idle
  ((putStatus s h j.cont 0).setJob h none).goIdle h

/-- COPY_COMPLETE: the job of stoker hart `cur` has performed its last access, or is to end (R301, R302). -/
def execCopyComplete (s : State) : Result :=
  match s.job s.cur with
  | none => .next s
  | some j => match j.st with
    | .done stop fcode fva => if j.cmds.isEmpty && !s.endWaits j then .next (endJob s s.cur j stop fcode fva) else .next s
    | _ => .next s

/-- REDUCE_COMPLETE: every command of the REDUCE of stoker hart `cur` has completed (R336). -/
def execReduceComplete (s : State) : Result :=
  match s.job s.cur with
  | none => .next s
  | some j =>
    if j.kind ≠ 3 || j.st ≠ .waiting || !j.cmds.isEmpty || s.endWaits j then .next s
    else match j.fail with
    | none =>
      let all : Word := BitVec.allOnes 64
      .next (endJob (onChan s j (fun c => { c with rwm := all, fwm := all })) s.cur j 1 0 0)
    | some (_, stop, fcode, dst) => .next (endJob s s.cur j stop fcode dst)

/-- PAGE: the job of stoker hart `cur` has met a page without a translation, or outside the partition: its hart parks and the
channel holds IVEC and FVA (R303). PC, HEAD and TAIL are the microcode's (R289). -/
def execPage (s : State) : Result :=
  let h := s.cur
  match s.job h with
  | none => .next s
  | some j => match j.st with
    | .fault va fcode =>
      if s.endWaits j then .next s else
      let iv := match j.layout with
        | some l => if j.kind < 3 then boxDigits j.pos l.extm1 else [0, 0, 0, 0, 0, 0]
        | none => [0, 0, 0, 0, 0, 0]
      let j : Job := { j with ivec := iv }
      let s := onChan s j (fun c => { c with ivec := iv })
      let s := chanEnd s h j 3 fcode va .faulted
      let n := s.fresh
      let pc := microcodePc n
      let t := s.thread h
      let s := { s.setThread h { t with regs := { t.regs with pc := pc } } with fresh := n + 1 }
      let i : TrapInfo := { code := Trap.code .page, pc := pc, head := Config.microHead n, tail := Config.microTail n, addr := va
                            fmta := t.regs.ctl.fmta, fmtb := t.regs.ctl.fmtb, fmtc := t.regs.ctl.fmtc }
      .next (park (s.setJob h (some { j with st := .parked })) h i)
    | _ => .next s

/-- CONTINUATION_MIGRATE: the continuation of stoker hart `cur`, which met a redirect, moves to the new home stoker of the page
(R305): STATUS 6, and as at every suspension point its registers are gone and the thread set is idle (R33, R34). It goes on at the
same head when a thread set is idle there; a copy job goes on at its IVEC (DEDUCED, log 23). -/
def execContinuationMigrate (s : State) : Result :=
  let h := s.cur
  let move (s : State) (st : Nat) : Result :=
    if s.blocked h then .next s
    else
      let s := s.drain h
      let t := s.thread h
      let s := putStatus (putPc s h t.cont t.regs.pc) h t.cont 6
      let s := match s.job h with
        | some j => { (s.setJob h none).setJob (16384 + s.fresh) (some { j with st := .moving }) with fresh := s.fresh + 1 }
        | none => s
      .next ((s.enqueue t.cont.part { readyEntry s h t.cont with stoker := some (12 * st + hartSk h % 12) }).goIdle h)
  match s.job h with
  | some j => match j.st with
    | .redirect st => move s st
    | _ => .next s
  | none => match s.me.run, s.me.wait with
    | .running, .redirect st => (match s.endChunk h with
      | .error s' => .next s'
      | .ok s' => move s' st)
    | _, _ => .next s

/-! ## Channel instructions (R311 to R314) -/

def busyChan (c : Chan) : Bool := c.st == .queued || c.st == .active

def execXwaitDone (ch rd : Reg) (s : State) : Result :=
  withChunkEnd s (fun s =>
    let c := s.chan (hartCore s.cur) ch.toNat
    if busyChan c then s.stalled (.xwaitDone ch rd) else (s.ws rd (c.lastend.setWidth 64)).doneStrong)
def execXwaitRead (ch sa : Reg) (s : State) : Result :=
  withChunkEnd s (fun s =>
    let c := s.chan (hartCore s.cur) ch.toNat
    if busyChan c && c.rwm.toNat ≤ (s.rs sa).toNat then s.stalled (.xwaitRead ch sa) else s.doneStrong)
def execXwaitFill (ch sa : Reg) (s : State) : Result :=
  withChunkEnd s (fun s =>
    let c := s.chan (hartCore s.cur) ch.toNat
    if busyChan c && c.fwm.toNat ≤ (s.rs sa).toNat then s.stalled (.xwaitFill ch sa) else s.doneStrong)

/-- The job of a channel, with its key in the table of jobs. -/
def State.chanJob (s : State) (core ch : Nat) : Option (Nat × Job) :=
  match s.jobs.find? (fun e => match e.2 with
    | some j => j.owned && j.core == core && j.ch == ch
    | none => false) with
  | some (k, some j) => some (k, j)
  | _ => none

/-- XRESUME (R304, R313): a faulted job goes on at IVEC, on any idle thread set of its stoker (R289). -/
def execXresume (ch : Reg) (s : State) : Result :=
  withRelease s (fun s =>
    let core := hartCore s.cur
    if (s.chan core ch.toNat).st ≠ .faulted then s.doneStrong
    else match s.chanJob core ch.toNat with
    | none => s.doneStrong
    | some (k, j) => (resumeJob s k j).doneStrong)

/-- The hart that holds the continuation of a record, in whatever state. -/
def State.hartOf (s : State) (p : Nat) (rcd : Word) : Option Hart :=
  (s.threads.find? (fun e => e.2.run != .idle && e.2.cont.rcd == rcd && e.2.cont.part == p)).map Prod.fst

/-- A job whose continuation runs or waits by its record is cancelled: its chunk is dropped, and once every access it has already
made is performed its record is retired and freed and its channel ends (R302). -/
def cancelRun (s : State) (k : Nat) (j : Job) : State :=
  let p := j.cont.part
  match s.hartOf p j.rcd with
  | some h =>
    let t := s.thread h
    finishRetiring ((s.dropToken h).setThread h { t with
      run := .retiring, chunk := { begun := t.chunk.begun }, wait := .none, mark := none, replay := [], path := [] }) h
  | none =>
    let q := s.part p
    let s := s.setPart p { q with ready := q.ready.filter (fun e => e.rcd != j.rcd), waiting := q.waiting.filter (fun e => e.rcd != j.rcd) }
    let s := chanEnd (putStatus s s.cur j.cont 8) s.cur j 2 4 0 .idle
    (putStatus s s.cur j.cont 0).setJob k none

/-- The channel's part of XCANCEL (R302). A resumed REDUCE that is still queued while commands it built are out goes on as one that ends, so
that its record is free and its mailbox written only once they have completed. -/
def cancelChan (s : State) (core ch : Nat) : State :=
  let c := s.chan core ch
  match c.st with
  | .idle => s
  | .queued =>
    let s := s.setCore core { s.core core with fifo := (s.core core).fifo.filter (fun n => n != ch) }
    chanEnd s s.cur (Job.make core ch c c.issuer) 2 4 0 .idle
  | .active => match s.chanJob core ch with
    | none => s
    | some (k, j) =>
      if 16384 ≤ k && j.cmds.isEmpty then cancelRun s k j
      else (if j.st = .waiting then releaseHold s j else s).setJob k (some { j with st := .done 2 4 0 })
  | .faulted => match s.chanJob core ch with
    | none => s
    | some (k, _) => retireHart s k

/-- The mailbox record of a cancelled request must wait, where XCANCEL itself writes it (R85): that of a running job waits by itself. -/
def State.cancelWaits (s : State) (core ch : Nat) : Bool :=
  let c := s.chan core ch
  match c.st with
  | .idle => false
  | .queued => s.endWaits (Job.make core ch c c.issuer)
  | _ => (s.chanJob core ch).any (fun x => (x.2.st == .parked || (decide (16384 ≤ x.1) && x.2.cmds.isEmpty)) && s.endWaits x.2)
def execXcancel (ch : Reg) (s : State) : Result :=
  withRelease s (fun s =>
    if s.cancelWaits (hartCore s.cur) ch.toNat then s.stalled (.xcancel ch)
    else (cancelChan s (hartCore s.cur) ch.toNat).doneStrong)

/-- The word of XSTAT (R314). -/
def Chan.statWord (c : Chan) : Word :=
  let st := match c.st with
    | .idle => 0
    | .queued => 1
    | .active => 2
    | .faulted => 3
  BitVec.ofNat 64 (st + c.lastend.toNat * 2 ^ 8 + c.seq.toNat * 2 ^ 16 + c.kind.toNat * 2 ^ 32)
def execXstat (rd ch : Reg) (s : State) : Result := (s.ws rd (s.chan (hartCore s.cur) ch.toNat).statWord).done
def execXstatRead (rd ch : Reg) (s : State) : Result := (s.ws rd (s.chan (hartCore s.cur) ch.toNat).rwm).done
def execXstatFill (rd ch : Reg) (s : State) : Result := (s.ws rd (s.chan (hartCore s.cur) ch.toNat).fwm).done

end Sys2Proof.Machine
end

