-- ==== Sys2Proof/Machine/Kindling.lean ====
section
/-! DEFINITION. The kindling array: the evaluation of a window (R347), ownership (R349, R350) and the KN instructions with their
events (R351 to R359). -/

namespace Sys2Proof.Machine

/-! ## One window (R347) -/

def Kindling.cell (k : Kindling) (i o : Nat) : Nat := ((Tab.get (BitVec.allOnes 512) k.delay o).extractLsb' (4 * i) 4).toNat
/-- The tick at which input `i` with tick `t` rises behind a delay; none is never. -/
def riseAt (t d : Nat) : Option Nat := if t = 255 then none else some (t + d)
/-- Captured tick and first riser of output `o` in a window of `w` ticks. -/
def outputOf (k : Kindling) (ticks : List Nat) (w o : Nat) : Nat × Nat :=
  let conn := (List.range 128).filter (fun i => k.cell i o != 15)
  let rise := conn.map (fun i => (i, riseAt ((ticks[i]?).getD 255) (k.cell i o)))
  let z : Option Nat :=
    if k.modes.getLsbD o then
      (if rise.any (fun r => r.2.isNone) then none else some ((rise.filterMap Prod.snd).foldl max 0))
    else (rise.filterMap Prod.snd).min?
  match (match z with
    | some n => if w ≤ n then none else some n
    | none => none) with
  | none => (255, 255)
  | some n => (n, ((rise.find? (fun r => r.2 == some n)).map Prod.fst).getD 255)
/-- 128 bytes as one number, output 0 lowest. -/
def packBytes (l : List Nat) : BitVec 1024 := BitVec.ofNat 1024 (leNat (l.map (BitVec.ofNat 8)))
/-- y and f of a window driven by two vectors of ticks. -/
def evalWindow (k : Kindling) (a b : Vec) (w : Nat) : BitVec 1024 × BitVec 1024 :=
  let ticks := (List.range 64).map (laneOf 8 a) ++ (List.range 64).map (laneOf 8 b)
  let r := (List.range 128).map (outputOf k ticks w)
  (packBytes (r.map Prod.fst), packBytes (r.map Prod.snd))

/-! ## Ownership (R349, R350) -/

def State.kindling (s : State) (cl : Nat) : Kindling := (s.cluster cl).kn
def State.setKindling (s : State) (cl : Nat) (k : Kindling) : State := s.setCluster cl { s.cluster cl with kn := k }

/-- The thread set a KN instruction acts for: the leader of a gang, else the issuer. -/
def State.knHart (s : State) : Hart :=
  ((s.me.gang.bind s.gang).bind (fun g => g.members.head?)).getD s.cur

/-- The array is owned by another thread set, or by nobody where the form needs an owner: KINDLE. -/
def withArray (s : State) (mayClaim : Bool) (k : State → Result) : Result :=
  match (s.kindling (hartCl s.cur)).owner with
  | some h => if h = s.knHart then k s else takeTrap s .kindle 0 0
  | none => if mayClaim then k s else takeTrap s .kindle 0 0
/-- Claim the array for the issuer (R349): one access of the cluster order, which writes KNWIN (R70, R101). -/
def State.claim (s : State) : State :=
  let cl := hartCl s.cur
  let k := s.kindling cl
  let h := s.knHart
  if k.owner = some h then s
  else (s.noteLines cl [lineOf (mkOA cl 11 16)] s.cur).setKindling cl { k with owner := some h }
/-- A window or a load is in progress (R351). -/
def Kindling.busy (k : Kindling) : Bool := k.win.isSome || !k.loads.isEmpty
/-- The cycle on which a load issued now begins: after the window and the loads still in progress (R351) (DEDUCED, log 33). -/
def Kindling.loadFrom (k : Kindling) (now : Nat) : Nat :=
  max now (max ((k.win.map KnWin.due).getD 0) ((k.loads.getLast?.map KnLoad.due).getD 0))

/-! ## Forms that change the array (R353 to R356, R358): they end the chunk -/

def execKnwin (sw : Reg) (s : State) : Result :=
  let w := s.rs sw
  if s.follows then withChunkEnd s State.doneStrong
  else if 256 ≤ w.toNat then illegal s
  else withArray s true (fun s => withChunkEnd s (fun s =>
    let s := s.claim
    let c := s.cluster (hartCl s.cur)
    let s := s.noteLines (hartCl s.cur) [lineOf (mkOA (hartCl s.cur) 11 16)] s.cur
    (s.setCluster (hartCl s.cur) (c.setCtl 18 w)).doneStrong))

def execKndly (sa sr : Reg) (s : State) : Result :=
  let a := s.rs sa
  let r := s.rs sr
  let first := r.toNat % 128
  let cnt := r.toNat / 2 ^ 8 % 128 + 1
  let cl := hartCl s.cur
  if s.follows then withRelease s State.doneStrong
  else if 2 ^ 15 ≤ r.toNat || r.getLsbD 7 || 128 < first + cnt then illegal s
  else if a.toNat % 64 ≠ 0 then misalign s a
  else if !inClusterSpad cl a (64 * cnt) then takeTrap s .window a 0
  else withArray s true (fun s => withRelease s (fun s =>
    let s := s.claim
    let k := s.kindling cl
    (s.setKindling cl { k with loads := k.loads ++ [{ src := a.toNat, first := first, cnt := cnt, due := k.loadFrom s.now + cnt }] }).doneStrong))

/-- The modes of the array of cluster `cl` become `m`, as one access (R355). -/
def State.setModes (s : State) (cl : Nat) (m : BitVec 128) : State :=
  let s := s.noteLines cl [lineOf (mkOA cl 9 0x2000)] deviceHart
  s.setKindling cl { s.kindling cl with modes := m }

/-- KNMODE acts in issue order, behind the loads still queued (R351). -/
def execKnmode (vm : Reg) (s : State) : Result :=
  withDir s [vm] none (fun s =>
    let act (s : State) : Result := withChunkEnd s (fun s => withPops s (.knmode vm) [vm] (fun s v =>
      if s.follows then s.doneCommit
      else
        let s := s.claim
        let cl := hartCl s.cur
        let k := s.kindling cl
        let m : BitVec 128 := (v vm).setWidth 128
        let s : State := match k.loads.getLast? with
          | none => s.setModes cl m
          | some l => s.setKindling cl
              { k with loads := k.loads ++ [{ src := 0, first := 0, cnt := 0, due := l.due, modes := some m }] }
        s.doneCommit))
    if s.follows then act s else withArray s true act)

def execKnlaunch (va vb : Reg) (s : State) : Result :=
  withDir s [va, vb] none (fun s =>
    let act (s : State) : Result :=
      if !s.follows && (s.kindling (hartCl s.cur)).busy then s.stalled (.knlaunch va vb)
      else withChunkEnd s (fun s => withPops s (.knlaunch va vb) [va, vb] (fun s v =>
        if s.follows then s.doneCommit
        else
          let s := s.claim
          let cl := hartCl s.cur
          let k := s.kindling cl
          let r := evalWindow k (v va) (v vb) k.w.toNat
          (s.setKindling cl { k with win := some { due := s.now + (k.w.toNat + 7) / 8 + 3, y := r.1, f := r.2 }
                                     lastw := k.w }).doneCommit))
    if s.follows then act s else withArray s true act)

def execKnreset (s : State) : Result :=
  let cl := hartCl s.cur
  if s.follows then withChunkEnd s State.doneStrong
  else match (s.kindling cl).owner with
  | none => withChunkEnd s State.doneStrong
  | some _ => withArray s false (fun s => withChunkEnd s (fun s =>
    let s := s.noteLines cl (knLines cl) s.cur
    (s.setKindling cl (knFree (s.kindling cl))).doneStrong))

/-! ## Forms that read it (R357, R359) -/

/-- Keys of the popped-data log for KNCAPT and KNFIRST (R71, R352). -/
def knLogKey (first : Bool) : Nat := 2 ^ 80 + (if first then 1 else 0)

/-- Take the two halves of a capture: from the log of a squashed chunk, else as the array has it. -/
def captureHalves (s : State) (key : Nat) (now : BitVec 1024) : (Vec × Vec) × State :=
  let t := s.me
  let fin (a b : Vec) (replay : List (Nat × Vec)) : (Vec × Vec) × State :=
    ((a, b), s.setMe { t with replay := replay, chunk := { t.chunk with log := t.chunk.log ++ [(key, a), (key, b)] } })
  match t.replay.find? (fun e => e.1 == key) with
  | some a =>
    let r := t.replay.erase a
    match r.find? (fun e => e.1 == key) with
    | some b => fin a.2 b.2 (r.erase b)
    | none => fin a.2 0 r
  | none => fin (now.setWidth 512) (now.extractLsb' 512 512) t.replay

/-- KNCAPT and KNFIRST. What a squashed chunk took is taken again whoever owns the array by then (R71, R352). -/
def capture (s : State) (i : Instr) (first : Bool) (vd ve : Reg) : Result :=
  withDir s [] (some vd) (fun s => withDir s [] (some ve) (fun s =>
    let key := knLogKey first
    let act (s : State) : Result :=
      let k := s.kindling (hartCl s.cur)
      let r := captureHalves s key (if first then k.f else k.y)
      ((r.2.putV vd r.1.1).putV ve r.1.2).done
    if s.me.replay.any (fun e => e.1 == key) then act s
    else withArray s false (fun s => if (s.kindling (hartCl s.cur)).win.isSome then s.stalled i else act s)))

def execKncapt (vd ve : Reg) (s : State) : Result := capture s (.kncapt vd ve) false vd ve
def execKnfirst (vd ve : Reg) (s : State) : Result := capture s (.knfirst vd ve) true vd ve

/-- The word of KNSTAT (R359) for thread set `h`. -/
def Kindling.stat (k : Kindling) (h : Hart) : Word :=
  let b (x : Bool) (n : Nat) : Nat := if x then 2 ^ n else 0
  k.knwin ||| BitVec.ofNat 64 (b (k.owner == some h) 14 + b (k.loads.any (fun l => l.modes.isNone)) 15 + b k.win.isSome 16 + b k.capvalid 17
    + k.lastw.toNat * 2 ^ 24 + k.nwin.toNat * 2 ^ 32)

def execKnstat (rd : Reg) (s : State) : Result :=
  withChunkEnd s (fun s =>
    let here := (s.kindling (hartCl s.cur)).stat s.knHart
    match s.me.gang.bind (fun g => (s.gang g).map (fun x => (g, x))) with
    | none => (s.ws rd here).doneStrong
    | some (g, x) =>
      if s.follows then (s.ws rd x.vals.1).doneStrong
      else ((s.setGang g (some { x with vals := (here, 0) })).ws rd here).doneStrong)

/-! ## Events -/

/-- KINDLING_CAPTURE: the window of cluster `cur` has ended: y and f are written (R351, R356). -/
def execKindlingCapture (s : State) : Result :=
  let k := s.kindling s.cur
  match k.win with
  | none => .next s
  | some w =>
    if s.now < w.due then .next s
    else
      let s := s.noteLines s.cur [lineOf (mkOA s.cur 9 0x2080), lineOf (mkOA s.cur 9 0x20C0)] deviceHart
      .next (s.setKindling s.cur { k with win := none, y := w.y, f := w.f, capvalid := true, nwin := k.nwin + 1 })

/-- The modes queued at the head of the array's queue take effect. -/
def takeModes (s : State) (cl : Nat) : List KnLoad → State
  | [] => s.setKindling cl { s.kindling cl with loads := [] }
  | l :: r => match l.modes with
    | some m => takeModes (s.setModes cl m) cl r
    | none => s.setKindling cl { s.kindling cl with loads := l :: r }

/-- KNDLY_LOAD_DONE: the oldest load of cluster `cur` writes its next row, a row a cycle once no window is in progress; with its last
row it is done, and the modes queued behind it take effect (R351, R354) (DESIGN CHOICE, log 10). -/
def execKndlyLoadDone (s : State) : Result :=
  let cl := s.cur
  let k := s.kindling cl
  match k.loads with
  | [] => .next s
  | l :: r =>
    let src := l.src + 64 * l.row
    if k.win.isSome || s.now + l.cnt < l.due + l.row + 1 || s.guarded src 64 then .next s
    else
      let o := l.first + l.row
      let s := s.noteLines cl [lineOf (mkOA cl 9 (64 * o))] deviceHart
      let s := s.setKindling cl { k with delay := Tab.set (BitVec.allOnes 512) k.delay o (bytesVec (s.bytesAt src 64)) }
      .next (if l.row + 1 < l.cnt then s.setKindling cl { s.kindling cl with loads := { l with row := l.row + 1 } :: r } else takeModes s cl r)

end Sys2Proof.Machine
end

