-- ==== Sys2Proof/Machine/Scalar.lean ====
section
/-! DEFINITION. Scalar integer instructions: SOP, SOPI, LI, LEA and SBIT (R181 to R187). They touch no memory, raise no trap and
set no flag. -/

namespace Sys2Proof.Machine

/-! ## Results -/

/-- Bits [127:64] of a product. -/
def mulHigh (x y : Int) : Word := BitVec.ofInt 64 (x * y / 2 ^ 64)
/-- DIV (R183). -/
def divS (a b : Word) : Word := if b = 0 then BitVec.allOnes 64 else BitVec.ofInt 64 (a.toInt.tdiv b.toInt)
/-- DIVZ (R183). -/
def divU (a b : Word) : Word := if b = 0 then BitVec.allOnes 64 else BitVec.ofNat 64 (a.toNat / b.toNat)
/-- REM (R183). -/
def remS (a b : Word) : Word := if b = 0 then a else BitVec.ofInt 64 (a.toInt.tmod b.toInt)
/-- REMZ (R183). -/
def remU (a b : Word) : Word := if b = 0 then a else BitVec.ofNat 64 (a.toNat % b.toNat)
/-- Number of one bits. -/
def oneBits (a : Word) : Word := BitVec.ofNat 64 ((List.range 64).countP (fun i => a.getLsbD i))
def trailingZeros (a : Word) : Word := BitVec.ofNat 64 (((List.range 64).findIdx? (fun i => a.getLsbD i)).getD 64)
def leadingZeros (a : Word) : Word := BitVec.ofNat 64 (((List.range 64).findIdx? (fun i => a.getMsbD i)).getD 64)
/-- BEXT: `len - 1` is `lenm1` (R187). -/
def bitExtract (a : Word) (pos lenm1 : Nat) : Word := BitVec.ofNat 64 (a.toNat / 2 ^ pos % 2 ^ (lenm1 + 1))
/-- BINS: the field of `d` is replaced by the low bits of `a` (R187). -/
def bitInsert (d a : Word) (pos lenm1 : Nat) : Word :=
  let n := 2 ^ (lenm1 + 1)
  BitVec.ofNat 64 (d.toNat % 2 ^ pos + a.toNat % n * 2 ^ pos + d.toNat / (2 ^ pos * n) * (2 ^ pos * n))

/-! ## Operand forms -/

/-- `OP rd, rs1, rs2` (R182). -/
def alu2 (s : State) (rd rs1 rs2 : Reg) (f : Word → Word → Word) : Result := (s.ws rd (f (s.rs rs1) (s.rs rs2))).done
/-- `OP rd, rs1` and the immediate forms. -/
def alu1 (s : State) (rd rs1 : Reg) (f : Word → Word) : Result := (s.ws rd (f (s.rs rs1))).done

/-! ## Register forms (R182, R183) -/

def execAdd (rd rs1 rs2 : Reg) (s : State) : Result := alu2 s rd rs1 rs2 (fun a b => a + b)
def execSub (rd rs1 rs2 : Reg) (s : State) : Result := alu2 s rd rs1 rs2 (fun a b => a - b)
def execMul (rd rs1 rs2 : Reg) (s : State) : Result := alu2 s rd rs1 rs2 (fun a b => a * b)
def execMulh (rd rs1 rs2 : Reg) (s : State) : Result := alu2 s rd rs1 rs2 (fun a b => mulHigh a.toInt b.toInt)
def execMulhz (rd rs1 rs2 : Reg) (s : State) : Result := alu2 s rd rs1 rs2 (fun a b => mulHigh a.toNat b.toNat)
def execDiv (rd rs1 rs2 : Reg) (s : State) : Result := alu2 s rd rs1 rs2 (fun a b => divS a b)
def execDivz (rd rs1 rs2 : Reg) (s : State) : Result := alu2 s rd rs1 rs2 (fun a b => divU a b)
def execRem (rd rs1 rs2 : Reg) (s : State) : Result := alu2 s rd rs1 rs2 (fun a b => remS a b)
def execRemz (rd rs1 rs2 : Reg) (s : State) : Result := alu2 s rd rs1 rs2 (fun a b => remU a b)
def execAnd (rd rs1 rs2 : Reg) (s : State) : Result := alu2 s rd rs1 rs2 (fun a b => a &&& b)
def execOr (rd rs1 rs2 : Reg) (s : State) : Result := alu2 s rd rs1 rs2 (fun a b => a ||| b)
def execXor (rd rs1 rs2 : Reg) (s : State) : Result := alu2 s rd rs1 rs2 (fun a b => a ^^^ b)
def execShl (rd rs1 rs2 : Reg) (s : State) : Result := alu2 s rd rs1 rs2 (fun a b => a <<< (b.toNat % 64))
def execShr (rd rs1 rs2 : Reg) (s : State) : Result := alu2 s rd rs1 rs2 (fun a b => a >>> (b.toNat % 64))
def execSra (rd rs1 rs2 : Reg) (s : State) : Result := alu2 s rd rs1 rs2 (fun a b => a.sshiftRight (b.toNat % 64))
def execSlt (rd rs1 rs2 : Reg) (s : State) : Result := alu2 s rd rs1 rs2 (fun a b => if a.toInt < b.toInt then 1 else 0)
def execSltz (rd rs1 rs2 : Reg) (s : State) : Result := alu2 s rd rs1 rs2 (fun a b => if a.toNat < b.toNat then 1 else 0)
def execMin (rd rs1 rs2 : Reg) (s : State) : Result := alu2 s rd rs1 rs2 (fun a b => if b.toInt < a.toInt then b else a)
def execMax (rd rs1 rs2 : Reg) (s : State) : Result := alu2 s rd rs1 rs2 (fun a b => if a.toInt < b.toInt then b else a)
def execMinz (rd rs1 rs2 : Reg) (s : State) : Result := alu2 s rd rs1 rs2 (fun a b => if b.toNat < a.toNat then b else a)
def execMaxz (rd rs1 rs2 : Reg) (s : State) : Result := alu2 s rd rs1 rs2 (fun a b => if a.toNat < b.toNat then b else a)
def execClz (rd rs1 : Reg) (s : State) : Result := alu1 s rd rs1 (fun a => leadingZeros a)
def execCtz (rd rs1 : Reg) (s : State) : Result := alu1 s rd rs1 (fun a => trailingZeros a)
def execPopc (rd rs1 : Reg) (s : State) : Result := alu1 s rd rs1 (fun a => oneBits a)
def execMov (rd rs1 : Reg) (s : State) : Result := alu1 s rd rs1 (fun a => a)

/-! ## Immediate forms (R184) -/

def execAddi (rd rs1 : Reg) (imm : BitVec 16) (s : State) : Result := alu1 s rd rs1 (fun a => a + imm.signExtend 64)
def execAndi (rd rs1 : Reg) (imm : BitVec 16) (s : State) : Result := alu1 s rd rs1 (fun a => a &&& imm.signExtend 64)
def execOri (rd rs1 : Reg) (imm : BitVec 16) (s : State) : Result := alu1 s rd rs1 (fun a => a ||| imm.setWidth 64)
def execXori (rd rs1 : Reg) (imm : BitVec 16) (s : State) : Result := alu1 s rd rs1 (fun a => a ^^^ imm.setWidth 64)
def execSlti (rd rs1 : Reg) (imm : BitVec 16) (s : State) : Result := alu1 s rd rs1 (fun a => if a.toInt < imm.toInt then 1 else 0)
def execShli (rd rs1 : Reg) (imm : BitVec 16) (s : State) : Result := alu1 s rd rs1 (fun a => a <<< imm.toNat)
def execShri (rd rs1 : Reg) (imm : BitVec 16) (s : State) : Result := alu1 s rd rs1 (fun a => a >>> imm.toNat)
def execSrai (rd rs1 : Reg) (imm : BitVec 16) (s : State) : Result := alu1 s rd rs1 (fun a => a.sshiftRight imm.toNat)

/-! ## LI, LEA, SEL, BEXT, BINS (R185 to R187) -/

def execLi (rd : Reg) (imm : BitVec 48) (s : State) : Result := (s.ws rd (imm.signExtend 64)).done
def execLiSh16 (rd : Reg) (imm : BitVec 48) (s : State) : Result := (s.ws rd (imm.setWidth 64 <<< 16)).done
def execLea (rd rs1 : Reg) (imm : BitVec 32) (s : State) : Result := (s.ws rd (s.rs rs1 + imm.signExtend 64)).done
def execSel (rd rs1 rs2 rs3 : Reg) (s : State) : Result := (s.ws rd (if s.rs rs1 ≠ 0 then s.rs rs2 else s.rs rs3)).done
def execBext (rd rs1 : Reg) (pos lenm1 : BitVec 6) (s : State) : Result :=
  (s.ws rd (bitExtract (s.rs rs1) pos.toNat lenm1.toNat)).done
def execBins (rd rs1 : Reg) (pos lenm1 : BitVec 6) (s : State) : Result :=
  (s.ws rd (bitInsert (s.rs rd) (s.rs rs1) pos.toNat lenm1.toNat)).done

end Sys2Proof.Machine
end

