-- ==== Sys2Proof/Machine/Stream.lean ====
section
/-! DEFINITION. Streams: SBIND, SUNB, SSKIP, read-ahead and the release of stalled pops (R248 to R256). -/

namespace Sys2Proof.Machine

/-! ## The descriptor (R249, R250) -/

def descField (d : Vec) (lo n : Nat) : Nat := (d.extractLsb' lo n).toNat
def descKind (d : Vec) : Bool := d.getLsbD 64
def descWrite (d : Vec) : Bool := d.getLsbD 65
def descChannel (d : Vec) : Nat := descField d 66 4
def descBounds (d : Vec) : List Nat := (List.range 5).map (fun i => descField d (128 + 16 * i) 16 + 1)
def descStrides (d : Vec) : List Int := (List.range 5).map (fun i => (d.extractLsb' (256 + 32 * i) 32).toInt)

/-- What makes a descriptor ILLEGAL, but for a channel in use. -/
def descIllegal (d : Vec) : Bool :=
  descField d 70 58 != 0 || descField d 208 48 != 0 || descField d 416 96 != 0 ||
  (descWrite d && descKind d) || (!descKind d && descChannel d != 0) ||
  (descKind d && (descField d 0 64 != 0 || descField d 128 80 != 0 || descField d 256 160 != 0))

/-- A register of a thread set of the core is bound to the arrival channel, or an open chunk of another thread set, the one of a
squashed binding included, still holds entries of it (R250, R256). R250 does not say when an SUNB of a chunk that has not committed
frees the channel for another thread set: here at once, but not while that chunk holds entries it has popped (DESIGN CHOICE, log 37). -/
def State.channelBound (s : State) (core ch : Nat) : Bool :=
  ((s.core core).arrivals ch).any (fun e => e.taken.any (fun h => h != s.cur)) ||
  (List.range 4).any (fun ts => (s.thread (core * 4 + ts)).regs.streams.any (fun e => match e.2 with
    | some b => b.arrival && b.channel == ch
    | none => false))

/-- Lowest and highest element offset from BASE. -/
def patternLow (bounds : List Nat) (strides : List Int) : Int :=
  (bounds.zip strides).foldl (fun a x => a + min 0 (((x.1 : Int) - 1) * x.2)) 0
def patternHigh (bounds : List Nat) (strides : List Int) : Int :=
  (bounds.zip strides).foldl (fun a x => a + max 0 (((x.1 : Int) - 1) * x.2)) 0

/-- Every element of the pattern lies in the scratchpad of the core (R250). -/
def patternIn (core : Nat) (base : Word) (d : Vec) : Bool :=
  isOA base &&
  (spadKey core 0 : Int) ≤ base.toNat + patternLow (descBounds d) (descStrides d) &&
  (base.toNat : Int) + patternHigh (descBounds d) (descStrides d) + 64 ≤ spadKey core spadSize

/-- Bind `vn` as the descriptor says, or the trap it raises (R250); the trap of a misaligned STRIDE and of a pattern that leaves the
scratchpad names BASE (DESIGN CHOICE, log 37). -/
def bindTo (s : State) (vn : Reg) (d : Vec) : Result :=
  let core := hartCore s.cur
  let base : Word := d.extractLsb' 0 64
  if descIllegal d || (descKind d && s.channelBound core (descChannel d)) then illegal s
  else if !descKind d && (base.toNat % 64 ≠ 0 ||
      (((descBounds d).zip (descStrides d)).any (fun x => decide (1 < x.1) && x.2 % 64 != 0))) then misalign s base
  else if !descKind d && !patternIn core base d then takeTrap s .window base 0
  else
    let b : Binding := { arrival := descKind d, write := descWrite d, channel := descChannel d, base := base.toNat
                         bounds := descBounds d, strides := descStrides d, pos := 0, count := 0, fetched := []
                         own := if descKind d then [] else s.me.chunk.stores }
    (s.setRegs (s.me.regs.setBinding vn (some b))).done

def execSbind (vn sd : Reg) (s : State) : Result :=
  let a := s.rs sd
  if a.toNat % 64 ≠ 0 then misalign s a
  else if !s.inSpad s.myPart a 64 then addressTrap s .window a
  else if s.held s.cur a.toNat 64 then s.stalled (.sbind vn sd)
  else
    let s' := if arbOfKey a.toNat = arbOf s.cur then s.noteRead s.cur a.toNat 64 else s
    bindTo s' vn (bytesVec (s.ownBytes s.cur a.toNat 64))

/-- SUNB: pushes are weak stores of their chunks and need no draining of their own; read-ahead data is dropped (R89, R255). -/
def execSunb (vn : Reg) (s : State) : Result := (s.setRegs (s.me.regs.setBinding vn none)).done

/-- SSKIP (R253): an arrival binding discards entries as they come, a marked query's without a trap (R330). Its count is read again until
the first entry is taken. -/
def execSskip (vn sc : Reg) (s : State) : Result :=
  let c := (s.rs sc).toNat
  let h := s.cur
  let t := s.me
  match t.regs.binding vn with
  | none => s.done
  | some b =>
    if c = 0 then s.done
    else if b.arrival then
      let left := if b.skip = 0 then c else b.skip
      let taken := Tab.get 0 t.chunk.pops b.channel
      let mine (e : ArrEntry) : Bool := e.taken.isNone || e.taken == some h
      let have' := (((s.core (hartCore h)).arrivals b.channel).filter mine).length - taken
      let n := min left have'
      let put (b : Binding) : State := (s.setThread h { t with regs := t.regs.setBinding vn (some b) }).popTo h b.channel (taken + n)
      if n = left then (put { b with count := b.count + c, skip := 0 }).done
      else (put { b with skip := if n = 0 then b.skip else left - n }).stalled (.sskip vn sc)
    else
      let nb : Binding := { b with pos := min b.total (b.pos + c), count := b.count + c, fetched := b.fetched.drop c }
      (s.setRegs (t.regs.setBinding vn (some nb))).done

/-! ## Events -/

/-- STREAM_PREFETCH: hart `cur`, stream v(24 + `arg`): the stream unit reads the next element, up to 8 ahead (R252, R254). -/
def execStreamPrefetch (s : State) : Result :=
  let h := s.cur
  let t := s.thread h
  let vn : Reg := BitVec.ofNat 5 (24 + s.arg)
  match (if s.arg < 8 && t.run == .running then t.regs.binding vn else none) with
  | none => .next s
  | some b =>
    let k := b.elem (b.pos + b.fetched.length)
    if b.arrival || b.write || 8 ≤ b.fetched.length || b.total ≤ b.pos + b.fetched.length || s.held h k 64 then .next s
    else
      let nb : Binding := { b with fetched := b.fetched ++ [bytesVec (s.bytesAt k 64)] }
      .next (s.setThread h { t with regs := t.regs.setBinding vn (some nb) })

/-- The vector sources of a head that may stall at a pop. -/
def vecSources : Instr → List Reg
  | .stv vs _ _ => [vs]
  | .vadd _ a b _ _ | .vsub _ a b _ _ | .vmul _ a b _ _ | .vdiv _ a b _ _ | .vmin _ a b _ _ | .vmax _ a b _ _ => [a, b]
  | .vand _ a b _ _ | .vor _ a b _ _ | .vxor _ a b _ _ | .vshl _ a b _ _ | .vshr _ a b _ _ | .vsra _ a b _ _ => [a, b]
  | .vfma _ a b c _ _ | .vfms _ a b c _ _ | .vfnma _ a b c _ _ => [a, b, c]
  | .vsqrt _ a _ _ | .vmov _ a _ _ | .vshlImm _ a _ _ _ | .vshrImm _ a _ _ _ | .vsraImm _ a _ _ _ => [a]
  | .vsel _ a b _ _ _ | .vcmp _ a b _ _ _ | .vqnt _ a b _ _ | .vperm _ a b _ _ | .vdot _ a b _ _ => [a, b]
  | .vclass _ a _ _ _ | .vcvt _ a _ _ _ _ _ | .vdq _ a _ _ _ | .vext _ a _ _ => [a]
  | .vredAdd _ a _ _ | .vredMin _ a _ _ | .vredMax _ a _ _ => [a]
  | .tqB a _ | .tqH a _ | .tqIntp a _ => [a]
  | .tqPair a _ b => [a, b]
  | .knmode v => [v]
  | .knlaunch a b => [a, b]
  | _ => []

/-- STREAM_STALL_RELEASE: the pops of bound sources that hart `cur` stalls at can be made, and its head may issue again (R252). -/
def execStreamStallRelease (s : State) : Result :=
  match s.me.wait with
  | .stall i =>
    if (vecSources i).all (fun n => (s.me.regs.binding n).isNone) then .next s
    else match popAll s (vecSources i) with
    | .stall => .next s
    | _ => .next (s.setMe { s.me with wait := .none })
  | _ => .next s

end Sys2Proof.Machine
end

