-- ==== Sys2Proof/Machine/Vector.lean ====
section
/-! DEFINITION. Vector and mask instructions (R231 to R247). -/

namespace Sys2Proof.Machine

/-! ## Operand forms -/

/-- One source. -/
def vec1 (s : State) (i : Instr) (va : Reg) (dst : Option Reg) (f : State → Vec → Result) : Result :=
  withDir s [va] dst (fun s => withPops s i [va] (fun s v => f s (v va)))
/-- Two sources. -/
def vec2 (s : State) (i : Instr) (va vb : Reg) (dst : Option Reg) (f : State → Vec → Vec → Result) : Result :=
  withDir s [va, vb] dst (fun s => withPops s i [va, vb] (fun s v => f s (v va) (v vb)))
/-- Three sources. -/
def vec3 (s : State) (i : Instr) (va vb vc : Reg) (dst : Option Reg) (f : State → Vec → Vec → Vec → Result) : Result :=
  withDir s [va, vb, vc] dst (fun s => withPops s i [va, vb, vc] (fun s v => f s (v va) (v vb) (v vc)))

/-- Write the lanes that a write mask enables (R232). -/
def lanesTo (s : State) (vd : Reg) (t : Ty) (md : BitVec 16) (f : Nat → Nat × Flg) : Result :=
  let r := mapLanes t (maskOn s md) (s.oldV vd) f
  s.doneV vd r.1 r.2

/-- Lane `i` of source `k` after the source modifiers. -/
def srcLane (t : Ty) (md : BitVec 16) (k : Nat) (v : Vec) (i : Nat) : Nat := modLane t md k (laneOf t.width v i)

/-- The destination rule for a lane of type `t` (R235, R236). -/
def destF (t : Ty) (md : BitVec 16) (x : Res) : Nat × Flg := (fmtOf t.toNat).finish .rne (scaleOf md) (clampOf md) x
def destI (t : Ty) (md : BitVec 16) (x : Int) : Nat × Flg := finishInt t.isSigned t.width (clampOf md) x
def intLane (t : Ty) (x : Nat) : Int := intOf t.isSigned t.width x

/-- A two-source arithmetic lane. -/
def arith2 (t : Ty) (md : BitVec 16) (f : Num → Num → Res) (g : Int → Int → Int) (a b : Nat) : Nat × Flg :=
  if t.isInt then destI t md (g (intLane t a) (intLane t b)) else destF t md (f (valOf t a) (valOf t b))
/-- A three-source arithmetic lane. -/
def arith3 (t : Ty) (md : BitVec 16) (f : Num → Num → Num → Res) (g : Int → Int → Int → Int) (a b c : Nat) : Nat × Flg :=
  if t.isInt then destI t md (g (intLane t a) (intLane t b) (intLane t c)) else destF t md (f (valOf t a) (valOf t b) (valOf t c))

def vop2 (s : State) (i : Instr) (vd va vb : Reg) (t : Ty) (md : BitVec 16) (f : Nat → Nat → Nat × Flg) : Result :=
  vec2 s i va vb (some vd) (fun s a b => lanesTo s vd t md (fun k => f (srcLane t md 1 a k) (srcLane t md 2 b k)))
def vop1 (s : State) (i : Instr) (vd va : Reg) (t : Ty) (md : BitVec 16) (f : Nat → Nat × Flg) : Result :=
  vec1 s i va (some vd) (fun s a => lanesTo s vd t md (fun k => f (srcLane t md 1 a k)))
def vop3 (s : State) (i : Instr) (vd va vb vc : Reg) (t : Ty) (md : BitVec 16) (f : Nat → Nat → Nat → Nat × Flg) : Result :=
  vec3 s i va vb vc (some vd) (fun s a b c =>
    lanesTo s vd t md (fun k => f (srcLane t md 1 a k) (srcLane t md 2 b k) (srcLane t md 3 c k)))

/-! ## VOP (R234 to R238) -/

def execVadd (vd va vb : Reg) (ty : Ty) (md : BitVec 16) (s : State) : Result :=
  vop2 s (.vadd vd va vb ty md) vd va vb ty md (arith2 ty md Num.add (fun a b => a + b))
def execVsub (vd va vb : Reg) (ty : Ty) (md : BitVec 16) (s : State) : Result :=
  vop2 s (.vsub vd va vb ty md) vd va vb ty md (arith2 ty md (fun a b => Num.add a b.neg) (fun a b => a - b))
def execVmul (vd va vb : Reg) (ty : Ty) (md : BitVec 16) (s : State) : Result :=
  vop2 s (.vmul vd va vb ty md) vd va vb ty md (arith2 ty md Num.mul (fun a b => a * b))
def execVfma (vd va vb vc : Reg) (ty : Ty) (md : BitVec 16) (s : State) : Result :=
  vop3 s (.vfma vd va vb vc ty md) vd va vb vc ty md (arith3 ty md Num.fma (fun a b c => a * b + c))
def execVfms (vd va vb vc : Reg) (ty : Ty) (md : BitVec 16) (s : State) : Result :=
  vop3 s (.vfms vd va vb vc ty md) vd va vb vc ty md (arith3 ty md (fun a b c => Num.fma a b c.neg) (fun a b c => a * b - c))
def execVfnma (vd va vb vc : Reg) (ty : Ty) (md : BitVec 16) (s : State) : Result :=
  vop3 s (.vfnma vd va vb vc ty md) vd va vb vc ty md (arith3 ty md (fun a b c => Num.fma a.neg b c) (fun a b c => -(a * b) + c))
def execVdiv (vd va vb : Reg) (ty : Ty) (md : BitVec 16) (s : State) : Result :=
  vop2 s (.vdiv vd va vb ty md) vd va vb ty md (fun a b => destF ty md (Num.div (valOf ty a) (valOf ty b)))
def execVsqrt (vd va : Reg) (ty : Ty) (md : BitVec 16) (s : State) : Result :=
  vop1 s (.vsqrt vd va ty md) vd va ty md (fun a => destF ty md (Num.sqrt (valOf ty a)))

/-- VMIN and VMAX (R236): `mx` takes the larger. -/
def minMaxLane (mx : Bool) (t : Ty) (md : BitVec 16) (a b : Nat) : Nat × Flg :=
  if t.isInt then destI t md (if (intLane t a < intLane t b) == mx then intLane t b else intLane t a)
  else
    let f := fmtOf t.toNat
    let r := f.minmax mx a b
    destF t md (f.dec r.1, r.2)
def execVmin (vd va vb : Reg) (ty : Ty) (md : BitVec 16) (s : State) : Result :=
  vop2 s (.vmin vd va vb ty md) vd va vb ty md (minMaxLane false ty md)
def execVmax (vd va vb : Reg) (ty : Ty) (md : BitVec 16) (s : State) : Result :=
  vop2 s (.vmax vd va vb ty md) vd va vb ty md (minMaxLane true ty md)

def execVand (vd va vb : Reg) (ty : Ty) (md : BitVec 16) (s : State) : Result :=
  vop2 s (.vand vd va vb ty md) vd va vb ty md (fun a b => (a &&& b, 0))
def execVor (vd va vb : Reg) (ty : Ty) (md : BitVec 16) (s : State) : Result :=
  vop2 s (.vor vd va vb ty md) vd va vb ty md (fun a b => (a ||| b, 0))
def execVxor (vd va vb : Reg) (ty : Ty) (md : BitVec 16) (s : State) : Result :=
  vop2 s (.vxor vd va vb ty md) vd va vb ty md (fun a b => (a ^^^ b, 0))

/-- Shifts of a `w`-bit lane by an unsigned count (R237). -/
def shlLane (w a n : Nat) : Nat := if w ≤ n then 0 else a * 2 ^ n % 2 ^ w
def shrLane (w a n : Nat) : Nat := if w ≤ n then 0 else a / 2 ^ n
def sraLane (w a n : Nat) : Nat := wrapInt w (intOf true w a / 2 ^ min n w)
def execVshl (vd va vb : Reg) (ty : Ty) (md : BitVec 16) (s : State) : Result :=
  vop2 s (.vshl vd va vb ty md) vd va vb ty md (fun a b => (shlLane ty.width a b, 0))
def execVshlImm (vd va : Reg) (n : BitVec 8) (ty : Ty) (md : BitVec 16) (s : State) : Result :=
  vop1 s (.vshlImm vd va n ty md) vd va ty md (fun a => (shlLane ty.width a n.toNat, 0))
def execVshr (vd va vb : Reg) (ty : Ty) (md : BitVec 16) (s : State) : Result :=
  vop2 s (.vshr vd va vb ty md) vd va vb ty md (fun a b => (shrLane ty.width a b, 0))
def execVshrImm (vd va : Reg) (n : BitVec 8) (ty : Ty) (md : BitVec 16) (s : State) : Result :=
  vop1 s (.vshrImm vd va n ty md) vd va ty md (fun a => (shrLane ty.width a n.toNat, 0))
def execVsra (vd va vb : Reg) (ty : Ty) (md : BitVec 16) (s : State) : Result :=
  vop2 s (.vsra vd va vb ty md) vd va vb ty md (fun a b => (sraLane ty.width a b, 0))
def execVsraImm (vd va : Reg) (n : BitVec 8) (ty : Ty) (md : BitVec 16) (s : State) : Result :=
  vop1 s (.vsraImm vd va n ty md) vd va ty md (fun a => (sraLane ty.width a n.toNat, 0))

/-- VSEL and VMOV keep bit patterns (R238). -/
def execVsel (vd va vb : Reg) (mk : BitVec 3) (ty : Ty) (md : BitVec 16) (s : State) : Result :=
  vec2 s (.vsel vd va vb mk ty md) va vb (some vd) (fun s a b => lanesTo s vd ty md (fun k =>
    (if (s.me.regs.getM mk.toNat).getLsbD k then srcLane ty md 1 a k else srcLane ty md 2 b k, 0)))
def execVmov (vd va : Reg) (ty : Ty) (md : BitVec 16) (s : State) : Result :=
  vop1 s (.vmov vd va ty md) vd va ty md (fun a => (a, 0))

/-! ## VCMP and VCLASS (R239, R240) -/

/-- The comparison of two lanes and the flag it raises. -/
def compareLane (cc : Nat) (t : Ty) (a b : Nat) : Bool × Flg :=
  let x := valOf t a
  let y := valOf t b
  let o := Num.cmp x y
  let un := x.isNan || y.isNan
  let quiet := sigFlag x y
  match cc with
  | 0 => (!un && o == .eq, quiet)
  | 1 => (un || o != .eq, quiet)
  | 2 => (!un && o == .lt, flagIf un fNV)
  | 3 => (!un && o != .gt, flagIf un fNV)
  | 4 => (!un && o == .gt, flagIf un fNV)
  | 5 => (!un && o != .lt, flagIf un fNV)
  | _ => (un, quiet)

/-- Bits 0 to L-1 of a mask destination: the outcome where enabled, 0 elsewhere; the other bits stay (R88, R239). -/
def maskBits (old : Word) (lanes : Nat) (on : Nat → Bool) (f : Nat → Bool) : Word :=
  BitVec.ofNat 64 (old.toNat / 2 ^ lanes * 2 ^ lanes +
    (List.range lanes).foldl (fun a i => a + if on i && f i then 2 ^ i else 0) 0)

def execVcmp (mdst va vb : Reg) (cc : BitVec 3) (ty : Ty) (md : BitVec 16) (s : State) : Result :=
  vec2 s (.vcmp mdst va vb cc ty md) va vb none (fun s a b =>
    let r (k : Nat) : Bool × Flg := compareLane cc.toNat ty (srcLane ty md 1 a k) (srcLane ty md 2 b k)
    let m := maskBits (s.me.regs.getM mdst.toNat) (lanesOf ty) (maskOn s md) (fun k => (r k).1)
    let fl := (List.range (lanesOf ty)).foldl (fun f k => if maskOn s md k then f ||| (r k).2 else f) 0
    (s.setRegs ((s.me.regs.raise fl).setM mdst.toNat m)).done)

/-- Class number of a pattern (R240). -/
def classOf (f : Fmt) (x : Nat) : Nat :=
  match f.dec x with
  | .nan sig => if sig then 8 else 9
  | .inf neg => if neg then 0 else 7
  | .fin neg m _ =>
    if m = 0 then (if neg then 3 else 4)
    else if x / 2 ^ f.mb % 2 ^ f.eb = 0 then (if neg then 2 else 5)
    else (if neg then 1 else 6)

def execVclass (mdst va : Reg) (set : BitVec 10) (ty : Ty) (md : BitVec 16) (s : State) : Result :=
  vec1 s (.vclass mdst va set ty md) va none (fun s a =>
    let m := maskBits (s.me.regs.getM mdst.toNat) (lanesOf ty) (maskOn s md)
      (fun k => set.getLsbD (classOf (fmtOf ty.toNat) (laneOf ty.width a k)))
    (s.setRegs (s.me.regs.setM mdst.toNat m)).done)

/-! ## VCVT, VQNT, VDQ (R241 to R244) -/

/-- conv of R242 on one lane pattern after its source modifiers (DEDUCED, log 35 and 37). -/
def convLane (dt st : Ty) (mode : Mode) (md : BitVec 16) (x : Nat) : Nat × Flg :=
  let v := valOf st x
  if dt.isInt then
    if st.isInt then finishInt dt.isSigned dt.width (clampOf md) (intOf st.isSigned st.width x)
    else
      let lim : Flg := if clampOf md = 3 then fSAT else fNV
      match v with
      | .nan _ => (0, fNV)
      | .inf neg => (wrapInt dt.width (if neg then intMin dt.isSigned dt.width else intMax dt.isSigned dt.width), lim)
      | .fin neg m e =>
        let r := roundInt mode neg m e
        if r.1 < intMin dt.isSigned dt.width then (wrapInt dt.width (intMin dt.isSigned dt.width), lim)
        else if intMax dt.isSigned dt.width < r.1 then (wrapInt dt.width (intMax dt.isSigned dt.width), lim)
        else (wrapInt dt.width r.1, flagIf r.2 fNX)
  else (fmtOf dt.toNat).finish mode (scaleOf md) (clampOf md) (v, flagIf v.isSig fNV)

def execVcvt (vd va : Reg) (dt st : Ty) (part mode : BitVec 3) (md : BitVec 16) (s : State) : Result :=
  vec1 s (.vcvt vd va dt st part mode md) va (some vd) (fun s a =>
    let lw := 512 / max dt.width st.width
    let lo := part.toNat * lw
    let narrow := dt.width < st.width
    let widen := st.width < dt.width
    -- destination lane `j` takes source lane and mask bit as R242 pairs them
    let on (j : Nat) : Bool := if narrow then lo ≤ j && j < lo + lw && maskOn s md (j - lo) else maskOn s md j
    let r := mapLanes dt on (s.oldV vd) (fun j =>
      convLane dt st (modeOf mode.toNat) md (srcLane st md 1 a (if narrow then j - lo else if widen then lo + j else j)))
    s.doneV vd r.1 r.2)

/-- Exponent floor(log2 |x|) of a finite non-zero value. -/
def floorLog2 (m : Nat) (e : Int) : Int := e + m.log2

/-- e of R243 for 32 values. -/
def blockExp (emax : Int) (xs : List Num) : Int :=
  let logs := xs.filterMap (fun x => match x with
    | .fin _ m e => if m = 0 then none else some (floorLog2 m e)
    | _ => none)
  match logs.max? with
  | none => 0
  | some l => min 127 (max (-126) (l - emax))

/-- One quantised element of R243: its bits and flags. An integer type saturates at plus and minus its largest value. -/
def quantOne (t : Ty) (mode : Mode) (e : Int) (x : Num) : Nat × Flg :=
  if t.toNat = 4 || t.toNat = 5 then
    let f := fmtOf t.toNat
    match x with
    | .nan sig => (f.nan, flagIf sig fNV)
    | .inf neg => (f.maxBits neg, fSAT)
    | v => f.finish mode (-e) 3 (v, 0)
  else
    let w := if t.toNat = 8 then 4 else 8
    let top := intMax true w
    match x with
    | .nan _ => (0, fNV)
    | .inf neg => (wrapInt w (if neg then -top else top), fSAT)
    | .fin neg m k =>
      let r := roundInt mode neg m (k - e)
      if r.1 < -top then (wrapInt w (-top), fSAT)
      else if top < r.1 then (wrapInt w top, fSAT)
      else (wrapInt w r.1, flagIf r.2 fNX)

def execVqnt (vd va vb : Reg) (ty : Ty) (mode : BitVec 3) (s : State) : Result :=
  vec2 s (.vqnt vd va vb ty mode) va vb (some vd) (fun s a b =>
    let xs := ((List.range 16).map (fun i => f32.dec (laneOf 32 a i))) ++ ((List.range 16).map (fun i => f32.dec (laneOf 32 b i)))
    let emax : Int := match ty.toNat with
      | 4 => 8
      | 5 => 15
      | 10 => 6
      | _ => 2
    let e := blockExp emax xs
    let q := xs.map (quantOne ty (modeOf mode.toNat) e)
    let w := if ty.toNat = 8 then 4 else 8
    let body := q.foldr (fun x acc => x.1 % 2 ^ w + 2 ^ w * acc) 0
    let fl := q.foldl (fun f x => f ||| x.2) 0
    s.doneV vd (BitVec.ofNat 512 (body + (e + 127).toNat * 2 ^ 256)) fl)

/-- Value of element `k` of a quantised block. -/
def quantVal (t : Ty) (v : Vec) (k : Nat) : Num :=
  if t.toNat = 8 then Num.ofInt (intOf true 4 (laneOf 4 v k))
  else if t.toNat = 10 then Num.ofInt (intOf true 8 (laneOf 8 v k))
  else (fmtOf t.toNat).dec (laneOf 8 v k)

/-- VDQ (R244). A signalling element raises NV under every scale, 255 included (DESIGN CHOICE, log 37). -/
def execVdq (vd va : Reg) (part : BitVec 1) (ty : Ty) (md : BitVec 16) (s : State) : Result :=
  vec1 s (.vdq vd va part ty md) va (some vd) (fun s a =>
    let sc := laneOf 8 a 32
    lanesTo s vd 1#5 md (fun i =>
      let v := quantVal ty a (16 * part.toNat + i)
      if sc = 255 then (0x7FC00000, flagIf v.isSig fNV)
      else f32.finish .rne (scaleOf md) (clampOf md) (v.scale ((sc : Int) - 127), flagIf v.isSig fNV)))

/-! ## VLANE (R245, R246) -/

def execVsplat (vd rs : Reg) (ty : Ty) (md : BitVec 16) (s : State) : Result :=
  withDir s [] (some vd) (fun s => lanesTo s vd ty md (fun _ => ((s.rs rs).toNat % 2 ^ ty.width, 0)))

/-- A lane as VEXT extends it. -/
def laneWord (t : Ty) (x : Nat) : Word := extendTy t x

def execVext (rd va si : Reg) (ty : Ty) (s : State) : Result :=
  vec1 s (.vext rd va si ty) va none (fun s a =>
    let k := (s.rs si).toNat
    (s.ws rd (if k < lanesOf ty then laneWord ty (laneOf ty.width a k) else 0)).done)

/-- VINS reads and writes vd (R245): a bound register is against its direction either way (R89). -/
def execVins (vd rs si : Reg) (ty : Ty) (s : State) : Result :=
  withDir s [vd] (some vd) (fun s =>
    let k := (s.rs si).toNat
    let x := (s.rs rs).toNat % 2 ^ ty.width
    s.doneV vd (mapLanes ty (fun i => i == k) (s.me.regs.getV vd) (fun _ => (x, 0))).1 0)

def execVperm (vd va vb : Reg) (ty : Ty) (md : BitVec 16) (s : State) : Result :=
  vec2 s (.vperm vd va vb ty md) va vb (some vd) (fun s a b => lanesTo s vd ty md (fun i =>
    let j := srcLane ty md 2 b i
    (if j < lanesOf ty then srcLane ty md 1 a j else 0, 0)))

/-- One level of the tree of R178: neighbours combined, an absent child replaced by the other. -/
def treeLevel (f : Nat → Nat → Nat × Flg) : List (Option Nat) → List (Option Nat) × Flg
  | a :: b :: r =>
    let rest := treeLevel f r
    match a, b with
    | some x, some y =>
      let z := f x y
      (some z.1 :: rest.1, z.2 ||| rest.2)
    | some x, none => (some x :: rest.1, rest.2)
    | none, y => (y :: rest.1, rest.2)
  | l => (l, 0)
/-- The root of a tree of `n` levels. -/
def treeRoot (f : Nat → Nat → Nat × Flg) : Nat → List (Option Nat) → Option Nat × Flg
  | 0, l => (l.head?.join, 0)
  | n + 1, l =>
    let r := treeLevel f l
    let q := treeRoot f n r.1
    (q.1, r.2 ||| q.2)

/-- The reductions of R246. -/
inductive RedOp where
  | add
  | min
  | max
  deriving DecidableEq, Repr

/-- A node of the tree (R178). -/
def redNode (op : RedOp) (t : Ty) (a b : Nat) : Nat × Flg :=
  if t.isInt then
    let x := intLane t a
    let y := intLane t b
    (match op with
     | .add => wrapInt t.width (x + y)
     | .min => if x ≤ y then a else b
     | .max => if x ≤ y then b else a, 0)
  else
    let f := fmtOf t.toNat
    match op with
    | .add => f.finish .rne 0 0 (Num.add (f.dec a) (f.dec b))
    | .min => f.minmax false a b
    | .max => f.minmax true a b

/-- A leaf: a NaN becomes the default NaN, a signalling one sets NV (R178). -/
def redLeaf (t : Ty) (a : Nat) : Nat × Flg :=
  if t.isInt then (a, 0)
  else
    let x := (fmtOf t.toNat).dec a
    if x.isNan then ((fmtOf t.toNat).nan, flagIf x.isSig fNV) else (a, 0)

/-- The identity of an absent root (R178). -/
def redId (op : RedOp) (t : Ty) : Nat :=
  if t.isInt then
    match op with
    | .add => 0
    | .min => wrapInt t.width (intMax t.isSigned t.width)
    | .max => wrapInt t.width (intMin t.isSigned t.width)
  else
    let f := fmtOf t.toNat
    match op with
    | .add => 0
    | .min => f.infBits false
    | .max => f.infBits true

/-- The tree over the leaves, an absent lane where the mask is 0, and rd := its root (R246). -/
def reduceTo (s : State) (rd : Reg) (op : RedOp) (t : Ty) (md : BitVec 16) (leaf : Nat → Nat × Flg) : Result :=
  let l := (List.range (lanesOf t)).map (fun i => if maskOn s md i then some (leaf i) else none)
  let lf := l.foldl (fun f x => match x with
    | some y => f ||| y.2
    | none => f) (0 : Flg)
  let r := treeRoot (redNode op t) (lanesOf t).log2 (l.map (fun x => x.map Prod.fst))
  s.doneS rd (laneWord t (r.1.getD (redId op t))) (lf ||| r.2)

def execVredAdd (rd va : Reg) (ty : Ty) (md : BitVec 16) (s : State) : Result :=
  vec1 s (.vredAdd rd va ty md) va none (fun s a => reduceTo s rd .add ty md (fun i => redLeaf ty (srcLane ty md 1 a i)))
def execVredMin (rd va : Reg) (ty : Ty) (md : BitVec 16) (s : State) : Result :=
  vec1 s (.vredMin rd va ty md) va none (fun s a => reduceTo s rd .min ty md (fun i => redLeaf ty (srcLane ty md 1 a i)))
def execVredMax (rd va : Reg) (ty : Ty) (md : BitVec 16) (s : State) : Result :=
  vec1 s (.vredMax rd va ty md) va none (fun s a => reduceTo s rd .max ty md (fun i => redLeaf ty (srcLane ty md 1 a i)))

/-- A leaf of VDOT: the product rounded once (R178). -/
def dotLeaf (t : Ty) (a b : Nat) : Nat × Flg :=
  if t.isInt then (wrapInt t.width (intLane t a * intLane t b), 0)
  else (fmtOf t.toNat).finish .rne 0 0 (Num.mul (valOf t a) (valOf t b))
def execVdot (rd va vb : Reg) (ty : Ty) (md : BitVec 16) (s : State) : Result :=
  vec2 s (.vdot rd va vb ty md) va vb none (fun s a b =>
    reduceTo s rd .add ty md (fun i => dotLeaf ty (srcLane ty md 1 a i) (srcLane ty md 2 b i)))

def execVidx (vd rs : Reg) (ty : Ty) (md : BitVec 16) (s : State) : Result :=
  withDir s [] (some vd) (fun s => lanesTo s vd ty md (fun i => (((s.rs rs).toNat + i) % 2 ^ ty.width, 0)))

/-! ## MASK (R247) -/

def execMset (md rs : Reg) (s : State) : Result := (s.setRegs (s.me.regs.setM md.toNat (s.rs rs))).done
def execMand (md ma mb : Reg) (s : State) : Result :=
  (s.setRegs (s.me.regs.setM md.toNat (s.me.regs.getM ma.toNat &&& s.me.regs.getM mb.toNat))).done
def execMor (md ma mb : Reg) (s : State) : Result :=
  (s.setRegs (s.me.regs.setM md.toNat (s.me.regs.getM ma.toNat ||| s.me.regs.getM mb.toNat))).done
def execMnot (md ma : Reg) (s : State) : Result := (s.setRegs (s.me.regs.setM md.toNat (~~~(s.me.regs.getM ma.toNat)))).done
/-- Number of one bits. -/
def onesOf (a : Word) : Word := BitVec.ofNat 64 ((List.range 64).countP (fun i => a.getLsbD i))
def execMpop (rd ma : Reg) (s : State) : Result := (s.ws rd (onesOf (s.me.regs.getM ma.toNat))).done

end Sys2Proof.Machine
end

