-- ==== Sys2Proof/Machine/Dispatch.lean ====
section
/-! DEFINITION. The meaning of every instruction: one arm for each. -/

namespace Sys2Proof.Machine

/-- What an instruction or an event does to the machine. -/
def exec (i : Instr) (s : State) : Host.Outcome State Fault Refusal :=
  match i with
  | .add rd rs1 rs2 => Sys2Proof.Machine.execAdd rd rs1 rs2 s
  | .sub rd rs1 rs2 => Sys2Proof.Machine.execSub rd rs1 rs2 s
  | .mul rd rs1 rs2 => Sys2Proof.Machine.execMul rd rs1 rs2 s
  | .mulh rd rs1 rs2 => Sys2Proof.Machine.execMulh rd rs1 rs2 s
  | .mulhz rd rs1 rs2 => Sys2Proof.Machine.execMulhz rd rs1 rs2 s
  | .div rd rs1 rs2 => Sys2Proof.Machine.execDiv rd rs1 rs2 s
  | .divz rd rs1 rs2 => Sys2Proof.Machine.execDivz rd rs1 rs2 s
  | .rem rd rs1 rs2 => Sys2Proof.Machine.execRem rd rs1 rs2 s
  | .remz rd rs1 rs2 => Sys2Proof.Machine.execRemz rd rs1 rs2 s
  | .and rd rs1 rs2 => Sys2Proof.Machine.execAnd rd rs1 rs2 s
  | .or rd rs1 rs2 => Sys2Proof.Machine.execOr rd rs1 rs2 s
  | .xor rd rs1 rs2 => Sys2Proof.Machine.execXor rd rs1 rs2 s
  | .shl rd rs1 rs2 => Sys2Proof.Machine.execShl rd rs1 rs2 s
  | .shr rd rs1 rs2 => Sys2Proof.Machine.execShr rd rs1 rs2 s
  | .sra rd rs1 rs2 => Sys2Proof.Machine.execSra rd rs1 rs2 s
  | .slt rd rs1 rs2 => Sys2Proof.Machine.execSlt rd rs1 rs2 s
  | .sltz rd rs1 rs2 => Sys2Proof.Machine.execSltz rd rs1 rs2 s
  | .min rd rs1 rs2 => Sys2Proof.Machine.execMin rd rs1 rs2 s
  | .max rd rs1 rs2 => Sys2Proof.Machine.execMax rd rs1 rs2 s
  | .minz rd rs1 rs2 => Sys2Proof.Machine.execMinz rd rs1 rs2 s
  | .maxz rd rs1 rs2 => Sys2Proof.Machine.execMaxz rd rs1 rs2 s
  | .clz rd rs1 => Sys2Proof.Machine.execClz rd rs1 s
  | .ctz rd rs1 => Sys2Proof.Machine.execCtz rd rs1 s
  | .popc rd rs1 => Sys2Proof.Machine.execPopc rd rs1 s
  | .mov rd rs1 => Sys2Proof.Machine.execMov rd rs1 s
  | .addi rd rs1 imm => Sys2Proof.Machine.execAddi rd rs1 imm s
  | .andi rd rs1 imm => Sys2Proof.Machine.execAndi rd rs1 imm s
  | .ori rd rs1 imm => Sys2Proof.Machine.execOri rd rs1 imm s
  | .xori rd rs1 imm => Sys2Proof.Machine.execXori rd rs1 imm s
  | .slti rd rs1 imm => Sys2Proof.Machine.execSlti rd rs1 imm s
  | .shli rd rs1 imm => Sys2Proof.Machine.execShli rd rs1 imm s
  | .shri rd rs1 imm => Sys2Proof.Machine.execShri rd rs1 imm s
  | .srai rd rs1 imm => Sys2Proof.Machine.execSrai rd rs1 imm s
  | .li rd imm => Sys2Proof.Machine.execLi rd imm s
  | .liSh16 rd imm => Sys2Proof.Machine.execLiSh16 rd imm s
  | .lea rd rs1 imm => Sys2Proof.Machine.execLea rd rs1 imm s
  | .sel rd rs1 rs2 rs3 => Sys2Proof.Machine.execSel rd rs1 rs2 rs3 s
  | .bext rd rs1 pos lenm1 => Sys2Proof.Machine.execBext rd rs1 pos lenm1 s
  | .bins rd rs1 pos lenm1 => Sys2Proof.Machine.execBins rd rs1 pos lenm1 s
  | .beq rs1 rs2 ldisp slot => Sys2Proof.Machine.execBeq rs1 rs2 ldisp slot s
  | .bne rs1 rs2 ldisp slot => Sys2Proof.Machine.execBne rs1 rs2 ldisp slot s
  | .blt rs1 rs2 ldisp slot => Sys2Proof.Machine.execBlt rs1 rs2 ldisp slot s
  | .bge rs1 rs2 ldisp slot => Sys2Proof.Machine.execBge rs1 rs2 ldisp slot s
  | .bltz rs1 rs2 ldisp slot => Sys2Proof.Machine.execBltz rs1 rs2 ldisp slot s
  | .bgez rs1 rs2 ldisp slot => Sys2Proof.Machine.execBgez rs1 rs2 ldisp slot s
  | .loop rs ldisp slot => Sys2Proof.Machine.execLoop rs ldisp slot s
  | .jmp ldisp slot => Sys2Proof.Machine.execJmp ldisp slot s
  | .call ldisp slot => Sys2Proof.Machine.execCall ldisp slot s
  | .jmpr rs => Sys2Proof.Machine.execJmpr rs s
  | .callr rs => Sys2Proof.Machine.execCallr rs s
  | .ret => Sys2Proof.Machine.execRet s
  | .rep n count stride => Sys2Proof.Machine.execRep n count stride s
  | .safe k => Sys2Proof.Machine.execSafe k s
  | .exit first count => Sys2Proof.Machine.execExit first count s
  | .waitc sc st => Sys2Proof.Machine.execWaitc sc st s
  | .nop => Sys2Proof.Machine.execNop s
  | .chunk => Sys2Proof.Machine.execChunk s
  | .yield => Sys2Proof.Machine.execYield s
  | .saved => Sys2Proof.Machine.execSaved s
  | .split => Sys2Proof.Machine.execSplit s
  | .gang g => Sys2Proof.Machine.execGang g s
  | .fence scope => Sys2Proof.Machine.execFence scope s
  | .halt => Sys2Proof.Machine.execHalt s
  | .brk => Sys2Proof.Machine.execBrk s
  | .tret sb => Sys2Proof.Machine.execTret sb s
  | .trap imm => Sys2Proof.Machine.execTrap imm s
  | .crd rd n => Sys2Proof.Machine.execCrd rd n s
  | .cwr n rs => Sys2Proof.Machine.execCwr n rs s
  | .ld rd base ty off => Sys2Proof.Machine.execLd rd base ty off s
  | .st rs base ty off => Sys2Proof.Machine.execSt rs base ty off s
  | .ldv vd base off => Sys2Proof.Machine.execLdv vd base off s
  | .stv vs base off => Sys2Proof.Machine.execStv vs base off s
  | .lda rd base ty off scope => Sys2Proof.Machine.execLda rd base ty off scope s
  | .stl rs base ty off scope => Sys2Proof.Machine.execStl rs base ty off scope s
  | .afence sb sn => Sys2Proof.Machine.execAfence sb sn s
  | .amoAdd rd sa sv ty scope => Sys2Proof.Machine.execAmoAdd rd sa sv ty scope s
  | .amoAnd rd sa sv ty scope => Sys2Proof.Machine.execAmoAnd rd sa sv ty scope s
  | .amoOr rd sa sv ty scope => Sys2Proof.Machine.execAmoOr rd sa sv ty scope s
  | .amoXor rd sa sv ty scope => Sys2Proof.Machine.execAmoXor rd sa sv ty scope s
  | .amoSwap rd sa sv ty scope => Sys2Proof.Machine.execAmoSwap rd sa sv ty scope s
  | .amoSmin rd sa sv ty scope => Sys2Proof.Machine.execAmoSmin rd sa sv ty scope s
  | .amoSmax rd sa sv ty scope => Sys2Proof.Machine.execAmoSmax rd sa sv ty scope s
  | .amoZmin rd sa sv ty scope => Sys2Proof.Machine.execAmoZmin rd sa sv ty scope s
  | .amoZmax rd sa sv ty scope => Sys2Proof.Machine.execAmoZmax rd sa sv ty scope s
  | .amoFadd rd sa sv ty scope => Sys2Proof.Machine.execAmoFadd rd sa sv ty scope s
  | .amoFmin rd sa sv ty scope => Sys2Proof.Machine.execAmoFmin rd sa sv ty scope s
  | .amoFmax rd sa sv ty scope => Sys2Proof.Machine.execAmoFmax rd sa sv ty scope s
  | .amoCas rd sa sv sc ty scope => Sys2Proof.Machine.execAmoCas rd sa sv sc ty scope s
  | .redAdd sa sv ty scope => Sys2Proof.Machine.execRedAdd sa sv ty scope s
  | .redAnd sa sv ty scope => Sys2Proof.Machine.execRedAnd sa sv ty scope s
  | .redOr sa sv ty scope => Sys2Proof.Machine.execRedOr sa sv ty scope s
  | .redXor sa sv ty scope => Sys2Proof.Machine.execRedXor sa sv ty scope s
  | .redSwap sa sv ty scope => Sys2Proof.Machine.execRedSwap sa sv ty scope s
  | .redSmin sa sv ty scope => Sys2Proof.Machine.execRedSmin sa sv ty scope s
  | .redSmax sa sv ty scope => Sys2Proof.Machine.execRedSmax sa sv ty scope s
  | .redZmin sa sv ty scope => Sys2Proof.Machine.execRedZmin sa sv ty scope s
  | .redZmax sa sv ty scope => Sys2Proof.Machine.execRedZmax sa sv ty scope s
  | .redFadd sa sv ty scope => Sys2Proof.Machine.execRedFadd sa sv ty scope s
  | .redFmin sa sv ty scope => Sys2Proof.Machine.execRedFmin sa sv ty scope s
  | .redFmax sa sv ty scope => Sys2Proof.Machine.execRedFmax sa sv ty scope s
  | .putc sc sd sv sg ty scope => Sys2Proof.Machine.execPutc sc sd sv sg ty scope s
  | .apnd rd st sr sl scope => Sys2Proof.Machine.execApnd rd st sr sl scope s
  | .warm sb sn => Sys2Proof.Machine.execWarm sb sn s
  | .qpop rd sq => Sys2Proof.Machine.execQpop rd sq s
  | .vadd vd va vb ty md => Sys2Proof.Machine.execVadd vd va vb ty md s
  | .vsub vd va vb ty md => Sys2Proof.Machine.execVsub vd va vb ty md s
  | .vmul vd va vb ty md => Sys2Proof.Machine.execVmul vd va vb ty md s
  | .vfma vd va vb vc ty md => Sys2Proof.Machine.execVfma vd va vb vc ty md s
  | .vfms vd va vb vc ty md => Sys2Proof.Machine.execVfms vd va vb vc ty md s
  | .vfnma vd va vb vc ty md => Sys2Proof.Machine.execVfnma vd va vb vc ty md s
  | .vdiv vd va vb ty md => Sys2Proof.Machine.execVdiv vd va vb ty md s
  | .vsqrt vd va ty md => Sys2Proof.Machine.execVsqrt vd va ty md s
  | .vmin vd va vb ty md => Sys2Proof.Machine.execVmin vd va vb ty md s
  | .vmax vd va vb ty md => Sys2Proof.Machine.execVmax vd va vb ty md s
  | .vand vd va vb ty md => Sys2Proof.Machine.execVand vd va vb ty md s
  | .vor vd va vb ty md => Sys2Proof.Machine.execVor vd va vb ty md s
  | .vxor vd va vb ty md => Sys2Proof.Machine.execVxor vd va vb ty md s
  | .vshl vd va vb ty md => Sys2Proof.Machine.execVshl vd va vb ty md s
  | .vshlImm vd va n ty md => Sys2Proof.Machine.execVshlImm vd va n ty md s
  | .vshr vd va vb ty md => Sys2Proof.Machine.execVshr vd va vb ty md s
  | .vshrImm vd va n ty md => Sys2Proof.Machine.execVshrImm vd va n ty md s
  | .vsra vd va vb ty md => Sys2Proof.Machine.execVsra vd va vb ty md s
  | .vsraImm vd va n ty md => Sys2Proof.Machine.execVsraImm vd va n ty md s
  | .vsel vd va vb mk ty md => Sys2Proof.Machine.execVsel vd va vb mk ty md s
  | .vmov vd va ty md => Sys2Proof.Machine.execVmov vd va ty md s
  | .vcmp mdst va vb cc ty md => Sys2Proof.Machine.execVcmp mdst va vb cc ty md s
  | .vclass mdst va set ty md => Sys2Proof.Machine.execVclass mdst va set ty md s
  | .vcvt vd va dt st part mode md => Sys2Proof.Machine.execVcvt vd va dt st part mode md s
  | .vqnt vd va vb ty mode => Sys2Proof.Machine.execVqnt vd va vb ty mode s
  | .vdq vd va part ty md => Sys2Proof.Machine.execVdq vd va part ty md s
  | .vsplat vd rs ty md => Sys2Proof.Machine.execVsplat vd rs ty md s
  | .vext rd va si ty => Sys2Proof.Machine.execVext rd va si ty s
  | .vins vd rs si ty => Sys2Proof.Machine.execVins vd rs si ty s
  | .vperm vd va vb ty md => Sys2Proof.Machine.execVperm vd va vb ty md s
  | .vredAdd rd va ty md => Sys2Proof.Machine.execVredAdd rd va ty md s
  | .vredMin rd va ty md => Sys2Proof.Machine.execVredMin rd va ty md s
  | .vredMax rd va ty md => Sys2Proof.Machine.execVredMax rd va ty md s
  | .vdot rd va vb ty md => Sys2Proof.Machine.execVdot rd va vb ty md s
  | .vidx vd rs ty md => Sys2Proof.Machine.execVidx vd rs ty md s
  | .mset md rs => Sys2Proof.Machine.execMset md rs s
  | .mand md ma mb => Sys2Proof.Machine.execMand md ma mb s
  | .mor md ma mb => Sys2Proof.Machine.execMor md ma mb s
  | .mnot md ma => Sys2Proof.Machine.execMnot md ma s
  | .mpop rd ma => Sys2Proof.Machine.execMpop rd ma s
  | .sbind vn sd => Sys2Proof.Machine.execSbind vn sd s
  | .sunb vn => Sys2Proof.Machine.execSunb vn s
  | .sskip vn sc => Sys2Proof.Machine.execSskip vn sc s
  | .mma tile sa sb sp zero notify ci k4m1 nm1 mm1 => Sys2Proof.Machine.execMma tile sa sb sp zero notify ci k4m1 nm1 mm1 s
  | .mmas tile sa sb sp zero notify ci k4m1 nm1 mm1 => Sys2Proof.Machine.execMmas tile sa sb sp zero notify ci k4m1 nm1 mm1 s
  | .mzero tile notify ci => Sys2Proof.Machine.execMzero tile notify ci s
  | .mldt tile sa sp ty notify ci nm1 mm1 => Sys2Proof.Machine.execMldt tile sa sp ty notify ci nm1 mm1 s
  | .mstt tile sa sp ty sat notify ci nm1 mm1 => Sys2Proof.Machine.execMstt tile sa sp ty sat notify ci nm1 mm1 s
  | .mwait n => Sys2Proof.Machine.execMwait n s
  | .mfab tile sc => Sys2Proof.Machine.execMfab tile sc s
  | .mchk rd tile clear => Sys2Proof.Machine.execMchk rd tile clear s
  | .xpush sa => Sys2Proof.Machine.execXpush sa s
  | .xpushb rd sa => Sys2Proof.Machine.execXpushb rd sa s
  | .xwaitDone ch rd => Sys2Proof.Machine.execXwaitDone ch rd s
  | .xwaitRead ch sa => Sys2Proof.Machine.execXwaitRead ch sa s
  | .xwaitFill ch sa => Sys2Proof.Machine.execXwaitFill ch sa s
  | .xresume ch => Sys2Proof.Machine.execXresume ch s
  | .xcancel ch => Sys2Proof.Machine.execXcancel ch s
  | .xstat rd ch => Sys2Proof.Machine.execXstat rd ch s
  | .xstatRead rd ch => Sys2Proof.Machine.execXstatRead rd ch s
  | .xstatFill rd ch => Sys2Proof.Machine.execXstatFill rd ch s
  | .dld rd base ty off => Sys2Proof.Machine.execDld rd base ty off s
  | .dldVector vd base off => Sys2Proof.Machine.execDldVector vd base off s
  | .dst rs base ty off => Sys2Proof.Machine.execDst rs base ty off s
  | .dstVector vs base off => Sys2Proof.Machine.execDstVector vs base off s
  | .tqB va ss => Sys2Proof.Machine.execTqB va ss s
  | .tqH va ss => Sys2Proof.Machine.execTqH va ss s
  | .tqPair va ss vb => Sys2Proof.Machine.execTqPair va ss vb s
  | .tqIntp va ss => Sys2Proof.Machine.execTqIntp va ss s
  | .htload rd sd st => Sys2Proof.Machine.execHtload rd sd st s
  | .hmode rd sp => Sys2Proof.Machine.execHmode rd sp s
  | .ired sc sm => Sys2Proof.Machine.execIred sc sm s
  | .hcmd sh sa sm => Sys2Proof.Machine.execHcmd sh sa sm s
  | .hovl rd sh si => Sys2Proof.Machine.execHovl rd sh si s
  | .rowld sl sb linesm1 => Sys2Proof.Machine.execRowld sl sb linesm1 s
  | .rowst sl sb linesm1 => Sys2Proof.Machine.execRowst sl sb linesm1 s
  | .rowadd sl sb ty linesm1 => Sys2Proof.Machine.execRowadd sl sb ty linesm1 s
  | .knwin sw => Sys2Proof.Machine.execKnwin sw s
  | .kndly sa sr => Sys2Proof.Machine.execKndly sa sr s
  | .knmode vm => Sys2Proof.Machine.execKnmode vm s
  | .knlaunch va vb => Sys2Proof.Machine.execKnlaunch va vb s
  | .kncapt vd ve => Sys2Proof.Machine.execKncapt vd ve s
  | .knfirst vd ve => Sys2Proof.Machine.execKnfirst vd ve s
  | .knreset => Sys2Proof.Machine.execKnreset s
  | .knstat rd => Sys2Proof.Machine.execKnstat rd s
  | .ttload rd sa slot => Sys2Proof.Machine.execTtload rd sa slot s
  | .ttarm sd slot => Sys2Proof.Machine.execTtarm sd slot s
  | .bar rd slot => Sys2Proof.Machine.execBar rd slot s
  | .fsend sa sh sn scope => Sys2Proof.Machine.execFsend sa sh sn scope s
  | .frecv rd ch => Sys2Proof.Machine.execFrecv rd ch s
  | .msred st sa sn sp scope => Sys2Proof.Machine.execMsred st sa sn sp scope s
  | .xorred st sa sn sp scope => Sys2Proof.Machine.execXorred st sa sn sp scope s
  | .facc st sa sn sp scope => Sys2Proof.Machine.execFacc st sa sn sp scope s
  | .gcfg rd sr sg => Sys2Proof.Machine.execGcfg rd sr sg s
  | .gacc rd sw sg st => Sys2Proof.Machine.execGacc rd sw sg st s
  | .gtest rd sg => Sys2Proof.Machine.execGtest rd sg s
  | .gstep rd sg => Sys2Proof.Machine.execGstep rd sg s
  | .gbind rd sg ss => Sys2Proof.Machine.execGbind rd sg ss s
  | .gdrop rd sg mode => Sys2Proof.Machine.execGdrop rd sg mode s
  | .powerUp => Sys2Proof.Machine.execPowerUp s
  | .clusterReady => Sys2Proof.Machine.execClusterReady s
  | .sensorSample => Sys2Proof.Machine.execSensorSample s
  | .partitionLayout => Sys2Proof.Machine.execPartitionLayout s
  | .trapVectorDeclare => Sys2Proof.Machine.execTrapVectorDeclare s
  | .recordPoolDeclare => Sys2Proof.Machine.execRecordPoolDeclare s
  | .damperRangeDeclare => Sys2Proof.Machine.execDamperRangeDeclare s
  | .translationRootDeclare => Sys2Proof.Machine.execTranslationRootDeclare s
  | .hostWindowDeclare => Sys2Proof.Machine.execHostWindowDeclare s
  | .partitionQueueDeclare => Sys2Proof.Machine.execPartitionQueueDeclare s
  | .peerTableWrite => Sys2Proof.Machine.execPeerTableWrite s
  | .preemptRequest => Sys2Proof.Machine.execPreemptRequest s
  | .imageUpdate => Sys2Proof.Machine.execImageUpdate s
  | .attest => Sys2Proof.Machine.execAttest s
  | .counterRead => Sys2Proof.Machine.execCounterRead s
  | .hostWrite => Sys2Proof.Machine.execHostWrite s
  | .hostRead => Sys2Proof.Machine.execHostRead s
  | .countedWrite => Sys2Proof.Machine.execCountedWrite s
  | .unsupportedOperation => Sys2Proof.Machine.execUnsupportedOperation s
  | .transportFailure => Sys2Proof.Machine.execTransportFailure s
  | .pickup => Sys2Proof.Machine.execPickup s
  | .launchAccept => Sys2Proof.Machine.execLaunchAccept s
  | .launchAdmit => Sys2Proof.Machine.execLaunchAdmit s
  | .launchRelease => Sys2Proof.Machine.execLaunchRelease s
  | .versionPublish => Sys2Proof.Machine.execVersionPublish s
  | .versionSlotFree => Sys2Proof.Machine.execVersionSlotFree s
  | .waitcWake => Sys2Proof.Machine.execWaitcWake s
  | .priorityAging => Sys2Proof.Machine.execPriorityAging s
  | .preemptMark => Sys2Proof.Machine.execPreemptMark s
  | .overdue => Sys2Proof.Machine.execOverdue s
  | .gangDrain => Sys2Proof.Machine.execGangDrain s
  | .gangPlace => Sys2Proof.Machine.execGangPlace s
  | .chunkCommit => Sys2Proof.Machine.execChunkCommit s
  | .chunkLengthEnd => Sys2Proof.Machine.execChunkLengthEnd s
  | .storeFootprintEnd => Sys2Proof.Machine.execStoreFootprintEnd s
  | .remoteStoreCommit => Sys2Proof.Machine.execRemoteStoreCommit s
  | .remoteLoad => Sys2Proof.Machine.execRemoteLoad s
  | .registerWindowStore => Sys2Proof.Machine.execRegisterWindowStore s
  | .registerWrite => Sys2Proof.Machine.execRegisterWrite s
  | .waitingTaskArm => Sys2Proof.Machine.execWaitingTaskArm s
  | .messageArrival => Sys2Proof.Machine.execMessageArrival s
  | .putcArrival => Sys2Proof.Machine.execPutcArrival s
  | .apndRowWrite => Sys2Proof.Machine.execApndRowWrite s
  | .trapQueueWrite => Sys2Proof.Machine.execTrapQueueWrite s
  | .streamPrefetch => Sys2Proof.Machine.execStreamPrefetch s
  | .streamStallRelease => Sys2Proof.Machine.execStreamStallRelease s
  | .matrixQueueAccept => Sys2Proof.Machine.execMatrixQueueAccept s
  | .matrixGrant => Sys2Proof.Machine.execMatrixGrant s
  | .matrixBusyEnd => Sys2Proof.Machine.execMatrixBusyEnd s
  | .matrixWriteback => Sys2Proof.Machine.execMatrixWriteback s
  | .matrixPark => Sys2Proof.Machine.execMatrixPark s
  | .staggerTokenMove => Sys2Proof.Machine.execStaggerTokenMove s
  | .addendPacket => Sys2Proof.Machine.execAddendPacket s
  | .kindlingCapture => Sys2Proof.Machine.execKindlingCapture s
  | .kndlyLoadDone => Sys2Proof.Machine.execKndlyLoadDone s
  | .xpushFifoAccept => Sys2Proof.Machine.execXpushFifoAccept s
  | .copy => Sys2Proof.Machine.execCopy s
  | .copyToTensor => Sys2Proof.Machine.execCopyToTensor s
  | .gather => Sys2Proof.Machine.execGather s
  | .scatter => Sys2Proof.Machine.execScatter s
  | .reduce => Sys2Proof.Machine.execReduce s
  | .migrate => Sys2Proof.Machine.execMigrate s
  | .shoot => Sys2Proof.Machine.execShoot s
  | .run => Sys2Proof.Machine.execRun s
  | .copyComplete => Sys2Proof.Machine.execCopyComplete s
  | .page => Sys2Proof.Machine.execPage s
  | .continuationMigrate => Sys2Proof.Machine.execContinuationMigrate s
  | .shootAck => Sys2Proof.Machine.execShootAck s
  | .migrateMove => Sys2Proof.Machine.execMigrateMove s
  | .reduceComplete => Sys2Proof.Machine.execReduceComplete s
  | .refresh => Sys2Proof.Machine.execRefresh s
  | .tableQueryAnswer => Sys2Proof.Machine.execTableQueryAnswer s
  | .tqReserve => Sys2Proof.Machine.execTqReserve s
  | .hearthQueueAccept => Sys2Proof.Machine.execHearthQueueAccept s
  | .iredApply => Sys2Proof.Machine.execIredApply s
  | .hobCommandRun => Sys2Proof.Machine.execHobCommandRun s
  | .hobBudgetExhausted => Sys2Proof.Machine.execHobBudgetExhausted s
  | .hovlLoad => Sys2Proof.Machine.execHovlLoad s
  | .barrierArrival => Sys2Proof.Machine.execBarrierArrival s
  | .barrierDeadline => Sys2Proof.Machine.execBarrierDeadline s
  | .releaseNotice => Sys2Proof.Machine.execReleaseNotice s
  | .ttSend => Sys2Proof.Machine.execTtSend s
  | .ttCopy => Sys2Proof.Machine.execTtCopy s
  | .ttMs => Sys2Proof.Machine.execTtMs s
  | .ttXor => Sys2Proof.Machine.execTtXor s
  | .ttAcc => Sys2Proof.Machine.execTtAcc s
  | .lateMessage => Sys2Proof.Machine.execLateMessage s
  | .roundComplete => Sys2Proof.Machine.execRoundComplete s
  | .packetDeliver => Sys2Proof.Machine.execPacketDeliver s
  | .packetReduceArrival => Sys2Proof.Machine.execPacketReduceArrival s
  | .damperDrainFinish => Sys2Proof.Machine.execDamperDrainFinish s
  | .roundPacketArrival => Sys2Proof.Machine.execRoundPacketArrival s

end Sys2Proof.Machine
end

