-- ==== Sys2Proof/Machine/Policy.lean ====
section
/-! DEFINITION. The default order of turns, used while the agenda is empty (log 1): events that would change the state, harts
and the timebase take turns, each in rotation. Any order the manual allows is an agenda. -/

namespace Sys2Proof.Machine

/-- The event that takes an input. -/
def Input.event : Input → Instr
  | .layout _ _ => .partitionLayout
  | .trapVector _ _ _ => .trapVectorDeclare
  | .recordPool _ _ _ => .recordPoolDeclare
  | .damperRange _ _ _ => .damperRangeDeclare
  | .root _ _ _ _ => .translationRootDeclare
  | .window _ _ _ _ => .hostWindowDeclare
  | .partQueue _ _ _ => .partitionQueueDeclare
  | .peer _ _ _ _ => .peerTableWrite
  | .preempt _ _ => .preemptRequest
  | .update _ _ => .imageUpdate
  | .attest _ _ => .attest
  | .counters _ _ => .counterRead
  | .hostWrite _ _ _ _ => .hostWrite
  | .hostRead _ _ _ _ => .hostRead
  | .counted _ _ _ _ _ => .countedWrite
  | .unsupported _ => .unsupportedOperation
  | .transport _ _ => .transportFailure
  | .sample _ _ _ _ _ => .sensorSample
  | .packet k => if k.kind = 3 then .packetDeliver else .packetReduceArrival
  | .round _ _ _ _ => .roundPacketArrival

/-- The turns that may perform a fabric item. -/
def Msg.turns (m : Msg) : List Turn :=
  let on (l : List Instr) : List Turn := l.map (fun i => .event i m.id 0)
  match m.item with
  | .rstore _ _ => on [.remoteStoreCommit, .waitingTaskArm] ++ [.event .registerWrite m.hart m.id]
  | .rmw _ _ _ _ _ _ _ => on [.messageArrival]
  | .putc _ _ _ _ => on [.putcArrival]
  | .apndRow _ _ _ => on [.apndRowWrite]
  | .packet _ _ _ _ => on [.packetDeliver]
  | .reduce k _ _ _ _ => on [if k = 7 then .addendPacket else .packetReduceArrival]
  | .arrival _ _ _ => on [.barrierArrival]
  | .late _ _ _ _ _ => on [.lateMessage]
  | .peer k => on [if k.kind = 3 then .packetDeliver else .packetReduceArrival]
  | .peerRound _ _ _ _ => on [.roundPacketArrival]

/-- Elements, commands or accesses that a device unit handles in one turn of the default order. -/
def defaultBurst : Nat := 16

/-- The turns that may do something for the harts, units, tasks and queues of the machine. -/
def candidates (s : State) : List Turn :=
  let ev (l : List Instr) (place arg : Nat) : List Turn := l.map (fun i => .event i place arg)
  [.event .powerUp 0 0, .event .clusterReady 0 0] ++
  (s.inbox.head?.map (fun i => .event i.event 0 0)).toList ++
  s.net.flatMap Msg.turns ++
  s.threads.flatMap (fun t =>
    ev [.chunkCommit, .remoteLoad, .registerWindowStore, .registerWrite, .streamStallRelease, .matrixQueueAccept, .xpushFifoAccept,
        .tqReserve, .hearthQueueAccept, .overdue] t.1 0 ++ (List.range 8).map (fun k => .event .streamPrefetch t.1 k)) ++
  (List.range 96).flatMap (fun sk => (List.range 16).flatMap (fun ts =>
    ev [.copy, .copyToTensor, .gather, .scatter, .reduce, .migrate, .shoot, .run, .copyComplete, .page, .continuationMigrate,
        .migrateMove, .reduceComplete] (stokerHart sk ts) defaultBurst ++
    (List.range 12).map (fun j => .event .shootAck (stokerHart sk ts) (sk / 12 * 12 + j)))) ++
  s.clusters.flatMap (fun c =>
    ev [.matrixGrant, .matrixBusyEnd, .matrixWriteback, .matrixPark, .staggerTokenMove, .kindlingCapture, .kndlyLoadDone,
        .gangDrain, .gangPlace] c.1 0) ++
  (List.range 4).flatMap (fun d => ev [.pickup, .trapQueueWrite, .launchAccept, .launchAdmit] d 0) ++
  s.tasks.flatMap (fun t => .event .launchRelease t.acc 0 ::
    t.opened.map (fun x => Turn.event .versionPublish x.1 x.2)) ++
  s.vers.flatMap (fun v => (List.range 4).map (fun k => .event .versionSlotFree v.1 k)) ++
  s.parts.flatMap (fun p => p.2.waiting.map (fun w => Turn.event .waitcWake w.rcd.toNat 0) ++
    p.2.ready.flatMap (fun e => ev [.priorityAging, .preemptMark] e.rcd.toNat 0)) ++
  (List.range 8).map (fun st => .event .tableQueryAnswer st 0) ++
  (List.range 768).flatMap (fun pc => ev [.refresh, .iredApply, .hobCommandRun, .hobBudgetExhausted, .hovlLoad] pc defaultBurst) ++
  s.cores.flatMap (fun c => c.2.slots.flatMap (fun x =>
    ev [.barrierDeadline, .releaseNotice, .ttSend, .ttCopy, .ttMs, .ttXor, .ttAcc, .roundComplete] (2 * c.1 + x.1) 0)) ++
  s.groups.map (fun g => .event .damperDrainFinish g.1 0)

/-- An event that would change the state, or stop the machine. -/
def useful (s : State) (t : Turn) : Bool :=
  match t with
  | .event i p n =>
    let s : State := { s with cur := p, arg := n }
    match exec i s with
    | .next u => u != s
    | _ => true
  | _ => true

/-- A list from its place `k` on, round to it again. -/
def rotate {α : Type} (l : List α) (k : Nat) : List α := if l.isEmpty then l else l.drop (k % l.length) ++ l.take (k % l.length)

/-- A turn that this cycle does not let wait: the stagger token reaches a parked unit with a command (R27). -/
def urgent (s : State) : Option Turn :=
  let t := Turn.event .staggerTokenMove 0 0
  if (List.range 4).any (fun d => let c := s.cluster (96 * d + tokenAt s.now)
                                 s.now % 16 == 0 && c.isParked s.now && !c.queue.isEmpty) && useful s t then some t else none

/-- The turn of the default order (DESIGN CHOICE, log 1). -/
def autoTurn (s : State) : Turn :=
  match urgent s with
  | some t => t
  | none =>
  match s.rr % 3 with
  | 0 => ((rotate (candidates s) (s.rr / 3)).find? (useful s)).getD .tick
  | 1 => ((rotate s.threads (s.rr / 3)).find? (fun t => t.2.run == .running)).elim .tick (fun t => .issue t.1)
  | _ => .tick

end Sys2Proof.Machine
end

