-- ==== Sys2Proof/Machine/Turn.lean ====
section
/-! DEFINITION. One turn of an agent, and the state in which the next turn fetches a given instruction. -/

namespace Sys2Proof.Machine

/-- An event has no encoding. -/
def Instr.isEvent (i : Instr) : Bool := (encode i).isNone

/-- The turn at the head of the agenda, or of the default order when it is empty, and the state without it (DESIGN CHOICE, log 1). -/
def nextTurn (s : State) : Turn × State :=
  match s.agenda with
  | t :: r => (t, { s with agenda := r })
  | [] => (autoTurn s, { s with rr := s.rr + 1 })

/-- Hart `h` takes its turn, which costs a cycle: one head, or what stands before it (log 1). -/
def issueTurn (s : State) (h : Hart) : Result :=
  let s : State := { s with cur := h, arg := 0, now := s.now + 1 }
  match prepare s h with
  | .answer o => o
  | .event i place => exec i { s with cur := place }
  | .issue i s => exec i s

/-- One turn. A module that is off does nothing but power up (R428, R430). -/
def turn (s : State) (t : Turn) : Result :=
  match t with
  | .event .powerUp p n => exec .powerUp { s with cur := p, arg := n }
  | .event i p n =>
    if s.ctrl.halted then .fault .moduleOff
    else if Instr.isEvent i then exec i { s with cur := p, arg := n } else .next s
  | .issue h => if s.ctrl.halted then .fault .moduleOff else issueTurn s h
  | .fetch h pc u => if s.ctrl.halted then .fault .moduleOff else .next (s.fetchUnit h pc u)
  | .tick => if s.ctrl.halted then .fault .moduleOff else .next { s with now := s.now + 1 }

/-! ## A program that stands ready (log 9) -/

/-- The code address of the line: VA 0 of stack 0. -/
def codePc : Word := BitVec.ofNat 64 (2 ^ 63 + 2)

/-- Hart 0 runs the instruction of an opcode-table word next: the one-head line stands at the frame of VA 0, the slice of its
home stoker holds the page, and the agenda's next turn is the hart's. -/
def placeProgram (s : State) (nbits w : Nat) : State :=
  let line := oneHeadLine (tableHead nbits w) (tableTail nbits w)
  let st := s.stack 0
  let page : TlbEntry := { part := 0, va := 0, big := false, frame := 0, rd := true, wr := true, redir := none }
  let r : Regs := { pc := codePc }
  let t : Thread := { run := .running, regs := r, chunk := { begun := r } }
  let s : State := { s with mem := Memory.write s.mem (stackKey 0 0 0) (vecBytes line 0 64), agenda := .issue 0 :: s.agenda }
  (s.setStack 0 { st with up := true, tlb := page :: st.tlb }).setThread 0 t

end Sys2Proof.Machine
end

