-- ==== Sys2Proof/Machine/Step.lean ====
section
/-! DEFINITION. The step of the machine, and the state that holds a given instruction where the next step fetches. -/

namespace Sys2Proof.Machine

/-- One step: the next turn of the agenda. -/
def step (s : State) : Host.Outcome State Fault Refusal := turn (nextTurn s).2 (nextTurn s).1

/-- The state with an instruction placed where the next step fetches it (log 9). -/
def State.withFetchWord (s : State) (nbits w : Nat) : State := placeProgram s nbits w

end Sys2Proof.Machine
end

