-- ==== Sys2Proof/Safety.lean ====
section
/-! DEFINITION. The terms of the statements: where a head may end its chunk, the results of register instructions as their rules
give them, the invariant of memory, and what counts as a safe step. -/

namespace Sys2Proof.Machine

/-! ## Safe steps -/

/-- The machine goes on: no fault and no refusal. -/
def goesOn (o : Result) : Prop := ∃ t, o = .next t
/-- A key of plain memory: scratchpads, accumulator files and stack memory. -/
def plainKey (k : Nat) : Bool := (isStackKey k) || (k < 2 ^ 40 && (oaSpace k == some .scratch || oaSpace k == some .acc))
/-- The invariant of memory: its list is in canonical form. -/
def State.memOk (s : State) : Prop := Memory.wf s.mem = true

/-! ## Rows without a word -/

/-- The rows of the opcode table that have no word: what the machine does on its own, or what the host, a peer or the controller asks of
it. -/
def eventRows : List Instr :=
  [.powerUp, .clusterReady, .sensorSample, .partitionLayout, .trapVectorDeclare, .recordPoolDeclare, .damperRangeDeclare] ++
  [.translationRootDeclare, .hostWindowDeclare, .partitionQueueDeclare, .peerTableWrite, .preemptRequest, .imageUpdate] ++
  [.attest, .counterRead, .hostWrite, .hostRead, .countedWrite, .unsupportedOperation, .transportFailure, .pickup] ++
  [.launchAccept, .launchAdmit, .launchRelease, .versionPublish, .versionSlotFree, .waitcWake, .priorityAging] ++
  [.preemptMark, .overdue, .gangDrain, .gangPlace, .chunkCommit, .chunkLengthEnd, .storeFootprintEnd, .remoteStoreCommit] ++
  [.remoteLoad, .registerWindowStore, .registerWrite, .waitingTaskArm, .messageArrival, .putcArrival, .apndRowWrite] ++
  [.trapQueueWrite, .streamPrefetch, .streamStallRelease, .matrixQueueAccept, .matrixGrant, .matrixBusyEnd] ++
  [.matrixWriteback, .matrixPark, .staggerTokenMove, .addendPacket, .kindlingCapture, .kndlyLoadDone, .xpushFifoAccept] ++
  [.copy, .copyToTensor, .gather, .scatter, .reduce, .migrate, .shoot, .run, .copyComplete, .page, .continuationMigrate] ++
  [.shootAck, .migrateMove, .reduceComplete, .refresh, .tableQueryAnswer, .tqReserve, .hearthQueueAccept, .iredApply] ++
  [.hobCommandRun, .hobBudgetExhausted, .hovlLoad, .barrierArrival, .barrierDeadline, .releaseNotice, .ttSend, .ttCopy] ++
  [.ttMs, .ttXor, .ttAcc, .lateMessage, .roundComplete, .packetDeliver, .packetReduceArrival, .damperDrainFinish] ++
  [.roundPacketArrival]

/-! ## Where a head stands (R68, R72) -/

/-- The open chunk of the issuing hart can commit now: no other chunk holds the commit token, its signatures meet nothing, its gang's
leader has committed, and no buffered store meets an unfilled copy destination (R69, R72, R85, R202). -/
def State.mayEnd (s : State) : Bool :=
  (s.leaderOpen s.cur).isNone && s.tokenFree s.cur && !(s.thread s.cur).chunk.overlaps && !s.storesWait s.cur
/-- The state once that chunk has committed. -/
def State.ended (s : State) : State := s.commit s.cur
/-- It can commit, and then no weak store of the hart in flight waits for a copy: the hart can release (R77, R85). -/
def State.mayRelease (s : State) : Bool := s.mayEnd && !s.ended.blocked s.cur
/-- The state once every earlier access of the hart has been performed as well (R77). -/
def State.released (s : State) : State := s.ended.drain s.ended.cur
/-- The head is done and control falls through: a weak head, a strong head, and a head whose own chunk commits. -/
def State.past (s : State) : State := s.advance s.cur
def State.pastStrong (s : State) : State := (s.advance s.cur).boundary s.cur
def State.pastCommit (s : State) : State := (s.advance s.cur).commit s.cur
/-- A continuation record of partition `p` stands at key `k` of stack memory: its word is aligned, its page translates for a write, and
no cached translation of the partition ends inside it, as none does that ends at the end of a page. -/
def State.recordKey (s : State) (p : Nat) (rcd : Word) (k : Nat) : Prop :=
  vaOf rcd % 64 = 0 ∧ (s.xlate p 0 (vaOf rcd) true true).1 = .ok k ∧ (∀ i, i < 64 → plainKey (k + i) = true) ∧
  ∀ st, ∀ e ∈ (s.stack st).tlb, e.part = p → rangesMeet e.va e.size (vaOf rcd) 64 = true →
    e.va ≤ vaOf rcd ∧ vaOf rcd + 64 ≤ e.va + e.size
/-- The issuing hart stands alone: no gang, no path to follow again, no REP. -/
def State.alone (s : State) : Bool := s.me.gang.isNone && s.me.path.isEmpty && s.me.regs.rep.isNone
/-- None of the registers is bound to a stream. -/
def State.unbound (s : State) (l : List Reg) : Bool := l.all (fun n => (s.me.regs.binding n).isNone)
/-- The stack pages that an access of the hart touches hold no redirect of its own slice. -/
def State.stays (s : State) (ea : Word) (n : Nat) (w : Bool) : Bool := (s.redirectOf s.myPart (vaOf ea) n w).isNone

/-! ## Results of register instructions (R182 to R187, R247) -/

/-- The register a scalar instruction writes and its value. -/
def scalarResult (i : Instr) (r : Regs) : Option (Reg × Word) :=
  let g := r.getS
  match i with
  | .add d a b => some (d, g a + g b)
  | .sub d a b => some (d, g a - g b)
  | .mul d a b => some (d, g a * g b)
  | .mulh d a b => some (d, BitVec.ofInt 64 ((g a).toInt * (g b).toInt / 2 ^ 64))
  | .mulhz d a b => some (d, BitVec.ofNat 64 ((g a).toNat * (g b).toNat / 2 ^ 64))
  | .div d a b => some (d, if g b = 0 then BitVec.allOnes 64 else BitVec.ofInt 64 ((g a).toInt.tdiv (g b).toInt))
  | .divz d a b => some (d, if g b = 0 then BitVec.allOnes 64 else BitVec.ofNat 64 ((g a).toNat / (g b).toNat))
  | .rem d a b => some (d, if g b = 0 then g a else BitVec.ofInt 64 ((g a).toInt.tmod (g b).toInt))
  | .remz d a b => some (d, if g b = 0 then g a else BitVec.ofNat 64 ((g a).toNat % (g b).toNat))
  | .and d a b => some (d, g a &&& g b)
  | .or d a b => some (d, g a ||| g b)
  | .xor d a b => some (d, g a ^^^ g b)
  | .shl d a b => some (d, g a <<< ((g b).toNat % 64))
  | .shr d a b => some (d, g a >>> ((g b).toNat % 64))
  | .sra d a b => some (d, (g a).sshiftRight ((g b).toNat % 64))
  | .slt d a b => some (d, if (g a).toInt < (g b).toInt then 1 else 0)
  | .sltz d a b => some (d, if (g a).toNat < (g b).toNat then 1 else 0)
  | .min d a b => some (d, if (g a).toInt ≤ (g b).toInt then g a else g b)
  | .max d a b => some (d, if (g b).toInt ≤ (g a).toInt then g a else g b)
  | .minz d a b => some (d, if (g a).toNat ≤ (g b).toNat then g a else g b)
  | .maxz d a b => some (d, if (g b).toNat ≤ (g a).toNat then g a else g b)
  | .clz d a => some (d, leadingZeros (g a))
  | .ctz d a => some (d, trailingZeros (g a))
  | .popc d a => some (d, oneBits (g a))
  | .mov d a => some (d, g a)
  | .addi d a k => some (d, g a + k.signExtend 64)
  | .andi d a k => some (d, g a &&& k.signExtend 64)
  | .ori d a k => some (d, g a ||| k.setWidth 64)
  | .xori d a k => some (d, g a ^^^ k.setWidth 64)
  | .slti d a k => some (d, if (g a).toInt < k.toInt then 1 else 0)
  | .shli d a k => some (d, g a <<< k.toNat)
  | .shri d a k => some (d, g a >>> k.toNat)
  | .srai d a k => some (d, (g a).sshiftRight k.toNat)
  | .li d k => some (d, k.signExtend 64)
  | .liSh16 d k => some (d, k.setWidth 64 <<< 16)
  | .lea d a k => some (d, g a + k.signExtend 64)
  | .sel d a b c => some (d, if g a = 0 then g c else g b)
  | .bext d a p l => some (d, BitVec.ofNat 64 ((g a).toNat / 2 ^ p.toNat % 2 ^ (l.toNat + 1)))
  | .bins d a p l => some (d, bitInsert (g d) (g a) p.toNat l.toNat)
  | .mpop d m => some (d, onesOf (r.getM m.toNat))
  | _ => none

/-- The mask register a mask instruction writes and its value. -/
def maskResult (i : Instr) (r : Regs) : Option (Reg × Word) :=
  match i with
  | .mset d a => some (d, r.getS a)
  | .mand d a b => some (d, r.getM a.toNat &&& r.getM b.toNat)
  | .mor d a b => some (d, r.getM a.toNat ||| r.getM b.toNat)
  | .mnot d a => some (d, ~~~(r.getM a.toNat))
  | _ => none

/-- The condition of a branch and its target operands (R188, R190). -/
def branchOf (i : Instr) (r : Regs) : Option (Bool × BitVec 22 × BitVec 5) :=
  let g := r.getS
  match i with
  | .beq a b d k => some (g a == g b, d, k)
  | .bne a b d k => some (g a != g b, d, k)
  | .blt a b d k => some (decide ((g a).toInt < (g b).toInt), d, k)
  | .bge a b d k => some (decide ((g b).toInt ≤ (g a).toInt), d, k)
  | .bltz a b d k => some (decide ((g a).toNat < (g b).toNat), d, k)
  | .bgez a b d k => some (decide ((g b).toNat ≤ (g a).toNat), d, k)
  | .jmp d k => some (true, d, k)
  | _ => none

/-- The register jumps: their target, and whether s1 takes the next head (R191). -/
def jumpOf (i : Instr) (r : Regs) : Option (Word × Bool) :=
  match i with
  | .jmpr a => some (r.getS a, false)
  | .callr a => some (r.getS a, true)
  | .ret => some (r.getS 1, false)
  | _ => none

/-! ## Messages (R217) -/

/-- Operation number, operands and type of an AMO. -/
def amoOf (i : Instr) : Option (Nat × Reg × Reg × Reg × Reg × Ty) :=
  match i with
  | .amoAdd d a v t _ => some (0, d, a, v, 0, t)
  | .amoAnd d a v t _ => some (1, d, a, v, 0, t)
  | .amoOr d a v t _ => some (2, d, a, v, 0, t)
  | .amoXor d a v t _ => some (3, d, a, v, 0, t)
  | .amoSwap d a v t _ => some (4, d, a, v, 0, t)
  | .amoSmin d a v t _ => some (5, d, a, v, 0, t)
  | .amoSmax d a v t _ => some (6, d, a, v, 0, t)
  | .amoZmin d a v t _ => some (7, d, a, v, 0, t)
  | .amoZmax d a v t _ => some (8, d, a, v, 0, t)
  | .amoFadd d a v t _ => some (9, d, a, v, 0, t)
  | .amoFmin d a v t _ => some (10, d, a, v, 0, t)
  | .amoFmax d a v t _ => some (11, d, a, v, 0, t)
  | .amoCas d a v c t _ => some (12, d, a, v, c, t)
  | _ => none
/-- Operation number, operands and type of a RED. -/
def redOf (i : Instr) : Option (Nat × Reg × Reg × Ty) :=
  match i with
  | .redAdd a v t _ => some (0, a, v, t)
  | .redAnd a v t _ => some (1, a, v, t)
  | .redOr a v t _ => some (2, a, v, t)
  | .redXor a v t _ => some (3, a, v, t)
  | .redSwap a v t _ => some (4, a, v, t)
  | .redSmin a v t _ => some (5, a, v, t)
  | .redSmax a v t _ => some (6, a, v, t)
  | .redZmin a v t _ => some (7, a, v, t)
  | .redZmax a v t _ => some (8, a, v, t)
  | .redFadd a v t _ => some (9, a, v, t)
  | .redFmin a v t _ => some (10, a, v, t)
  | .redFmax a v t _ => some (11, a, v, t)
  | _ => none

/-- The key a message of the issuing hart targets, and the state with what its translation has cached: on-chip where the access
checks pass, in stack memory where the home stoker translates it with the permissions it needs and no redirect in its own slice
moves a stoker hart to another stack. -/
def targetOf (s : State) (a : Acc) (ea : Word) (n : Nat) (rd : Bool) : Option (Nat × State) :=
  if isVA ea then
    if ea.toNat % n ≠ 0 || (kindOf s.cur == .stoker && (s.redirectOf s.myPart (vaOf ea) n true).any (fun st =>
        st != hartStack s.cur || !s.stackIn s.myPart st)) then none
    else match (if rd then s.xlate s.myPart s.myAcc (vaOf ea) false else (.ok 0, s)) with
    | (.ok _, u) => match u.xlate s.myPart u.myAcc (vaOf ea) true with
      | (.ok k, v) => some (k, v)
      | _ => none
    | _ => none
  else if (s.accessTrap a ea n).isNone then some (ea.toNat, s) else none

/-- The translations at the home stoker of a message's virtual target, for the read where it reads, then for the write. -/
def targetWalk (s : State) (p : Nat) (ea : Word) (rd : Bool) : Xres × State :=
  match (if rd then s.xlate p s.myAcc (vaOf ea) false else (.ok 0, s)) with
  | (.ok _, u) => u.xlate p u.myAcc (vaOf ea) true
  | r => r
/-- What becomes of a head of the issuing hart (`o`) whose message of `n` bytes to the virtual word `ea` its home stoker does not accept: a
page without a valid translation or outside the partition is WINDOW from a core and PAGE from a stoker, with the target as the address
(R215, R57, R303); a page that a migration holds keeps it waiting (R310); a redirect moves a stoker's hart to its stack (R305). -/
def stopsAtTarget (o : Host.Outcome State Fault Refusal) (i : Instr) (s : State) (p : Nat) (ea : Word) (n : Nat) (rd : Bool) : Prop :=
  let moved := if kindOf s.cur = .stoker then s.redirectOf p (vaOf ea) n true else none
  (∀ st, moved = some st →
    (s.stackIn p st = false → o = takeTrap s .page ea 0) ∧
    (s.stackIn p st = true → st ≠ hartStack s.cur → o = .next (s.setMe { s.me with wait := .redirect st }))) ∧
  ((∀ st, moved = some st → st = hartStack s.cur ∧ s.stackIn p st = true) → ∀ e u, targetWalk s p ea rd = (e, u) →
    (e = .held → o = .next (u.setMe { u.me with wait := .stall i })) ∧
    (e ≠ .held → (∀ k, e ≠ .ok k) → o = takeTrap u (if kindOf s.cur = .core then .window else .page) ea 0))

/-- The stack accesses (R315): address word, size, whether it writes, and what it does with the parts its pages give. -/
def stackOf (i : Instr) (s : State) : Option (Word × Nat × Bool × (State → List (Nat × Nat × Nat) → State)) :=
  match i with
  | .dld rd base ty off => some (s.ea base off, tyBytes ty, false, fun u l =>
      (u.noteParts u.cur l).ws rd (extendTy ty (leNat (u.loadParts u.cur l))))
  | .dldVector vd base off => some (s.ea base off, 64, false, fun u l =>
      (u.noteParts u.cur l).putV vd (bytesVec (u.loadParts u.cur l)))
  | .dst rs base ty off => some (s.ea base off, tyBytes ty, true, fun u l =>
      u.storeParts u.cur l (leBytes (tyBytes ty) (u.rs rs).toNat))
  | .dstVector vs base off => some (s.ea base off, 64, true, fun u l =>
      u.storeParts u.cur l (vecBytes (u.me.regs.getV vs) 0 64))
  | _ => none

/-! ## Vectors (R231, R232) -/

/-- What a lane-wise vector instruction writes: its destination, lane type, modifier word, sources and, for each lane, result and
flags. `v` gives the vectors its sources deliver, `s` the state in which they have been popped. -/
def laneFun (i : Instr) (v : Reg → Vec) (s : State) : Option (Reg × Ty × BitVec 16 × List Reg × (Nat → Nat × Flg)) :=
  let x (t : Ty) (md : BitVec 16) (k : Nat) (n : Reg) (j : Nat) : Nat := srcLane t md k (v n) j
  match i with
  | .vadd d a b t m => some (d, t, m, [a, b], fun j => arith2 t m Num.add (fun p q => p + q) (x t m 1 a j) (x t m 2 b j))
  | .vsub d a b t m =>
    some (d, t, m, [a, b], fun j => arith2 t m (fun p q => Num.add p q.neg) (fun p q => p - q) (x t m 1 a j) (x t m 2 b j))
  | .vmul d a b t m => some (d, t, m, [a, b], fun j => arith2 t m Num.mul (fun p q => p * q) (x t m 1 a j) (x t m 2 b j))
  | .vfma d a b c t m =>
    some (d, t, m, [a, b, c], fun j => arith3 t m Num.fma (fun p q r => p * q + r) (x t m 1 a j) (x t m 2 b j) (x t m 3 c j))
  | .vfms d a b c t m =>
    some (d, t, m, [a, b, c], fun j =>
      arith3 t m (fun p q r => Num.fma p q r.neg) (fun p q r => p * q - r) (x t m 1 a j) (x t m 2 b j) (x t m 3 c j))
  | .vfnma d a b c t m =>
    some (d, t, m, [a, b, c], fun j =>
      arith3 t m (fun p q r => Num.fma p.neg q r) (fun p q r => -(p * q) + r) (x t m 1 a j) (x t m 2 b j) (x t m 3 c j))
  | .vdiv d a b t m => some (d, t, m, [a, b], fun j => destF t m (Num.div (valOf t (x t m 1 a j)) (valOf t (x t m 2 b j))))
  | .vsqrt d a t m => some (d, t, m, [a], fun j => destF t m (Num.sqrt (valOf t (x t m 1 a j))))
  | .vmin d a b t m => some (d, t, m, [a, b], fun j => minMaxLane false t m (x t m 1 a j) (x t m 2 b j))
  | .vmax d a b t m => some (d, t, m, [a, b], fun j => minMaxLane true t m (x t m 1 a j) (x t m 2 b j))
  | .vand d a b t m => some (d, t, m, [a, b], fun j => (x t m 1 a j &&& x t m 2 b j, 0))
  | .vor d a b t m => some (d, t, m, [a, b], fun j => (x t m 1 a j ||| x t m 2 b j, 0))
  | .vxor d a b t m => some (d, t, m, [a, b], fun j => (x t m 1 a j ^^^ x t m 2 b j, 0))
  | .vshl d a b t m => some (d, t, m, [a, b], fun j => (shlLane t.width (x t m 1 a j) (x t m 2 b j), 0))
  | .vshlImm d a n t m => some (d, t, m, [a], fun j => (shlLane t.width (x t m 1 a j) n.toNat, 0))
  | .vshr d a b t m => some (d, t, m, [a, b], fun j => (shrLane t.width (x t m 1 a j) (x t m 2 b j), 0))
  | .vshrImm d a n t m => some (d, t, m, [a], fun j => (shrLane t.width (x t m 1 a j) n.toNat, 0))
  | .vsra d a b t m => some (d, t, m, [a, b], fun j => (sraLane t.width (x t m 1 a j) (x t m 2 b j), 0))
  | .vsraImm d a n t m => some (d, t, m, [a], fun j => (sraLane t.width (x t m 1 a j) n.toNat, 0))
  | .vsel d a b k t m =>
    some (d, t, m, [a, b], fun j => (if (s.me.regs.getM k.toNat).getLsbD j then x t m 1 a j else x t m 2 b j, 0))
  | .vmov d a t m => some (d, t, m, [a], fun j => (x t m 1 a j, 0))
  | .vperm d a b t m => some (d, t, m, [a, b], fun j =>
      (if x t m 2 b j < lanesOf t then x t m 1 a (x t m 2 b j) else 0, 0))
  | .vsplat d r t m => some (d, t, m, [], fun _ => ((s.rs r).toNat % 2 ^ t.width, 0))
  | .vidx d r t m => some (d, t, m, [], fun j => (((s.rs r).toNat + j) % 2 ^ t.width, 0))
  | .vdq d a p t m => some (d, 1#5, m, [a], fun j =>
      let y := quantVal t (v a) (16 * p.toNat + j)
      if laneOf 8 (v a) 32 = 255 then (0x7FC00000, flagIf y.isSig fNV)
      else
        f32.finish .rne (scaleOf m) (clampOf m) (y.scale ((laneOf 8 (v a) 32 : Int) - 127), flagIf y.isSig fNV))
  | _ => none

/-- A vector result is written to its destination and its flags are raised (R95, R231). -/
def State.wrote (s : State) (d : Reg) (r : Vec × Flg) : State := (s.putV d r.1).setRegs ((s.putV d r.1).me.regs.raise r.2)
/-- A scalar result of a vector instruction is written and its flags are raised. -/
def State.wroteS (s : State) (d : Reg) (w : Word) (f : Flg) : State := s.setRegs ((s.me.regs.raise f).setS d w)
/-- What the sources of a vector instruction deliver: the popped vector of a bound register, the value of any other (R89). -/
def delivered (s : State) (vals : List (Reg × Vec)) (n : Reg) : Vec := (vals.lookup n).getD (s.me.regs.getV n)

/-- The tree of R178 over the enabled lanes: its value and the flags of leaves and nodes. -/
def treeOf (op : RedOp) (t : Ty) (on : Nat → Bool) (leaf : Nat → Nat × Flg) : Nat × Flg :=
  let l := (List.range (lanesOf t)).map (fun i => if on i then some (leaf i) else none)
  let r := treeRoot (redNode op t) (lanesOf t).log2 (l.map (fun x => x.map Prod.fst))
  (r.1.getD (redId op t), l.foldl (fun f x => match x with
    | some y => f ||| y.2
    | none => f) (0 : Flg) ||| r.2)
/-- Bit `j` of a block exponent and elements: the vector VQNT writes (R243). -/
def quantBlock (t : Ty) (mode : Mode) (xs : List Num) : Vec × Flg :=
  let e := blockExp (match t.toNat with
    | 4 => 8
    | 5 => 15
    | 10 => 6
    | _ => 2) xs
  let w := if t.toNat = 8 then 4 else 8
  let q := xs.map (quantOne t mode e)
  (BitVec.ofNat 512 (q.foldr (fun x a => x.1 % 2 ^ w + 2 ^ w * a) 0 + (e + 127).toNat * 2 ^ 256), q.foldl (fun f x => f ||| x.2) 0)

/-- The other vector instructions that read vector sources: sources, vector destination if any, and the state they leave before
control falls through. -/
def vectorOf (i : Instr) (v : Reg → Vec) (s : State) : Option (List Reg × Option Reg × State) :=
  match i with
  | .vcmp d a b cc t m =>
    let r (k : Nat) : Bool × Flg := compareLane cc.toNat t (srcLane t m 1 (v a) k) (srcLane t m 2 (v b) k)
    let fl := (List.range (lanesOf t)).foldl (fun f k => if maskOn s m k then f ||| (r k).2 else f) 0
    some ([a, b], none, s.setRegs ((s.me.regs.raise fl).setM d.toNat
      (maskBits (s.me.regs.getM d.toNat) (lanesOf t) (maskOn s m) (fun k => (r k).1))))
  | .vclass d a set t m =>
    some ([a], none, s.setRegs (s.me.regs.setM d.toNat (maskBits (s.me.regs.getM d.toNat) (lanesOf t) (maskOn s m)
      (fun k => set.getLsbD (classOf (fmtOf t.toNat) (laneOf t.width (v a) k))))))
  | .vcvt d a dt st part mode m =>
    let lw := 512 / max dt.width st.width
    let lo := part.toNat * lw
    let narrow := dt.width < st.width
    let on (j : Nat) : Bool := if narrow then lo ≤ j && j < lo + lw && maskOn s m (j - lo) else maskOn s m j
    let src (j : Nat) : Nat := if narrow then j - lo else if st.width < dt.width then lo + j else j
    some ([a], some d, s.wrote d (mapLanes dt on (s.oldV d) (fun j => convLane dt st (modeOf mode.toNat) m (srcLane st m 1 (v a) (src j)))))
  | .vqnt d a b t mode =>
    let xs (n : Reg) : List Num := (List.range 16).map (fun i => f32.dec (laneOf 32 (v n) i))
    some ([a, b], some d, s.wrote d (quantBlock t (modeOf mode.toNat) (xs a ++ xs b)))
  | .vext d a k t =>
    some ([a], none, s.ws d (if (s.rs k).toNat < lanesOf t then extendTy t (laneOf t.width (v a) (s.rs k).toNat) else 0))
  | .vredAdd d a t m =>
    let r := treeOf .add t (maskOn s m) (fun i => redLeaf t (srcLane t m 1 (v a) i))
    some ([a], none, s.wroteS d (extendTy t r.1) r.2)
  | .vredMin d a t m =>
    let r := treeOf .min t (maskOn s m) (fun i => redLeaf t (srcLane t m 1 (v a) i))
    some ([a], none, s.wroteS d (extendTy t r.1) r.2)
  | .vredMax d a t m =>
    let r := treeOf .max t (maskOn s m) (fun i => redLeaf t (srcLane t m 1 (v a) i))
    some ([a], none, s.wroteS d (extendTy t r.1) r.2)
  | .vdot d a b t m =>
    let r := treeOf .add t (maskOn s m) (fun i => dotLeaf t (srcLane t m 1 (v a) i) (srcLane t m 2 (v b) i))
    some ([a, b], none, s.wroteS d (extendTy t r.1) r.2)
  | _ => none

/-! ## Matrix commands (R258 to R260) -/

/-- The operand registers of a matrix command of cluster `cl` and the checks of its issue. -/
def matrixOf (i : Instr) (cl : Nat) : Option (Reg × Reg × Reg × (MEntry → Option (Trap × Word))) :=
  match i with
  | .mma _ sa sb sp _ _ _ _ _ _ | .mmas _ sa sb sp _ _ _ _ _ _ => some (sa, sb, sp, mmaTrap cl)
  | .mzero _ _ _ => some (0, 0, 0, fun _ => none)
  | .mldt _ sa sp ty _ _ _ _ | .mstt _ sa sp ty _ _ _ _ _ => some (sa, 0, sp, fun e => moveTrap cl e ty)
  | _ => none
/-- The command of a cluster that runs to cycle `stop`, and whether it runs a second time. -/
def runsTo (e : MEntry) (stop : Nat) (again : Bool) : Prop := e.st = .running stop again

/-! ## The hearth (R326, R334) -/

/-- Form, entries, operands and second source of a table query. -/
def queryOf (i : Instr) : Option (Nat × Nat × Reg × Reg × Option Reg) :=
  match i with
  | .tqB a s => some (0, 4, a, s, none)
  | .tqH a s => some (1, 2, a, s, none)
  | .tqPair a s b => some (2, 4, a, s, some b)
  | .tqIntp a s => some (3, 2, a, s, none)
  | _ => none
/-- What remains of two states that differ in their cached translations alone, and in the counters of malformed entries that the walks
have met (R308). -/
def sameButTlb (s t : State) : Prop :=
  t = { s with dram := t.dram } ∧
  ∀ k, t.stack k = { s.stack k with tlb := (t.stack k).tlb, stat := (t.stack k).stat } ∧
    ∀ n, n ≠ kBadEntry → Tab.get 0 (t.stack k).stat n = Tab.get 0 (s.stack k).stat n

/-- The 64 bytes a hearth command names at issue and the state that has read them, when nothing stops the read (R334): on-chip in
the issuing cluster from a core, in stack memory from a stoker that no redirect moves (R305). -/
def commandAt (s : State) (w : Word) : Option (Vec × State) :=
  if w.toNat % 64 ≠ 0 then none
  else if kindOf s.cur = .core then
    (if inClusterSpad (hartCl s.cur) w 64 && !s.held s.cur w.toNat 64 then
      some (bytesVec (s.ownBytes s.cur w.toNat 64), s.noteRead s.cur w.toNat 64) else none)
  else if !isVA w || (s.movesTo w 64).isSome then none
  else match s.xlate s.myPart s.myAcc (vaOf w) false with
  | (.ok k, u) => if u.mustWait u.cur k 64 then none
    else some (bytesVec (u.ownBytes u.cur k 64), if arbOfKey k = arbOf u.cur then u.noteRead u.cur k 64 else u)
  | _ => none

/-! ## The flue (R397) -/

/-- Kind and operands of a packet reduction. -/
def packetOf (i : Instr) : Option (Nat × Reg × Reg × Reg × Reg) :=
  match i with
  | .msred t a n p _ => some (5, t, a, n, p)
  | .xorred t a n p _ => some (6, t, a, n, p)
  | .facc t a n p _ => some (7, t, a, n, p)
  | _ => none
/-- The events of receive entries that touch the window: operation, lines of one access, and its effect at a key. -/
def roundOp (i : Instr) : Option (Nat × Nat × (State → Nat → List Vec → State)) :=
  match i with
  | .ttCopy => some (1, 1, fun s k l => s.writeAt portHart k (vecBytes (l.head?.getD 0) 0 64))
  | .ttMs => some (2, 3, fun s k l => s.writeAt portHart k
      (((mergeGroup ((List.range 3).map (fun i => bytesVec (s.bytesAt (k + 64 * i) 64))) l).map (fun v => vecBytes v 0 64)).flatten))
  | .ttXor => some (3, 1, fun s k l => s.writeAt portHart k (vecBytes (bytesVec (s.bytesAt k 64) ^^^ (l.head?.getD 0)) 0 64))
  | _ => none

/-! ## Management requests (R427) -/

/-- The event that takes a configuring request and what the request carries of its sender. -/
def mgmtOf (x : Input) : Option (Instr × Mgmt) :=
  match x with
  | .layout q _ => some (.partitionLayout, q)
  | .trapVector q _ _ => some (.trapVectorDeclare, q)
  | .recordPool q _ _ => some (.recordPoolDeclare, q)
  | .damperRange q _ _ => some (.damperRangeDeclare, q)
  | .root q _ _ _ => some (.translationRootDeclare, q)
  | .window q _ _ _ => some (.hostWindowDeclare, q)
  | .partQueue q _ _ => some (.partitionQueueDeclare, q)
  | .peer q _ _ _ => some (.peerTableWrite, q)
  | .preempt q _ => some (.preemptRequest, q)
  | .update q _ => some (.imageUpdate, q)
  | _ => none

/-! ## Frames -/

/-- The registers after an instruction that works on the registers of its own thread set alone and always falls through or
branches; the program counter apart. -/
def registerOnly (i : Instr) (s : State) : Option Regs :=
  let r := s.me.regs
  match scalarResult i r with
  | some (d, w) => some (r.setS d w)
  | none => match maskResult i r with
    | some (d, w) => some (r.setM d.toNat w)
    | none => match branchOf i r with
      | some _ => some r
      | none => match i with
        | .loop c _ _ => some (r.setS c (r.getS c - 1))
        | .call _ _ => some (r.setS 1 (s.fall s.cur))
        | .nop => some r
        | .crd d n => if n.toNat < 16 then some (r.setS d (r.getCtl n.toNat)) else none
        | .cwr n a => if n.toNat < 16 && r.getS a &&& ctlReserved n.toNat == 0 then some (r.setCtl n.toNat (r.getS a)) else none
        | _ => none

/-- Only the issuing hart's own thread set and a hob unit's count of the heads it has executed may differ: memory, every other
thread set, every cluster, core, queue and item on its way is as it was. -/
def sameButHart (s t : State) : Prop :=
  t = { s with threads := t.threads, dram := t.dram } ∧
  (∀ h, h ≠ s.cur → t.thread h = s.thread h) ∧
  (kindOf s.cur ≠ .hob → t.dram = s.dram) ∧
  ∀ st, t.stack st = { s.stack st with hobs := (t.stack st).hobs } ∧
    ∀ u, Tab.get {} (t.stack st).hobs u =
      { Tab.get {} (s.stack st).hobs u with executed := (Tab.get {} (t.stack st).hobs u).executed }
/-- What such an instruction leaves of its own thread set besides the registers: the continuation, the run status, the buffered
stores and signatures of the chunk, and what waits for its end. -/
def sameThread (t u : Thread) : Prop :=
  u = { t with regs := u.regs, wait := u.wait, path := u.path
               chunk := { t.chunk with executed := u.chunk.executed, trail := u.chunk.trail } }
end Sys2Proof.Machine
end

