-- ==== Sys2Proof/Certificates/Slice0/Obligations.lean ====
section
/-! DEFINITION. The statements about the model, one definition each. A hypothesis `s.mayEnd` says that the open chunk of the issuing
hart can commit, so that a head that ends it is performed now, and `s.mayRelease` that no weak store of the hart in flight waits for
a copy then, so that a release is performed now; `past`, `pastStrong` and `pastCommit` are the state once control has
fallen through behind a weak head, a head performed on its own, and one whose chunk commits at once (Safety). A statement of several
parts is the conjunction of its rules; the parts that rest on a choice of the model name its log entry. -/

open Sys2Proof Sys2Proof.Machine

/-! ## Registers and control -/

/-- R182, R184 to R187: every scalar register instruction, and MPOP (R247), writes its result to `rd` and falls through.
R247: MSET, MAND, MOR and MNOT write their result to a mask register; m0 takes none (R88). -/
def Obligations.RegisterResults : Prop :=
  (∀ (i : Instr) (s : State) (rd : Reg) (w : Word), scalarResult i s.me.regs = some (rd, w) → exec i s = .next (s.ws rd w).past) ∧
  (∀ (i : Instr) (s : State) (d : Reg) (w : Word), maskResult i s.me.regs = some (d, w) →
     exec i s = .next (s.setRegs (s.me.regs.setM d.toNat w)).past)

/-- R183: division gives a defined result for every pair of operands. -/
def Obligations.DivideLaw : Prop :=
  ∀ (rd rs1 rs2 : Reg) (s : State), ∃ q r qz rz : Word,
    exec (.div rd rs1 rs2) s = .next (s.ws rd q).past ∧ exec (.rem rd rs1 rs2) s = .next (s.ws rd r).past ∧
    exec (.divz rd rs1 rs2) s = .next (s.ws rd qz).past ∧ exec (.remz rd rs1 rs2) s = .next (s.ws rd rz).past ∧
    (s.rs rs2 = 0 → q = BitVec.allOnes 64 ∧ qz = BitVec.allOnes 64 ∧ r = s.rs rs1 ∧ rz = s.rs rs1) ∧
    ((s.rs rs1).toInt = -2 ^ 63 → (s.rs rs2).toInt = -1 → q.toInt = -2 ^ 63 ∧ r = 0) ∧
    (s.rs rs2 ≠ 0 → ¬((s.rs rs1).toInt = -2 ^ 63 ∧ (s.rs rs2).toInt = -1) →
      q.toInt = (s.rs rs1).toInt.tdiv (s.rs rs2).toInt ∧ r.toInt = (s.rs rs1).toInt - q.toInt * (s.rs rs2).toInt) ∧
    (s.rs rs2 ≠ 0 → qz.toNat = (s.rs rs1).toNat / (s.rs rs2).toNat ∧
      rz.toNat = (s.rs rs1).toNat - qz.toNat * (s.rs rs2).toNat)

/-- R86, R88: s0 reads zero and m0 all ones, whatever was written; another register reads what was written to it, and no write
changes another. -/
def Obligations.HardwiredRegisters : Prop :=
  ∀ (r : Regs) (n m : Reg) (w : Word) (a b : Nat),
    r.getS 0 = 0 ∧ (r.setS 0 w) = r ∧ r.getM 0 = BitVec.allOnes 64 ∧ r.setM 0 w = r ∧
    (n ≠ 0#5 → (r.setS n w).getS n = w) ∧ (n ≠ m → (r.setS n w).getS m = r.getS m) ∧
    (a % 8 ≠ 0 → (r.setM a w).getM a = w) ∧ (a % 8 ≠ b % 8 → (r.setM a w).getM b = r.getM b) ∧
    (∀ x : Vec, (r.setV n x).getV n = x ∧ (n ≠ m → (r.setV n x).getV m = r.getV m))

/-- R188, R190: a branch goes to the target of R123 when its condition holds, and falls through otherwise.
R189: LOOP takes one from its counter modulo 2^64 and goes to its target while the counter is not 0; a counter of 0 becomes all ones and the
branch is taken.
R190: CALL leaves the address of the next head in s1 and goes to its target.
R191, R123: a register jump goes to its target, for CALLR with the next head in s1; an odd target or one at offset 0 of a
line raises MISALIGN, and one that is no virtual address WINDOW. That a hob unit's targets are overlay offsets and a bad one a hob
fault (R337, R341) is the model's reading, log 39; that a gang's followers take their leader's outcome (R202) is log 31.
R188 to R191: majors 0x06, 0x07 and 0x08, by the bits of head and tail; every other value of COND and B is refused. -/
def Obligations.BranchesAndJumps : Prop :=
  (∀ (i : Instr) (s : State) (c : Bool) (d : BitVec 22) (k : BitVec 5), branchOf i s.me.regs = some (c, d, k) →
     exec i s = .next (if c then s.goto s.cur (relPc s.me.regs.pc d k) else s.past)) ∧
  (∀ (rs : Reg) (d : BitVec 22) (k : BitVec 5) (s : State), rs ≠ 0#5 →
     let u := s.ws rs (s.rs rs - 1)
     exec (.loop rs d k) s = .next (if s.rs rs = 1 then u.past else u.goto s.cur (relPc s.me.regs.pc d k)) ∧
       u.rs rs = s.rs rs - 1 ∧ (s.rs rs = 0 → u.rs rs = BitVec.allOnes 64)) ∧
  (∀ (d : BitVec 22) (k : BitVec 5) (s : State),
     exec (.call d k) s = .next ((s.ws 1 (s.fall s.cur)).goto s.cur (relPc s.me.regs.pc d k))) ∧
  (∀ (i : Instr) (s : State) (a : Word) (link : Bool), jumpOf i s.me.regs = some (a, link) →
     let u := if link then s.ws 1 (s.fall s.cur) else s
     let odd := a.toNat % 2 = 1 ∨ a.toNat % 64 = 0
     (s.follows = true → exec i s = .next (u.goto s.cur a)) ∧
     (s.follows = false → kindOf s.cur ≠ .hob → ¬odd → isVA a = true → exec i s = .next (u.goto s.cur a)) ∧
     (s.follows = false → kindOf s.cur ≠ .hob → odd → exec i s = takeTrap s .misalign a 0) ∧
     (s.follows = false → kindOf s.cur ≠ .hob → ¬odd → isVA a = false →
       exec i s = takeTrap s .window a 0) ∧
     (s.follows = false → kindOf s.cur = .hob → ¬odd → a.toNat < 4096 → exec i s = .next (u.goto s.cur a)) ∧
     (s.follows = false → kindOf s.cur = .hob → odd ∨ 4096 ≤ a.toNat → exec i s = hobFault s s.cur 6)) ∧
  (∀ (a b : Reg) (c : BitVec 3) (d : BitVec 22) (k : BitVec 5),
     let tl : Tail := BitVec.ofNat 64 (c.toNat * 2 ^ 27 + d.toNat * 2 ^ 5 + k.toNat)
     let hd (m : Nat) : Head := BitVec.ofNat 16 (m * 2 ^ 10 + a.toNat * 2 ^ 5 + b.toNat)
     let refused (m : Nat) : Prop := ∃ e, decode (hd m) tl = .error e
     (k ≠ 0 → (c = 0 → decode (hd 6) tl = .ok (.beq a b d k)) ∧ (c = 1 → decode (hd 6) tl = .ok (.bne a b d k)) ∧
       (c = 2 → decode (hd 6) tl = .ok (.blt a b d k)) ∧ (c = 3 → decode (hd 6) tl = .ok (.bge a b d k)) ∧
       (c = 4 → decode (hd 6) tl = .ok (.bltz a b d k)) ∧ (c = 5 → decode (hd 6) tl = .ok (.bgez a b d k)) ∧
       (c = 6 → a ≠ 0 → b = 0 → decode (hd 6) tl = .ok (.loop a d k)) ∧
       (a = 0 → b = 0 → c = 0 → decode (hd 7) tl = .ok (.jmp d k)) ∧ (a = 0 → b = 0 → c = 1 → decode (hd 7) tl = .ok (.call d k))) ∧
     (k = 0 ∨ c = 7 ∨ (c = 6 ∧ (a = 0 ∨ b ≠ 0)) → refused 6) ∧ (k = 0 ∨ a ≠ 0 ∨ b ≠ 0 ∨ 2 ≤ c.toNat → refused 7) ∧
     (b = 0 → decode (hd 8) 0 = .ok (.jmpr a)) ∧ (b = 1 → decode (hd 8) 0 = .ok (.callr a)) ∧
     (b = 2 → a = 0 → decode (hd 8) 0 = .ok .ret) ∧ (3 ≤ b.toNat ∨ (b = 2 ∧ a ≠ 0) → ∃ e, decode (hd 8) 0 = .error e))

/-- R189: the encoding of LOOP, its count modulo 2^64, and where control goes. -/
def Obligations.LoopCountsDown : Prop :=
  ∀ (rs b : Reg) (d : BitVec 22) (k : BitVec 5) (s : State), k ≠ 0 →
    let hd : Head := BitVec.ofNat 16 (0x06 * 2 ^ 10 + rs.toNat * 2 ^ 5 + b.toNat)
    let tl : Tail := BitVec.ofNat 64 (6 * 2 ^ 27 + d.toNat * 2 ^ 5 + k.toNat)
    let u := s.ws rs (s.rs rs - 1)
    (rs ≠ 0 → b = 0 → decode hd tl = .ok (.loop rs d k)) ∧ (rs = 0 ∨ b ≠ 0 → ∃ e, decode hd tl = .error e) ∧
    (rs ≠ 0 → u.rs rs = s.rs rs - 1 ∧ (s.rs rs = 0 → u.rs rs = BitVec.allOnes 64) ∧
      (u.rs rs ≠ 0 → exec (.loop rs d k) s = .next (u.goto s.cur (relPc s.me.regs.pc d k))) ∧
      (u.rs rs = 0 → exec (.loop rs d k) s = .next u.past))

/-- The frame of the instructions that work on registers alone (R181, R188 to R190, R204, R209, R247).
R122, R123, R193: a hart that stands alone falls through by one head, and `goto` moves its PC and nothing else of its
registers. -/
def Obligations.RegisterFrame : Prop :=
  (∀ (i : Instr) (s t : State) (r : Regs), s.alone → registerOnly i s = some r → exec i s = .next t →
     t.me.regs = { r with pc := t.me.regs.pc } ∧ sameThread s.me t.me ∧ sameButHart s t ∧
     (s.me.run = .running → ∀ k, t.byteAt k = s.byteAt k)) ∧
  (∀ (s : State) (pc : Word), s.alone →
     (s.goto s.cur pc).me.regs = { s.me.regs with pc := pc } ∧ sameThread s.me (s.goto s.cur pc).me ∧
     sameButHart s (s.goto s.cur pc) ∧ (s.goto s.cur pc).me.chunk.executed = s.me.chunk.executed + 1 ∧
     s.past = s.goto s.cur (s.fall s.cur))

/-- R192 to R195: REP raises ILLEGAL when its body holds a barred head; with a count of 0 it goes to the head after the body;
otherwise the first pass starts at the first body head. While a migration holds a page of the body it waits (R310). A body line that
cannot be fetched or is malformed bars nothing: it traps when it is reached, the model's choice, log 39.
R193: inside a REP control goes from body head to body head, from the last to the first of the next pass, and after the last
pass to the head after the body; a field that names a bound register keeps it, another moves by the stride on each pass: said of every instruction with
vector fields, and of those of VADD one by one. -/
def Obligations.Repetition : Prop :=
  (∀ (n : BitVec 5) (count : BitVec 16) (stride : BitVec 6) (s : State),
     let body := s.bodyPcs s.cur n.toNat (s.fall s.cur)
     let barred := body.1.any (fun pc => ((s.headOf s.cur pc).map (fun x => repBars x.1)).getD false)
     let waits := body.1.any (fun pc => (s.fetchLine s.cur pc).1 == .wait)
     (waits = true → exec (.rep n count stride) s = .next (s.setMe { s.me with wait := .stall (.rep n count stride) })) ∧
     (waits = false → barred = true → exec (.rep n count stride) s = takeTrap s .illegal 0 0) ∧
     (waits = false → barred = false → count = 0 → exec (.rep n count stride) s = .next (s.goto s.cur body.2)) ∧
     (waits = false → barred = false → count ≠ 0 → s.alone → ∃ t, exec (.rep n count stride) s = .next t ∧
       t.me.regs = { s.me.regs with
         pc := s.fall s.cur
         rep := some { body := s.fall s.cur, n := n.toNat, count := count.toNat, stride := stride.toNat, pass := 0, pos := 0 } } ∧
       sameThread s.me t.me ∧ sameButHart s t)) ∧
  (∀ (s : State) (r : RepState), s.me.regs.rep = some r → s.me.gang = none → s.me.path = [] →
     (r.pos + 1 < r.n → s.past.me.regs = { s.me.regs with pc := s.fall s.cur, rep := some { r with pos := r.pos + 1 } }) ∧
     (r.n ≤ r.pos + 1 → r.pass + 1 < r.count →
       s.past.me.regs = { s.me.regs with pc := r.body, rep := some { r with pass := r.pass + 1, pos := 0 } }) ∧
     (r.n ≤ r.pos + 1 → r.count ≤ r.pass + 1 → s.past.me.regs = { s.me.regs with pc := s.fall s.cur, rep := none }) ∧
     (∃ f : Reg → Reg, (∀ i : Instr, stagger s.me.regs i = mapVec f i) ∧
       ∀ n : Reg, ((s.me.regs.binding n).isSome → f n = n) ∧
         (s.me.regs.binding n = none → (f n).toNat = (n.toNat + r.pass * r.stride) % 32)) ∧
     ∀ (d a b : Reg) (t : Ty) (m : BitVec 16), ∃ d' a' b' : Reg, stagger s.me.regs (.vadd d a b t m) = .vadd d' a' b' t m ∧
       ∀ p : Reg × Reg, p ∈ [(d, d'), (a, a'), (b, b')] →
         ((s.me.regs.binding p.1).isSome → p.2 = p.1) ∧
         (s.me.regs.binding p.1 = none → p.2.toNat = (p.1.toNat + r.pass * r.stride) % 32))

/-- R209, R91: CRD and CWR of a control register. A reserved bit and, on a hart that has no cluster, a cluster register raise
ILLEGAL; a cluster register is read and written by a weak access of the chunk.
R97, R99, R100, R101: the values that PDEAD, MWGT, CHKTOL and KNWIN store: a deadline below 256 as 256, each weight of 0 as 1, a
tolerance that is a NaN or below -0 as 2^-16, and a window of 0 as 1. The numbers that name no register are no instruction (R90). -/
def Obligations.ControlRegisters : Prop :=
  (∀ (rd n rs : Reg) (s : State),
     let cell := mkOA (hartCl s.cur) 11 (8 * (n.toNat - 16))
     (Instr.crd rd n).wellFormed = true → (Instr.cwr n rs).wellFormed = true →
     (n.toNat < 16 → exec (.crd rd n) s = .next (s.ws rd (s.me.regs.getCtl n.toNat)).past) ∧
     (16 ≤ n.toNat → kindOf s.cur = .core → s.mustWait s.cur cell 8 = false →
       exec (.crd rd n) s = .next ((s.noteRead s.cur cell 8).ws rd (s.ownCtl s.cur n.toNat)).past) ∧
     (16 ≤ n.toNat → kindOf s.cur = .core → s.mustWait s.cur cell 8 = true →
       exec (.crd rd n) s = .next (s.setMe { s.me with wait := .stall (.crd rd n) })) ∧
     (16 ≤ n.toNat → kindOf s.cur ≠ .core → exec (.crd rd n) s = takeTrap s .illegal 0 0) ∧
     (s.rs rs &&& ctlReserved n.toNat ≠ 0 → exec (.cwr n rs) s = takeTrap s .illegal 0 0) ∧
     (s.rs rs &&& ctlReserved n.toNat = 0 → n.toNat < 16 →
       exec (.cwr n rs) s = .next (s.setRegs (s.me.regs.setCtl n.toNat (s.rs rs))).past) ∧
     (s.rs rs &&& ctlReserved n.toNat = 0 → 16 ≤ n.toNat → kindOf s.cur = .core → s.mustWait s.cur cell 8 = false →
       exec (.cwr n rs) s = .next (s.weakStore s.cur cell (leBytes 8 (s.rs rs).toNat)).past) ∧
     (s.rs rs &&& ctlReserved n.toNat = 0 → 16 ≤ n.toNat → kindOf s.cur = .core → s.mustWait s.cur cell 8 = true →
       exec (.cwr n rs) s = .next (s.setMe { s.me with wait := .stall (.cwr n rs) })) ∧
     (s.rs rs &&& ctlReserved n.toNat = 0 → 16 ≤ n.toNat → kindOf s.cur ≠ .core → exec (.cwr n rs) s = takeTrap s .illegal 0 0)) ∧
  (∀ (w : Word) (r : Regs) (c : Cluster) (k : Nat),
     ((r.setCtl 8 w).getCtl 8 = if w.toNat < 256 then 256 else (w.setWidth 24).setWidth 64) ∧
     (k < 8 → ((c.setCtl 16 w).getCtl 16).toNat / 16 ^ k % 16 = if w.toNat / 16 ^ k % 16 = 0 then 1 else w.toNat / 16 ^ k % 16) ∧
     (w.toNat < 2 ^ 32 → (c.setCtl 17 w).getCtl 17 =
       if (f32.dec w.toNat).isNan || (w.toNat ≥ 2 ^ 31 + 1) then 0x37800000 else w) ∧
     (c.setCtl 18 w).kn.w = if w.setWidth 8 = 0#8 then 1 else w.setWidth 8)

/-- R204, R206, R68, R80: NOP and BRK without BRKEN fall through, the latter counted when the chunk commits (the model's choice, log
24); CHUNK ends the chunk; FENCE ends it and orders every earlier access before every later one, at every scope alike (the model's
choice, log 6).
R200, R203, R207: GANG ends the chunk and waits for its group; SPLIT dissolves the gang for its hart; HALT stops issue, and on a
hob unit ends the command with the words of s3 to s9 (R339), once its mailbox meets no unfilled copy destination (R85). A gang member's GANG and SPLIT outside a gang raise ILLEGAL. -/
def Obligations.SystemControl : Prop :=
  (∀ (s : State) (scope : BitVec 5),
     exec .nop s = .next s.past ∧
     (s.mayEnd = true → exec .chunk s = .next s.ended.pastStrong) ∧
     (s.mayRelease = true → exec (.fence scope) s = .next s.released.pastStrong) ∧
     (s.me.regs.ctl.trapen.getLsbD 2 = false → kindOf s.cur = .core →
       exec .brk s = .next (s.setMe { s.me with chunk := { s.me.chunk with brks := s.me.chunk.brks + 1 } }).past) ∧
     (s.me.regs.ctl.trapen.getLsbD 2 = false → kindOf s.cur ≠ .core → exec .brk s = .next s.past)) ∧
  (∀ (g : BitVec 5) (s : State), s.me.savemode = none →
     (s.me.gang ≠ none → exec (.gang g) s = takeTrap s .illegal 0 0) ∧
     (s.me.gang = none → exec .split s = takeTrap s .illegal 0 0) ∧
     (s.me.gang = none → s.mayEnd = true → ∃ t, exec (.gang g) s = .next t ∧ t.me.wait = .gang g.toNat ∧
       t.me.regs = s.ended.me.regs ∧ t.me.since = s.ended.now) ∧
     (s.me.gang ≠ none → s.mayEnd = true → ∃ t, exec .split s = .next t ∧ t.me.gang = none ∧
       t.me.regs = s.ended.pastStrong.me.regs) ∧
     (kindOf s.cur ≠ .hob → s.mayEnd = true → ∃ t, exec .halt s = .next t ∧ t.me.run = .halted ∧ t.me.pend = [] ∧
       (s.ended.me.pend = [] → t.me.regs = s.ended.me.regs) ∧ t.me.cont = s.ended.me.cont) ∧
     (kindOf s.cur = .hob → s.mayRelease = true → s.released.hobWaits s.cur = true →
       exec .halt s = .next (s.released.setMe { s.released.me with wait := .stall .halt })) ∧
     (kindOf s.cur = .hob → s.mayRelease = true → s.released.hobWaits s.cur = false → exec .halt s = .next (endHob s.released s.released.cur 1 0
       ((List.range 7).map (fun i => leBytes 8 (s.released.rs (BitVec.ofNat 5 (3 + i))).toNat)).flatten)))

/-- R69, R71, R72: a head that ends the chunk waits while another hart holds the commit token (a gang member first asks its leader's
chunk to end, the model's choice, log 31), and a chunk whose signatures meet
what others committed is squashed: its registers return to those at its start, its stores are discarded, what it popped is kept
for the re-execution, and the squash is counted; the eighth in a row takes a free token, outside a gang (a gang's leader takes it with
the first head that it runs again, log 31).
R68, R69, R72, R251: an ended chunk commits unless another hart holds the token or its signatures overlap, when it is squashed; that a
turn of number 1 squashes it in the same way is the model's choice, by which the agenda shows the false overlaps of R69, log 13; 512
heads and 64 stored lines end a chunk; a commit counts the pops and pushes of the chunk past the end of an affine stream. -/
def Obligations.ChunksEnd : Prop :=
  (∀ (s : State),
     (s.me.gang = none → (∃ k, s.tokenOf (arbOf s.cur) = some k ∧ k ≠ s.cur) → exec .chunk s = .next s) ∧
     (s.me.gang = none → (∀ k, s.tokenOf (arbOf s.cur) = some k → k = s.cur) → s.me.chunk.overlaps = true →
       ∃ t, exec .chunk s = .next t ∧ t.me.regs = s.me.chunk.begun ∧ t.me.chunk = { begun := s.me.chunk.begun } ∧
         t.me.replay = s.me.chunk.log ++ s.me.replay ∧ t.me.squashes = s.me.squashes + 1 ∧ t.mem = s.mem ∧ t.net = s.net ∧
         (8 ≤ s.me.squashes + 1 → t.tokenOf (arbOf s.cur) = some s.cur) ∧
         (kindOf s.cur = .core → (t.cluster (hartCl s.cur)).stat = bump (s.cluster (hartCl s.cur)).stat cSquash 1))) ∧
  (∀ (s : State),
     (s.me.run = .running → s.me.chunk.ended = true → s.mayEnd = true → s.arg ≠ 1 → exec .chunkCommit s = .next s.ended) ∧
     (s.me.gang = none → s.me.run = .running → s.me.chunk.ended = true → (∀ k, s.tokenOf (arbOf s.cur) = some k → k = s.cur) →
       s.me.chunk.overlaps = true ∨ s.arg = 1 → exec .chunkCommit s = .next (s.squash s.cur)) ∧
     (∀ g x k, s.me.gang = some g → s.gang g = some x → x.members.head? = some k → k ≠ s.cur → (s.thread k).run = .running →
       (s.thread k).chunk.executed ≠ 0 → exec .chunk s = .next (s.markEnded k)) ∧
     (s.ended.core (hartCore s.cur)).overrun = (s.core (hartCore s.cur)).overrun + BitVec.ofNat 64 s.me.chunk.past ∧
     (512 ≤ s.me.chunk.executed → exec .chunkLengthEnd s = .next (s.markEnded s.cur)) ∧
     (64 ≤ s.me.chunk.wlines.length → exec .storeFootprintEnd s = .next (s.markEnded s.cur)) ∧
     (s.markEnded s.cur).me = { s.me with chunk := { s.me.chunk with ended := true } })

/-- R106, R50: SAFE k ends the chunk; an unmarked hart goes on, a marked one enters save routine k with the next head in s1 and
SAVEAREA in s2; the members of a gang do what their leader does. The field `mark` is the deadline, which R52 and R106 keep counting
through the save routine: SAVEMODE shows that the mark is taken (log 32). An index at or above NSAFE, and SAFE in a save routine,
raise ILLEGAL.
R199, R34: YIELD ends the chunk, writes STATUS 1 and the PC of the next head to its record, and queues it; the thread set is idle.
R198, R34: WAITC ends the chunk, writes STATUS 3 and the PC of the next head, and enters its record against the counter, met at once
when the counter has reached the threshold; the thread set is idle. A word that is no counter of the partition traps before the thread
suspends.
R197, R34, R43: EXIT ends the chunk, writes STATUS 7, hands each successor to the grate of its die in order and leaves the thread
set idle; with no successor to take the record returns to STATUS 0 at once (R367). It waits while the mailbox record of a job that ends with it meets an unfilled
copy destination (R85).
R108, R109: SAVED writes SAFEIDX, the restore routine's PC and STATUS 4 to its record and leaves the thread set idle with the record
queued; outside a save routine it raises ILLEGAL.
R107: in a save routine SAFE, EXIT, WAITC, YIELD, GANG and SPLIT raise ILLEGAL. -/
def Obligations.Suspension : Prop :=
  (∀ (k : BitVec 10) (s : State),
     let e := s.ended
     let u := ((e.ws 1 (e.fall e.cur)).ws 2 e.me.cont.savearea)
     ((s.safesOf s.me.cont)[k.toNat]? = none → exec (.safe k) s = takeTrap s .illegal 0 0) ∧
     (∀ p, (s.safesOf s.me.cont)[k.toNat]? = some p →
       (s.me.savemode ≠ none → exec (.safe k) s = takeTrap s .illegal 0 0) ∧
       (s.me.savemode = none → s.mayEnd = true → e.entersSave = false → exec (.safe k) s = .next e.noteSaving.pastStrong) ∧
       (s.me.savemode = none → s.mayEnd = true → e.me.gang = none → e.entersSave = e.me.mark.isSome ∧ e.noteSaving = e) ∧
       (s.me.savemode = none → s.mayEnd = true → e.me.mark ≠ none → e.me.gang = none → e.me.path = [] →
         ∃ t, exec (.safe k) s = .next t ∧ t.me.regs = { u.me.regs with pc := p.savepc } ∧ t.me.savemode = some k.toNat ∧
           t.me.mark = e.me.mark ∧ t.me.cont = e.me.cont))) ∧
  (∀ (s : State), s.me.savemode = none → s.mayRelease = true →
     let r := s.released
     let c := r.me.cont
     ∃ t, exec .yield s = .next t ∧ t.thread s.cur = {} ∧
       t = leave r r.cur 1 (some (r.fall r.cur)) (fun x => x.enqueue c.part (readyEntry x r.cur c)) ∧
       (∃ e ∈ (t.part c.part).ready, e.rcd = c.rcd ∧ e.lin = c.lin ∧ e.acc = c.acc ∧ e.rise = 0) ∧
       ∀ k, r.recordKey c.part c.rcd k → t.byteAt (k + 39) = 1 ∧ t.readAt k 8 = (r.fall r.cur).toNat) ∧
  -- the members of a gang take their leader's words, which it leaves for them
  (∀ (sc st : Reg) (s : State), s.me.savemode = none → s.follows = false →
     let v := s.noteVals (s.rs sc) (s.rs st)
     let r := v.released
     let c := r.me.cont
     let cnt := (r.cluster (oaCl (s.rs sc).toNat)).counter (oaOff (s.rs sc).toNat / 8)
     (∀ x, v.counterTrap (s.rs sc) = some x → exec (.waitc sc st) s = addressTrap v x (s.rs sc)) ∧
     (v.counterTrap (s.rs sc) = none → v.mayRelease = true →
       ∃ t, exec (.waitc sc st) s = .next t ∧ t.thread s.cur = {} ∧
         (∃ e ∈ (t.part c.part).waiting, e.rcd = c.rcd ∧ e.counter = (s.rs sc).toNat ∧ e.thresh = s.rs st ∧
           e.met = decide ((s.rs st).toNat ≤ cnt.toNat)) ∧
         ∀ k, r.recordKey c.part c.rcd k → t.byteAt (k + 39) = 3 ∧ t.readAt k 8 = (r.fall r.cur).toNat)) ∧
  (∀ (first count : Reg) (s : State), s.me.savemode = none → s.mayRelease = true →
     let r := s.released
     let c := r.me.cont
     (r.recordWaits c.part c.rcd = true →
       exec (.exit first count) s = .next (r.setMe { r.me with wait := .stall (.exit first count) })) ∧
     (r.recordWaits c.part c.rcd = false → ∃ t, exec (.exit first count) s = .next t ∧ t.thread s.cur = {} ∧
       (r.follows = false → ∀ i, i < count.toNat → ∃ l ∈ (t.die (hartDie s.cur)).offers,
         l.lb = r.rs (first + BitVec.ofNat 5 i) ∧ l.part = c.part) ∧
       -- a task that ends writes the records of its retired threads as well, and publishes the versions it has opened
       (r.runJob c.part c.rcd = none → r.follows = false → (∀ x, r.task c.acc = some x → ∀ y ∈ x.recs, y.2 ≠ 8) →
         ∀ k, r.recordKey c.part c.rcd k → t.readAt k 8 = r.readAt k 8 ∧ (count ≠ 0 → t.byteAt (k + 39) = 7) ∧
           (count = 0 → (∀ x, r.task c.acc = some x → x.opened = []) → t.byteAt (k + 39) = 0)))) ∧
  (∀ (s : State),
     (s.me.savemode = none → exec .saved s = takeTrap s .illegal 0 0) ∧
     (∀ k, s.me.savemode = some k → s.mayRelease = true →
       let r := s.released
       let c := r.me.cont
       ∃ t, exec .saved s = .next t ∧ t.thread s.cur = {} ∧
         (∃ u pc, t = leave (putRecord r r.cur c 38 [BitVec.ofNat 8 k]) r.cur 4 (some pc) (fun x => x.enqueue c.part u) ∧
           (∀ p, (r.safesOf c)[k]? = some p → pc = p.restpc) ∧
           ∀ q, r.recordKey c.part c.rcd q → t.byteAt (q + 39) = 4 ∧ t.byteAt (q + 38) = BitVec.ofNat 8 k ∧ t.readAt q 8 = pc.toNat) ∧
         ∃ e ∈ (t.part c.part).ready, e.rcd = c.rcd ∧ e.lin = c.lin)) ∧
  (∀ (s : State) (a b : Reg) (g : BitVec 5) (k : BitVec 10), s.me.savemode ≠ none →
     ∀ i ∈ [Instr.safe k, .exit a b, .waitc a b, .yield, .gang g, .split], exec i s = takeTrap s .illegal 0 0)

/-- R205: TRAP has its encoding, raises code TRAP with its immediate in DETAIL, and so parks the hart. -/
def Obligations.TrapInstruction : Prop :=
  ∀ (imm : BitVec 16) (s : State),
    encode (.trap imm) = some (0x3800, imm.setWidth 64) ∧
    exec (.trap imm) s = takeTrapInfo s s.cur (trapHere s s.cur .trap 0 imm.toNat) ∧
    (trapHere s s.cur .trap 0 imm.toNat).code = 13 ∧ (trapHere s s.cur .trap 0 imm.toNat).detail = imm.toNat ∧
    (kindOf s.cur ≠ .hob → s.mayRelease = true →
      exec (.trap imm) s = .next (park s.ended s.cur (trapHere s s.cur .trap 0 imm.toNat)))

/-- R111, R114, R115: a trap leaves the hart parked with its registers, no stream bound and no REP, its continuation unchanged but for
STATUS 5 and the PC of the head it stands at in its record (R34), and one more trap record in its partition's queue: the code, the
trapping PC, the record's address and generation. Stores pending for
the hart's own register window land first (R61). On a hob unit a trap is a hob fault (R341).
R206, R96: BRK raises BREAK when TRAPEN.BRKEN is 1, with code 14 and no detail. -/
def Obligations.TrapEntry : Prop :=
  (∀ (s : State) (i : TrapInfo), kindOf s.cur ≠ .hob → s.mayRelease = true →
     let c := s.released.me.cont
     ∃ t r, takeTrapInfo s s.cur i = .next t ∧ t.me.run = .parked ∧
       t.me.regs = { (landAll s.released s.cur).me.regs with streams := [], rep := none } ∧ t.me.cont = c ∧ t.me.mark = none ∧
       t.me.pend = [] ∧ (t.part c.part).traps.getLast? = some r ∧
       (∀ k, s.released.recordKey c.part c.rcd k → t.byteAt (k + 39) = 5 ∧ t.readAt k 8 = s.released.me.regs.pc.toNat) ∧
       (i.code < 256 → r.data.extractLsb' 0 8 = BitVec.ofNat 8 i.code ∧ r.data.extractLsb' 16 16 = c.gen ∧
         r.data.extractLsb' 32 32 = c.taskid ∧ r.data.extractLsb' 64 64 = i.pc ∧ r.data.extractLsb' 256 64 = c.rcd)) ∧
  (∀ (s : State) (i : TrapInfo), kindOf s.cur = .hob → takeTrapInfo s s.cur i = hobFault s s.cur 6) ∧
  (∀ (s : State), s.me.regs.ctl.trapen.getLsbD 2 = true → kindOf s.cur ≠ .hob → s.mayRelease = true →
     ∃ t i, exec .brk s = .next t ∧ t = park s.ended s.cur i ∧ i.code = 14 ∧ i.pc = s.me.regs.pc ∧ i.detail = 0 ∧
       t.me.run = .parked)

/-- R208: TRET raises ILLEGAL on action 3 or a non-zero zero field and WINDOW, on every hart, on a word that names no record of the partition; otherwise it is one access on the record, ordered as a release. A generation that is not the
record's, or a record that is neither parked nor halted, is counted as stale and changes nothing. Action 1 queues a parked record
with STATUS 1 at its stored PC and action 2 at the head after it, its registers discarded; a halted hart goes on behind HALT; action 0
retires either with STATUS 8, once the mailbox record of a job that ends with it meets no unfilled copy destination (R85). A copy job's
record, with STATUS 1, is queued for any thread set of its stoker, where its job goes on (R289, R304). A gang's members are released one by one and go on as one, and
action 0 on one retires them all. Three points are the model's choice: that a second TRET on a released member that is still halted is
stale and that action 0 retires members that still run at once, log 31, and that a record whose page does not translate is stale, log
41. -/
def Obligations.TrapReturn : Prop :=
  ∀ (sb : Reg) (s : State),
    let a := s.rs sb
    let rcd := a &&& ~~~63#64
    let gen : BitVec 16 := (s.rs (sb + 1)).setWidth 16
    let act := a.toNat % 4
    let bad := act = 3 ∨ a.toNat / 4 % 16 ≠ 0 ∨ 2 ^ 16 ≤ (s.rs (sb + 1)).toNat
    let here := isVA rcd = true ∧ s.stackIn s.myPart (vaStack (vaOf rcd)) = true
    (bad → exec (.tret sb) s = takeTrap s .illegal 0 0) ∧
    (¬bad → ¬here → exec (.tret sb) s = takeTrap s .window rcd 0) ∧
    (¬bad → here → s.mayRelease = true → act = 0 → s.released.recordWaits s.released.myPart rcd = true →
      exec (.tret sb) s = .next (s.released.setMe { s.released.me with wait := .stall (.tret sb) })) ∧
    (¬bad → here → s.mayRelease = true → ¬(act = 0 ∧ s.released.recordWaits s.released.myPart rcd = true) →
      let r := s.released
      let p := r.me.cont.part
      let u := (readRecord r p rcd).2
      let v := trapReturn r r.cur rcd gen act
      exec (.tret sb) s = .next v.pastStrong ∧
      ((∀ k x, r.holderOf p rcd = some k → (readRecord r p rcd).1 = some x → x.extractLsb' 288 16 ≠ gen) →
        v = u.countPart p pStale ∧ u.threads = r.threads ∧ u.mem = r.mem ∧ u.parts = r.parts) ∧
      ∀ k x, r.holderOf p rcd = some k → (readRecord r p rcd).1 = some x → x.extractLsb' 288 16 = gen →
        let t := r.thread k
        let queued := ∃ e ∈ (v.part p).ready, e.rcd = rcd ∧ e.acc = t.cont.acc ∧ e.lin = t.cont.lin ∧ e.rise = 0
        (r.gangOf k = none → r.job k = none →
          (act ≠ 0 → t.run = .parked → v.thread k = {} ∧ queued ∧ ∀ q, u.recordKey p rcd q →
            v.byteAt (q + 39) = 1 ∧ v.readAt q 8 = (if act = 1 then r.readAt q 8 else (u.fall k).toNat)) ∧
          (act ≠ 0 → t.run = .halted → v.mem = r.mem ∧ (v.thread k).run = .running ∧ (v.thread k).cont = t.cont ∧
            (v.thread k).regs = { t.regs with pc := u.fall k }) ∧
          (act = 0 → r.runJob p rcd = none → v.thread k = {} ∧ ∀ y z q, r.task t.cont.acc = some y → (rcd, 0) ∈ y.recs →
            z ∈ y.recs → z.1 ≠ rcd → z.2 = 0 → u.recordKey p rcd q → v.byteAt (q + 39) = 8 ∧
              ∃ w, v.task t.cont.acc = some w ∧ w.retired = true ∧ (rcd, 8) ∈ w.recs)) ∧
        (r.gangOf k = none → ∀ j, r.job k = some j →
          (act ≠ 0 → (∃ n, 16384 ≤ n ∧ v.job n = some { j with st := .moving }) ∧ (k < 16384 → v.job k = none) ∧
            v.thread k = {} ∧ queued ∧ ∀ q, u.recordKey p rcd q →
              v.byteAt (q + 39) = 1 ∧ (j.owned = true → (v.chan j.core j.ch).st = .active)) ∧
          (act = 0 → v.job k = none ∧ v.thread k = {} ∧
            (j.owned = true → (v.chan j.core j.ch).st = .idle ∧ (v.chan j.core j.ch).lastend = 2))) ∧
        (∀ g y, r.gangOf k = some (g, y) → rcd ∉ y.released → y.members.Nodup →
          let others := ∃ m ∈ r.stoppedIn y, m ≠ k ∧ (r.thread m).cont.rcd ≠ rcd ∧ (r.thread m).cont.rcd ∉ y.released
          (act = 0 → v.gang g = none ∧
            ∀ m ∈ y.members, (r.thread m).run ≠ .idle → (r.thread m).gang = some g → v.thread m = {}) ∧
          (act ≠ 0 → t.run = .parked → others → v.thread k = {} ∧ queued ∧ ∃ w, v.gang g = some w ∧ rcd ∈ w.back) ∧
          (act ≠ 0 → t.run = .halted → others → v.thread k = t ∧ ∃ w, v.gang g = some w ∧ rcd ∈ w.released) ∧
          (act ≠ 0 → t.run = .halted → (∀ m ∈ r.stoppedIn y, (r.thread m).run = .halted ∧
              ((r.thread m).cont.rcd = rcd ∨ (r.thread m).cont.rcd ∈ y.released)) →
            ∀ m ∈ r.stoppedIn y, (v.thread m).run = .running)) ∧
        (∀ g y, r.gangOf k = some (g, y) → rcd ∈ y.released → v = u.countPart p pStale))

/-! ## Memory and messages -/

/-- R210 to R212, R70, R73, R85: LD and ST of a core or stoker. The access checks of R57 to R66 raise their trap; an own message to the
bytes or an unfilled copy destination holds the access; a load is taken at the own arbiter, or outstanding at another; a store
joins the chunk.
R337: LD and ST of a hob unit address its data memory; an access past its 8,192 bytes is a hob fault. -/
def Obligations.WeakAccess : Prop :=
  (∀ (r base : Reg) (ty : Ty) (off : BitVec 16) (s : State), kindOf s.cur ≠ .hob →
     let ea := s.ea base off
     let n := tyBytes ty
     (∀ x, s.accessTrap .weakLoad ea n = some x → exec (.ld r base ty off) s = addressTrap s x ea) ∧
     (∀ x, s.accessTrap .weakStore ea n = some x → exec (.st r base ty off) s = addressTrap s x ea) ∧
     (s.accessTrap .weakLoad ea n = none → s.held s.cur ea.toNat n = true →
       exec (.ld r base ty off) s = .next (s.setMe { s.me with wait := .stall (.ld r base ty off) })) ∧
     (s.accessTrap .weakLoad ea n = none → s.held s.cur ea.toNat n = false → arbOfKey ea.toNat = arbOf s.cur →
       exec (.ld r base ty off) s =
         .next ((s.noteRead s.cur ea.toNat n).ws r (extendTy ty (leNat (s.ownBytes s.cur ea.toNat n)))).past) ∧
     (s.accessTrap .weakLoad ea n = none → s.held s.cur ea.toNat n = false → arbOfKey ea.toNat ≠ arbOf s.cur →
       exec (.ld r base ty off) s = .next (s.setMe { s.me with wait := .load (.ld r base ty off) })) ∧
     (s.accessTrap .weakStore ea n = none → s.held s.cur ea.toNat (leBytes n (s.rs r).toNat).length = true →
       exec (.st r base ty off) s = .next (s.setMe { s.me with wait := .stall (.st r base ty off) })) ∧
     (s.accessTrap .weakStore ea n = none → s.held s.cur ea.toNat (leBytes n (s.rs r).toNat).length = false →
       exec (.st r base ty off) s = .next (s.weakStore s.cur ea.toNat (leBytes n (s.rs r).toNat)).past)) ∧
  (∀ (r base : Reg) (ty : Ty) (off : BitVec 16) (s : State), kindOf s.cur = .hob →
     let ea := s.ea base off
     let n := tyBytes ty
     let k := hobKey (s.cur - 13824) ea.toNat
     (8192 < ea.toNat + n → exec (.ld r base ty off) s = hobFault s s.cur 6 ∧ exec (.st r base ty off) s = hobFault s s.cur 6) ∧
     (ea.toNat + n ≤ 8192 → s.held s.cur k n = false → arbOfKey k = arbOf s.cur →
       exec (.ld r base ty off) s = .next ((s.noteRead s.cur k n).ws r (extendTy ty (leNat (s.ownBytes s.cur k n)))).past) ∧
     (ea.toNat + n ≤ 8192 → s.held s.cur k (leBytes n (s.rs r).toNat).length = false →
       exec (.st r base ty off) s = .next (s.weakStore s.cur k (leBytes n (s.rs r).toNat)).past))

/-- R212, R89, R249: LDV writes 64 bytes to a vector register, by a push where it is bound to a writing stream; STV stores one, popped
where it is bound to a reading stream; a register bound the other way raises STREAM.
R213, R75, R215: LDA and STL are performed on their own: the chunk ends, STL is a release, and an own message to the same bytes
holds a LDA. The scope they name makes no difference: an STL orders everything at every scope, the model's choice, log 6. -/
def Obligations.VectorAndStrongAccess : Prop :=
  (∀ (v base : Reg) (off : BitVec 16) (s : State),
     let ea := s.ea base off
     (∀ n, s.me.regs.against [] (some v) = some n → exec (.ldv v base off) s = takeTrap s .stream 0 n.toNat) ∧
     (∀ n, s.me.regs.against [v] none = some n → exec (.stv v base off) s = takeTrap s .stream 0 n.toNat) ∧
     (s.me.regs.against [] (some v) = none → s.pushWaits (some v) = true → exec (.ldv v base off) s = .next s) ∧
     (s.me.regs.against [] (some v) = none → s.pushWaits (some v) = false →
       (∀ x, s.accessTrap .weakLoad ea 64 = some x → exec (.ldv v base off) s = addressTrap s x ea) ∧
       (s.accessTrap .weakLoad ea 64 = none → s.held s.cur ea.toNat 64 = false → arbOfKey ea.toNat = arbOf s.cur →
         exec (.ldv v base off) s =
           .next ((s.noteRead s.cur ea.toNat 64).putV v (BitVec.ofNat 512 (leNat (s.ownBytes s.cur ea.toNat 64)))).past) ∧
       (s.accessTrap .weakLoad ea 64 = none → s.held s.cur ea.toNat 64 = false → arbOfKey ea.toNat ≠ arbOf s.cur →
         exec (.ldv v base off) s = .next (s.setMe { s.me with wait := .load (.ldv v base off) }))) ∧
     (s.me.regs.against [v] none = none →
       (∀ x, s.accessTrap .weakStore ea 64 = some x → exec (.stv v base off) s = addressTrap s x ea) ∧
       (s.accessTrap .weakStore ea 64 = none → s.held s.cur ea.toNat 64 = false → ∀ vals u, popAll s [v] = .ok vals u →
         exec (.stv v base off) s =
           .next (u.weakStore u.cur ea.toNat (vecBytes ((vals.lookup v).getD (s.me.regs.getV v)) 0 64)).past) ∧
       (s.accessTrap .weakStore ea 64 = none → s.held s.cur ea.toNat 64 = true ∨ popAll s [v] = .stall →
         exec (.stv v base off) s = .next (s.setMe { s.me with wait := .stall (.stv v base off) })))) ∧
  (∀ (r base : Reg) (ty : Ty) (off : BitVec 16) (scope : BitVec 3) (s : State),
     let ea := s.ea base off
     let n := tyBytes ty
     (∀ x, s.accessTrap .strong ea n = some x → exec (.lda r base ty off scope) s = addressTrap s x ea ∧
       exec (.stl r base ty off scope) s = addressTrap s x ea) ∧
     (s.accessTrap .strong ea n = none → s.mayEnd = true → s.ended.mustWait s.cur ea.toNat n = false →
       exec (.lda r base ty off scope) s = .next (s.ended.ws r (extendTy ty (s.ended.readAt ea.toNat n))).pastStrong) ∧
     (s.accessTrap .strong ea n = none → s.mayEnd = true → s.ended.mustWait s.cur ea.toNat n = true →
       exec (.lda r base ty off scope) s =
         .next (s.ended.setMe { s.ended.me with wait := .stall (.lda r base ty off scope) })) ∧
     (s.accessTrap .strong ea n = none → s.mayRelease = true → s.released.mustWait s.released.cur ea.toNat n = false →
       exec (.stl r base ty off scope) s =
         .next (s.released.writeAt s.released.cur ea.toNat (leBytes n (s.released.rs r).toNat)).pastStrong) ∧
     (s.accessTrap .strong ea n = none → s.mayRelease = true → s.released.mustWait s.released.cur ea.toNat n = true →
       exec (.stl r base ty off scope) s =
         .next (s.released.setMe { s.released.me with wait := .stall (.stl r base ty off scope) })))

/-- R315, R305, R310: DLD and DST translate every page they touch. A word in neither form raises PAGE on the stoker (R57, R210) and an on-chip word WINDOW, a page without a
translation PAGE; a page that a migration holds stalls; a redirect moves the hart, unless it leads to the hart's own stack;
otherwise the access is one of the chunk. -/
def Obligations.StackAccess : Prop :=
  ∀ (i : Instr) (s : State) (ea : Word) (n : Nat) (w : Bool) (f : State → List (Nat × Nat × Nat) → State),
    stackOf i s = some (ea, n, w, f) →
    let home := s.redirectOf s.myPart (vaOf ea) n w = some (hartStack s.cur) ∧ s.stackIn s.myPart (hartStack s.cur) = true
    (isVA ea = false → exec i s = addressTrap s .window ea ∧ (isOA ea = true → exec i s = takeTrap s .window ea 0) ∧
      (isOA ea = false → kindOf s.cur ≠ .core → exec i s = takeTrap s .page ea 0)) ∧
    (isVA ea = true → s.stays ea n w = true ∨ home →
      (∀ l u, s.xlateRange s.myPart s.myAcc (vaOf ea) n w = (.ok l, u) →
        (l.any (fun x => u.mustWait u.cur x.1 x.2.2) = true → exec i s = .next (u.setMe { u.me with wait := .stall i })) ∧
        (l.any (fun x => u.mustWait u.cur x.1 x.2.2) = false → exec i s = .next (f u l).past)) ∧
      (∀ u, s.xlateRange s.myPart s.myAcc (vaOf ea) n w = (.error .held, u) →
        exec i s = .next (u.setMe { u.me with wait := .stall i })) ∧
      (∀ st u, s.xlateRange s.myPart s.myAcc (vaOf ea) n w = (.error (.redirect st), u) →
        exec i s = .next (u.setMe { u.me with wait := .redirect st })) ∧
      (∀ e u, e = .bad ∨ e = .outside ∨ e = .readonly → s.xlateRange s.myPart s.myAcc (vaOf ea) n w = (.error e, u) →
        exec i s = takeTrap u .page ea 0)) ∧
    (∀ st, isVA ea = true → s.redirectOf s.myPart (vaOf ea) n w = some st →
      (s.stackIn s.myPart st = false → exec i s = takeTrap s .page ea 0) ∧
      (s.stackIn s.myPart st = true → st ≠ hartStack s.cur → exec i s = .next (s.setMe { s.me with wait := .redirect st })))

/-- R216, R217, R219, R75: an AMO is accepted at its target after every earlier access of the hart and waits for the old value;
a misaligned or refused address raises its trap, and so does a page that does not translate: WINDOW on a core, PAGE on a stoker (R215).
R216, R217, R75: a RED is accepted in the same way and the hart goes on. Their scope makes no difference: the model's choice, log 6. -/
def Obligations.MessagesAccepted : Prop :=
  (∀ (i : Instr) (op : Nat) (rd sa sv sc : Reg) (ty : Ty) (s : State), amoOf i = some (op, rd, sa, sv, sc, ty) →
     let ea := s.rs sa
     let n := tyBytes ty
     (isVA ea = true → ea.toNat % n ≠ 0 → exec i s = takeTrap s .misalign ea 0) ∧
     (isVA ea = true → ea.toNat % n = 0 → stopsAtTarget (exec i s) i s s.myPart ea n true) ∧
     (isVA ea = false → ∀ x, s.accessTrap .rmw ea n = some x → exec i s = addressTrap s x ea) ∧
     (∀ k v, targetOf s .rmw ea n true = some (k, v) → v.mayRelease = true →
       let r := v.released
       let u := r.pushMsg r.cur (.rmw k op n (r.rs sv) (r.rs sc) (some rd) (ty == 14#5))
       exec i s = .next (u.setMe { u.me with wait := .msg r.fresh rd }))) ∧
  (∀ (i : Instr) (op : Nat) (sa sv : Reg) (ty : Ty) (s : State), redOf i = some (op, sa, sv, ty) →
     let ea := s.rs sa
     let n := tyBytes ty
     (isVA ea = true → ea.toNat % n ≠ 0 → exec i s = takeTrap s .misalign ea 0) ∧
     (isVA ea = true → ea.toNat % n = 0 → stopsAtTarget (exec i s) i s s.myPart ea n true) ∧
     (isVA ea = false → ∀ x, s.accessTrap .rmw ea n = some x → exec i s = addressTrap s x ea) ∧
     (∀ k v, targetOf s .rmw ea n true = some (k, v) → v.mayRelease = true →
       let r := v.released
       exec i s = .next (r.pushMsg r.cur (.rmw k op n (r.rs sv) 0 none false)).pastStrong))

/-- R217, R218: an AMO or RED that arrives at plain memory replaces the word it names by the new value of its operation, and no
other byte of plain memory; a CAS whose compare value differs writes nothing.
R215, R216: on the arrival of an AMO its rd takes the old value, .s32 sign-extended, and the head that waited for it falls through. -/
def Obligations.RmwPerformed : Prop :=
  ∀ (s : State) (m : Msg) (k op n : Nat) (v c : Word) (ret : Option Reg) (sx : Bool),
    s.msg s.cur = some m → m.item = .rmw k op n v c ret sx → s.firstOf m = true → (∀ i, i < n → plainKey (k + i) = true) →
    n = 4 ∨ n = 8 →
    ∃ t, exec .messageArrival s = .next t ∧
      (∀ x, rmwNew op n (s.readAt k n) (v.toNat % 2 ^ (8 * n)) (c.toNat % 2 ^ (8 * n)) = some x →
        t.readAt k n = x % 2 ^ (8 * n)) ∧
      (rmwNew op n (s.readAt k n) (v.toNat % 2 ^ (8 * n)) (c.toNat % 2 ^ (8 * n)) = none → t.readAt k n = s.readAt k n) ∧
      (∀ a, plainKey a = true → a < k ∨ k + n ≤ a → t.byteAt a = s.byteAt a) ∧
      ∀ rd, ret = some rd → (s.thread m.hart).wait = .msg m.id rd →
        -- the state in which the word has been updated and nothing has returned
        let u := performItem s { m with item := .rmw k op n v c none sx }
        let r := (u.thread m.hart).regs
        t = ((u.setThread m.hart { u.thread m.hart with regs := r.setS rd (rmwOld n sx (s.readAt k n)) }).advance m.hart).boundary m.hart

/-- R215, R217, R222, R225, R375: an item on its way is performed once nothing that its hart sent before it still targets its bytes.
R73: a remote store then leaves its bytes at its target; R225: the row of an APND its bytes, and its length is added to COMMITTED.
R85: a store that meets an unfilled copy destination waits. R73, R61, R91: a remote load returns what stands at its target; a
store pending for a running hart's register window lands at its
chunk boundary (none while a head that has issued waits: log 34), in a scalar, vector or mask register or in a control register, and one that would set a reserved bit is
discarded and counted. -/
def Obligations.ItemsPerformed : Prop :=
  (∀ (s : State) (m : Msg),
     (s.msg s.cur = some m → s.firstOf m = true →
       (∀ k op n v c ret sx, m.item = .rmw k op n v c ret sx →
         (toEntry k = false → exec .messageArrival s = .next (performItem s m)) ∧
         (toEntry k = true → exec .waitingTaskArm s = .next (performItem s m))) ∧
       (∀ c d g p, m.item = .putc c d g p → exec .putcArrival s = .next (performItem s m)) ∧
       (∀ l f n, m.item = .apndRow l f n → exec .apndRowWrite s = .next (performItem s m)) ∧
       (∀ k d, m.item = .rstore k d → s.guarded k d.length = false → (2 ^ 40 ≤ k ∨ oaSpace k ≠ some .ctl) →
         exec .remoteStoreCommit s = .next (performItem s m)) ∧
       (∀ k d, m.item = .rstore k d → s.guarded k d.length = true → exec .remoteStoreCommit s = .next s) ∧
       (∀ k d, m.item = .rstore k d → s.guarded k d.length = false → (∀ i, i < d.length → plainKey (k + i) = true) → ∃ t,
         exec .remoteStoreCommit s = .next t ∧ t.bytesAt k d.length = d ∧ t.net = s.net.filter (fun x => x.id != m.id) ∧
         ∀ a, plainKey a = true → a < k ∨ k + d.length ≤ a → t.byteAt a = s.byteAt a) ∧
       (∀ l f n, m.item = .apndRow l f n → (∀ i, i < 8 → plainKey (f + i) = true) →
         (∀ x ∈ l, (∀ i, i < x.2.length → plainKey (x.1 + i) = true) ∧ rangesMeet x.1 x.2.length f 8 = false) →
         l.Pairwise (fun x y => rangesMeet x.1 x.2.length y.1 y.2.length = false) → ∃ t, exec .apndRowWrite s = .next t ∧
           (∀ x ∈ l, t.bytesAt x.1 x.2.length = x.2) ∧ t.readAt f 8 = (s.readAt f 8 + n) % 2 ^ 64 ∧
           t.net = s.net.filter (fun x => x.id != m.id))) ∧
     (s.arg ≠ 0 → s.msg s.arg = some m → s.firstOf m = true → ∀ k d, m.item = .rstore k d → s.guarded k d.length = false →
       k < 2 ^ 40 → oaSpace k = some .ctl → exec .registerWrite s = .next (performItem s m))) ∧
  (∀ (s : State) (rd base : Reg) (ty : Ty) (off : BitVec 16) (w : WStore) (r : List WStore),
     let k := (s.ea base off).toNat
     (s.me.wait = .load (.ld rd base ty off) → s.held s.cur k (tyBytes ty) = false →
       exec .remoteLoad s = .next (s.ws rd (extendTy ty (leNat (s.ownBytes s.cur k (tyBytes ty))))).past) ∧
     (s.me.wait = .load (.ldv rd base off) → s.held s.cur k 64 = false →
       exec .remoteLoad s = .next (s.putV rd (BitVec.ofNat 512 (leNat (s.ownBytes s.cur k 64)))).past) ∧
     (s.me.run = .running → s.me.chunk.executed = 0 → s.me.chunk.pops = [] → (∀ i, s.me.wait ≠ .load i ∧ s.me.wait ≠ .stall i) → s.me.pend = w :: r →
       ∃ t, t.me.regs = (windowStore s.me.regs w.key w.data).1 ∧ t.me.chunk.begun = t.me.regs ∧ t.me.pend = r ∧ t.mem = s.mem ∧
         (w.key < 0x3000 → exec .registerWindowStore s = .next t) ∧
         (0x3000 ≤ w.key → s.arg = 0 → exec .registerWrite s = .next t) ∧
         ((windowStore s.me.regs w.key w.data).2 = true →
           (t.cluster (hartCl s.cur)).stat = bump (s.cluster (hartCl s.cur)).stat cBadCtl 1)))

/-- R221, R223, R214: PUTC within the partition and, through a partition queue, into the consumer's. A bad counter word or data word
raises its trap, a misaligned counter before a misaligned data word before anything else; a data page that does not translate is WINDOW on a core, PAGE on a stoker (R215); otherwise the message
leaves as a release and the hart goes on.
A scope that names no partition queue makes no difference: the model's choice, log 6.
R222, R45: a PUTC of generation 0 or of its counter's writes its data, then adds one to its counter; another is discarded and
counted as stale, in the issuer's partition (the model's choice, log 52). -/
def Obligations.CounterMessages : Prop :=
  (∀ (sc sd sv sg : Reg) (ty : Ty) (scope : BitVec 3) (s : State),
     let c := s.rs sc
     let d := s.rs sd
     let n := tyBytes ty
     ((sd = 0#5 ∨ scope ≠ 5#3 ∨ s.queueFor s.myPart c d n = none) →
       (s.counterTrap c = some .misalign → exec (.putc sc sd sv sg ty scope) s = takeTrap s .misalign c 0) ∧
       (s.counterTrap c ≠ some .misalign → sd ≠ 0#5 → d.toNat % n ≠ 0 →
         exec (.putc sc sd sv sg ty scope) s = takeTrap s .misalign d 0) ∧
       (s.counterTrap c = some .window → (sd = 0#5 ∨ d.toNat % n = 0) →
         exec (.putc sc sd sv sg ty scope) s = addressTrap s .window c) ∧
       (s.counterTrap c = none → sd = 0#5 → s.mayRelease = true →
         let r := s.released
         exec (.putc sc sd sv sg ty scope) s =
           .next (r.pushMsg r.cur (.putc c.toNat none ((s.rs sg).setWidth 16) r.myPart)).pastStrong) ∧
       (s.counterTrap c = none → sd ≠ 0#5 → d.toNat % n = 0 →
         (isVA d = true → stopsAtTarget (exec (.putc sc sd sv sg ty scope) s) (.putc sc sd sv sg ty scope) s s.myPart d n false) ∧
         (isVA d = false → ∀ x, s.accessTrap .plain d n = some x → exec (.putc sc sd sv sg ty scope) s = addressTrap s x d)) ∧
       (s.counterTrap c = none → sd ≠ 0#5 → d.toNat % n = 0 → ∀ k v, targetOf s .plain d n false = some (k, v) → v.mayRelease = true →
         let r := v.released
         exec (.putc sc sd sv sg ty scope) s =
           .next (r.pushMsg r.cur (.putc c.toNat (some (k, leBytes n (s.rs sv).toNat)) ((s.rs sg).setWidth 16) r.myPart)).pastStrong)) ∧
     (∀ q, sd ≠ 0#5 → scope = 5#3 → s.queueFor s.myPart c d n = some q → d.toNat % n = 0 → kindOf s.cur = .core →
       ∀ k v, s.xlate (pqCons q) s.myAcc (vaOf d) true = (.ok k, v) → v.mayRelease = true →
       let r := v.released
       exec (.putc sc sd sv sg ty scope) s =
         .next (r.pushMsg r.cur (.putc c.toNat (some (k, leBytes n (s.rs sv).toNat)) ((s.rs sg).setWidth 16) r.myPart)).pastStrong)) ∧
  (∀ (s : State) (m : Msg) (c : Nat) (d : Option (Nat × List Byte)) (g : BitVec 16) (p : Nat),
     s.msg s.cur = some m → m.item = .putc c d g p → s.firstOf m = true →
     (∀ x, d = some x → ∀ i, i < x.2.length → plainKey (x.1 + i) = true) →
     let cl := oaCl c
     let i := oaOff c / 8
     let stale := g ≠ 0 ∧ g ≠ Tab.get 0 (s.cluster cl).cgen i
     ∃ t, exec .putcArrival s = .next t ∧
       (stale → (t.part p).stat = bump (s.part p).stat pStale 1 ∧ t.mem = s.mem ∧ t.clusters = s.clusters) ∧
       (¬stale → (t.cluster cl).counter i = (s.cluster cl).counter i + 1 ∧
         ∀ x, d = some x → t.bytesAt x.1 x.2.length = x.2))

/-- R224 to R226, R85, R310: APND. A bad length raises ILLEGAL, a misaligned or foreign word MISALIGN or WINDOW; a
descriptor whose page does not translate is WINDOW on a core, PAGE on a stoker (R215); it waits for a row or a descriptor that an own message or a copy still writes, and for a page that a migration holds; an append that fits reserves its row
and returns the old tail; one that does not returns all ones and is counted at the issuing cluster. A source in no scratchpad is WINDOW on
every hart. Five points are the model's choice: that the refused append of a stoker is counted nowhere, that a row which does not
translate for writing is refused, and which word the trap names where two are bad alike, log 38; that its scope makes no difference and
it orders everything at every scope, log 6. -/
def Obligations.AppendLaw : Prop :=
  ∀ (rd st sr sl : Reg) (scope : BitVec 3) (s : State),
    let n := (s.rs sl).toNat
    let src := s.rs sr
    let d := s.rs st
    let i := Instr.apnd rd st sr sl scope
    let badLen := n < 64 ∨ 512 < n ∨ n % 64 ≠ 0
    (badLen → exec i s = takeTrap s .illegal 0 0) ∧
    (¬badLen → d.toNat % 32 ≠ 0 → exec i s = takeTrap s .misalign d 0) ∧
    (¬badLen → d.toNat % 32 = 0 → src.toNat % 64 ≠ 0 → exec i s = takeTrap s .misalign src 0) ∧
    (¬badLen → d.toNat % 32 = 0 → src.toNat % 64 = 0 → s.inSpad s.myPart src n = false →
      exec i s = takeTrap s .window src 0) ∧
    (¬badLen → d.toNat % 32 = 0 → src.toNat % 64 = 0 → s.inSpad s.myPart src n = true →
      (isVA d = true → stopsAtTarget (exec i s) i s s.myPart d 32 true) ∧
      (isVA d = false → ∀ x, s.accessTrap .plain d 32 = some x → exec i s = addressTrap s x d)) ∧
    (¬badLen → d.toNat % 32 = 0 → src.toNat % 64 = 0 → s.inSpad s.myPart src n = true →
      ∀ k v, targetOf s .plain d 32 true = some (k, v) → v.mayRelease = true →
      let r := v.released
      let waits := r.held r.cur src.toNat n = true ∨ r.mustWait r.cur k 16 = true ∨ r.mustWait r.cur (k + 24) 8 = true
      let stall : Result := .next (r.setMe { r.me with wait := .stall i })
      let row := r.ownBytes r.cur src.toNat n
      let w (j : Nat) : Word := BitVec.ofNat 64 (r.readAt (k + 8 * j) 8)
      let fits := w 3 = 0 ∧ (w 0).toNat + row.length ≤ (w 1).toNat
      (waits → exec i s = stall) ∧
      (¬waits → ∀ parts u, fits → rowParts r (w 0) row = (.parts parts, u) →
        let x := u.writeAt r.cur k (leBytes 8 ((w 0).toNat + row.length))
        exec i s = .next ((x.pushMsg x.cur (.apndRow parts (k + 16) row.length)).ws rd (w 0)).pastStrong) ∧
      (¬waits → fits → (rowParts r (w 0) row).1 = .wait → exec i s = stall) ∧
      (¬waits → ¬fits ∨ (rowParts r (w 0) row).1 = .refused →
        exec i s = .next ((if kindOf r.cur = .core then r.countCl (hartCl r.cur) cAppendRefused 1 else r).ws rd
          (BitVec.allOnes 64)).pastStrong))

/-- R227, R228: AFENCE over a range of one stack of the partition orders every earlier access and ends the chunk; another range
raises WINDOW. WARM fills TLB slices at most, with no other change to a stack's record or to anything else but the counters of malformed
entries, and falls through.
R229, R230, R215: QPOP, with every earlier access of the hart performed, returns the address of the entry at HEAD and advances HEAD
while entries wait, and all ones otherwise; a bad descriptor raises ILLEGAL, a bad word MISALIGN or WINDOW, and a page
that does not translate WINDOW on a core, PAGE on a stoker. -/
def Obligations.FencesAndQueues : Prop :=
  (∀ (sb sn : Reg) (s : State),
     let b := s.rs sb
     let n := (s.rs sn).toNat
     (isVA b = true → (n = 0 ∨ (vaOf b % 2 ^ 54 + n ≤ 2 ^ 54 ∧ s.stackIn s.myPart (vaStack (vaOf b)) = true)) → s.mayRelease = true →
       exec (.afence sb sn) s = .next s.released.pastStrong) ∧
     ((isVA b = false ∨ (n ≠ 0 ∧ (2 ^ 54 < vaOf b % 2 ^ 54 + n ∨ s.stackIn s.myPart (vaStack (vaOf b)) = false))) →
       exec (.afence sb sn) s = addressTrap s .window b) ∧
     ∃ u, exec (.warm sb sn) s = .next u.past ∧ sameButTlb s u ∧ ((isVA b = false ∨ n = 0) → u = s)) ∧
  (∀ (rd sq : Reg) (s : State),
     let q := s.rs sq
     let i := Instr.qpop rd sq
     (q.toNat % 64 ≠ 0 → exec i s = takeTrap s .misalign q 0) ∧
     (q.toNat % 64 = 0 → isVA q = false → exec i s = takeTrap s .window q 0) ∧
     (q.toNat % 64 = 0 → isVA q = true → s.mayRelease = true → stopsAtTarget (exec i s) i s.released s.released.myPart q 64 true) ∧
     (∀ k v, isVA q = true → s.mayRelease = true → targetOf s.released .plain q 64 true = some (k, v) →
       let ql := (queueWord v k 1).toNat
       let c := queueWord v k 2
       let bad := ql % 16 ≠ 0 ∨ 2 ^ 9 ≤ ql ∨ 20 < ql / 16 % 32 ∨ ∃ j, j < 4 ∧ queueWord v k (4 + j) ≠ 0
       let counter := isOA c = true ∧ oaSpace c.toNat = some .counter ∧ c.toNat % 8 = 0 ∧ v.dieIn v.myPart (oaDie c.toNat) = true
       (v.mustWait v.cur k 64 = true → exec i s = .next (v.setMe { v.me with wait := .stall i })) ∧
       (v.mustWait v.cur k 64 = false →
         (bad → exec i s = takeTrap v .illegal 0 0) ∧ (¬bad → ¬counter → exec i s = takeTrap v .window c 0) ∧
         (¬bad → counter →
           let hd := queueWord v k 3
           let cnt := (v.cluster (oaCl c.toNat)).counter (oaOff c.toNat / 8)
           (hd.toNat < cnt.toNat →
             let u := v.writeAt v.cur (k + 24) (leBytes 8 (hd.toNat + 1))
             exec i s = .next (u.ws rd (queueWord u k 0 + BitVec.ofNat 64 (64 * (hd.toNat % 2 ^ (ql / 16 % 32))))).pastStrong) ∧
           (cnt.toNat ≤ hd.toNat → exec i s = .next (v.ws rd (BitVec.allOnes 64)).pastStrong)))))

/-- R2, R57: a write of bytes to plain memory is what reads of plain memory then return, lowest address least significant, and no
other byte of plain memory changes. -/
def Obligations.MemoryReadAfterWrite : Prop :=
  ∀ (s : State) (h : Hart) (k v n : Nat), (∀ i, i < n → plainKey (k + i) = true) → 0 < n →
    (s.writeAt h k (leBytes n v)).readAt k n = v % 2 ^ (8 * n) ∧
    ∀ a, plainKey a = true → a < k ∨ k + n ≤ a → (s.writeAt h k (leBytes n v)).byteAt a = s.byteAt a

/-- R69, R70: when a chunk commits whose stores all go to plain memory of the hart's own arbiter, every byte of plain memory takes
the value the chunk itself read there: its stores become visible at once, and no other byte changes. -/
def Obligations.CommitMakesStoresVisible : Prop :=
  ∀ (s : State),
    (∀ w ∈ s.me.chunk.stores, arbOfKey w.key = arbOf s.cur ∧ plainKey w.key = true ∧
      ∀ i, i < w.data.length → plainKey (w.key + i) = true) →
    ∀ k, plainKey k = true → s.ended.byteAt k = s.ownByte s.cur k

/-- The frame of LD and ST (R211, R212): nothing but the issuing thread set changes; a load writes its register, a store joins the
buffered stores of the chunk unless it names s0 or m0 in a register window (R61), and every byte of memory reads as before until the chunk commits. -/
def Obligations.WeakFrame : Prop :=
  ∀ (r base : Reg) (ty : Ty) (off : BitVec 16) (s t : State), s.alone → s.me.run = .running → kindOf s.cur ≠ .hob →
    let ea := s.ea base off
    let n := tyBytes ty
    let w : WStore := { key := ea.toNat, data := leBytes n (s.rs r).toNat }
    (s.accessTrap .weakLoad ea n = none → s.held s.cur ea.toNat n = false → arbOfKey ea.toNat = arbOf s.cur →
      exec (.ld r base ty off) s = .next t →
      (∃ v, t.me.regs = { s.me.regs.setS r v with pc := t.me.regs.pc }) ∧ t.me.chunk.stores = s.me.chunk.stores ∧
      sameButHart s t ∧ ∀ k, t.byteAt k = s.byteAt k) ∧
    (s.accessTrap .weakStore ea n = none → s.held s.cur ea.toNat w.data.length = false →
      exec (.st r base ty off) s = .next t →
      let o := oaOff ea.toNat % 0x10000
      let void := oaSpace ea.toNat = some .window ∧ (o < 8 ∨ (0x2000 ≤ o ∧ o < 0x2008))
      t.me.regs = { s.me.regs with pc := t.me.regs.pc } ∧
      t.me.chunk.stores = (if void then s.me.chunk.stores else s.me.chunk.stores ++ [w]) ∧
      sameButHart s t ∧ ∀ k, t.byteAt k = s.byteAt k)

/-- The frame of LDA and STL to a scratchpad or accumulator file (R213), from the state in which the access is performed: LDA writes
its register, STL its bytes; no other register, control register or byte of memory changes, and every other thread set is as it was,
but for the lines that its open chunk may meet (R69). -/
def Obligations.StrongFrame : Prop :=
  ∀ (r base : Reg) (ty : Ty) (off : BitVec 16) (scope : BitVec 3) (s : State), s.ended.alone → s.released.alone →
    kindOf s.cur = .core → s.mayEnd = true →
    let ea := s.ea base off
    let n := tyBytes ty
    let others (e t : State) : Prop := ∀ h, h ≠ s.cur → ∃ l, t.thread h = { e.thread h with chunk := { (e.thread h).chunk with seen := l } }
    s.accessTrap .strong ea n = none → (∀ i, i < n → plainKey (ea.toNat + i) = true) → 0 < n →
    (s.ended.mustWait s.cur ea.toNat n = false → ∃ t v, exec (.lda r base ty off scope) s = .next t ∧
      t.me.regs = { s.ended.me.regs.setS r v with pc := t.me.regs.pc } ∧ t.mem = s.ended.mem ∧ t.net = s.ended.net ∧
      t.clusters = s.ended.clusters ∧ t.cores = s.ended.cores ∧ others s.ended t) ∧
    (s.mayRelease = true → s.released.mustWait s.released.cur ea.toNat n = false → ∃ t, exec (.stl r base ty off scope) s = .next t ∧
      t.me.regs = { s.released.me.regs with pc := t.me.regs.pc } ∧ t.readAt ea.toNat n = (s.released.rs r).toNat % 2 ^ (8 * n) ∧
      (∀ a, plainKey a = true → a < ea.toNat ∨ ea.toNat + n ≤ a → t.byteAt a = s.released.byteAt a) ∧
      t.net = s.released.net ∧ t.clusters = s.released.clusters ∧ t.cores = s.released.cores ∧ others s.released t)

/-! ## Encoding and the step -/

/-- R125 to R134: every well-formed instruction, but for the events, has an encoding, and decoding it gives the instruction back, every
operand at every value.
R134, R135: the decoder accepts nothing but well-formed instructions that have an encoding, and refuses majors 0x00 and 0x30 to
0x3F. -/
def Obligations.DecodeEncode : Prop :=
  (∀ (i : Instr), i.wellFormed = true → ∀ hd tl, encode i = some (hd, tl) → decode hd tl = .ok i) ∧
  (∀ (i : Instr), i.wellFormed = true → i ∉ eventRows → (encode i).isSome = true) ∧
  (∀ (hd : Head) (tl : Tail),
     (∀ i, decode hd tl = .ok i → i.wellFormed = true ∧ Instr.isEvent i = false) ∧
     (hd.major = 0#6 ∨ 0x30 ≤ hd.major.toNat → decode hd tl = .error .unassignedMajor))

/-- Heads and tails of the manual's own examples (R184 to R192, R204, R205, R209) decode to the instructions they stand for. -/
def Obligations.DecodeWords : Prop :=
  decode 0x0863 0x0000FFFF = .ok (.addi 3 3 0xFFFF) ∧ decode 0x0889 0x0006000C = .ok (.shri 4 9 12) ∧
  decode 0x1489 0x00432000 = .ok (.bext 4 9 8 3) ∧ decode 0x04E5 0x00C6 = .ok (.divz 7 5 6) ∧
  decode 0x0505 0x0106 = .ok (.remz 8 5 6) ∧ decode 0x1885 0x20000023 = .ok (.bltz 4 5 1 3) ∧
  decode 0x1C00 0x08000009 = .ok (.call 0 9) ∧ decode 0x2440 0x000C0003 = .ok (.rep 2 3 12) ∧
  decode 0x34C3 0 = .ok (.fence 3) ∧ decode 0x34A4 0 = .ok (.gang 4) ∧ decode 0x3534 0 = .ok (.tret 20) ∧
  decode 0x3800 0x42 = .ok (.trap 0x42) ∧ decode 0x3CC6 0 = .ok (.crd 6 6) ∧ decode 0x4206 0 = .ok (.cwr 16 6) ∧
  decode 0x2002 0 = .ok .ret

/-- R10, R118, R121, R124, R134: a step whose turn is a hart's that runs, waits for nothing and stands inside its chunk fetches the
line at its PC, or has it since it entered the line, decodes the head of its slot and is `exec` of that instruction, at the state one
cycle on in which the fetch's translation is cached and the line is held, where no redirect moves the hart first (R305); a body head of
a REP is staggered first (R193). -/
def Obligations.StepRunsDecoded : Prop :=
  ∀ (s : State) (h : Hart) (rest : List Turn) (l : Vec) (u : State) (hd : Head) (tl : Tail) (i : Instr),
    s.agenda = .issue h :: rest → s.ctrl.halted = false →
    let s₁ : State := { s with agenda := rest, cur := h, arg := 0, now := s.now + 1 }
    let t := s.thread h
    t.run = .running → s.job h = none → t.mark = none → t.wait = .none → t.mnf = none → t.gang = none → t.path = [] →
    (t.chunk.executed = 0 → t.pend = []) → t.chunk.ended = false → t.chunk.executed < 512 → t.chunk.wlines.length < 64 →
    (kindOf h = .hob → (s.hob (h - 13824)).executed < 2 ^ 28) →
    s₁.fetchMoves h t.regs.pc = none → s₁.fetchLine h t.regs.pc = (.line l, u) → lineSlot l (pcSlot t.regs.pc) = .ok (hd, tl) → decode hd tl = .ok i →
    let j := stagger t.regs i
    hartTakes (kindOf h) hd.major.toNat hd.fieldA.toNat hd.fieldB.toNat = true → (kindOf h = .stoker ∨ stokerOnly i = false) →
    j.wellFormed = true →
    step s = exec j (u.holdLine h t.regs.pc l)

/-- R120, R121, R134: a head that does not decode, or that its hart does not take, raises ILLEGAL, and a malformed line LINEFMT.
R123, R310, R337, R341: a line that cannot be fetched raises WINDOW, on every hart, with the line's address as the trap's PC; a page that a migration holds keeps the fetch waiting; a redirect of the stoker's slice moves
its hart (R305; that a fetch is such an access is the model's reading, log 21); a hob unit's PC outside its overlay is a hob fault.
R124: an 8-byte unit of a line that a hart will enter may be read before it enters it. An event is performed where the agenda says,
whatever stands in the machine, unless the module is off. -/
def Obligations.StepOtherTurns : Prop :=
  (∀ (s : State) (h : Hart) (l : Vec) (u : State),
     let pc := (s.thread h).regs.pc
     let v := u.holdLine h pc l
     (∀ st, s.fetchMoves h pc = some st → fetchDecode s h = .answer (.next (s.setThread h { s.thread h with wait := .redirect st }))) ∧
     (s.fetchMoves h pc = none → s.fetchLine h pc = (.wait, u) → fetchDecode s h = .answer (.next u)) ∧
     (s.fetchMoves h pc = none → s.fetchLine h pc = (.fail, u) →
       (kindOf h = .hob → fetchDecode s h = .answer (hobFault u h 6)) ∧
       (kindOf h ≠ .hob → ∃ i : TrapInfo, fetchDecode s h = .answer (takeTrapInfo u h i) ∧
         i.code = Trap.code .window ∧ i.pc = pcMove pc 0 0 ∧ i.addr = pcMove pc 0 0)) ∧
     (s.fetchMoves h pc = none → s.fetchLine h pc = (.line l, u) →
       (∀ e, lineSlot l (pcSlot pc) = .error e → fetchDecode s h = .answer (takeTrapInfo v h (trapHere v h .linefmt 0 0))) ∧
       (∀ hd tl, lineSlot l (pcSlot pc) = .ok (hd, tl) →
         ((∃ e, decode hd tl = .error e) ∨ hartTakes (kindOf h) hd.major.toNat hd.fieldA.toNat hd.fieldB.toNat = false ∨
           ∃ i, decode hd tl = .ok i ∧ stokerOnly i = true ∧ kindOf h ≠ .stoker) →
         fetchDecode s h = .answer (takeTrapInfo v h (trapHere v h .illegal 0 0))))) ∧
  (∀ (s : State) (i : Instr) (p n : Nat) (rest : List Turn), s.agenda = .event i p n :: rest → s.ctrl.halted = false →
     Instr.isEvent i = true → step s = exec i { s with agenda := rest, cur := p, arg := n }) ∧
  (∀ (s : State) (h : Hart) (pc : Word) (unit : Nat) (rest : List Turn), s.agenda = .fetch h pc unit :: rest → s.ctrl.halted = false →
     step s = .next (({ s with agenda := rest } : State).fetchUnit h pc unit)) ∧
  (∀ (s : State) (h : Hart) (pc : Word) (unit k : Nat) (u : State), kindOf h ≠ .hob → (s.thread h).run = .running → unit < 8 →
     isVA pc = true → s.xlate (s.thread h).cont.part (s.thread h).cont.acc (vaOf pc / 64 * 64) false = (.ok k, u) →
     (lineNo pc, unit, BitVec.ofNat 64 (s.readAt (k + 8 * unit) 8)) ∈ ((s.fetchUnit h pc unit).thread h).early ∧
       (s.fetchUnit h pc unit).mem = s.mem ∧ ((s.fetchUnit h pc unit).thread h).regs = (s.thread h).regs)

/-- No instruction and no event stops the machine: `exec` answers a next state for every one of them in every state.
A step stops only where the module is off, and then by the fault of that name, and only POWER_UP goes on: R428 and R430 let the module
stop, and that its turns then end in that fault is the model's reading, log 19. -/
def Obligations.NothingStops : Prop :=
  (∀ (i : Instr) (s : State), goesOn (exec i s)) ∧
  (∀ (s : State),
     (s.ctrl.halted = false → goesOn (step s)) ∧
     (s.ctrl.halted = true → goesOn (step s) ∨ step s = .fault .moduleOff) ∧
     (s.ctrl.halted = true → ∀ h rest, s.agenda = .issue h :: rest → step s = .fault .moduleOff))

/-- Every step keeps memory in canonical form: addresses strictly rising and no entry that reads as an unlisted one. -/
def Obligations.StepKeepsMemory : Prop :=
  ∀ (s t : State), s.memOk → step s = .next t → t.memOk

/-- What the reset state leaves, as the model chooses it: memory in canonical form with nothing listed, every byte blank (log 2), and no
thread set running, nothing on its way and no task (R26, log 9). -/
def Obligations.ResetState : Prop :=
  State.reset.memOk ∧ (∀ k, Memory.get State.reset.mem k = Memory.blank) ∧ (∀ h, (State.reset.thread h).run = .idle) ∧
    State.reset.net = [] ∧ State.reset.tasks = []

/-! ## Vectors and streams -/

/-- R231, R232, R89: a lane-wise vector instruction pops its bound sources once, computes each enabled lane, writes its destination and
raises the flags of the enabled lanes. A register bound against its use raises STREAM; an empty stream stalls the
head, and a marked query at its head raises TQRANGE (R330); a push waits for a copy or an own message that still writes its element
(R85, R255).
R239 to R246: the comparisons, classes, conversions, lane reads and tree reductions in the same way.
R245: VINS replaces one lane of an unbound register, none where the index is past the last; a bound one raises STREAM. -/
def Obligations.VectorInstructions : Prop :=
  (∀ (i : Instr) (s u : State) (vals : List (Reg × Vec)) (d : Reg) (t : Ty) (m : BitVec 16) (srcs : List Reg) (f : Nat → Nat × Flg),
     laneFun i (delivered s vals) u = some (d, t, m, srcs, f) →
     (∀ n, s.me.regs.against srcs (some d) = some n → exec i s = takeTrap s .stream 0 n.toNat) ∧
     (s.me.regs.against srcs (some d) = none → s.pushWaits (some d) = true → exec i s = .next s) ∧
     (s.me.regs.against srcs (some d) = none → s.pushWaits (some d) = false →
       (popAll s srcs = .stall → exec i s = .next (s.setMe { s.me with wait := .stall i })) ∧
       (∀ ch q k, popAll s srcs = .range ch q k → exec i s = rangeTrap s ch q k) ∧
       (popAll s srcs = .ok vals u → exec i s = .next (u.wrote d (mapLanes t (maskOn u m) (u.oldV d) f)).past) ∧
       (s.unbound srcs = true → popAll s srcs = .ok [] s))) ∧
  (∀ (i : Instr) (s u w : State) (vals : List (Reg × Vec)) (dst : Option Reg) (srcs : List Reg),
     vectorOf i (delivered s vals) u = some (srcs, dst, w) →
     (∀ n, s.me.regs.against srcs dst = some n → exec i s = takeTrap s .stream 0 n.toNat) ∧
     (s.me.regs.against srcs dst = none → s.pushWaits dst = true → exec i s = .next s) ∧
     (s.me.regs.against srcs dst = none → s.pushWaits dst = false →
       (popAll s srcs = .stall → exec i s = .next (s.setMe { s.me with wait := .stall i })) ∧
       (∀ ch q k, popAll s srcs = .range ch q k → exec i s = rangeTrap s ch q k) ∧
       (popAll s srcs = .ok vals u → exec i s = .next w.past) ∧ (s.unbound srcs = true → popAll s srcs = .ok [] s))) ∧
  (∀ (d rs si : Reg) (t : Ty) (s : State),
     (s.me.regs.binding d ≠ none → exec (.vins d rs si t) s = takeTrap s .stream 0 d.toNat) ∧
     (s.me.regs.binding d = none → ∃ x, exec (.vins d rs si t) s = .next (s.wrote d (x, 0)).past ∧
       ∀ j, j < lanesOf t → laneOf t.width x j =
         if j = (s.rs si).toNat then (s.rs rs).toNat % 2 ^ t.width else laneOf t.width (s.me.regs.getV d) j))

/-- The frame of the lane-wise vector instructions on unbound registers (R95, R231, R232): the destination takes new lanes where the
write mask has a one and keeps the others, flags are only ever raised, and nothing else changes. -/
def Obligations.VectorFrame : Prop :=
  ∀ (i : Instr) (s r : State) (d : Reg) (t : Ty) (m : BitVec 16) (srcs : List Reg) (f : Nat → Nat × Flg),
    laneFun i s.me.regs.getV s = some (d, t, m, srcs, f) → s.alone → s.unbound (d :: srcs) = true → exec i s = .next r →
    (∃ x fl, r.me.regs = { (s.me.regs.setV d x).raise fl with pc := r.me.regs.pc } ∧
      (∀ j, j < lanesOf t → maskOn s m j = false → laneOf t.width x j = laneOf t.width (s.me.regs.getV d) j) ∧
      ∀ j, j < lanesOf t → maskOn s m j = true → laneOf t.width x j = (f j).1 % 2 ^ t.width) ∧
    sameThread s.me r.me ∧ sameButHart s r ∧ (s.me.run = .running → ∀ k, r.byteAt k = s.byteAt k)

/-- R249 to R253: SBIND reads a 64-byte descriptor and binds the register, or raises the trap of what is wrong with it; SUNB leaves
the register unbound; SSKIP of an unbound register does nothing, of an affine stream skips elements, and of an arrival stream pops and
discards as many entries as its count says: those that are there, and the others as they come. While it has taken none, its count is
read again as it issues again (R61).
R251, R255: element k of an affine stream lies at BASE plus its strides; a push past the last element is dropped and counted with its chunk, any
other is a weak store of the chunk at the next element.
R252, R254: read-ahead takes the next element of a reading stream, up to 8; a pop gives the element read ahead, or what stands there
now, overlaid with the stores that the hart had buffered at the SBIND; a stalled pop is released once it can be made. -/
def Obligations.Streams : Prop :=
  (∀ (v sd : Reg) (s : State),
     let a := s.rs sd
     let d := bytesVec (s.ownBytes s.cur a.toNat 64)
     let core := hartCore s.cur
     let illegalD := descIllegal d = true ∨ (descKind d = true ∧ s.channelBound core (descChannel d) = true)
     let base : Word := d.extractLsb' 0 64
     let misD := base.toNat % 64 ≠ 0 ∨ ∃ x ∈ (descBounds d).zip (descStrides d), 1 < x.1 ∧ x.2 % 64 ≠ 0
     let u := if arbOfKey a.toNat = arbOf s.cur then s.noteRead s.cur a.toNat 64 else s
     let ready := a.toNat % 64 = 0 ∧ s.inSpad s.myPart a 64 = true ∧ s.held s.cur a.toNat 64 = false
     (a.toNat % 64 ≠ 0 → exec (.sbind v sd) s = takeTrap s .misalign a 0) ∧
     (a.toNat % 64 = 0 → s.inSpad s.myPart a 64 = false → exec (.sbind v sd) s = addressTrap s .window a) ∧
     (ready →
       (illegalD → exec (.sbind v sd) s = takeTrap u .illegal 0 0) ∧
       (¬illegalD → descKind d = false → misD → exec (.sbind v sd) s = takeTrap u .misalign base 0) ∧
       (¬illegalD → descKind d = false → ¬misD → patternIn core base d = false → exec (.sbind v sd) s = takeTrap u .window base 0) ∧
       (¬illegalD → (descKind d = true ∨ (¬misD ∧ patternIn core base d = true)) →
         exec (.sbind v sd) s = .next (u.setRegs (u.me.regs.setBinding v (some
           { arrival := descKind d, write := descWrite d, channel := descChannel d, base := base.toNat
             bounds := descBounds d, strides := descStrides d, pos := 0, count := 0, fetched := []
             own := if descKind d then [] else u.me.chunk.stores }))).past)) ∧
     exec (.sunb v) s = .next (s.setRegs (s.me.regs.setBinding v none)).past ∧
     (s.me.regs.binding v = none → exec (.sskip v sd) s = .next s.past) ∧
     (∀ b, s.me.regs.binding v = some b → b.arrival = false → a ≠ 0 →
       exec (.sskip v sd) s = .next (s.setRegs (s.me.regs.setBinding v (some
         { b with pos := min b.total (b.pos + a.toNat), count := b.count + a.toNat, fetched := b.fetched.drop a.toNat }))).past) ∧
     (∀ b, s.me.regs.binding v = some b → b.arrival = true → a ≠ 0 →
       let left := if b.skip = 0 then a.toNat else b.skip
       let taken := Tab.get 0 s.me.chunk.pops b.channel
       let there := (((s.core core).arrivals b.channel).filter (fun e => e.taken.isNone || e.taken == some s.cur)).length - taken
       let bound (x : Binding) (n : Nat) := (s.setRegs (s.me.regs.setBinding v (some x))).popTo s.cur b.channel (taken + n)
       (left ≤ there → exec (.sskip v sd) s = .next (bound { b with count := b.count + a.toNat, skip := 0 } left).past) ∧
       (there < left → let w := bound { b with skip := if there = 0 then b.skip else left - there } there
         exec (.sskip v sd) s = .next (w.setMe { w.me with wait := .stall (.sskip v sd) })))) ∧
  (∀ (s : State) (n : Reg) (b : Binding) (x : Vec), s.me.regs.binding n = some b → 24 ≤ n.toNat →
     (b.total ≤ b.pos → (s.putV n x).me.chunk = { s.me.chunk with past := s.me.chunk.past + 1 } ∧ (s.putV n x).mem = s.mem) ∧
     (b.pos < b.total → oaSpace (b.elem b.pos) = some .scratch →
       (s.putV n x).me.chunk.stores = s.me.chunk.stores ++ [{ key := b.elem b.pos, data := vecBytes x 0 64 }] ∧
       (s.putV n x).me.regs.binding n = some { b with pos := b.pos + 1, count := b.count + 1 } ∧ (s.putV n x).mem = s.mem)) ∧
  (∀ (s : State) (n : Reg) (b : Binding), s.me.regs.binding n = some b → b.arrival = false → b.pos < b.total → s.me.replay = [] →
     let k := b.elem b.pos
     let gives (x : Vec) := ∃ u, popOne s n b = .ok [(n, b.seen k x)] u ∧ u.mem = s.mem ∧
       u.me.regs.binding n = some { b with pos := b.pos + 1, count := b.count + 1, fetched := b.fetched.drop 1 }
     (∀ x r, b.fetched = x :: r → gives x) ∧ (b.fetched = [] → s.held s.cur k 64 = false → gives (bytesVec (s.bytesAt k 64))) ∧
     (b.fetched = [] → s.held s.cur k 64 = true → popOne s n b = .stall) ∧
     ∀ x i, i < 64 → (b.seen k x).extractLsb' (8 * i) 8 = (storedByte b.own (k + i)).getD (x.extractLsb' (8 * i) 8)) ∧
  (∀ (s : State) (b : Binding) (i : Instr),
     (s.arg < 8 → s.me.run = .running → s.me.regs.binding (BitVec.ofNat 5 (24 + s.arg)) = some b → b.arrival = false →
       b.write = false → b.fetched.length < 8 → b.pos + b.fetched.length < b.total →
       s.held s.cur (b.elem (b.pos + b.fetched.length)) 64 = false →
       exec .streamPrefetch s = .next (s.setMe { s.me with regs := s.me.regs.setBinding (BitVec.ofNat 5 (24 + s.arg)) (some
         { b with fetched := b.fetched ++ [bytesVec (s.bytesAt (b.elem (b.pos + b.fetched.length)) 64)] }) })) ∧
     (s.me.wait = .stall i → s.unbound (vecSources i) = false → (∃ vals u, popAll s (vecSources i) = .ok vals u) ∨ (∃ ch q k, popAll s (vecSources i) = .range ch q k) →
       exec .streamStallRelease s = .next (s.setMe { s.me with wait := .none })))

/-! ## The matrix unit -/

/-- R258 to R260, R264, R281: a matrix command whose checks fail raises its trap; while its core's queue is full it stalls; otherwise it
is one entry of the cluster's queue, with the registers sampled at its acceptance, after every earlier access of the hart.
MATRIX_QUEUE_ACCEPT issues a stalled one again.
R282 to R285: MWAIT waits until at most n commands of its continuation are left; MFAB arms a tile, ILLEGAL where its word or the
accumulator format does not allow it; MCHK reads a tile's status once no command of its continuation names the tile, and clears it
on request. -/
def Obligations.MatrixCommands : Prop :=
  (∀ (i : Instr) (sa sb sp : Reg) (chk : MEntry → Option (Trap × Word)) (s : State),
     matrixOf i (hartCl s.cur) = some (sa, sb, sp, chk) →
     let cl := hartCl s.cur
     let full := 4 ≤ (s.cluster cl).occupied (hartCore s.cur % 8)
     (∀ x w, chk (sampled s i sa sb sp) = some (x, w) → exec i s = takeTrap s x w 0) ∧
     (chk (sampled s i sa sb sp) = none → full → exec i s = .next (s.setMe { s.me with wait := .stall i })) ∧
     (chk (sampled s i sa sb sp) = none → ¬full → s.mayRelease = true →
       let r := s.released
       let u := r.setCluster cl { r.cluster cl with queue := (r.cluster cl).queue ++ [sampled r i sa sb sp] }
       exec i s = .next ({ u with fresh := u.fresh + 1 } : State).pastStrong) ∧
     (s.stalledHead s.cur = some i → exec .matrixQueueAccept s = exec i s)) ∧
  (∀ (tile a rd : Reg) (s : State), s.mayEnd = true →
     let e := s.ended
     let r := s.released
     let cl := hartCl s.cur
     let left := (e.clusters.map (fun c => if e.dieIn e.myPart (c.1 / 96) then (e.tagged (c.2.queue ++ c.2.granted)).length else 0)).sum
     let w := s.rs a
     let bad := 2 ^ 32 ≤ w.toNat ∨ 1 < fmtCode s.me.regs.ctl.fmtc ∨ (fmtCode s.me.regs.ctl.fmtc = 0 ∧ tile.toNat % 2 = 1)
     let busy := (e.tagged ((e.cluster cl).queue ++ (e.cluster cl).granted)).any (fun x => x.names tile.toNat)
     let m := (e.cluster cl).tile tile.toNat
     (left ≤ a.toNat → exec (.mwait a) s = .next e.pastStrong) ∧
     (a.toNat < left → exec (.mwait a) s = .next (e.setMe { e.me with wait := .stall (.mwait a) })) ∧
     (bad → exec (.mfab tile a) s = takeTrap s .illegal 0 0) ∧
     (¬bad → s.mayRelease = true → exec (.mfab tile a) s = .next (r.setCluster cl ((r.cluster cl).setTile tile.toNat
       { (r.cluster cl).tile tile.toNat with
         arming := ((r.cluster cl).tile tile.toNat).arming + 1, armed := w.setWidth 8 != 0#8, f64 := fmtCode s.me.regs.ctl.fmtc == 0, remain := w.setWidth 8
         ci := w.extractLsb' 8 8, round := w.extractLsb' 16 16 })).pastStrong) ∧
     (busy = true → exec (.mchk rd tile a) s = .next (e.setMe { e.me with wait := .stall (.mchk rd tile a) })) ∧
     (busy = false → a = 0 → exec (.mchk rd tile a) s = .next (e.ws rd m.word).pastStrong) ∧
     (busy = false → a ≠ 0 → exec (.mchk rd tile a) s = .next ((e.setCluster cl ((e.cluster cl).setTile tile.toNat
       { m with spoiled := false, nonfinite := false, reruns := 0 })).ws rd m.word).pastStrong))

/-- R267, R268, R270, R27: the arbiter grants the oldest command of the core it chooses, when the unit is free and awake, or parked and
reached by the stagger token on this cycle, and the core spends a credit: the command runs for its busy cycles, which begin once no
byte that it reads lies in an unfilled copy destination (R85; that its reads stall behind the grant is the model's reading, log 36).
R268: the core the arbiter chooses has a command waiting and credit left, and the credits are refilled from MWGT only when every
core that waits has none. -/
def Obligations.MatrixArbitration : Prop :=
  (∀ (s : State) (k : Nat) (cr : Vector Nat 8) (e : MEntry),
     let c := s.cluster s.cur
     c.isRunning = false → c.freeAt ≤ s.now → (c.isParked s.now = false ∨ (s.now % 16 = 0 ∧ tokenAt s.now = s.cur % 96)) →
     arbitrate c = some (k, cr) → c.queue.find? (fun x => x.core == k) = some e →
     ∃ t e', exec .matrixGrant s = .next t ∧ (t.cluster s.cur).last = k ∧ t.mem = s.mem ∧
       (t.cluster s.cur).queue = c.queue.filter (fun x => x.id != e.id) ∧ (t.cluster s.cur).granted = c.granted ++ [e'] ∧
       (readGuarded s e = false → runsTo e' (s.now + e.busy - 1) false) ∧ (readGuarded s e = true → e'.st = .reading) ∧ e'.id = e.id ∧ e'.instr = e.instr ∧ e'.base = regionBase s s.cur e ∧
       ∀ i : Fin 8, (t.cluster s.cur).credit[i] = if i.val = k then cr[i] - 1 else cr[i]) ∧
  (∀ (c : Cluster) (k : Nat) (cr : Vector Nat 8), arbitrate c = some (k, cr) →
     k < 8 ∧ (∃ e ∈ c.queue, e.core = k) ∧ (∀ h : k < 8, cr[k] ≠ 0) ∧
     (cr = c.credit ∨ ((∀ i : Fin 8, cr[i] = weightOf c.mwgt i.val) ∧ ∀ i : Fin 8, (∃ e ∈ c.queue, e.core = i.val) → c.credit[i] = 0)))

/-- R85, R269, R273, R274: a granted command whose operand reads stall begins its busy cycles once a copy has filled what it reads; on
its last busy cycle a command that passes its checksums goes to write-back, 24 cycles long; one that
mismatches runs again once and is counted, and a second mismatch spoils its tiles.
R269, R270, R280: the write-back of a command writes every element of its result to its tile in binary32, or clears the whole tile
for MZERO, and the command is complete.
R277: a write-back that finds an element non-finite which was finite at grant sets NONFINITE in the tiles of the command and leaves MNF for the
tagged continuation where it is still there, with the first such element, or counts it (as a second one is while one is pending: the
model's choice, log 55); a hart that has one pending takes the trap instead of its next head.
When a command reads its operands, that its reads stall behind the grant, and that a second run waits for a copy as well are the
model's reading, log 36.
R27, R261, R286: the unit of a ready cluster parks after 4,096 idle cycles; on the cycle the stagger token reaches a parked unit where
a command waits, the unit wakes and grants; the next packet of an FACC in order reaches its tile. -/
def Obligations.MatrixCompletion : Prop :=
  (∀ (s : State) (e : MEntry) (stop : Nat) (again : Bool),
     let c := s.cluster s.cur
     let stalls := c.granted.find? (fun x => x.st == .reading)
     (stalls = some e → ∃ t, exec .matrixBusyEnd s = .next t ∧ t.mem = s.mem ∧ ∀ x ∈ (t.cluster s.cur).granted, x.id = e.id →
       (readGuarded s e = true → x.st = .reading) ∧ (readGuarded s e = false → runsTo x (s.now + e.busy - 1) false)) ∧
     (stalls = none → c.granted.find? (fun x => match x.st with
       | .running n _ => n ≤ s.now
       | _ => false) = some e → runsTo e stop again →
     (e.ok = true ∨ again = true → ∃ t, exec .matrixBusyEnd s = .next t ∧ (t.cluster s.cur).freeAt = stop + 1 ∧
       (∀ x ∈ (t.cluster s.cur).granted, x.id = e.id → x.st = .writeback (stop + 24)) ∧ t.mem = s.mem) ∧
     (e.ok = false → again = true → ∀ t, exec .matrixBusyEnd s = .next t →
       ∀ n, n < 8 → e.names n = true → ((t.cluster s.cur).tile n).spoiled = true) ∧
     (e.ok = false → again = false → readGuarded s e = true → exec .matrixBusyEnd s = .next s) ∧
     (e.ok = false → again = false → readGuarded s e = false → ∃ t, exec .matrixBusyEnd s = .next t ∧
       (∀ x ∈ (t.cluster s.cur).granted, x.id = e.id → runsTo x (stop + e.busy) true) ∧ t.mem = s.mem ∧
       Tab.get 0 (t.cluster s.cur).stat cRerun = Tab.get 0 c.stat cRerun + 1))) ∧
  (∀ (s : State) (e : MEntry),
     let c := s.cluster s.cur
     let n := e.geom.2.1
     c.granted.find? (fun x => match x.st with
       | .writeback due => due ≤ s.now
       | _ => false) = some e → c.held = [] → writeGuarded s e = false →
     ∃ t, exec .matrixWriteback s = .next t ∧ (∀ x ∈ (t.cluster s.cur).granted, x.id ≠ e.id) ∧
       (e.isMma = true → e.tileOf.2 = false → ∀ x v, e.res[x]? = some v →
         t.tileEl s.cur e.tileOf.1 false (x / n) (x % n) = v % 2 ^ 32) ∧
       (∀ tile nf ci, e.instr = .mzero tile nf ci → ∀ o, o < 0x10000 → Memory.get t.mem (tileKey s.cur tile.toNat 0 0 + o) = 0) ∧
       ∀ x, firstNonfinite e = some x →
         let u := s.thread e.hart
         let tagged := e.mmnf = true ∧ (u.run = .running ∨ u.run = .halted) ∧ u.cont.rcd = e.rcd ∧ u.cont.gen = e.gen ∧ u.mnf = none
         (∀ k, k < 8 → e.names k = true → ((t.cluster s.cur).tile k).nonfinite = true) ∧
         (tagged → (t.thread e.hart).mnf = some
           { head := ((encode e.instr).getD (0, 0)).1, tail := ((encode e.instr).getD (0, 0)).2, row := x / n, col := x % n
             tile := e.tileOf.1, fmta := e.fmta, fmtb := e.fmtb, fmtc := e.fmtc }) ∧
         (¬tagged → (t.thread e.hart).mnf = u.mnf ∧ Tab.get 0 (t.cluster s.cur).stat cMnf = Tab.get 0 c.stat cMnf + 1)) ∧
  (∀ (s : State) (h : Hart) (rest : List Turn) (m : MnfRec),
     s.agenda = .issue h :: rest → s.ctrl.halted = false →
     let s₁ : State := { s with agenda := rest, cur := h, arg := 0, now := s.now + 1 }
     let t := s.thread h
     t.run = .running → s.job h = none → t.mark = none → (t.wait = .none ∨ ∃ i, t.wait = .stall i) → t.gang = none → t.path = [] →
     t.pend = [] → t.chunk.ended = false → t.chunk.executed < 512 → t.chunk.wlines.length < 64 →
     t.mnf = some m → m.after ≤ t.chunk.executed →
     step s = takeTrapInfo s₁ h (mnfInfo s₁ h m) ∧ (mnfInfo s₁ h m).code = Trap.code .mnf ∧ (mnfInfo s₁ h m).pc = t.regs.pc) ∧
  (∀ (s : State) (msg : Msg) (k : Nat) (tag : BitVec 16) (ci : Option (BitVec 8)) (l : List Vec),
     let c := s.cluster s.cur
     let r := reduceStep s msg.hart 7 k tag ci l
     (c.up = true → c.granted = [] → c.idleSince + 4096 ≤ s.now →
       exec .matrixPark s = .next (s.setCluster s.cur { c with parked := true })) ∧
     (s.now % 16 = 0 → ∃ t, exec .staggerTokenMove s = .next t ∧ ∀ d, d < 4 →
       let x := s.cluster (96 * d + tokenAt s.now)
       let y := t.cluster (96 * d + tokenAt s.now)
       x.isParked s.now = true → x.queue ≠ [] → x.isRunning = false → x.freeAt ≤ s.now →
         y.parked = false ∧ y.idleSince = s.now ∧ ∀ k cr e, arbitrate x = some (k, cr) → x.queue.find? (fun e => e.core == k) = some e →
           ∃ e' ∈ y.granted, e'.id = e.id ∧ (readGuarded s e = false → runsTo e' (s.now + e.busy - 1) false) ∧
             (readGuarded s e = true → e'.st = .reading)) ∧
     (s.msg s.cur = some msg → msg.item = .reduce 7 k tag ci l → s.firstOf msg = true →
       (r.2.2 = [] → exec .addendPacket s = .next (r.1.dropMsg msg.id)) ∧
       (r.2.2 ≠ [] → ∃ t, exec .addendPacket s = .next t ∧ t.mem = r.1.mem ∧ t.clusters = r.1.clusters ∧
         t.net = r.1.net.map (fun x => if x.id == msg.id then { x with item := .reduce 7 r.2.1 tag ci r.2.2 } else x))))

/-- R286, R271: an addend packet is judged as it reaches its tile: one for an armed tile, with its round, a row below 128 and columns
that fit, within the addends left once those held before it are counted, is taken; any other is refused and counted. While a command
on the tile lies between grant and write-back a taken packet is held; else its lines are added to the tile, or to the pair of a
binary64 tile, one addend is counted down, and the last disarms the tile and raises its counter. -/
def Obligations.AddendPackets : Prop :=
  ∀ (s : State) (cl : Nat) (a : Addend),
    let c := s.cluster cl
    let m := c.tile a.tile
    let width := if m.f64 then 8 else 16
    let w := if m.f64 then 64 else 32
    let f := if m.f64 then Machine.f64 else Machine.f32
    let ahead := (c.held.filter (fun b => b.ok && b.tile == a.tile && b.arming == m.arming)).length
    let fits := m.armed = true ∧ a.round = m.round ∧ ahead < m.remain.toNat ∧ a.row < 128 ∧ a.col % width = 0 ∧
      a.col + width ≤ (if m.f64 then 64 else 128)
    let waits := c.tileBusy a.tile m.f64 = true ∨ ∃ b ∈ c.held, b.tile = a.tile
    let t := arriveAddend s cl a
    (¬fits → a.ci = none → t = s.countCl cl cAddendRefused 1) ∧
    (fits → waits → t = s.setCluster cl { c with held := c.held ++ [{ a with ok := true, f64 := m.f64, arming := m.arming }] }) ∧
    (fits → ¬waits → a.ci = none →
      (a.ident = true → t.mem = s.mem) ∧
      (a.ident = false → ∀ e, e < width → t.tileEl cl a.tile m.f64 a.row (a.col + e) =
        f.addF (s.tileEl cl a.tile m.f64 a.row (a.col + e)) (a.data.extractLsb' (w * e) w).toNat % 2 ^ w) ∧
      ((t.cluster cl).tile a.tile).remain = m.remain - 1 ∧
      (m.remain = 1 → ((t.cluster cl).tile a.tile).armed = false ∧ (t.cluster cl).counter m.ci.toNat = c.counter m.ci.toNat + 1) ∧
      (m.remain ≠ 1 → ((t.cluster cl).tile a.tile).armed = true ∧ (t.cluster cl).counters = c.counters))

/-! ## Kindling, copies and the hearth -/

/-- R349, R351, R353 to R356, R358: the forms that change the array. The array of a cluster takes an owner's form, or, for all but KNRESET,
that of any thread set while nobody owns it, which then owns it; another thread set's raises KINDLE. KNMODE behind loads that are
still queued takes effect behind them.
R352, R71, R357, R359, R356, R354: KNCAPT and KNFIRST give the owner the two halves of y and of f and wait for a window to end, and
give again what a squashed chunk took; a KNSTAT gives the status word; a window that is due writes y and f and counts; a load writes
one row a cycle once no window runs. -/
def Obligations.KindlingArray : Prop :=
  (∀ (sw sa sr va vb : Reg) (s : State), s.follows = false →
     let cl := hartCl s.cur
     let own := (s.kindling cl).owner
     let may := own = none ∨ own = some s.knHart
     let w := s.rs sw
     let r := s.rs sr
     let a := s.rs sa
     let first := r.toNat % 128
     let cnt := r.toNat / 2 ^ 8 % 128 + 1
     let badRows := 2 ^ 15 ≤ r.toNat ∨ r.getLsbD 7 = true ∨ 128 < first + cnt
     (256 ≤ w.toNat → exec (.knwin sw) s = takeTrap s .illegal 0 0) ∧
     (w.toNat < 256 → ¬may → exec (.knwin sw) s = takeTrap s .kindle 0 0) ∧
     (w.toNat < 256 → may → s.mayEnd = true → ∃ u : State, exec (.knwin sw) s = .next u.pastStrong ∧
       u.kindling cl = { s.ended.kindling cl with owner := some s.ended.knHart, w := if w = 0 then 1 else w.setWidth 8 }) ∧
     (badRows → exec (.kndly sa sr) s = takeTrap s .illegal 0 0) ∧
     (¬badRows → a.toNat % 64 ≠ 0 → exec (.kndly sa sr) s = takeTrap s .misalign a 0) ∧
     (¬badRows → a.toNat % 64 = 0 → inClusterSpad cl a (64 * cnt) = false → exec (.kndly sa sr) s = takeTrap s .window a 0) ∧
     (¬badRows → a.toNat % 64 = 0 → inClusterSpad cl a (64 * cnt) = true →
       (¬may → exec (.kndly sa sr) s = takeTrap s .kindle 0 0) ∧
       (may → s.mayRelease = true → ∃ u : State, exec (.kndly sa sr) s = .next u.pastStrong ∧
         u.kindling cl = { s.released.kindling cl with
           owner := some s.released.knHart
           loads := (s.released.kindling cl).loads ++
             [{ src := a.toNat, first := first, cnt := cnt, due := (s.released.kindling cl).loadFrom s.released.now + cnt }] })) ∧
     (s.me.regs.against [va] none = none →
       (¬may → exec (.knmode va) s = takeTrap s .kindle 0 0) ∧
       (may → s.mayEnd = true → ∀ vals u, popAll s.ended [va] = .ok vals u → u.follows = false →
         let k := u.kindling cl
         let m : BitVec 128 := (delivered s.ended vals va).setWidth 128
         ∃ x : State, exec (.knmode va) s = .next x.pastCommit ∧
           (k.loads = [] → x.kindling cl = { k with owner := some u.knHart, modes := m }) ∧
           (∀ l, k.loads.getLast? = some l → x.kindling cl = { k with
             owner := some u.knHart
             loads := k.loads ++ [{ src := 0, first := 0, cnt := 0, due := l.due, modes := some m }] }))) ∧
     (s.me.regs.against [va, vb] none = none →
       (¬may → exec (.knlaunch va vb) s = takeTrap s .kindle 0 0) ∧
       (may → (s.kindling cl).busy = true →
         exec (.knlaunch va vb) s = .next (s.setMe { s.me with wait := .stall (.knlaunch va vb) })) ∧
       (may → (s.kindling cl).busy = false → s.mayEnd = true →
         ∀ vals u, popAll s.ended [va, vb] = .ok vals u → u.follows = false →
         let k := u.kindling cl
         let y := evalWindow { k with owner := some u.knHart } (delivered s.ended vals va) (delivered s.ended vals vb) k.w.toNat
         ∃ x : State, exec (.knlaunch va vb) s = .next x.pastCommit ∧ x.kindling cl = { k with
           owner := some u.knHart, win := some { due := u.now + (k.w.toNat + 7) / 8 + 3, y := y.1, f := y.2 }
           lastw := k.w })) ∧
     (own = none → s.mayEnd = true → exec .knreset s = .next s.ended.pastStrong) ∧
     (own ≠ none → own ≠ some s.knHart → exec .knreset s = takeTrap s .kindle 0 0) ∧
     (own = some s.knHart → s.mayEnd = true → ∃ u : State, exec .knreset s = .next u.pastStrong ∧
       u.kindling cl = { s.ended.kindling cl with
         win := none, y := BitVec.allOnes 1024, f := BitVec.allOnes 1024, capvalid := false, owner := none })) ∧
  (∀ (vd ve rd : Reg) (first : Bool) (s : State),
     let cl := hartCl s.cur
     let k := s.kindling cl
     let i := if first then Instr.knfirst vd ve else .kncapt vd ve
     let now := if first then k.f else k.y
     (s.me.regs.against [] (some vd) = none → s.me.regs.against [] (some ve) = none →
       s.pushWaits (some vd) = false → s.pushWaits (some ve) = false →
       ((∀ e ∈ s.me.replay, e.1 ≠ knLogKey first) →
         (k.owner ≠ some s.knHart → exec i s = takeTrap s .kindle 0 0) ∧
         (k.owner = some s.knHart → k.win ≠ none → exec i s = .next (s.setMe { s.me with wait := .stall i })) ∧
         (k.owner = some s.knHart → k.win = none → ∃ u : State,
           u.me.regs = s.me.regs ∧ u = { s with threads := u.threads } ∧
           exec i s = .next ((u.putV vd (now.setWidth 512)).putV ve (now.extractLsb' 512 512)).past)) ∧
       (∀ a b l, s.me.replay = (knLogKey first, a) :: (knLogKey first, b) :: l → ∃ u : State,
         u.me.regs = s.me.regs ∧ u.me.replay = l ∧ u = { s with threads := u.threads } ∧
         exec i s = .next ((u.putV vd a).putV ve b).past)) ∧
     (s.mayEnd = true → s.ended.me.gang = none →
       exec (.knstat rd) s = .next (s.ended.ws rd ((s.ended.kindling cl).stat s.ended.knHart)).pastStrong) ∧
     (∀ w, (s.kindling s.cur).win = some w → w.due ≤ s.now → ∃ t, exec .kindlingCapture s = .next t ∧
       t.kindling s.cur = { s.kindling s.cur with
         win := none, y := w.y, f := w.f, capvalid := true, nwin := (s.kindling s.cur).nwin + 1 }) ∧
     (∀ l r, (s.kindling s.cur).loads = l :: r → (s.kindling s.cur).win = none → l.due + l.row + 1 ≤ s.now + l.cnt →
       s.guarded (l.src + 64 * l.row) 64 = false →
       let k := s.kindling s.cur
       let d := Tab.set (BitVec.allOnes 512) k.delay (l.first + l.row) (bytesVec (s.bytesAt (l.src + 64 * l.row) 64))
       ∃ t, exec .kndlyLoadDone s = .next t ∧
         (l.row + 1 < l.cnt → t.kindling s.cur = { k with delay := d, loads := { l with row := l.row + 1 } :: r }) ∧
         (l.cnt ≤ l.row + 1 → (∀ x, r.head? = some x → x.modes = none) → t.kindling s.cur = { k with delay := d, loads := r }) ∧
         (l.cnt ≤ l.row + 1 → ∀ x m q, r = x :: q → x.modes = some m → (∀ y, q.head? = some y → y.modes = none) →
           t.kindling s.cur = { k with delay := d, modes := m, loads := q })))

/-- R290 to R292, R300: a request that breaks its form raises its trap, one for a channel that is not IDLE raises FIFO; while the FIFO of
eight is full XPUSH stalls and XPUSHB returns 1; an accepted one is a release: its words are staged, its channel is QUEUED with SEQ
one higher, and the channel stands last in the FIFO. XPUSH_FIFO_ACCEPT issues a stalled XPUSH again.
R302, R311 to R314, R35: XWAIT waits while its channel is QUEUED or ACTIVE, to its end or until the watermark exceeds its word; XSTAT reads;
XRESUME makes the channel of a FAULTED job ACTIVE and queues its record, STATUS 1, for any thread set of its stoker (R289, R304), and does
nothing otherwise; XCANCEL waits while the mailbox record of the end it brings meets an unfilled copy destination (R85); it takes a queued request away and retires a faulted job, END 2, lets a
running job end so, takes the hart of a RUN job out of issue at once (it is idle when the stores that hart committed are performed), and
does nothing to an IDLE channel. -/
def Obligations.CopyRequests : Prop :=
  (∀ (rd sa : Reg) (s : State),
     let w (k : Nat) : Word := s.rs (sa + BitVec.ofNat 5 k)
     let core := hartCore s.cur
     let ch := w0Channel (w 0)
     let bad := requestTrap s (w 0) (w 1) (w 2) (w 3)
     let idle := (s.chan core ch).st = .idle
     (∀ x a, bad = some (x, a) → exec (.xpush sa) s = takeTrap s x a 0 ∧ exec (.xpushb rd sa) s = takeTrap s x a 0) ∧
     (bad = none → ¬idle → exec (.xpush sa) s = takeTrap s .fifo 0 ch ∧ exec (.xpushb rd sa) s = takeTrap s .fifo 0 ch) ∧
     (bad = none → idle → 8 ≤ (s.core core).fifo.length →
       exec (.xpush sa) s = .next (s.setMe { s.me with wait := .stall (.xpush sa) }) ∧
       exec (.xpushb rd sa) s = .next (s.ws rd 1).past) ∧
     (bad = none → idle → (s.core core).fifo.length < 8 → s.mayRelease = true →
       let r := s.released
       ∃ u : State, exec (.xpush sa) s = .next u.pastStrong ∧ exec (.xpushb rd sa) s = .next (u.ws rd 0).pastStrong ∧
         (u.core core).fifo = (r.core core).fifo ++ [ch] ∧ (u.chan core ch).st = .queued ∧
         (u.chan core ch).w0 = w 0 ∧ (u.chan core ch).w1 = w 1 ∧ (u.chan core ch).w2 = w 2 ∧ (u.chan core ch).w3 = w 3 ∧
         (u.chan core ch).seq = (r.chan core ch).seq + 1 ∧ (u.chan core ch).lastend = (r.chan core ch).lastend ∧
         u.mem = r.mem ∧ u.net = r.net ∧ u.clusters = r.clusters ∧ u.dram = r.dram) ∧
     (s.stalledHead s.cur = some (.xpush sa) → exec .xpushFifoAccept s = exec (.xpush sa) s)) ∧
  (∀ (rd ch sa : Reg) (s : State), s.mayEnd = true →
     let core := hartCore s.cur
     let n := ch.toNat
     let e := s.ended
     let c := e.chan core n
     let r := s.released
     let stall (i : Instr) : Result := .next (e.setMe { e.me with wait := .stall i })
     let x := (r.chan core n).st
     (busyChan c = true → exec (.xwaitDone ch rd) s = stall (.xwaitDone ch rd)) ∧
     (busyChan c = false → exec (.xwaitDone ch rd) s = .next (e.ws rd (c.lastend.setWidth 64)).pastStrong) ∧
     (busyChan c = true → c.rwm.toNat ≤ (e.rs sa).toNat → exec (.xwaitRead ch sa) s = stall (.xwaitRead ch sa)) ∧
     (busyChan c = false ∨ (e.rs sa).toNat < c.rwm.toNat → exec (.xwaitRead ch sa) s = .next e.pastStrong) ∧
     (busyChan c = true → c.fwm.toNat ≤ (e.rs sa).toNat → exec (.xwaitFill ch sa) s = stall (.xwaitFill ch sa)) ∧
     (busyChan c = false ∨ (e.rs sa).toNat < c.fwm.toNat → exec (.xwaitFill ch sa) s = .next e.pastStrong) ∧
     exec (.xstatRead rd ch) s = .next (s.ws rd (s.chan core n).rwm).past ∧
     exec (.xstatFill rd ch) s = .next (s.ws rd (s.chan core n).fwm).past ∧
     exec (.xstat rd ch) s = .next (s.ws rd (BitVec.ofNat 64 ((match (s.chan core n).st with
       | .idle => 0
       | .queued => 1
       | .active => 2
       | .faulted => 3) + (s.chan core n).lastend.toNat * 2 ^ 8 + (s.chan core n).seq.toNat * 2 ^ 16
         + (s.chan core n).kind.toNat * 2 ^ 32))).past ∧
     (s.mayRelease = true → x ≠ .faulted → exec (.xresume ch) s = .next r.pastStrong) ∧
     (s.mayRelease = true → x = .faulted → ∀ k j, r.chanJob core n = some (k, j) →
       let t := (r.thread k).cont
       ∃ u : State, exec (.xresume ch) s = .next u.pastStrong ∧ u.thread k = {} ∧ (k < 16384 → u.job k = none) ∧
       (∃ i, 16384 ≤ i ∧ u.job i = some { j with st := .moving }) ∧
       (∃ e ∈ (u.part t.part).ready, e.rcd = t.rcd ∧ e.acc = t.acc ∧ e.lin = t.lin) ∧
       ∀ q, r.recordKey t.part t.rcd q → u.byteAt (q + 39) = 1 ∧ (j.owned = true → (u.chan j.core j.ch).st = .active)) ∧
     (s.mayRelease = true → r.cancelWaits core n = true →
       exec (.xcancel ch) s = .next (r.setMe { r.me with wait := .stall (.xcancel ch) })) ∧
     (s.mayRelease = true → r.cancelWaits core n = false →
       (x = .idle → exec (.xcancel ch) s = .next r.pastStrong) ∧
       (x = .queued → ∃ u : State, exec (.xcancel ch) s = .next u.pastStrong ∧ (u.chan core n).st = .idle ∧
         (u.chan core n).lastend = 2 ∧ (u.chan core n).fcode = 4 ∧ ch.toNat ∉ (u.core core).fifo) ∧
       (x = .active → ∀ k j, r.chanJob core n = some (k, j) → k < 16384 → ∃ u : State, exec (.xcancel ch) s = .next u.pastStrong ∧
         u.job k = some { j with st := .done 2 4 0 }) ∧
       (x = .active → ∀ k j, r.chanJob core n = some (k, j) → 16384 ≤ k → j.cmds ≠ [] → ∃ u : State,
         exec (.xcancel ch) s = .next u.pastStrong ∧ u.job k = some { j with st := .done 2 4 0 }) ∧
       (x = .active → ∀ k j h, r.chanJob core n = some (k, j) → 16384 ≤ k → j.cmds = [] → r.hartOf j.cont.part j.rcd = some h → ∃ u : State,
         exec (.xcancel ch) s = .next u.pastStrong ∧ ((u.thread h).run = .retiring ∨ u.thread h = {})) ∧
       (x = .faulted → ∀ k j, r.chanJob core n = some (k, j) → r.job k = some j → ∃ u : State,
         exec (.xcancel ch) s = .next u.pastStrong ∧ (u.chan core n).st = .idle ∧ (u.chan core n).lastend = 2 ∧ u.job k = none)))

/-- R288, R293, R295, R296, R300: an idle stoker hart takes the request that is next at its stoker and whose record the pool has room for;
a job moves element after element, then its watermarks, and is complete behind the last one. R299, R301: a job that ends writes its
mailbox record where the request names one, its first eight bytes last, once the record meets no unfilled destination of another copy
(R85), and one that has done its work raises the counter of NOTIFY.
R289, R305, R306, R309, R310, R336: REDUCE, MIGRATE, SHOOT and RUN are taken and go on in the same way; a REDUCE is complete with its
last command; a page is held and moved with its bytes, in every version slot, to the frame named; the target stack's table then maps
it there with the permissions it had, and its old entry is a redirect to the target; a SHOOT is complete when every slice has answered; a
RUN starts its program; a continuation or a job that met a redirect leaves its hart and is queued for the new home stoker (how it goes
on there is the model's reading, log 23). -/
def Obligations.CopyJobs : Prop :=
  (∀ (s : State) (j : Job),
     (∀ p ∈ [(Instr.copy, 0, false), (.copyToTensor, 0, true), (.gather, 1, false), (.scatter, 2, false)],
       (∀ u, s.job s.cur = none → kindOf s.cur = .stoker → (s.thread s.cur).run = .idle →
         takeJob s s.cur p.2.1 p.2.2 = u → u.job s.cur = some j →
         exec p.1 s = .next ((setupCopy u j).1.setJob u.cur (some (setupCopy u j).2)) ∧ (u.chan j.core j.ch).st = .active ∧
           (u.thread s.cur).run = .running ∧ u.cur = s.cur) ∧
       (s.job s.cur = some j → j.kind = p.2.1 → w0Tdst j.w0 = p.2.2 → j.st = .moving → s.arg = 0 → ∀ l, j.layout = some l →
         (l.total ≤ j.pos → exec p.1 s = .next (s.setJob s.cur (some { j with st := .done 1 0 0 }))) ∧
         (j.pos < l.total → ∀ j₁ u v, readIndex s j l = (.ok j₁, u) → moveElement u j₁ l = (.ok (), v) →
           let j₂ : Job := { j₁ with pos := j₁.pos + 1 }
           exec p.1 s = .next ((onChan v j₂ (j₂.marks l j₂.pos)).setJob s.cur (some j₂))))) ∧
     (∀ stop fcode va, s.job s.cur = some j → s.endWaits j = true →
       (j.st = .done stop fcode va → exec .copyComplete s = .next s) ∧ (j.st = .fault va fcode → exec .page s = .next s) ∧
       (j.st = .waiting → exec .reduceComplete s = .next s)) ∧
     (∀ stop fcode va, s.job s.cur = some j → j.st = .done stop fcode va → j.cmds = [] → s.endWaits j = false → ∃ t, exec .copyComplete s = .next t ∧
       t.thread s.cur = {} ∧ t.job s.cur = none ∧
       (j.owned = true → (t.chan j.core j.ch).st = .idle ∧ (t.chan j.core j.ch).lastend = BitVec.ofNat 8 stop) ∧
       let m := (w0Mbox j.w0).toNat
       let old := (s.cluster (j.core / 8)).counter (w0Ci j.w0)
       j.ivec.length = 6 → (w0Mben j.w0 = true → ∀ i, i < 32 → plainKey (m + i) = true) →
       (w0Mben j.w0 = true →
         t.readAt m 8 = (stop + 256 * fcode + j.seq.toNat * 2 ^ 16 + j.invalid.toNat * 2 ^ 32) % 2 ^ 64 ∧
         t.readAt (m + 8) 8 = va.toNat ∧ t.bytesAt (m + 16) 12 = (j.ivec.map (leBytes 2)).flatten) ∧
       (t.cluster (j.core / 8)).counter (w0Ci j.w0) = (if stop = 1 ∧ w0Notify j.w0 = true then old + 1 else old)) ∧
     (∀ va fcode, s.job s.cur = some j → j.st = .fault va fcode → s.endWaits j = false → ∃ t, exec .page s = .next t ∧
       (t.thread s.cur).run = .parked ∧
       let iv := match j.layout with
         | some l => if j.kind < 3 then boxDigits j.pos l.extm1 else [0, 0, 0, 0, 0, 0]
         | none => [0, 0, 0, 0, 0, 0]
       t.job s.cur = some { j with st := .parked, ivec := iv } ∧
       (j.owned = true → (t.chan j.core j.ch).st = .faulted ∧ (t.chan j.core j.ch).fva = va ∧ (t.chan j.core j.ch).ivec = iv ∧
         (t.chan j.core j.ch).fcode = BitVec.ofNat 8 fcode))) ∧
  (∀ (s : State) (j : Job),
     (∀ p ∈ [(Instr.reduce, 3), (.migrate, 4), (.shoot, 5)],
       (∀ u, s.job s.cur = none → kindOf s.cur = .stoker → (s.thread s.cur).run = .idle →
         takeJob s s.cur p.2 false = u → u.job s.cur = some j → j.kind = p.2 →
         exec p.1 s = .next ((setupJob u j).1.setJob u.cur (some (setupJob u j).2)) ∧ (u.chan j.core j.ch).st = .active) ∧
       (s.job s.cur = some j → j.kind = p.2 → w0Tdst j.w0 = false → j.st = .moving →
         exec p.1 s = .next ((goJob s j (s.arg + 1)).1.setJob s.cur (some (goJob s j (s.arg + 1)).2)))) ∧
     (s.job s.cur = some j → j.kind = 3 → j.st = .waiting → j.cmds = [] → j.fail = none → s.endWaits j = false → ∃ t, exec .reduceComplete s = .next t ∧
       t.thread s.cur = {} ∧ (j.owned = true → (t.chan j.core j.ch).st = .idle ∧ (t.chan j.core j.ch).lastend = 1 ∧
         (t.chan j.core j.ch).rwm = BitVec.allOnes 64)) ∧
     (∀ e dst frame hs ds, s.job s.cur = some j → j.kind = 4 → j.st = .waiting → migratePlan s j = some (e, dst, frame, hs, ds) →
       framePending s (frameKeys (vaStack (vaOf j.w1)) e.frame e.size) = false → ∃ t, exec .migrateMove s = .next t ∧
         t.job s.cur = some { j with st := .done 1 0 0 } ∧
         let home := vaStack (vaOf j.w1)
         let perm := (if e.rd then 4 else 0) + (if e.wr then 8 else 0)
         (hs + 8 ≤ 2 ^ 36 → ds + 8 ≤ 2 ^ 36 →
           t.readAt (stackKey 0 dst ds) 8 = 3 + perm + frame ∧ t.readAt (stackKey 0 home hs) 8 = 19 + perm + 32 * dst ∧
           ∀ k o, k < 4 → o < e.size → (k = 0 → frame + o < ds ∨ ds + 8 ≤ frame + o) →
             t.byteAt (stackKey k dst (frame + o)) = s.byteAt (stackKey k home (e.frame + o))) ∧
         (∀ f ∈ (t.stack (vaStack (vaOf j.w1))).tlb, f.covers j.cont.part (vaOf j.w1) = true → f.redir = some dst) ∧
         (∀ y ∈ (t.stack (vaStack (vaOf j.w1))).heldPages, ¬(y.1 = j.cont.part ∧ e.covers j.cont.part (y.2 * 2 ^ 16) = true))) ∧
     (s.job s.cur = some j → j.kind = 5 → j.st = .waiting → s.arg ∈ j.slices →
       let x := s.stack (s.arg / 12)
       let hit (e : TlbEntry) : Bool := e.part == j.cont.part && rangesMeet (vaOf j.w1) j.w2.toNat e.va e.size && vaStoker e.va == s.arg % 12
       framePending s ((x.tlb.filter hit).flatMap (fun e => if e.redir.isSome then [] else frameKeys (s.arg / 12) e.frame e.size))
         = false → ∃ t j', exec .shootAck s = .next t ∧ t.job s.cur = some j' ∧ s.arg ∉ j'.slices ∧
           (t.stack (s.arg / 12)).tlb = x.tlb.filter (fun e => !hit e) ∧ (j'.slices = [] → j'.st = .done 1 0 0)) ∧
     (∀ hd u, s.job s.cur = some j → j.kind = 6 → j.st = .moving → s.stackIn j.cont.part (vaStack (vaOf j.w1)) = true →
       readHeader s j.cont.part j.cont.acc j.w1 = (some hd, u) → ∃ t, exec .run s = .next t ∧
         (t.thread s.cur).run = .running ∧ (t.thread s.cur).regs.pc = hd.entry ∧ (t.thread s.cur).cont.rcd = j.cont.rcd) ∧
     (∀ st, s.job s.cur = none → s.me.run = .running → s.me.wait = .redirect st → s.mayRelease = true →
       let c := s.released.me.cont
       ∃ t, exec .continuationMigrate s = .next t ∧ t.thread s.cur = {} ∧ ∃ e ∈ (t.part c.part).ready,
         e.rcd = c.rcd ∧ e.lin = c.lin ∧ e.acc = c.acc ∧ e.stoker = some (12 * st + hartSk s.cur % 12)) ∧
     (∀ st, s.job s.cur = some j → j.st = .redirect st → s.blocked s.cur = false → kindOf s.cur = .stoker →
       let c := (s.drain s.cur).me.cont
       ∃ t k, exec .continuationMigrate s = .next t ∧ t.thread s.cur = {} ∧ t.job s.cur = none ∧ t.job k = some { j with st := .moving } ∧
         ∃ e ∈ (t.part c.part).ready, e.rcd = c.rcd ∧ e.stoker = some (12 * st + hartSk s.cur % 12)))

/-- R295, R85: an element of a copy between on-chip memories. Towards the packed side it is copied where its place lies inside the
tensor and takes the fill pattern where it does not; towards the tensor it is copied where its place lies inside and dropped where it
does not. No other byte of plain memory changes. An element that meets the unfilled destination of another copy waits. -/
def Obligations.CopyElement : Prop :=
  ∀ (s t : State) (j : Job) (l : Layout) (r : Except (Option JobSt) Unit), moveElement s j l = (r, t) →
    let a := (j.tensorAt l j.pos j.idx).2
    let p := j.packedAt l j.pos
    let inside := (j.tensorAt l j.pos j.idx).1
    let at' (x : Word) : Prop := ∀ i, i < l.esize → plainKey (x.toNat + i) = true
    let only (x : Word) : Prop := ∀ k, plainKey k = true → k < x.toNat ∨ x.toNat + l.esize ≤ k → t.byteAt k = s.byteAt k
    isOA a = true → isOA p = true → 0 < l.esize →
    (j.stalls s a l.esize = false → j.stalls s p l.esize = false →
      (j.sides.2.2 = false → at' p → r = .ok () ∧ only p ∧
        t.bytesAt p.toNat l.esize = (if inside then s.bytesAt a.toNat l.esize else leBytes l.esize l.fill.toNat)) ∧
      (j.sides.2.2 = true → inside = true → at' a → r = .ok () ∧ only a ∧ t.bytesAt a.toNat l.esize = s.bytesAt p.toNat l.esize)) ∧
    (j.sides.2.2 = true → inside = false → r = .ok () ∧ t = s) ∧
    (j.sides.2.2 = false → j.stalls s p l.esize = true → r = .error none ∧ t = s)

/-- R326 to R330: a table query with a bad word raises ILLEGAL, one for a foreign stack WINDOW; it waits for room for its entries;
otherwise it is a release that pops its sources and sends the query. TQ_RESERVE issues a stalled one again. The sequencer answers
each query with one result per index, zeros and a count where no table is installed; an answer that is due goes to its channel.
That the WINDOW of a foreign stack names address 0 is the model's reading, log 22.
R324, R329: what a query reads at an index within the table is the entry it names, where the index is out of range the last entry,
the default or a mark, as the policy says, and 64 or 32 results fill whole entries of the channel. TQ.INTP in the same way gives the
value between two entries, rounded at each of its steps, and the default NaN throughout on a table without IEN; what is out of range
is counted. -/
def Obligations.TableQueries : Prop :=
  (∀ (i : Instr) (form need : Nat) (va ss : Reg) (vb : Option Reg) (s : State), queryOf i = some (form, need, va, ss, vb) →
     let w := s.rs ss
     let bad := 2 ^ 16 ≤ w.toNat ∨ w.getLsbD 11 = true
     let core := hartCore s.cur
     let st := w.toNat / 256 % 8
     let ch := w.toNat / 2 ^ 12 % 16
     let r := s.released
     (bad → exec i s = takeTrap s .illegal 0 0) ∧
     (¬bad → ∀ n, s.me.regs.against (va :: vb.toList) none = some n → exec i s = takeTrap s .stream 0 n.toNat) ∧
     (¬bad → s.me.regs.against (va :: vb.toList) none = none →
       (s.stackIn s.myPart st = false → exec i s = takeTrap s .window 0 0) ∧
       (s.stackIn s.myPart st = true → s.mayRelease = true →
         (arrivalRoom r core ch < need → exec i s = .next (r.setMe { r.me with wait := .stall i })) ∧
         (need ≤ arrivalRoom r core ch → popAll r (va :: vb.toList) = .stall →
           exec i s = .next (r.setMe { r.me with wait := .stall i })) ∧
         (need ≤ arrivalRoom r core ch → ∀ vals u, popAll r (va :: vb.toList) = .ok vals u →
           exec i s = .next ({ u with
             fresh := u.fresh + 1
             queries := u.queries ++ [{ qid := u.fresh, core := core, ch := ch, stack := st, slot := w.toNat % 256, form := form
                                        va := delivered r vals va, vb := (vb.map (delivered r vals)).getD 0
                                        issued := u.now, need := need, result := none }] } : State).pastCommit))) ∧
     (s.stalledHead s.cur = some i → exec .tqReserve s = exec i s) ∧
     (∀ q : Query, s.queries = [q] → s.arg = 0 →
       (q.stack = s.cur → q.result = none → s.now < q.issued + 48 → ∃ t, exec .tableQueryAnswer s = .next t ∧
         t.queries = [{ q with result := some (answerQuery s q).1 }] ∧ t.mem = s.mem ∧
         (Tab.get none (s.stack s.cur).htabs q.slot = none → ∀ e ∈ (answerQuery s q).1.1, e = 0)) ∧
       (∀ l mark, q.result = some (l, mark) → q.issued + 48 ≤ s.now → ∃ t, exec .tableQueryAnswer s = .next t ∧ t.queries = [] ∧
         ((t.core q.core).arrivals q.ch).map ArrEntry.data = ((s.core q.core).arrivals q.ch).map ArrEntry.data ++ l))) ∧
  (∀ (s : State) (q : Query) (t : HTable), Tab.get none (s.stack q.stack).htabs q.slot = some t → q.form < 3 → t.width ≤ 2 →
     let r := answerQuery s q
     let x (k : Nat) : Nat := ((queryIndices q)[k]?).getD 0
     let count := (queryIndices q).length
     let size := 8 * 2 ^ t.width
     let last := t.entries - 1
     count = (if q.form = 1 then 32 else 64) ∧
     r.1.1.length = (count * size + 511) / 512 ∧
     (∀ k, k < count → laneOf size ((r.1.1[k * size / 512]?).getD 0) (k % (512 / size)) =
       (if x k < t.entries then tableEntry s q.stack t (x k)
        else if t.policy = 0 then tableEntry s q.stack t last
        else if t.policy = 1 then t.dflt.toNat % 2 ^ size
        else 0)) ∧
     (r.1.2 = if 2 ≤ t.policy ∧ ∃ k, k < count ∧ t.entries ≤ x k then some q.slot else none)) ∧
  (∀ (s : State) (q : Query) (t : HTable), Tab.get none (s.stack q.stack).htabs q.slot = some t → q.form = 3 →
     let r := answerQuery s q
     let x (k : Nat) : Nat := laneOf 16 q.va k
     let n (k : Nat) : Nat := x k / 256
     let f (k : Nat) : Nat := x k % 256
     let out (k : Nat) : Bool := decide (t.entries ≤ n k) || (f k != 0 && decide (t.entries ≤ n k + 1))
     let val (i : Nat) : Nat := f32.rne ((fmtOf t.ifmt).dec (tableEntry s q.stack t i))
     let between (i j : Nat) : Nat :=
       if j = 0 then val i
       else f32.addF (val i) (f32.rne (Sys2Proof.Machine.Num.mul (.fin false j (-8)) (f32.dec (f32.subF (val (i + 1)) (val i)))).1)
     let result (i j : Nat) : Nat := if (f32.dec (between i j)).isNan then 0x7FC00000 else between i j
     r.1.1.length = 2 ∧
     (∀ k, k < 32 → laneOf 32 ((r.1.1[k / 16]?).getD 0) (k % 16) =
       (if t.ien = false then 0x7FC00000
        else if out k = false then result (n k) (f k) % 2 ^ 32
        else if t.policy = 0 then result (t.entries - 1) 0 % 2 ^ 32
        else if t.policy = 1 then t.dflt.toNat
        else 0)) ∧
     (r.1.2 = if t.ien = true ∧ 2 ≤ t.policy ∧ (List.range 32).any out = true then some q.slot else none) ∧
     Tab.get 0 (r.2.stack q.stack).stat kRange = Tab.get 0 (s.stack q.stack).stat kRange +
       BitVec.ofNat 64 (if t.ien = false then 1 else ((List.range 32).filter out).length))

/-- R321, R324, R310, R317, R325, R319: HTLOAD and HMODE answer a code; on any code but 0 nothing changes but their register, and for HTLOAD what its walks have cached and
counted: memory, every stack's record and all else are as they were. HTLOAD with s0 empties a slot,
and waits while a migration holds the table's page;
HMODE enters and leaves compute mode, with the refresh handed over; a refresh that is due is issued or postponed, up to 8.
R331 to R333, R339, R342: IRED, HCMD and HOVL of a core or stoker: a bad mailbox, command word or operand raises its trap or answers
its code, a WINDOW before a stoker's PAGE for the words it cannot read (R113); a full queue stalls; otherwise the command, with its 64 bytes read at issue, stands last in the queue of the stoker of its
pseudo-channel, as a release, and HOVL waits for its answer. HEARTH_QUEUE_ACCEPT issues a stalled command again.
R305: a redirect of its own stoker's slice moves a hart before it reads a descriptor or command. Two points are the model's reading, log
22: that the WINDOW of an HCMD for a foreign stack names address 0, and that HTLOAD waits for a held page. -/
def Obligations.HearthCommands : Prop :=
  (∀ (rd sa sb : Reg) (s : State), s.mayRelease = true →
     let r := s.released
     let a := r.rs sa
     let slot := (r.rs sb).toNat
     let st := hartStack s.cur
     let w := r.rs sa
     let pc := w.toNat % 128
     let sk := hartSk s.cur
     let inUse := ((r.stack (sk / 12)).htabs.any (fun e => match e.2 with
       | some t => pcOfPa t.pa == pc
       | none => false)) = true ∨ (r.hob (sk / 12 * 96 + pc)).cmd ≠ none ∨
         (r.hq sk).any (fun c => c.kind == 1 && c.pc == sk / 12 * 96 + pc) = true
     let badSel := 2 ^ 9 ≤ w.toNat ∨ w.getLsbD 7 = true
     let on := r.computing (sk / 12 * 96 + pc)
     let wrong := isVA a = false ∨ a.toNat % 32 ≠ 0
     let moves (k : Nat) := (s.rs sb).toNat < 256 ∧ sa ≠ 0#5 ∧ isVA (s.rs sa) = true ∧ (s.rs sa).toNat % 32 = 0 ∧
       s.movesTo (s.rs sa) 32 = some k
     (∀ k, moves k → exec (.htload rd sa sb) s = .next (s.setMe { s.me with wait := .redirect k })) ∧
     ((∀ k, ¬moves k) →
     (256 ≤ slot → exec (.htload rd sa sb) s = .next (r.ws rd 3).pastStrong) ∧
     (slot < 256 → sa = 0#5 → ∃ u : State, exec (.htload rd sa sb) s = .next (u.ws rd 0).pastStrong ∧
       Tab.get none (u.stack st).htabs slot = none ∧ (u.stack st).tlb = (r.stack st).tlb ∧ u.mem = r.mem) ∧
     (slot < 256 → sa ≠ 0#5 → wrong → exec (.htload rd sa sb) s = .next (r.ws rd 3).pastStrong) ∧
     (slot < 256 → sa ≠ 0#5 → ¬wrong → r.stackIn r.myPart (vaStack (vaOf a)) = false →
       exec (.htload rd sa sb) s = .next (r.ws rd 2).pastStrong) ∧
     (slot < 256 → sa ≠ 0#5 → ¬wrong → r.stackIn r.myPart (vaStack (vaOf a)) = true → ∀ b v,
       r.readVA r.myPart r.myAcc (vaOf a) 32 = (some b, v) →
       let o := installTable v st r.myPart r.myAcc slot (BitVec.ofNat 256 (leNat b))
       (∀ c, o.1 = some c → exec (.htload rd sa sb) s = .next (o.2.ws rd (BitVec.ofNat 64 c)).pastStrong) ∧
       (o.1 = none → exec (.htload rd sa sb) s = .next (o.2.setMe { o.2.me with wait := .stall (.htload rd sa sb) })) ∧
       (o.1 = some 0 → ∃ t, Tab.get none (o.2.stack st).htabs slot = some t ∧ t.va = vaOf (BitVec.ofNat 64 (leNat b)) ∧ t.part = r.myPart) ∧
       (o.1 ≠ some 0 → sameButTlb r o.2)) ∧
     (slot < 256 → sa ≠ 0#5 → ¬wrong → r.stackIn r.myPart (vaStack (vaOf a)) = true → ∀ v,
       r.readVA r.myPart r.myAcc (vaOf a) 32 = (none, v) → exec (.htload rd sa sb) s = .next (v.ws rd 1).pastStrong ∧ sameButTlb r v)) ∧
     (badSel → exec (.hmode rd sa) s = .next (r.ws rd 3).pastStrong) ∧
     (¬badSel → pc / 8 ≠ sk % 12 → exec (.hmode rd sa) s = .next (r.ws rd 2).pastStrong) ∧
     (¬badSel → pc / 8 = sk % 12 → (on = w.getLsbD 8 → exec (.hmode rd sa) s = .next (r.ws rd 0).pastStrong) ∧
       (on = true → w.getLsbD 8 = false → inUse → exec (.hmode rd sa) s = .next (r.ws rd 5).pastStrong) ∧
       (on ≠ w.getLsbD 8 → (on = true → ¬inUse) → ∃ u : State, exec (.hmode rd sa) s = .next (u.ws rd 0).pastStrong ∧
         u.computing (sk / 12 * 96 + pc) = w.getLsbD 8 ∧
         (Tab.get {} (u.stack (sk / 12)).refresh pc).sequencer = w.getLsbD 8 ∧
         (Tab.get {} (u.stack (sk / 12)).refresh pc).postponed = 0 ∧
         (Tab.get {} (u.stack (sk / 12)).refresh pc).due = (Tab.get {} (r.stack (sk / 12)).refresh pc).due)) ∧
     (s.cur < 768 →
       let f := Tab.get {} (s.stack (s.cur / 96)).refresh (s.cur % 96)
       f.due ≤ s.now → ∃ t, exec .refresh s = .next t ∧ t.mem = s.mem ∧
         let g := Tab.get {} (t.stack (s.cur / 96)).refresh (s.cur % 96)
         (s.arg = 1 → f.postponed < 8 → g.postponed = f.postponed + 1 ∧ g.pointer = f.pointer) ∧
         (s.arg ≠ 1 ∨ 8 ≤ f.postponed → g.postponed = 0 ∧ g.pointer = f.pointer + f.postponed + 1))) ∧
  (∀ (ra rb rc : Reg) (s : State),
     let w := s.rs ra
     let m := s.rs rb
     let x := s.rs rc
     let pc := 96 * selStack w + selPc w
     let queued (t r : State) (pc : Nat) (f : HCmd → Prop) : Prop :=
       ∃ q, t.hq (pcStoker pc) = r.hq (pcStoker pc) ++ [q] ∧ q.pc = pc ∧ q.cont = r.me.cont ∧ q.hart = s.cur ∧ f q
     -- the 64 bytes that a stoker cannot read at issue
     let unread (s : State) (w : Word) (o : Result) (i : Instr) : Prop :=
       (isVA w = false → o = takeTrap s .page w 0) ∧
       (∀ k, isVA w = true → s.movesTo w 64 = some k → o = .next (s.setMe { s.me with wait := .redirect k })) ∧
       (isVA w = true → s.movesTo w 64 = none → ∀ e u, s.xlate s.myPart s.myAcc (vaOf w) false = (e, u) →
         (e = .held → o = .next (u.setMe { u.me with wait := .stall i })) ∧
         (e ≠ .held → (∀ k, e ≠ .ok k) → o = takeTrap u .page w 0))
     (mailboxTrap s m = some .misalign → exec (.ired ra rb) s = takeTrap s .misalign m 0 ∧
       exec (.hcmd ra rc rb) s = takeTrap s .misalign m 0) ∧
     (mailboxTrap s m ≠ some .misalign →
       (w.toNat % 64 ≠ 0 → exec (.ired ra rb) s = takeTrap s .misalign w 0) ∧
       (w.toNat % 64 = 0 → kindOf s.cur = .core →
         (inClusterSpad (hartCl s.cur) w 64 = false → exec (.ired ra rb) s = takeTrap s .window w 0) ∧
         (inClusterSpad (hartCl s.cur) w 64 = true → mailboxTrap s m = some .window →
           exec (.ired ra rb) s = takeTrap s .window m 0) ∧
         (inClusterSpad (hartCl s.cur) w 64 = true → mailboxTrap s m = none → s.held s.cur w.toNat 64 = true →
           exec (.ired ra rb) s = .next (s.setMe { s.me with wait := .stall (.ired ra rb) }))) ∧
       (w.toNat % 64 = 0 → kindOf s.cur ≠ .core →
         (mailboxTrap s m = some .window → exec (.ired ra rb) s = takeTrap s .window m 0) ∧
         (mailboxTrap s m = none → unread s w (exec (.ired ra rb) s) (.ired ra rb))) ∧
       (∀ c v, mailboxTrap s m = none → commandAt s w = some (c, v) →
         let dst := iredDst c
         let src := iredSrc c
         let bad := isVA dst = false ∨ v.stackIn v.myPart (vaStack (vaOf dst)) = false
         (bad → exec (.ired ra rb) s = windowTrap v dst) ∧ (¬bad → isVA src = false → exec (.ired ra rb) s = windowTrap v src) ∧
         (¬bad → isVA src = true →
           let pc := iredPc v v.myPart v.myAcc dst
           (queueFull v pc = true → exec (.ired ra rb) s = .next (v.setMe { v.me with wait := .stall (.ired ra rb) })) ∧
           (queueFull v pc = false → v.mayRelease = true → ∃ t : State, exec (.ired ra rb) s = .next t.pastStrong ∧
             queued t v.released pc (fun q => q.kind = 0 ∧ q.cmd = c ∧ q.mbox = mboxOf m ∧ q.dpa = none))))) ∧
     (mailboxTrap s m = some .window → exec (.hcmd ra 0 rb) s = takeTrap s .window m 0) ∧
     (mailboxTrap s m = none → s.stackIn s.myPart (selStack w) = false → exec (.hcmd ra 0 rb) s = takeTrap s .window 0 0) ∧
     (mailboxTrap s m = none → s.stackIn s.myPart (selStack w) = true →
       (selOk w = false → s.mayRelease = true → exec (.hcmd ra 0 rb) s =
         .next (putMailbox s.released s.released.cur s.released.myPart s.released.myAcc (mboxOf m) (2 + 256 * 3) []).pastStrong) ∧
       (selOk w = true → queueFull s pc = true → exec (.hcmd ra 0 rb) s = .next (s.setMe { s.me with wait := .stall (.hcmd ra 0 rb) })) ∧
       (selOk w = true → queueFull s pc = false → s.mayRelease = true → ∃ t : State, exec (.hcmd ra 0 rb) s = .next t.pastStrong ∧
         queued t s.released pc (fun q => q.kind = 1 ∧ q.cmd = 0 ∧ q.sel = w ∧ q.mbox = mboxOf m))) ∧
     (rc ≠ 0#5 → mailboxTrap s m ≠ some .misalign →
       let i := Instr.hcmd ra rc rb
       let far := kindOf s.cur = .core ∧ inClusterSpad (hartCl s.cur) x 64 = false
       let here := s.stackIn s.myPart (selStack w) = true
       (x.toNat % 64 ≠ 0 → exec i s = takeTrap s .misalign x 0) ∧ (x.toNat % 64 = 0 → far → exec i s = takeTrap s .window x 0) ∧
       (x.toNat % 64 = 0 → ¬far → mailboxTrap s m = some .window → exec i s = takeTrap s .window m 0) ∧
       (x.toNat % 64 = 0 → ¬far → mailboxTrap s m = none → ¬here → exec i s = takeTrap s .window 0 0) ∧
       (x.toNat % 64 = 0 → ¬far → mailboxTrap s m = none → here → kindOf s.cur ≠ .core → unread s x (exec i s) i) ∧
       (x.toNat % 64 = 0 → ¬far → mailboxTrap s m = none → here → kindOf s.cur = .core → s.held s.cur x.toNat 64 = true →
         exec i s = .next (s.setMe { s.me with wait := .stall i })) ∧
       (mailboxTrap s m = none → here → ∀ c v, commandAt s x = some (c, v) →
         (selOk w = true → queueFull v pc = true → exec i s = .next (v.setMe { v.me with wait := .stall i })) ∧
         (selOk w = false → v.mayRelease = true → exec i s =
           .next (putMailbox v.released v.released.cur v.released.myPart v.released.myAcc (mboxOf m) (2 + 256 * 3) []).pastStrong) ∧
         (selOk w = true → queueFull v pc = false → v.mayRelease = true → ∃ t : State, exec i s = .next t.pastStrong ∧
           queued t v.released pc (fun q => q.kind = 1 ∧ q.cmd = c ∧ q.sel = w ∧ q.mbox = mboxOf m)))) ∧
     (∀ i ∈ [Instr.ired ra rb, .hcmd ra rc rb, .hovl ra rb rc], s.stalledHead s.cur = some i → exec .hearthQueueAccept s = exec i s))

/-- R342, R337, R339, R341: HOVL answers 3 for a bad operand and 2 for another stoker's unit, and otherwise queues the load and waits;
the unit loads 4,096 bytes and answers 0. A unit takes the next command: in compute mode it runs from the entry offset with s3 to s10
holding the argument words, otherwise the command ends. 2^28 heads are a fault: once the unit's chunk can commit and the mailbox
meets no unfilled copy destination, the command ends with END 3 and FCODE 7, its PC and head in the mailbox, and the unit is idle.
R340: ROWLD, ROWST and ROWADD move or add a row of lines between the unit's data memory and its own pseudo-channel; a bad offset or
word and a row that leaves its page or its pseudo-channel block are fault 6, a row outside the partition or the pseudo-channel, or
read only, fault 2, one without a translation fault 1. -/
def Obligations.HobUnits : Prop :=
  (∀ (rd sh si : Reg) (s : State) (c : HCmd),
     let w := s.rs sh
     let img := s.rs si
     let sk := hartSk s.cur
     let pc := 96 * (sk / 12) + selPc w
     let bad := 2 ^ 11 ≤ w.toNat ∨ w.getLsbD 7 = true ∨ isVA img = false ∨ img.toNat % 4096 ≠ 0
     let other := selStack w ≠ sk / 12 ∨ selPc w / 8 ≠ sk % 12
     let unit := 13824 + s.cur
     (bad → s.mayRelease = true → exec (.hovl rd sh si) s = .next (s.released.ws rd 3).pastStrong) ∧
     (¬bad → other → s.mayRelease = true → exec (.hovl rd sh si) s = .next (s.released.ws rd 2).pastStrong) ∧
     (¬bad → ¬other → queueFull s pc = true → exec (.hovl rd sh si) s = .next (s.setMe { s.me with wait := .stall (.hovl rd sh si) })) ∧
     (¬bad → ¬other → queueFull s pc = false → s.mayRelease = true → ∃ t q, exec (.hovl rd sh si) s = .next t ∧
       t.me.wait = .answer rd ∧ t.me.regs = s.released.me.regs ∧ t.hq (pcStoker pc) = s.released.hq (pcStoker pc) ++ [q] ∧
       q.kind = 2 ∧ q.pc = pc ∧ q.sel = img ∧ q.rd = rd) ∧
     ((s.hob s.cur).cmd = none → s.nextHob s.cur = some c → c.kind = 2 → ∀ k u,
       s.xlate c.cont.part c.cont.acc (vaOf c.sel) false = (.ok k, u) → ∃ t, exec .hovlLoad s = .next t ∧
         (∀ i, i < 4096 → Tab.get 0 (t.hob s.cur).overlay i = s.byteAt (k + i)) ∧
         ((s.thread c.hart).wait = .answer c.rd → (s.thread c.hart).path = [] → (s.thread c.hart).gang = none →
           (s.thread c.hart).regs.rep = none →
           (t.thread c.hart).regs = { (s.thread c.hart).regs.setS c.rd 0 with pc := (t.thread c.hart).regs.pc })) ∧
     ((s.hob s.cur).cmd = none → s.nextHob s.cur = some c → c.kind = 1 → s.computing s.cur = true → ∃ t, exec .hobCommandRun s = .next t ∧
       (t.thread unit).run = .running ∧ (t.thread unit).regs.pc = BitVec.ofNat 64 (selEntry c.sel) ∧ (t.thread unit).cont = c.cont ∧
       (t.hob s.cur).cmd = some c ∧ (t.hob s.cur).executed = 0 ∧ t.mem = s.mem ∧
       ∀ i, i < 8 → (t.thread unit).regs.getS (BitVec.ofNat 5 (3 + i)) = c.cmd.extractLsb' (64 * i) 64) ∧
     ((s.hob s.cur).cmd = none → s.nextHob s.cur = some c → c.kind = 1 → s.computing s.cur = false → ∃ u : State,
       exec .hobCommandRun s = .next (putMailbox u hearthHart c.cont.part c.cont.acc c.mbox (2 + 256 * 4) []) ∧
       u = { s with hqueue := u.hqueue } ∧ u.hq (pcStoker s.cur) = (s.hq (pcStoker s.cur)).filter (fun x => x.id != c.id)) ∧
     ((s.hob s.cur).cmd ≠ none → 2 ^ 28 ≤ (s.hob s.cur).executed → exec .hobBudgetExhausted s = hobFault s unit 7) ∧
     (s.cur < 768 → ∀ x, (s.hob s.cur).cmd = some x → 2 ^ 28 ≤ (s.hob s.cur).executed → ({ s with cur := unit } : State).mayEnd = true →
       (s.commit unit).hobWaits unit = false → ∃ t, exec .hobBudgetExhausted s = .next t ∧
         t = endHob ((s.commit unit).drain unit) unit 3 7
           (leBytes 8 (s.thread unit).regs.pc.toNat ++ leBytes 2 ((s.commit unit).headAt unit).1.toNat ++ leBytes 46 0) ∧
         (t.hob s.cur).cmd = none ∧ (t.hob s.cur).executed = 0 ∧ t.thread unit = {})) ∧
  (∀ (sl sb : Reg) (ty : Ty) (n1 : BitVec 7) (s : State),
     let off := (s.rs sl).toNat
     let w := s.rs sb
     let n := 64 * (n1.toNat + 1)
     let unit := s.cur - 13824
     let d := hobKey unit off
     let bad := off % 64 ≠ 0 ∨ 8192 < off + n ∨ w.toNat % 64 ≠ 0 ∨ isVA w = false
     let op := if ty.toNat = 1 then 0 else if ty.toNat = 2 then 1 else 2
     let size := addSize op
     (bad → ∀ i ∈ [Instr.rowld sl sb n1, .rowst sl sb n1, .rowadd sl sb ty n1], exec i s = hobFault s s.cur 6) ∧
     (¬bad → ∀ (i : Instr) (write : Bool), (i, write) ∈ [(Instr.rowld sl sb n1, false), (.rowst sl sb n1, true), (.rowadd sl sb ty n1, true)] →
       (∀ u, s.xlateRange s.myPart s.myAcc (vaOf w) n write = (.error .held, u) → exec i s = .next (u.setMe { u.me with wait := .stall i })) ∧
       (∀ e u, e = .outside ∨ e = .readonly → s.xlateRange s.myPart s.myAcc (vaOf w) n write = (.error e, u) →
         exec i s = hobFault u u.cur 2) ∧
       (∀ e u, e ≠ .held → e ≠ .outside → e ≠ .readonly → s.xlateRange s.myPart s.myAcc (vaOf w) n write = (.error e, u) →
         exec i s = hobFault u u.cur 1) ∧
       (∀ l u, s.xlateRange s.myPart s.myAcc (vaOf w) n write = (.ok l, u) →
         let k := (l.head?.map Prod.fst).getD 0
         let mine := keyStack k = unit / 96 ∧ pcOfPa (keyPa k) = unit % 96
         let whole := onePc (keyPa k) n = true ∧ u.onePage (keyStack k) u.myPart (vaOf w) n = true
         let own := mine ∧ whole
         let b := u.ownBytes u.cur d n
         (¬mine → exec i s = hobFault u u.cur 2) ∧
         (mine → ¬whole → exec i s = hobFault u u.cur 6) ∧
         (own → l.any (fun x => u.mustWait u.cur x.1 x.2.2) = true → exec i s = .next (u.setMe { u.me with wait := .stall i })) ∧
         (own → l.any (fun x => u.mustWait u.cur x.1 x.2.2) = false →
           (i = .rowld sl sb n1 → exec i s = .next ((l.foldl (fun (s : State) x => s.noteRead u.cur x.1 x.2.2) u).weakStore u.cur d
             (rowBytesAt u l)).past) ∧
           (i = .rowst sl sb n1 → exec i s =
             .next (l.foldl (fun (s : State) x => s.weakStore s.cur x.1 ((b.drop x.2.1).take x.2.2)) u).past) ∧
           (i = .rowadd sl sb ty n1 → u.mayEnd = true →
             let b := u.ended.ownBytes u.cur d n
             let one (s : State) (k : Nat) (o : Nat) : State :=
               s.writeAt s.cur k (leBytes size (addElem op (s.readAt k size) (leNat ((b.drop o).take size))))
             exec i s = .next (l.foldl (fun s x => (List.range (x.2.2 / size)).foldl (fun s e =>
               one s (x.1 + e * size) (x.2.1 + e * size)) s) u.ended).pastStrong ∧
             (∀ k₁, l = [(k₁, 0, n)] → (∀ j, j < n → plainKey (k₁ + j) = true) → ∃ t : State, exec i s = .next t.pastStrong ∧
               (∀ e, e < n / size → t.readAt (k₁ + size * e) size =
                 addElem op (u.ended.readAt (k₁ + size * e) size) (leNat ((b.drop (size * e)).take size)) % 2 ^ (8 * size)) ∧
               ∀ a, plainKey a = true → a < k₁ ∨ k₁ + n ≤ a → t.byteAt a = u.ended.byteAt a))))))

/-- R333 to R335, R310: a command waits for every earlier one that writes bytes of its destination row, and for a page that a
migration holds; one whose fields or rows are refused ends with END 2 and its code; one whose destination another pseudo-channel holds
goes on to that one's adder. Once started, each element access clears four bytes or adds one source element to one destination
element, and changes no other byte of plain memory; an index that is not below ROWS or has its highest bit set is skipped and counted;
a command with no access left ends. Two points are the model's choice, log 25: how many accesses an event performs, and that a command
that goes on enters the other stoker's queue behind what has arrived there. -/
def Obligations.IndexedReduce : Prop :=
  ∀ (s u : State) (c : HCmd) (pa : Nat),
    (s.hq (pcStoker s.cur)).find? (fun c => c.kind == 0 && c.pc == s.cur) = some c →
    let d := c.cmd
    let size := addSize (iredOp d)
    let per := iredLen d / size
    let zeros := if iredZero d then iredLen d / 4 else 0
    let e := (c.pos - zeros) / per
    let k := (c.pos - zeros) % per
    let x := iredIdx d e
    let st := s.cur / 96
    let dst (off : Nat) : Nat := u.heldKey c.cont.acc st (vaOf (iredDst d)) pa off true
    let queued (t : State) (c' : HCmd) : Prop :=
      t.hq (pcStoker s.cur) = (u.hq (pcStoker s.cur)).map (fun y => if y.id == c.id then c' else y)
    let started := (c.dpa = some pa ∧ u = s) ∨ (c.dpa = none ∧ s.iredBehind c = false ∧ startIred s c = (.go pa, u))
    (c.dpa = none → s.iredBehind c = true → exec .iredApply s = .next s) ∧
    (c.dpa = none → s.iredBehind c = false →
      (startIred s c = (.wait, u) → exec .iredApply s = .next u) ∧
      (∀ code, startIred s c = (.refuse code, u) → exec .iredApply s = .next (endIred u c 2 code)) ∧
      (∀ pc, startIred s c = (.move pc, u) → exec .iredApply s = .next (moveIred u c pc))) ∧
    (started → s.arg = 0 →
      (c.pos < zeros → c.pos + 1 < iredTotal c → (∀ i, i < 4 → plainKey (dst (4 * c.pos) + i) = true) → ∃ t, exec .iredApply s = .next t ∧
        t.readAt (dst (4 * c.pos)) 4 = 0 ∧
        (∀ a, plainKey a = true → a < dst (4 * c.pos) ∨ dst (4 * c.pos) + 4 ≤ a → t.byteAt a = s.byteAt a) ∧
        queued t { c with dpa := some pa, pos := c.pos + 1 }) ∧
      (zeros ≤ c.pos → e < iredN d → k = 0 → (x.testBit 31 = true ∨ iredRows d ≤ x) → c.pos + per < iredTotal c →
        ∃ t, exec .iredApply s = .next t ∧ t.mem = s.mem ∧
          queued t { c with dpa := some pa, pos := c.pos + per, skipped := c.skipped + 1 }) ∧
      (zeros ≤ c.pos → e < iredN d → (k = 0 → x.testBit 31 = false ∧ x < iredRows d) → c.pos + 1 < iredTotal c →
        ∀ key v, u.xlate c.cont.part c.cont.acc (vaOf (iredSrc d) + x * iredPitch d) false = (.ok key, v) →
        v.onePage (keyStack key) c.cont.part (vaOf (iredSrc d) + x * iredPitch d) (iredLen d) = true →
        let src := leNat ((List.range size).map (fun b => v.byteAt
          (v.heldKey c.cont.acc (keyStack key) (vaOf (iredSrc d) + x * iredPitch d) (keyPa key) (k * size + b) false)))
        let dk := dst (k * size)
        (∀ i, i < size → plainKey (dk + i) = true) → ∃ t, exec .iredApply s = .next t ∧
          t.readAt dk size = addElem (iredOp d) (s.readAt dk size) src % 2 ^ (8 * size) ∧
          ∀ a, plainKey a = true → a < dk ∨ dk + size ≤ a → t.byteAt a = s.byteAt a) ∧
      (iredTotal c ≤ c.pos → 0 < per → exec .iredApply s =
        .next (endIred u { c with dpa := some pa } (if c.fault then 3 else 1) (if c.fault then 1 else 0))))

/-! ## The flue and the dampers -/

/-- R379 to R386, R394: TTLOAD. A bad word raises MISALIGN or WINDOW, a slot whose party waits or runs answers 5; otherwise the code of the
image, 0 only for an image that keeps every rule and has this slot as one party, and on 0 the slot holds the image.
R385, R386, R394: TTARM arms its slot with the fields of a round descriptor in the core's scratchpad; BAR of an armed slot is a
release, sends the party's arrival to its home and waits. Three points are the model's choice, log 27: an ARMED slot answers 5 only for
an image that is refused, a WBASE that is not aligned raises MISALIGN, and arming keeps of the rounds run only those before its own. -/
def Obligations.TimetablesAndRounds : Prop :=
  (∀ (rd sa slot : Reg) (s : State),
     let i := Instr.ttload rd sa slot
     let a := s.rs sa
     let core := hartCore s.cur
     let p := 2 * core + slot.toNat
     let st := (s.port p).st
     let h : Vec := bytesVec (s.ownBytes s.cur a.toNat 64)
     let np := (h.extractLsb' 0 8).toNat
     let ne := (h.extractLsb' 16 16).toNat
     let size := 64 + 8 * np + 8 * ne
     let bad := np = 0 ∨ 64 < np ∨ ne = 0 ∨ 4096 < ne ∨ (h.extractLsb' 32 32).toNat < 64 ∨ h.extractLsb' 8 8 ≠ 0#8 ∨ h.extractLsb' 64 448 ≠ 0#448
     let m : Image := { dwait := (h.extractLsb' 32 32).toNat, parties := ownWords s (a.toNat + 64) np
                        entries := ownWords s (a.toNat + 64 + 8 * np) ne }
     let code := imageCode (s.dieIn s.myPart) m p
     let answer (c : Nat) : Result := .next (s.ended.ws rd (BitVec.ofNat 64 c)).pastStrong
     let busy := st = .waiting ∨ st = .running
     (a.toNat % 64 ≠ 0 → exec i s = takeTrap s .misalign a 0) ∧
     (a.toNat % 64 = 0 → ownSpad core a 64 = false → exec i s = addressTrap s .window a) ∧
     (a.toNat % 64 = 0 → ownSpad core a 64 = true →
       (busy → s.mayEnd = true → exec i s = answer 5) ∧
       (¬busy → s.held s.cur a.toNat 64 = true → exec i s = .next (s.setMe { s.me with wait := .stall i })) ∧
       (¬busy → s.held s.cur a.toNat 64 = false →
         (bad → s.mayEnd = true → exec i s = answer (if st = .armed then 5 else 1)) ∧
         (¬bad → ownSpad core a size = false → exec i s = addressTrap s .window a) ∧
         (¬bad → ownSpad core a size = true → s.held s.cur a.toNat size = true →
           exec i s = .next (s.setMe { s.me with wait := .stall i })) ∧
         (¬bad → ownSpad core a size = true → s.held s.cur a.toNat size = false → s.mayEnd = true →
           (code ≠ 0 → exec i s = answer (if st = .armed then 5 else code)) ∧
           (code = 0 → ∃ u : State, exec i s = .next (u.ws rd 0).pastStrong ∧ (u.port p).st = .loaded ∧ (u.port p).img = some m ∧
             u.mem = s.ended.mem)))) ∧
     (code = 0 ↔ wellTimed (s.dieIn s.myPart) m = true ∧ (m.parties.filter (fun w => !ptyRemote w && ptyId w == p)).length = 1 ∧
       ∀ e, e < m.entries.length → collides m e = false ∧ mismatched m e = false)) ∧
  (∀ (sd rd slot : Reg) (s : State),
     let i := Instr.ttarm sd slot
     let d := s.rs sd
     let core := hartCore s.cur
     let p := 2 * core + slot.toNat
     let st := (s.port p).st
     let b : BitVec 256 := BitVec.ofNat 256 (leNat (s.ownBytes s.cur d.toNat 32))
     let wbase := b.extractLsb' 64 64
     let bad := b.extractLsb' 17 7 ≠ 0#7 ∨ b.extractLsb' 32 32 ≠ 0#32 ∨ b.extractLsb' 147 13 ≠ 0#13 ∨ b.extractLsb' 192 64 ≠ 0#64
     let busy := st = .waiting ∨ st = .running
     ((s.port p).img = none → exec i s = takeTrap s .illegal 0 0) ∧
     (∀ m, (s.port p).img = some m →
       (d.toNat % 32 ≠ 0 → exec i s = takeTrap s .misalign d 0) ∧
       (d.toNat % 32 = 0 → ownSpad core d 32 = false → exec i s = addressTrap s .window d) ∧
       (d.toNat % 32 = 0 → ownSpad core d 32 = true → (busy ∨ s.held s.cur d.toNat 32 = true) →
         exec i s = .next (s.setMe { s.me with wait := .stall i })) ∧
       (d.toNat % 32 = 0 → ownSpad core d 32 = true → ¬busy → s.held s.cur d.toNat 32 = false →
         (bad → exec i s = takeTrap s .illegal 0 0) ∧
         (¬bad → wbase.toNat % 64 ≠ 0 → exec i s = takeTrap s .misalign wbase 0) ∧
         (¬bad → wbase.toNat % 64 = 0 → windowOk (hartCl s.cur) m p wbase = false → exec i s = addressTrap s .window wbase) ∧
         (¬bad → wbase.toNat % 64 = 0 → windowOk (hartCl s.cur) m p wbase = true → s.mayEnd = true →
           ∃ u : State, exec i s = .next u.pastStrong ∧ (u.port p).st = .armed ∧ (u.port p).img = (s.ended.port p).img ∧
             (∀ n, n ∈ (u.port p).ran ↔ n ∈ (s.ended.port p).ran ∧ laterRound (u.port p).round n = true) ∧
             (u.port p).desc = d.toNat ∧ (u.port p).round = b.extractLsb' 0 16 ∧ (u.port p).late = b.getLsbD 16 ∧
             (u.port p).ci = b.extractLsb' 24 8 ∧ (u.port p).wbase = wbase.toNat))) ∧
     ((st ≠ .armed ∨ (s.port p).img = none) → exec (.bar rd slot) s = takeTrap s .illegal 0 0) ∧
     (∀ m, st = .armed → (s.port p).img = some m → s.mayRelease = true →
       let x := s.released.port p
       ∃ (u : State) (q : Msg), exec (.bar rd slot) s = .next (u.boundary u.cur) ∧ u.net = s.released.net ++ [q] ∧
         q.item = .arrival (ptyId (m.party 0)) (m.selfOf p) x.round ∧ q.hart = s.cur ∧
         (u.port p).st = .waiting ∧ (u.port p).notices = [] ∧ u.me.wait = .bar rd slot.toNat ∧ u.me.regs = s.released.me.regs))

/-- R387: an arrival for a round the home has left is answered void; one before any image is held; with the last on-device party, or at
the end of the barrier wait, the home decides the round and tells every party T, 64 cycles on, and whether it is void; a waiting
party's notice starts its round and returns T, or all ones, to the thread that waits at BAR. -/
def Obligations.BarrierRounds : Prop :=
  ∀ (s : State) (q : Msg) (home party : Nat) (round : BitVec 16),
    let u := s.dropMsg q.id
    let x := s.port home
    let told (t : State) (m : Image) (r : BitVec 16) (on : List Nat) : Prop :=
      ∀ k ∈ m.onDevice, ∃ n ∈ (t.port (ptyId (m.party k))).notices, n.round = r ∧ n.t = s.now + 64 ∧ n.void = !on.contains k ∧
        ∀ j, j ∈ n.voids ↔ j ∈ m.onDevice ∧ j ∉ on
    (s.msg s.cur = some q → q.item = .arrival home party round →
      (x.img = none → exec .barrierArrival s = .next (u.setPort home { x with held := x.held ++ [(party, round)] })) ∧
      (∀ m l, x.img = some m → x.held = [] → x.lastr = some l → laterRound round l = false → ∃ t, exec .barrierArrival s = .next t ∧
        (x.rounds = [] → ∃ n ∈ (t.port (ptyId (m.party party))).notices, n.round = round ∧ n.void = true)) ∧
      (∀ m r, x.img = some m → x.held = [] → x.rounds = [r] → r.round = round → (∀ l, x.lastr = some l → laterRound round l = true) →
        (∀ k ∈ m.onDevice, k = party ∨ k ∈ r.parties) →
        ∃ t, exec .barrierArrival s = .next t ∧ (t.port home).lastr = some round ∧ (t.port home).rounds = [] ∧
          told t m round m.onDevice)) ∧
    (∀ m r, (s.port s.cur).img = some m → (s.port s.cur).held = [] → (s.port s.cur).rounds = [r] → r.first + m.dwait ≤ s.now →
      ∃ t, exec .barrierDeadline s = .next t ∧ (t.port s.cur).lastr = some r.round ∧ told t m r.round r.parties) ∧
    (∀ n ts rd, (s.port s.cur).st = .waiting → (s.port s.cur).notices.find? (fun n => n.round == (s.port s.cur).round) = some n →
      ∃ t, exec .releaseNotice s = .next t ∧ (t.port s.cur).st = .running ∧ (t.port s.cur).t = n.t ∧ (t.port s.cur).void = n.void ∧
        (t.port s.cur).voidSet = n.voids ∧ (t.port s.cur).next = 0 ∧ (t.port s.cur).notices = [] ∧ t.mem = s.mem ∧
        let h := s.cur / 2 * 4 + ts
        (ts < 4 → (∀ k, k < 4 → k ≠ ts → ∀ r, (s.thread (s.cur / 2 * 4 + k)).wait ≠ .bar r (s.cur % 2)) →
          (s.thread h).wait = .bar rd (s.cur % 2) → (s.thread h).gang = none → (s.thread h).path = [] →
          (s.thread h).regs.rep = none → kindOf h = .core →
          (t.thread h).regs = { (s.thread h).regs.setS rd (if n.void then BitVec.allOnes 64 else BitVec.ofNat 64 n.t) with
            pc := (t.thread h).regs.pc }))

/-- R388 to R392: a SEND entry reads its lines in turn and its message leaves with the last, to the receiver's slot on the device or to
the peer; COPY, MS and XOR entries take their lines in turn and replace, merge or combine the window's; an identity leaves the window
as it is; an ACC entry gives one addend packet for each line.
R389 to R391: round data that comes late is counted, and a MS entry of a slot armed for late data holds it for the next round;
once the last entry of its round is performed a party writes its status, weakly, so that it waits for a copy that has yet to fill those
bytes (R85), and is loaded again; its counter rises eight cycles after its last line. When data is late, that an early
packet is kept, and the round that held data counts for are the model's choice, log 27; what a peer's packet passes through, log 28. -/
def Obligations.RoundEntries : Prop :=
  (∀ (s : State) (m : Image) (e pos : Nat) (w : Word),
     let p := s.cur
     let x := s.port p
     let last (x : Slot) : Nat := x.t + entOff w + entLines w - 1
     let l := entLine w + x.line
     let buf := x.buf ++ [if entAcc w then s.accLine (portCl p) l else bytesVec (s.bytesAt (x.wbase + 64 * l) 64)]
     let mark := x.mark || (entAcc w && l < 8192 && ((s.cluster (portCl p)).tile (l / 1024)).spoiled)
     let waits := entAcc w = false ∧ s.guarded (x.wbase + 64 * l) 64 = true
     (s.turnOf p 0 = some (m, e, pos, w) →
       (waits → exec .ttSend s = .next s) ∧
       (¬waits → x.line + 1 < entLines w →
         exec .ttSend s = .next (s.setPort p { x with line := x.line + 1, buf := buf, mark := mark })) ∧
       (¬waits → entLines w ≤ x.line + 1 →
         let q := m.party (entPeer (m.entry e))
         let here := s.partOfDie (portCl p / 96)
         let g : RMsg := { round := x.round, entry := e, spoiled := mark, lines := buf }
         let u : State := { s.setPort p (x.finish pos s.now) with
           outbox := s.outbox ++ [.round here (ptyPeer q) (ptyId q / 2) (ptyId q % 2) g] }
         (ptyRemote q = true → u.localPeer here (ptyPeer q) = none → exec .ttSend s = .next u) ∧
         (ptyRemote q = true → ∀ src, u.localPeer here (ptyPeer q) = some src → ∃ n,
           exec .ttSend s = .next { u with net := s.net ++ [n], fresh := s.fresh + 1 } ∧
           n.item = .peerRound src (ptyId q / 2) (ptyId q % 2) g) ∧
         (ptyRemote q = false → x.void = false → entPeer (m.entry e) ∉ x.voidSet → ptyId q ≠ p → ∀ f, m.matchOf e = some f →
           exec .ttSend s = .next ((s.setPort p (x.finish pos s.now)).setPort (ptyId q) { s.port (ptyId q) with
             msgs := (s.port (ptyId q)).msgs ++ [{ round := x.round, entry := f, spoiled := mark, lines := buf }] })) ∧
         (ptyRemote q = false → x.void = true → ∀ f, m.matchOf e = some f → ∃ t n, exec .ttSend s = .next t ∧ t.net = s.net ++ [n] ∧
           n.item = .late (ptyId q) f x.round mark buf))) ∧
     (∀ i op step f, roundOp i = some (op, step, f) → s.turnOf p op = some (m, e, pos, w) →
       s.guarded (x.wbase + 64 * (entLine w + x.line)) (64 * step) = true → exec i s = .next s) ∧
     (∀ i op step f u, roundOp i = some (op, step, f) → s.turnOf p op = some (m, e, pos, w) →
       s.guarded (x.wbase + 64 * (entLine w + x.line)) (64 * step) = false → takeData s p m e w = some u →
       let y := u.port p
       let g := (y.buf.drop y.line).take step
       let k := y.wbase + 64 * (entLine w + y.line)
       let v := if y.ident = true ∨ g.length < step then u else f u k g
       exec i s = .next (v.setPort p (if y.line + step < entLines w then { v.port p with line := y.line + step }
         else (v.port p).finish pos (last y)))) ∧
     (∀ i op step f, roundOp i = some (op, step, f) → (s.turnOf p op = none ∨
       ∃ m e pos w, s.turnOf p op = some (m, e, pos, w) ∧ takeData s p m e w = none) → exec i s = .next s) ∧
     (∀ u, s.turnOf p 4 = some (m, e, pos, w) → takeData s p m e w = some u →
       let y := u.port p
       let wide := ((u.cluster (portCl p)).tile (entTile w)).f64
       let pos' := addendPos wide (entRow w) (entChunk w * (if wide then 8 else 16)) y.line
       let v := arriveAddend u (portCl p) { tile := entTile w, round := y.round, row := pos'.1, col := pos'.2
                                            data := (y.buf[y.line]?).getD 0, ident := y.ident || y.buf.length ≤ y.line, ci := none }
       exec .ttAcc s = .next (v.setPort p (if y.line + 1 < entLines w then { v.port p with line := y.line + 1 }
         else (v.port p).finish pos (last y)))) ∧
     -- what an entry applies: what is held from other rounds, then what was received; identity only when there is neither
     (∀ u, x.line = 0 → takeData s p m e w = some u →
       let sent := x.msgs.find? (fun r => r.round == x.round && r.entry == e)
       let old := (Tab.get [] x.carry e).filter (fun c => c.round != some x.round)
       ((u.port p).ident = true ↔ sent = none ∧ old = []) ∧
       ((u.port p).voidrx = if sent = none ∧ old = [] then stop255 x.voidrx else x.voidrx) ∧
       (∀ r, sent = some r → old = [] → entOp w ≠ 2 → (u.port p).buf = r.lines) ∧
       Tab.get [] (u.port p).carry e = (Tab.get [] x.carry e).filter (fun c => c.round == some x.round))) ∧
  (∀ (s : State) (q : Msg) (p e : Nat) (r : BitVec 16) (spoiled : Bool) (lines : List Vec) (src : PeerSrc) (core slot : Nat) (g : RMsg)
     (rest : List Input),
     let x := s.port s.cur
     (s.msg s.cur = some q → q.item = .late p e r spoiled lines → ∃ t, exec .lateMessage s = .next t ∧
       t.net = s.net.filter (fun n => n.id != q.id) ∧ t.mem = s.mem ∧
       (∀ m, (s.port p).img = some m → entOp (m.entry e) = 2 → (s.port p).late = true →
         ∃ c, Tab.get [] (t.port p).carry e = Tab.get [] (s.port p).carry e ++ [c] ∧ c.lines = foldLines spoiled lines ∧
           ((s.port p).st = .running → c.round = some r)) ∧
       ((s.port p).late = false → (t.port p).carry = (s.port p).carry)) ∧
     (x.st = .running → x.entry s.cur = none → (x.void = true ∨ x.t ≤ s.now) → s.guarded (x.desc + 16) 8 = true →
       exec .roundComplete s = .next s) ∧
     (x.st = .running → x.entry s.cur = none → (x.void = true ∨ x.t ≤ s.now) → s.guarded (x.desc + 16) 8 = false →
       (∀ i, i < 8 → plainKey (x.desc + 16 + i) = true) → ∃ t, exec .roundComplete s = .next t ∧ (t.port s.cur).st = .loaded ∧
         x.round ∈ (t.port s.cur).ran ∧ t.readAt (x.desc + 16) 8 = roundStatus x % 2 ^ 64 ∧
         (t.port s.cur).rises = x.rises ++ [((if x.void then x.doneAt else max x.doneAt x.t) + 8, x.ci)] ∧
         (t.port s.cur).msgs = x.msgs.filter (fun r => r.round != x.round)) ∧
     (∀ due c more, x.st ≠ .running → x.rises = (due, c) :: more →
       (s.now < due → exec .roundComplete s = .next s) ∧
       (due ≤ s.now → ∃ t, exec .roundComplete s = .next t ∧ (t.port s.cur).rises = more ∧ t.mem = s.mem ∧
         (t.cluster (portCl s.cur)).counter c.toNat = (s.cluster (portCl s.cur)).counter c.toNat + 1)) ∧
     (∀ u : State, (s.cur = 0 ∧ s.inbox = .round src core slot g :: rest ∧ u = { s with inbox := rest }) ∨
         (s.cur ≠ 0 ∧ s.msg s.cur = some q ∧ q.item = .peerRound src core slot g ∧ u = s.dropMsg q.id) →
       let n := 2 * core + slot % 2
       (s.sourceOf src = none → exec .roundPacketArrival s = .next (u.countPart src.part pPeerDropped)) ∧
       (∀ ep, s.sourceOf src = some ep → (s.port n).img = none → exec .roundPacketArrival s = .next (u.countPart src.part pRefusedMsg)) ∧
       (∀ ep m f, s.sourceOf src = some ep → (s.port n).img = some m → s.dieIn src.part (core / 768) = true →
         ptyRemote (m.party (m.owner g.entry)) = true → ptyPeer (m.party (m.owner g.entry)) = ep → m.matchOf g.entry = some f →
         m.owner f = m.selfOf n → isLate (s.port n) m n f g.round = false →
         exec .roundPacketArrival s = .next (u.setPort n { s.port n with msgs := (s.port n).msgs ++ [{ g with entry := f }] }))))

/-- R395 to R397, R426: FSEND and the packet reductions check their words in order, read their lines at issue and are releases: a packet
for this device joins the fabric, one for a peer the outbox. A packet waits for room for all of it; FRECV gives its header word; a
reduction updates its target, XORRED line by line and MSRED merging three lines by R392 at a time, and waits while a copy has yet to fill the lines it updates next (R85). The model's choice:
the scope operand makes no difference (log 6), and a packet for an endpoint that names a partition of this module is carried there (log
28, 53). -/
def Obligations.Packets : Prop :=
  ∀ (i : Instr) (kind : Nat) (st sa sn sp sh rd ch : Reg) (scope : BitVec 3) (s : State),
    let a := s.rs sa
    let n := (s.rs sn).toNat
    let w := s.rs sh
    let ep := w.toNat % 2 ^ 12
    let f := Instr.fsend sa sh sn scope
    let bad := n = 0 ∨ 15 < n ∨ w.extractLsb' 28 4 ≠ 0#4 ∨ w.extractLsb' 48 16 ≠ 0#16
    let foreign := if ep = 0 then 96 ≤ fsendCluster w ∨ s.dieIn s.myPart (fsendDie w) = false else s.peerOk s.myPart ep = false
    let here := a.toNat % 64 = 0 ∧ inClusterSpad (hartCl s.cur) a (64 * n) = true
    let r := s.released
    let lines := ownLines r a.toNat n
    (bad → exec f s = takeTrap s .illegal 0 0) ∧
    (¬bad → a.toNat % 64 ≠ 0 → exec f s = takeTrap s .misalign a 0) ∧
    (¬bad → a.toNat % 64 = 0 → inClusterSpad (hartCl s.cur) a (64 * n) = false → exec f s = addressTrap s .window a) ∧
    (¬bad → here → foreign → exec f s = takeTrap s .window 0 0) ∧
    (¬bad → here → ¬foreign → s.held s.cur a.toNat (64 * n) = true → exec f s = .next (s.setMe { s.me with wait := .stall f })) ∧
    (¬bad → here → ¬foreign → s.held s.cur a.toNat (64 * n) = false → s.mayRelease = true →
      (ep = 0 → exec f s = .next (r.pushMsg r.cur (.packet (fsendCore w) (fsendCh w)
        (headerWord n 0 (hartCore s.cur) (w.extractLsb' 32 16)) lines)).pastStrong) ∧
      (ep ≠ 0 → exec f s = .next (r.sendPeer ep 3 w 0 lines).pastStrong)) ∧
    -- a packet for a peer is in the outbox, and on its way when the endpoint names a partition of this module
    (∀ k pw l, (r.sendPeer ep k w pw l).outbox = r.outbox ++ [.packet r.myPart ep k w pw l] ∧
      let src := ({ r with outbox := r.outbox ++ [.packet r.myPart ep k w pw l] } : State).localPeer r.myPart ep
      (src = none → (r.sendPeer ep k w pw l).net = r.net) ∧
      (∀ x, src = some x → ∃ q, (r.sendPeer ep k w pw l).net = r.net ++ [q] ∧
        q.item = .peer { src := x, kind := k, word := w, peerWord := pw, lines := l })) ∧
    (packetOf i = some (kind, st, sa, sn, sp) →
      let t := s.rs st
      let w := s.rs sp
      let ep := w.toNat % 2 ^ 12
      let bad := n = 0 ∨ 128 < n ∨ (kind = 5 ∧ n % 3 ≠ 0) ∨ w.extractLsb' 12 4 ≠ 0#4 ∨ w.extractLsb' 41 23 ≠ 0#23 ∨
        (kind ≠ 7 ∧ w.extractLsb' 16 16 ≠ 0#16)
      let aligned := ep = 0 → t.toNat % (if kind = 7 then 4 else 64) = 0
      let foreign := if ep = 0 then reduceTarget s s.myPart kind t n = false else s.peerOk s.myPart ep = false
      (bad → exec i s = takeTrap s .illegal 0 0) ∧
      (¬bad → a.toNat % 64 ≠ 0 → exec i s = takeTrap s .misalign a 0) ∧
      (¬bad → a.toNat % 64 = 0 → ¬aligned → exec i s = takeTrap s .misalign t 0) ∧
      (¬bad → a.toNat % 64 = 0 → aligned → inClusterSpad (hartCl s.cur) a (64 * n) = false → exec i s = addressTrap s .window a) ∧
      (¬bad → here → aligned → foreign →
        exec i s = if ep = 0 then addressTrap s .window t else takeTrap s .window 0 0) ∧
      (¬bad → here → aligned → ¬foreign → s.held s.cur a.toNat (64 * n) = true →
        exec i s = .next (s.setMe { s.me with wait := .stall i })) ∧
      (¬bad → here → aligned → ¬foreign → s.held s.cur a.toNat (64 * n) = false → s.mayRelease = true →
        (ep = 0 → exec i s = .next (r.pushMsg r.cur (.reduce kind t.toNat (w.extractLsb' 16 16) (pwNotify w) lines)).pastStrong) ∧
        (ep ≠ 0 → exec i s = .next (r.sendPeer ep kind t w lines).pastStrong))) ∧
    (s.mayEnd = true →
      let e := s.ended
      let core := hartCore s.cur
      -- entries that another open chunk of the core has popped stay with it (R256)
      let first := nextEntry e.cur 0 ((e.core core).arrivals ch.toNat)
      (first = none → exec (.frecv rd ch) s = .next (e.setMe { e.me with wait := .stall (.frecv rd ch) })) ∧
      (∀ x, first = some x → x.kind ≠ .header → exec (.frecv rd ch) s = .next (e.ws rd 0).pastStrong) ∧
      (∀ x, first = some x → x.kind = .header → exec (.frecv rd ch) s =
        .next ((e.popTo e.cur ch.toNat 1).ws rd (x.data.setWidth 64)).pastCommit)) ∧
    (∀ m core c h l, s.cur ≠ 0 → s.msg s.cur = some m → m.item = .packet core c h l → firstPacket s m core c = true →
      (arrivalRoom s core c < l.length + 1 → exec .packetDeliver s = .next s) ∧
      (l.length + 1 ≤ arrivalRoom s core c → ∃ t, exec .packetDeliver s = .next t ∧ t.mem = s.mem ∧
        t.net = s.net.filter (fun n => n.id != m.id) ∧ ((t.core core).arrivals c).map ArrEntry.data =
          ((s.core core).arrivals c).map ArrEntry.data ++ h.setWidth 512 :: l)) ∧
    (∀ m kind k tag ci l, s.cur ≠ 0 → s.msg s.cur = some m → m.item = .reduce kind k tag ci l → kind ≠ 7 →
      s.guarded k (if s.arg = 0 then 64 * l.length else if kind = 5 then 192 else 64) = true → exec .packetReduceArrival s = .next s) ∧
    (∀ m k tag ci l, s.cur ≠ 0 → s.msg s.cur = some m → m.item = .reduce 6 k tag ci l → s.firstOf m = true → s.arg ≠ 0 →
      s.guarded k 64 = false → 1 < l.length → (∀ j, j < 64 → plainKey (k + j) = true) → ∃ t, exec .packetReduceArrival s = .next t ∧
        t.bytesAt k 64 = vecBytes (bytesVec (s.bytesAt k 64) ^^^ l.head?.getD 0) 0 64 ∧
        ∀ b, plainKey b = true → b < k ∨ k + 64 ≤ b → t.byteAt b = s.byteAt b) ∧
    (∀ m k tag ci l, s.cur ≠ 0 → s.msg s.cur = some m → m.item = .reduce 5 k tag ci l → s.firstOf m = true → s.arg ≠ 0 →
      s.guarded k 192 = false → 3 < l.length → (∀ j, j < 192 → plainKey (k + j) = true) → ∃ t, exec .packetReduceArrival s = .next t ∧
        (∀ e, e < 16 →
          let target (u : State) (j : Nat) : Nat := u.readAt (k + 64 * j + 4 * e) 4
          let packet (j : Nat) : Nat := laneOf 32 ((l[j]?).getD 0) e
          let x := mergeMs ⟨target s 0, target s 1, target s 2⟩ ⟨packet 0, packet 1, packet 2⟩
          target t 0 = x.n % 2 ^ 32 ∧ target t 1 = x.mu % 2 ^ 32 ∧ target t 2 = x.m2 % 2 ^ 32) ∧
        (∀ b, plainKey b = true → b < k ∨ k + 192 ≤ b → t.byteAt b = s.byteAt b) ∧
        t.net = s.net.map (fun y => if y.id == m.id then { y with item := .reduce 5 (k + 192) tag ci (l.drop 3) } else y)) ∧
    (∀ m kind k tag ci l, s.cur ≠ 0 → s.msg s.cur = some m → m.item = .reduce kind k tag ci l → s.firstOf m = true → s.arg = 0 →
      kind = 7 ∨ s.guarded k (64 * l.length) = false → exec .packetReduceArrival s = .next (performItem s m))

/-- R399, R403, R405, R406, R411 to R414: the group instructions. A group number of 2^16 or more raises ILLEGAL, a group that no damper
of the partition owns WINDOW; all but GBIND stall while the group drains and are releases. GTEST and GSTEP close a group into the next
step, GACC answers its outcome with the new n and folds into the record, a window that a copy still fills keeps it waiting,
GCFG answers its code and configures on 0, GDROP clears n. The statistics are the damper's own, cleared with each step (R401, R409). GBIND
raises ILLEGAL on a step word that is neither all ones nor below 2^32, and answers its binding word or all ones. -/
def Obligations.DamperInstructions : Prop :=
  ∀ (rd sr sg sw st ss mode : Reg) (s : State),
    let gid := (s.rs sg).toNat
    let a := s.rs sw
    let tw := s.rs st
    let img := s.rs sr
    let bs := s.rs ss
    (2 ^ 16 ≤ gid → ∀ i ∈ [Instr.gcfg rd sr sg, .gacc rd sw sg st, .gtest rd sg, .gstep rd sg, .gbind rd sg ss, .gdrop rd sg mode],
      exec i s = takeTrap s .illegal 0 0) ∧
    -- a GACC refused for its operands takes that trap once its chunk has committed, and counts the MNF it would have raised then (R113)
    (gid < 2 ^ 16 → s.mayEnd = true →
      let refused (t : Trap) (w : Word) : Prop := ∀ u, takeTrap s.ended t w 0 = .next u → exec (.gacc rd sw sg st) s =
        .next (if gaccMnf s.ended sg a tw = true ∧ u.me.run = .parked then u.countCl (hartCl u.cur) cMnf 1 else u)
      (2 ^ 18 ≤ tw.toNat → refused .illegal 0) ∧
      (tw.toNat < 2 ^ 18 →
        (a.toNat % 64 ≠ 0 → refused .misalign a) ∧
        (a.toNat % 64 = 0 → inOwnRegions (hartCl s.cur) a = false → refused .window a) ∧
        (a.toNat % 64 = 0 → inOwnRegions (hartCl s.cur) a = true → s.ownerOf s.myPart gid = none → refused .window 0))) ∧
    (gid < 2 ^ 16 →
      (img.toNat % 64 ≠ 0 → exec (.gcfg rd sr sg) s = takeTrap s .misalign img 0) ∧
      (img.toNat % 64 = 0 → inOwnRegions (hartCl s.cur) img = false → exec (.gcfg rd sr sg) s = takeTrap s .window img 0) ∧
      (img.toNat % 64 = 0 → inOwnRegions (hartCl s.cur) img = true → s.ownerOf s.myPart gid = none →
        exec (.gcfg rd sr sg) s = takeTrap s .window 0 0)) ∧
    (gid < 2 ^ 16 → s.ownerOf s.myPart gid = none → ∀ i ∈ [Instr.gtest rd sg, .gstep rd sg, .gdrop rd sg mode],
      exec i s = takeTrap s .window 0 0) ∧
    (bs ≠ BitVec.allOnes 64 → 2 ^ 32 ≤ bs.toNat → exec (.gbind rd sg ss) s = takeTrap s .illegal 0 0) ∧
    (gid < 2 ^ 16 → (bs = BitVec.allOnes 64 ∨ bs.toNat < 2 ^ 32) → s.ownerOf s.myPart gid = none →
      exec (.gbind rd sg ss) s = takeTrap s .window 0 0) ∧
    (gid < 2 ^ 16 → ∀ d, s.ownerOf s.myPart gid = some d →
      let key := groupKey d gid
      let r := s.released
      let g := r.group key
      let stops (i : Instr) : Result := .next (r.setMe { r.me with wait := .stall i })
      let closed (u : State) : Prop := (u.group key).step = g.step + 1 ∧ (u.group key).n = 0 ∧ (u.group key).cln = g.n ∧
        (g.live = true → (u.group key).drain = true) ∧
        (g.live = false → (u.group key).drain = false ∧ (u.group key).vals = List.replicate g.nel.toNat (0, 0) ∧
          (g.succ ≠ 0 → (u.die d).offers = (r.die d).offers ++ [{ lb := g.succ, part := r.partOfDie d
                                                                  group := some { key := key, no := g.closures + 1, step := (g.step + 1).toNat } }]))
      (s.mayRelease = true → g.drain = true → ∀ i ∈ [Instr.gtest rd sg, .gstep rd sg, .gdrop rd sg mode], exec i s = stops i) ∧
      (s.mayRelease = true → g.drain = false →
        (g.active = false → exec (.gtest rd sg) s = .next (r.ws rd 0).pastStrong ∧ exec (.gstep rd sg) s = .next (r.ws rd 0).pastStrong ∧
          exec (.gdrop rd sg mode) s = .next (r.ws rd 5).pastStrong) ∧
        (g.active = true →
          (∃ u : State, exec (.gstep rd sg) s = .next (u.ws rd (testWord (u.group key) true)).pastStrong ∧ closed u) ∧
          (∃ u : State, exec (.gdrop rd sg mode) s = .next (u.ws rd 0).pastStrong ∧
            u.group key = { g with n := 0, vals := List.replicate g.nel.toNat (0, 0), active := mode == 0 }) ∧
          (let snr := BitVec.ofNat 32 (snrOf g g.vals)
           let c := closes { g with snr := snr }
           ∃ u : State, exec (.gtest rd sg) s = .next (u.ws rd (testWord (u.group key) c)).pastStrong ∧ (u.group key).snr = snr ∧
             (c = true → closed u) ∧ (c = false → u.group key = { g with snr := snr })))) ∧
      (s.mayEnd = true → (bs = BitVec.allOnes 64 ∨ bs.toNat < 2 ^ 32) →
        exec (.gbind rd sg ss) s = .next (s.ended.ws rd (gbindWord s.ended key bs)).pastStrong ∧
        let e := s.ended
        let b := e.group key
        let slots := e.vslots (b.tiles.toNat % 2 ^ 41)
        let named (n : Nat) : Prop := if bs = BitVec.allOnes 64 then
            (∃ a, VSlot.published a n ∈ slots) ∧ ∀ a m, VSlot.published a m ∈ slots → m ≤ n
          else n = bs.toNat
        let unbound (n : Nat) : Prop := b.configured = false ∨ b.step.toNat < n ∨ ∀ v ∈ slots, ∀ m, v.step = some m → n < m
        (bs = BitVec.allOnes 64 → (∀ a n, VSlot.published a n ∉ slots) → gbindWord e key bs = BitVec.allOnes 64) ∧
        ∀ n, named n → (unbound n → gbindWord e key bs = BitVec.allOnes 64) ∧
          (¬unbound n → gbindWord e key bs = BitVec.ofNat 64 (gid + 2 ^ 16 + n * 2 ^ 32))) ∧
      (inOwnRegions (hartCl s.cur) a = true → a.toNat % 64 = 0 → tw.toNat < 2 ^ 18 → s.mayRelease = true →
        let i := Instr.gacc rd sw sg st
        (g.drain = true → exec i s = stops i) ∧
        (g.drain = false →
          let bound := (bindingOf r gid).map (fun b => r.me.cont.boundver.extractLsb' (16 * b) 16)
          let tag := if tw.getLsbD 17 then bound else some (tw.extractLsb' 0 16)
          let ans (u : State) (o : Nat) : Result := .next (u.ws rd (BitVec.ofNat 64 (o + (u.group key).n.toNat * 2 ^ 32))).pastStrong
          let bytes := 192 * ((g.nel.toNat + 15) / 16)
          let inside := oaOff a.toNat + bytes ≤ spadSize
          (g.active = false → exec i s = ans r 5) ∧
          (g.active = true → tag = none → exec i s = ans r 4) ∧
          (g.active = true → ∀ x, tag = some x →
            let delta := (x - g.step.extractLsb' 0 16).toInt
            let g₁ := if delta < 0 then { g with nlate := g.nlate + 1 } else g
            let win := if inside then some (readWindow r a.toNat g.nel.toNat) else none
            (0 < delta → exec i s = ans r 4) ∧
            (delta < 0 → g.late = false → ∃ u, exec i s = ans u 2 ∧ u.group key = g₁) ∧
            (delta = 0 ∨ (delta < 0 ∧ g.late = true) →
              (inside → r.guarded a.toNat bytes = true → exec i s = stops i) ∧
              ((inside → r.guarded a.toNat bytes = false) → ∀ o g₂ l,
                foldGroup g₁ (decide (delta < 0)) (tw.getLsbD 16) (r.me.regs.ctl.trapen.getLsbD 1) win g.vals = .done o g₂ l →
                ∃ u, exec i s = ans u o ∧ u.group key = { g₂ with vals := l.getD g₂.vals }))))) ∧
      (inOwnRegions (hartCl s.cur) img = true → img.toNat % 64 = 0 →
        let i := Instr.gcfg rd sr sg
        let code := gcfgCode r r.myPart gid (bytesVec (r.bytesAt img.toNat 64))
        let b : Vec := bytesVec (r.bytesAt img.toNat 64)
        (∀ x, s.accessTrap .weakLoad img 64 = some x → exec i s = addressTrap s x img) ∧
        (s.accessTrap .weakLoad img 64 = none → s.mayRelease = true →
          (g.drain = true ∨ r.guarded img.toNat 64 = true → exec i s = stops i) ∧
          (g.drain = false → r.guarded img.toNat 64 = false →
            (code ≠ 0 → exec i s = .next (r.ws rd (BitVec.ofNat 64 code)).pastStrong) ∧
            (code = 0 → ∃ u : State, exec i s = .next (u.ws rd 0).pastStrong ∧
              u.group key = { configured := true, late := b.getLsbD 16, active := true, step := b.extractLsb' 32 32
                              theta := b.extractLsb' 128 32, nmin := b.extractLsb' 160 32, nmax := b.extractLsb' 192 32
                              nel := b.extractLsb' 224 32, stats := b.extractLsb' 256 64, succ := b.extractLsb' 320 64
                              tiles := b.extractLsb' 384 64, live := g.live, closures := g.closures
                              vals := List.replicate (b.extractLsb' 224 32).toNat (0, 0) }))))) ∧
    ((s.group s.cur).drain = true → (s.group s.cur).live = false → ∃ t, exec .damperDrainFinish s = .next t ∧
      (t.group s.cur).drain = false ∧ (t.group s.cur).step = (s.group s.cur).step ∧
      (t.group s.cur).vals = List.replicate (s.group s.cur).nel.toNat (0, 0) ∧
      ((s.group s.cur).succ ≠ 0 → (t.group s.cur).live = true ∧ ∃ l ∈ (t.die (s.cur / 65536)).offers,
        l.lb = (s.group s.cur).succ ∧ ∃ c, l.group = some c ∧ c.key = s.cur ∧ c.step = (s.group s.cur).step.toNat))

/-- R403, R404: a contribution of zero samples changes nothing but the outcome, one that is spoiled, has no count from 0 to 2^24 or lies
outside its scratchpad is counted as spoiled, and a folded one raises n by its count and keeps every other field of the record. -/
def Obligations.DamperFold : Prop :=
  ∀ (g h : Group) (late spoil gmnf : Bool) (w : Option Contribution) (old : List (Nat × Nat)) (o : Nat) (l : Option (List (Nat × Nat))),
    foldGroup g late spoil gmnf w old = .done o h l →
    (o = 3 → h = { g with nspoil := g.nspoil + 1 } ∧ l = none) ∧
    (o ≠ 3 → o = (if late then 1 else 0) ∧ ∃ c, w = some c ∧ spoil = false ∧ isCount (f32.dec (c.n.head?.getD 0)) = true ∧
      ((f32.dec (c.n.head?.getD 0)).isZero = true → h = g ∧ l = none) ∧
      ((f32.dec (c.n.head?.getD 0)).isZero = false →
        h = { g with n := BitVec.ofNat 32 (f32.addF g.n.toNat (c.n.head?.getD 0)) } ∧
        ∃ m, l = some m ∧ ∀ x ∈ m, f32.isFinite x.1 = true ∧ f32.isFinite x.2 = true)) ∧
    (w = none ∨ spoil = true → o = 3)

/-! ## Launch, placement, controller and host -/

/-- R17, R361, R366 to R370: a launch is taken from its grate's queue in order and refused with a LAUNCH trap record or admitted; the head of
the admission queue takes its dependence entries while 4,096 suffice; a held task whose hold is over becomes READY with every record
queued; a version is published in order once its task has ended, and freed once superseded, bound by no live task and wanted by none that is admitted or held.
R30, R32, R34, R54, R198, R372, R376: the pick is the first in order among the entries that can be placed; a record in a status that
allows it is placed with the registers of R32; one in another status, or with a reserved bit set, is not placed: it takes STATUS 8, is
counted, and leaves an ILLEGAL trap record with its PC; a record whose counter has reached its threshold is queued at its launched priority; a
waiting record rises one level each 2^16 cycles; the continuation a waiting one may pre-empt is marked, with PDEAD cycles to go.
R47 to R49, R200: a cluster drains for the gang or complete group of GANG that has waited longest; such a group whose cores hold no
other thread starts as one gang at the head after the leader's GANG, and a gang that is the next pick is placed on its cores.
R34, R35, R52, R110: OVERDUE ends a thread, which runs no further head; once its trap record is written or lost and the stores it committed
are performed, and the mailbox record of a job that ends with it meets no unfilled copy destination (R85), its record takes STATUS 8 and
the thread set is idle. The model's choice: a stoker's record is placed with STATUS 6 as well (log 23), the order in which gangs drain and when a step is gone (log
29, 31), and that STATUS 8 waits as said (log 32). -/
def Obligations.LaunchAndPlacement : Prop :=
  (∀ (s : State) (l : Launch) (rest : List Launch) (t : Task),
     let d := s.die s.cur
     let k := s.vslots s.cur
     (d.offers = l :: rest →
       let v := s.setDie s.cur { d with offers := rest }
       -- an on-chip tile set that a copy has yet to fill keeps the launch waiting (R85)
       (tileSetWaits s l = true → exec .launchAccept s = .next s) ∧
       (tileSetWaits s l = false → ∀ u, checkLaunch v l = (none, u) → ∃ x r, exec .launchAccept s = .next x ∧ (x.die s.cur).offers = rest ∧ x.tasks = s.tasks ∧
         (x.part l.part).traps = (s.part l.part).traps ++ [r] ∧ r.data.extractLsb' 0 8 = 12#8 ∧ r.data.extractLsb' 320 64 = l.lb) ∧
       (tileSetWaits s l = false → ∀ u, checkLaunch v l = (some t, u) → ∃ x, exec .launchAccept s = .next x ∧ (x.die s.cur).offers = rest ∧
         x.tasks = s.tasks ++ [{ t with die := s.cur }] ∧ (x.die s.cur).admits = d.admits ++ [t.acc] ∧ x.accno = t.acc)) ∧
     (∀ a more, d.admits = a :: more → s.task a = some t → d.entries + t.entries ≤ 4096 → ∃ x, exec .launchAdmit s = .next x ∧
       (x.die s.cur).admits = more ∧ (x.die s.cur).entries = d.entries + t.entries ∧ x.mem = s.mem ∧
       (t.acc = a → x.task a = some { t with st := .held })) ∧
     (s.task s.cur = some t → t.st = .held →
       (holdMet s t = false → (namedTiles t).any (fun x => s.stepGone x.1 x.2) = false → exec .launchRelease s = .next s) ∧
       ((namedTiles t).any (fun x => s.stepGone x.1 x.2) = true → ∃ x r, exec .launchRelease s = .next x ∧
         (x.part t.part).traps = (s.part t.part).traps ++ [r] ∧ r.data.extractLsb' 0 8 = 12#8) ∧
       (holdMet s t = true → (namedTiles t).any (fun x => s.stepGone x.1 x.2) = false → ∀ rcds,
         (takeRecords s t.part t.threads).1 = some rcds → ∃ x, exec .launchRelease s = .next x ∧
         ∀ j w, rcds[j]? = some w → ∃ e ∈ (x.part t.part).ready, e.rcd = w ∧ e.lin = j ∧ e.acc = t.acc ∧ e.first = true)) ∧
     (∀ a st, k[s.arg]? = some (.opened a st) →
       (s.task a = some t → t.st = .ended → t.retired = false →
         (k.any (fun v => match v with
           | .opened b _ => decide (b < a)
           | _ => false)) = false →
         exec .versionPublish s = .next (s.setVslots s.cur (k.set s.arg (.published a st)))) ∧
       (s.task a = some t → t.st ≠ .ended ∨ t.retired = true → exec .versionPublish s = .next s)) ∧
     (∀ a st, k[s.arg]? = some (.published a st) →
       let superseded := ∃ b x, VSlot.published b x ∈ k ∧ a < b
       let bound := ∃ u ∈ s.tasks, u.st.live = true ∧ (s.cur, s.arg) ∈ u.bound
       -- in the grate that accepted the writer of the newest version (log 29)
       let wanted := ∃ u ∈ s.tasks, (u.st = .admitted ∨ u.st = .held) ∧
         (s.task (((k.filterMap VSlot.pubAcc).max?).getD 0)).map (fun w => w.die) = some u.die ∧
         (∃ r ∈ u.reads, r.1 ≤ s.cur ∧ s.cur < r.1 + r.2) ∧ bindSlot s u s.cur = some s.arg
       (superseded → ¬bound → ¬wanted → ∃ y, exec .versionSlotFree s = .next y ∧ y.vslots s.cur = k.set s.arg .free ∧
         st ∈ Tab.get [] y.gone s.cur ∧ y.mem = s.mem ∧ ((∀ v ∈ k.set s.arg .free, v.step ≠ some st) → y.stepGone s.cur st = true)) ∧
       (¬superseded ∨ bound ∨ wanted → exec .versionSlotFree s = .next s))) ∧
  (∀ (s : State) (e : ReadyEnt) (h : Hart) (r : Vec) (p : Nat) (w : WaitEnt) (t : Task) (v : Nat × Nat × Nat),
     (∀ e ∈ (s.part s.cur).ready, (placeable s e).isSome = true → ∃ f k, nextPick s s.cur = some (f, k) ∧ pickedBefore e f = false) ∧
     (nextPick s s.cur = none → exec .pickup s = .next s) ∧
     (nextPick s s.cur = some (e, .some [(e, h)]) → recordOf s s.cur e.rcd = some r →
       (recStatus r = 1 ∨ recStatus r = 3 ∨ recStatus r = 4 ∨ (recStatus r = 6 ∧ e.stoker.isSome = true)) → r.extractLsb' 448 64 = 0#64 →
       ∃ x, exec .pickup s = .next x ∧ (x.thread h).run = .running ∧
         (x.thread h).regs = pickupRegs (contOf e.rcd r e.acc e.lin s.cur) (recPc r) (!e.first) ∧
         (x.thread h).cont = contOf e.rcd r e.acc e.lin s.cur ∧ (x.thread h).placed = s.now ∧ (x.thread h).gang = e.gang ∧
         (∀ q, (readRecord s s.cur e.rcd).2.recordKey s.cur e.rcd q → x.byteAt (q + 39) = 2) ∧
         (x.part s.cur).ready = (s.part s.cur).ready.filter (fun f => f.rcd != e.rcd)) ∧
     (nextPick s s.cur = some (e, .some [(e, h)]) → recordOf s s.cur e.rcd = some r →
       ¬(recStatus r = 1 ∨ recStatus r = 3 ∨ recStatus r = 4 ∨ (recStatus r = 6 ∧ e.stoker.isSome = true)) ∨ r.extractLsb' 448 64 ≠ 0#64 →
       (readRecord s s.cur e.rcd).2.runJob s.cur e.rcd = none →
       ∃ x q, exec .pickup s = .next x ∧ (x.thread h).run = (s.thread h).run ∧
         Tab.get 0 (x.part s.cur).stat pBadRecord = Tab.get 0 (s.part s.cur).stat pBadRecord + 1 ∧
         (x.part s.cur).traps = (s.part s.cur).traps ++ [q] ∧ q.data.extractLsb' 0 8 = BitVec.ofNat 8 (Trap.code .illegal) ∧
         q.data.extractLsb' 64 64 = recPc r ∧ (x.part s.cur).ready = (s.part s.cur).ready.filter (fun f => f.rcd != e.rcd) ∧
         ∀ y z k, s.task e.acc = some y → (e.rcd, 0) ∈ y.recs → z ∈ y.recs → z.1 ≠ e.rcd → z.2 = 0 →
           (readRecord s s.cur e.rcd).2.recordKey s.cur e.rcd k → x.byteAt (k + 39) = 8) ∧
     (s.parts.findSome? (fun p => (p.2.waiting.find? (fun w => w.rcd.toNat == s.cur && w.met)).map (fun w => (p.1, w))) = some (p, w) →
       ∃ x, exec .waitcWake s = .next x ∧ (x.part p).ready = (s.part p).ready ++ [{ w.ent with since := s.now, rise := 0 }] ∧
         (x.part p).waiting = (s.part p).waiting.filter (fun y => y.rcd != w.rcd)) ∧
     (s.readyOf s.cur = some (p, e) → e.level < 7 → e.since + (e.rise + 1) * 2 ^ 16 ≤ s.now → ∃ x, exec .priorityAging s = .next x ∧
       x.readyOf s.cur = some (p, { e with rise := e.rise + 1 }) ∧ x.mem = s.mem) ∧
     (s.readyOf s.cur = some (p, e) → s.task e.acc = some t → 2 ≤ e.prio → e.since + 2 ^ 14 ≤ s.now → e.asked = none → e.stoker = none →
       placeable s e = none → (∀ x ∈ waitingGangs s, e.gang = some x.1 → gangPlaceFor s x.1 x.2 = none) → leastBy (fun (a b : (Nat × Nat × Nat) × Hart) =>
           if a.1.1 ≠ b.1.1 then a.1.1 < b.1.1
           else if a.1.2.1 ≠ b.1.2.1 then a.1.2.1 < b.1.2.1
           else a.1.2.2 < b.1.2.2) (s.threads.filterMap (fun x => (victim s t e x.1).map (fun v => (v, x.1)))) = some (v, h) →
       (s.thread h).savemode = none → (s.thread h).gang = none → ∃ x, exec .preemptMark s = .next x ∧
         (x.thread h).mark = some (s.now + (s.thread h).regs.ctl.pdead.toNat) ∧ (x.thread h).regs = (s.thread h).regs) ∧
     ((s.me.live = true ∧ ∃ d, s.me.mark = some d ∧ d ≤ s.now) → ∃ x r, exec .overdue s = .next x ∧
       (x.thread s.cur).run = .retiring ∧ (x.thread s.cur).cont = s.me.cont ∧
       r ∈ (x.part s.me.cont.part).traps ∧ r.data.extractLsb' 0 8 = BitVec.ofNat 8 (Trap.code .overdue) ∧
       r.retire = some (s.cur, s.me.cont)) ∧
     (s.me.run = .retiring →
       let c := s.me.cont
       let d := s.drain s.cur
       let listed := ∃ r ∈ (s.part c.part).traps, r.retire = some (s.cur, c)
       let waits := d.blocked s.cur = true ∨ d.recordWaits c.part c.rcd = true
       (listed → exec .overdue s = .next s) ∧ (¬listed → waits → exec .overdue s = .next d) ∧
       (¬listed → ¬waits → ∃ x, exec .overdue s = .next x ∧ x.thread s.cur = {} ∧
         ∀ y z q, d.job s.cur = none → d.runJob c.part c.rcd = none → d.task c.acc = some y → z ∈ y.recs → z.1 ≠ c.rcd → z.2 = 0 →
           d.recordKey c.part c.rcd q → x.byteAt (q + 39) = 8 ∧ ((c.rcd, 0) ∈ y.recs → ∃ w, x.task c.acc = some w ∧
             w.retired = true ∧ (c.rcd, 8) ∈ w.recs)))) ∧
  (∀ (s : State) (g : List Hart),
     (∀ d, (s.cluster s.cur).drain = some d → exec .gangDrain s = .next s) ∧
     ((s.cluster s.cur).drain = none → drainers s s.cur = [] → exec .gangDrain s = .next s) ∧
     (∀ d ∈ drainers s s.cur, (s.cluster s.cur).drain = none → ∃ x e, exec .gangDrain s = .next x ∧ e ∈ drainers s s.cur ∧
       (e.1 < d.1 ∨ (e.1 = d.1 ∧ e.2.1 ≤ d.2.1)) ∧ (x.cluster s.cur).drain = some { cores := e.2.2.2, gang := e.2.2.1 } ∧
       x.threads = s.threads) ∧
     ((formedGroups s s.cur).find? (fun g => g.all (fun h => s.idleOn (hartCore h) == 3)) = some g → ∃ x, exec .gangPlace s = .next x ∧
       (∃ y, x.gang s.fresh = some y ∧ y.members = g ∧ y.next = s.fall (g.head?.getD 0)) ∧
       ∀ h ∈ g, (x.thread h).gang = some s.fresh ∧ (x.thread h).wait = .none ∧ (x.thread h).cont = (s.thread h).cont ∧
         (x.thread h).regs = { (s.thread h).regs with pc := s.fall (g.head?.getD 0) }) ∧
     (∀ e n l k, (formedGroups s s.cur).find? (fun g => g.all (fun h => s.idleOn (hartCore h) == 3)) = none →
       rejoining s s.cur = none → nextPick s (s.partOfDie (s.cur / 96)) = some (e, .gang n l s.cur k) →
       exec .gangPlace s = .next (placeGang s s.cur n l k)))

/-- R116, R117: the oldest trap of a partition is written to its trap queue: the slot at TAIL modulo its size takes the record's 64 bytes,
with the low half of TAIL in its top field, TAIL rises by one and the counter is raised. With no valid vector or a full queue it is
lost: LOST rises by one where it can be written, and the partition counts it; so it is where the slot has no valid writable translation,
which is logged. R110: the continuation that an OVERDUE ended is retired after that. The model's choice: that its STATUS 8 and the idle
thread set wait until the stores it committed are performed and a mailbox record that ends with it can be written (log 32), that while no
vector is declared a lost trap writes no memory (log 49), and that a vector whose page does not translate loses the trap (log 41). -/
def Obligations.TrapQueue : Prop :=
  ∀ (s : State) (r : TrapRec) (rest : List TrapRec), (s.part s.cur).traps = r :: rest →
    let p := s.cur
    let w := (s.part p).tvec
    let u := s.setPart p { s.part p with traps := rest }
    -- `t` is the state in which the record has been written or lost
    let writes (f : State → Prop) : Prop :=
      ∃ t, exec .trapQueueWrite s = .next (finishRetire t r) ∧ (t.part p).traps = rest ∧ f t
    let lost (t : State) : Prop := (t.part p).stat = bump (s.part p).stat pLost 1
    let plain (k n : Nat) : Prop := ∀ i, i < n → plainKey (k + i) = true
    (isVA w = false → writes (fun t => lost t ∧ t.mem = s.mem)) ∧
    (isVA w = true → ∀ x, u.readVA p 0 (vaOf w) 64 = (none, x) → writes lost) ∧
    (isVA w = true → ∀ b x, u.readVA p 0 (vaOf w) 64 = (some b, x) →
      let v : Vec := bytesVec b
      let log := (v.extractLsb' 68 5).toNat
      let oa := (v.extractLsb' 128 64).toNat
      let tail := v.extractLsb' 256 64
      let full := 2 ^ log ≤ (tail - v.extractLsb' 192 64).toNat
      let slot := vaOf (v.extractLsb' 0 64) + 64 * (tail.toNat % 2 ^ log)
      let data := vecBytes (r.data ||| BitVec.ofNat 512 (tail.toNat % 2 ^ 32 * 2 ^ 480)) 0 64
      (vectorOk x p v = false ∨ full → writes (fun t => lost t ∧ ∀ c y k, vaOf w % 64 = 0 →
        x.readVA p 0 (vaOf w + 40) 8 = (some c, y) → (y.xlate p 0 (vaOf w + 40) true true).1 = .ok k → plain k 8 →
        t.readAt k 8 = (leNat c + 1) % 2 ^ 64)) ∧
      (vectorOk x p v = true → ¬full → ∀ y, x.writeVA grateHart p 0 slot data = (false, y) →
        writes (fun t => lost t ∧ (∃ e ∈ t.ctrl.log, e.code = 10#16 ∧ e.part = BitVec.ofNat 2 p) ∧ ∀ c z k, vaOf w % 64 = 0 →
          y.readVA p 0 (vaOf w + 40) 8 = (some c, z) → (z.xlate p 0 (vaOf w + 40) true true).1 = .ok k → plain k 8 →
          t.readAt k 8 = (leNat c + 1) % 2 ^ 64)) ∧
      (vectorOk x p v = true → ¬full → ∀ y, x.writeVA grateHart p 0 slot data = (true, y) → writes (fun t =>
        (t.cluster (oaCl oa)).counter (oaOff oa / 8) = (y.cluster (oaCl oa)).counter (oaOff oa / 8) + 1 ∧
        ∀ k kt, vaOf w % 64 = 0 → (x.xlate p 0 slot true true).1 = .ok k → (y.xlate p 0 (vaOf w + 32) true true).1 = .ok kt →
          plain k 64 → plain kt 8 →
          t.readAt kt 8 = (tail.toNat + 1) % 2 ^ 64 ∧ (rangesMeet k 64 kt 8 = false → t.bytesAt k 64 = data)))) ∧
    (r.retire = none → ∀ t, finishRetire t r = t) ∧
    (∀ t h c, r.retire = some (h, c) → (t.thread h).run = .retiring → (t.thread h).cont = c →
      (∀ x ∈ (t.part c.part).traps, x.retire ≠ some (h, c)) →
      let d := t.drain h
      (d.blocked h = true ∨ d.recordWaits c.part c.rcd = true → finishRetire t r = d) ∧
      (d.blocked h = false → d.recordWaits c.part c.rcd = false → (finishRetire t r).thread h = {}))

/-- R427: a configuring request is refused unless its sender is an operator of the active image, its signature has been verified and its
sequence number is greater than the last one accepted; a refused one changes no configuration but what IMAGE_UPDATE has written to
the inactive slot, is logged and answered; an accepted one leaves its number as the last.
R23, R24, R116, R307, R367, R376, R399, R421, R425, R426, R428: what an accepted request of each kind leaves. A layout change resets the
scratchpads, accumulator files and counters of every die that moves and keeps stack memory, but for what its damper writes back (R402).
The model's choice: the limits of a declaration are checked only with its V bit, what a root and a pool declaration ask for (log 18), that
a refused update has written its slot (log 17), what keeps a die from moving (`stays`, log 16), that the range of a die that moves is
withdrawn where it meets one of its new partition (log 15), which threads a pre-emption request marks (`live`, log 32), and that a trap
vector declared where its bytes read 0 throughout takes QLOG2 6, its reset value (log 49). -/
def Obligations.Management : Prop :=
  (∀ (s : State) (x : Input) (rest : List Input) (i : Instr) (q : Mgmt), s.inbox = x :: rest → mgmtOf x = some (i, q) →
     ∃ t, exec i s = .next t ∧ t.inbox = rest ∧
       ((t.outbox = s.outbox ++ [.accepted] ∧ t.ctrl.seq = q.seq ∧ q.verified = true ∧ s.ctrl.seq.toNat < q.seq.toNat ∧
         ∃ m, s.ctrl.image = some m ∧ q.sender ∈ m.operators) ∨
        (t.outbox = s.outbox ++ [.refused] ∧ t.ctrl.seq = s.ctrl.seq ∧ t.ctrl.layout = s.ctrl.layout ∧ t.ctrl.pqueues = s.ctrl.pqueues ∧
         t.parts = s.parts ∧ t.dies = s.dies ∧ t.mem = s.mem ∧ t.threads = s.threads ∧
         -- the walks of a refused pool declaration are cached and counted
         (∀ st, ∃ l k, t.stack st = { s.stack st with tlb := l, stat := k }) ∧
         ∃ r, t.ctrl.log.getLast? = some r ∧ r.code = 6#16)) ∧
       (q.verified = false → t.outbox = s.outbox ++ [.refused] ∧ t.ctrl.slotA = s.ctrl.slotA ∧ t.ctrl.slotB = s.ctrl.slotB)) ∧
  (∀ (s : State) (q : Mgmt) (rest : List Input) (p st idx d : Nat) (w : Word) (h : BitVec 128) (f : BitVec 256) (l : List (List Nat))
     (img : FlashImage) (pt : PreTarget), s.ctrl.grants q = true →
     let u : State := { s with inbox := rest }
     (s.inbox = .trapVector q p w :: rest → s.hasPart p = true → s.baseOk p w = true → ∃ t, exec .trapVectorDeclare s = .next t ∧
       (t.part p).tvec = w ∧ t.ctrl.seq = q.seq ∧ ∀ b v k, u.readVA p 0 (vaOf w) 64 = (some b, v) → vaOf w % 64 = 0 →
         (v.xlate p 0 (vaOf w + 8) true true).1 = .ok k → (∀ i, i < 8 → plainKey (k + i) = true) →
         ((∀ x ∈ b, x = 0) → t.readAt k 8 = 6 * 2 ^ 4) ∧ ((∃ x ∈ b, x ≠ 0) → t.mem = s.mem)) ∧
     (s.inbox = .root q st p w :: rest → st < 8 → s.hasPart p = true → w.toNat < 2 ^ 36 → w.toNat % 2 ^ 21 = 0 →
       ∃ t, exec .translationRootDeclare s = .next t ∧ Tab.get none (t.stack st).troot p = some w.toNat ∧
         ∀ e ∈ (t.stack st).tlb, e.part ≠ p) ∧
     (s.inbox = .window q p idx f :: rest → s.hasPart p = true → idx < 16 → f.extractLsb' 4 60 = 0#60 → f.extractLsb' 192 64 = 0#64 →
       (f.getLsbD 0 = true → s.baseOk p (f.extractLsb' 64 64) = true ∧ (f.extractLsb' 128 64).toNat % 64 = 0) →
       ∃ t, exec .hostWindowDeclare s = .next t ∧ Tab.get {} (t.part p).windows idx =
         { v := f.getLsbD 0, rd := f.getLsbD 1, wr := f.getLsbD 2, cnt := f.getLsbD 3, base := f.extractLsb' 64 64
           len := f.extractLsb' 128 64 }) ∧
     (s.inbox = .partQueue q idx f :: rest → idx < 64 → pqOk s f = true → ∃ t, exec .partitionQueueDeclare s = .next t ∧
       Tab.get 0 t.ctrl.pqueues idx = f) ∧
     (s.inbox = .peer q p idx f :: rest → s.hasPart p = true → idx ≠ 0 → idx < 4096 → f.extractLsb' 1 15 = 0#15 → f.extractLsb' 52 12 = 0#12 →
       f.extractLsb' 192 64 = 0#64 → (f.getLsbD 0 = true → f.extractLsb' 40 12 ≠ 0#12) → ∃ t, exec .peerTableWrite s = .next t ∧
         Tab.get 0 (t.part p).peers idx = f) ∧
     (s.inbox = .damperRange q d h :: rest →
       let base := h.extractLsb' 0 64
       let first := (h.extractLsb' 64 16).toNat
       let cnt := (h.extractLsb' 80 17).toNat
       let others := (List.range 4).filter (fun e => e != d)
       d < 4 → h.extractLsb' 97 31 = 0#31 → first + cnt ≤ 65536 →
       (cnt ≠ 0 → isVA base = true ∧ base.toNat % 64 = 0 ∧ vaStack (vaOf base) / 2 = d) →
       others.all (fun e => !(s.dieIn (s.partOfDie d) e && rangesMeet first cnt (s.die e).gfirst (s.die e).gcount)) = true →
       others.foldl (fun n e => n + (s.die e).gcount) cnt ≤ 65536 → ∃ t, exec .damperRangeDeclare s = .next t ∧
         (t.die d).gtbase = base ∧ (t.die d).gfirst = first ∧ (t.die d).gcount = cnt ∧
         ∀ g, g / 65536 = d → (t.group g).configured = false) ∧
     (s.inbox = .recordPool q p h :: rest → ∀ v₁ v₂ v,
       let base := h.extractLsb' 0 64
       let n := 64 * 2 ^ (h.extractLsb' 64 5).toNat
       s.hasPart p = true → h.extractLsb' 69 59 = 0#59 → 10 ≤ (h.extractLsb' 64 5).toNat → (h.extractLsb' 64 5).toNat ≤ 20 →
       s.baseOk p base = true → vaStack (vaOf base) = vaStack (vaOf base + n - 1) → rangeOpen u p (vaOf base) n = (true, v₁) →
       poolFree v₁ p = (true, v₂) → v₂.writeVA grateHart p 0 (vaOf base) (List.replicate n 0) = (true, v) → ∃ t, exec .recordPoolDeclare s = .next t ∧
         (t.part p).pbase = base ∧ (t.part p).plog2 = (h.extractLsb' 64 5).toNat ∧ (t.part p).pooled = true ∧ t.mem = v.mem) ∧
     (s.inbox = .layout q l :: rest → layoutOk l = true → (List.range 4).all (fun d => !stays u d) = true →
       let moves (d : Nat) := s.ctrl.layout.findIdx (fun x => x.contains d) ≠ l.findIdx (fun x => x.contains d)
       ∃ t, exec .partitionLayout s = .next t ∧ t.ctrl.layout = l ∧ (∃ r ∈ t.ctrl.log, r.code = 5#16) ∧
         (∀ d, d < 4 → moves d → (∀ k, resetKey d k = true → Memory.get t.mem k = Memory.blank) ∧
           (∀ c i, c / 96 = d → (t.cluster c).counter i = 0) ∧ rangeTaken t d (t.die d).gfirst (t.die d).gcount = false) ∧
         (∀ d k, d < 4 → ¬moves d → resetKey d k = true → Memory.get t.mem k = Memory.get s.mem k) ∧
         ((∀ g ∈ s.groups, g.2.configured = false) → ∀ k, isStackKey k = true → Memory.get t.mem k = Memory.get s.mem k)) ∧
     (s.inbox = .preempt q pt :: rest → ∃ t, exec .preemptRequest s = .next t ∧ t.ctrl.seq = q.seq ∧
       ∀ k, (s.thread k).live = true → kindOf k = .core → pt.concerns k (s.thread k).cont = true → (s.thread k).savemode = none →
         (s.threads.map Prod.fst).Nodup → ((t.thread k).mark).isSome = true) ∧
     (s.inbox = .update q img :: rest → img.valid s.ctrl.minSvn = true → ∃ t, exec .imageUpdate s = .next t ∧
       t.ctrl.pending = some (!(s.ctrl.active.getD true)) ∧ t.ctrl.slotOf (!(s.ctrl.active.getD true)) = img ∧
       t.ctrl.slotOf (s.ctrl.active.getD true) = s.ctrl.slotOf (s.ctrl.active.getD true)))

/-- R26, R428, R430: power-up keeps the flash and boots a valid slot, the stacks up and no cluster, or halts with BOOT_FAILED logged;
clusters come up in order, 2 µs apart, and the last makes the image READY; a junction at 105 °C or a failed flow logs THERMAL and
shuts the module down.
R419 to R423, R429, R431: requests that read need an operator; a counter read is a snapshot of one unit; a host access that its window
allows reads or writes its bytes, another performs nothing and is counted; a counted write adds one to its counter after its data.
The model's choice: that memory, threads, tasks and clusters are blank after power-up (log 2, 3), that the module is halted exactly when
no slot is valid, also where a pending image gives way (log 17), and the 2200 and 110000 cycles of the two intervals (log 20). -/
def Obligations.PowerBootAndHost : Prop :=
  (∀ (s : State),
     (∃ t, exec .powerUp s = .next t ∧ t.ctrl.seq = s.ctrl.seq ∧ t.mem = [] ∧ t.threads = [] ∧ t.tasks = [] ∧ t.clusters = [] ∧ t.ctrl.slotA = s.ctrl.slotA ∧
       t.ctrl.slotB = s.ctrl.slotB ∧ t.ctrl.minSvn = s.ctrl.minSvn ∧
       (t.ctrl.halted = true ↔ s.ctrl.validSlot false = false ∧ s.ctrl.validSlot true = false) ∧
       (t.ctrl.halted = true → ∃ r ∈ t.ctrl.log, r.code = 1#16) ∧
       (t.ctrl.halted = false → ∃ b, t.ctrl.active = some b ∧ s.ctrl.validSlot b = true ∧ (∀ k, k < 8 → (t.stack k).up = true) ∧
         (s.ctrl.pending = some b → s.ctrl.attempted = false → t.ctrl.attempted = true) ∧
         (s.ctrl.pending = none → ∀ c, s.ctrl.validSlot c = true → (s.ctrl.slotOf c).version ≤ (s.ctrl.slotOf b).version))) ∧
     (s.ctrl.active ≠ none → s.ctrl.halted = false → s.ctrl.next < 384 →
       (if s.ctrl.next = 0 then s.now else s.ctrl.bootAt) + 2200 * s.ctrl.next ≤ s.now → ∃ t, exec .clusterReady s = .next t ∧
         (t.cluster s.ctrl.next).up = true ∧ t.ctrl.next = s.ctrl.next + 1 ∧ (s.ctrl.next = 383 → t.ctrl.ready = true) ∧
         (s.ctrl.next < 383 → t.ctrl.ready = s.ctrl.ready)) ∧
     (∀ j a b ok n rest, s.inbox = .sample j a b ok n :: rest → s.ctrl.active ≠ none → s.ctrl.halted = false →
       s.ctrl.sampleAt + 110000 ≤ s.now → ∃ t, exec .sensorSample s = .next t ∧ t.ctrl.lastSample = some (j, a, b, ok, n) ∧
         t.inbox = rest ∧ t.mem = s.mem ∧ t.threads = s.threads ∧
         (t.ctrl.halted = true ↔ (∃ x ∈ j, 105 ≤ x) ∨ ok = false) ∧
         (t.ctrl.halted = true → ∃ r, t.ctrl.log.getLast? = some r ∧ r.code = 7#16))) ∧
  (∀ (s : State) (rest : List Input) (q : Mgmt) (nonce : BitVec 512) (u : CounterUnit) (p win n : Nat) (off hdr : Word) (data : List Byte)
     (l : List (Nat × Nat × Nat)) (v : State),
     let x : State := { s with inbox := rest }
     let oa := hdr.toNat
     let good := isOA hdr = true ∧ s.dieIn p (oaDie oa) = true ∧ oaSpace oa = some .counter ∧ oaOff oa % 8 = 0
     let refused (i : Instr) : Prop := ∃ t, exec i s = .next t ∧ t.mem = s.mem ∧ t.outbox = s.outbox ++ [.hostError] ∧
       (t.part p).stat = bump (s.part p).stat pRefusedReq 1
     (s.inbox = .attest q nonce :: rest →
       (s.ctrl.knows q = false → exec .attest s = .next (x.refuse 0)) ∧
       (∀ b m, s.ctrl.knows q = true → s.ctrl.active = some b → s.ctrl.image = some m → ∃ sig, exec .attest s =
         .next (x.reply (.attest nonce b m.version m.svn s.ctrl.meas s.ctrl.layout sig)))) ∧
     (s.inbox = .counters q u :: rest →
       (s.ctrl.knows q = true → u.exists' = true → exec .counterRead s = .next (x.reply (.counters (s.snapshot u)))) ∧
       (s.ctrl.knows q = false ∨ u.exists' = false → exec .counterRead s = .next (x.refuse (u.part x)))) ∧
     (s.inbox = .hostRead p win off n :: rest →
       (hostPieces x p win off n .read = (some l, v) → exec .hostRead s =
         .next (v.reply (.hostData ((l.map (fun y => v.bytesAt y.1 y.2.2)).flatten)))) ∧
       (hostPieces x p win off n .read = (none, v) → refused .hostRead)) ∧
     (s.inbox = .hostWrite p win off data :: rest →
       (hostPieces x p win off data.length .write = (some l, v) → ∃ t : State, exec .hostWrite s = .next (t.reply .hostDone) ∧
         (∀ k, l = [(k, 0, data.length)] → (∀ i, i < data.length → plainKey (k + i) = true) → t.bytesAt k data.length = data ∧
           ∀ a, plainKey a = true → a < k ∨ k + data.length ≤ a → t.byteAt a = s.byteAt a)) ∧
       (hostPieces x p win off data.length .write = (none, v) → refused .hostWrite)) ∧
     (s.inbox = .counted p win off data hdr :: rest →
       (good → hostPieces x p win off data.length .counted = (some l, v) → (∀ y ∈ l, ∀ i, i < y.2.2 → plainKey (y.1 + i) = true) →
         ∃ t : State, exec .countedWrite s = .next (t.reply .hostDone) ∧
           (t.cluster (oaCl oa)).counter (oaOff oa / 8) = (s.cluster (oaCl oa)).counter (oaOff oa / 8) + 1) ∧
       (¬good ∨ hostPieces x p win off data.length .counted = (none, v) → refused .countedWrite)) ∧
     (s.inbox = .unsupported p :: rest → ∃ t, exec .unsupportedOperation s = .next t ∧ t.mem = s.mem ∧
       t.outbox = s.outbox ++ [.unsupportedError] ∧ (t.part p).stat = bump (s.part p).stat pRefusedReq 1) ∧
     (s.inbox = .transport p n :: rest → ∃ t r, exec .transportFailure s = .next t ∧ t.mem = s.mem ∧
       (t.part p).stat = bump (s.part p).stat pTransport 1 ∧ t.ctrl.log.getLast? = some r ∧ r.code = 9#16))

/-! ## Completion -/

/-- Forms that leave, resume or act for another agent complete with their own effect, in every state that meets the conditions of their
rules. R192, R106, R197 to R199, R109, R208: a REP begins (a body line that cannot be fetched bars nothing: the model's choice, log 39), SAFE goes on or enters its save routine, EXIT, WAITC, YIELD and SAVED leave
their thread set idle, TRET acts on its record.
R227, R228, R230: an AFENCE of a range that its rules allow, every WARM, and a QPOP of a well-formed queue go on at the next head.
R70, R73, R219 to R226, R61, R116: each item of the fabric that is first in its order is performed, a load that waits for another arbiter
falls through, a store pending for a register window lands, the oldest trap leaves its partition's list.
R293, R297, R299, R305, R309, R310: a stoker hart takes a request of each kind, a job that has ended or met a fault leaves its hart idle or
parked, a page moves, a slice answers, a program starts, a continuation leaves for another stoker (how its hart falls idle and its entry
goes there is the model's reading, log 23).
R339, R341: a hob unit's command that has executed 2^28 heads ends, and its unit is idle. -/
def Obligations.FormsComplete : Prop :=
  (∀ (s : State) (n : BitVec 5) (count : BitVec 16) (stride : BitVec 6),
     let body := (s.bodyPcs s.cur n.toNat (s.fall s.cur)).1
     (∀ pc ∈ body, (s.fetchLine s.cur pc).1 ≠ .wait ∧ ∀ x, s.headOf s.cur pc = some x → repBars x.1 = false) → s.alone = true → count ≠ 0 →
     ∃ t, exec (.rep n count stride) s = .next t ∧ t.me.regs.pc = s.fall s.cur ∧
       ∃ r, t.me.regs.rep = some r ∧ r.body = s.fall s.cur ∧ r.n = n.toNat ∧ r.count = count.toNat ∧ r.pass = 0 ∧ r.pos = 0) ∧
  (∀ (s : State) (k : BitVec 10) (p : SafePt), (s.safesOf s.me.cont)[k.toNat]? = some p → s.me.savemode = none → s.mayEnd = true →
     s.ended.me.gang = none → s.ended.me.path = [] →
     (s.ended.me.mark = none → exec (.safe k) s = .next s.ended.pastStrong) ∧
     (s.ended.me.mark ≠ none → ∃ t, exec (.safe k) s = .next t ∧ t.me.savemode = some k.toNat ∧ t.me.regs.pc = p.savepc)) ∧
  (∀ (s : State) (a b : Reg), s.mayRelease = true →
     (s.me.savemode = none → s.released.recordWaits s.released.me.cont.part s.released.me.cont.rcd = false →
       ∃ t, exec (.exit a b) s = .next t ∧ t.thread s.cur = {}) ∧
     (s.me.savemode = none → ∃ t, exec .yield s = .next t ∧ t.thread s.cur = {}) ∧
     (s.me.savemode = none → s.follows = false → s.counterTrap (s.rs a) = none → (s.noteVals (s.rs a) (s.rs b)).mayRelease = true →
       ∃ t, exec (.waitc a b) s = .next t ∧ t.thread s.cur = {}) ∧
     (s.me.savemode ≠ none → ∃ t, exec .saved s = .next t ∧ t.thread s.cur = {}) ∧
     ((s.rs a).toNat % 4 ≠ 3 → (s.rs a).toNat / 4 % 16 = 0 → (s.rs (a + 1)).toNat < 2 ^ 16 → isVA (s.rs a) = true →
       s.stackIn s.myPart (vaStack (vaOf (s.rs a &&& ~~~63#64))) = true →
       ((s.rs a).toNat % 4 ≠ 0 ∨ s.released.recordWaits s.released.myPart (s.rs a &&& ~~~63#64) = false) → exec (.tret a) s =
         .next (trapReturn s.released s.cur (s.rs a &&& ~~~63#64) ((s.rs (a + 1)).setWidth 16) ((s.rs a).toNat % 4)).pastStrong)) ∧
  (∀ (s : State) (a b : Reg),
     let w := s.rs a
     let n := (s.rs b).toNat
     (isVA w = true → (n = 0 ∨ (vaOf w % 2 ^ 54 + n ≤ 2 ^ 54 ∧ s.stackIn s.myPart (vaStack (vaOf w)) = true)) → s.mayRelease = true →
       exec (.afence a b) s = .next s.released.pastStrong) ∧
     (∃ u, exec (.warm a b) s = .next u.past ∧ sameButTlb s u) ∧
     (w.toNat % 64 = 0 → isVA w = true → s.mayRelease = true → ∀ k v, targetOf s.released .plain w 64 true = some (k, v) →
       v.mustWait v.cur k 64 = false →
       let ql := (queueWord v k 1).toNat
       let c := queueWord v k 2
       let hd := (queueWord v k 3).toNat
       let cnt := ((v.cluster (oaCl c.toNat)).counter (oaOff c.toNat / 8)).toNat
       ql % 16 = 0 → ql < 2 ^ 9 → ql / 16 % 32 ≤ 20 → (∀ j, j < 4 → queueWord v k (4 + j) = 0) →
       isOA c = true → oaSpace c.toNat = some .counter → c.toNat % 8 = 0 → v.dieIn v.myPart (oaDie c.toNat) = true →
       ∃ (u : State) (x : Word), exec (.qpop b a) s = .next (u.ws b x).pastStrong ∧
         (cnt ≤ hd → u = v ∧ x = BitVec.allOnes 64) ∧
         (hd < cnt → u = v.writeAt v.cur (k + 24) (leBytes 8 (hd + 1)) ∧
           x = queueWord u k 0 + BitVec.ofNat 64 (64 * (hd % 2 ^ (ql / 16 % 32)))))) ∧
  (∀ (s : State) (m : Msg), s.msg s.cur = some m → s.firstOf m = true →
     (∀ k op n v c ret sx, m.item = .rmw k op n v c ret sx →
       (toEntry k = false → exec .messageArrival s = .next (performItem s m)) ∧
       (toEntry k = true → exec .waitingTaskArm s = .next (performItem s m))) ∧
     (∀ c d g p, m.item = .putc c d g p → exec .putcArrival s = .next (performItem s m)) ∧
     (∀ l f n, m.item = .apndRow l f n → exec .apndRowWrite s = .next (performItem s m)) ∧
     (∀ k d, m.item = .rstore k d → s.guarded k d.length = false → 2 ^ 40 ≤ k → exec .remoteStoreCommit s = .next (performItem s m)) ∧
     (∀ k d, m.item = .rstore k d → s.guarded k d.length = false → k < 2 ^ 40 → oaSpace k = some .ctl → s.arg = s.cur → s.arg ≠ 0 →
       exec .registerWrite s = .next (performItem s m))) ∧
  (∀ (s : State) (rd base : Reg) (ty : Ty) (off : BitVec 16) (w : WStore) (r : List WStore),
     (s.me.wait = .load (.ld rd base ty off) → s.held s.cur (s.ea base off).toNat (tyBytes ty) = false →
       exec .remoteLoad s = .next (s.ws rd (extendTy ty (leNat (s.ownBytes s.cur (s.ea base off).toNat (tyBytes ty))))).past) ∧
     (s.me.run = .running → s.me.chunk.executed = 0 → s.me.chunk.pops = [] → (∀ i, s.me.wait ≠ .load i ∧ s.me.wait ≠ .stall i) → s.me.pend = w :: r → w.key < 0x3000 →
       ∃ t, exec .registerWindowStore s = .next t ∧ t.me.pend = r ∧ t.me.regs = (windowStore s.me.regs w.key w.data).1)) ∧
  (∀ (s : State) (r : TrapRec) (rest : List TrapRec), (s.part s.cur).traps = r :: rest → r.retire = none →
     ∃ t, exec .trapQueueWrite s = .next t ∧ (t.part s.cur).traps = rest) ∧
  (∀ (s u : State) (j : Job), s.job s.cur = none → kindOf s.cur = .stoker → (s.thread s.cur).run = .idle → u.job s.cur = some j →
     ∀ p ∈ [(Instr.copy, 0, false), (.copyToTensor, 0, true), (.gather, 1, false), (.scatter, 2, false), (.reduce, 3, false),
       (.migrate, 4, false), (.shoot, 5, false)], takeJob s s.cur p.2.1 p.2.2 = u → j.kind = p.2.1 →
       ∃ t, exec p.1 s = .next t ∧ (t.job s.cur).isSome = true ∧ (u.thread s.cur).run = .running) ∧
  (∀ (s : State) (j : Job),
     (∀ stop fcode va, s.job s.cur = some j → j.st = .done stop fcode va → j.cmds = [] → s.endWaits j = false →
       ∃ t, exec .copyComplete s = .next t ∧ t.thread s.cur = {} ∧ t.job s.cur = none) ∧
     (s.job s.cur = some j → j.kind = 3 → j.st = .waiting → j.cmds = [] → j.fail = none → s.endWaits j = false →
       ∃ t, exec .reduceComplete s = .next t ∧ t.thread s.cur = {}) ∧
     (∀ va fcode, s.job s.cur = some j → j.st = .fault va fcode → s.endWaits j = false → ∃ t, exec .page s = .next t ∧ (t.thread s.cur).run = .parked) ∧
     (∀ e dst frame hs ds, s.job s.cur = some j → j.kind = 4 → j.st = .waiting → migratePlan s j = some (e, dst, frame, hs, ds) →
       framePending s (frameKeys (vaStack (vaOf j.w1)) e.frame e.size) = false →
       ∃ t, exec .migrateMove s = .next t ∧ t.job s.cur = some { j with st := .done 1 0 0 }) ∧
     (s.job s.cur = some j → j.kind = 5 → j.st = .waiting → s.arg ∈ j.slices →
       ((s.stack (s.arg / 12)).tlb.any (fun e => e.part == j.cont.part && rangesMeet (vaOf j.w1) j.w2.toNat e.va e.size &&
         vaStoker e.va == s.arg % 12)) = false →
       ∃ t j', exec .shootAck s = .next t ∧ t.job s.cur = some j' ∧ s.arg ∉ j'.slices) ∧
     (∀ hd u, s.job s.cur = some j → j.kind = 6 → j.st = .moving → s.stackIn j.cont.part (vaStack (vaOf j.w1)) = true →
       readHeader s j.cont.part j.cont.acc j.w1 = (some hd, u) → ∃ t, exec .run s = .next t ∧ (t.thread s.cur).run = .running ∧
         (t.thread s.cur).regs.pc = hd.entry) ∧
     (∀ st, s.job s.cur = none → s.me.run = .running → s.me.wait = .redirect st → s.mayRelease = true →
       ∃ t, exec .continuationMigrate s = .next t ∧ t.thread s.cur = {})) ∧
  (∀ (s : State), s.cur < 768 → (s.hob s.cur).cmd ≠ none → 2 ^ 28 ≤ (s.hob s.cur).executed →
     ({ s with cur := 13824 + s.cur } : State).mayEnd = true → (s.commit (13824 + s.cur)).hobWaits (13824 + s.cur) = false →
     ∃ t, exec .hobBudgetExhausted s = .next t ∧ (t.hob s.cur).cmd = none ∧ t.thread (13824 + s.cur) = {})
end

