-- ==== Sys2Proof/Laws/Tab.lean ====
section
/-! SUPPORT. Sparse tables and memory: read after write, and the canonical form that every write keeps. -/

namespace Sys2Proof.Machine

variable {α : Type}

@[simp] theorem Tab.get_nil (d : α) (k : Nat) : Tab.get d [] k = d := rfl

theorem Tab.get_erase (d : α) (t : Tab α) (k j : Nat) :
    Tab.get d (Tab.erase t k) j = if j = k then d else Tab.get d t j := by
  induction t with
  | nil => simp [Tab.erase]
  | cons e r ih =>
    obtain ⟨a, x⟩ := e
    simp only [Tab.erase] at ih
    by_cases h : a = k
    · subst h
      simp only [Tab.erase, List.filter, bne_self_eq_false, ih, Tab.get]
      by_cases hj : j = a
      · simp [hj]
      · simp [hj, Ne.symm hj]
    · simp only [Tab.erase, List.filter, bne_iff_ne.2 h, Tab.get, ih]
      split <;> simp_all

theorem Tab.get_insert (d : α) (t : Tab α) (k j : Nat) (x : α) (h : Tab.get d t k = d) (hn : ∀ e ∈ t, e.1 ≠ k) :
    Tab.get d (Tab.insert t k x) j = if j = k then x else Tab.get d t j := by
  induction t with
  | nil => simp only [Tab.insert, Tab.get]; split <;> simp_all [eq_comm]
  | cons e r ih =>
    obtain ⟨a, y⟩ := e
    have ha : a ≠ k := hn (a, y) (by simp)
    have hr : Tab.get d r k = d := by simpa [Tab.get, ha] using h
    have := ih hr (fun e he => hn e (by simp [he]))
    simp only [Tab.insert]
    split
    · simp only [Tab.get]; by_cases hj : j = k
      · simp [hj]
      · simp [hj, Ne.symm hj]
    · simp only [Tab.get, this]; split <;> simp_all

theorem Tab.erase_ne (t : Tab α) (k : Nat) : ∀ e ∈ Tab.erase t k, e.1 ≠ k := by
  intro e he; simpa [Tab.erase] using (List.mem_filter.1 he).2

/-- What a table holds after a write. -/
theorem Tab.get_set [DecidableEq α] (d : α) (t : Tab α) (k j : Nat) (x : α) :
    Tab.get d (Tab.set d t k x) j = if j = k then x else Tab.get d t j := by
  unfold Tab.set
  split
  · rename_i h; rw [Tab.get_erase, h]
  · rw [Tab.get_insert _ _ _ _ _ (by simp [Tab.get_erase]) (Tab.erase_ne t k), Tab.get_erase]
    split <;> rfl

@[simp] theorem Tab.get_set_self [DecidableEq α] (d : α) (t : Tab α) (k : Nat) (x : α) :
    Tab.get d (Tab.set d t k x) k = x := by simp [Tab.get_set]

/-! ## The canonical form -/

theorem Tab.wf_cons [DecidableEq α] (d : α) (a : Nat) (x : α) (r : Tab α) :
    Tab.wf d ((a, x) :: r) = true ↔ x ≠ d ∧ (∀ e ∈ r, a < e.1) ∧ Tab.wf d r = true := by
  simp [Tab.wf, and_assoc]

theorem Tab.wf_erase [DecidableEq α] (d : α) (t : Tab α) (k : Nat) (h : Tab.wf d t = true) : Tab.wf d (Tab.erase t k) = true := by
  induction t with
  | nil => simp [Tab.erase, Tab.wf]
  | cons e r ih =>
    obtain ⟨a, x⟩ := e
    rw [Tab.wf_cons] at h
    have hr := ih h.2.2
    simp only [Tab.erase, List.filter] at hr ⊢
    split
    · rw [Tab.wf_cons]; exact ⟨h.1, fun e he => h.2.1 e (List.mem_filter.1 he).1, hr⟩
    · exact hr

theorem Tab.mem_insert (t : Tab α) (k : Nat) (x : α) (e : Nat × α) (h : e ∈ Tab.insert t k x) : e = (k, x) ∨ e ∈ t := by
  induction t with
  | nil => simpa [Tab.insert] using h
  | cons f r ih =>
    obtain ⟨a, y⟩ := f
    simp only [Tab.insert] at h
    split at h
    · simpa using h
    · rcases List.mem_cons.1 h with h | h
      · simp [h]
      · rcases ih h with h | h <;> simp [h]

theorem Tab.wf_insert [DecidableEq α] (d : α) (t : Tab α) (k : Nat) (x : α) (hx : x ≠ d) (hn : ∀ e ∈ t, e.1 ≠ k)
    (h : Tab.wf d t = true) : Tab.wf d (Tab.insert t k x) = true := by
  induction t with
  | nil => simp [Tab.insert, Tab.wf, hx]
  | cons e r ih =>
    obtain ⟨a, y⟩ := e
    have hw := (Tab.wf_cons d a y r).1 h
    simp only [Tab.insert]
    split
    · rename_i hk
      rw [Tab.wf_cons]
      refine ⟨hx, fun e he => ?_, h⟩
      rcases List.mem_cons.1 he with he | he
      · simpa [he] using hk
      · exact Nat.lt_trans hk (hw.2.1 e he)
    · rename_i hk
      rw [Tab.wf_cons]
      refine ⟨hw.1, fun e he => ?_, ih (fun e he => hn e (by simp [he])) hw.2.2⟩
      rcases Tab.mem_insert r k x e he with he | he
      · have := hn (a, y) (by simp); simp only [he]; simp only [ne_eq] at this; omega
      · exact hw.2.1 e he

/-- A write keeps the canonical form. -/
theorem Tab.wf_set [DecidableEq α] (d : α) (t : Tab α) (k : Nat) (x : α) (h : Tab.wf d t = true) : Tab.wf d (Tab.set d t k x) = true := by
  unfold Tab.set
  split
  · exact Tab.wf_erase d t k h
  · rename_i hx; exact Tab.wf_insert d _ k x hx (Tab.erase_ne t k) (Tab.wf_erase d t k h)

/-! ## Memory -/

/-- A byte after a write of one byte. -/
theorem Memory.get_set (m : List Host.Cell) (k j : Nat) (b : Byte) :
    Memory.get (Memory.set m k b) j = if j = k then b else Memory.get m j := Tab.get_set _ _ _ _ _

/-- A byte after a write of a run of bytes. -/
theorem Memory.get_write (m : List Host.Cell) (k j : Nat) (l : List Byte) :
    Memory.get (Memory.write m k l) j = if k ≤ j ∧ j < k + l.length then (l[j - k]?).getD 0 else Memory.get m j := by
  induction l generalizing m k with
  | nil =>
    have h : ¬ (k ≤ j ∧ j < k + ([] : List Byte).length) := by simp
    rw [if_neg h]; rfl
  | cons b r ih =>
    rw [Memory.write, ih, Memory.get_set]
    simp only [List.length_cons]
    by_cases h : j = k
    · subst h; simp
    · by_cases h2 : k + 1 ≤ j ∧ j < k + 1 + r.length
      · have h3 : k ≤ j ∧ j < k + (r.length + 1) := by omega
        have h4 : j - k = (j - (k + 1)) + 1 := by omega
        simp [h2, h3, h4]
      · have h3 : ¬ (k ≤ j ∧ j < k + (r.length + 1)) := by omega
        rw [if_neg h2, if_neg h3, if_neg h]

theorem Memory.wf_set (m : List Host.Cell) (k : Nat) (b : Byte) (h : Memory.wf m = true) : Memory.wf (Memory.set m k b) = true :=
  Tab.wf_set _ _ _ _ h

/-- Every write keeps memory in canonical form. -/
theorem Memory.wf_write (m : List Host.Cell) (k : Nat) (l : List Byte) (h : Memory.wf m = true) :
    Memory.wf (Memory.write m k l) = true := by
  induction l generalizing m k with
  | nil => exact h
  | cons b r ih => exact ih _ _ (Memory.wf_set m k b h)

end Sys2Proof.Machine
end

