-- ==== Sys2Proof/Laws/State.lean ====
section
/-! SUPPORT. What each update of State leaves and what it changes: one lemma per field per update. -/

namespace Sys2Proof.Machine

variable (s : State)

/-! ## `State.setThread` -/

@[simp] theorem State.setThread_agenda (h : Hart) (t : Thread) : (s.setThread h t).agenda = s.agenda := rfl
@[simp] theorem State.setThread_cur (h : Hart) (t : Thread) : (s.setThread h t).cur = s.cur := rfl
@[simp] theorem State.setThread_arg (h : Hart) (t : Thread) : (s.setThread h t).arg = s.arg := rfl
@[simp] theorem State.setThread_rr (h : Hart) (t : Thread) : (s.setThread h t).rr = s.rr := rfl
@[simp] theorem State.setThread_fresh (h : Hart) (t : Thread) : (s.setThread h t).fresh = s.fresh := rfl
@[simp] theorem State.setThread_now (h : Hart) (t : Thread) : (s.setThread h t).now = s.now := rfl
@[simp] theorem State.setThread_mem (h : Hart) (t : Thread) : (s.setThread h t).mem = s.mem := rfl
@[simp] theorem State.setThread_clusters (h : Hart) (t : Thread) : (s.setThread h t).clusters = s.clusters := rfl
@[simp] theorem State.setThread_cores (h : Hart) (t : Thread) : (s.setThread h t).cores = s.cores := rfl
@[simp] theorem State.setThread_dram (h : Hart) (t : Thread) : (s.setThread h t).dram = s.dram := rfl
@[simp] theorem State.setThread_hqueue (h : Hart) (t : Thread) : (s.setThread h t).hqueue = s.hqueue := rfl
@[simp] theorem State.setThread_jobs (h : Hart) (t : Thread) : (s.setThread h t).jobs = s.jobs := rfl
@[simp] theorem State.setThread_queries (h : Hart) (t : Thread) : (s.setThread h t).queries = s.queries := rfl
@[simp] theorem State.setThread_net (h : Hart) (t : Thread) : (s.setThread h t).net = s.net := rfl
@[simp] theorem State.setThread_gangs (h : Hart) (t : Thread) : (s.setThread h t).gangs = s.gangs := rfl
@[simp] theorem State.setThread_tasks (h : Hart) (t : Thread) : (s.setThread h t).tasks = s.tasks := rfl
@[simp] theorem State.setThread_accno (h : Hart) (t : Thread) : (s.setThread h t).accno = s.accno := rfl
@[simp] theorem State.setThread_dies (h : Hart) (t : Thread) : (s.setThread h t).dies = s.dies := rfl
@[simp] theorem State.setThread_parts (h : Hart) (t : Thread) : (s.setThread h t).parts = s.parts := rfl
@[simp] theorem State.setThread_vers (h : Hart) (t : Thread) : (s.setThread h t).vers = s.vers := rfl
@[simp] theorem State.setThread_gone (h : Hart) (t : Thread) : (s.setThread h t).gone = s.gone := rfl
@[simp] theorem State.setThread_groups (h : Hart) (t : Thread) : (s.setThread h t).groups = s.groups := rfl
@[simp] theorem State.setThread_ctrl (h : Hart) (t : Thread) : (s.setThread h t).ctrl = s.ctrl := rfl
@[simp] theorem State.setThread_inbox (h : Hart) (t : Thread) : (s.setThread h t).inbox = s.inbox := rfl
@[simp] theorem State.setThread_outbox (h : Hart) (t : Thread) : (s.setThread h t).outbox = s.outbox := rfl

/-! ## `State.setMe` -/

@[simp] theorem State.setMe_agenda (t : Thread) : (s.setMe t).agenda = s.agenda := rfl
@[simp] theorem State.setMe_cur (t : Thread) : (s.setMe t).cur = s.cur := rfl
@[simp] theorem State.setMe_arg (t : Thread) : (s.setMe t).arg = s.arg := rfl
@[simp] theorem State.setMe_rr (t : Thread) : (s.setMe t).rr = s.rr := rfl
@[simp] theorem State.setMe_fresh (t : Thread) : (s.setMe t).fresh = s.fresh := rfl
@[simp] theorem State.setMe_now (t : Thread) : (s.setMe t).now = s.now := rfl
@[simp] theorem State.setMe_mem (t : Thread) : (s.setMe t).mem = s.mem := rfl
@[simp] theorem State.setMe_clusters (t : Thread) : (s.setMe t).clusters = s.clusters := rfl
@[simp] theorem State.setMe_cores (t : Thread) : (s.setMe t).cores = s.cores := rfl
@[simp] theorem State.setMe_dram (t : Thread) : (s.setMe t).dram = s.dram := rfl
@[simp] theorem State.setMe_hqueue (t : Thread) : (s.setMe t).hqueue = s.hqueue := rfl
@[simp] theorem State.setMe_jobs (t : Thread) : (s.setMe t).jobs = s.jobs := rfl
@[simp] theorem State.setMe_queries (t : Thread) : (s.setMe t).queries = s.queries := rfl
@[simp] theorem State.setMe_net (t : Thread) : (s.setMe t).net = s.net := rfl
@[simp] theorem State.setMe_gangs (t : Thread) : (s.setMe t).gangs = s.gangs := rfl
@[simp] theorem State.setMe_tasks (t : Thread) : (s.setMe t).tasks = s.tasks := rfl
@[simp] theorem State.setMe_accno (t : Thread) : (s.setMe t).accno = s.accno := rfl
@[simp] theorem State.setMe_dies (t : Thread) : (s.setMe t).dies = s.dies := rfl
@[simp] theorem State.setMe_parts (t : Thread) : (s.setMe t).parts = s.parts := rfl
@[simp] theorem State.setMe_vers (t : Thread) : (s.setMe t).vers = s.vers := rfl
@[simp] theorem State.setMe_gone (t : Thread) : (s.setMe t).gone = s.gone := rfl
@[simp] theorem State.setMe_groups (t : Thread) : (s.setMe t).groups = s.groups := rfl
@[simp] theorem State.setMe_ctrl (t : Thread) : (s.setMe t).ctrl = s.ctrl := rfl
@[simp] theorem State.setMe_inbox (t : Thread) : (s.setMe t).inbox = s.inbox := rfl
@[simp] theorem State.setMe_outbox (t : Thread) : (s.setMe t).outbox = s.outbox := rfl

/-! ## `State.ws` -/

@[simp] theorem State.ws_agenda (n : Reg) (w : Word) : (s.ws n w).agenda = s.agenda := rfl
@[simp] theorem State.ws_cur (n : Reg) (w : Word) : (s.ws n w).cur = s.cur := rfl
@[simp] theorem State.ws_arg (n : Reg) (w : Word) : (s.ws n w).arg = s.arg := rfl
@[simp] theorem State.ws_rr (n : Reg) (w : Word) : (s.ws n w).rr = s.rr := rfl
@[simp] theorem State.ws_fresh (n : Reg) (w : Word) : (s.ws n w).fresh = s.fresh := rfl
@[simp] theorem State.ws_now (n : Reg) (w : Word) : (s.ws n w).now = s.now := rfl
@[simp] theorem State.ws_mem (n : Reg) (w : Word) : (s.ws n w).mem = s.mem := rfl
@[simp] theorem State.ws_clusters (n : Reg) (w : Word) : (s.ws n w).clusters = s.clusters := rfl
@[simp] theorem State.ws_cores (n : Reg) (w : Word) : (s.ws n w).cores = s.cores := rfl
@[simp] theorem State.ws_dram (n : Reg) (w : Word) : (s.ws n w).dram = s.dram := rfl
@[simp] theorem State.ws_hqueue (n : Reg) (w : Word) : (s.ws n w).hqueue = s.hqueue := rfl
@[simp] theorem State.ws_jobs (n : Reg) (w : Word) : (s.ws n w).jobs = s.jobs := rfl
@[simp] theorem State.ws_queries (n : Reg) (w : Word) : (s.ws n w).queries = s.queries := rfl
@[simp] theorem State.ws_net (n : Reg) (w : Word) : (s.ws n w).net = s.net := rfl
@[simp] theorem State.ws_gangs (n : Reg) (w : Word) : (s.ws n w).gangs = s.gangs := rfl
@[simp] theorem State.ws_tasks (n : Reg) (w : Word) : (s.ws n w).tasks = s.tasks := rfl
@[simp] theorem State.ws_accno (n : Reg) (w : Word) : (s.ws n w).accno = s.accno := rfl
@[simp] theorem State.ws_dies (n : Reg) (w : Word) : (s.ws n w).dies = s.dies := rfl
@[simp] theorem State.ws_parts (n : Reg) (w : Word) : (s.ws n w).parts = s.parts := rfl
@[simp] theorem State.ws_vers (n : Reg) (w : Word) : (s.ws n w).vers = s.vers := rfl
@[simp] theorem State.ws_gone (n : Reg) (w : Word) : (s.ws n w).gone = s.gone := rfl
@[simp] theorem State.ws_groups (n : Reg) (w : Word) : (s.ws n w).groups = s.groups := rfl
@[simp] theorem State.ws_ctrl (n : Reg) (w : Word) : (s.ws n w).ctrl = s.ctrl := rfl
@[simp] theorem State.ws_inbox (n : Reg) (w : Word) : (s.ws n w).inbox = s.inbox := rfl
@[simp] theorem State.ws_outbox (n : Reg) (w : Word) : (s.ws n w).outbox = s.outbox := rfl

/-! ## `State.setRegs` -/

@[simp] theorem State.setRegs_agenda (r : Regs) : (s.setRegs r).agenda = s.agenda := rfl
@[simp] theorem State.setRegs_cur (r : Regs) : (s.setRegs r).cur = s.cur := rfl
@[simp] theorem State.setRegs_arg (r : Regs) : (s.setRegs r).arg = s.arg := rfl
@[simp] theorem State.setRegs_rr (r : Regs) : (s.setRegs r).rr = s.rr := rfl
@[simp] theorem State.setRegs_fresh (r : Regs) : (s.setRegs r).fresh = s.fresh := rfl
@[simp] theorem State.setRegs_now (r : Regs) : (s.setRegs r).now = s.now := rfl
@[simp] theorem State.setRegs_mem (r : Regs) : (s.setRegs r).mem = s.mem := rfl
@[simp] theorem State.setRegs_clusters (r : Regs) : (s.setRegs r).clusters = s.clusters := rfl
@[simp] theorem State.setRegs_cores (r : Regs) : (s.setRegs r).cores = s.cores := rfl
@[simp] theorem State.setRegs_dram (r : Regs) : (s.setRegs r).dram = s.dram := rfl
@[simp] theorem State.setRegs_hqueue (r : Regs) : (s.setRegs r).hqueue = s.hqueue := rfl
@[simp] theorem State.setRegs_jobs (r : Regs) : (s.setRegs r).jobs = s.jobs := rfl
@[simp] theorem State.setRegs_queries (r : Regs) : (s.setRegs r).queries = s.queries := rfl
@[simp] theorem State.setRegs_net (r : Regs) : (s.setRegs r).net = s.net := rfl
@[simp] theorem State.setRegs_gangs (r : Regs) : (s.setRegs r).gangs = s.gangs := rfl
@[simp] theorem State.setRegs_tasks (r : Regs) : (s.setRegs r).tasks = s.tasks := rfl
@[simp] theorem State.setRegs_accno (r : Regs) : (s.setRegs r).accno = s.accno := rfl
@[simp] theorem State.setRegs_dies (r : Regs) : (s.setRegs r).dies = s.dies := rfl
@[simp] theorem State.setRegs_parts (r : Regs) : (s.setRegs r).parts = s.parts := rfl
@[simp] theorem State.setRegs_vers (r : Regs) : (s.setRegs r).vers = s.vers := rfl
@[simp] theorem State.setRegs_gone (r : Regs) : (s.setRegs r).gone = s.gone := rfl
@[simp] theorem State.setRegs_groups (r : Regs) : (s.setRegs r).groups = s.groups := rfl
@[simp] theorem State.setRegs_ctrl (r : Regs) : (s.setRegs r).ctrl = s.ctrl := rfl
@[simp] theorem State.setRegs_inbox (r : Regs) : (s.setRegs r).inbox = s.inbox := rfl
@[simp] theorem State.setRegs_outbox (r : Regs) : (s.setRegs r).outbox = s.outbox := rfl

/-! ## `State.setCluster` -/

@[simp] theorem State.setCluster_agenda (c : Nat) (x : Cluster) : (s.setCluster c x).agenda = s.agenda := rfl
@[simp] theorem State.setCluster_cur (c : Nat) (x : Cluster) : (s.setCluster c x).cur = s.cur := rfl
@[simp] theorem State.setCluster_arg (c : Nat) (x : Cluster) : (s.setCluster c x).arg = s.arg := rfl
@[simp] theorem State.setCluster_rr (c : Nat) (x : Cluster) : (s.setCluster c x).rr = s.rr := rfl
@[simp] theorem State.setCluster_fresh (c : Nat) (x : Cluster) : (s.setCluster c x).fresh = s.fresh := rfl
@[simp] theorem State.setCluster_now (c : Nat) (x : Cluster) : (s.setCluster c x).now = s.now := rfl
@[simp] theorem State.setCluster_mem (c : Nat) (x : Cluster) : (s.setCluster c x).mem = s.mem := rfl
@[simp] theorem State.setCluster_threads (c : Nat) (x : Cluster) : (s.setCluster c x).threads = s.threads := rfl
@[simp] theorem State.setCluster_cores (c : Nat) (x : Cluster) : (s.setCluster c x).cores = s.cores := rfl
@[simp] theorem State.setCluster_dram (c : Nat) (x : Cluster) : (s.setCluster c x).dram = s.dram := rfl
@[simp] theorem State.setCluster_hqueue (c : Nat) (x : Cluster) : (s.setCluster c x).hqueue = s.hqueue := rfl
@[simp] theorem State.setCluster_jobs (c : Nat) (x : Cluster) : (s.setCluster c x).jobs = s.jobs := rfl
@[simp] theorem State.setCluster_queries (c : Nat) (x : Cluster) : (s.setCluster c x).queries = s.queries := rfl
@[simp] theorem State.setCluster_net (c : Nat) (x : Cluster) : (s.setCluster c x).net = s.net := rfl
@[simp] theorem State.setCluster_gangs (c : Nat) (x : Cluster) : (s.setCluster c x).gangs = s.gangs := rfl
@[simp] theorem State.setCluster_tasks (c : Nat) (x : Cluster) : (s.setCluster c x).tasks = s.tasks := rfl
@[simp] theorem State.setCluster_accno (c : Nat) (x : Cluster) : (s.setCluster c x).accno = s.accno := rfl
@[simp] theorem State.setCluster_dies (c : Nat) (x : Cluster) : (s.setCluster c x).dies = s.dies := rfl
@[simp] theorem State.setCluster_parts (c : Nat) (x : Cluster) : (s.setCluster c x).parts = s.parts := rfl
@[simp] theorem State.setCluster_vers (c : Nat) (x : Cluster) : (s.setCluster c x).vers = s.vers := rfl
@[simp] theorem State.setCluster_gone (c : Nat) (x : Cluster) : (s.setCluster c x).gone = s.gone := rfl
@[simp] theorem State.setCluster_groups (c : Nat) (x : Cluster) : (s.setCluster c x).groups = s.groups := rfl
@[simp] theorem State.setCluster_ctrl (c : Nat) (x : Cluster) : (s.setCluster c x).ctrl = s.ctrl := rfl
@[simp] theorem State.setCluster_inbox (c : Nat) (x : Cluster) : (s.setCluster c x).inbox = s.inbox := rfl
@[simp] theorem State.setCluster_outbox (c : Nat) (x : Cluster) : (s.setCluster c x).outbox = s.outbox := rfl

/-! ## `State.setCore` -/

@[simp] theorem State.setCore_agenda (k : Nat) (x : Core) : (s.setCore k x).agenda = s.agenda := rfl
@[simp] theorem State.setCore_cur (k : Nat) (x : Core) : (s.setCore k x).cur = s.cur := rfl
@[simp] theorem State.setCore_arg (k : Nat) (x : Core) : (s.setCore k x).arg = s.arg := rfl
@[simp] theorem State.setCore_rr (k : Nat) (x : Core) : (s.setCore k x).rr = s.rr := rfl
@[simp] theorem State.setCore_fresh (k : Nat) (x : Core) : (s.setCore k x).fresh = s.fresh := rfl
@[simp] theorem State.setCore_now (k : Nat) (x : Core) : (s.setCore k x).now = s.now := rfl
@[simp] theorem State.setCore_mem (k : Nat) (x : Core) : (s.setCore k x).mem = s.mem := rfl
@[simp] theorem State.setCore_threads (k : Nat) (x : Core) : (s.setCore k x).threads = s.threads := rfl
@[simp] theorem State.setCore_clusters (k : Nat) (x : Core) : (s.setCore k x).clusters = s.clusters := rfl
@[simp] theorem State.setCore_dram (k : Nat) (x : Core) : (s.setCore k x).dram = s.dram := rfl
@[simp] theorem State.setCore_hqueue (k : Nat) (x : Core) : (s.setCore k x).hqueue = s.hqueue := rfl
@[simp] theorem State.setCore_jobs (k : Nat) (x : Core) : (s.setCore k x).jobs = s.jobs := rfl
@[simp] theorem State.setCore_queries (k : Nat) (x : Core) : (s.setCore k x).queries = s.queries := rfl
@[simp] theorem State.setCore_net (k : Nat) (x : Core) : (s.setCore k x).net = s.net := rfl
@[simp] theorem State.setCore_gangs (k : Nat) (x : Core) : (s.setCore k x).gangs = s.gangs := rfl
@[simp] theorem State.setCore_tasks (k : Nat) (x : Core) : (s.setCore k x).tasks = s.tasks := rfl
@[simp] theorem State.setCore_accno (k : Nat) (x : Core) : (s.setCore k x).accno = s.accno := rfl
@[simp] theorem State.setCore_dies (k : Nat) (x : Core) : (s.setCore k x).dies = s.dies := rfl
@[simp] theorem State.setCore_parts (k : Nat) (x : Core) : (s.setCore k x).parts = s.parts := rfl
@[simp] theorem State.setCore_vers (k : Nat) (x : Core) : (s.setCore k x).vers = s.vers := rfl
@[simp] theorem State.setCore_gone (k : Nat) (x : Core) : (s.setCore k x).gone = s.gone := rfl
@[simp] theorem State.setCore_groups (k : Nat) (x : Core) : (s.setCore k x).groups = s.groups := rfl
@[simp] theorem State.setCore_ctrl (k : Nat) (x : Core) : (s.setCore k x).ctrl = s.ctrl := rfl
@[simp] theorem State.setCore_inbox (k : Nat) (x : Core) : (s.setCore k x).inbox = s.inbox := rfl
@[simp] theorem State.setCore_outbox (k : Nat) (x : Core) : (s.setCore k x).outbox = s.outbox := rfl

/-! ## `State.setStack` -/

@[simp] theorem State.setStack_agenda (k : Nat) (x : Stack) : (s.setStack k x).agenda = s.agenda := rfl
@[simp] theorem State.setStack_cur (k : Nat) (x : Stack) : (s.setStack k x).cur = s.cur := rfl
@[simp] theorem State.setStack_arg (k : Nat) (x : Stack) : (s.setStack k x).arg = s.arg := rfl
@[simp] theorem State.setStack_rr (k : Nat) (x : Stack) : (s.setStack k x).rr = s.rr := rfl
@[simp] theorem State.setStack_fresh (k : Nat) (x : Stack) : (s.setStack k x).fresh = s.fresh := rfl
@[simp] theorem State.setStack_now (k : Nat) (x : Stack) : (s.setStack k x).now = s.now := rfl
@[simp] theorem State.setStack_mem (k : Nat) (x : Stack) : (s.setStack k x).mem = s.mem := rfl
@[simp] theorem State.setStack_threads (k : Nat) (x : Stack) : (s.setStack k x).threads = s.threads := rfl
@[simp] theorem State.setStack_clusters (k : Nat) (x : Stack) : (s.setStack k x).clusters = s.clusters := rfl
@[simp] theorem State.setStack_cores (k : Nat) (x : Stack) : (s.setStack k x).cores = s.cores := rfl
@[simp] theorem State.setStack_hqueue (k : Nat) (x : Stack) : (s.setStack k x).hqueue = s.hqueue := rfl
@[simp] theorem State.setStack_jobs (k : Nat) (x : Stack) : (s.setStack k x).jobs = s.jobs := rfl
@[simp] theorem State.setStack_queries (k : Nat) (x : Stack) : (s.setStack k x).queries = s.queries := rfl
@[simp] theorem State.setStack_net (k : Nat) (x : Stack) : (s.setStack k x).net = s.net := rfl
@[simp] theorem State.setStack_gangs (k : Nat) (x : Stack) : (s.setStack k x).gangs = s.gangs := rfl
@[simp] theorem State.setStack_tasks (k : Nat) (x : Stack) : (s.setStack k x).tasks = s.tasks := rfl
@[simp] theorem State.setStack_accno (k : Nat) (x : Stack) : (s.setStack k x).accno = s.accno := rfl
@[simp] theorem State.setStack_dies (k : Nat) (x : Stack) : (s.setStack k x).dies = s.dies := rfl
@[simp] theorem State.setStack_parts (k : Nat) (x : Stack) : (s.setStack k x).parts = s.parts := rfl
@[simp] theorem State.setStack_vers (k : Nat) (x : Stack) : (s.setStack k x).vers = s.vers := rfl
@[simp] theorem State.setStack_gone (k : Nat) (x : Stack) : (s.setStack k x).gone = s.gone := rfl
@[simp] theorem State.setStack_groups (k : Nat) (x : Stack) : (s.setStack k x).groups = s.groups := rfl
@[simp] theorem State.setStack_ctrl (k : Nat) (x : Stack) : (s.setStack k x).ctrl = s.ctrl := rfl
@[simp] theorem State.setStack_inbox (k : Nat) (x : Stack) : (s.setStack k x).inbox = s.inbox := rfl
@[simp] theorem State.setStack_outbox (k : Nat) (x : Stack) : (s.setStack k x).outbox = s.outbox := rfl

/-! ## `State.setDie` -/

@[simp] theorem State.setDie_agenda (k : Nat) (x : Die) : (s.setDie k x).agenda = s.agenda := rfl
@[simp] theorem State.setDie_cur (k : Nat) (x : Die) : (s.setDie k x).cur = s.cur := rfl
@[simp] theorem State.setDie_arg (k : Nat) (x : Die) : (s.setDie k x).arg = s.arg := rfl
@[simp] theorem State.setDie_rr (k : Nat) (x : Die) : (s.setDie k x).rr = s.rr := rfl
@[simp] theorem State.setDie_fresh (k : Nat) (x : Die) : (s.setDie k x).fresh = s.fresh := rfl
@[simp] theorem State.setDie_now (k : Nat) (x : Die) : (s.setDie k x).now = s.now := rfl
@[simp] theorem State.setDie_mem (k : Nat) (x : Die) : (s.setDie k x).mem = s.mem := rfl
@[simp] theorem State.setDie_threads (k : Nat) (x : Die) : (s.setDie k x).threads = s.threads := rfl
@[simp] theorem State.setDie_clusters (k : Nat) (x : Die) : (s.setDie k x).clusters = s.clusters := rfl
@[simp] theorem State.setDie_cores (k : Nat) (x : Die) : (s.setDie k x).cores = s.cores := rfl
@[simp] theorem State.setDie_dram (k : Nat) (x : Die) : (s.setDie k x).dram = s.dram := rfl
@[simp] theorem State.setDie_hqueue (k : Nat) (x : Die) : (s.setDie k x).hqueue = s.hqueue := rfl
@[simp] theorem State.setDie_jobs (k : Nat) (x : Die) : (s.setDie k x).jobs = s.jobs := rfl
@[simp] theorem State.setDie_queries (k : Nat) (x : Die) : (s.setDie k x).queries = s.queries := rfl
@[simp] theorem State.setDie_net (k : Nat) (x : Die) : (s.setDie k x).net = s.net := rfl
@[simp] theorem State.setDie_gangs (k : Nat) (x : Die) : (s.setDie k x).gangs = s.gangs := rfl
@[simp] theorem State.setDie_tasks (k : Nat) (x : Die) : (s.setDie k x).tasks = s.tasks := rfl
@[simp] theorem State.setDie_accno (k : Nat) (x : Die) : (s.setDie k x).accno = s.accno := rfl
@[simp] theorem State.setDie_parts (k : Nat) (x : Die) : (s.setDie k x).parts = s.parts := rfl
@[simp] theorem State.setDie_vers (k : Nat) (x : Die) : (s.setDie k x).vers = s.vers := rfl
@[simp] theorem State.setDie_gone (k : Nat) (x : Die) : (s.setDie k x).gone = s.gone := rfl
@[simp] theorem State.setDie_groups (k : Nat) (x : Die) : (s.setDie k x).groups = s.groups := rfl
@[simp] theorem State.setDie_ctrl (k : Nat) (x : Die) : (s.setDie k x).ctrl = s.ctrl := rfl
@[simp] theorem State.setDie_inbox (k : Nat) (x : Die) : (s.setDie k x).inbox = s.inbox := rfl
@[simp] theorem State.setDie_outbox (k : Nat) (x : Die) : (s.setDie k x).outbox = s.outbox := rfl

/-! ## `State.setPart` -/

@[simp] theorem State.setPart_agenda (k : Nat) (x : Part) : (s.setPart k x).agenda = s.agenda := rfl
@[simp] theorem State.setPart_cur (k : Nat) (x : Part) : (s.setPart k x).cur = s.cur := rfl
@[simp] theorem State.setPart_arg (k : Nat) (x : Part) : (s.setPart k x).arg = s.arg := rfl
@[simp] theorem State.setPart_rr (k : Nat) (x : Part) : (s.setPart k x).rr = s.rr := rfl
@[simp] theorem State.setPart_fresh (k : Nat) (x : Part) : (s.setPart k x).fresh = s.fresh := rfl
@[simp] theorem State.setPart_now (k : Nat) (x : Part) : (s.setPart k x).now = s.now := rfl
@[simp] theorem State.setPart_mem (k : Nat) (x : Part) : (s.setPart k x).mem = s.mem := rfl
@[simp] theorem State.setPart_threads (k : Nat) (x : Part) : (s.setPart k x).threads = s.threads := rfl
@[simp] theorem State.setPart_clusters (k : Nat) (x : Part) : (s.setPart k x).clusters = s.clusters := rfl
@[simp] theorem State.setPart_cores (k : Nat) (x : Part) : (s.setPart k x).cores = s.cores := rfl
@[simp] theorem State.setPart_dram (k : Nat) (x : Part) : (s.setPart k x).dram = s.dram := rfl
@[simp] theorem State.setPart_hqueue (k : Nat) (x : Part) : (s.setPart k x).hqueue = s.hqueue := rfl
@[simp] theorem State.setPart_jobs (k : Nat) (x : Part) : (s.setPart k x).jobs = s.jobs := rfl
@[simp] theorem State.setPart_queries (k : Nat) (x : Part) : (s.setPart k x).queries = s.queries := rfl
@[simp] theorem State.setPart_net (k : Nat) (x : Part) : (s.setPart k x).net = s.net := rfl
@[simp] theorem State.setPart_gangs (k : Nat) (x : Part) : (s.setPart k x).gangs = s.gangs := rfl
@[simp] theorem State.setPart_tasks (k : Nat) (x : Part) : (s.setPart k x).tasks = s.tasks := rfl
@[simp] theorem State.setPart_accno (k : Nat) (x : Part) : (s.setPart k x).accno = s.accno := rfl
@[simp] theorem State.setPart_dies (k : Nat) (x : Part) : (s.setPart k x).dies = s.dies := rfl
@[simp] theorem State.setPart_vers (k : Nat) (x : Part) : (s.setPart k x).vers = s.vers := rfl
@[simp] theorem State.setPart_gone (k : Nat) (x : Part) : (s.setPart k x).gone = s.gone := rfl
@[simp] theorem State.setPart_groups (k : Nat) (x : Part) : (s.setPart k x).groups = s.groups := rfl
@[simp] theorem State.setPart_ctrl (k : Nat) (x : Part) : (s.setPart k x).ctrl = s.ctrl := rfl
@[simp] theorem State.setPart_inbox (k : Nat) (x : Part) : (s.setPart k x).inbox = s.inbox := rfl
@[simp] theorem State.setPart_outbox (k : Nat) (x : Part) : (s.setPart k x).outbox = s.outbox := rfl

/-! ## `State.setJob` -/

@[simp] theorem State.setJob_agenda (h : Hart) (j : Option Job) : (s.setJob h j).agenda = s.agenda := rfl
@[simp] theorem State.setJob_cur (h : Hart) (j : Option Job) : (s.setJob h j).cur = s.cur := rfl
@[simp] theorem State.setJob_arg (h : Hart) (j : Option Job) : (s.setJob h j).arg = s.arg := rfl
@[simp] theorem State.setJob_rr (h : Hart) (j : Option Job) : (s.setJob h j).rr = s.rr := rfl
@[simp] theorem State.setJob_fresh (h : Hart) (j : Option Job) : (s.setJob h j).fresh = s.fresh := rfl
@[simp] theorem State.setJob_now (h : Hart) (j : Option Job) : (s.setJob h j).now = s.now := rfl
@[simp] theorem State.setJob_mem (h : Hart) (j : Option Job) : (s.setJob h j).mem = s.mem := rfl
@[simp] theorem State.setJob_threads (h : Hart) (j : Option Job) : (s.setJob h j).threads = s.threads := rfl
@[simp] theorem State.setJob_clusters (h : Hart) (j : Option Job) : (s.setJob h j).clusters = s.clusters := rfl
@[simp] theorem State.setJob_cores (h : Hart) (j : Option Job) : (s.setJob h j).cores = s.cores := rfl
@[simp] theorem State.setJob_dram (h : Hart) (j : Option Job) : (s.setJob h j).dram = s.dram := rfl
@[simp] theorem State.setJob_hqueue (h : Hart) (j : Option Job) : (s.setJob h j).hqueue = s.hqueue := rfl
@[simp] theorem State.setJob_queries (h : Hart) (j : Option Job) : (s.setJob h j).queries = s.queries := rfl
@[simp] theorem State.setJob_net (h : Hart) (j : Option Job) : (s.setJob h j).net = s.net := rfl
@[simp] theorem State.setJob_gangs (h : Hart) (j : Option Job) : (s.setJob h j).gangs = s.gangs := rfl
@[simp] theorem State.setJob_tasks (h : Hart) (j : Option Job) : (s.setJob h j).tasks = s.tasks := rfl
@[simp] theorem State.setJob_accno (h : Hart) (j : Option Job) : (s.setJob h j).accno = s.accno := rfl
@[simp] theorem State.setJob_dies (h : Hart) (j : Option Job) : (s.setJob h j).dies = s.dies := rfl
@[simp] theorem State.setJob_parts (h : Hart) (j : Option Job) : (s.setJob h j).parts = s.parts := rfl
@[simp] theorem State.setJob_vers (h : Hart) (j : Option Job) : (s.setJob h j).vers = s.vers := rfl
@[simp] theorem State.setJob_gone (h : Hart) (j : Option Job) : (s.setJob h j).gone = s.gone := rfl
@[simp] theorem State.setJob_groups (h : Hart) (j : Option Job) : (s.setJob h j).groups = s.groups := rfl
@[simp] theorem State.setJob_ctrl (h : Hart) (j : Option Job) : (s.setJob h j).ctrl = s.ctrl := rfl
@[simp] theorem State.setJob_inbox (h : Hart) (j : Option Job) : (s.setJob h j).inbox = s.inbox := rfl
@[simp] theorem State.setJob_outbox (h : Hart) (j : Option Job) : (s.setJob h j).outbox = s.outbox := rfl

/-! ## `State.setGang` -/

@[simp] theorem State.setGang_agenda (g : Nat) (x : Option Gang) : (s.setGang g x).agenda = s.agenda := rfl
@[simp] theorem State.setGang_cur (g : Nat) (x : Option Gang) : (s.setGang g x).cur = s.cur := rfl
@[simp] theorem State.setGang_arg (g : Nat) (x : Option Gang) : (s.setGang g x).arg = s.arg := rfl
@[simp] theorem State.setGang_rr (g : Nat) (x : Option Gang) : (s.setGang g x).rr = s.rr := rfl
@[simp] theorem State.setGang_fresh (g : Nat) (x : Option Gang) : (s.setGang g x).fresh = s.fresh := rfl
@[simp] theorem State.setGang_now (g : Nat) (x : Option Gang) : (s.setGang g x).now = s.now := rfl
@[simp] theorem State.setGang_mem (g : Nat) (x : Option Gang) : (s.setGang g x).mem = s.mem := rfl
@[simp] theorem State.setGang_threads (g : Nat) (x : Option Gang) : (s.setGang g x).threads = s.threads := rfl
@[simp] theorem State.setGang_clusters (g : Nat) (x : Option Gang) : (s.setGang g x).clusters = s.clusters := rfl
@[simp] theorem State.setGang_cores (g : Nat) (x : Option Gang) : (s.setGang g x).cores = s.cores := rfl
@[simp] theorem State.setGang_dram (g : Nat) (x : Option Gang) : (s.setGang g x).dram = s.dram := rfl
@[simp] theorem State.setGang_hqueue (g : Nat) (x : Option Gang) : (s.setGang g x).hqueue = s.hqueue := rfl
@[simp] theorem State.setGang_jobs (g : Nat) (x : Option Gang) : (s.setGang g x).jobs = s.jobs := rfl
@[simp] theorem State.setGang_queries (g : Nat) (x : Option Gang) : (s.setGang g x).queries = s.queries := rfl
@[simp] theorem State.setGang_net (g : Nat) (x : Option Gang) : (s.setGang g x).net = s.net := rfl
@[simp] theorem State.setGang_tasks (g : Nat) (x : Option Gang) : (s.setGang g x).tasks = s.tasks := rfl
@[simp] theorem State.setGang_accno (g : Nat) (x : Option Gang) : (s.setGang g x).accno = s.accno := rfl
@[simp] theorem State.setGang_dies (g : Nat) (x : Option Gang) : (s.setGang g x).dies = s.dies := rfl
@[simp] theorem State.setGang_parts (g : Nat) (x : Option Gang) : (s.setGang g x).parts = s.parts := rfl
@[simp] theorem State.setGang_vers (g : Nat) (x : Option Gang) : (s.setGang g x).vers = s.vers := rfl
@[simp] theorem State.setGang_gone (g : Nat) (x : Option Gang) : (s.setGang g x).gone = s.gone := rfl
@[simp] theorem State.setGang_groups (g : Nat) (x : Option Gang) : (s.setGang g x).groups = s.groups := rfl
@[simp] theorem State.setGang_ctrl (g : Nat) (x : Option Gang) : (s.setGang g x).ctrl = s.ctrl := rfl
@[simp] theorem State.setGang_inbox (g : Nat) (x : Option Gang) : (s.setGang g x).inbox = s.inbox := rfl
@[simp] theorem State.setGang_outbox (g : Nat) (x : Option Gang) : (s.setGang g x).outbox = s.outbox := rfl

/-! ## `State.setGroup` -/

@[simp] theorem State.setGroup_agenda (k : Nat) (x : Group) : (s.setGroup k x).agenda = s.agenda := rfl
@[simp] theorem State.setGroup_cur (k : Nat) (x : Group) : (s.setGroup k x).cur = s.cur := rfl
@[simp] theorem State.setGroup_arg (k : Nat) (x : Group) : (s.setGroup k x).arg = s.arg := rfl
@[simp] theorem State.setGroup_rr (k : Nat) (x : Group) : (s.setGroup k x).rr = s.rr := rfl
@[simp] theorem State.setGroup_fresh (k : Nat) (x : Group) : (s.setGroup k x).fresh = s.fresh := rfl
@[simp] theorem State.setGroup_now (k : Nat) (x : Group) : (s.setGroup k x).now = s.now := rfl
@[simp] theorem State.setGroup_mem (k : Nat) (x : Group) : (s.setGroup k x).mem = s.mem := rfl
@[simp] theorem State.setGroup_threads (k : Nat) (x : Group) : (s.setGroup k x).threads = s.threads := rfl
@[simp] theorem State.setGroup_clusters (k : Nat) (x : Group) : (s.setGroup k x).clusters = s.clusters := rfl
@[simp] theorem State.setGroup_cores (k : Nat) (x : Group) : (s.setGroup k x).cores = s.cores := rfl
@[simp] theorem State.setGroup_dram (k : Nat) (x : Group) : (s.setGroup k x).dram = s.dram := rfl
@[simp] theorem State.setGroup_hqueue (k : Nat) (x : Group) : (s.setGroup k x).hqueue = s.hqueue := rfl
@[simp] theorem State.setGroup_jobs (k : Nat) (x : Group) : (s.setGroup k x).jobs = s.jobs := rfl
@[simp] theorem State.setGroup_queries (k : Nat) (x : Group) : (s.setGroup k x).queries = s.queries := rfl
@[simp] theorem State.setGroup_net (k : Nat) (x : Group) : (s.setGroup k x).net = s.net := rfl
@[simp] theorem State.setGroup_gangs (k : Nat) (x : Group) : (s.setGroup k x).gangs = s.gangs := rfl
@[simp] theorem State.setGroup_tasks (k : Nat) (x : Group) : (s.setGroup k x).tasks = s.tasks := rfl
@[simp] theorem State.setGroup_accno (k : Nat) (x : Group) : (s.setGroup k x).accno = s.accno := rfl
@[simp] theorem State.setGroup_dies (k : Nat) (x : Group) : (s.setGroup k x).dies = s.dies := rfl
@[simp] theorem State.setGroup_parts (k : Nat) (x : Group) : (s.setGroup k x).parts = s.parts := rfl
@[simp] theorem State.setGroup_vers (k : Nat) (x : Group) : (s.setGroup k x).vers = s.vers := rfl
@[simp] theorem State.setGroup_gone (k : Nat) (x : Group) : (s.setGroup k x).gone = s.gone := rfl
@[simp] theorem State.setGroup_ctrl (k : Nat) (x : Group) : (s.setGroup k x).ctrl = s.ctrl := rfl
@[simp] theorem State.setGroup_inbox (k : Nat) (x : Group) : (s.setGroup k x).inbox = s.inbox := rfl
@[simp] theorem State.setGroup_outbox (k : Nat) (x : Group) : (s.setGroup k x).outbox = s.outbox := rfl

/-! ## `State.setVslots` -/

@[simp] theorem State.setVslots_agenda (k : Nat) (l : List VSlot) : (s.setVslots k l).agenda = s.agenda := rfl
@[simp] theorem State.setVslots_gone (k : Nat) (l : List VSlot) : (s.setVslots k l).gone = s.gone := rfl
@[simp] theorem State.setVslots_cur (k : Nat) (l : List VSlot) : (s.setVslots k l).cur = s.cur := rfl
@[simp] theorem State.setVslots_arg (k : Nat) (l : List VSlot) : (s.setVslots k l).arg = s.arg := rfl
@[simp] theorem State.setVslots_rr (k : Nat) (l : List VSlot) : (s.setVslots k l).rr = s.rr := rfl
@[simp] theorem State.setVslots_fresh (k : Nat) (l : List VSlot) : (s.setVslots k l).fresh = s.fresh := rfl
@[simp] theorem State.setVslots_now (k : Nat) (l : List VSlot) : (s.setVslots k l).now = s.now := rfl
@[simp] theorem State.setVslots_mem (k : Nat) (l : List VSlot) : (s.setVslots k l).mem = s.mem := rfl
@[simp] theorem State.setVslots_threads (k : Nat) (l : List VSlot) : (s.setVslots k l).threads = s.threads := rfl
@[simp] theorem State.setVslots_clusters (k : Nat) (l : List VSlot) : (s.setVslots k l).clusters = s.clusters := rfl
@[simp] theorem State.setVslots_cores (k : Nat) (l : List VSlot) : (s.setVslots k l).cores = s.cores := rfl
@[simp] theorem State.setVslots_dram (k : Nat) (l : List VSlot) : (s.setVslots k l).dram = s.dram := rfl
@[simp] theorem State.setVslots_hqueue (k : Nat) (l : List VSlot) : (s.setVslots k l).hqueue = s.hqueue := rfl
@[simp] theorem State.setVslots_jobs (k : Nat) (l : List VSlot) : (s.setVslots k l).jobs = s.jobs := rfl
@[simp] theorem State.setVslots_queries (k : Nat) (l : List VSlot) : (s.setVslots k l).queries = s.queries := rfl
@[simp] theorem State.setVslots_net (k : Nat) (l : List VSlot) : (s.setVslots k l).net = s.net := rfl
@[simp] theorem State.setVslots_gangs (k : Nat) (l : List VSlot) : (s.setVslots k l).gangs = s.gangs := rfl
@[simp] theorem State.setVslots_tasks (k : Nat) (l : List VSlot) : (s.setVslots k l).tasks = s.tasks := rfl
@[simp] theorem State.setVslots_accno (k : Nat) (l : List VSlot) : (s.setVslots k l).accno = s.accno := rfl
@[simp] theorem State.setVslots_dies (k : Nat) (l : List VSlot) : (s.setVslots k l).dies = s.dies := rfl
@[simp] theorem State.setVslots_parts (k : Nat) (l : List VSlot) : (s.setVslots k l).parts = s.parts := rfl
@[simp] theorem State.setVslots_groups (k : Nat) (l : List VSlot) : (s.setVslots k l).groups = s.groups := rfl
@[simp] theorem State.setVslots_ctrl (k : Nat) (l : List VSlot) : (s.setVslots k l).ctrl = s.ctrl := rfl
@[simp] theorem State.setVslots_inbox (k : Nat) (l : List VSlot) : (s.setVslots k l).inbox = s.inbox := rfl
@[simp] theorem State.setVslots_outbox (k : Nat) (l : List VSlot) : (s.setVslots k l).outbox = s.outbox := rfl

/-! ## `State.setTask` -/

@[simp] theorem State.setTask_agenda (t : Task) : (s.setTask t).agenda = s.agenda := rfl
@[simp] theorem State.setTask_cur (t : Task) : (s.setTask t).cur = s.cur := rfl
@[simp] theorem State.setTask_arg (t : Task) : (s.setTask t).arg = s.arg := rfl
@[simp] theorem State.setTask_rr (t : Task) : (s.setTask t).rr = s.rr := rfl
@[simp] theorem State.setTask_fresh (t : Task) : (s.setTask t).fresh = s.fresh := rfl
@[simp] theorem State.setTask_now (t : Task) : (s.setTask t).now = s.now := rfl
@[simp] theorem State.setTask_mem (t : Task) : (s.setTask t).mem = s.mem := rfl
@[simp] theorem State.setTask_threads (t : Task) : (s.setTask t).threads = s.threads := rfl
@[simp] theorem State.setTask_clusters (t : Task) : (s.setTask t).clusters = s.clusters := rfl
@[simp] theorem State.setTask_cores (t : Task) : (s.setTask t).cores = s.cores := rfl
@[simp] theorem State.setTask_dram (t : Task) : (s.setTask t).dram = s.dram := rfl
@[simp] theorem State.setTask_hqueue (t : Task) : (s.setTask t).hqueue = s.hqueue := rfl
@[simp] theorem State.setTask_jobs (t : Task) : (s.setTask t).jobs = s.jobs := rfl
@[simp] theorem State.setTask_queries (t : Task) : (s.setTask t).queries = s.queries := rfl
@[simp] theorem State.setTask_net (t : Task) : (s.setTask t).net = s.net := rfl
@[simp] theorem State.setTask_gangs (t : Task) : (s.setTask t).gangs = s.gangs := rfl
@[simp] theorem State.setTask_accno (t : Task) : (s.setTask t).accno = s.accno := rfl
@[simp] theorem State.setTask_dies (t : Task) : (s.setTask t).dies = s.dies := rfl
@[simp] theorem State.setTask_parts (t : Task) : (s.setTask t).parts = s.parts := rfl
@[simp] theorem State.setTask_vers (t : Task) : (s.setTask t).vers = s.vers := rfl
@[simp] theorem State.setTask_gone (t : Task) : (s.setTask t).gone = s.gone := rfl
@[simp] theorem State.setTask_groups (t : Task) : (s.setTask t).groups = s.groups := rfl
@[simp] theorem State.setTask_ctrl (t : Task) : (s.setTask t).ctrl = s.ctrl := rfl
@[simp] theorem State.setTask_inbox (t : Task) : (s.setTask t).inbox = s.inbox := rfl
@[simp] theorem State.setTask_outbox (t : Task) : (s.setTask t).outbox = s.outbox := rfl

/-! ## Reading what was written -/

@[simp] theorem State.thread_setThread_self (k : Hart) (x : Thread) : (s.setThread k x).thread k = x := Tab.get_set_self _ _ _ _
theorem State.thread_setThread (k j : Hart) (x : Thread) : (s.setThread k x).thread j = if j = k then x else s.thread j := Tab.get_set _ _ _ _ _
@[simp] theorem State.cluster_setCluster_self (k : Nat) (x : Cluster) : (s.setCluster k x).cluster k = x := Tab.get_set_self _ _ _ _
theorem State.cluster_setCluster (k j : Nat) (x : Cluster) : (s.setCluster k x).cluster j = if j = k then x else s.cluster j := Tab.get_set _ _ _ _ _
@[simp] theorem State.core_setCore_self (k : Nat) (x : Core) : (s.setCore k x).core k = x := Tab.get_set_self _ _ _ _
theorem State.core_setCore (k j : Nat) (x : Core) : (s.setCore k x).core j = if j = k then x else s.core j := Tab.get_set _ _ _ _ _
@[simp] theorem State.stack_setStack_self (k : Nat) (x : Stack) : (s.setStack k x).stack k = x := Tab.get_set_self _ _ _ _
theorem State.stack_setStack (k j : Nat) (x : Stack) : (s.setStack k x).stack j = if j = k then x else s.stack j := Tab.get_set _ _ _ _ _
@[simp] theorem State.die_setDie_self (k : Nat) (x : Die) : (s.setDie k x).die k = x := Tab.get_set_self _ _ _ _
theorem State.die_setDie (k j : Nat) (x : Die) : (s.setDie k x).die j = if j = k then x else s.die j := Tab.get_set _ _ _ _ _
@[simp] theorem State.part_setPart_self (k : Nat) (x : Part) : (s.setPart k x).part k = x := Tab.get_set_self _ _ _ _
theorem State.part_setPart (k j : Nat) (x : Part) : (s.setPart k x).part j = if j = k then x else s.part j := Tab.get_set _ _ _ _ _
@[simp] theorem State.job_setJob_self (k : Hart) (x : Option Job) : (s.setJob k x).job k = x := Tab.get_set_self _ _ _ _
theorem State.job_setJob (k j : Hart) (x : Option Job) : (s.setJob k x).job j = if j = k then x else s.job j := Tab.get_set _ _ _ _ _
@[simp] theorem State.gang_setGang_self (k : Nat) (x : Option Gang) : (s.setGang k x).gang k = x := Tab.get_set_self _ _ _ _
theorem State.gang_setGang (k j : Nat) (x : Option Gang) : (s.setGang k x).gang j = if j = k then x else s.gang j := Tab.get_set _ _ _ _ _
@[simp] theorem State.group_setGroup_self (k : Nat) (x : Group) : (s.setGroup k x).group k = x := Tab.get_set_self _ _ _ _
theorem State.group_setGroup (k j : Nat) (x : Group) : (s.setGroup k x).group j = if j = k then x else s.group j := Tab.get_set _ _ _ _ _

/-! ## Accessors after the update of another table -/

@[simp] theorem State.cluster_after_setThread (h : Hart) (t : Thread) (i : Nat) : (s.setThread h t).cluster i = s.cluster i := rfl
@[simp] theorem State.core_after_setThread (h : Hart) (t : Thread) (i : Nat) : (s.setThread h t).core i = s.core i := rfl
@[simp] theorem State.stack_after_setThread (h : Hart) (t : Thread) (i : Nat) : (s.setThread h t).stack i = s.stack i := rfl
@[simp] theorem State.die_after_setThread (h : Hart) (t : Thread) (i : Nat) : (s.setThread h t).die i = s.die i := rfl
@[simp] theorem State.part_after_setThread (h : Hart) (t : Thread) (i : Nat) : (s.setThread h t).part i = s.part i := rfl
@[simp] theorem State.job_after_setThread (h : Hart) (t : Thread) (i : Hart) : (s.setThread h t).job i = s.job i := rfl
@[simp] theorem State.gang_after_setThread (h : Hart) (t : Thread) (i : Nat) : (s.setThread h t).gang i = s.gang i := rfl
@[simp] theorem State.group_after_setThread (h : Hart) (t : Thread) (i : Nat) : (s.setThread h t).group i = s.group i := rfl
@[simp] theorem State.cluster_after_setMe (t : Thread) (i : Nat) : (s.setMe t).cluster i = s.cluster i := rfl
@[simp] theorem State.core_after_setMe (t : Thread) (i : Nat) : (s.setMe t).core i = s.core i := rfl
@[simp] theorem State.stack_after_setMe (t : Thread) (i : Nat) : (s.setMe t).stack i = s.stack i := rfl
@[simp] theorem State.die_after_setMe (t : Thread) (i : Nat) : (s.setMe t).die i = s.die i := rfl
@[simp] theorem State.part_after_setMe (t : Thread) (i : Nat) : (s.setMe t).part i = s.part i := rfl
@[simp] theorem State.job_after_setMe (t : Thread) (i : Hart) : (s.setMe t).job i = s.job i := rfl
@[simp] theorem State.gang_after_setMe (t : Thread) (i : Nat) : (s.setMe t).gang i = s.gang i := rfl
@[simp] theorem State.group_after_setMe (t : Thread) (i : Nat) : (s.setMe t).group i = s.group i := rfl
@[simp] theorem State.cluster_after_ws (n : Reg) (w : Word) (i : Nat) : (s.ws n w).cluster i = s.cluster i := rfl
@[simp] theorem State.core_after_ws (n : Reg) (w : Word) (i : Nat) : (s.ws n w).core i = s.core i := rfl
@[simp] theorem State.stack_after_ws (n : Reg) (w : Word) (i : Nat) : (s.ws n w).stack i = s.stack i := rfl
@[simp] theorem State.die_after_ws (n : Reg) (w : Word) (i : Nat) : (s.ws n w).die i = s.die i := rfl
@[simp] theorem State.part_after_ws (n : Reg) (w : Word) (i : Nat) : (s.ws n w).part i = s.part i := rfl
@[simp] theorem State.job_after_ws (n : Reg) (w : Word) (i : Hart) : (s.ws n w).job i = s.job i := rfl
@[simp] theorem State.gang_after_ws (n : Reg) (w : Word) (i : Nat) : (s.ws n w).gang i = s.gang i := rfl
@[simp] theorem State.group_after_ws (n : Reg) (w : Word) (i : Nat) : (s.ws n w).group i = s.group i := rfl
@[simp] theorem State.cluster_after_setRegs (r : Regs) (i : Nat) : (s.setRegs r).cluster i = s.cluster i := rfl
@[simp] theorem State.core_after_setRegs (r : Regs) (i : Nat) : (s.setRegs r).core i = s.core i := rfl
@[simp] theorem State.stack_after_setRegs (r : Regs) (i : Nat) : (s.setRegs r).stack i = s.stack i := rfl
@[simp] theorem State.die_after_setRegs (r : Regs) (i : Nat) : (s.setRegs r).die i = s.die i := rfl
@[simp] theorem State.part_after_setRegs (r : Regs) (i : Nat) : (s.setRegs r).part i = s.part i := rfl
@[simp] theorem State.job_after_setRegs (r : Regs) (i : Hart) : (s.setRegs r).job i = s.job i := rfl
@[simp] theorem State.gang_after_setRegs (r : Regs) (i : Nat) : (s.setRegs r).gang i = s.gang i := rfl
@[simp] theorem State.group_after_setRegs (r : Regs) (i : Nat) : (s.setRegs r).group i = s.group i := rfl
@[simp] theorem State.thread_after_setCluster (c : Nat) (x : Cluster) (i : Hart) : (s.setCluster c x).thread i = s.thread i := rfl
@[simp] theorem State.core_after_setCluster (c : Nat) (x : Cluster) (i : Nat) : (s.setCluster c x).core i = s.core i := rfl
@[simp] theorem State.stack_after_setCluster (c : Nat) (x : Cluster) (i : Nat) : (s.setCluster c x).stack i = s.stack i := rfl
@[simp] theorem State.die_after_setCluster (c : Nat) (x : Cluster) (i : Nat) : (s.setCluster c x).die i = s.die i := rfl
@[simp] theorem State.part_after_setCluster (c : Nat) (x : Cluster) (i : Nat) : (s.setCluster c x).part i = s.part i := rfl
@[simp] theorem State.job_after_setCluster (c : Nat) (x : Cluster) (i : Hart) : (s.setCluster c x).job i = s.job i := rfl
@[simp] theorem State.gang_after_setCluster (c : Nat) (x : Cluster) (i : Nat) : (s.setCluster c x).gang i = s.gang i := rfl
@[simp] theorem State.group_after_setCluster (c : Nat) (x : Cluster) (i : Nat) : (s.setCluster c x).group i = s.group i := rfl
@[simp] theorem State.thread_after_setCore (k : Nat) (x : Core) (i : Hart) : (s.setCore k x).thread i = s.thread i := rfl
@[simp] theorem State.cluster_after_setCore (k : Nat) (x : Core) (i : Nat) : (s.setCore k x).cluster i = s.cluster i := rfl
@[simp] theorem State.stack_after_setCore (k : Nat) (x : Core) (i : Nat) : (s.setCore k x).stack i = s.stack i := rfl
@[simp] theorem State.die_after_setCore (k : Nat) (x : Core) (i : Nat) : (s.setCore k x).die i = s.die i := rfl
@[simp] theorem State.part_after_setCore (k : Nat) (x : Core) (i : Nat) : (s.setCore k x).part i = s.part i := rfl
@[simp] theorem State.job_after_setCore (k : Nat) (x : Core) (i : Hart) : (s.setCore k x).job i = s.job i := rfl
@[simp] theorem State.gang_after_setCore (k : Nat) (x : Core) (i : Nat) : (s.setCore k x).gang i = s.gang i := rfl
@[simp] theorem State.group_after_setCore (k : Nat) (x : Core) (i : Nat) : (s.setCore k x).group i = s.group i := rfl
@[simp] theorem State.thread_after_setStack (k : Nat) (x : Stack) (i : Hart) : (s.setStack k x).thread i = s.thread i := rfl
@[simp] theorem State.cluster_after_setStack (k : Nat) (x : Stack) (i : Nat) : (s.setStack k x).cluster i = s.cluster i := rfl
@[simp] theorem State.core_after_setStack (k : Nat) (x : Stack) (i : Nat) : (s.setStack k x).core i = s.core i := rfl
@[simp] theorem State.die_after_setStack (k : Nat) (x : Stack) (i : Nat) : (s.setStack k x).die i = s.die i := rfl
@[simp] theorem State.part_after_setStack (k : Nat) (x : Stack) (i : Nat) : (s.setStack k x).part i = s.part i := rfl
@[simp] theorem State.job_after_setStack (k : Nat) (x : Stack) (i : Hart) : (s.setStack k x).job i = s.job i := rfl
@[simp] theorem State.gang_after_setStack (k : Nat) (x : Stack) (i : Nat) : (s.setStack k x).gang i = s.gang i := rfl
@[simp] theorem State.group_after_setStack (k : Nat) (x : Stack) (i : Nat) : (s.setStack k x).group i = s.group i := rfl
@[simp] theorem State.thread_after_setDie (k : Nat) (x : Die) (i : Hart) : (s.setDie k x).thread i = s.thread i := rfl
@[simp] theorem State.cluster_after_setDie (k : Nat) (x : Die) (i : Nat) : (s.setDie k x).cluster i = s.cluster i := rfl
@[simp] theorem State.core_after_setDie (k : Nat) (x : Die) (i : Nat) : (s.setDie k x).core i = s.core i := rfl
@[simp] theorem State.stack_after_setDie (k : Nat) (x : Die) (i : Nat) : (s.setDie k x).stack i = s.stack i := rfl
@[simp] theorem State.part_after_setDie (k : Nat) (x : Die) (i : Nat) : (s.setDie k x).part i = s.part i := rfl
@[simp] theorem State.job_after_setDie (k : Nat) (x : Die) (i : Hart) : (s.setDie k x).job i = s.job i := rfl
@[simp] theorem State.gang_after_setDie (k : Nat) (x : Die) (i : Nat) : (s.setDie k x).gang i = s.gang i := rfl
@[simp] theorem State.group_after_setDie (k : Nat) (x : Die) (i : Nat) : (s.setDie k x).group i = s.group i := rfl
@[simp] theorem State.thread_after_setPart (k : Nat) (x : Part) (i : Hart) : (s.setPart k x).thread i = s.thread i := rfl
@[simp] theorem State.cluster_after_setPart (k : Nat) (x : Part) (i : Nat) : (s.setPart k x).cluster i = s.cluster i := rfl
@[simp] theorem State.core_after_setPart (k : Nat) (x : Part) (i : Nat) : (s.setPart k x).core i = s.core i := rfl
@[simp] theorem State.stack_after_setPart (k : Nat) (x : Part) (i : Nat) : (s.setPart k x).stack i = s.stack i := rfl
@[simp] theorem State.die_after_setPart (k : Nat) (x : Part) (i : Nat) : (s.setPart k x).die i = s.die i := rfl
@[simp] theorem State.job_after_setPart (k : Nat) (x : Part) (i : Hart) : (s.setPart k x).job i = s.job i := rfl
@[simp] theorem State.gang_after_setPart (k : Nat) (x : Part) (i : Nat) : (s.setPart k x).gang i = s.gang i := rfl
@[simp] theorem State.group_after_setPart (k : Nat) (x : Part) (i : Nat) : (s.setPart k x).group i = s.group i := rfl
@[simp] theorem State.thread_after_setJob (h : Hart) (j : Option Job) (i : Hart) : (s.setJob h j).thread i = s.thread i := rfl
@[simp] theorem State.cluster_after_setJob (h : Hart) (j : Option Job) (i : Nat) : (s.setJob h j).cluster i = s.cluster i := rfl
@[simp] theorem State.core_after_setJob (h : Hart) (j : Option Job) (i : Nat) : (s.setJob h j).core i = s.core i := rfl
@[simp] theorem State.stack_after_setJob (h : Hart) (j : Option Job) (i : Nat) : (s.setJob h j).stack i = s.stack i := rfl
@[simp] theorem State.die_after_setJob (h : Hart) (j : Option Job) (i : Nat) : (s.setJob h j).die i = s.die i := rfl
@[simp] theorem State.part_after_setJob (h : Hart) (j : Option Job) (i : Nat) : (s.setJob h j).part i = s.part i := rfl
@[simp] theorem State.gang_after_setJob (h : Hart) (j : Option Job) (i : Nat) : (s.setJob h j).gang i = s.gang i := rfl
@[simp] theorem State.group_after_setJob (h : Hart) (j : Option Job) (i : Nat) : (s.setJob h j).group i = s.group i := rfl
@[simp] theorem State.thread_after_setGang (g : Nat) (x : Option Gang) (i : Hart) : (s.setGang g x).thread i = s.thread i := rfl
@[simp] theorem State.cluster_after_setGang (g : Nat) (x : Option Gang) (i : Nat) : (s.setGang g x).cluster i = s.cluster i := rfl
@[simp] theorem State.core_after_setGang (g : Nat) (x : Option Gang) (i : Nat) : (s.setGang g x).core i = s.core i := rfl
@[simp] theorem State.stack_after_setGang (g : Nat) (x : Option Gang) (i : Nat) : (s.setGang g x).stack i = s.stack i := rfl
@[simp] theorem State.die_after_setGang (g : Nat) (x : Option Gang) (i : Nat) : (s.setGang g x).die i = s.die i := rfl
@[simp] theorem State.part_after_setGang (g : Nat) (x : Option Gang) (i : Nat) : (s.setGang g x).part i = s.part i := rfl
@[simp] theorem State.job_after_setGang (g : Nat) (x : Option Gang) (i : Hart) : (s.setGang g x).job i = s.job i := rfl
@[simp] theorem State.group_after_setGang (g : Nat) (x : Option Gang) (i : Nat) : (s.setGang g x).group i = s.group i := rfl
@[simp] theorem State.thread_after_setGroup (k : Nat) (x : Group) (i : Hart) : (s.setGroup k x).thread i = s.thread i := rfl
@[simp] theorem State.cluster_after_setGroup (k : Nat) (x : Group) (i : Nat) : (s.setGroup k x).cluster i = s.cluster i := rfl
@[simp] theorem State.core_after_setGroup (k : Nat) (x : Group) (i : Nat) : (s.setGroup k x).core i = s.core i := rfl
@[simp] theorem State.stack_after_setGroup (k : Nat) (x : Group) (i : Nat) : (s.setGroup k x).stack i = s.stack i := rfl
@[simp] theorem State.die_after_setGroup (k : Nat) (x : Group) (i : Nat) : (s.setGroup k x).die i = s.die i := rfl
@[simp] theorem State.part_after_setGroup (k : Nat) (x : Group) (i : Nat) : (s.setGroup k x).part i = s.part i := rfl
@[simp] theorem State.job_after_setGroup (k : Nat) (x : Group) (i : Hart) : (s.setGroup k x).job i = s.job i := rfl
@[simp] theorem State.gang_after_setGroup (k : Nat) (x : Group) (i : Nat) : (s.setGroup k x).gang i = s.gang i := rfl
@[simp] theorem State.thread_after_setVslots (k : Nat) (l : List VSlot) (i : Hart) : (s.setVslots k l).thread i = s.thread i := rfl
@[simp] theorem State.cluster_after_setVslots (k : Nat) (l : List VSlot) (i : Nat) : (s.setVslots k l).cluster i = s.cluster i := rfl
@[simp] theorem State.core_after_setVslots (k : Nat) (l : List VSlot) (i : Nat) : (s.setVslots k l).core i = s.core i := rfl
@[simp] theorem State.stack_after_setVslots (k : Nat) (l : List VSlot) (i : Nat) : (s.setVslots k l).stack i = s.stack i := rfl
@[simp] theorem State.die_after_setVslots (k : Nat) (l : List VSlot) (i : Nat) : (s.setVslots k l).die i = s.die i := rfl
@[simp] theorem State.part_after_setVslots (k : Nat) (l : List VSlot) (i : Nat) : (s.setVslots k l).part i = s.part i := rfl
@[simp] theorem State.job_after_setVslots (k : Nat) (l : List VSlot) (i : Hart) : (s.setVslots k l).job i = s.job i := rfl
@[simp] theorem State.gang_after_setVslots (k : Nat) (l : List VSlot) (i : Nat) : (s.setVslots k l).gang i = s.gang i := rfl
@[simp] theorem State.group_after_setVslots (k : Nat) (l : List VSlot) (i : Nat) : (s.setVslots k l).group i = s.group i := rfl
@[simp] theorem State.thread_after_setTask (t : Task) (i : Hart) : (s.setTask t).thread i = s.thread i := rfl
@[simp] theorem State.cluster_after_setTask (t : Task) (i : Nat) : (s.setTask t).cluster i = s.cluster i := rfl
@[simp] theorem State.core_after_setTask (t : Task) (i : Nat) : (s.setTask t).core i = s.core i := rfl
@[simp] theorem State.stack_after_setTask (t : Task) (i : Nat) : (s.setTask t).stack i = s.stack i := rfl
@[simp] theorem State.die_after_setTask (t : Task) (i : Nat) : (s.setTask t).die i = s.die i := rfl
@[simp] theorem State.part_after_setTask (t : Task) (i : Nat) : (s.setTask t).part i = s.part i := rfl
@[simp] theorem State.job_after_setTask (t : Task) (i : Hart) : (s.setTask t).job i = s.job i := rfl
@[simp] theorem State.gang_after_setTask (t : Task) (i : Nat) : (s.setTask t).gang i = s.gang i := rfl
@[simp] theorem State.group_after_setTask (t : Task) (i : Nat) : (s.setTask t).group i = s.group i := rfl

/-! ## `State.noteWindow` -/

@[simp] theorem State.noteWindow_agenda (h : Hart) (f : Nat → Bool) : (s.noteWindow h f).agenda = s.agenda := by
  unfold State.noteWindow; split <;> rfl
@[simp] theorem State.noteWindow_cur (h : Hart) (f : Nat → Bool) : (s.noteWindow h f).cur = s.cur := by
  unfold State.noteWindow; split <;> rfl
@[simp] theorem State.noteWindow_arg (h : Hart) (f : Nat → Bool) : (s.noteWindow h f).arg = s.arg := by
  unfold State.noteWindow; split <;> rfl
@[simp] theorem State.noteWindow_rr (h : Hart) (f : Nat → Bool) : (s.noteWindow h f).rr = s.rr := by
  unfold State.noteWindow; split <;> rfl
@[simp] theorem State.noteWindow_fresh (h : Hart) (f : Nat → Bool) : (s.noteWindow h f).fresh = s.fresh := by
  unfold State.noteWindow; split <;> rfl
@[simp] theorem State.noteWindow_now (h : Hart) (f : Nat → Bool) : (s.noteWindow h f).now = s.now := by
  unfold State.noteWindow; split <;> rfl
@[simp] theorem State.noteWindow_mem (h : Hart) (f : Nat → Bool) : (s.noteWindow h f).mem = s.mem := by
  unfold State.noteWindow; split <;> rfl
@[simp] theorem State.noteWindow_clusters (h : Hart) (f : Nat → Bool) : (s.noteWindow h f).clusters = s.clusters := by
  unfold State.noteWindow; split <;> rfl
@[simp] theorem State.noteWindow_cores (h : Hart) (f : Nat → Bool) : (s.noteWindow h f).cores = s.cores := by
  unfold State.noteWindow; split <;> rfl
@[simp] theorem State.noteWindow_dram (h : Hart) (f : Nat → Bool) : (s.noteWindow h f).dram = s.dram := by
  unfold State.noteWindow; split <;> rfl
@[simp] theorem State.noteWindow_hqueue (h : Hart) (f : Nat → Bool) : (s.noteWindow h f).hqueue = s.hqueue := by
  unfold State.noteWindow; split <;> rfl
@[simp] theorem State.noteWindow_jobs (h : Hart) (f : Nat → Bool) : (s.noteWindow h f).jobs = s.jobs := by
  unfold State.noteWindow; split <;> rfl
@[simp] theorem State.noteWindow_queries (h : Hart) (f : Nat → Bool) : (s.noteWindow h f).queries = s.queries := by
  unfold State.noteWindow; split <;> rfl
@[simp] theorem State.noteWindow_net (h : Hart) (f : Nat → Bool) : (s.noteWindow h f).net = s.net := by
  unfold State.noteWindow; split <;> rfl
@[simp] theorem State.noteWindow_gangs (h : Hart) (f : Nat → Bool) : (s.noteWindow h f).gangs = s.gangs := by
  unfold State.noteWindow; split <;> rfl
@[simp] theorem State.noteWindow_tasks (h : Hart) (f : Nat → Bool) : (s.noteWindow h f).tasks = s.tasks := by
  unfold State.noteWindow; split <;> rfl
@[simp] theorem State.noteWindow_accno (h : Hart) (f : Nat → Bool) : (s.noteWindow h f).accno = s.accno := by
  unfold State.noteWindow; split <;> rfl
@[simp] theorem State.noteWindow_dies (h : Hart) (f : Nat → Bool) : (s.noteWindow h f).dies = s.dies := by
  unfold State.noteWindow; split <;> rfl
@[simp] theorem State.noteWindow_parts (h : Hart) (f : Nat → Bool) : (s.noteWindow h f).parts = s.parts := by
  unfold State.noteWindow; split <;> rfl
@[simp] theorem State.noteWindow_vers (h : Hart) (f : Nat → Bool) : (s.noteWindow h f).vers = s.vers := by
  unfold State.noteWindow; split <;> rfl
@[simp] theorem State.noteWindow_gone (h : Hart) (f : Nat → Bool) : (s.noteWindow h f).gone = s.gone := by
  unfold State.noteWindow; split <;> rfl
@[simp] theorem State.noteWindow_groups (h : Hart) (f : Nat → Bool) : (s.noteWindow h f).groups = s.groups := by
  unfold State.noteWindow; split <;> rfl
@[simp] theorem State.noteWindow_ctrl (h : Hart) (f : Nat → Bool) : (s.noteWindow h f).ctrl = s.ctrl := by
  unfold State.noteWindow; split <;> rfl
@[simp] theorem State.noteWindow_inbox (h : Hart) (f : Nat → Bool) : (s.noteWindow h f).inbox = s.inbox := by
  unfold State.noteWindow; split <;> rfl
@[simp] theorem State.noteWindow_outbox (h : Hart) (f : Nat → Bool) : (s.noteWindow h f).outbox = s.outbox := by
  unfold State.noteWindow; split <;> rfl

end Sys2Proof.Machine
end

