-- ==== Sys2Proof/Laws/Control.lean ====
section
/-! SUPPORT. What fetching depends on of a thread set: the continuation, the PC and what it has fetched. -/

namespace Sys2Proof.Machine

/-! ## Translation reads no thread set -/

theorem State.pte_setThread (s : State) (h : Hart) (t : Thread) (st pa : Nat) : (s.setThread h t).pte st pa = s.pte st pa := rfl

theorem walkLevels_setThread (s : State) (h : Hart) (t : Thread) (st p va table : Nat) (l : List (Nat × Nat × Nat × Nat)) :
    walkLevels (s.setThread h t) st p va table l = walkLevels s st p va table l := by
  induction l generalizing table with
  | nil => rfl
  | cons e r ih =>
    obtain ⟨sh, cnt, page, next⟩ := e
    unfold walkLevels
    rw [State.pte_setThread]
    extract_lets
    rw [ih]

theorem walk_setThread (s : State) (h : Hart) (t : Thread) (st p va : Nat) : walk (s.setThread h t) st p va = walk s st p va := by
  simp only [walk, walkLevels_setThread, State.stack_after_setThread]

theorem State.lookupPage_setThread (s : State) (h : Hart) (t : Thread) (st p va : Nat) (w : Bool) :
    (s.setThread h t).lookupPage st p va w = ((s.lookupPage st p va w).1, (s.lookupPage st p va w).2.setThread h t) := by
  simp only [State.lookupPage, walk_setThread, State.stack_after_setThread]
  split
  · rfl
  · split
    · rfl
    · rfl
    · split <;> rfl

theorem State.xlateAt_setThread (s : State) (h : Hart) (t : Thread) (st p acc va : Nat) (w thru : Bool) :
    (s.setThread h t).xlateAt st p acc va w thru =
      ((s.xlateAt st p acc va w thru).1, (s.xlateAt st p acc va w thru).2.setThread h t) := by
  simp only [State.xlateAt, State.lookupPage_setThread, State.stack_after_setThread]
  have e1 : (s.setThread h t).stackIn p st = s.stackIn p st := rfl
  rw [e1]
  split
  · rfl
  · split
    · rfl
    · rcases hl : s.lookupPage st p va w with ⟨_ | e, u⟩
      · rfl
      · simp only
        cases e.redir with
        | some _ => rfl
        | none =>
          have e2 : (u.setThread h t).slotFor acc (va / 2 ^ 16) w = u.slotFor acc (va / 2 ^ 16) w := rfl
          simp only [e2]
          cases u.slotFor acc (va / 2 ^ 16) w <;> rfl

theorem State.xlateFrom_setThread (s : State) (h : Hart) (t : Thread) (p acc va : Nat) (w thru : Bool) (st n : Nat) :
    (s.setThread h t).xlateFrom p acc va w st thru n =
      ((s.xlateFrom p acc va w st thru n).1, (s.xlateFrom p acc va w st thru n).2.setThread h t) := by
  induction n generalizing s st with
  | zero => exact State.xlateAt_setThread ..
  | succ n ih =>
    simp only [State.xlateFrom, State.xlateAt_setThread]
    rcases s.xlateAt st p acc va w thru with ⟨r, u⟩
    cases r <;> first | exact ih u _ | rfl

theorem State.xlate_setThread (s : State) (h : Hart) (t : Thread) (p acc va : Nat) (w thru : Bool) :
    (s.setThread h t).xlate p acc va w thru = ((s.xlate p acc va w thru).1, (s.xlate p acc va w thru).2.setThread h t) :=
  State.xlateFrom_setThread ..

theorem State.xlateAt_ok (s : State) (st p acc va : Nat) (w thru : Bool) (k : Nat) (h : (s.xlateAt st p acc va w thru).1 = .ok k) :
    2 ^ 40 ≤ k := by
  revert h
  unfold State.xlateAt
  (repeat' split) <;> rintro ⟨⟩
  unfold stackKey
  omega

/-- A translated address is a key of stack memory, never an on-chip address. -/
theorem State.xlate_ok (s : State) (p acc va : Nat) (w thru : Bool) (k : Nat) (h : (s.xlate p acc va w thru).1 = .ok k) :
    2 ^ 40 ≤ k := by
  have key : ∀ (n : Nat) (s : State) (st : Nat), (s.xlateFrom p acc va w st thru n).1 = .ok k → 2 ^ 40 ≤ k := by
    intro n
    induction n with
    | zero => intro s st h; exact State.xlateAt_ok s st p acc va w thru k h
    | succ n ih =>
      intro s st h
      unfold State.xlateFrom at h
      split at h
      · exact ih _ _ h
      · exact State.xlateAt_ok s st p acc va w thru k h
  exact key _ _ _ h

theorem State.byteAt_setThread (s : State) (h : Hart) (t : Thread) (k : Nat) (hk : 2 ^ 40 ≤ k) :
    (s.setThread h t).byteAt k = s.byteAt k := by
  unfold State.byteAt
  split
  · rfl
  · split
    · rfl
    · rename_i h1 h2
      simp [isHobKey, isStackKey] at h1 h2
      omega

/-- What the fetch of a line depends on of a thread set: its continuation, the line it holds and the units read ahead (R124). -/
def sameFetch (t u : Thread) : Prop := t.cont = u.cont ∧ t.line = u.line ∧ t.early = u.early

theorem State.lineBytes_setThread (s : State) (h : Hart) (t x : Thread) (pc : Word) (k : Nat) (hk : 2 ^ 40 ≤ k) :
    (s.setThread h t).lineBytes x pc k = s.lineBytes x pc k := by
  unfold State.lineBytes
  congr 1
  apply List.flatMap_congr
  intro u _
  split
  · rfl
  · simp only [State.bytesAt]
    apply List.map_congr_left
    intro i _
    exact State.byteAt_setThread s h t _ (by omega)

/-- Fetching a line depends on a thread set's continuation and what it has fetched only. -/
theorem State.fetchLine_setThread (s : State) (h : Hart) (t : Thread) (hc : sameFetch t (s.thread h)) (g : Hart) (pc : Word) :
    (s.setThread h t).fetchLine g pc = ((s.fetchLine g pc).1, (s.fetchLine g pc).2.setThread h t) := by
  have hg : sameFetch ((s.setThread h t).thread g) (s.thread g) := by
    rw [State.thread_setThread]; split
    · rename_i e; rw [e]; exact hc
    · exact ⟨rfl, rfl, rfl⟩
  obtain ⟨h1, h2, h3⟩ := hg
  have hb : ∀ (u : State) k, 2 ^ 40 ≤ k →
      (u.setThread h t).lineBytes ((s.setThread h t).thread g) pc k = u.lineBytes (s.thread g) pc k := by
    intro u k hk
    rw [State.lineBytes_setThread u h t _ pc k hk]
    unfold State.lineBytes; rw [h3]
  unfold State.fetchLine
  split
  · split <;> rfl
  · simp only [h1, h2, State.xlate_setThread]
    split
    · rfl
    · split
      · rfl
      · rcases hx : s.xlate (s.thread g).cont.part (s.thread g).cont.acc (vaOf pc / 64 * 64) false with ⟨r, u⟩
        cases r with
        | ok k =>
          have hk : 2 ^ 40 ≤ k := State.xlate_ok s _ _ _ _ _ k (by rw [hx])
          simp only [hb u k hk]
        | _ => rfl

/-- The head that follows by fall-through depends on the PC of a thread set and what its fetch depends on only. -/
theorem State.fall_setThread (s : State) (h : Hart) (t : Thread) (hc : sameFetch t (s.thread h))
    (hp : t.regs.pc = (s.thread h).regs.pc) (g : Hart) : (s.setThread h t).fall g = s.fall g := by
  have hg : ((s.setThread h t).thread g).regs.pc = (s.thread g).regs.pc := by
    rw [State.thread_setThread]; split
    · rename_i e; rw [e, hp]
    · rfl
  unfold State.fall State.lineAt
  simp only [hg, State.fetchLine_setThread s h t hc]

end Sys2Proof.Machine
end

