-- ==== Sys2Proof/Laws/Encoding.lean ====
section
/-! SUPPORT. Fields of heads and tails read back what was packed (R125, R127). -/

namespace Sys2Proof

/-- The value of two bit strings joined. -/
theorem toNat_join {a b : Nat} (x : BitVec a) (y : BitVec b) : (x ++ y).toNat = x.toNat * 2 ^ b + y.toNat := by
  rw [BitVec.toNat_append, ← Nat.shiftLeft_add_eq_or_of_lt y.isLt, Nat.shiftLeft_eq]

@[simp] theorem Head.major_mkHead (m : BitVec 6) (a b : Reg) : (mkHead m a b).major = m := by
  apply BitVec.eq_of_toNat_eq
  have h1 := m.isLt; have h2 := a.isLt; have h3 := b.isLt
  simp only [Head.major, mkHead, BitVec.extractLsb'_toNat, toNat_join, Nat.shiftRight_eq_div_pow]
  omega
@[simp] theorem Head.fieldA_mkHead (m : BitVec 6) (a b : Reg) : (mkHead m a b).fieldA = a := by
  apply BitVec.eq_of_toNat_eq
  have h1 := m.isLt; have h2 := a.isLt; have h3 := b.isLt
  simp only [Head.fieldA, mkHead, BitVec.extractLsb'_toNat, toNat_join, Nat.shiftRight_eq_div_pow]
  omega
@[simp] theorem Head.fieldB_mkHead (m : BitVec 6) (a b : Reg) : (mkHead m a b).fieldB = b := by
  apply BitVec.eq_of_toNat_eq
  have h1 := m.isLt; have h2 := a.isLt; have h3 := b.isLt
  simp only [Head.fieldB, mkHead, BitVec.extractLsb'_toNat, toNat_join, Nat.shiftRight_eq_div_pow]
  omega
@[simp] theorem TailS.of_bits (t : TailS) : TailS.of t.bits = t := by
  obtain ⟨x0, x1, x2⟩ := t
  have h0 := x0.isLt; have h1 := x1.isLt; have h2 := x2.isLt
  simp only [TailS.of, TailS.bits, TailS.mk.injEq]
  refine ⟨?_, ?_, ?_⟩ <;> apply BitVec.eq_of_toNat_eq <;>
    simp only [BitVec.extractLsb'_toNat, BitVec.toNat_setWidth, toNat_join, Nat.shiftRight_eq_div_pow] <;> omega
@[simp] theorem TailI.of_bits (t : TailI) : TailI.of t.bits = t := by
  obtain ⟨x0, x1, x2⟩ := t
  have h0 := x0.isLt; have h1 := x1.isLt; have h2 := x2.isLt
  simp only [TailI.of, TailI.bits, TailI.mk.injEq]
  refine ⟨?_, ?_, ?_⟩ <;> apply BitVec.eq_of_toNat_eq <;>
    simp only [BitVec.extractLsb'_toNat, BitVec.toNat_setWidth, toNat_join, Nat.shiftRight_eq_div_pow] <;> omega
@[simp] theorem TailM.of_bits (t : TailM) : TailM.of t.bits = t := by
  obtain ⟨x0, x1, x2, x3⟩ := t
  have h0 := x0.isLt; have h1 := x1.isLt; have h2 := x2.isLt; have h3 := x3.isLt
  simp only [TailM.of, TailM.bits, TailM.mk.injEq]
  refine ⟨?_, ?_, ?_, ?_⟩ <;> apply BitVec.eq_of_toNat_eq <;>
    simp only [BitVec.extractLsb'_toNat, BitVec.toNat_setWidth, toNat_join, Nat.shiftRight_eq_div_pow] <;> omega
@[simp] theorem TailA.of_bits (t : TailA) : TailA.of t.bits = t := by
  obtain ⟨x0, x1, x2, x3, x4, x5⟩ := t
  have h0 := x0.isLt; have h1 := x1.isLt; have h2 := x2.isLt; have h3 := x3.isLt; have h4 := x4.isLt; have h5 := x5.isLt
  simp only [TailA.of, TailA.bits, TailA.mk.injEq]
  refine ⟨?_, ?_, ?_, ?_, ?_, ?_⟩ <;> apply BitVec.eq_of_toNat_eq <;>
    simp only [BitVec.extractLsb'_toNat, BitVec.toNat_setWidth, toNat_join, Nat.shiftRight_eq_div_pow] <;> omega
@[simp] theorem TailB.of_bits (t : TailB) : TailB.of t.bits = t := by
  obtain ⟨x0, x1, x2, x3⟩ := t
  have h0 := x0.isLt; have h1 := x1.isLt; have h2 := x2.isLt; have h3 := x3.isLt
  simp only [TailB.of, TailB.bits, TailB.mk.injEq]
  refine ⟨?_, ?_, ?_, ?_⟩ <;> apply BitVec.eq_of_toNat_eq <;>
    simp only [BitVec.extractLsb'_toNat, BitVec.toNat_setWidth, toNat_join, Nat.shiftRight_eq_div_pow] <;> omega
@[simp] theorem TailQ.of_bits (t : TailQ) : TailQ.of t.bits = t := by
  obtain ⟨x0, x1, x2, x3, x4, x5⟩ := t
  have h0 := x0.isLt; have h1 := x1.isLt; have h2 := x2.isLt; have h3 := x3.isLt; have h4 := x4.isLt; have h5 := x5.isLt
  simp only [TailQ.of, TailQ.bits, TailQ.mk.injEq]
  refine ⟨?_, ?_, ?_, ?_, ?_, ?_⟩ <;> apply BitVec.eq_of_toNat_eq <;>
    simp only [BitVec.extractLsb'_toNat, BitVec.toNat_setWidth, toNat_join, Nat.shiftRight_eq_div_pow] <;> omega
@[simp] theorem TailV.of_bits (t : TailV) : TailV.of t.bits = t := by
  obtain ⟨x0, x1, x2, x3, x4, x5, x6⟩ := t
  have h0 := x0.isLt; have h1 := x1.isLt; have h2 := x2.isLt; have h3 := x3.isLt; have h4 := x4.isLt; have h5 := x5.isLt; have h6 := x6.isLt
  simp only [TailV.of, TailV.bits, TailV.mk.injEq]
  refine ⟨?_, ?_, ?_, ?_, ?_, ?_, ?_⟩ <;> apply BitVec.eq_of_toNat_eq <;>
    simp only [BitVec.extractLsb'_toNat, BitVec.toNat_setWidth, toNat_join, Nat.shiftRight_eq_div_pow] <;> omega
@[simp] theorem TailX.of_bits (t : TailX) : TailX.of t.bits = t := by
  obtain ⟨x0, x1, x2, x3, x4, x5, x6⟩ := t
  have h0 := x0.isLt; have h1 := x1.isLt; have h2 := x2.isLt; have h3 := x3.isLt; have h4 := x4.isLt; have h5 := x5.isLt; have h6 := x6.isLt
  simp only [TailX.of, TailX.bits, TailX.mk.injEq]
  refine ⟨?_, ?_, ?_, ?_, ?_, ?_, ?_⟩ <;> apply BitVec.eq_of_toNat_eq <;>
    simp only [BitVec.extractLsb'_toNat, BitVec.toNat_setWidth, toNat_join, Nat.shiftRight_eq_div_pow] <;> omega

end Sys2Proof
end

