-- ==== Sys2Proof/Laws/Frame.lean ====
section
/-! SUPPORT. Which hart has the turn is no business of any shared operation: `cur` stays. What the end of a chunk, a release and a
trap come to. -/

namespace Sys2Proof.Machine

/-- A fold keeps what each of its steps keeps. -/
theorem foldl_keeps {α β γ : Type} (f : α → β → α) (p : α → γ) (l : List β) (a : α) (h : ∀ a b, p (f a b) = p a) :
    p (l.foldl f a) = p a := by
  induction l generalizing a with
  | nil => rfl
  | cons b r ih => rw [List.foldl_cons, ih, h]

@[simp] theorem State.cur_countCl (s : State) (c n k : Nat) : (s.countCl c n k).cur = s.cur := rfl
@[simp] theorem State.cur_countStack (s : State) (c n k : Nat) : (s.countStack c n k).cur = s.cur := rfl
@[simp] theorem State.cur_countPart (s : State) (p n : Nat) : (s.countPart p n).cur = s.cur := rfl
@[simp] theorem State.cur_offer (s : State) (d : Nat) (l : Launch) : (s.offer d l).cur = s.cur := rfl
@[simp] theorem cur_fireEntry (s : State) (c e : Nat) : (fireEntry s c e).cur = s.cur := rfl
@[simp] theorem cur_evalEntry (s : State) (c e : Nat) : (evalEntry s c e).cur = s.cur := by unfold evalEntry; dsimp only; split <;> rfl
@[simp] theorem cur_evalEntries (s : State) (c i : Nat) : (evalEntries s c i).cur = s.cur :=
  foldl_keeps _ State.cur _ _ (fun _ _ => cur_evalEntry ..)
@[simp] theorem State.cur_putCounter (s : State) (c i : Nat) (w : Word) : (s.putCounter c i w).cur = s.cur := rfl
@[simp] theorem cur_countUp (s : State) (c i : Nat) : (countUp s c i).cur = s.cur := by simp [countUp]
@[simp] theorem cur_notifyUp (s : State) (c i : Nat) : (notifyUp s c i).cur = s.cur := rfl
@[simp] theorem cur_wtStore (s : State) (c e j : Nat) (w : Word) : (wtStore s c e j w).cur = s.cur := by
  unfold wtStore
  split <;> simp only [apply_ite State.cur, State.cur_countCl, State.setCluster_cur, cur_evalEntry, ite_self]
@[simp] theorem cur_storeCtl (s : State) (c o : Nat) (b : List Byte) : (storeCtl s c o b).cur = s.cur := by
  unfold storeCtl; dsimp only; split <;> rfl
@[simp] theorem cur_storeHob (s : State) (k : Nat) (b : List Byte) : (storeHob s k b).cur = s.cur := rfl
@[simp] theorem State.cur_storeWindow (s : State) (h : Hart) (o : Nat) (b : List Byte) : (s.storeWindow h o b).cur = s.cur := by
  unfold State.storeWindow; (repeat' (first | split | dsimp only)) <;> rfl
@[simp] theorem State.cur_noteLines (s : State) (a : Nat) (l : List Nat) (h : Hart) : (s.noteLines a l h).cur = s.cur := rfl
@[simp] theorem State.cur_writeAt (s : State) (h : Hart) (k : Nat) (b : List Byte) : (s.writeAt h k b).cur = s.cur := by
  unfold State.writeAt
  extract_lets u v
  split
  · simp [u]
  · split
    · rfl
    · split <;> first | rfl | simp [u]
@[simp] theorem State.cur_setToken (s : State) (a : Nat) (x : Option Hart) : (s.setToken a x).cur = s.cur := by
  unfold State.setToken; split <;> rfl
@[simp] theorem State.cur_pushMsg (s : State) (h : Hart) (i : Item) : (s.pushMsg h i).cur = s.cur := rfl
@[simp] theorem State.cur_dropMsg (s : State) (id : Nat) : (s.dropMsg id).cur = s.cur := rfl
@[simp] theorem State.cur_hobTick (s : State) (h : Hart) : (s.hobTick h).cur = s.cur := rfl
@[simp] theorem cur_commitStore (s : State) (h : Hart) (w : WStore) : (commitStore s h w).cur = s.cur := by
  unfold commitStore; split <;> simp
@[simp] theorem State.cur_noteWindow (s : State) (h : Hart) (f : Nat → Bool) : (s.noteWindow h f).cur = s.cur := by
  unfold State.noteWindow; split <;> rfl
@[simp] theorem State.cur_endRedo (s : State) (h : Hart) : (s.endRedo h).cur = s.cur := by
  unfold State.endRedo; (repeat' split) <;> rfl
@[simp] theorem State.cur_leadTo (s : State) (h : Hart) (g : Nat) (x : Gang) (pc : Word) : (s.leadTo h g x pc).cur = s.cur := by
  unfold State.leadTo; dsimp only
  split
  · rw [State.setGang_cur]; exact foldl_keeps _ State.cur _ _ (fun _ _ => rfl)
  · rfl
@[simp] theorem State.cur_boundary (s : State) (h : Hart) : (s.boundary h).cur = s.cur := by simp [State.boundary]
@[simp] theorem State.cur_settlePops (s : State) (h : Hart) (p : Tab Nat) : (s.settlePops h p).cur = s.cur := by
  unfold State.settlePops; dsimp only; split <;> rfl
@[simp] theorem State.cur_commit (s : State) (h : Hart) : (s.commit h).cur = s.cur := by
  unfold State.commit
  dsimp only
  rw [State.cur_noteWindow, State.setThread_cur, State.cur_endRedo]
  have e (u : State) (b : Prop) [Decidable b] (a : Nat) (x : Option Hart) : (if b then u.setToken a x else u).cur = u.cur := by
    split <;> simp
  have e1 (u : State) (b : Prop) [Decidable b] (k : Nat) (c : Core) : (if b then u else u.setCore k c).cur = u.cur := by
    split <;> rfl
  have e2 (u : State) (b : Prop) [Decidable b] (c n k : Nat) : (if b then u else u.countCl c n k).cur = u.cur := by
    split <;> rfl
  rw [e, e1, e2, State.cur_settlePops]
  exact foldl_keeps _ State.cur _ _ (fun _ _ => cur_commitStore ..)
@[simp] theorem State.cur_goto (s : State) (h : Hart) (pc : Word) : (s.goto h pc).cur = s.cur := by
  unfold State.goto; (repeat' (first | split | dsimp only)) <;> simp
@[simp] theorem State.cur_advance (s : State) (h : Hart) : (s.advance h).cur = s.cur := by
  unfold State.advance; (repeat' (first | split | dsimp only)) <;> simp
@[simp] theorem cur_returnValue (s : State) (h : Hart) (id : Nat) (r : Reg) (w : Word) : (returnValue s h id r w).cur = s.cur := by
  unfold returnValue; dsimp only; split <;> simp
@[simp] theorem State.cur_setTileEl (s : State) (c t : Nat) (p : Bool) (i j v : Nat) : (s.setTileEl c t p i j v).cur = s.cur := by
  unfold State.setTileEl; dsimp only; split <;> rfl
@[simp] theorem cur_addAddend (s : State) (c : Nat) (a : Addend) : (addAddend s c a).cur = s.cur := by
  unfold addAddend
  have e (u : State) (b : Prop) [Decidable b] (l : List (Nat × Nat)) :
      (if b then u else l.foldl (fun s x => s.setTileEl c a.tile a.f64 a.row (a.col + x.1) x.2) u).cur = u.cur := by
    split
    · rfl
    · exact foldl_keeps _ State.cur _ _ (fun _ _ => State.cur_setTileEl ..)
  dsimp only
  split
  · rfl
  · split
    · split <;> simp [e]
    · simp [e]
@[simp] theorem cur_applyAddend (s : State) (c : Nat) (a : Addend) : (applyAddend s c a).cur = s.cur := by
  unfold applyAddend; split <;> simp
@[simp] theorem cur_arriveAddend (s : State) (c : Nat) (a : Addend) : (arriveAddend s c a).cur = s.cur := by
  unfold arriveAddend; (repeat' (first | split | dsimp only)) <;> simp
@[simp] theorem cur_reduceStep (s : State) (h : Hart) (kind k : Nat) (tag : BitVec 16) (ci : Option (BitVec 8)) (l : List Vec) :
    (reduceStep s h kind k tag ci l).1.cur = s.cur := by
  unfold reduceStep; (repeat' (first | split | dsimp only)) <;> simp
@[simp] theorem cur_reduceAt (s : State) (h : Hart) (kind k : Nat) (tag : BitVec 16) (ci : Option (BitVec 8)) (l : List Vec) (n : Nat) :
    (reduceAt s h kind k tag ci l n).cur = s.cur := by
  induction n generalizing s k l with
  | zero => rfl
  | succ n ih => unfold reduceAt; split
                 · rfl
                 · rw [ih, cur_reduceStep]
@[simp] theorem cur_performItem (s : State) (m : Msg) : (performItem s m).cur = s.cur := by
  unfold performItem
  split
  · simp
  · (repeat' (first | split | dsimp only)) <;> simp
  · (repeat' (first | split | dsimp only)) <;> simp
  · dsimp only
    rw [State.cur_writeAt, foldl_keeps _ State.cur _ _ (fun _ _ => State.cur_writeAt ..)]; rfl
  · simp
  all_goals rfl
@[simp] theorem State.cur_drain (s : State) (h : Hart) : (s.drain h).cur = s.cur :=
  foldl_keeps _ State.cur _ _ (fun s m => by split <;> simp)
@[simp] theorem State.cur_ended (s : State) : s.ended.cur = s.cur := State.cur_commit ..
@[simp] theorem State.cur_released (s : State) : s.released.cur = s.cur := by simp [State.released]

/-! ## The end of a chunk (R68 to R72) -/

/-- The open chunk commits when its leader has, nobody else holds the token, its signatures meet nothing and no store waits. -/
theorem State.endChunk_mayEnd (s : State) (h : s.mayEnd = true) : s.endChunk s.cur = .ok s.ended := by
  simp only [State.mayEnd, Bool.and_eq_true, Bool.not_eq_true', Option.isNone_iff_eq_none] at h
  obtain ⟨⟨⟨h1, h2⟩, h3⟩, h4⟩ := h
  unfold State.endChunk
  rw [h1]; simp [h2, h3, h4, State.ended]

/-- A head that ends the chunk goes on from the committed state. -/
theorem withChunkEnd_mayEnd (s : State) (k : State → Result) (h : s.mayEnd = true) : withChunkEnd s k = k s.ended := by
  unfold withChunkEnd; rw [State.endChunk_mayEnd s h]
/-- A release, a fence or a kick goes on with every earlier access of the hart performed, unless a weak store waits for a copy. -/
theorem withRelease_mayEnd (s : State) (k : State → Result) (h : s.mayEnd = true) :
    withRelease s k = if s.ended.blocked s.ended.cur then .next s.ended else k s.released := by
  unfold withRelease; rw [withChunkEnd_mayEnd s _ h]; rfl
theorem withRelease_mayRelease (s : State) (k : State → Result) (h : s.mayRelease = true) : withRelease s k = k s.released := by
  simp only [State.mayRelease, Bool.and_eq_true, Bool.not_eq_true'] at h
  have hc : s.ended.blocked s.ended.cur = false := by
    have : s.ended.cur = s.cur := State.cur_ended s
    rw [this]; exact h.2
  rw [withRelease_mayEnd s k h.1, hc]; rfl
/-- Where the chunk cannot commit, the head is left for another turn: it is squashed, it waits, or its gang's leader is asked to
commit. -/
theorem withChunkEnd_not (s : State) (k : State → Result) (h : s.mayEnd = false) :
    withChunkEnd s k = .next s ∨ withChunkEnd s k = .next (s.squash s.cur) ∨
      ∃ g, s.leaderOpen s.cur = some g ∧ withChunkEnd s k = .next (s.markEnded g) := by
  unfold withChunkEnd State.endChunk
  cases hl : s.leaderOpen s.cur with
  | some g => right; right; exact ⟨g, rfl, rfl⟩
  | none =>
    by_cases h2 : s.tokenFree s.cur = true
    · by_cases h3 : (s.thread s.cur).chunk.overlaps = true
      · right; left; simp [h2, h3]
      · by_cases h4 : s.storesWait s.cur = true
        · left; simp [h2, h3, h4]
        · simp [State.mayEnd, hl, h2, h3, h4] at h
    · left; simp [h2]
/-- A trap parks its hart once the chunk before it has committed and no weak store waits for a copy. -/
theorem takeTrapInfo_mayEnd (s : State) (i : TrapInfo) (h : s.mayEnd = true) (hk : kindOf s.cur ≠ .hob) :
    takeTrapInfo s s.cur i = if s.ended.blocked s.cur then .next s.ended else .next (park s.ended s.cur i) := by
  unfold takeTrapInfo; rw [if_neg hk, State.endChunk_mayEnd s h]

/-! ## Pops -/

/-- A pop, and the pops of a whole instruction, leave the turn to the same hart. -/
theorem cur_popOne {s u : State} {n : Reg} {b : Binding} {v : List (Reg × Vec)} (h : popOne s n b = .ok v u) : u.cur = s.cur := by
  unfold popOne at h
  dsimp only at h
  repeat' split at h
  all_goals first | (simp at h; done) | (simp only [Pop.ok.injEq] at h; obtain ⟨-, rfl⟩ := h; rfl)
theorem cur_popAll {l : List Reg} : ∀ {s u : State} {v : List (Reg × Vec)}, popAll s l = .ok v u → u.cur = s.cur := by
  induction l with
  | nil => intro s u v h; simp only [popAll, Pop.ok.injEq] at h; rw [← h.2]
  | cons n r ih =>
    intro s u v h
    simp only [popAll] at h
    split at h
    · rename_i vals s' e
      have e1 := ih e
      split at h
      · simp only [Pop.ok.injEq] at h; rw [← h.2, e1]
      · split at h
        · simp only [Pop.ok.injEq] at h; rw [← h.2, e1]
        · split at h
          · rename_i e2; simp only [Pop.ok.injEq] at h; rw [← h.2, cur_popOne e2, e1]
          · rename_i hx; exact absurd h (hx _ _)
    · rename_i hx; exact absurd h (hx _ _)

end Sys2Proof.Machine
end

