-- ==== Sys2Proof/Machine/Ovaefold.lean ====
section
/-! DEFINITION. The Ovaefold object format and the loader (R145, R151 to R155): an object as tables, its bytes, and what a load of
objects puts into stack memory. -/

namespace Sys2Proof.Machine

/-! ## Objects (R151 to R154) -/

/-- A section: kind 0 text, 1 rodata, 2 data; its home stack when the source names one. -/
structure OSect where
  name : List Byte
  kind : Nat
  stack : Option Nat
  alignLog2 : Nat
  data : List Byte
  deriving DecidableEq, Repr

/-- A symbol: the index of its section, 0xFFFF for an absolute value, 0xFFFE when it is defined elsewhere. -/
structure OSym where
  name : List Byte
  sect : Nat
  isGlobal : Bool
  isHead : Bool
  value : Word
  deriving DecidableEq, Repr

/-- A relocation: the section and offset of its field, its type (R145), symbol and addend. -/
structure OReloc where
  sect : Nat
  type : Nat
  sym : Nat
  offset : Nat
  addend : Word
  deriving DecidableEq, Repr

structure OObject where
  sects : List OSect
  syms : List OSym
  relocs : List OReloc
  deriving DecidableEq, Repr

def sectAbsolute : Nat := 0xFFFF
def sectUndefined : Nat := 0xFFFE

/-! ## An object as bytes -/

/-- The string table: every name, zero-terminated, sections before symbols. -/
def OObject.strings (o : OObject) : List Byte :=
  o.sects.flatMap (fun x => x.name ++ [0]) ++ o.syms.flatMap (fun x => x.name ++ [0])
/-- The offset at which the names of a list begin, one after another from `at0`. -/
def nameOffsets : Nat → List (List Byte) → List Nat
  | _, [] => []
  | at0, n :: l => at0 :: nameOffsets (at0 + n.length + 1) l
/-- Where contents of these lengths begin, one after another. -/
def dataOffsets : Nat → List Nat → List Nat
  | _, [] => []
  | at0, n :: l => at0 :: dataOffsets (at0 + n) l

def sectBytes (x : OSect) (name off : Nat) : List Byte :=
  leBytes 32 (name + x.kind * 2 ^ 32 + (x.stack.getD 0) * 2 ^ 36 + (if x.stack.isSome then 2 ^ 39 else 0) + x.alignLog2 * 2 ^ 40
    + x.data.length * 2 ^ 64 + off * 2 ^ 128)
def symBytes (x : OSym) (name : Nat) : List Byte :=
  leBytes 16 (name + x.sect * 2 ^ 32 + (if x.isGlobal then 2 ^ 48 else 0) + (if x.isHead then 2 ^ 49 else 0) + x.value.toNat * 2 ^ 64)
def relocBytes (x : OReloc) : List Byte :=
  leBytes 24 (x.sect + x.type * 2 ^ 16 + x.sym * 2 ^ 32 + x.offset * 2 ^ 64 + x.addend.toNat * 2 ^ 128)

/-- The file that wikel writes: header, section, symbol and relocation tables, string table, contents. -/
def OObject.bytes (o : OObject) : List Byte :=
  let sectOff := 64
  let symOff := sectOff + 32 * o.sects.length
  let relOff := symOff + 16 * o.syms.length
  let strOff := relOff + 24 * o.relocs.length
  let strs := o.strings
  let dataOff := strOff + strs.length
  let names := nameOffsets 0 (o.sects.map (fun x => x.name) ++ o.syms.map (fun x => x.name))
  let offs := dataOffsets dataOff (o.sects.map (fun x => x.data.length))
  leBytes 64 (0x314F564F + 2 ^ 32 + 0xA2 * 2 ^ 48 + o.sects.length * 2 ^ 64 + o.syms.length * 2 ^ 96 + o.relocs.length * 2 ^ 128
    + sectOff * 2 ^ 192 + symOff * 2 ^ 256 + relOff * 2 ^ 320 + strOff * 2 ^ 384 + strs.length * 2 ^ 448) ++
  (List.zipWith (fun x p => sectBytes x p.1 p.2) o.sects (names.zip offs)).flatten ++
  (List.zipWith symBytes o.syms (names.drop o.sects.length)).flatten ++
  o.relocs.flatMap relocBytes ++ strs ++ o.sects.flatMap (fun x => x.data)

/-- `n` bytes at an offset, when the file holds them. -/
def slice (f : List Byte) (off n : Nat) : Option (List Byte) :=
  let b := (f.drop off).take n
  if b.length = n then some b else none
/-- A field of `n` bits of a number. -/
def fieldAt (x lo n : Nat) : Nat := x / 2 ^ lo % 2 ^ n
/-- A zero-terminated name of the string table. -/
def nameAt (strs : List Byte) (off : Nat) : Option (List Byte) :=
  let s := strs.drop off
  if s.contains 0 then some (s.takeWhile (fun b => b != 0)) else none

/-- A section entry with its contents (R152). STACK other than 0 without STACKSET is malformed (DESIGN CHOICE, log 46). -/
def readSect (f strs b : List Byte) : Option OSect :=
  let x := leNat b
  match nameAt strs (fieldAt x 0 32), slice f (fieldAt x 128 64) (fieldAt x 64 64) with
  | some name, some data =>
    let kind := fieldAt x 32 4
    let al := fieldAt x 40 5
    if 2 < kind || fieldAt x 45 19 ≠ 0 || 16 < al || fieldAt x 192 64 ≠ 0 || (kind = 0 && (al < 6 || data.length % 64 ≠ 0)) ||
        (fieldAt x 39 1 = 0 && fieldAt x 36 3 ≠ 0) then none
    else some { name := name, kind := kind, stack := if fieldAt x 39 1 = 1 then some (fieldAt x 36 3) else none, alignLog2 := al, data := data }
  | _, _ => none
def readSym (strs : List Byte) (nsect : Nat) (b : List Byte) : Option OSym :=
  let x := leNat b
  match nameAt strs (fieldAt x 0 32) with
  | none => none
  | some name =>
    let sect := fieldAt x 32 16
    if fieldAt x 50 14 ≠ 0 || (nsect ≤ sect && sect ≠ sectAbsolute && sect ≠ sectUndefined) ||
        (sect = sectUndefined && fieldAt x 64 64 ≠ 0) then none
    else some { name := name, sect := sect, isGlobal := fieldAt x 48 1 = 1, isHead := fieldAt x 49 1 = 1, value := BitVec.ofNat 64 (fieldAt x 64 64) }
def readReloc (nsect nsym : Nat) (b : List Byte) : Option OReloc :=
  let x := leNat b
  if nsect ≤ fieldAt x 0 16 || fieldAt x 16 8 = 0 || 7 < fieldAt x 16 8 || fieldAt x 24 8 ≠ 0 || nsym ≤ fieldAt x 32 32 then none
  else some { sect := fieldAt x 0 16, type := fieldAt x 16 8, sym := fieldAt x 32 32, offset := fieldAt x 64 64
              addend := BitVec.ofNat 64 (fieldAt x 128 64) }

/-- All of a list, or none. -/
def allSome {α : Type} : List (Option α) → Option (List α)
  | [] => some []
  | none :: _ => none
  | some x :: l => (allSome l).map (fun r => x :: r)
/-- `n` entries of `size` bytes at an offset. -/
def tableAt (f : List Byte) (off size n : Nat) : Option (List (List Byte)) :=
  (slice f off (size * n)).map (fun b => (List.range n).map (fun i => (b.drop (size * i)).take size))

/-- The object in a file; none when a header, table or reserved field is at fault (R155). -/
def readObject (f : List Byte) : Option OObject :=
  match slice f 0 64 with
  | none => none
  | some h =>
    let x := leNat h
    let nsect := fieldAt x 64 16
    let nsym := fieldAt x 96 32
    let nrel := fieldAt x 128 32
    if fieldAt x 0 32 ≠ 0x314F564F || fieldAt x 32 16 ≠ 1 || fieldAt x 48 8 ≠ 0xA2 || fieldAt x 56 8 ≠ 0 || nsect = 0 || 255 < nsect ||
        fieldAt x 80 16 ≠ 0 || fieldAt x 160 32 ≠ 0 then none
    else match slice f (fieldAt x 384 64) (fieldAt x 448 64), tableAt f (fieldAt x 192 64) 32 nsect, tableAt f (fieldAt x 256 64) 16 nsym,
        tableAt f (fieldAt x 320 64) 24 nrel with
    | some strs, some sb, some yb, some rb =>
      match allSome (sb.map (readSect f strs)), allSome (yb.map (readSym strs nsect)), allSome (rb.map (readReloc nsect nsym)) with
      | some s, some y, some r => some { sects := s, syms := y, relocs := r }
      | _, _, _ => none
    | _, _, _, _ => none

/-! ## Relocations (R145) -/

/-- Lines from the line of one address word to that of another. -/
def lineDelta (v p : Word) : Int := ((v.toNat / 64 : Nat) : Int) - ((p.toNat / 64 : Nat) : Int)
/-- LDISP and SLOT of a branch at `p` to `v`, when they fit. -/
def branchField (v p : Word) : Option (BitVec 22 × BitVec 5) :=
  let d := lineDelta v p
  if isHeadPc v && v.toNat / 2 ^ 54 == p.toNat / 2 ^ 54 && decide (-(2 ^ 21) ≤ d) && decide (d < 2 ^ 21) then
    some (BitVec.ofInt 22 d, v.extractLsb' 1 5)
  else none
/-- The value of a relocation of type `t` with S + A = `v` at the head or field address `p`; none when it does not fit. -/
def relocValue (t : Nat) (v p : Word) : Option Nat :=
  match t with
  | 1 => some v.toNat
  | 2 => some (v.toNat / 2 ^ 16)
  | 3 => some (v.toNat % 2 ^ 16)
  | 4 => if decide (-(2 ^ 47) ≤ v.toInt) && decide (v.toInt < 2 ^ 47) then some (v.toNat % 2 ^ 48) else none
  | 5 => (branchField v p).map (fun f => f.1.toNat * 32 + f.2.toNat)
  | 6 => some (v.toNat / 64 * 64)
  | 7 => some (v.toNat / 64 * 64 % 2 ^ 16)
  | _ => none

/-- The instruction at a head is one whose field a relocation of type `t` patches. -/
def relocTakes (t : Nat) (i : Instr) : Bool :=
  match t, i with
  | 2, .liSh16 _ _ | 4, .li _ _ => true
  | 3, .addi _ _ _ | 3, .andi _ _ _ | 3, .ori _ _ _ | 3, .xori _ _ _ | 3, .slti _ _ _ | 3, .shli _ _ _ | 3, .shri _ _ _ | 3, .srai _ _ _ => true
  | 7, .addi _ _ _ | 7, .andi _ _ _ | 7, .ori _ _ _ | 7, .xori _ _ _ | 7, .slti _ _ _ | 7, .shli _ _ _ | 7, .shri _ _ _ | 7, .srai _ _ _ => true
  | 5, .beq _ _ _ _ | 5, .bne _ _ _ _ | 5, .blt _ _ _ _ | 5, .bge _ _ _ _ | 5, .bltz _ _ _ _ | 5, .bgez _ _ _ _ => true
  | 5, .loop _ _ _ | 5, .jmp _ _ | 5, .call _ _ => true
  | _, _ => false
/-- Bits of the tail that hold the field of type `t`: their number, from bit 0 up. -/
def relocBits (t : Nat) : Nat := match t with
  | 2 | 4 => 48
  | 5 => 27
  | _ => 16

/-- Bytes with some replaced from an offset on. -/
def overwrite (l : List Byte) (off : Nat) (b : List Byte) : List Byte := l.take off ++ b ++ l.drop (off + b.length)

/-- The contents of a section with the field of a relocation set to `x`; none when the field does not decode as the type requires.
For the types that patch a head's tail, the head's offset names it and R120 finds the tail. A head whose field is still zero may be
out of limits only in that field, so what it is is read without its limits. -/
def patchField (data : List Byte) (t off x : Nat) : Option (List Byte) :=
  if t = 1 ∨ t = 6 then (if off + 8 ≤ data.length then some (overwrite data off (leBytes 8 x)) else none)
  else
    let base := off / 64 * 64
    let k := off % 64 / 2
    let line := bytesVec ((data.drop base).take 64)
    if off % 2 = 1 || data.length < base + 64 then none
    else match lineSlot line k with
    | .error _ => none
    | .ok (hd, tl) =>
      let n := relocBits t
      let tail : Nat := tl.toNat / 2 ^ n * 2 ^ n + x
      let stop := 64 - tailSum line (k - 1)
      let len := tailLen hd.major
      match decode hd (BitVec.ofNat 64 tail) with
      | .error _ => none
      | .ok i => if relocTakes t i then some (overwrite data (base + stop - len) (leBytes len tail)) else none

/-! ## The loader (R155) -/

/-- Why a load is rejected. Objects and relocations are numbered in the order given. -/
inductive LoadErr where
  | malformed (obj : Nat)
  | stack (obj sect : Nat)
  | base (obj sect : Nat)
  | missing (obj sym : Nat)
  | twice (name : List Byte) (obj other : Nat)
  | reloc (obj index type : Nat) (value : Word)
  deriving DecidableEq, Repr

/-- The objects that export a name. -/
def exporters (objs : List OObject) (name : List Byte) : List (Nat × OSym) :=
  objs.zipIdx.flatMap (fun o => (o.1.syms.filter (fun y => y.isGlobal && y.sect != sectUndefined && y.name == name)).map (fun y => (o.2, y)))
/-- The address word, or the absolute value, of a symbol of object `k`. -/
def symValue (bases : List (List Word)) (k : Nat) (y : OSym) : Word :=
  if y.sect = sectAbsolute then y.value else ((((bases[k]?).getD [])[y.sect]?).getD 0) + y.value
/-- S of a symbol of object `k`, its definition sought among the objects of the load. -/
def resolveSym (objs : List OObject) (bases : List (List Word)) (k : Nat) (y : OSym) : Option Word :=
  if y.sect ≠ sectUndefined then some (symValue bases k y)
  else match exporters objs y.name with
  | [d] => some (symValue bases d.1 d.2)
  | _ => none

/-- One relocation of object `k`, whose sections' contents stand as `ds`. -/
def applyReloc (objs : List OObject) (bases : List (List Word)) (k : Nat) (o : OObject) (ds : List (List Byte)) (r : OReloc) (idx : Nat) :
    Except LoadErr (List (List Byte)) :=
  match o.syms[r.sym]? with
  | none => .error (.malformed k)
  | some y => match resolveSym objs bases k y with
    | none => .error (.missing k r.sym)
    | some v =>
      let w := v + r.addend
      let p := ((((bases[k]?).getD [])[r.sect]?).getD 0) + BitVec.ofNat 64 r.offset
      match relocValue r.type w p with
      | none => .error (.reloc k idx r.type w)
      | some x => match patchField ((ds[r.sect]?).getD []) r.type r.offset x with
        | none => .error (.reloc k idx r.type w)
        | some d => .ok (ds.set r.sect d)
def applyRelocs (objs : List OObject) (bases : List (List Word)) (k : Nat) (o : OObject) : List (OReloc × Nat) → List (List Byte) →
    Except LoadErr (List (List Byte))
  | [], ds => .ok ds
  | r :: l, ds => match applyReloc objs bases k o ds r.1 r.2 with
    | .error e => .error e
    | .ok ds => applyRelocs objs bases k o l ds

/-- The base chosen for a section: in its home stack or a stack of the partition, aligned, with the whole section below the end of
the stack's offsets. Bases at which two sections overlap are accepted (DESIGN CHOICE, log 48). -/
def baseFault (stackIn : Nat → Bool) (k i : Nat) (x : OSect) (b : Word) : Option LoadErr :=
  if (match x.stack with
    | some st => !stackIn st
    | none => false) then some (.stack k i)
  else if !isVA b || !stackIn (vaStack (vaOf b)) || b.toNat % 2 ^ x.alignLog2 ≠ 0 || 2 ^ 54 < b.toNat % 2 ^ 54 + x.data.length ||
      (match x.stack with
       | some st => vaStack (vaOf b) != st
       | none => false) then some (.base k i)
  else none
def firstSome {α : Type} : List (Option α) → Option α
  | [] => none
  | some x :: _ => some x
  | none :: l => firstSome l

/-- What the checks of a load find before any relocation is made, in the order of R155. -/
def loadFault (stackIn : Nat → Bool) (objs : List OObject) (bases : List (List Word)) : Option LoadErr :=
  firstSome (objs.zipIdx.flatMap (fun o => o.1.sects.zipIdx.map (fun x =>
    baseFault stackIn o.2 x.2 x.1 ((((bases[o.2]?).getD [])[x.2]?).getD 0)))) |>.or
  (firstSome (objs.zipIdx.flatMap (fun o => o.1.syms.zipIdx.map (fun y =>
    match exporters objs y.1.name with
    | a :: b :: _ => if y.1.isGlobal then some (LoadErr.twice y.1.name a.1 b.1) else none
    | [] => if y.1.sect = sectUndefined then some (.missing o.2 y.2) else none
    | _ => none))))

/-- The patched contents of every section of every object, under its address word. -/
def linkObjects (objs : List OObject) (bases : List (List Word)) : List (OObject × Nat) → Except LoadErr (List (Word × Bool × List Byte))
  | [] => .ok []
  | (o, k) :: l => match applyRelocs objs bases k o o.relocs.zipIdx (o.sects.map (fun x => x.data)) with
    | .error e => .error e
    | .ok ds => match linkObjects objs bases l with
      | .error e => .error e
      | .ok rest => .ok (List.zipWith (fun (x : OSect × List Byte) b => (b, x.1.kind == 0, x.2)) (o.sects.zip ds) ((bases[k]?).getD []) ++ rest)

/-- The image of a load: object files and the base chosen for each of their sections (DESIGN CHOICE, log 48). -/
def linkFiles (stackIn : Nat → Bool) (files : List (List Byte)) (bases : List (List Word)) : Except LoadErr (List (Word × Bool × List Byte)) :=
  let parsed := files.map readObject
  match firstSome (parsed.zipIdx.map (fun x => if x.1.isNone then some (LoadErr.malformed x.2) else none)) with
  | some e => .error e
  | none =>
    let objs := parsed.filterMap id
    match loadFault stackIn objs bases with
    | some e => .error e
    | none => linkObjects objs bases objs.zipIdx

/-- A load for partition `p` by hart `h`: rejected before any byte is copied, or every section copied to its address and released
at package scope. None as a state says that a page of a section has no writable translation. -/
def State.load (s : State) (h : Hart) (p : Nat) (files : List (List Byte)) (bases : List (List Word)) : Except LoadErr (Option State) :=
  match linkFiles (s.stackIn p) files bases with
  | .error e => .error e
  | .ok img =>
    let put (x : Bool × State) (y : Word × Bool × List Byte) : Bool × State :=
      let r := x.2.writeVA h p 0 (vaOf y.1) y.2.2
      (x.1 && r.1, r.2)
    let x := img.foldl put (true, s)
    .ok (if x.1 then some (x.2.drain h) else none)

end Sys2Proof.Machine
end

