-- ==== Sys2Proof/Machine/WikelText.lean ====
section
/-! DEFINITION. The wikel assembler's source text: lines, symbols, expressions, floating constants, macros and included files (R7,
R138, R139, R147, R433). -/

namespace Sys2Proof.Machine

abbrev Chars := List Char

/-- What a line or the whole source is reported for: E01 to E14, W01 to W03 (R146). -/
inductive WikelCode where
  | err (n : Nat)
  | warn (n : Nat)
  deriving DecidableEq, Repr

/-- A diagnostic: file, line and code. -/
structure Diag where
  file : Chars
  line : Nat
  code : WikelCode
  deriving DecidableEq, Repr

/-- What an attempt at a line gives: a value, or the number of the error; 100 a + b stands for the errors a and b together. -/
abbrev Try (α : Type) := Except Nat α
def errorsOf (n : Nat) : List Nat := if n < 100 then [n] else [n / 100, n % 100]

/-! ## Characters and words -/

def isSpace (c : Char) : Bool := c == ' ' || c == '\t' || c == '\r' || c == '\n'
def isWordChar (c : Char) : Bool := c.isAlphanum || c == '.' || c == '_'
def quote : Char := Char.ofNat 34
def trim (l : Chars) : Chars := ((l.dropWhile isSpace).reverse.dropWhile isSpace).reverse
/-- The text before the first comment; a quoted file name may hold a slash (R7). -/
def stripComment : Bool → Chars → Chars
  | _, [] => []
  | true, c :: l => c :: stripComment (c != quote) l
  | false, ';' :: _ => []
  | false, '/' :: '/' :: _ => []
  | false, c :: l => c :: stripComment (c == quote) l
/-- Split at the commas that stand outside brackets, parentheses and quotes. -/
def splitCommas : Chars → Nat → Bool → Chars → List Chars
  | [], _, _, cur => [trim cur.reverse]
  | c :: l, d, q, cur =>
    if c == quote then splitCommas l d (!q) (c :: cur)
    else if q then splitCommas l d q (c :: cur)
    else if c == ',' && d == 0 then trim cur.reverse :: splitCommas l d q []
    else splitCommas l (if c == '(' || c == '[' then d + 1 else if c == ')' || c == ']' then d - 1 else d) q (c :: cur)
/-- The operands of a line. -/
def operands (l : Chars) : List Chars := if (trim l).isEmpty then [] else splitCommas l 0 false []
/-- Split at every occurrence of a character. -/
def splitAtChar (c : Char) : Chars → Chars → List Chars
  | [], cur => [cur.reverse]
  | x :: l, cur => if x == c then cur.reverse :: splitAtChar c l [] else splitAtChar c l (x :: cur)

def isDigitOf (base : Nat) (c : Char) : Bool :=
  c.isDigit && c.toNat - 48 < base || base == 16 && (('a' ≤ c && c ≤ 'f') || ('A' ≤ c && c ≤ 'F'))
def digitVal (c : Char) : Nat :=
  if c.isDigit then c.toNat - 48 else if 'a' ≤ c then c.toNat - 87 else c.toNat - 55
/-- A number in a base; underscores separate digits (R2), and may stand anywhere among them in every base (DESIGN CHOICE, log 45). -/
def digitsVal (base : Nat) (l : Chars) : Option Nat :=
  let d := l.filter (fun c => c != '_')
  if d.isEmpty || !d.all (isDigitOf base) then none else some (d.foldl (fun n c => n * base + digitVal c) 0)
def numberVal : Chars → Option Nat
  | '0' :: 'x' :: l => digitsVal 16 l
  | '0' :: 'b' :: l => digitsVal 2 l
  | l => if (l.head?.map Char.isDigit).getD false then digitsVal 10 l else none

/-- A symbol's form (R138). -/
def isSymbol (l : Chars) : Bool :=
  match l with
  | [] => false
  | c :: r => (c.isAlpha || c == '.') && r.all isWordChar && r.length < 63

/-- The label, the mnemonic and the rest of a line (R7): the label is a word with a colon behind it. -/
def splitLine (l : Chars) : Option Chars × Chars × Chars :=
  let l := trim (stripComment false l)
  let w := l.takeWhile isWordChar
  let r := (l.drop w.length).dropWhile isSpace
  let (label, body) : Option Chars × Chars := match r with
    | ':' :: b => if w.isEmpty then (none, l) else (some w, trim b)
    | _ => (none, l)
  let m := body.takeWhile (fun c => !isSpace c)
  (label, m, trim (body.drop m.length))

/-! ## Expressions (R139) -/

/-- A relocatable symbol as it stands in an expression: its section when this source defines it, and its offset there. -/
structure Ref where
  name : Chars
  sect : Option Nat
  off : Word
  deriving DecidableEq, Repr
/-- A sum: a constant, symbols added and symbols subtracted. -/
structure Lin where
  c : Word
  pos : List Ref := []
  neg : List Ref := []
  deriving DecidableEq, Repr

/-- A label taken away from one of the same section leaves the difference of their offsets. -/
def Lin.cancel (c : Word) : List Ref → List Ref → Lin
  | [], neg => { c := c, neg := neg }
  | p :: pos, neg =>
    match (if p.sect.isSome then neg.find? (fun n => n.sect == p.sect) else none) with
    | some n => Lin.cancel (c + (p.off - n.off)) pos (neg.erase n)
    | none =>
      let r := Lin.cancel c pos neg
      { r with pos := p :: r.pos }
def Lin.norm (x : Lin) : Lin := Lin.cancel x.c x.pos x.neg
/-- An absolute value, else E05. -/
def Lin.abs (x : Lin) : Try Word :=
  let x := x.norm
  if x.pos.isEmpty && x.neg.isEmpty then .ok x.c else .error 5
/-- At most one relocatable symbol, with a positive sign, plus an absolute addend; else E05. -/
def Lin.rel (x : Lin) : Try (Option Ref × Word) :=
  let x := x.norm
  match x.pos, x.neg with
  | [], [] => .ok (none, x.c)
  | [p], [] => .ok (some p, x.c)
  | _, _ => .error 5

inductive Tok where
  | num (n : Nat)
  | sym (s : Chars)
  | op (s : Chars)
  deriving DecidableEq, Repr
/-- The token of a finished word. -/
def wordTok (cur : Chars) : Option (List Tok) :=
  let w := cur.reverse
  match w with
  | [] => some []
  | c :: _ => if c.isDigit then (numberVal w).map (fun n => [.num n]) else if isSymbol w then some [.sym w] else none
def lexExpr : Chars → Chars → Option (List Tok)
  | [], cur => wordTok cur
  | '<' :: '<' :: l, cur => match wordTok cur, lexExpr l [] with
    | some t, some r => some (t ++ .op ['<', '<'] :: r)
    | _, _ => none
  | '>' :: '>' :: l, cur => match wordTok cur, lexExpr l [] with
    | some t, some r => some (t ++ .op ['>', '>'] :: r)
    | _, _ => none
  | c :: l, cur =>
    if isWordChar c then lexExpr l (c :: cur)
    else match wordTok cur, lexExpr l [] with
    | some t, some r =>
      if isSpace c then some (t ++ r)
      else if ['+', '-', '*', '/', '&', '^', '|', '~', '(', ')'].contains c then some (t ++ .op [c] :: r) else none
    | _, _ => none

inductive EOp where
  | paren
  | minus
  | inv
  | bin (s : Chars)
  deriving DecidableEq, Repr
/-- How tightly an operator binds; `&`, `^` and `|` are three groups in that order (DEDUCED, log 45). -/
def EOp.prec : EOp → Nat
  | .paren => 0
  | .minus | .inv => 7
  | .bin ['*'] | .bin ['/'] => 6
  | .bin ['+'] | .bin ['-'] => 5
  | .bin ['<', '<'] | .bin ['>', '>'] => 4
  | .bin ['&'] => 3
  | .bin ['^'] => 2
  | .bin _ => 1
/-- A quotient toward zero. -/
def truncDiv (a b : Word) : Word := BitVec.ofInt 64 (a.toInt.tdiv b.toInt)
/-- A binary operator on two values; a shift by 64 or more gives 0 (DESIGN CHOICE, log 45). -/
def binary (s : Chars) (a b : Lin) : Try Lin :=
  match s with
  | ['+'] => .ok { c := a.c + b.c, pos := a.pos ++ b.pos, neg := a.neg ++ b.neg }
  | ['-'] => .ok { c := a.c - b.c, pos := a.pos ++ b.neg, neg := a.neg ++ b.pos }
  | _ => match a.abs, b.abs with
    | .ok x, .ok y =>
      match s with
      | ['*'] => .ok { c := x * y }
      | ['/'] => if y = 0 then .error 1 else .ok { c := truncDiv x y }
      | ['<', '<'] => .ok { c := if 64 ≤ y.toNat then 0 else x <<< y.toNat }
      | ['>', '>'] => .ok { c := if 64 ≤ y.toNat then 0 else x >>> y.toNat }
      | ['&'] => .ok { c := x &&& y }
      | ['^'] => .ok { c := x ^^^ y }
      | _ => .ok { c := x ||| y }
    | _, _ => .error 5
/-- One operator takes its operands off the values. -/
def applyOp (o : EOp) (vals : List Lin) : Try (List Lin) :=
  match o, vals with
  | .minus, x :: l => .ok ({ c := -x.c, pos := x.neg, neg := x.pos } :: l)
  | .inv, x :: l => match x.abs with
    | .ok w => .ok ({ c := ~~~w } :: l)
    | .error e => .error e
  | .bin s, y :: x :: l => match binary s x y with
    | .ok z => .ok (z :: l)
    | .error e => .error e
  | _, _ => .error 1
/-- Operators that bind at least as tightly as `p` are applied. -/
def unwind (p : Nat) : List EOp → List Lin → Try (List EOp × List Lin)
  | [], vals => .ok ([], vals)
  | o :: ops, vals =>
    if o.prec < p then .ok (o :: ops, vals)
    else match applyOp o vals with
    | .ok vals => unwind p ops vals
    | .error e => .error e
/-- The value of a token list; `want` says that an operand is due. -/
def evalToks (look : Chars → Try Lin) : List Tok → Bool → List EOp → List Lin → Try Lin
  | [], want, ops, vals =>
    if want then .error 1
    else match unwind 1 ops vals with
    | .ok ([], [x]) => .ok x
    | .ok _ => .error 1
    | .error e => .error e
  | .num n :: l, true, ops, vals => evalToks look l false ops ({ c := BitVec.ofNat 64 n } :: vals)
  | .sym s :: l, true, ops, vals => match look s with
    | .ok x => evalToks look l false ops (x :: vals)
    | .error e => .error e
  | .op ['('] :: l, true, ops, vals => evalToks look l true (.paren :: ops) vals
  | .op ['-'] :: l, true, ops, vals => evalToks look l true (.minus :: ops) vals
  | .op ['~'] :: l, true, ops, vals => evalToks look l true (.inv :: ops) vals
  | .op [')'] :: l, false, ops, vals => match unwind 1 ops vals with
    | .ok (.paren :: ops, vals) => evalToks look l false ops vals
    | .ok _ => .error 1
    | .error e => .error e
  | .op s :: l, false, ops, vals =>
    if s == ['('] || s == ['~'] then .error 1
    else match unwind (EOp.bin s).prec ops vals with
    | .ok (ops, vals) => evalToks look l true (.bin s :: ops) vals
    | .error e => .error e
  | _ :: _, _, _, _ => .error 1
/-- A plain expression. -/
def evalExpr (look : Chars → Try Lin) (l : Chars) : Try Lin :=
  match lexExpr l [] with
  | some t => evalToks look t true [] []
  | none => .error 1

/-- The argument of `%name( )` when the whole text is that. -/
def callArg (name : String) (l : Chars) : Option Chars :=
  let p := '%' :: name.toList ++ ['(']
  if p.isPrefixOf l && l.getLast? == some ')' then some ((l.drop p.length).dropLast) else none
/-- `%oa(d, c, g, off)` (R144). -/
def oaValue (look : Chars → Try Lin) (arg : Chars) : Try Lin :=
  match (operands arg).map (fun t => (evalExpr look t).bind Lin.abs) with
  | [.ok d, .ok c, .ok g, .ok o] =>
    if d.toNat < 4 && c.toNat < 96 && g.toNat < 12 && o.toNat < 2 ^ 27 then
      .ok { c := BitVec.ofNat 64 (d.toNat * 2 ^ 38 + c.toNat * 2 ^ 31 + g.toNat * 2 ^ 27 + o.toNat) }
    else .error 14
  | [a, b, c, d] => match [a, b, c, d].filterMap (fun x => match x with
      | .error e => some e
      | .ok _ => none) with
    | e :: _ => .error e
    | [] => .error 1
  | _ => .error 1
/-- An operand's value: an expression, or `%oa` of absolute operands. -/
def evalOperand (look : Chars → Try Lin) (l : Chars) : Try Lin :=
  match callArg "oa" l with
  | some a => oaValue look a
  | none => evalExpr look l
def evalAbs (look : Chars → Try Lin) (l : Chars) : Try Word := (evalOperand look l).bind Lin.abs
/-- An absolute value read as signed that lies in a range, else E03. -/
def evalIn (look : Chars → Try Lin) (lo hi : Int) (l : Chars) : Try Int :=
  (evalAbs look l).bind (fun w => if lo ≤ w.toInt && w.toInt ≤ hi then .ok w.toInt else .error 3)

/-! ## Floating constants (R433) -/

/-- Digits with at most one point: the number they make and how many stand behind the point. -/
def pointed (base : Nat) (l : Chars) : Option (Nat × Nat) :=
  match splitAtChar '.' l [] with
  | [a] => (digitsVal base a).map (fun n => (n, 0))
  | [a, b] =>
    let d := (a ++ b).filter (fun c => c != '_')
    (digitsVal base (a ++ b)).map (fun n => (n, d.length - (a.filter (fun c => c != '_')).length))
  | _ => none
def signedVal (l : Chars) : Option Int :=
  match l with
  | '-' :: d => (digitsVal 10 d).map (fun n => -(n : Int))
  | '+' :: d => (digitsVal 10 d).map (fun n => (n : Int))
  | d => (digitsVal 10 d).map (fun n => (n : Int))
/-- A magnitude in decimal form. A value past the limits of every format keeps no more than its side of them. -/
def decimalNum (neg : Bool) (l : Chars) : Option Num :=
  let l := l.map (fun c => if c == 'E' then 'e' else c)
  let val (m digits : Nat) (k : Int) : Num :=
    if m = 0 then .fin neg 0 0
    else if 400 < k then .fin neg 1 4000
    else if k + digits < -400 then .fin neg 1 (-4000)
    else if 0 ≤ k then .fin neg (m * 10 ^ k.toNat) 0
    else (Num.div (.fin neg m 0) (.fin false (10 ^ (-k).toNat) 0)).1
  match splitAtChar 'e' l [] with
  | [m] => (pointed 10 m).map (fun p => val p.1 m.length (-(p.2 : Int)))
  | [m, x] => match pointed 10 m, signedVal x with
    | some p, some k => some (val p.1 m.length (k - p.2))
    | _, _ => none
  | _ => none
/-- A magnitude in hexadecimal floating form, whose binary exponent is required. -/
def hexNum (neg : Bool) (l : Chars) : Option Num :=
  let l := l.map (fun c => if c == 'P' then 'p' else c)
  match splitAtChar 'p' l [] with
  | [m, x] => match pointed 16 m, signedVal x with
    | some p, some k =>
      let e := k - 4 * p.2
      some (if p.1 = 0 then .fin neg 0 0 else if 4000 < e then .fin neg 1 4000
        else if e + Nat.log2 p.1 < -4000 then .fin neg 1 (-4000) else .fin neg p.1 e)
    | _, _ => none
  | _ => none
/-- The bits a constant of `.f32` or `.f64` emits: E01 for no constant, E03 for one outside the format. A pattern is measured by its
value, so zero digits in front do not count (DESIGN CHOICE, log 45). -/
def floatBits (f : Fmt) (l : Chars) : Try Nat :=
  let l := trim l
  let (signed, neg, m) : Bool × Bool × Chars := match l with
    | '-' :: r => (true, true, r)
    | '+' :: r => (true, false, r)
    | r => (false, false, r)
  let put (x : Num) : Try Nat :=
    let r := f.round .rne x
    if (r.2 &&& fOF) != 0 then .error 3 else .ok r.1
  if m == "inf".toList then (if signed && !neg then .error 1 else .ok (f.infBits neg))
  else match m with
  | '0' :: 'x' :: r =>
    if r.any (fun c => c == 'p' || c == 'P') then (match hexNum neg r with
      | some x => put x
      | none => .error 1)
    else if signed then .error 1
    else match digitsVal 16 r with
    | some n => if n < 2 ^ f.width then .ok n else .error 3
    | none => .error 1
  | _ => match decimalNum neg m with
    | some x => put x
    | none => .error 1

/-! ## Macros and included files (R141, R147) -/

/-- A line of source on its way: its file and number, the files it is included from, and the depth of macro expansion. A line with a
`note` is listed and does nothing else (R137), but for the label that it defines under `some true`. -/
structure SrcLine where
  file : Chars
  num : Nat
  text : Chars
  chain : List Chars
  depth : Nat
  note : Option Bool := none
  deriving DecidableEq, Repr
structure MacroDef where
  name : Chars
  params : List Chars
  body : List Chars
  deriving DecidableEq, Repr

/-- `$name` in a body becomes the argument's text, `$uid` the number of the expansion. A name ends at the first character that is no
letter, digit or underscore, so a parameter whose name holds a full stop is never replaced (DESIGN CHOICE, log 45). -/
def substitute (args : List (Chars × Chars)) : Nat → Chars → Chars
  | 0, l => l
  | _ + 1, [] => []
  | fuel + 1, '$' :: l =>
    let w := l.takeWhile (fun c => c.isAlphanum || c == '_')
    match args.find? (fun a => a.1 == w) with
    | some a => a.2 ++ substitute args fuel (l.drop w.length)
    | none => '$' :: substitute args fuel l
  | fuel + 1, c :: l => c :: substitute args fuel l

/-- The directory part of a path, with its slash. -/
def dirOf (p : Chars) : Chars := (p.reverse.dropWhile (fun c => c != '/')).reverse
/-- The first file of that name: beside the including file, then along the search path (R137). -/
def findFile (files : List (Chars × List Chars)) (dirs : List Chars) (here name : Chars) : Option (Chars × List Chars) :=
  let paths := (dirOf here ++ name) :: dirs.map (fun d => d ++ '/' :: name)
  (paths.filterMap (fun p => files.find? (fun f => f.1 == p))).head?

structure Expanded where
  lines : List SrcLine
  diags : List Diag
  deriving DecidableEq, Repr

def SrcLine.diag (l : SrcLine) (n : Nat) : Diag := { file := l.file, line := l.num, code := .err n }
def numbered (file : Chars) (chain : List Chars) (depth : Nat) (l : List Chars) : List SrcLine :=
  l.zipIdx.map (fun x => { file := file, num := x.2 + 1, text := x.1, chain := chain, depth := depth })

/-- The lines of a source with its macros expanded and its files included. `isMnemonic` says which names no macro may take and
`isTaken` which lines no macro stands for (R147); an expansion is numbered by `uid`. R147 names no code for more than eight parameters,
here E13, nor for a macro defined twice, here E06, nor what a parameter's name may hold, here any symbol; and none for a `.endm` that
closes nothing, here E13 (DESIGN CHOICE, log 45). -/
def expandLines (isMnemonic isTaken : Chars → Bool) (files : List (Chars × List Chars)) (dirs : List Chars) :
    Nat → List MacroDef → Nat → List SrcLine → Expanded
  | 0, _, _, _ => { lines := [], diags := [] }
  | _ + 1, _, _, [] => { lines := [], diags := [] }
  | fuel + 1, ms, uid, l :: rest =>
    let (_, m, ops) := splitLine l.text
    let go (ms : List MacroDef) (uid : Nat) (rest : List SrcLine) (first : List SrcLine) (d : List Diag) : Expanded :=
      let r := expandLines isMnemonic isTaken files dirs fuel ms uid rest
      { lines := first ++ r.lines, diags := d ++ r.diags }
    let note : SrcLine := { l with note := some true }
    let fail (n : Nat) (rest : List SrcLine) : Expanded := go ms uid rest [note] [l.diag n]
    if m == ".macro".toList then
      let body := rest.takeWhile (fun x => (splitLine x.text).2.1 != ".endm".toList)
      let after := rest.drop (body.length + 1)
      let seen := note :: body.map (fun x => { x with note := some false }) ++ ((rest.drop body.length).take 1).map (fun x => { x with note := some true })
      let bad (n : Nat) : Expanded := go ms uid after seen [l.diag n]
      match operands ops with
      | [] => bad 1
      | name :: params =>
        if body.length = rest.length || 8 < params.length then bad 13
        else if isMnemonic name || ms.any (fun d => d.name == name) then bad 6
        else if !isSymbol name || !params.all isSymbol then bad 1
        else go ({ name := name, params := params, body := body.map (fun x => x.text) } :: ms) uid after seen []
    else if m == ".endm".toList then fail 13 rest
    else if m == ".include".toList then
      let f := trim ops
      if f.length < 2 || f.head? != some quote || f.getLast? != some quote then fail 1 rest
      else match findFile files dirs l.file ((f.drop 1).dropLast) with
      | none => fail 1 rest
      | some (p, text) =>
        if l.chain.contains p || 16 < l.chain.length then fail 12 rest
        else go ms uid (numbered p (p :: l.chain) l.depth text ++ rest) [note] []
    else match (if isTaken m then none else ms.find? (fun d => d.name == m)) with
    | none => go ms uid rest [l] []
    | some d =>
      let args := operands ops
      if args.length ≠ d.params.length || 32 ≤ l.depth then fail 13 rest
      else
        let env := ("uid".toList, (toString uid).toList) :: d.params.zip args
        let body := d.body.map (fun t => { l with text := substitute env (t.length + 1) t, depth := l.depth + 1 })
        go ms (uid + 1) (body ++ rest) [note] []

end Sys2Proof.Machine
end

