-- ==== Sys2Proof/Machine/WikelForms.lean ====
section
/-! DEFINITION. The assembly form of every instruction, as its chapter gives it: mnemonic, suffixes and operands to an instruction
and the relocation of its field (R7, R128, R130, R144, R145, R434). -/

namespace Sys2Proof.Machine.Wikel

/-! ## Operands -/

/-- Where an instruction stands and how its symbols are looked up. -/
structure FormEnv where
  look : Chars → Try Lin
  sect : Nat
  off : Nat

/-- A relocation of the head's field: type, symbol and addend. -/
structure Fix where
  type : Nat
  ref : Ref
  addend : Word
  deriving DecidableEq, Repr

structure Formed where
  instr : Instr
  fix : Option Fix := none
  deriving DecidableEq, Repr

/-- An instruction's form: types of the suffix, then operands. -/
abbrev Form := FormEnv → List Ty → List Chars → Try Formed

/-- The destination modifiers of R129. -/
def modNames : List String :=
  ["c01", "c11", "sat", "x2", "x4", "x8", "x16", "x32", "x64", "x128", "d2", "d4", "d8", "d16", "d32", "d64", "d128", "d256"]
/-- A register's name under a modifier of R129: `-r`, `abs(r)`, `-abs(r)` or `r:m`. -/
def isModified (l : Chars) : Bool :=
  match splitAtChar ':' l [] with
  | [] => false
  | r :: ms =>
    let (neg, r) : Bool × Chars := match trim r with
      | '-' :: r => (true, trim r)
      | r => (false, r)
    let abs := "abs(".toList.isPrefixOf r && r.getLast? == some ')'
    let r := if abs then trim ((r.drop 4).dropLast) else r
    (neg || abs || !ms.isEmpty) && ms.all (fun m => modNames.any (fun n => n.toList == m)) &&
    (match r with
     | c :: d => ['s', 'v', 'm', 'a'].contains c && !d.isEmpty && d.all Char.isDigit
     | [] => false)
/-- A register of one kind, by its letter. A number outside R130's limits is E03, a modifier on a form that takes none E04. -/
def regOf (kind : Char) (l : Chars) : Try Reg :=
  match l with
  | c :: d =>
    if isModified l then .error 4
    else if c == kind && !d.isEmpty && d.all Char.isDigit && (d.length == 1 || d.head? != some '0') then
      match digitsVal 10 d with
      | some n => if n < (if kind == 'm' || kind == 'a' then 8 else 32) then .ok (BitVec.ofNat 5 n) else .error 3
      | none => .error 1
    else .error 1
  | [] => .error 1
def sreg : Chars → Try Reg := regOf 's'
def vreg : Chars → Try Reg := regOf 'v'
def mreg : Chars → Try Reg := regOf 'm'
def areg : Chars → Try Reg := regOf 'a'

/-- `[base+off]`: the register and the text of the offset. -/
def bracket (l : Chars) : Try (Reg × Chars) :=
  match l with
  | '[' :: r =>
    if r.getLast? == some ']' then
      let r := trim r.dropLast
      let w := r.takeWhile isWordChar
      match sreg w with
      | .ok b => .ok (b, trim (r.drop w.length))
      | .error e => .error e
    else .error 1
  | _ => .error 1
/-- A memory operand with an offset of 16 bits (R210). -/
def memOff (e : FormEnv) (l : Chars) : Try (Reg × BitVec 16) := do
  let (b, t) ← bracket l
  match t with
  | [] => pure (b, 0)
  | '+' :: r => pure (b, BitVec.ofInt 16 (← evalIn e.look (-32768) 32767 r))
  | '-' :: _ => pure (b, BitVec.ofInt 16 (← evalIn e.look (-32768) 32767 t))
  | _ => .error 1
/-- A bracketed register with no offset; an offset is E03 (R216). -/
def memReg (l : Chars) : Try Reg := do
  let (b, t) ← bracket l
  if t.isEmpty then pure b else .error 3
/-- A constant from `lo` to `hi`. -/
def const (e : FormEnv) (w : Nat) (lo hi : Int) (l : Chars) : Try (BitVec w) :=
  (evalIn e.look lo hi l).map (fun x => BitVec.ofInt w x)

/-- A word of a fixed list, by its place. -/
def wordOf (words : List String) (err : Nat) (l : Chars) : Try Nat :=
  let i := words.findIdx (fun w => w.toList == l)
  if i < words.length then .ok i else .error err
def scopeWords : List String := ["thread", "core", "cluster", "die", "stack", "package", "system"]
/-- A scope's number. R146 names no code for a word that is no scope: it is E03 (DESIGN CHOICE, log 45). -/
def scopeOf (l : Chars) : Try (BitVec 3) := (wordOf scopeWords 3 l).map (fun n => BitVec.ofNat 3 n)
def modeWords : List String := ["rne", "rtz", "rdn", "rup", "rna"]
def isMode (l : Chars) : Bool := modeWords.any (fun w => w.toList == l)
/-- The names of R90, with their numbers. -/
def controlNames : List (String × Nat) :=
  [("FMTA", 0), ("FMTB", 1), ("FMTC", 2), ("SCLA", 3), ("SCLB", 4), ("SCLC", 5), ("FLAGS", 6), ("TRAPEN", 7), ("PDEAD", 8),
   ("SPSAVE", 9), ("MWGT", 16), ("CHKTOL", 17), ("KNWIN", 18)]
def control (e : FormEnv) (l : Chars) : Try Reg :=
  match controlNames.find? (fun x => x.1.toList == l) with
  | some x => .ok (BitVec.ofNat 5 x.2)
  | none => const e 5 0 31 l

/-- `%hi(e)` or `%lo(e)` with `%line` inside it or not: the expression, whether `%line` was there. -/
def partArg (name : String) (l : Chars) : Option (Chars × Bool) :=
  (callArg name l).map (fun a => match callArg "line" (trim a) with
    | some b => (b, true)
    | none => (a, false))
def lineBase (w : Word) : Word := w &&& ~~~63#64

/-- The value of LI (R144, R145, R185). -/
def liForm (rd : Reg) (e : FormEnv) (l : Chars) : Try Formed := do
  match partArg "hi" l with
  | some (a, _) =>
    let (r, w) ← (← evalExpr e.look a).rel
    match r with
    | none => pure { instr := .liSh16 rd (w.extractLsb' 16 48) }
    | some r => pure { instr := .liSh16 rd 0, fix := some { type := 2, ref := r, addend := w } }
  | none =>
    let (r, w) ← (← evalOperand e.look l).rel
    match r with
    | some r => pure { instr := .li rd 0, fix := some { type := 4, ref := r, addend := w } }
    | none =>
      if -(2 ^ 47) ≤ w.toInt && w.toInt < 2 ^ 47 then pure { instr := .li rd (w.setWidth 48) }
      else if w.extractLsb' 0 16 == 0#16 then pure { instr := .liSh16 rd (w.extractLsb' 16 48) }
      else .error 3

/-- The immediate of ORI, XORI or ANDI that may be `%lo`. -/
def loForm (f : BitVec 16 → Instr) (lo hi : Int) (e : FormEnv) (l : Chars) : Try Formed := do
  match partArg "lo" l with
  | none => pure { instr := f (← const e 16 lo hi l) }
  | some (a, line) =>
    let (r, w) ← (← evalExpr e.look a).rel
    match r with
    | none => pure { instr := f ((if line then lineBase w else w).setWidth 16) }
    | some r => pure { instr := f 0, fix := some { type := if line then 7 else 3, ref := r, addend := w } }

/-- The target of a layout-B instruction (R145): resolved for a label of the same section, recorded for an imported symbol, E05 for
anything else, E07 where it does not fit. -/
def target (f : BitVec 22 → BitVec 5 → Instr) (e : FormEnv) (l : Chars) : Try Formed := do
  let (r, w) ← (← evalOperand e.look l).rel
  match r with
  | none => .error 5
  | some r => match r.sect with
    | none => pure { instr := f 0 0, fix := some { type := 5, ref := r, addend := w } }
    | some k =>
      if k ≠ e.sect then .error 5
      else
        let t := r.off + w
        let d := t.toInt / 64 - (e.off / 64 : Nat)
        if isHeadPc t && decide (-(2 ^ 21) ≤ d) && decide (d < 2 ^ 21) then
          pure { instr := f (BitVec.ofInt 22 d) (t.extractLsb' 1 5) }
        else .error 7

/-! ## Vector operands (R128) -/

/-- A destination modifier, added to the modifier word. A word behind the colon that is no modifier of R129 is E04 (DESIGN CHOICE, log
45). -/
def destMod (md : BitVec 16) (l : Chars) : Try (BitVec 16) :=
  let clamp (n : BitVec 2) : Try (BitVec 16) := if modClamp md == 0#2 then .ok (md ||| ((n.setWidth 16) <<< 6)) else .error 4
  let scale (n : Int) : Try (BitVec 16) :=
    if modScale md == 0#4 then .ok (md ||| (((BitVec.ofInt 4 n).setWidth 16) <<< 8)) else .error 4
  if l == "c01".toList then clamp 1
  else if l == "c11".toList then clamp 2
  else if l == "sat".toList then clamp 3
  else
    let pow (c : Char) (top : Nat) : Nat := (List.range top).findIdx (fun k => l == c :: (toString (2 ^ (k + 1))).toList)
    if pow 'x' 7 < 7 then scale (pow 'x' 7 + 1)
    else if pow 'd' 8 < 8 then scale (-((pow 'd' 8 : Int) + 1))
    else .error 4
/-- A destination with its modifiers. -/
def vdest (l : Chars) : Try (Reg × BitVec 16) := do
  match splitAtChar ':' l [] with
  | r :: ms => pure (← vreg (trim r), ← ms.foldlM destMod 0)
  | [] => .error 1
/-- Source `k` with its modifiers. -/
def vsource (k : Nat) (l : Chars) : Try (Reg × BitVec 16) := do
  let (neg, r) : Bool × Chars := match l with
    | '-' :: r => (true, trim r)
    | r => (false, r)
  let abs := "abs(".toList.isPrefixOf r && r.getLast? == some ')'
  let v ← vreg (if abs then trim ((r.drop 4).dropLast) else r)
  let bit (b : Bool) (n : Nat) : BitVec 16 := if b then 1#16 <<< n else 0
  pure (v, bit neg (2 * k - 2) ||| bit abs (2 * k - 1))
def isMask (l : Chars) : Bool := l.head? == some 'm' && 1 < l.length && (l.drop 1).all Char.isDigit
/-- The mask operand that may end a line. -/
def maskOf (ops : List Chars) : Try (BitVec 16) :=
  match ops with
  | [] => .ok 0
  | [m] => (mreg m).map (fun r : Reg => (r.setWidth 16 : BitVec 16) <<< (12 : Nat))
  | _ => .error 1

/-! ## Building forms -/

/-- An instruction within its limits, else E03 (DEDUCED, log 45). -/
def checked (i : Instr) : Try Formed := if i.wellFormed then .ok { instr := i } else .error 3
/-- As `checked`, with E04 where only the modifier word is at fault. -/
def checkedMod (f : BitVec 16 → Instr) (md : BitVec 16) : Try Formed :=
  if (f md).wellFormed then .ok { instr := f md } else if (f 0).wellFormed then .error 4 else .error 3

/-- A form without a suffix. -/
def plain (f : FormEnv → List Chars → Try Formed) : Form := fun e ts ops =>
  if ts.isEmpty then f e ops else .error 2
/-- A form with one type suffix. -/
def typed (f : Ty → FormEnv → List Chars → Try Formed) : Form := fun e ts ops =>
  match ts with
  | [t] => f t e ops
  | [] => .error 3
  | _ => .error 2

def ops0 (i : Instr) : Form := plain fun _ ops => if ops.isEmpty then checked i else .error 1
def ops1 {α : Type} (p : FormEnv → Chars → Try α) (f : α → Instr) : Form := plain fun e ops => match ops with
  | [a] => do checked (f (← p e a))
  | _ => .error 1
def ops2 {α β : Type} (p : FormEnv → Chars → Try α) (q : FormEnv → Chars → Try β) (f : α → β → Instr) : Form := plain fun e ops =>
  match ops with
  | [a, b] => do checked (f (← p e a) (← q e b))
  | _ => .error 1
def ops3 {α β γ : Type} (p : FormEnv → Chars → Try α) (q : FormEnv → Chars → Try β) (r : FormEnv → Chars → Try γ)
    (f : α → β → γ → Instr) : Form := plain fun e ops => match ops with
  | [a, b, c] => do checked (f (← p e a) (← q e b) (← r e c))
  | _ => .error 1
def ops4 {α β γ δ : Type} (p : FormEnv → Chars → Try α) (q : FormEnv → Chars → Try β) (r : FormEnv → Chars → Try γ)
    (t : FormEnv → Chars → Try δ) (f : α → β → γ → δ → Instr) : Form := plain fun e ops => match ops with
  | [a, b, c, d] => do checked (f (← p e a) (← q e b) (← r e c) (← t e d))
  | _ => .error 1

def pS (_ : FormEnv) : Chars → Try Reg := sreg
def pV (_ : FormEnv) : Chars → Try Reg := vreg
def pM (_ : FormEnv) : Chars → Try Reg := mreg
def pA (_ : FormEnv) : Chars → Try Reg := areg
def pMem (_ : FormEnv) : Chars → Try Reg := memReg
def pScope (_ : FormEnv) : Chars → Try (BitVec 3) := scopeOf
def pNum (w : Nat) (lo hi : Int) (e : FormEnv) : Chars → Try (BitVec w) := const e w lo hi
def pWord (w : String) (_ : FormEnv) (l : Chars) : Try Unit := (wordOf [w] 1 l).map (fun _ => ())

/-- A loaded or stored scalar: register, memory operand. A scope where the form takes none is E03 (R210). -/
def noScope (l : Chars) : Nat := if scopeWords.any (fun w => w.toList == l) then 3 else 1
def scalarMem (f : Reg → Reg → Ty → BitVec 16 → Instr) : Form := typed fun t e ops => match ops with
  | [a, m] => do
    let (b, off) ← memOff e m
    checked (f (← sreg a) b t off)
  | [_, _, sc] => .error (noScope sc)
  | _ => .error 1
def scalarMemScope (f : Reg → Reg → Ty → BitVec 16 → BitVec 3 → Instr) : Form := typed fun t e ops => match ops with
  | [a, m, sc] => do
    let (b, off) ← memOff e m
    checked (f (← sreg a) b t off (← scopeOf sc))
  | _ => .error 1
/-- A vector access. A suffix is E02 (R434), and one that names a TYPE other than 0 is E03 as well (R210). -/
def vectorMem (f : Reg → Reg → BitVec 16 → Instr) : Form := fun e ts ops =>
  if ts.any (fun t => t != 0#5) then .error 203
  else plain (fun e ops => match ops with
    | [a, m] => do
      let (b, off) ← memOff e m
      checked (f (← vreg a) b off)
    | [_, _, sc] => .error (noScope sc)
    | _ => .error 1) e ts ops
/-- DLD and DST: the suffix, or the lack of one, chooses the form (R315, R434). -/
def eitherMem (f : Reg → Reg → Ty → BitVec 16 → Instr) (g : Reg → Reg → BitVec 16 → Instr) : Form := fun e ts ops =>
  if ts.isEmpty then vectorMem g e ts ops else scalarMem f e ts ops

def amoForm (f : Reg → Reg → Reg → Ty → BitVec 3 → Instr) : Form := typed fun t _ ops => match ops with
  | [d, a, v, sc] => do checked (f (← sreg d) (← memReg a) (← sreg v) t (← scopeOf sc))
  | _ => .error 1
def redForm (f : Reg → Reg → Ty → BitVec 3 → Instr) : Form := typed fun t _ ops => match ops with
  | [a, v, sc] => do checked (f (← memReg a) (← sreg v) t (← scopeOf sc))
  | _ => .error 1

def branch (f : Reg → Reg → BitVec 22 → BitVec 5 → Instr) : Form := plain fun e ops => match ops with
  | [a, b, l] => do target (f (← sreg a) (← sreg b)) e l
  | _ => .error 1
def jump (f : BitVec 22 → BitVec 5 → Instr) : Form := plain fun e ops => match ops with
  | [l] => target f e l
  | _ => .error 1
def loImm (f : Reg → Reg → BitVec 16 → Instr) (lo hi : Int) : Form := plain fun e ops => match ops with
  | [d, a, i] => do loForm (f (← sreg d) (← sreg a)) lo hi e i
  | _ => .error 1

/-- Vector forms of one, two and three sources with modifiers and a mask. -/
def vec1 (f : Reg → Reg → Ty → BitVec 16 → Instr) : Form := typed fun t _ ops => match ops with
  | d :: a :: r => do
    let (d, m0) ← vdest d
    let (a, m1) ← vsource 1 a
    checkedMod (f d a t) (m0 ||| m1 ||| (← maskOf r))
  | _ => .error 1
def vec2 (f : Reg → Reg → Reg → Ty → BitVec 16 → Instr) : Form := typed fun t _ ops => match ops with
  | d :: a :: b :: r => do
    let (d, m0) ← vdest d
    let (a, m1) ← vsource 1 a
    let (b, m2) ← vsource 2 b
    checkedMod (f d a b t) (m0 ||| m1 ||| m2 ||| (← maskOf r))
  | _ => .error 1
def vec3 (f : Reg → Reg → Reg → Reg → Ty → BitVec 16 → Instr) : Form := typed fun t _ ops => match ops with
  | d :: a :: b :: c :: r => do
    let (d, m0) ← vdest d
    let (a, m1) ← vsource 1 a
    let (b, m2) ← vsource 2 b
    let (c, m3) ← vsource 3 c
    checkedMod (f d a b c t) (m0 ||| m1 ||| m2 ||| m3 ||| (← maskOf r))
  | _ => .error 1
/-- The shifts: by lanes, or by `#n` (R237). -/
def vshift (f : Reg → Reg → Reg → Ty → BitVec 16 → Instr) (g : Reg → Reg → BitVec 8 → Ty → BitVec 16 → Instr) : Form :=
  fun e ts ops => match ops with
  | d :: a :: ('#' :: n) :: r => typed (fun t e _ => do
      let (d, m0) ← vdest d
      let (a, m1) ← vsource 1 a
      checkedMod (g d a (← const e 8 0 255 n) t) (m0 ||| m1 ||| (← maskOf r))) e ts ops
  | _ => vec2 f e ts ops
/-- A scalar result of one or two vector sources. -/
def vtoS1 (f : Reg → Reg → Ty → BitVec 16 → Instr) : Form := typed fun t _ ops => match ops with
  | d :: a :: r => do
    let (a, m1) ← vsource 1 a
    checkedMod (f (← sreg d) a t) (m1 ||| (← maskOf r))
  | _ => .error 1
def vtoS2 (f : Reg → Reg → Reg → Ty → BitVec 16 → Instr) : Form := typed fun t _ ops => match ops with
  | d :: a :: b :: r => do
    let (a, m1) ← vsource 1 a
    let (b, m2) ← vsource 2 b
    checkedMod (f (← sreg d) a b t) (m1 ||| m2 ||| (← maskOf r))
  | _ => .error 1
/-- A vector written from a scalar, under a mask. -/
def sToV (f : Reg → Reg → Ty → BitVec 16 → Instr) : Form := typed fun t _ ops => match ops with
  | d :: s :: r => do
    let (d, m0) ← vdest d
    checkedMod (f d (← sreg s) t) (m0 ||| (← maskOf r))
  | _ => .error 1
def vcmpForm (cc : BitVec 3) : Form := typed fun t _ ops => match ops with
  | d :: a :: b :: r => do
    let (a, m1) ← vsource 1 a
    let (b, m2) ← vsource 2 b
    checkedMod (.vcmp (← mreg d) a b cc t) (m1 ||| m2 ||| (← maskOf r))
  | _ => .error 1
def vclassForm : Form := typed fun t e ops => match ops with
  | d :: a :: set :: r => do
    let (a, m1) ← vsource 1 a
    checkedMod (.vclass (← mreg d) a (← const e 10 0 1023 set) t) (m1 ||| (← maskOf r))
  | _ => .error 1
def vselForm : Form := typed fun t _ ops => match ops with
  | d :: a :: b :: mk :: r => do
    let (d, m0) ← vdest d
    let (a, m1) ← vsource 1 a
    let (b, m2) ← vsource 2 b
    checkedMod (.vsel d a b ((← mreg mk).setWidth 3) t) (m0 ||| m1 ||| m2 ||| (← maskOf r))
  | _ => .error 1

/-- The rounding mode that may stand next; rne when it is left out (R241). -/
def takeMode : List Chars → BitVec 3 × List Chars
  | m :: r => if isMode m then (BitVec.ofNat 3 (modeWords.findIdx (fun w => w.toList == m)), r) else (0, m :: r)
  | [] => (0, [])
/-- The part that may stand next; 0 when it is left out. -/
def takePart (e : FormEnv) (hi : Int) : List Chars → Try (BitVec 3 × List Chars)
  | p :: r => if isMode p || isMask p then .ok (0, p :: r) else (const e 3 0 hi p).map (fun x => (x, r))
  | [] => .ok (0, [])
/-- `VCVT.dt.st vd, va[, part][, mode]`. -/
def vcvtForm : Form := fun e ts ops => match ts, ops with
  | [dt, st], d :: a :: r => do
    let (d, m0) ← vdest d
    let (a, m1) ← vsource 1 a
    let (part, r) ← takePart e 7 r
    let (mode, r) := takeMode r
    checkedMod (.vcvt d a dt st part mode) (m0 ||| m1 ||| (← maskOf r))
  | [_, _], _ => .error 1
  | _, _ => if ts.length < 2 then .error 3 else .error 2
def vqntForm : Form := typed fun t _ ops => match ops with
  | d :: a :: b :: r => do
    let (d, m0) ← vdest d
    let (a, m1) ← vsource 1 a
    let (b, m2) ← vsource 2 b
    let (mode, r) := takeMode r
    if (m0 ||| m1 ||| m2 ||| (← maskOf r)) == 0 then checked (.vqnt d a b t mode) else .error 4
  | _ => .error 1
def vdqForm : Form := typed fun t e ops => match ops with
  | d :: a :: r => do
    let (d, m0) ← vdest d
    let (a, m1) ← vsource 1 a
    let (part, r) ← takePart e 1 r
    checkedMod (.vdq d a (part.setWidth 1) t) (m0 ||| m1 ||| (← maskOf r))
  | _ => .error 1
def vextForm : Form := typed fun t _ ops => match ops with
  | [d, a, i] => do checked (.vext (← sreg d) (← vreg a) (← sreg i) t)
  | _ => .error 1
def vinsForm : Form := typed fun t _ ops => match ops with
  | [d, a, i] => do checked (.vins (← vreg d) (← sreg a) (← sreg i) t)
  | _ => .error 1

/-- `notify i` may end a matrix command. -/
def takeNotify (e : FormEnv) : List Chars → Try (Bool × BitVec 8)
  | [] => .ok (false, 0)
  | [n] =>
    let w := n.takeWhile (fun c => !isSpace c)
    if w == "notify".toList then (const e 8 0 255 (trim (n.drop w.length))).map (fun i => (true, i)) else .error 1
  | _ => .error 1
/-- A keyword that may stand next. -/
def takeWord (w : String) : List Chars → Bool × List Chars
  | x :: r => if x == w.toList then (true, r) else (false, x :: r)
  | [] => (false, [])
def mmaForm (f : Reg → Reg → Reg → Reg → Bool → Bool → BitVec 8 → BitVec 11 → BitVec 7 → BitVec 7 → Instr) : Form :=
  plain fun e ops => match ops with
  | t :: a :: b :: p :: m :: n :: k :: r => do
    let (t, a, b, p) := (← areg t, ← memReg a, ← memReg b, ← sreg p)
    let m ← evalIn e.look 1 128 m
    let n ← evalIn e.look 1 128 n
    let k ← evalIn e.look 4 8192 k
    let (zero, r) := takeWord "zero" r
    let (nf, i) ← takeNotify e r
    if k % 4 = 0 then checked (f t a b p zero nf i (BitVec.ofInt 11 (k / 4 - 1)) (BitVec.ofInt 7 (n - 1)) (BitVec.ofInt 7 (m - 1)))
    else .error 3
  | _ => .error 1
def mzeroForm : Form := plain fun e ops => match ops with
  | t :: r => do
    let t ← areg t
    let (nf, i) ← takeNotify e r
    checked (.mzero t nf i)
  | _ => .error 1
def tileForm (sat : Bool) (f : Reg → Reg → Reg → Ty → Bool → Bool → BitVec 8 → BitVec 7 → BitVec 7 → Instr) : Form :=
  typed fun ty e ops => match ops with
  | t :: a :: p :: m :: n :: r => do
    let (t, a, p) := (← areg t, ← memReg a, ← sreg p)
    let m ← evalIn e.look 1 128 m
    let n ← evalIn e.look 1 128 n
    let (s, r) := if sat then takeWord "sat" r else (false, r)
    let (nf, i) ← takeNotify e r
    checked (f t a p ty s nf i (BitVec.ofInt 7 (n - 1)) (BitVec.ofInt 7 (m - 1)))
  | _ => .error 1
def mchkForm : Form := plain fun _ ops => match ops with
  | [d, t] => do checked (.mchk (← sreg d) (← areg t) 0)
  | [d, t, c] => do
    let _ ← wordOf ["clear"] 1 c
    checked (.mchk (← sreg d) (← areg t) 1)
  | _ => .error 1
def xwaitForm : Form := plain fun e ops => match ops with
  | [ch, w, s] => do
    let ch ← const e 5 0 15 ch
    let s ← sreg s
    match ← wordOf ["done", "read", "fill"] 1 w with
    | 0 => checked (.xwaitDone ch s)
    | 1 => checked (.xwaitRead ch s)
    | _ => checked (.xwaitFill ch s)
  | _ => .error 1
def xstatForm : Form := plain fun e ops => match ops with
  | [d, ch] => do checked (.xstat (← sreg d) (← const e 5 0 15 ch))
  | [d, ch, w] => do
    let d ← sreg d
    let ch ← const e 5 0 15 ch
    match ← wordOf ["read", "fill"] 1 w with
    | 0 => checked (.xstatRead d ch)
    | _ => checked (.xstatFill d ch)
  | _ => .error 1
def exitForm : Form := plain fun e ops => match ops with
  | [] => checked (.exit 0 0)
  | [a, n] => do checked (.exit (← sreg a) (← const e 5 0 4 n))
  | _ => .error 1
/-- The lines of a row command, 1 to 128 (R340). -/
def pLines (e : FormEnv) (l : Chars) : Try (BitVec 7) := (evalIn e.look 1 128 l).map (fun n => BitVec.ofInt 7 (n - 1))
def rowaddForm : Form := typed fun t e ops => match ops with
  | [l, b, n] => do checked (.rowadd (← sreg l) (← memReg b) t (← pLines e n))
  | _ => .error 1
def putcForm : Form := typed fun t _ ops => match ops with
  | [c, d, v, g, sc] => do checked (.putc (← memReg c) (← memReg d) (← sreg v) (← sreg g) t (← scopeOf sc))
  | _ => .error 1
def apndForm : Form := plain fun _ ops => match ops with
  | [d, t, r, l, sc] => do checked (.apnd (← sreg d) (← memReg t) (← sreg r) (← sreg l) (← scopeOf sc))
  | _ => .error 1
def casForm : Form := typed fun t _ ops => match ops with
  | [d, a, v, c, sc] => do checked (.amoCas (← sreg d) (← memReg a) (← sreg v) (← sreg c) t (← scopeOf sc))
  | _ => .error 1
def fieldForm (f : Reg → Reg → BitVec 6 → BitVec 6 → Instr) : Form := plain fun e ops => match ops with
  | [d, a, p, l] => do
    let p ← const e 6 0 63 p
    let l ← evalIn e.look 1 64 l
    checked (f (← sreg d) (← sreg a) p (BitVec.ofInt 6 (l - 1)))
  | _ => .error 1
/-- A message of the flue: four registers and a scope. -/
def flue4 (f : Reg → Reg → Reg → Reg → BitVec 3 → Instr) : Form := plain fun _ ops => match ops with
  | [t, a, n, p, sc] => do checked (f (← memReg t) (← memReg a) (← sreg n) (← sreg p) (← scopeOf sc))
  | _ => .error 1
def repForm : Form := ops3 (pNum 5 1 16) (pNum 16 0 65535) (pNum 6 0 31) .rep
/-- CRD and CWR take every number 0 to 31 (R209). -/
def crdForm : Form := plain fun e ops => match ops with
  | [d, n] => do pure { instr := .crd (← sreg d) (← control e n) }
  | _ => .error 1
def cwrForm : Form := plain fun e ops => match ops with
  | [n, r] => do pure { instr := .cwr (← control e n) (← sreg r) }
  | _ => .error 1
def liFormTop : Form := plain fun e ops => match ops with
  | [d, v] => do liForm (← sreg d) e v
  | _ => .error 1
def loopForm : Form := plain fun e ops => match ops with
  | [a, l] => do
    let a ← sreg a
    if a == 0#5 then .error 3 else target (.loop a) e l
  | _ => .error 1

/-! ## The table of mnemonics, each with its major (R131) -/

structure FormRow where
  name : String
  major : Nat
  form : Form

def formsScalar : List FormRow :=
  [("ADD", Instr.add), ("SUB", .sub), ("MUL", .mul), ("MULH", .mulh), ("MULHZ", .mulhz), ("DIV", .div), ("DIVZ", .divz), ("REM", .rem),
   ("REMZ", .remz), ("AND", .and), ("OR", .or), ("XOR", .xor), ("SHL", .shl), ("SHR", .shr), ("SRA", .sra), ("SLT", .slt),
   ("SLTZ", .sltz), ("MIN", .min), ("MAX", .max), ("MINZ", .minz), ("MAXZ", .maxz)].map (fun x => ⟨x.1, 0x01, ops3 pS pS pS x.2⟩) ++
  [("CLZ", Instr.clz), ("CTZ", .ctz), ("POPC", .popc), ("MOV", .mov)].map (fun x => ⟨x.1, 0x01, ops2 pS pS x.2⟩) ++
  [⟨"ADDI", 0x02, ops3 pS pS (pNum 16 (-32768) 32767) .addi⟩, ⟨"ANDI", 0x02, loImm .andi (-32768) 32767⟩,
   ⟨"ORI", 0x02, loImm .ori 0 65535⟩, ⟨"XORI", 0x02, loImm .xori 0 65535⟩, ⟨"SLTI", 0x02, ops3 pS pS (pNum 16 (-32768) 32767) .slti⟩,
   ⟨"SHLI", 0x02, ops3 pS pS (pNum 16 0 63) .shli⟩, ⟨"SHRI", 0x02, ops3 pS pS (pNum 16 0 63) .shri⟩,
   ⟨"SRAI", 0x02, ops3 pS pS (pNum 16 0 63) .srai⟩, ⟨"LI", 0x03, liFormTop⟩,
   ⟨"LEA", 0x04, ops3 pS pS (pNum 32 (-(2 ^ 31)) (2 ^ 31 - 1)) .lea⟩, ⟨"SEL", 0x05, ops4 pS pS pS pS .sel⟩,
   ⟨"BEXT", 0x05, fieldForm .bext⟩, ⟨"BINS", 0x05, fieldForm .bins⟩]

def formsControl : List FormRow :=
  [⟨"BEQ", 0x06, branch .beq⟩, ⟨"BNE", 0x06, branch .bne⟩, ⟨"BLT", 0x06, branch .blt⟩, ⟨"BGE", 0x06, branch .bge⟩,
   ⟨"BLTZ", 0x06, branch .bltz⟩, ⟨"BGEZ", 0x06, branch .bgez⟩, ⟨"LOOP", 0x06, loopForm⟩, ⟨"JMP", 0x07, jump .jmp⟩,
   ⟨"CALL", 0x07, jump .call⟩, ⟨"JMPR", 0x08, ops1 pS .jmpr⟩, ⟨"CALLR", 0x08, ops1 pS .callr⟩, ⟨"RET", 0x08, ops0 .ret⟩,
   ⟨"REP", 0x09, repForm⟩, ⟨"SAFE", 0x0A, ops1 (pNum 10 0 254) .safe⟩, ⟨"EXIT", 0x0B, exitForm⟩, ⟨"WAITC", 0x0C, ops2 pS pS .waitc⟩,
   ⟨"NOP", 0x0D, ops0 .nop⟩, ⟨"CHUNK", 0x0D, ops0 .chunk⟩, ⟨"YIELD", 0x0D, ops0 .yield⟩, ⟨"SAVED", 0x0D, ops0 .saved⟩,
   ⟨"SPLIT", 0x0D, ops0 .split⟩, ⟨"GANG", 0x0D, ops1 (pNum 5 2 8) .gang⟩,
   ⟨"FENCE", 0x0D, ops1 pScope (fun sc => .fence (sc.setWidth 5))⟩, ⟨"HALT", 0x0D, ops0 .halt⟩, ⟨"BRK", 0x0D, ops0 .brk⟩,
   ⟨"TRET", 0x0D, ops1 pS .tret⟩, ⟨"TRAP", 0x0E, ops1 (pNum 16 0 65535) .trap⟩, ⟨"CRD", 0x0F, crdForm⟩,
   ⟨"CWR", 0x10, cwrForm⟩]

def formsMemory : List FormRow :=
  [⟨"LD", 0x11, scalarMem .ld⟩, ⟨"ST", 0x12, scalarMem .st⟩, ⟨"LDV", 0x13, vectorMem .ldv⟩, ⟨"STV", 0x14, vectorMem .stv⟩,
   ⟨"LDA", 0x15, scalarMemScope .lda⟩, ⟨"STL", 0x16, scalarMemScope .stl⟩, ⟨"AFENCE", 0x17, ops2 pS pS .afence⟩] ++
  [("AMO.ADD", Instr.amoAdd), ("AMO.AND", .amoAnd), ("AMO.OR", .amoOr), ("AMO.XOR", .amoXor), ("AMO.SWAP", .amoSwap),
   ("AMO.SMIN", .amoSmin), ("AMO.SMAX", .amoSmax), ("AMO.ZMIN", .amoZmin), ("AMO.ZMAX", .amoZmax), ("AMO.FADD", .amoFadd),
   ("AMO.FMIN", .amoFmin), ("AMO.FMAX", .amoFmax)].map (fun x => ⟨x.1, 0x18, amoForm x.2⟩) ++
  [⟨"AMO.CAS", 0x18, casForm⟩] ++
  [("RED.ADD", Instr.redAdd), ("RED.AND", .redAnd), ("RED.OR", .redOr), ("RED.XOR", .redXor), ("RED.SWAP", .redSwap),
   ("RED.SMIN", .redSmin), ("RED.SMAX", .redSmax), ("RED.ZMIN", .redZmin), ("RED.ZMAX", .redZmax), ("RED.FADD", .redFadd),
   ("RED.FMIN", .redFmin), ("RED.FMAX", .redFmax)].map (fun x => ⟨x.1, 0x19, redForm x.2⟩) ++
  [⟨"PUTC", 0x1A, putcForm⟩, ⟨"APND", 0x1B, apndForm⟩, ⟨"WARM", 0x1C, ops2 pS pS .warm⟩, ⟨"QPOP", 0x1D, ops2 pS pS .qpop⟩]

def formsVector : List FormRow :=
  [("VADD", Instr.vadd), ("VSUB", .vsub), ("VMUL", .vmul), ("VDIV", .vdiv), ("VMIN", .vmin), ("VMAX", .vmax), ("VAND", .vand),
   ("VOR", .vor), ("VXOR", .vxor)].map (fun x => ⟨x.1, 0x1E, vec2 x.2⟩) ++
  [("VFMA", Instr.vfma), ("VFMS", .vfms), ("VFNMA", .vfnma)].map (fun x => ⟨x.1, 0x1E, vec3 x.2⟩) ++
  [⟨"VSQRT", 0x1E, vec1 .vsqrt⟩, ⟨"VMOV", 0x1E, vec1 .vmov⟩, ⟨"VSHL", 0x1E, vshift .vshl .vshlImm⟩,
   ⟨"VSHR", 0x1E, vshift .vshr .vshrImm⟩, ⟨"VSRA", 0x1E, vshift .vsra .vsraImm⟩, ⟨"VSEL", 0x1E, vselForm⟩] ++
  [("VCMP.EQ", 0), ("VCMP.NE", 1), ("VCMP.LT", 2), ("VCMP.LE", 3), ("VCMP.GT", 4), ("VCMP.GE", 5), ("VCMP.UN", 6)].map
    (fun x => ⟨x.1, 0x1F, vcmpForm (BitVec.ofNat 3 x.2)⟩) ++
  [⟨"VCLASS", 0x1F, vclassForm⟩, ⟨"VCVT", 0x20, vcvtForm⟩, ⟨"VQNT", 0x20, vqntForm⟩, ⟨"VDQ", 0x20, vdqForm⟩,
   ⟨"VSPLAT", 0x21, sToV .vsplat⟩, ⟨"VEXT", 0x21, vextForm⟩, ⟨"VINS", 0x21, vinsForm⟩, ⟨"VPERM", 0x21, vec2 .vperm⟩,
   ⟨"VRED.ADD", 0x21, vtoS1 .vredAdd⟩, ⟨"VRED.MIN", 0x21, vtoS1 .vredMin⟩, ⟨"VRED.MAX", 0x21, vtoS1 .vredMax⟩,
   ⟨"VDOT", 0x21, vtoS2 .vdot⟩, ⟨"VIDX", 0x21, sToV .vidx⟩] ++
  [⟨"MSET", 0x22, ops2 pM pS .mset⟩, ⟨"MAND", 0x22, ops3 pM pM pM .mand⟩, ⟨"MOR", 0x22, ops3 pM pM pM .mor⟩,
   ⟨"MNOT", 0x22, ops2 pM pM .mnot⟩, ⟨"MPOP", 0x22, ops2 pS pM .mpop⟩, ⟨"SBIND", 0x23, ops2 pV pS .sbind⟩,
   ⟨"SUNB", 0x23, ops1 pV .sunb⟩, ⟨"SSKIP", 0x23, ops2 pV pS .sskip⟩]

def formsUnits : List FormRow :=
  [⟨"MMA", 0x24, mmaForm .mma⟩, ⟨"MMAS", 0x24, mmaForm .mmas⟩, ⟨"MZERO", 0x24, mzeroForm⟩,
   ⟨"MLDT", 0x24, tileForm false (fun t a p ty _ nf i n m => .mldt t a p ty nf i n m)⟩, ⟨"MSTT", 0x24, tileForm true .mstt⟩,
   ⟨"MWAIT", 0x25, ops1 (pNum 5 0 3) .mwait⟩, ⟨"MFAB", 0x25, ops2 pA pS .mfab⟩, ⟨"MCHK", 0x25, mchkForm⟩,
   ⟨"XPUSH", 0x26, ops1 pS .xpush⟩, ⟨"XPUSHB", 0x26, ops2 pS pS .xpushb⟩, ⟨"XWAIT", 0x27, xwaitForm⟩,
   ⟨"XRESUME", 0x27, ops1 (pNum 5 0 15) .xresume⟩, ⟨"XCANCEL", 0x27, ops1 (pNum 5 0 15) .xcancel⟩, ⟨"XSTAT", 0x27, xstatForm⟩,
   ⟨"DLD", 0x28, eitherMem .dld .dldVector⟩, ⟨"DST", 0x29, eitherMem .dst .dstVector⟩, ⟨"TQ.B", 0x2A, ops2 pV pS .tqB⟩,
   ⟨"TQ.H", 0x2A, ops2 pV pS .tqH⟩, ⟨"TQ.PAIR", 0x2A, ops3 pV pS pV .tqPair⟩, ⟨"TQ.INTP", 0x2A, ops2 pV pS .tqIntp⟩,
   ⟨"HTLOAD", 0x2B, ops3 pS pS pS .htload⟩, ⟨"HMODE", 0x2B, ops2 pS pS .hmode⟩, ⟨"IRED", 0x2B, ops2 pMem pS .ired⟩,
   ⟨"HCMD", 0x2B, ops3 pS pS pS .hcmd⟩, ⟨"HOVL", 0x2B, ops3 pS pS pS .hovl⟩, ⟨"ROWLD", 0x2C, ops3 pS pMem pLines .rowld⟩,
   ⟨"ROWST", 0x2C, ops3 pS pMem pLines .rowst⟩, ⟨"ROWADD", 0x2C, rowaddForm⟩, ⟨"KNWIN", 0x2D, ops1 pS .knwin⟩,
   ⟨"KNDLY", 0x2D, ops2 pMem pS .kndly⟩, ⟨"KNMODE", 0x2D, ops1 pV .knmode⟩, ⟨"KNLAUNCH", 0x2D, ops2 pV pV .knlaunch⟩,
   ⟨"KNCAPT", 0x2D, ops2 pV pV .kncapt⟩, ⟨"KNFIRST", 0x2D, ops2 pV pV .knfirst⟩, ⟨"KNRESET", 0x2D, ops0 .knreset⟩,
   ⟨"KNSTAT", 0x2D, ops1 pS .knstat⟩, ⟨"TTLOAD", 0x2E, ops3 pS pMem (pNum 5 0 1) .ttload⟩,
   ⟨"TTARM", 0x2E, ops2 pMem (pNum 5 0 1) .ttarm⟩, ⟨"BAR", 0x2E, ops2 pS (pNum 5 0 1) .bar⟩,
   ⟨"FSEND", 0x2E, ops4 pMem pS pS pScope .fsend⟩, ⟨"FRECV", 0x2E, ops2 pS (pNum 5 0 15) .frecv⟩, ⟨"MSRED", 0x2E, flue4 .msred⟩,
   ⟨"XORRED", 0x2E, flue4 .xorred⟩, ⟨"FACC", 0x2E, flue4 .facc⟩, ⟨"GCFG", 0x2F, ops3 pS pMem pS .gcfg⟩,
   ⟨"GACC", 0x2F, ops4 pS pMem pS pS .gacc⟩, ⟨"GTEST", 0x2F, ops2 pS pS .gtest⟩, ⟨"GSTEP", 0x2F, ops2 pS pS .gstep⟩,
   ⟨"GBIND", 0x2F, ops3 pS pS pS .gbind⟩, ⟨"GDROP", 0x2F, ops3 pS pS (pNum 5 0 1) .gdrop⟩]

def forms : List FormRow := formsScalar ++ formsControl ++ formsMemory ++ formsVector ++ formsUnits

/-- The type suffixes, by code (R92). -/
def typeNames : List String :=
  ["f64", "f32", "bf16", "f16", "e4", "e5", "ec8", "", "s4", "z4", "s8", "z8", "s16", "z16", "s32", "z32", "s64", "z64"]
def typeOf (l : Chars) : Option Ty :=
  let i := typeNames.findIdx (fun w => w.toList == l)
  if i < typeNames.length && !l.isEmpty then some (BitVec.ofNat 5 i) else none

/-- A mnemonic with its suffixes: the row it names and its types; none (E02) where the name or a suffix is unknown. -/
def splitMnemonic (m : Chars) : Option (FormRow × List Ty) :=
  let parts := splitAtChar '.' m []
  let names := parts.takeWhile (fun p => (typeOf p).isNone)
  let types := (parts.drop names.length).map typeOf
  let base := ".".toList.intercalate names
  match forms.find? (fun r => r.name.toList == base) with
  | some r => if types.all Option.isSome then some (r, types.filterMap id) else none
  | none => none
/-- The directives (R141). -/
def directives : List String :=
  [".text", ".rodata", ".data", ".align", ".byte", ".half", ".word", ".dword", ".f32", ".f64", ".equ", ".global", ".macro", ".endm",
   ".include", ".kernel", ".safe", ".launch", ".table", ".timetable", ".group"]
/-- A directive or an instruction with its suffixes: no macro stands in its place (R147). -/
def isTaken (m : Chars) : Bool := directives.any (fun w => w.toList == m) || (splitMnemonic m).isSome
/-- The mnemonics that no symbol and no macro may take (R147): the names of the form table, not those with a suffix behind them, nor the
name of a family alone (DESIGN CHOICE, log 45). -/
def isMnemonic (m : Chars) : Bool := forms.any (fun r => r.name.toList == m)
/-- Reserved words: mnemonics, scope keywords and register names, those of R90 among them (R138). -/
def isReserved (l : Chars) : Bool :=
  isMnemonic l || controlNames.any (fun x => x.1.toList == l) || scopeWords.any (fun w => w.toList == l) ||
  ['s', 'v', 'm', 'a'].any (fun k => match regOf k l with
    | .ok _ => true
    | .error _ => false)

end Sys2Proof.Machine.Wikel
end

