-- ==== Sys2Proof/Machine/WikelChecks.lean ====
section
/-! DEFINITION. What wikel checks of a kernel's paths: stream registers (R148), safe points, save and restore routines and the
spacing of safe points (R149). -/

namespace Sys2Proof.Machine.Wikel

/-- A head of .text: its offset, its instruction, the offset of a branch target in the section, and its source line. -/
structure Placed where
  off : Nat
  instr : Instr
  target : Option Nat
  line : SrcLine
  deriving DecidableEq, Repr

/-- A `.safe` entry: k, its routines by their offsets in .text, and its live masks. -/
structure SafeInfo where
  k : Nat
  save : Option Nat
  rest : Option Nat
  liveS : BitVec 32
  liveV : BitVec 32
  liveM : BitVec 8
  line : SrcLine
  deriving DecidableEq, Repr

/-- A kernel: name, header's offset in .rodata, entry's offset in .text, safe points, and the first head placed after its line. -/
structure KernelInfo where
  name : Chars
  hdr : Nat
  entry : Option Nat
  safes : List SafeInfo
  first : Nat
  line : SrcLine
  deriving DecidableEq, Repr

abbrev Prog := List Placed

def SrcLine.says (l : SrcLine) (c : WikelCode) : Diag := { file := l.file, line := l.num, code := c }

/-! ## What heads do -/

/-- Points at which a path of R149 ends its count. -/
def suspends : Instr → Bool
  | .safe _ | .exit _ _ | .waitc _ _ | .yield | .saved | .trap _ => true
  | _ => false
/-- What R107 forbids in a save routine. -/
def forbiddenInSave : Instr → Bool
  | .safe _ | .exit _ _ | .waitc _ _ | .yield | .gang _ | .split => true
  | _ => false
def isCall : Instr → Bool
  | .call _ _ | .callr _ => true
  | _ => false
/-- A transfer that may go back and close a loop. -/
def isBranch : Instr → Bool
  | .beq _ _ _ _ | .bne _ _ _ _ | .blt _ _ _ _ | .bge _ _ _ _ | .bltz _ _ _ _ | .bgez _ _ _ _ | .loop _ _ _ | .jmp _ _ => true
  | _ => false
/-- The scalar register a head writes. -/
def writesS : Instr → Option Reg
  | .add d _ _ | .sub d _ _ | .mul d _ _ | .mulh d _ _ | .mulhz d _ _ | .div d _ _ | .divz d _ _ | .rem d _ _ | .remz d _ _
  | .and d _ _ | .or d _ _ | .xor d _ _ | .shl d _ _ | .shr d _ _ | .sra d _ _ | .slt d _ _ | .sltz d _ _ | .min d _ _
  | .max d _ _ | .minz d _ _ | .maxz d _ _ | .clz d _ | .ctz d _ | .popc d _ | .mov d _ | .addi d _ _ | .andi d _ _ | .ori d _ _
  | .xori d _ _ | .slti d _ _ | .shli d _ _ | .shri d _ _ | .srai d _ _ | .li d _ | .liSh16 d _ | .lea d _ _ | .sel d _ _ _
  | .bext d _ _ _ | .bins d _ _ _ | .loop d _ _ | .crd d _ | .ld d _ _ _ | .lda d _ _ _ _ | .apnd d _ _ _ _ | .qpop d _
  | .amoAdd d _ _ _ _ | .amoAnd d _ _ _ _ | .amoOr d _ _ _ _ | .amoXor d _ _ _ _ | .amoSwap d _ _ _ _ | .amoSmin d _ _ _ _
  | .amoSmax d _ _ _ _ | .amoZmin d _ _ _ _ | .amoZmax d _ _ _ _ | .amoFadd d _ _ _ _ | .amoFmin d _ _ _ _ | .amoFmax d _ _ _ _
  | .amoCas d _ _ _ _ _ | .vext d _ _ _ | .vredAdd d _ _ _ | .vredMin d _ _ _ | .vredMax d _ _ _ | .vdot d _ _ _ _ | .mpop d _
  | .mchk d _ _ | .xpushb d _ | .xwaitDone _ d | .xstat d _ | .xstatRead d _ | .xstatFill d _ | .dld d _ _ _ | .htload d _ _
  | .hmode d _ | .hovl d _ _ | .knstat d | .ttload d _ _ | .bar d _ | .frecv d _ | .gcfg d _ _ | .gacc d _ _ _ | .gtest d _
  | .gstep d _ | .gbind d _ _ | .gdrop d _ _ => some d
  | .call _ _ | .callr _ => some 1
  | _ => none
/-- A head that stores, or loads, the scalar or vector register (DEDUCED, log 47). -/
def storesS (r : Reg) : Instr → Bool
  | .st a _ _ _ | .stl a _ _ _ _ | .dst a _ _ _ | .redSwap _ a _ _ | .amoSwap _ _ a _ _ => a == r
  | _ => false
def loadsS (r : Reg) : Instr → Bool
  | .ld a _ _ _ | .lda a _ _ _ _ | .dld a _ _ _ | .amoAdd a _ _ _ _ | .amoAnd a _ _ _ _ | .amoOr a _ _ _ _ | .amoXor a _ _ _ _
  | .amoSwap a _ _ _ _ | .amoSmin a _ _ _ _ | .amoSmax a _ _ _ _ | .amoZmin a _ _ _ _ | .amoZmax a _ _ _ _ | .amoFadd a _ _ _ _
  | .amoFmin a _ _ _ _ | .amoFmax a _ _ _ _ | .amoCas a _ _ _ _ _ => a == r
  | _ => false
def storesV (r : Reg) : Instr → Bool
  | .stv a _ _ | .dstVector a _ _ => a == r
  | _ => false
def loadsV (r : Reg) : Instr → Bool
  | .ldv a _ _ | .dldVector a _ _ => a == r
  | _ => false
/-- The modifier word of a vector head, which names its mask (R128). -/
def modWord : Instr → Option (BitVec 16)
  | .vadd _ _ _ _ md | .vsub _ _ _ _ md | .vmul _ _ _ _ md | .vfma _ _ _ _ _ md | .vfms _ _ _ _ _ md
  | .vfnma _ _ _ _ _ md | .vdiv _ _ _ _ md | .vsqrt _ _ _ md | .vmin _ _ _ _ md | .vmax _ _ _ _ md | .vand _ _ _ _ md
  | .vor _ _ _ _ md | .vxor _ _ _ _ md | .vshl _ _ _ _ md | .vshlImm _ _ _ _ md | .vshr _ _ _ _ md
  | .vshrImm _ _ _ _ md | .vsra _ _ _ _ md | .vsraImm _ _ _ _ md | .vsel _ _ _ _ _ md | .vmov _ _ _ md
  | .vcmp _ _ _ _ _ md | .vclass _ _ _ _ md | .vcvt _ _ _ _ _ _ md | .vdq _ _ _ _ md | .vsplat _ _ _ md
  | .vperm _ _ _ _ md | .vredAdd _ _ _ md | .vredMin _ _ _ md | .vredMax _ _ _ md | .vdot _ _ _ _ md | .vidx _ _ _ md => some md
  | _ => none
/-- A mask has no store or load of its own: a head that reads it, or writes it. -/
def readsM (r : Reg) (i : Instr) : Bool :=
  (match i with
   | .mand _ a b | .mor _ a b => a == r || b == r
   | .mnot _ a | .mpop _ a => a == r
   | .vsel _ _ _ mk _ _ => mk.setWidth 5 == r
   | _ => false) || (modWord i).any (fun md => (modMask md).setWidth 5 == r)
def writesM (r : Reg) : Instr → Bool
  | .mset d _ | .mand d _ _ | .mor d _ _ | .mnot d _ | .vcmp d _ _ _ _ _ | .vclass d _ _ _ _ => d == r
  | _ => false

/-! ## Paths -/

def indexAt (p : Prog) (off : Nat) : Option Nat :=
  let i := p.findIdx (fun h => h.off == off)
  if i < p.length then some i else none
/-- The heads that may follow head `i`; a return goes back behind every call of `calls`, and a path ends at JMPR and at TRAP, though
a handler may resume the thread behind it (DEDUCED, log 47). -/
def followers (p : Prog) (calls : List Nat) (i : Nat) : List Nat :=
  match p[i]? with
  | none => []
  | some h =>
    let t := (h.target.bind (indexAt p)).toList
    let n := if i + 1 < p.length then [i + 1] else []
    match h.instr with
    | .jmp _ _ => t
    | .call _ _ => if t.isEmpty then n else t
    | .beq _ _ _ _ | .bne _ _ _ _ | .blt _ _ _ _ | .bge _ _ _ _ | .bltz _ _ _ _ | .bgez _ _ _ _ | .loop _ _ _ => t ++ n
    | .ret => (calls.map (fun c => c + 1)).filter (fun c => c < p.length)
    | .jmpr _ | .exit _ _ | .saved | .trap _ => []
    | _ => n
def callsIn (p : Prog) (s : List Nat) : List Nat := s.filter (fun i => (p[i]?).any (fun h => isCall h.instr))
def merge (s t : List Nat) : List Nat := t.foldl (fun s x => if s.contains x then s else s ++ [x]) s
/-- The heads on paths from `s`, with no path followed behind a head that `stop` holds of. -/
def reach (p : Prog) (stop : Nat → Bool) : Nat → List Nat → List Nat
  | 0, s => s
  | fuel + 1, s =>
    let t := merge s ((s.filter (fun i => !stop i)).flatMap (followers p (callsIn p s)))
    if t.length = s.length then s else reach p stop fuel t
/-- The heads of `s` from which one of `goal` is reached inside `s`. -/
def reaches (p : Prog) (s : List Nat) : Nat → List Nat → List Nat
  | 0, goal => goal
  | fuel + 1, goal =>
    let t := merge goal (s.filter (fun i => (followers p (callsIn p s) i).any goal.contains))
    if t.length = goal.length then goal else reaches p s fuel t
/-- A path may leave the source, or end, at this head of `s`. -/
def leaves (p : Prog) (s : List Nat) (i : Nat) : Bool :=
  match p[i]? with
  | none => true
  | some h =>
    (followers p (callsIn p s) i).isEmpty ||
    (isBranch h.instr && (h.target.bind (indexAt p)).isNone) ||
    (match h.instr with
     | .jmp _ _ => false
     | .ret => false
     | _ => i + 1 == p.length)

/-! ## Stream registers (R148) -/

/-- Registers v24 + i that may be bound, and that may be unbound, before a head; none where no path comes. -/
abbrev BindIn := List (Option (BitVec 8 × BitVec 8))
def bindBit (v : Reg) : BitVec 8 := if 24 ≤ v.toNat then 1#8 <<< (v.toNat - 24) else 0
def bindThrough (i : Instr) (x : BitVec 8 × BitVec 8) : BitVec 8 × BitVec 8 :=
  match i with
  | .sbind v _ => (x.1 ||| bindBit v, x.2 &&& ~~~(bindBit v))
  | .sunb v => (x.1 &&& ~~~(bindBit v), x.2 ||| bindBit v)
  | .waitc _ _ | .yield => (0, 0xFF#8)
  | _ => x
def joinBind (a : Option (BitVec 8 × BitVec 8)) (x : BitVec 8 × BitVec 8) : Option (BitVec 8 × BitVec 8) :=
  match a with
  | none => some x
  | some y => some (x.1 ||| y.1, x.2 ||| y.2)
def bindSweep (p : Prog) (s : List Nat) (st : BindIn) : BindIn :=
  s.foldl (fun st i => match st[i]?, p[i]? with
    | some (some x), some h =>
      (followers p (callsIn p s) i).foldl (fun st j => st.set j (joinBind ((st[j]?).getD none) (bindThrough h.instr x))) st
    | _, _ => st) st
def bindFlow (p : Prog) (s : List Nat) : Nat → BindIn → BindIn
  | 0, st => st
  | fuel + 1, st =>
    let t := bindSweep p s st
    if t = st then st else bindFlow p s fuel t
/-- A head that is no vector instruction and names a vector register as its data. -/
def plainVector : Instr → Option Reg
  | .dldVector v _ _ | .dstVector v _ _ => some v
  | _ => none
def checkStreams (p : Prog) (starts s : List Nat) : List Diag :=
  let init : BindIn := (List.range p.length).map (fun i => if starts.contains i then some (0, 0xFF#8) else none)
  let st := bindFlow p s (17 * p.length + 1) init
  s.filterMap (fun i => match p[i]?, st[i]? with
    | some h, some (some x) => match plainVector h.instr with
      | some v =>
        if x.1 &&& bindBit v == 0#8 then none
        else some (SrcLine.says h.line (if x.2 &&& bindBit v == 0#8 then .err 8 else .warn 2))
      | none => none
    | _, _ => none)

/-! ## Safe points (R149) -/

/-- Every bit that is set in a mask has a head that does `f` with that register. -/
def allLive {w : Nat} (m : BitVec w) (p : Prog) (s : List Nat) (f : Reg → Instr → Bool) : Bool :=
  (List.range w).all (fun r => !m.getLsbD r || s.any (fun i => (p[i]?).any (fun h => f (BitVec.ofNat 5 r) h.instr)))
def instrIs (p : Prog) (f : Instr → Bool) (i : Nat) : Bool := (p[i]?).any (fun h => f h.instr)
def isSaved : Instr → Bool
  | .saved => true
  | _ => false
/-- A save routine that reaches SAVED on every path and holds nothing that R107 forbids. -/
def saveOk (p : Prog) (s : List Nat) : Bool :=
  let ends := s.filter (instrIs p isSaved)
  s.all (fun i => !instrIs p forbiddenInSave i && (ends.contains i || !leaves p s i)) && (reaches p s p.length ends).length == s.length
/-- Heads behind the SAFE k heads of `all` (DEDUCED, log 47). -/
def afterSafe (p : Prog) (all : List Nat) (k : Nat) : List Nat :=
  all.filterMap (fun i => match (p[i]?).map (fun h => h.instr) with
    | some (Instr.safe n) => if n.toNat = k then some (i + 1) else none
    | _ => none)
/-- The JMPs that end a restore routine. -/
def isBackJump (p : Prog) (backs : List Nat) (i : Nat) : Bool :=
  match p[i]? with
  | some h => (match h.instr with
    | .jmp _ _ => ((h.target.bind (indexAt p)).any backs.contains)
    | _ => false)
  | none => false
def checkSafe (p : Prog) (all : List Nat) (x : SafeInfo) : Bool :=
  match x.save.bind (indexAt p), x.rest.bind (indexAt p) with
  | some sv, some rs =>
    let save := reach p (instrIs p isSaved) p.length [sv]
    let backs := afterSafe p all x.k
    let rest := reach p (isBackJump p backs) p.length [rs]
    let ends := rest.filter (isBackJump p backs)
    saveOk p save && rest.all (fun i => ends.contains i || !leaves p rest i) && (reaches p rest p.length ends).length == rest.length &&
    allLive x.liveS p save storesS && allLive x.liveS p rest loadsS && allLive x.liveV p save storesV && allLive x.liveV p rest loadsV &&
    allLive x.liveM p save readsM && allLive x.liveM p rest writesM
  | _, _ => false

/-! ## Spacing (R149) -/

/-- Heads of `inside` from which `l` is reached without a step to `t`. -/
def backFrom (p : Prog) (s inside : List Nat) (t : Nat) : Nat → List Nat → List Nat
  | 0, l => l
  | fuel + 1, l =>
    let n := merge l (inside.filter (fun i => (followers p (callsIn p s) i).any (fun j => j != t && l.contains j)))
    if n.length = l.length then l else backFrom p s inside t fuel n
/-- The heads of the loop that the edge from `b` back to `t` closes (DEDUCED, log 47). -/
def loopBody (p : Prog) (s : List Nat) (t b : Nat) : List Nat := if b = t then [t] else merge (backFrom p s s t p.length [b]) [t]
/-- The constant that LI last set in a register before head `t`. -/
def constBefore (p : Prog) (r : Reg) (t : Nat) : Option Nat :=
  match ((p.take t).reverse).find? (fun h => writesS h.instr == some r) with
  | some h => (match h.instr with
    | .li _ v => some (v.signExtend 64).toNat
    | .liSh16 _ v => some (v.toNat * 2 ^ 16)
    | _ => none)
  | none => none
/-- The heads that a REP issues besides one pass of its body (R195). -/
def repPasses : Instr → Nat
  | .rep n c _ => n.toNat * (c.toNat - 1)
  | _ => 0
/-- The heads that one pass of a loop issues: those of its body, a REP's in every pass of its own (R195). -/
def passLength (p : Prog) (body : List Nat) : Nat := (body.map (fun i => 1 + ((p[i]?).map (fun h => repPasses h.instr)).getD 0)).sum
/-- The loop from `t` to `b` runs a constant number of times, few enough. -/
def loopBounded (p : Prog) (gap : Nat) (t b : Nat) (body : List Nat) : Bool :=
  match (p[b]?).map (fun h => h.instr) with
  | some (Instr.loop r _ _) =>
    body.all (fun i => i == b || !instrIs p (fun x => writesS x == some r) i) &&
    (match constBefore p r t with
     | some c => c != 0 && c * passLength p body ≤ gap
     | none => false)
  | _ => false
def checkLoops (p : Prog) (gap : Nat) (s : List Nat) : List Diag :=
  s.filterMap (fun b => match p[b]? with
    | none => none
    | some h =>
      match h.instr with
      | .rep n c _ => if gap < n.toNat * c.toNat then some (SrcLine.says h.line (.warn 1)) else none
      | _ =>
        if !isBranch h.instr then none
        else match h.target.bind (indexAt p) with
        | none => none
        | some t =>
          if b < t || !(reach p (fun _ => false) p.length [t]).contains b then none
          else
            let body := loopBody p s t b
            if body.any (instrIs p suspends) || loopBounded p gap t b body then none
            else some (SrcLine.says h.line (.warn 1)))

/-- From a head on, in its routine and those it calls: the longest run up to a suspension point or the routine's end, and the
longest that comes to the routine's end. -/
abbrev RunLen := Nat × Option Nat
/-- A step from head `i` back to `j` closes a loop that can run without coming to a suspension point. -/
def closes (p : Prog) (i j : Nat) : Bool := j ≤ i && (reach p (instrIs p suspends) p.length [j]).contains i && !instrIs p suspends j
/-- The heads that may follow each head, without the steps that close a loop: a step back that leads to a suspension point on every way
round, or that closes no loop, as at the end of a restore routine, goes on (R149). -/
def onward (p : Prog) : List (List Nat) :=
  (List.range p.length).map (fun i => (followers p [] i).filter (fun j => !closes p i j))
/-- The steps that close a loop in whose body a suspension point stands: a run goes round by one of them once, from one suspension point
to the next. A loop without one is counted by its passes (DEDUCED, log 47). -/
def rounds (p : Prog) : List (List Nat) :=
  let all := List.range p.length
  all.map (fun i => (followers p [] i).filter (fun j => closes p i j && (loopBody p all j i).any (instrIs p suspends)))
/-- The longer of two runs. -/
def RunLen.join (a b : RunLen) : RunLen := (max a.1 b.1, match a.2, b.2 with
  | some x, some y => some (max x y)
  | x, y => x.or y)
/-- The heads that a REP issues besides one pass of its body, where its count is within the limit. -/
def extraPasses (gap : Nat) (i : Instr) : Nat :=
  match i with
  | .rep n c _ => if n.toNat * c.toNat ≤ gap then repPasses i else 0
  | _ => 0
/-- One more sweep over the runs from each head; `on` are the steps, `first` what a run from each head may be at least. No length is
counted beyond the limit by more than one. -/
def runSweep (p : Prog) (on : List (List Nat)) (gap : Nat) (first len : List RunLen) : List RunLen :=
  let cap (n : Nat) : Nat := min (gap + 1) n
  ((List.range p.length).reverse).foldl (fun len i => match p[i]? with
    | none => len
    | some h =>
      let at0 (j : Nat) : RunLen := (len[j]?).getD (0, none)
      let rest : RunLen := match h.instr with
        | .call _ _ => (match h.target.bind (indexAt p) with
          | some t =>
            let a := at0 t
            let b := at0 (i + 1)
            (max a.1 ((a.2.map (fun n => n + b.1)).getD 0), a.2.bind (fun n => b.2.map (fun k => n + k)))
          | none => at0 (i + 1))
        | .ret => (0, some 0)
        | _ => ((on[i]?).getD []).foldl (fun n j => n.join (at0 j)) ((first[i]?).getD (0, none))
      let here := 1 + extraPasses gap h.instr
      len.set i (if suspends h.instr then (0, none) else (cap (here + rest.1), rest.2.map (fun n => cap (here + n))))) len
def runLengths (p : Prog) (on : List (List Nat)) (gap : Nat) (first : List RunLen) : Nat → List RunLen → List RunLen
  | 0, len => len
  | fuel + 1, len =>
    let t := runSweep p on gap first len
    if t = len then len else runLengths p on gap first fuel t
/-- The longest run from each head, going on behind the calls of its routine where it comes to the routine's end. -/
def outSweep (p : Prog) (gap : Nat) (s : List Nat) (len : List RunLen) (out : List Nat) : List Nat :=
  let back := (callsIn p s).foldl (fun n c => max n ((out[c + 1]?).getD 0)) 0
  len.map (fun x => min (gap + 1) (max x.1 ((x.2.map (fun n => n + back)).getD 0)))
def outLengths (p : Prog) (gap : Nat) (s : List Nat) (len : List RunLen) : Nat → List Nat → List Nat
  | 0, out => out
  | fuel + 1, out =>
    let t := outSweep p gap s len out
    if t = out then out else outLengths p gap s len fuel t
/-- Runs begin where the kernel and its routines are entered and behind every suspension point (DEDUCED, log 47). -/
def checkRuns (p : Prog) (gap : Nat) (starts s : List Nat) : List Diag :=
  let none' : List RunLen := p.map (fun _ => (0, none))
  let on := onward p
  let len := runLengths p on gap none' (gap + 2) none'
  let round := (rounds p).map (fun l => l.foldl (fun (n : RunLen) j => n.join ((len[j]?).getD (0, none))) (0, none))
  let len := if round = none' then len else runLengths p on gap round (gap + 2) len
  let out := outLengths p gap s len (gap + 2) (p.map (fun _ => 0))
  let late := (s.filter (instrIs p suspends)).flatMap (followers p [])
  (merge [] (starts ++ late)).filterMap (fun i => match p[i]? with
    | some h => if gap < max ((len[i]?).getD (0, none)).1 (if late.contains i then (out[i]?).getD 0 else 0) then
        some (SrcLine.says h.line (.warn 1)) else none
    | none => none)

/-- Everything that is checked of one kernel. -/
def checkKernel (p : Prog) (gap : Nat) (k : KernelInfo) : List Diag :=
  match k.entry.bind (indexAt p) with
  | none => []
  | some e =>
    let rests := k.safes.filterMap (fun x => x.rest.bind (indexAt p))
    let saves := k.safes.filterMap (fun x => x.save.bind (indexAt p))
    let main := reach p (fun _ => false) p.length (e :: rests)
    let all := reach p (fun _ => false) p.length (e :: rests ++ saves)
    let unknown := main.filterMap (fun i => match p[i]? with
      | some h => (match h.instr with
        | .safe n => if k.safes.any (fun x => x.k == n.toNat) then none else some (SrcLine.says h.line (.err 10))
        | _ => none)
      | none => none)
    checkStreams p (e :: rests) main ++ unknown ++
    (k.safes.filter (fun x => !checkSafe p main x)).map (fun x => SrcLine.says x.line (.err 10)) ++
    checkLoops p gap all ++ checkRuns p gap (e :: rests ++ saves) all
/-- SAFE heads that no kernel reaches belong to the kernel whose line stands last before them. -/
def checkStray (p : Prog) (ks : List KernelInfo) : List Diag :=
  let seen := ks.flatMap (fun k => match k.entry.bind (indexAt p) with
    | some e => reach p (fun _ => false) p.length (e :: k.safes.filterMap (fun x => x.rest.bind (indexAt p)))
    | none => [])
  (p.zipIdx.filter (fun x => !seen.contains x.2)).filterMap (fun x => match x.1.instr with
    | .safe n =>
      if ((ks.filter (fun k => k.first ≤ x.2)).getLast?).any (fun k => k.safes.any (fun y => y.k == n.toNat)) then none
      else some (SrcLine.says x.1.line (.err 10))
    | _ => none)
def checkAll (p : Prog) (gap : Nat) (ks : List KernelInfo) : List Diag :=
  (ks.flatMap (checkKernel p gap) ++ checkStray p ks).foldl (fun l d => if l.contains d then l else l ++ [d]) []

end Sys2Proof.Machine.Wikel
end

