-- ==== Sys2Proof/Machine/Wikel.lean ====
section
/-! DEFINITION. wikel: directives, line packing and labels, the object it writes, its command line and exit status (R136, R137, R138,
R140 to R143, R146, R150, R364, R412). -/

namespace Sys2Proof.Machine.Wikel

/-! ## What has been assembled so far -/

/-- A section: closed contents, the heads of an open line of .text with their tails, and the labels that wait for what comes next. -/
structure WSect where
  used : Bool := false
  stack : Option Nat := none
  align : Nat := 1
  data : List Byte := []
  line : List (Head × Tail) := []
  pend : List (Chars × SrcLine) := []
  deriving DecidableEq, Repr

/-- A symbol that the source defines: its section, or none for an absolute value, and whether it names a head. -/
structure SymDef where
  name : Chars
  sect : Option Nat
  value : Word
  head : Bool
  deriving DecidableEq, Repr

/-- A line of the listing: address, head and tail bytes; a datum's bytes stand as its tail. -/
structure ListLine where
  line : SrcLine
  place : Option (Nat × Nat)
  head : List Byte
  tail : List Byte
  deriving DecidableEq, Repr

structure Asm where
  cur : Nat := 0
  text : WSect := { used := true, align := 64 }
  rodata : WSect := {}
  data : WSect := {}
  defs : List SymDef := []
  globals : List Chars := []
  /-- Section, offset and relocation, newest first. -/
  fixes : List (Nat × Nat × Fix) := []
  /-- Newest first. -/
  placed : List Placed := []
  /-- Newest first. -/
  kernels : List KernelInfo := []
  /-- Absolute 8-byte data: section, offset, value. -/
  dwords : List (Nat × Nat × Word) := []
  diags : List Diag := []
  listing : List ListLine := []
  deriving DecidableEq, Repr

/-- Sections 0 .text, 1 .rodata and 2 .data. -/
def Asm.sect (a : Asm) (k : Nat) : WSect := if k = 0 then a.text else if k = 1 then a.rodata else a.data
def Asm.setSect (a : Asm) (k : Nat) (x : WSect) : Asm :=
  if k = 0 then { a with text := x } else if k = 1 then { a with rodata := x } else { a with data := x }
def Asm.report (a : Asm) (l : SrcLine) (n : Nat) : Asm :=
  { a with diags := a.diags ++ (errorsOf n).map (fun k => SrcLine.says l (.err k)) }
def Asm.warn (a : Asm) (l : SrcLine) (n : Nat) : Asm := { a with diags := a.diags ++ [SrcLine.says l (.warn n)] }
def Asm.list (a : Asm) (l : SrcLine) (place : Option (Nat × Nat)) (head tail : List Byte) : Asm :=
  { a with listing := a.listing ++ [{ line := l, place := place, head := head, tail := tail }] }

def findDef (ds : List SymDef) (n : Chars) : Option SymDef := ds.find? (fun d => d.name == n)
/-- The value of a symbol: as defined above the line, else as the pass before left it, else an import (R140) (DEDUCED, log 45). A register's
name or another reserved word where an expression is due is a symbol that nothing defines, E05 (DESIGN CHOICE, log 45). -/
def look (prev a : Asm) (n : Chars) : Try Lin :=
  match (findDef a.defs n).or (findDef prev.defs n) with
  | some d => match d.sect with
    | none => .ok { c := d.value }
    | some k => .ok { c := 0, pos := [{ name := n, sect := some k, off := d.value }] }
  | none =>
    if a.globals.contains n || prev.globals.contains n then .ok { c := 0, pos := [{ name := n, sect := none, off := 0 }] } else .error 5

/-- A label gets its value; a name defined before is E06, a name that can be no symbol E01. -/
def Asm.define (a : Asm) (l : SrcLine) (d : SymDef) : Asm :=
  if !isSymbol d.name || isReserved d.name then a.report l 1
  else if (findDef a.defs d.name).isSome then a.report l 6
  else { a with defs := a.defs ++ [d] }
def Asm.defineAll (a : Asm) (k : Nat) (off : Nat) (head : Bool) : Asm :=
  let x := a.sect k
  x.pend.foldl (fun a p => a.define p.2 { name := p.1, sect := some k, value := BitVec.ofNat 64 off, head := head })
    (a.setSect k { x with pend := [] })
/-- An absolute symbol, which only `.equ` may define again. -/
def Asm.setEqu (a : Asm) (l : SrcLine) (n : Chars) (w : Word) : Asm :=
  match findDef a.defs n with
  | some d =>
    if d.sect.isSome then a.report l 6
    else { a with defs := a.defs.map (fun d => if d.name == n then { d with value := w } else d) }
  | none => { a with defs := a.defs ++ [{ name := n, sect := none, value := w, head := false }] }
def Asm.equ (a : Asm) (l : SrcLine) (n : Chars) (w : Word) : Asm :=
  if !isSymbol n || isReserved n then a.report l 1 else a.setEqu l n w

/-! ## Lines of .text (R143) -/

def tailBytes (x : Head × Tail) : List Byte := leBytes (tailLen x.1.major) x.2.toNat
def tailTotal (l : List (Head × Tail)) : Nat := (l.map (fun x => tailLen x.1.major)).sum
/-- The 64 bytes of a line of heads and tails (R119, R120). -/
def lineBytes (l : List (Head × Tail)) : List Byte :=
  let n := l.length
  leBytes 2 (n + tailTotal l / 2 * 32) ++ l.flatMap (fun x => leBytes 2 x.1.toNat) ++ List.replicate (62 - 2 * n - tailTotal l) 0 ++
  (l.reverse).flatMap tailBytes
/-- A head joins a line while the line keeps within 31 heads and 64 bytes. -/
def joins (l : List (Head × Tail)) (major : Nat) : Bool :=
  let n := l.length + 1
  n ≤ 31 && 2 + 2 * n + tailTotal l + tailLen (BitVec.ofNat 6 major) ≤ 64
def WSect.close (x : WSect) : WSect :=
  if x.line.isEmpty then x else { x with data := x.data ++ lineBytes x.line, line := [] }
def WSect.pad (x : WSect) (n : Nat) : WSect :=
  { x with data := x.data ++ List.replicate ((n - x.data.length % n) % n) 0, align := max x.align n }

/-- An instruction's line: its place is fixed first, then its labels, then its fields. -/
def Asm.instr (prev a : Asm) (l : SrcLine) (m ops : Chars) : Asm :=
  match splitMnemonic m with
  | none => (a.list l none [] []).report l 2
  | some (row, tys) =>
    if a.cur ≠ 0 then (a.list l none [] []).report l 11
    else
      let x := if joins a.text.line row.major then a.text else a.text.close
      let off := x.data.length + 2 * (x.line.length + 1)
      let a := ({ a with text := x }).defineAll 0 off true
      let r := row.form { look := look prev a, sect := 0, off := off } tys (operands ops)
      let (i, fix) : Instr × Option Fix := match r with
        | .ok f => (f.instr, f.fix)
        | .error _ => (.nop, none)
      let code : Head × Tail := match r, encode i with
        | .ok _, some c => c
        | _, _ => (mkHead (BitVec.ofNat 6 row.major) 0 0, 0)
      let goal : Option Nat := if fix.isSome then none else match i with
        | .beq _ _ d s | .bne _ _ d s | .blt _ _ d s | .bge _ _ d s | .bltz _ _ d s | .bgez _ _ d s | .loop _ d s | .jmp d s | .call d s =>
          some ((((off / 64 : Nat) : Int) + d.toInt).toNat * 64 + 2 * s.toNat)
        | _ => none
      let a : Asm := { a with
        text := { a.text with line := a.text.line ++ [code] }
        placed := { off := off, instr := i, target := goal, line := l } :: a.placed
        fixes := (fix.map (fun f => (0, off, f))).toList ++ a.fixes }
      let a := a.list l (some (0, off)) (leBytes 2 code.1.toNat) (tailBytes code)
      match r with
      | .ok _ => a
      | .error n => a.report l n

/-! ## Data -/

/-- Bytes at the end of a section; the labels that wait name the first of them. -/
def Asm.emit (a : Asm) (k : Nat) (b : List Byte) : Asm :=
  let a := a.defineAll k (a.sect k).data.length false
  let x := a.sect k
  a.setSect k { x with used := true, data := x.data ++ b }
def Asm.fixAt (a : Asm) (k off : Nat) (f : Option Fix) : Asm := { a with fixes := (f.map (fun f => (k, off, f))).toList ++ a.fixes }

/-- A 64-bit field: absolute, or with an ABS64 relocation. -/
def word64 (e : Chars → Try Lin) (l : Chars) : Try (Word × Option Fix) := do
  let (r, w) ← (← evalOperand e l).rel
  match r with
  | none => pure (w, none)
  | some r => pure (0, some { type := 1, ref := r, addend := w })
/-- An operand of `.dword`: as a field, or `%line` of an expression, with a LINE64 relocation (R144, R145). -/
def dwordOf (e : Chars → Try Lin) (l : Chars) : Try (Word × Option Fix) :=
  match callArg "line" l with
  | none => word64 e l
  | some b => do
    let (r, w) ← (← evalExpr e b).rel
    match r with
    | none => pure (lineBase w, none)
    | some r => pure (0, some { type := 6, ref := r, addend := w })

/-- One operand of `.byte`, `.half`, `.word` or `.dword`; its low bytes are emitted (DEDUCED, log 45). -/
def Asm.datum (prev a : Asm) (l : SrcLine) (n : Nat) (t : Chars) : Asm :=
  let k := a.cur
  let a := a.defineAll k (a.sect k).data.length false
  let off := (a.sect k).data.length
  let r : Try (Word × Option Fix) := if n = 8 then dwordOf (look prev a) t else (evalAbs (look prev a) t).map (fun w => (w, none))
  match r with
  | .ok (w, f) =>
    let a := (a.emit k (leBytes n w.toNat)).fixAt k off f
    if n = 8 && f.isNone then { a with dwords := a.dwords ++ [(k, off, w)] } else a
  | .error e => (a.emit k (List.replicate n 0)).report l e
def Asm.floatDatum (a : Asm) (l : SrcLine) (f : Fmt) (t : Chars) : Asm :=
  match floatBits f t with
  | .ok n => a.emit a.cur (leBytes (f.width / 8) n)
  | .error e => (a.emit a.cur (List.replicate (f.width / 8) 0)).report l e

/-! ## Records from keywords (R364, R412) -/

/-- A record being written: its bits, its relocations by byte, and how many parts of each kind it has. -/
structure Block where
  bits : Nat := 0
  fixes : List (Nat × Fix) := []
  deriving DecidableEq, Repr
def Block.put (b : Block) (lo n : Nat) : Block := { b with bits := b.bits + n * 2 ^ lo }

/-- `key=value` (E01 where an operand is none, or a keyword stands twice). -/
def keywords (ops : List Chars) : Try (List (Chars × Chars)) :=
  ops.foldlM (fun l o =>
    let key := trim (o.takeWhile (fun c => c != '='))
    if !o.contains '=' || l.any (fun x => x.1 == key) then .error 1
    else .ok (l ++ [(key, trim ((o.dropWhile (fun c => c != '=')).drop 1))])) []
/-- An absolute value of `n` bits without sign. -/
def uint (e : Chars → Try Lin) (n : Nat) (t : Chars) : Try Nat :=
  (evalAbs e t).bind (fun w => if w.toNat < 2 ^ n then .ok w.toNat else .error 3)
def putUint (e : Chars → Try Lin) (b : Block) (lo n : Nat) (t : Chars) : Try Block := (uint e n t).map (fun x => b.put lo x)
def putWord (e : Chars → Try Lin) (b : Block) (lo : Nat) (t : Chars) : Try Block :=
  (word64 e t).map (fun x => { bits := b.bits + x.1.toNat * 2 ^ lo, fixes := b.fixes ++ (x.2.map (fun f => (lo / 8, f))).toList })
def colons (t : Chars) : List Chars := (splitAtChar ':' t []).map trim
/-- An absolute value below a limit. -/
def below (e : Chars → Try Lin) (n : Nat) (t : Chars) : Try Nat :=
  (uint e 64 t).bind (fun x => if x < n then .ok x else .error 3)

/-- A group binding: GID, then `w`, then a step (R364). -/
def groupBinding (e : Chars → Try Lin) (t : Chars) : Try Nat :=
  match colons t with
  | [g] => uint e 16 g
  | [g, x] =>
    if x == ['w'] then (uint e 16 g).map (fun g => g + 2 ^ 17)
    else do pure ((← uint e 16 g) + 2 ^ 16 + (← uint e 32 x) * 2 ^ 32)
  | [g, ['w'], x] => do pure ((← uint e 16 g) + 2 ^ 16 + 2 ^ 17 + (← uint e 32 x) * 2 ^ 32)
  | _ => .error 1

def launchKey (e : Chars → Try Lin) (b : Block) (kv : Chars × Chars) : Try Block :=
  let (k, t) := kv
  let uints : List (String × Nat × Nat) :=
    [("prio", 260, 3), ("part", 264, 2), ("nrd", 288, 4), ("nwr", 292, 4), ("stride", 384, 32)]
  let words : List (String × Nat) := [("kernel", 0), ("arg", 64), ("save", 320), ("tiles", 448)]
  match uints.find? (fun x => x.1.toList == k), words.find? (fun x => x.1.toList == k) with
  | some x, _ => putUint e b x.2.1 x.2.2 t
  | none, some x => putWord e b x.2 t
  | none, none =>
    if k == "levels".toList then
      let ds := colons t
      if 8 < ds.length then .error 3
      else (ds.zipIdx.foldlM (fun b d => putUint e b (128 + 16 * d.2) 16 d.1) b).map (fun b => b.put 256 (ds.length - 1))
    else if k == "pin".toList then
      match colons t with
      | [d, c] => do pure (((b.put 266 1).put 272 (← below e 4 d)).put 274 (← below e 96 c))
      | [d, c, x] => do pure (((((b.put 266 1).put 272 (← below e 4 d)).put 274 (← below e 96 c)).put 281 (← below e 8 x)).put 284 1)
      | _ => .error 1
    else
      match (List.range 4).find? (fun g => k == "group".toList ++ (toString g).toList) with
      | some g => (groupBinding e t).map (fun x => b.put (512 + 64 * g) x)
      | none => .error 1
/-- The 128 bytes of a launch block. -/
def launchBlock (e : Chars → Try Lin) (ops : List Chars) : Try Block := do
  let ks ← keywords ops
  let b ← ks.foldlM (launchKey e) {}
  let given := (List.range 4).filter (fun g => ks.any (fun x => x.1 == "group".toList ++ (toString g).toList))
  if given = List.range given.length then pure (b.put 296 given.length) else .error 3

/-- The 8-byte range descriptor that `tiles=` names: an absolute `.dword` above (R412). -/
def tilesOf (a : Asm) (e : Chars → Try Lin) (t : Chars) : Try Nat := do
  let (r, w) ← (← evalExpr e t).rel
  match r.bind (fun r => r.sect.map (fun k => (k, (r.off + w).toNat))) with
  | none => .error 5
  | some (k, off) => match a.dwords.find? (fun d => d.1 == k && d.2.1 == off) with
    | some d => if d.2.2.toNat < 2 ^ 57 then pure d.2.2.toNat else .error 3
    | none => .error 5
def groupKey (a : Asm) (e : Chars → Try Lin) (b : Block) (kv : Chars × Chars) : Try Block :=
  let (k, t) := kv
  let uints : List (String × Nat × Nat) := [("gid", 0, 16), ("step", 32, 32), ("nmin", 160, 32), ("nmax", 192, 32), ("nel", 224, 32)]
  let words : List (String × Nat) := [("stats", 256), ("succ", 320)]
  match uints.find? (fun x => x.1.toList == k), words.find? (fun x => x.1.toList == k) with
  | some x, _ => putUint e b x.2.1 x.2.2 t
  | none, some x => putWord e b x.2 t
  | none, none =>
    if k == "late".toList then (wordOf ["drop", "carry"] 3 t).map (fun n => b.put 16 n)
    else if k == "theta".toList then
      (floatBits f32 t).bind (fun n => if 0 < n && n ≤ 0x7F800000 then .ok (b.put 128 n) else .error 3)
    else if k == "tiles".toList then (tilesOf a e t).map (fun n => b.put 384 n)
    else .error 1
/-- The 64 bytes of a group image, within the limits of R412: a positive THETA, no NaN, and the counts. -/
def groupImage (a : Asm) (e : Chars → Try Lin) (ops : List Chars) : Try Block := do
  let ks ← keywords ops
  let b ← ks.foldlM (groupKey a e) {}
  -- an absolute address word that the line gives
  let fixed (lo : Nat) (f : Word → Bool) : Bool :=
    !ks.any (fun x => x.1 == (if lo = 256 then "stats" else "succ").toList) || b.fixes.any (fun x => x.1 == lo / 8) ||
      f (BitVec.ofNat 64 (b.bits / 2 ^ lo % 2 ^ 64))
  let theta := b.bits / 2 ^ 128 % 2 ^ 32
  let nmin := b.bits / 2 ^ 160 % 2 ^ 32
  let nmax := b.bits / 2 ^ 192 % 2 ^ 32
  let nel := b.bits / 2 ^ 224 % 2 ^ 32
  let stats := b.bits / 2 ^ 256 % 2 ^ 64
  if 0 < theta && theta ≤ 0x7F800000 && 2 ≤ nmin && nmin ≤ 2 ^ 24 && (nmax == 0 || (nmin ≤ nmax && nmax ≤ 2 ^ 24)) && 1 ≤ nel &&
      nel ≤ 2 ^ 20 && stats % 64 == 0 && fixed 256 (fun w => isVA w && vaOf w % 2 ^ 54 + 256 * ((nel + 15) / 16) ≤ 2 ^ 54) &&
      fixed 320 (fun w => w = 0 || (isVA w && w.toNat % 64 == 0)) then pure b
  else .error 3

/-- `.table`: the 32 bytes of a table descriptor (R321). The manual names no keywords; these are the model's (DESIGN CHOICE, log 46). -/
def tableKey (e : Chars → Try Lin) (b : Block) (kv : Chars × Chars) : Try Block :=
  let (k, t) := kv
  if k == "base".toList then putWord e b 0 t
  else if k == "entries".toList then (below e 65537 t).bind (fun n => if n = 0 then .error 3 else .ok (b.put 64 (n - 1)))
  else if k == "width".toList then (wordOf ["8", "16", "32"] 3 t).map (fun n => b.put 80 n)
  else if k == "policy".toList then (wordOf ["clamp", "default", "trap"] 3 t).map (fun n => b.put 82 n)
  else if k == "intp".toList then match typeOf t with
    | some ty => .ok ((b.put 84 1).put 85 ty.toNat)
    | none => .error 3
  else if k == "default".toList then putUint e b 128 32 t
  else .error 1
def tableDesc (e : Chars → Try Lin) (ops : List Chars) : Try Block := do
  let b ← (← keywords ops).foldlM (tableKey e) {}
  let width := b.bits / 2 ^ 80 % 4
  let ty := b.bits / 2 ^ 85 % 32
  if b.bits / 2 ^ 84 % 2 = 0 || (ty = 1 && width = 2) || ((ty = 2 || ty = 3) && width = 1) then pure b else .error 3

/-- A party of `.timetable`: `die:cluster:core:slot:first:count`; `remote:peer:first:count`, or with the four fields of its place
behind the peer (R380). -/
def partyWord (e : Chars → Try Lin) (t : Chars) : Try Word :=
  let place (d c k s : Chars) : Try Nat := do
    pure ((← below e 4 d) * 2 + (← below e 96 c) * 2 ^ 3 + (← below e 8 k) * 2 ^ 10 + (← below e 2 s) * 2 ^ 13)
  let run (f n : Chars) : Try Nat := do pure ((← below e 65536 f) * 2 ^ 32 + (← below e 257 n) * 2 ^ 48)
  let remote (r p : Chars) : Try Nat := do
    let _ ← wordOf ["remote"] 1 r
    let p ← below e 4096 p
    if p = 0 then .error 3 else pure (1 + p * 2 ^ 16)
  match colons t with
  | [d, c, k, s, f, n] => do pure (BitVec.ofNat 64 ((← place d c k s) + (← run f n)))
  | [r, p, f, n] => do pure (BitVec.ofNat 64 ((← remote r p) + (← run f n)))
  | [r, p, d, c, k, s, f, n] => do pure (BitVec.ofNat 64 ((← remote r p) + (← place d c k s) + (← run f n)))
  | _ => .error 1
/-- An entry: `offset:op:line:peer:lines`, with `sendacc` for a SEND of accumulator lines, and for acc `:tile:row:chunk` (R381). -/
def entryWord (e : Chars → Try Lin) (t : Chars) : Try Word :=
  match colons t with
  | o :: op :: l :: p :: n :: r => do
    let op ← wordOf ["send", "copy", "ms", "xor", "acc", "sendacc"] 1 op
    let n ← below e 129 n
    let rest ← (match r with
      | [] => if op = 4 then .error 1 else .ok 0
      | [t, w, c] => if op = 4 then do pure ((← below e 8 t) * 2 ^ 47 + (← below e 128 w) * 2 ^ 50 + (← below e 8 c) * 2 ^ 57) else .error 1
      | _ => .error 1 : Try Nat)
    if n = 0 then .error 3
    else pure (BitVec.ofNat 64 ((← below e 65536 o) + (if op = 5 then 2 ^ 33 else op * 2 ^ 16) + (← below e 8192 l) * 2 ^ 20
      + (← below e 64 p) * 2 ^ 34 + (n - 1) * 2 ^ 40 + rest))
  | _ => .error 1
/-- `.timetable dwait=…, party=…, …, entry=…, …`: keywords of the model (DESIGN CHOICE, log 46). -/
def timetable (e : Chars → Try Lin) (ops : List Chars) : Try Image := do
  let ks ← ops.mapM (fun o => if o.contains '=' then Except.ok (trim (o.takeWhile (fun c => c != '=')), trim ((o.dropWhile (fun c => c != '=')).drop 1))
    else .error 1)
  let of (k : String) : List Chars := (ks.filter (fun x => x.1 == k.toList)).map (fun x => x.2)
  if !ks.all (fun x => ["dwait", "party", "entry"].any (fun w => w.toList == x.1)) then .error 1
  else match of "dwait" with
  | [d] =>
    let d ← uint e 32 d
    let ps ← (of "party").mapM (partyWord e)
    let es ← (of "entry").mapM (entryWord e)
    if d < 64 || ps.isEmpty || 64 < ps.length || es.isEmpty || 4096 < es.length then .error 3
    else pure { dwait := d, parties := ps, entries := es }
  | _ => .error 1
def imageBytes (m : Image) : List Byte :=
  leBytes 64 (m.parties.length + m.entries.length * 2 ^ 16 + m.dwait * 2 ^ 32) ++ (m.parties ++ m.entries).flatMap (fun w => leBytes 8 w.toNat)
/-- The test of R150 and R384: collisions (E09); a remote party gives W03. R146 names no code for a timetable that breaks the limits
of R384, here E03, or the matching and latency of R382, here E09 (DESIGN CHOICE, log 46). -/
def Asm.checkTimetable (a : Asm) (l : SrcLine) (m : Image) : Asm :=
  let all := List.range m.entries.length
  let a := if m.parties.any ptyRemote then a.warn l 3 else a
  if !wellTimed (fun _ => true) m then a.report l 3
  else if all.any (collides m) || all.any (mismatched m) then a.report l 9
  else a

/-- A record of `n` bytes aligned to `al`, named by the label that stands before it. -/
def Asm.record (a : Asm) (l : SrcLine) (n al : Nat) (r : Try Block) : Asm :=
  let k := a.cur
  if k = 0 then a.report l 11
  else
    let a := a.setSect k ((a.sect k).pad al)
    let off := (a.sect k).data.length
    match r with
    | .ok b =>
      let a := a.emit k (leBytes n b.bits)
      b.fixes.foldl (fun a f => a.fixAt k (off + f.1) (some f.2)) a
    | .error e => (a.emit k (List.replicate n 0)).report l e

/-! ## Kernels (R142) -/

/-- `.kernel name[, SAVESZ]`: the header into .rodata, as long as the pass before found it. -/
def Asm.kernel (prev a : Asm) (l : SrcLine) (ops : List Chars) : Asm :=
  let go (name : Chars) (savesz : Try Word) : Asm :=
    let old := (prev.kernels.reverse)[a.kernels.length]?
    let nsafe := (old.map (fun k => (k.safes.map (fun x => x.k + 1)).foldl max 0)).getD 0
    let a := a.setSect 1 ((a.rodata).pad 64)
    let off := a.rodata.data.length
    let size : Nat := match savesz with
      | .ok w => w.toNat
      | .error _ => 0
    let a := a.emit 1 (leBytes 32 (nsafe * 2 ^ 64 + size % 65536 * 2 ^ 80) ++ List.replicate (32 * nsafe) 0)
    let a := a.define l { name := name ++ "_kh".toList, sect := some 1, value := BitVec.ofNat 64 off, head := false }
    let a : Asm := { a with
      kernels := { name := name, hdr := off, entry := none, safes := [], first := a.placed.length, line := l } :: a.kernels }
    let a := a.fixAt 1 off (some { type := 1, ref := { name := name, sect := some 0, off := 0 }, addend := 0 })
    match savesz with
    | .ok w => if w.toNat < 65536 then a else a.report l 3
    | .error e => a.report l e
  match ops with
  | [n] => go n (.ok 0)
  | [n, z] => go n (evalAbs (look prev a) z)
  | _ => a.report l 1

/-- The offset in .text that a routine's symbol has; a routine in another object cannot be followed and is E10 (DESIGN CHOICE,
log 47). -/
def textOffset (prev : Asm) (f : Option Fix) : Option Nat :=
  f.bind (fun f => if f.ref.sect = some 0 then
    (findDef prev.defs f.ref.name).map (fun d => (d.value + f.addend).toNat) else none)
/-- `.safe k, save, restore, LIVES, LIVEV, LIVEM, LIVEST` (R104). -/
def Asm.safe (prev a : Asm) (l : SrcLine) (ops : List Chars) : Asm :=
  match ops, a.kernels with
  | [k, sv, rs, x, v, m, st], kern :: ks =>
    let e := look prev a
    let r : Try (Nat × (Word × Option Fix) × (Word × Option Fix) × Nat × Nat × Nat × Nat) := do
      pure (← uint e 64 k, ← word64 e sv, ← word64 e rs, ← uint e 32 x, ← uint e 32 v, ← uint e 8 m, ← uint e 8 st)
    match r with
    | .error n => a.report l n
    | .ok (k, sv, rs, x, v, m, st) =>
      if 254 < k || kern.safes.any (fun y => y.k == k) then a.report l 10
      else
        let off := kern.hdr + 32 + 32 * k
        let b := leBytes 32 (sv.1.toNat + rs.1.toNat * 2 ^ 64 + x * 2 ^ 128 + v * 2 ^ 160 + m * 2 ^ 192 + st * 2 ^ 200)
        let info : SafeInfo := { k := k, save := textOffset prev sv.2, rest := textOffset prev rs.2, liveS := BitVec.ofNat 32 x
                                 liveV := BitVec.ofNat 32 v, liveM := BitVec.ofNat 8 m, line := l }
        let ro := a.rodata
        let a : Asm := { a with
          kernels := { kern with safes := kern.safes ++ [info] } :: ks
          rodata := { ro with data := if off + 32 ≤ ro.data.length then overwrite ro.data off b else ro.data } }
        (a.fixAt 1 off sv.2).fixAt 1 (off + 8) rs.2
  | [_, _, _, _, _, _, _], [] => a.report l 10
  | _, _ => a.report l 1

/-! ## Directives (R141) -/

/-- `.text`, `.rodata` and `.data`, with or without `stack=` (DESIGN CHOICE, log 46). -/
def Asm.section (prev a : Asm) (l : SrcLine) (k : Nat) (ops : List Chars) : Asm :=
  let a : Asm := { a with cur := k }
  let x := a.sect k
  let a := a.setSect k { x with used := true }
  match ops with
  | [] => a
  | [o] => match keywords [o] with
    | .ok [(key, t)] =>
      if key != "stack".toList then a.report l 1
      else match below (look prev a) 8 t with
      | .ok n => if x.stack.any (fun m => m != n) then a.report l 3 else a.setSect k { a.sect k with stack := some n }
      | .error n => a.report l n
    | _ => a.report l 1
  | _ => a.report l 1
def isPow2 (n : Nat) : Bool := n != 0 && 2 ^ Nat.log2 n == n
/-- `.align` (R141). An operand of a directive outside the directive's limits is E03 here as elsewhere, since R146 names no code for it
(DESIGN CHOICE, log 45). -/
def Asm.align (prev a : Asm) (l : SrcLine) (ops : List Chars) : Asm :=
  match ops with
  | [t] => match uint (look prev a) 64 t with
    | .error n => a.report l n
    | .ok n =>
      if !isPow2 n || 65536 < n then a.report l 3
      else if a.cur = 0 then (if n < 64 then a.report l 11 else { a with text := (a.text.close).pad n })
      else a.setSect a.cur ((a.sect a.cur).pad n)
  | _ => a.report l 1

def sizes : List (String × Nat) := [(".byte", 1), (".half", 2), (".word", 4), (".dword", 8)]
def floats : List (String × Nat) := [(".f32", 1), (".f64", 0)]

def Asm.directive (prev a : Asm) (l : SrcLine) (m ops : Chars) : Asm :=
  let os := operands ops
  let e := look prev a
  let is (w : String) : Bool := m == w.toList
  let data (f : Asm → Chars → Asm) : Asm := if a.cur = 0 then a.report l 11 else if os.isEmpty then a.report l 1 else os.foldl f a
  match sizes.find? (fun x => is x.1), floats.find? (fun x => is x.1) with
  | some x, _ => data (fun a t => Asm.datum prev a l x.2 t)
  | none, some x => data (fun a t => a.floatDatum l (fmtOf x.2) t)
  | none, none =>
    if is ".text" then Asm.section prev a l 0 os
    else if is ".rodata" then Asm.section prev a l 1 os
    else if is ".data" then Asm.section prev a l 2 os
    else if is ".align" then Asm.align prev a l os
    else if is ".equ" then (match os with
      | [n, t] => (match evalAbs e t with
        | .ok w => a.equ l n w
        | .error n => a.report l n)
      | _ => a.report l 1)
    else if is ".global" then (if !os.isEmpty && os.all (fun n => isSymbol n && !isReserved n) then { a with globals := merge' a.globals os }
      else a.report l 1)
    else if is ".kernel" then Asm.kernel prev a l os
    else if is ".safe" then Asm.safe prev a l os
    else if is ".launch" then a.record l 128 64 (launchBlock e os)
    else if is ".group" then a.record l 64 64 (groupImage a e os)
    else if is ".table" then a.record l 32 32 (tableDesc e os)
    else if is ".timetable" then (match timetable e os with
      | .ok m =>
        let b := imageBytes m
        (a.record l b.length 64 (.ok { bits := leNat b })).checkTimetable l m
      | .error n => a.record l 64 64 (.error n))
    else a.report l 2
where
  merge' (s t : List Chars) : List Chars := t.foldl (fun s x => if s.contains x then s else s ++ [x]) s

/-- The alignment of the record that a directive writes, 1 for the others. -/
def recordAlign (m : Chars) : Nat :=
  if [".launch", ".group", ".timetable"].any (fun w => w.toList == m) then 64 else if m == ".table".toList then 32 else 1
/-- Where a directive emits what it emits, and the bytes, for the listing (R137): a record at its own address, behind what pads to it;
an `.align` what pads, behind the line it closes; a kernel's header, and the entry of a safe point in it, in .rodata. -/
def emitted (m : Chars) (a b : Asm) : (Nat × Nat) × List Byte :=
  let header (off : Nat) : (Nat × Nat) × List Byte := ((1, off), (b.rodata.data.drop off).take 32)
  let added (k old : Nat) : (Nat × Nat) × List Byte := ((k, min (b.sect k).data.length old), (b.sect k).data.drop old)
  let k := b.cur
  let plain := added k (((a.sect k).data.length + recordAlign m - 1) / recordAlign m * recordAlign m)
  if m == ".align".toList && k = 0 then added 0 (if b.text.data.length = a.text.data.length then a.text.data.length else a.text.close.data.length)
  else if m == ".kernel".toList then (match b.kernels with
    | x :: _ => if a.kernels.length < b.kernels.length then header x.hdr else plain
    | [] => plain)
  else if m == ".safe".toList then (match a.kernels, b.kernels with
    | x :: _, y :: _ => if x.safes.length < y.safes.length then header (y.hdr + 32 + 32 * ((y.safes.getLast?).map (fun p => p.k)).getD 0) else plain
    | _, _ => plain)
  else plain
/-- One line of source. -/
def Asm.step (prev a : Asm) (l : SrcLine) : Asm :=
  let (label, m, ops) := splitLine l.text
  let a := match (if l.note = some false then none else label) with
    | some n =>
      let x := a.sect a.cur
      a.setSect a.cur { x with pend := x.pend ++ [(n, l)] }
    | none => a
  if m.isEmpty || l.note.isSome then a.list l none [] []
  else if m.head? == some '.' then
    let b := Asm.directive prev a l m ops
    let x := emitted m a b
    b.list l (some x.1) [] x.2
  else Asm.instr prev a l m ops

/-- The end of the source: open lines are closed, labels that nothing follows get the place behind it (R138), and every kernel's entry
and list of safe points is looked at (R142). -/
def Asm.finish (a : Asm) : Asm :=
  let a : Asm := { a with text := a.text.close }
  let a := a.defineAll 0 (a.text.data.length + 2) false
  let a := a.defineAll 1 a.rodata.data.length false
  let a := a.defineAll 2 a.data.data.length false
  let entry (k : KernelInfo) : Option Nat :=
    (findDef a.defs k.name).bind (fun d => if d.sect = some 0 then some d.value.toNat else none)
  let a : Asm := { a with kernels := a.kernels.map (fun k => { k with entry := entry k }) }
  a.kernels.reverse.foldl (fun a k =>
    let a := if k.entry.isSome then a else a.report k.line 10
    if k.safes.length = (k.safes.map (fun x => x.k + 1)).foldl max 0 then a else a.report k.line 10) a

/-- One pass over the source, with what the pass before it found. The definitions of the command line stand before the first line,
each as an `.equ` of its text, and are reported for line 0 (R137). -/
def pass (defines : List (Chars × Chars)) (lines : List SrcLine) (prev : Asm) : Asm :=
  let l0 : SrcLine := { file := (lines.head?.map (fun l => l.file)).getD [], num := 0, text := [], chain := [], depth := 0 }
  let start : Asm := defines.foldl (fun a d => match evalAbs (look prev a) d.2 with
    | .ok w => a.setEqu l0 d.1 w
    | .error n => a.report l0 n) {}
  (lines.foldl (Asm.step prev) start).finish
/-- Passes until one changes nothing, `n` of them at most. -/
def settlePasses (p : Asm → Asm) : Nat → Asm → Asm
  | 0, a => a
  | n + 1, a =>
    let b := p a
    if b = a then a else settlePasses p n b
/-- Places and symbols are settled before anything that the last pass reports or writes: each pass settles one more of a chain of
symbols that stand before their definitions (R140). -/
def assemble (defines : List (Chars × Chars)) (lines : List SrcLine) : Asm :=
  settlePasses (pass defines lines) (lines.length + defines.length + 4) {}

/-! ## The object (R151 to R154) -/

def nameBytes (l : Chars) : List Byte := l.map (fun c => BitVec.ofNat 8 c.toNat)
/-- The sections an object has, by number: .text always, the others where the source has them (DESIGN CHOICE, log 46). -/
def Asm.kept (a : Asm) : List Nat := [0, 1, 2].filter (fun k => k = 0 || (a.sect k).used || !(a.sect k).data.isEmpty)
def Asm.isGlobal (a : Asm) (n : Chars) : Bool :=
  a.globals.contains n || a.kernels.any (fun k => k.name ++ "_kh".toList == n && a.globals.contains k.name)
def Asm.object (a : Asm) : OObject :=
  let kept := a.kept
  let sectNo (k : Nat) : Nat := kept.findIdx (fun x => x == k)
  let imports := a.globals.filter (fun n => (findDef a.defs n).isNone)
  let names := a.defs.map (fun d => d.name) ++ imports
  { sects := kept.map (fun k =>
      let x := a.sect k
      { name := nameBytes ([".text", ".rodata", ".data"].getD k "").toList, kind := k, stack := x.stack, alignLog2 := Nat.log2 x.align
        data := x.data })
    syms := a.defs.map (fun d =>
        { name := nameBytes d.name, sect := (d.sect.map sectNo).getD sectAbsolute, isGlobal := a.isGlobal d.name, isHead := d.head
          value := d.value }) ++
      imports.map (fun n => { name := nameBytes n, sect := sectUndefined, isGlobal := true, isHead := false, value := 0 })
    relocs := a.fixes.reverse.map (fun f =>
      { sect := sectNo f.1, type := f.2.2.type, sym := names.findIdx (fun n => n == f.2.2.ref.name), offset := f.2.1
        addend := f.2.2.addend }) }

/-! ## The command line (R136, R137) -/

structure Opts where
  source : Option Chars := none
  out : Option Chars := none
  dirs : List Chars := []
  defines : List (Chars × Chars) := []
  listing : Option Chars := none
  gap : Nat := 4096
  werror : Bool := false
  quiet : List Nat := []
  deriving DecidableEq, Repr

def afterWord (w : String) (l : Chars) : Option Chars := if w.toList.isPrefixOf l then some (l.drop w.length) else none
/-- The options and the source of a command line; none where it is at fault. Options may stand behind the source as well (DESIGN
CHOICE, log 45). `-D` takes a reserved name, as the command of chapter 23 does (DEDUCED, log 45). -/
def parseArgs : List Chars → Opts → Option Opts
  | [], o => if o.source.isSome then some o else none
  | ['-', 'o'] :: f :: r, o => parseArgs r { o with out := some f }
  | ['-', 'I'] :: d :: r, o => parseArgs r { o with dirs := o.dirs ++ [d] }
  | ['-', 'l'] :: f :: r, o => parseArgs r { o with listing := some f }
  | ['-', 'D'] :: d :: r, o =>
    let n := d.takeWhile (fun c => c != '=')
    if isSymbol n && d.contains '=' then parseArgs r { o with defines := o.defines ++ [(n, d.drop (n.length + 1))] } else none
  | a :: r, o =>
    match afterWord "-safe-gap=" a with
    | some t => match numberVal t with
      | some n => if 64 ≤ n && n ≤ 1048576 then parseArgs r { o with gap := n } else none
      | none => none
    | none =>
      if a == "-Werror".toList then parseArgs r { o with werror := true }
      else if a == "-stepping=A2".toList then parseArgs r o
      else match afterWord "-Wno-" a with
      | some t =>
        if ["01", "02", "03"].any (fun w => w.toList == t) then parseArgs r { o with quiet := o.quiet ++ (digitsVal 10 t).toList } else none
      | none => if a.head? == some '-' || o.source.isSome then none else parseArgs r { o with source := some a }

/-- What one run of wikel leaves: the exit status, the diagnostics, the object's file and the listing's. -/
structure Outcome where
  status : Nat
  diags : List Diag
  object : Option (Chars × List Byte)
  listing : Option (Chars × List ListLine)
  deriving DecidableEq, Repr

/-- The source name with .ovo in place of its extension. -/
def ovoName (s : Chars) : Chars :=
  let base := (s.reverse.takeWhile (fun c => c != '/')).reverse
  let stem := if base.contains '.' then s.take (s.length - ((base.reverse.takeWhile (fun c => c != '.')).length + 1)) else s
  stem ++ ".ovo".toList
def Diag.isError (werror : Bool) (d : Diag) : Bool := match d.code with
  | .err _ => true
  | .warn _ => werror

/-- `wikel` on a command line, with the files it may read. On its paths a head of a line in error counts as a NOP of its length
(DESIGN CHOICE, log 47). -/
def wikel (files : List (Chars × List Chars)) (args : List Chars) : Outcome :=
  match parseArgs args {} with
  | none => { status := 2, diags := [], object := none, listing := none }
  | some o =>
    let src := o.source.getD []
    match files.find? (fun f => f.1 == src) with
    | none => { status := 2, diags := [], object := none, listing := none }
    | some f =>
      let x := expandLines isMnemonic isTaken files o.dirs (2 ^ 30) [] 1 (numbered f.1 [f.1] 0 f.2)
      let a := assemble o.defines x.lines
      let read := x.diags ++ a.diags
      let paths := checkAll a.placed.reverse o.gap a.kernels.reverse
      let diags := (read ++ paths).filter (fun d => match d.code with
        | .err _ => true
        | .warn n => !o.quiet.contains n)
      let bad := diags.any (fun d => Diag.isError o.werror d)
      { status := if bad then 1 else 0, diags := diags
        object := if bad then none else some (o.out.getD (ovoName src), a.object.bytes)
        listing := o.listing.map (fun n => (n, a.listing)) }

/-- A diagnostic as written, `file:line: code: text`, with a text of the model's. -/
def Diag.show (d : Diag) (text : String) : String :=
  let two (n : Nat) : String := if n < 10 then "0" ++ toString n else toString n
  String.ofList d.file ++ ":" ++ toString d.line ++ ": " ++ (match d.code with
    | .err n => "E" ++ two n
    | .warn n => "W" ++ two n) ++ ": " ++ text

end Sys2Proof.Machine.Wikel
end

