-- ==== Sys2Proof/Tests/Slice0.lean ====
section
/-! SUPPORT. Tests: ill-formed terms, words written out from the manual's encodings, single steps, and for every statement with
hypotheses states and operands that meet them. -/

namespace Sys2Proof.Tests
open Sys2Proof Sys2Proof.Machine
-- one test after another: their evaluations side by side need more threads than the check allows
set_option Elab.async false

/-! ## Small states -/

/-- Registers with the given scalar values; the PC is the first head of the line at VA 0. -/
def regsOf (l : List (Nat × Nat)) : Regs :=
  l.foldl (fun r x => r.setS (BitVec.ofNat 5 x.1) (BitVec.ofNat 64 x.2)) { pc := codePc }
/-- A running thread set inside its first chunk. -/
def running (r : Regs) : Thread := { run := .running, regs := r, chunk := { begun := r } }
/-- A 64 KiB page of partition 0 that translates to itself. -/
def pageAt (va : Nat) : TlbEntry := { part := 0, va := va, big := false, frame := va, rd := true, wr := true, redir := none }
/-- Hart `h` runs with the given scalar registers; the first page of stack 0 is cached, cluster 0 is up. -/
def runs (h : Hart) (l : List (Nat × Nat)) : State :=
  { cur := h, threads := [(h, running (regsOf l))], clusters := [(0, { up := true })], dram := [(0, { up := true, tlb := [pageAt 0] })] }
/-- A thread set of core 0, of stoker 0 and the hob unit of pseudo-channel 0. -/
def onCore (l : List (Nat × Nat)) : State := runs 0 l
def onStoker (l : List (Nat × Nat)) : State := runs 12288 l
def onHob (l : List (Nat × Nat)) : State := runs 13824 l
/-- The state with the issuing thread set changed. -/
def withMe (s : State) (f : Thread → Thread) : State := s.setMe (f s.me)
/-- An item of hart 0 on its way to 8 bytes at a key. -/
def itemAt (k : Nat) : Msg := { id := 5, hart := 0, part := 0, item := .rmw k 0 8 1 0 none false }
/-- A virtual address word. -/
def va (a : Nat) : Nat := 2 ^ 63 + a
def isNext (o : Result) : Bool := match o with
  | .next _ => true
  | _ => false
/-- The thread set of the current hart in the answer. -/
def meOf (o : Result) : Option Thread := match o with
  | .next t => some t.me
  | _ => none
def stateOf (o : Result) : State := match o with
  | .next t => t
  | _ => {}
def word (n : Nat) : Word := BitVec.ofNat 64 n

/-! ## Hypotheses of the statements, met -/

/-- RegisterResults. -/
theorem test_hyp_results : (scalarResult (.rem 7 5 6) (regsOf [(5, 9), (6, 2)])).isSome = true ∧
    (scalarResult (.bins 3 4 63 0) (regsOf [])).isSome = true ∧ (maskResult (.mnot 7 0) (regsOf [])).isSome = true ∧
    (maskResult (.mset 0 31) (regsOf [])).isSome = true := by decide +kernel
/-- DivideLaw: a zero divisor, the one quotient that does not fit, and another pair. -/
theorem test_hyp_divide : (onCore [(5, 9)]).rs 6 = 0 ∧
    ((onCore [(5, 2 ^ 63), (6, 2 ^ 64 - 1)]).rs 5).toInt = -2 ^ 63 ∧ ((onCore [(5, 2 ^ 63), (6, 2 ^ 64 - 1)]).rs 6).toInt = -1 ∧
    (onCore [(5, 2 ^ 63), (6, 1)]).rs 6 ≠ 0 ∧ ((onCore [(5, 2 ^ 63), (6, 1)]).rs 6).toInt ≠ -1 := by decide +kernel
/-- HardwiredRegisters: the numbers next to the hard-wired ones. -/
theorem test_hyp_hardwired : (1 : Reg) ≠ 0#5 ∧ (1 : Reg) ≠ (0 : Reg) ∧ 7 % 8 ≠ 0 ∧ 7 % 8 ≠ 8 % 8 := by decide
/-- A gang of harts 0 and 4; hart 4 follows. -/
def ganged (h : Hart) (l : List (Nat × Nat)) : State :=
  { withMe (runs h l) (fun t => { t with gang := some 1 }) with
    gangs := [(1, some { members := [0, 4], recs := [], cl := 0, acc := 0, head := 0, next := 0, todo := [], vals := (0, 0), released := [] })] }
/-- BranchesAndJumps: a branch taken and one not, a counter at 1 and at 0, and every kind of jump target. -/
theorem test_hyp_branches : branchOf (.beq 1 0 1 3) (regsOf []) = some (true, 1, 3) ∧
    branchOf (.blt 0 1 1 3) (regsOf [(1, 2 ^ 64 - 1)]) = some (false, 1, 3) ∧ (onCore [(5, 1)]).rs 5 = 1 ∧ (onCore []).rs 5 = 0 ∧
    (jumpOf (.callr 3) (regsOf [])).isSome = true ∧ (ganged 4 []).follows = true ∧ (onCore []).follows = false ∧
    kindOf 12287 ≠ .hob ∧ kindOf 12288 ≠ .hob ∧ kindOf 12287 = .core ∧ kindOf 13824 = .hob ∧
    isVA (BitVec.ofNat 64 (va 2)) = true ∧ isVA (BitVec.ofNat 64 (2 ^ 63 + 2 ^ 57 + 2)) = false ∧ (va 2) % 2 = 0 ∧ (va 2) % 64 ≠ 0 ∧
    (va 64) % 64 = 0 ∧ (va 3) % 2 = 1 ∧ 4094 % 2 = 0 ∧ 4094 % 64 ≠ 0 ∧ 4096 ≤ 4098 := by decide +kernel
/-- LoopCountsDown: a counter that becomes 0, and one that wraps. -/
theorem test_hyp_loop : (1 : BitVec 5) ≠ 0 ∧ ((onCore [(5, 1)]).ws 5 ((onCore [(5, 1)]).rs 5 - 1)).rs 5 = 0 ∧
    ((onCore []).ws 5 ((onCore []).rs 5 - 1)).rs 5 ≠ 0 := by decide +kernel
/-- RegisterFrame. -/
theorem test_hyp_register_frame : (onCore [(5, 3)]).alone = true ∧ (registerOnly (.add 3 5 5) (onCore [(5, 3)])).isSome = true ∧
    isNext (exec (.add 3 5 5) (onCore [(5, 3)])) = true ∧ (onCore []).me.run = .running := by decide +kernel

/-- A line of one head at VA `a` of stack 0. -/
def codeLine (a : Nat) (s : State) (hd : Head) (tl : Tail) : State :=
  { s with mem := Memory.write s.mem (stackKey 0 0 a) (vecBytes (oneHeadLine hd tl) 0 64) }
/-- A stream bound for reading from arrival channel `ch`, and one over `n` lines of scratchpad 0. -/
def arrivalStream (ch : Nat) : Binding :=
  { arrival := true, write := false, channel := ch, base := 0, bounds := [1, 1, 1, 1], strides := [0, 0, 0, 0], pos := 0, count := 0, fetched := [] }
def lineStream (write : Bool) (n pos : Nat) : Binding :=
  { arrival := false, write := write, channel := 0, base := 0, bounds := [n, 1, 1, 1], strides := [64, 0, 0, 0], pos := pos, count := pos, fetched := [] }
/-- The same with v24 bound. -/
def bound (b : Binding) (s : State) : State := withMe s (fun t => { t with regs := t.regs.setBinding 24 (some b) })
/-- A pass of a REP of `n` heads. -/
def inRep (n pos pass count : Nat) : State :=
  bound (arrivalStream 0) (withMe (onCore []) (fun t => { t with regs := { t.regs with rep := some (⟨codePc, n, count, 31, pass, pos⟩ : RepState) } }))
/-- The first page of stack 0 is held by a migration and no line of it stands in the hart. -/
def pageHeld (s : State) : State := { s with dram := [(0, { heldPages := [(0, 0)], tlb := [pageAt 0] })] }
/-- What a fetch at the PC of hart `h` finds: a line, a page that is held, or nothing. -/
def fetches (s : State) (h : Hart) : Nat := match (s.fetchLine h (s.thread h).regs.pc).1 with
  | .line _ => 0
  | .wait => 1
  | .fail => 2
/-- Repetition: a body whose page is held, a barred body (the fall of a one-head line is the next line; here every line is one JMP),
a count of 0 and one that is not; the three ways on from a body head; a bound field and one that is not. -/
theorem test_hyp_rep :
    (let s := pageHeld (onCore [])
     (s.bodyPcs s.cur 1 (s.fall s.cur)).1.any (fun pc => (s.fetchLine s.cur pc).1 == .wait) = true) ∧
    (let s := codeLine 64 (codeLine 0 (onCore []) 0x1C00 9) 0x1C00 9
     (s.bodyPcs s.cur 1 (s.fall s.cur)).1.any (fun pc => (s.fetchLine s.cur pc).1 == .wait) = false) ∧
    (let s := codeLine 64 (codeLine 0 (onCore []) 0x1C00 9) 0x1C00 9
     let b := s.bodyPcs s.cur 1 (s.fall s.cur)
     b.1.any (fun pc => ((s.headOf s.cur pc).map (fun x => repBars x.1)).getD false) = true) ∧
    (let s := onCore []
     let b := s.bodyPcs s.cur 1 (s.fall s.cur)
     b.1.any (fun pc => ((s.headOf s.cur pc).map (fun x => repBars x.1)).getD false) = false ∧ s.alone = true) ∧
    (inRep 2 0 0 1).me.regs.rep.isSome = true ∧ (inRep 2 0 0 1).me.gang = none ∧ (inRep 2 0 0 1).me.path = [] ∧ 0 + 1 < 2 ∧
    2 ≤ 1 + 1 ∧ 0 + 1 < 2 ∧ 1 ≤ 0 + 1 ∧ ((inRep 1 0 0 1).me.regs.binding 24).isSome = true ∧
    (inRep 1 0 0 1).me.regs.binding 25 = none := by decide +kernel
/-- An item of hart 0 on its way to 8 bytes at a key. -/
def withItem (k : Nat) (s : State) : State := { s with net := [itemAt k] }
/-- ControlRegisters: the numbers 9 and 16, a reserved bit and a word without one, an own message to the register, a core and a
stoker. -/
theorem test_hyp_control : (withItem (mkOA 0 11 0) (onCore [])).mustWait 0 (mkOA 0 11 0) 8 = true ∧
    (withItem (mkOA 0 11 0) (onCore [])).mustWait 0 (mkOA 0 11 8) 8 = false ∧ 3 < 8 ∧ (0x37800000 : Word).toNat < 2 ^ 32 ∧ (9 : Reg).toNat < 16 ∧ 16 ≤ (16 : Reg).toNat ∧ kindOf 0 = .core ∧ kindOf 12288 ≠ .core ∧
    (onCore [(4, 64)]).rs 4 &&& ctlReserved 6 ≠ 0 ∧ (onCore [(4, 63)]).rs 4 &&& ctlReserved 6 = 0 ∧
    (onCore [(4, 2 ^ 32)]).rs 4 &&& ctlReserved 16 ≠ 0 ∧ (onCore [(4, 2 ^ 32 - 1)]).rs 4 &&& ctlReserved 16 = 0 := by decide +kernel
/-- SystemControl: BRK off, in and out of a gang, on a core and on a hob unit. -/
theorem test_hyp_system : (onCore []).mayRelease = true ∧ (onHob []).mayRelease = true ∧
    (withMe (onCore []) (fun t => { t with regs := t.regs.setCtl 7 3 })).me.regs.ctl.trapen.getLsbD 2 = false ∧
    kindOf (onStoker []).cur ≠ .core ∧ (onCore []).ended.me.pend = [] ∧ (onCore []).me.savemode = none ∧ (ganged 0 []).me.gang ≠ none ∧ (onCore []).me.gang = none ∧
    (ganged 0 []).mayRelease = true ∧ kindOf (onHob []).cur = .hob ∧ kindOf (onCore []).cur ≠ .hob := by decide +kernel
/-- ChunksEnd: another hart holds the token; overlapping signatures, the eighth squash; the lengths that end a chunk. -/
def overlapping : State :=
  withMe (onCore []) (fun t => { t with squashes := 7, chunk := { t.chunk with executed := 512, rlines := [1], seen := [1], ended := true } })
theorem test_hyp_chunks :
    (let s : State := { withMe (runs 4 []) (fun t => { t with gang := some 1 }) with gangs := (ganged 0 []).gangs }
     let s := s.setThread 0 (withMe (onCore []) (fun t => { t with chunk := { t.chunk with executed := 1 } })).me
     s.me.gang = some 1 ∧ ((s.gang 1).map (fun x => x.members.head?)) = some (some 0) ∧ 0 ≠ s.cur ∧ (s.thread 0).run = .running ∧
     (s.thread 0).chunk.executed ≠ 0) ∧ overlapping.me.gang = none ∧
    (let s : State := { onCore [] with clusters := [(0, { token := some 4 })] }
     s.tokenOf (arbOf s.cur) = some 4 ∧ 4 ≠ s.cur) ∧
    overlapping.tokenOf (arbOf overlapping.cur) = none ∧ overlapping.me.chunk.overlaps = true ∧ 8 ≤ overlapping.me.squashes + 1 ∧
    overlapping.me.run = .running ∧ overlapping.me.chunk.ended = true ∧ 512 ≤ overlapping.me.chunk.executed ∧
    (withMe (onCore []) (fun t => { t with chunk := { t.chunk with ended := true } })).mayRelease = true ∧
    (onCore []).arg ≠ 1 ∧ ({ onCore [] with arg := 1 } : State).arg = 1 ∧
    64 ≤ (withMe (onCore []) (fun t => { t with chunk := { t.chunk with wlines := List.range 64 } })).me.chunk.wlines.length := by
  decide +kernel

/-- A task with one safe point, whose continuation hart 0 runs. -/
def aTask (a : Nat) (st : TaskSt) : Task :=
  { acc := a, die := 0, part := 0, taskid := 1, st := st, lb := 0, khdr := 0, entry := 0, safes := [{ savepc := 8, restpc := 9 }]
    argblk := 0, levels := [(1, 1)], prio := 3, pin := none, savebase := 0, savestride := 0, reads := [], writes := [], groups := []
    entries := 1, bound := [], opened := [], boundver := 0, recs := [], retired := false, inst := [], group := none }
def inTask (l : List (Nat × Nat)) : State :=
  { withMe (onCore l) (fun t => { t with cont := { t.cont with rcd := BitVec.ofNat 64 (va 4096), acc := 1 } }) with tasks := [aTask 1 .running] }
/-- A record stands at a key where its page translates and no cached translation ends inside it. -/
theorem recordKey_of {s : State} {p : Nat} {rcd : Word} {k : Nat} (align : vaOf rcd % 64 = 0)
    (page : (s.xlate p 0 (vaOf rcd) true true).1 = .ok k) (plain : ∀ i, i < 64 → plainKey (k + i) = true)
    (cached : s.dram.all (fun x => x.2.tlb.all (fun e => decide (e.va ≤ vaOf rcd ∧ vaOf rcd + 64 ≤ e.va + e.size))) = true) :
    s.recordKey p rcd k := by
  refine ⟨align, page, plain, fun st e mem _ _ => ?_⟩
  have found : ∀ (d : Tab Stack), e ∈ (Tab.get {} d st).tlb → ∃ x ∈ d, e ∈ x.2.tlb := by
    intro d
    induction d with
    | nil => simp [Tab.get]
    | cons x d ih =>
      simp only [Tab.get]
      split
      · exact fun h => ⟨x, .head d, h⟩
      · exact fun h => let ⟨y, hy, he⟩ := ih h; ⟨y, .tail x hy, he⟩
  obtain ⟨x, hx, he⟩ := found s.dram mem
  exact of_decide_eq_true (List.all_eq_true.1 (List.all_eq_true.1 cached x hx) e he)
/-- Suspension and TrapEntry: the record at VA 4096 of the page that is cached. -/
theorem test_hyp_record_key : (inTask []).released.recordKey 0 (BitVec.ofNat 64 (va 4096)) (stackKey 0 0 4096) ∧
    (inTask []).released.me.cont.rcd = BitVec.ofNat 64 (va 4096) ∧ (inTask []).released.me.cont.part = 0 :=
  ⟨recordKey_of (by decide +kernel) (by decide +kernel) (by decide +kernel) (by decide +kernel), by decide +kernel, by decide +kernel⟩
/-- Suspension: an index at NSAFE and below it, a marked hart and one that is not, a counter word and one that is none. -/
theorem test_hyp_suspension : ((inTask []).safesOf (inTask []).me.cont)[1]? = none ∧
    (((inTask []).safesOf (inTask []).me.cont)[0]?).isSome = true ∧ (inTask []).me.savemode = none ∧ (inTask []).mayRelease = true ∧
    (inTask []).ended.me.mark = none ∧ (inTask []).ended.entersSave = false ∧ (inTask []).ended.me.gang = none ∧
    (ganged 4 []).ended.entersSave = false ∧ (inTask []).me.path = [] ∧ (inTask []).released.follows = false ∧ (withMe (inTask []) (fun t => { t with mark := some 9 })).ended.me.mark ≠ none ∧
    (withMe (inTask []) (fun t => { t with mark := some 9 })).ended.me.gang = none ∧
    (withMe (inTask []) (fun t => { t with savemode := some 0 })).me.savemode = some 0 ∧
    (inTask []).follows = false ∧ (inTask []).counterTrap (BitVec.ofNat 64 (mkOA 0 10 1)) = some .misalign ∧
    (inTask []).counterTrap (BitVec.ofNat 64 (mkOA 0 10 0x800)) = some .window ∧
    (inTask []).counterTrap (BitVec.ofNat 64 (mkOA 0 10 0x7F8)) = none ∧ (onCore []).rs 9 = 0 ∧ (inTask []).ended.follows = false ∧
    (0 : Nat) < (1 : Reg).toNat ∧
    ((inTask []).noteVals 0 0).mayRelease = true ∧ ((inTask []).noteVals 0 0).counterTrap (BitVec.ofNat 64 (mkOA 0 10 0x7F8)) = none ∧
    (inTask []).released.runJob 0 (BitVec.ofNat 64 (va 4096)) = none ∧ ((inTask []).released.task 1).map Task.recs = some [] ∧
    ((inTask []).released.task 1).map Task.opened = some [] := by decide +kernel
/-- TrapInstruction, TrapEntry, TrapReturn: action 3, a record outside the partition and one inside. -/
theorem test_hyp_traps : kindOf (onCore []).cur ≠ .hob ∧ (onCore []).mayRelease = true ∧ Trap.code .overdue < 256 ∧
    (onCore []).me.regs.ctl.trapen.getLsbD 2 = true ∧ (onCore [(5, va 67)]).rs 5 = BitVec.ofNat 64 (va 67) ∧ va 67 % 4 = 3 ∧
    va 66 % 4 ≠ 3 ∧ va 66 / 4 % 16 = 0 ∧ va 68 / 4 % 16 ≠ 0 ∧ (onCore [(6, 2 ^ 16)]).rs 6 = 2 ^ 16 ∧
    isVA (BitVec.ofNat 64 (va 64)) = true ∧ (onCore []).stackIn 0 (vaStack (vaOf (BitVec.ofNat 64 (va 64)))) = true ∧
    isVA (66 : Word) = false := by decide +kernel
/-- Hart 4 stopped with the record at VA 64, which is of generation 0; hart 0 names it in s5. -/
def stopped (run : Run) (t : Thread) : State :=
  { onCore [(5, va 65)] with threads := (onCore [(5, va 65)]).threads ++ [(4, { t with run := run, cont := { acc := 1, rcd := word (va 64) } })] }
def genAt (s : State) : Option (BitVec 16) := (readRecord s.released 0 (word (va 64))).1.map (fun x => x.extractLsb' 288 16)
/-- Hart 4 and its fellow, hart 8, of a gang stopped; the record of hart 8 has been released or not. -/
def stoppedGang (run run' : Run) (rel : List Word) : State :=
  { stopped run { gang := some 1 } with
    threads := (stopped run { gang := some 1 }).threads ++ [(8, { run := run', gang := some 1, cont := { acc := 1, rcd := word (va 128) } })]
    gangs := [(1, some { members := [4, 8], recs := [word (va 64), word (va 128)], cl := 0, acc := 1, head := 0, next := 0, todo := [], vals := (0, 0),
                         released := rel })] }
/-- TrapReturn: a parked and a halted hart, a task with a record left, a job, and gangs whose other member has or has not been
released; a stale generation and a record that no hart holds. -/
theorem test_hyp_return : (stopped .parked {}).mayRelease = true ∧ (stopped .parked {}).released.holderOf 0 (word (va 64)) = some 4 ∧
    (stopped .halted {}).released.holderOf 0 (word (va 64)) = some 4 ∧ (stopped .running {}).released.holderOf 0 (word (va 64)) = none ∧
    genAt (stopped .parked {}) = some 0 ∧ (1 : BitVec 16) ≠ 0 ∧ (stopped .parked {}).released.gangOf 4 = none ∧ (stopped .parked {}).released.job 4 = none ∧
    (stopped .parked {}).released.runJob 0 (word (va 64)) = none ∧ ((stopped .parked {}).released.thread 4).run = .parked ∧
    (word (va 65)).toNat % 4 = 1 ∧ (word (va 66)).toNat % 4 = 2 ∧ (word (va 64)).toNat % 4 = 0 ∧ word (va 65) &&& ~~~63#64 = word (va 64) ∧
    (let s : State := { stopped .parked {} with tasks := [{ aTask 1 .running with recs := [(word (va 64), 0), (word (va 128), 0)] }] }
     (s.released.task 1).map Task.recs = some [(word (va 64), 0), (word (va 128), 0)] ∧ word (va 128) ≠ word (va 64)) ∧
    (let j : Job := Job.make 0 0 {} { rcd := word (va 64) }
     ({ stopped .parked {} with jobs := [(4, some j)] } : State).released.job 4 = some j ∧ j.owned = true) ∧
    (let s := (stoppedGang .parked .parked []).released
     (s.gangOf 4).map Prod.fst = some 1 ∧ [4, 8].Nodup ∧ 8 ∈ s.stoppedIn { ((s.gang 1).getD (Gang.mk [] [] 0 0 0 0 [] (0, 0) [] false [] false none 0)) with members := [4, 8] }) ∧
    (let s := (stoppedGang .halted .halted [word (va 128)]).released
     (s.gang 1).map (fun y => (s.stoppedIn y).all (fun m => (s.thread m).run == .halted &&
       ((s.thread m).cont.rcd == word (va 64) || y.released.contains (s.thread m).cont.rcd))) = some true) ∧
    ((stoppedGang .halted .halted [word (va 64)]).released.gangOf 4).map (fun y => y.2.released.contains (word (va 64))) = some true := by
  decide +kernel
/-- TrapReturn: the record at VA 64. -/
theorem test_hyp_return_key : (readRecord (stopped .parked {}).released 0 (word (va 64))).2.recordKey 0 (word (va 64)) (stackKey 0 0 64) :=
  recordKey_of (by decide +kernel) (by decide +kernel) (by decide +kernel) (by decide +kernel)

/-- Scratchpad byte `o` of core 0, and of the first core of cluster 1. -/
def sp0 (o : Nat) : Nat := spadKey 0 o
def sp8 (o : Nat) : Nat := spadKey 8 o
def popOk : Pop → Bool
  | .ok _ _ => true
  | _ => false
def popStalls : Pop → Bool
  | .stall => true
  | _ => false
/-- WeakAccess: a refused load and store, an own message in the way, the own arbiter and another one, and the end of the data memory. -/
theorem test_hyp_weak : (onCore []).accessTrap .weakLoad (word (mkOA 0 0 0x1000004)) 4 = some .misalign ∧
    (onCore []).accessTrap .weakLoad (word (mkOA 0 0 0x7BFFC)) 8 = some .window ∧
    (onCore []).accessTrap .weakStore (word (mkOA 0 10 0)) 8 = some .window ∧
    (onCore [(5, sp0 0x7BFF8)]).ea 5 0 = word (sp0 0x7BFF8) ∧
    (onCore []).accessTrap .weakLoad (word (sp0 0x7BFF8)) 8 = none ∧ (onCore []).accessTrap .weakStore (word (sp0 0x7BFF8)) 8 = none ∧
    (onCore []).accessTrap .weakLoad (word (sp8 0)) 8 = none ∧
    ({ onCore [] with net := [itemAt (sp0 8)] } : State).held 0 (sp0 15) 1 = true ∧
    ({ onCore [] with net := [itemAt (sp0 8)] } : State).held 0 (sp0 16) 8 = false ∧
    arbOfKey (sp0 0) = arbOf 0 ∧ arbOfKey (sp8 0) ≠ arbOf 0 ∧ kindOf 12288 ≠ .hob ∧
    8192 < 8185 + tyBytes 17 ∧ 8184 + tyBytes 17 ≤ 8192 ∧ (onHob []).held 13824 (hobKey 0 8184) 8 = false ∧
    arbOfKey (hobKey 0 8184) = arbOf 13824 := by decide +kernel
/-- VectorAndStrongAccess: a register bound the other way, a pop that stalls and one that does not, the strong targets. -/
theorem test_hyp_vector_strong : (bound (lineStream false 2 0) (onCore [])).me.regs.against [] (some 24) = some 24 ∧
    (bound (lineStream true 2 0) (onCore [])).me.regs.against [24] none = some 24 ∧
    (bound (lineStream true 2 0) (withItem 8 (onCore []))).pushWaits (some 24) = true ∧
    (bound (lineStream true 2 1) (withItem 8 (onCore []))).pushWaits (some 24) = false ∧
    (bound (lineStream true 2 0) (onCore [])).me.regs.against [] (some 24) = none ∧
    (onCore []).me.regs.against [] (some 24) = none ∧ (bound (arrivalStream 0) (onCore [])).me.regs.against [24] none = none ∧
    popStalls (popAll (bound (arrivalStream 0) (onCore [])) [24]) = true ∧
    popOk (popAll (bound (lineStream false 2 0) (onCore [])) [24]) = true ∧
    (onCore []).accessTrap .weakLoad (word (mkOA 0 10 0)) 64 = some .misalign ∧
    (onCore []).accessTrap .weakLoad (word (sp0 0x7BFC0)) 64 = none ∧ (onCore []).accessTrap .weakStore (word (sp8 0)) 64 = none ∧
    (onCore []).held 0 (sp0 0) 64 = false ∧ ({ onCore [] with net := [itemAt (sp0 56)] } : State).held 0 (sp0 0) 64 = true ∧
    (onCore []).accessTrap .strong (word (mkOA 0 9 0)) 8 = some .window ∧ (onCore []).accessTrap .strong (word (sp0 4)) 8 = some .misalign ∧
    (onCore []).accessTrap .strong (word (mkOA 0 10 0x7F8)) 8 = none ∧ (onCore []).mayRelease = true ∧
    (onCore []).released.mustWait 0 (sp0 0) 8 = false ∧ (onCore []).ended.mustWait 0 (sp0 0) 8 = false ∧ ({ onCore [] with net := [itemAt (sp0 0)] } : State).ended.mustWait 0 (sp0 0) 8 = true := by
  decide +kernel

/-- What a translation of a range answers: 0 for success, otherwise the kind of failure. -/
def rangeIs (r : Except Xres (List (Nat × Nat × Nat)) × State) : Nat :=
  match r.1 with
  | .ok _ => 0
  | .error .held => 1
  | .error (.redirect _) => 2
  | .error .bad => 3
  | .error .outside => 4
  | .error .readonly => 5
  | .error (.ok _) => 6
/-- Stoker hart `h` with a redirect at VA 0 of stack 0 to stack `st`, where it leads back. -/
def redirected (h : Hart) (st : Nat) : State :=
  { runs h [] with dram := [(0, { tlb := [{ pageAt 0 with redir := some st }] }), (st, { tlb := [{ pageAt 0 with redir := some 0 }] })] }
/-- StackAccess. -/
theorem test_hyp_stack : (stackOf (.dld 3 5 17 0) (onStoker [(5, va 0)])).isSome = true ∧ (stackOf (.dstVector 3 5 0) (onStoker [])).isSome = true ∧
    isOA (word (2 ^ 40 - 8)) = true ∧ isOA (word (2 ^ 40)) = false ∧ isVA (word (2 ^ 40)) = false ∧
    isVA (word (va 0xFFF8)) = true ∧ (onStoker []).stays (word (va 0xFFF8)) 8 true = true ∧
    rangeIs ((onStoker []).xlateRange 0 0 0xFFF8 8 true) = 0 ∧
    ({ onStoker [] with net := [{ itemAt (stackKey 0 0 0) with hart := 12288 }] } : State).mustWait 12288 (stackKey 0 0 0) 8 = true ∧
    (onStoker []).mustWait 12288 (stackKey 0 0 0) 8 = false ∧
    rangeIs (({ onStoker [] with dram := [(0, { heldPages := [(0, 0)] })] } : State).xlateRange 0 0 0 8 false) = 1 ∧
    rangeIs ((redirected 12304 1).xlateRange 0 0 0 8 false) = 2 ∧ (redirected 12304 1).stays (word (va 0)) 8 false = true ∧
    rangeIs ((onStoker []).xlateRange 0 0 0x10000 8 false) = 3 ∧ rangeIs ((onStoker []).xlateRange 0 0 0xFFFC 8 false) = 3 ∧
    rangeIs (({ onStoker [] with ctrl := { layout := [[0], [1, 2, 3]] } } : State).xlateRange 0 0 (2 * 2 ^ 54) 8 false) = 4 ∧
    rangeIs (({ onStoker [] with tasks := [{ aTask 0 .running with reads := [(0, 1)] }] } : State).xlateRange 0 0 0 8 true) = 5 ∧
    (redirected 12288 0).redirectOf 0 0 8 false = some (hartStack 12288) ∧ (redirected 12288 0).stackIn 0 (hartStack 12288) = true ∧
    (redirected 12288 1).redirectOf 0 0 8 false = some 1 ∧ (redirected 12288 1).stackIn 0 1 = true ∧ (1 : Nat) ≠ hartStack 12288 ∧
    ({ redirected 12288 2 with ctrl := { layout := [[0], [1, 2, 3]] } } : State).redirectOf 0 0 8 false = some 2 ∧
    ({ redirected 12288 2 with ctrl := { layout := [[0], [1, 2, 3]] } } : State).stackIn 0 2 = false := by decide +kernel
/-- MessagesAccepted: the misaligned word, the refused one, and a target in a scratchpad, a counter and stack memory. -/
theorem test_hyp_messages : (amoOf (.amoCas 1 5 3 4 17 3)).isSome = true ∧ (redOf (.redFmax 5 3 1 3)).isSome = true ∧
    isVA (word (va 4)) = true ∧ va 4 % 8 ≠ 0 ∧ isVA (word 4) = false ∧ (onCore []).accessTrap .rmw (word (sp0 4)) 8 = some .misalign ∧
    (onCore []).accessTrap .rmw (word (mkOA 0 0 0x1000000)) 8 = some .window ∧
    ((targetOf (onCore []) .rmw (word (sp0 8)) 8 true).map Prod.fst) = some (sp0 8) ∧
    ((targetOf (onCore []) .rmw (word (mkOA 0 10 0)) 8 true).map Prod.fst) = some (mkOA 0 10 0) ∧
    ((targetOf (onCore []) .rmw (word (va 0xFFF8)) 8 true).map (fun x => (x.1, x.2.mayRelease))) = some (stackKey 0 0 0xFFF8, true) := by
  decide +kernel
/-- An item on its way, which the event has as its place. -/
def carrying (i : Item) : State := { onCore [] with cur := 5, net := [{ id := 5, hart := 0, part := 0, item := i }] }
def meets (s : State) (m : Msg) : Bool := s.msg s.cur == some m && s.firstOf m
def itemOf (i : Item) : Msg := { id := 5, hart := 0, part := 0, item := i }
/-- RmwPerformed: an addition, and a compare that fails. -/
theorem test_hyp_rmw :
    meets (carrying (.rmw (sp0 0) 0 8 1 0 (some 3) false)) (itemOf (.rmw (sp0 0) 0 8 1 0 (some 3) false)) = true ∧
    meets (carrying (.rmw (sp0 0x7BFFC) 12 4 1 9 (some 3) true)) (itemOf (.rmw (sp0 0x7BFFC) 12 4 1 9 (some 3) true)) = true ∧
    (rmwNew 0 8 ((carrying (.rmw (sp0 0) 0 8 1 0 none false)).readAt (sp0 0) 8) 1 0).isSome = true ∧ rmwNew 12 4 0 1 9 = none ∧
    (∀ i, i < 4 → plainKey (sp0 0x7BFFC + i) = true) ∧
    (((carrying (.rmw (sp0 0) 0 8 1 0 (some 3) false)).setThread 0 { running (regsOf []) with wait := .msg 5 3 }).thread 0).wait = .msg 5 3 := by
  decide +kernel
/-- Hart 0 waits for a load from another cluster. -/
def s8Loads : State := withMe (onCore [(5, sp8 0)]) (fun t => { t with wait := .load (.ld 3 5 17 0) })
/-- Channel 0 of core 0 fills 64 bytes of its scratchpad from `o` on and has filled none of them. -/
def filling (o : Nat) (s : State) : State :=
  s.setCore 0 { s.core 0 with chans := [(0, { st := .active, guard := some (sp0 o, 64, 64, 1), fwm := word (sp0 o) })] }
/-- ItemsPerformed: one item of each kind, a load outstanding, and pending window stores of both kinds. -/
theorem test_hyp_items :
    meets (carrying (.rmw (mkOA 0 10 0x1000) 4 8 1 0 none false)) (itemOf (.rmw (mkOA 0 10 0x1000) 4 8 1 0 none false)) = true ∧
    toEntry (mkOA 0 10 0x1000) = true ∧ toEntry (mkOA 0 10 0x7F8) = false ∧
    meets (carrying (.putc (mkOA 0 10 0) none 0 0)) (itemOf (.putc (mkOA 0 10 0) none 0 0)) = true ∧
    meets (carrying (.apndRow [(sp0 0, [1])] (sp0 80) 1)) (itemOf (.apndRow [(sp0 0, [1])] (sp0 80) 1)) = true ∧
    meets (carrying (.rstore (sp8 0) [1])) (itemOf (.rstore (sp8 0) [1])) = true ∧ (onCore []).guarded (sp8 0) 1 = false ∧
    (∀ i, i < 1 → plainKey (sp8 0 + i) = true) ∧ (∀ i, i < 8 → plainKey (sp0 80 + i) = true) ∧
    (∀ x ∈ [(sp0 0, [(1 : Byte)])], (∀ i, i < x.2.length → plainKey (x.1 + i) = true) ∧ rangesMeet x.1 x.2.length (sp0 80) 8 = false) ∧
    (filling 0 (onCore [])).guarded (sp0 63) 1 = true ∧ (filling 0 (onCore [])).guarded (sp0 64) 1 = false ∧
    meets (filling 0 (carrying (.rstore (sp0 0) [1]))) (itemOf (.rstore (sp0 0) [1])) = true ∧ oaSpace (sp0 0) ≠ some .ctl ∧
    (withMe (onCore [(5, sp8 0)]) (fun t => { t with wait := .load (.ldv 3 5 0) })).me.wait = .load (.ldv 3 5 0) ∧ s8Loads.held 0 (sp8 0) 64 = false ∧
    oaSpace (sp8 0) = some .scratch ∧ 2 ^ 40 ≤ stackKey 0 0 0 ∧
    (let s : State := { carrying (.rstore (mkOA 1 11 0) [1]) with cur := 0, arg := 5 }
     s.arg ≠ 0 ∧ (s.msg s.arg).isSome = true ∧ s.firstOf (itemOf (.rstore (mkOA 1 11 0) [1])) = true) ∧
    mkOA 1 11 0 < 2 ^ 40 ∧ oaSpace (mkOA 1 11 0) = some .ctl ∧ s8Loads.me.wait = .load (.ld 3 5 17 0) ∧ s8Loads.held 0 (sp8 0) 8 = false ∧
    (let s := withMe (onCore []) (fun t => { t with pend := [{ key := 0x3030, data := leBytes 8 64 }, { key := 8, data := leBytes 8 1 }] })
     s.me.run = .running ∧ s.me.chunk.executed = 0 ∧ s.me.pend ≠ [] ∧ (windowStore s.me.regs 0x3030 (leBytes 8 64)).2 = true ∧
     (windowStore s.me.regs 8 (leBytes 8 1)).2 = false) ∧ 8 < 0x3000 ∧ 0x3000 ≤ 0x3030 := by decide +kernel

/-- The state with the `n`-byte number `v` at a key. -/
def put (s : State) (k n v : Nat) : State := { s with mem := Memory.write s.mem k (leBytes n v) }
/-- A partition queue from partition 0 to itself: counters 0 to 3 of cluster 0, the first page of stack 0. -/
def queueWordOf : BitVec 256 := BitVec.ofNat 256 (1 + 4 * 2 ^ 33 + va 0 * 2 ^ 64 + 65536 * 2 ^ 128)
def withQueue (l : List (Nat × Nat)) : State := { onCore l with ctrl := { pqueues := [(0, queueWordOf)] } }
/-- CounterMessages: what is refused, in order; a count alone, with data, through a queue; a current and a stale generation. -/
theorem test_hyp_counters : (onCore []).counterTrap (word (mkOA 0 10 4)) = some .misalign ∧
    (onCore []).counterTrap (word (sp0 0)) = some .window ∧ (onCore []).counterTrap (word (mkOA 0 10 8)) = none ∧
    sp0 4 % 8 ≠ 0 ∧ kindOf (withQueue []).cur = .core ∧ sp0 8 % 8 = 0 ∧ (3 : Reg) ≠ 0#5 ∧ (0 : Reg) = 0#5 ∧ (3 : BitVec 3) ≠ 5#3 ∧
    (onCore []).queueFor 0 (word (mkOA 0 10 8)) (word (va 8)) 8 = none ∧
    ((targetOf (onCore []) .plain (word (sp0 8)) 8 false).map (fun x => (x.1, x.2.mayRelease))) = some (sp0 8, true) ∧
    (withQueue []).queueFor 0 (word (mkOA 0 10 24)) (word (va 0xFFF8)) 8 = some queueWordOf ∧
    (withQueue []).queueFor 0 (word (mkOA 0 10 32)) (word (va 0xFFF8)) 8 = none ∧
    (((withQueue []).xlate (pqCons queueWordOf) 0 0xFFF8 true).1, ((withQueue []).xlate (pqCons queueWordOf) 0 0xFFF8 true).2.mayRelease)
      = (Xres.ok (stackKey 0 0 0xFFF8), true) ∧
    meets (carrying (.putc (mkOA 0 10 0) (some (sp0 0, [7])) 1 0)) (itemOf (.putc (mkOA 0 10 0) (some (sp0 0, [7])) 1 0)) = true ∧
    (1 : BitVec 16) ≠ Tab.get 0 ((carrying (.putc 0 none 1 0)).cluster 0).cgen 0 ∧
    (let s : State := { carrying (.putc (mkOA 0 10 0) none 1 0) with clusters := [(0, { cgen := [(0, 1)] })] }
     (1 : BitVec 16) = Tab.get 0 (s.cluster 0).cgen 0) ∧ plainKey (sp0 0) = true := by decide +kernel
/-- An append of `n` bytes from scratchpad 0 under a descriptor at 0x40 with tail, end and state word. -/
def appends (n tail stop w3 : Nat) : State :=
  put (put (put (onCore [(4, sp0 0x40), (5, sp0 0x400), (6, n)]) (sp0 0x40) 8 tail) (sp0 0x48) 8 stop) (sp0 0x58) 8 w3
def appendFits (s : State) : Bool :=
  let w (j : Nat) : Word := BitVec.ofNat 64 (s.released.readAt (sp0 0x40 + 8 * j) 8)
  let row := s.released.ownBytes s.cur (sp0 0x400) (s.rs 6).toNat
  w 3 == 0 && decide ((w 0).toNat + row.length ≤ (w 1).toNat)
def rowIs (r : RowTo × State) : Nat := match r.1 with
  | .parts _ => 0
  | .wait => 1
  | .refused => 2
/-- AppendLaw: a row that a copy still fills, a descriptor that an own message targets, bad lengths, misaligned words, a foreign row, an append that fits exactly, one that does not, one to nowhere. -/
theorem test_hyp_append : (63 < 64 ∧ 512 < 576 ∧ 96 % 64 ≠ 0) ∧ ¬(64 < 64 ∨ 512 < 64 ∨ 64 % 64 ≠ 0) ∧ ¬(512 < 512 ∨ 512 % 64 ≠ 0) ∧
    (let s := appends 64 (sp0 0x800) (sp0 0x840) 0
     (filling 0x400 s).released.held 0 (sp0 0x400) 64 = true ∧ (filling 0x440 s).released.held 0 (sp0 0x400) 64 = false ∧
     s.released.mustWait 0 (sp0 0x40) 16 = false ∧ s.released.mustWait 0 (sp0 0x58) 8 = false ∧
     (withItem (sp0 0x58) s).mustWait 0 (sp0 0x58) 8 = true) ∧ sp0 16 % 32 ≠ 0 ∧ sp0 32 % 32 = 0 ∧ sp0 32 % 64 ≠ 0 ∧ sp0 0x40 % 64 = 0 ∧
    (onCore []).inSpad 0 (word (sp0 0x7BFC0)) 128 = false ∧ (onCore []).inSpad 0 (word (sp0 0x7BFC0)) 64 = true ∧
    ((targetOf (appends 64 0 0 0) .plain (word (sp0 0x40)) 32 true).map (fun x => (x.1, x.2.mayRelease))) = some (sp0 0x40, true) ∧
    appendFits (appends 64 (sp0 0x800) (sp0 0x840) 0) = true ∧ appendFits (appends 64 (sp0 0x800) (sp0 0x83F) 0) = false ∧
    appendFits (appends 64 (sp0 0x800) (sp0 0x840) 1) = false ∧
    rowIs (rowParts (appends 64 0 0 0).released (word (sp0 0x800)) (List.replicate 64 0)) = 0 ∧
    rowIs (rowParts (pageHeld (appends 64 0 0 0)).released (word (va 0)) (List.replicate 64 0)) = 1 ∧
    rowIs (rowParts (appends 64 0 0 0).released (word (2 ^ 40)) (List.replicate 64 0)) = 2 := by decide +kernel
/-- A queue descriptor at VA 0x40: BASE 0, log size and zeros, counter word, HEAD, ELSE zero. -/
def queueAt (ql c hd cnt : Nat) : State :=
  let s := put (put (put (onCore [(5, va 0x40)]) (stackKey 0 0 0x48) 8 ql) (stackKey 0 0 0x50) 8 c) (stackKey 0 0 0x58) 8 hd
  s.setCluster 0 { s.cluster 0 with counters := [(1, BitVec.ofNat 64 cnt)] }
/-- FencesAndQueues: the ranges of AFENCE and WARM; a descriptor that is refused, with a counter that is none, and a queue with an
entry and without. -/
theorem test_hyp_queues : isVA (word (va (2 ^ 54 - 8))) = true ∧ (2 ^ 54 - 8) % 2 ^ 54 + 8 ≤ 2 ^ 54 ∧ 2 ^ 54 < (2 ^ 54 - 8) % 2 ^ 54 + 9 ∧
    (onCore []).stackIn 0 (vaStack (vaOf (word (va (2 ^ 54 - 8))))) = true ∧ (onCore []).mayRelease = true ∧ isVA (0 : Word) = false ∧
    ({ onCore [] with ctrl := { layout := [[1, 2, 3], [0]] } } : State).stackIn 0 0 = false ∧
    (queueAt 0 0 0 0).mustWait 0 (stackKey 0 0 0x40) 64 = false ∧
    (withItem (stackKey 0 0 0x78) (queueAt 0 0 0 0)).mustWait 0 (stackKey 0 0 0x40) 64 = true ∧ va 0x20 % 64 ≠ 0 ∧ va 0x40 % 64 = 0 ∧
    ((targetOf (queueAt 0 0 0 0).released .plain (word (va 0x40)) 64 true).map (fun x => (x.1, x.2.mayRelease))) = some (stackKey 0 0 0x40, true) ∧
    (queueWord (queueAt (21 * 16) 0 0 0) (stackKey 0 0 0x40) 1).toNat / 16 % 32 = 21 ∧
    (queueWord (queueAt 1 0 0 0) (stackKey 0 0 0x40) 1).toNat % 16 ≠ 0 ∧
    (queueWord (queueAt (20 * 16) 0 0 0) (stackKey 0 0 0x40) 1).toNat / 16 % 32 = 20 ∧
    (∀ j, j < 4 → queueWord (queueAt (20 * 16) (mkOA 0 10 8) 6 7) (stackKey 0 0 0x40) (4 + j) = 0) ∧
    (queueWord (queueAt 0 (mkOA 0 10 8) 6 7) (stackKey 0 0 0x40) 2) = word (mkOA 0 10 8) ∧ oaSpace (mkOA 0 10 8) = some .counter ∧
    oaSpace (sp0 8) ≠ some .counter ∧
    (queueWord (queueAt 0 (mkOA 0 10 8) 6 7) (stackKey 0 0 0x40) 3).toNat = 6 ∧
    ((queueAt 0 (mkOA 0 10 8) 6 7).released.cluster 0).counter 1 = 7 ∧ ((queueAt 0 0 6 6).released.cluster 0).counter 1 = 6 := by
  decide +kernel
/-- A chunk with one store. -/
def storing : State := (onCore []).weakStore 0 (sp0 0x7BFF8) (leBytes 8 1)
/-- MemoryReadAfterWrite, CommitMakesStoresVisible. -/
theorem test_hyp_memory : (∀ i, i < 8 → plainKey (accKey 0 0x7FFF8 + i) = true) ∧ plainKey (accKey 0 0x80000) = false ∧
    plainKey (stackKey 0 0 0) = true ∧ (∀ w ∈ storing.me.chunk.stores, arbOfKey w.key = arbOf storing.cur ∧ plainKey w.key = true ∧
      ∀ i, i < w.data.length → plainKey (w.key + i) = true) ∧ storing.me.chunk.stores ≠ [] := by decide +kernel
/-- WeakFrame and StrongFrame: a load, a store, a store to s0 in a window; both strong forms. -/
theorem test_hyp_frames : (onCore [(5, sp0 8)]).alone = true ∧ (onCore []).me.run = .running ∧ kindOf 0 ≠ .hob ∧
    isNext (exec (.ld 3 5 17 0) (onCore [(5, sp0 8)])) = true ∧ isNext (exec (.st 3 5 17 0) (onCore [(5, sp0 8)])) = true ∧
    (onCore []).accessTrap .weakStore (word (mkOA 0 0 0x1000000)) 8 = none ∧ oaSpace (mkOA 0 0 0x1000000) = some .window ∧
    oaOff (mkOA 0 0 0x1000007) % 0x10000 < 8 ∧ ¬(oaOff (mkOA 0 0 0x1000008) % 0x10000 < 8) ∧ (onCore []).ended.alone = true ∧ (onCore []).released.alone = true ∧ (onCore []).mayRelease = true ∧
    (onCore []).accessTrap .strong (word (sp0 8)) 8 = none ∧ (∀ i, i < 8 → plainKey (sp0 8 + i) = true) ∧
    (onCore []).released.mustWait 0 (sp0 8) 8 = false ∧
    (onCore []).ended.mustWait 0 (sp0 8) 8 = false := by decide +kernel

/-- DecodeEncode: well-formed terms of every family at the ends of their ranges, with their words; a refused major. -/
theorem test_hyp_decode : ([Instr.shri 31 31 63, .bext 31 31 63 0, .exit 29 3, .exit 0 0, .cwr 18 31, .ld 31 31 17 0x8000, .amoCas 31 31 31 31 17 6,
    .putc 31 31 31 31 10 6, .vshlImm 31 31 63 17 0x7003, .vcvt 31 31 3 17 3 4 0x7FC3, .mma 7 31 31 31 true true 255 2047 127 127,
    .xpush 28, .rowadd 31 31 14 127, .kncapt 30 31, .bar 31 1, .gdrop 31 31 1].all (fun i => i.wellFormed && (encode i).isSome)) = true ∧
    Head.major 0 = 0#6 ∧ 0x30 ≤ (Head.major 0xC000).toNat := by decide +kernel
/-- What a fetch finds at the PC of hart `h`. -/
def fetched (s : State) (h : Hart) : Option (Head × Tail) :=
  match (s.fetchLine h (s.thread h).regs.pc).1 with
  | .line l => match lineSlot l (pcSlot (s.thread h).regs.pc) with
    | .ok x => some x
    | _ => none
  | _ => none
def decodesTo (x : Option (Head × Tail)) : Option Instr := match x with
  | some (hd, tl) => (match decode hd tl with
    | .ok i => some i
    | _ => none)
  | none => none
def lineBad (s : State) (h : Hart) : Bool :=
  match (s.fetchLine h (s.thread h).regs.pc).1 with
  | .line l => (match lineSlot l (pcSlot (s.thread h).regs.pc) with
    | .error _ => true
    | _ => false)
  | _ => false
/-- StepRunsDecoded: ADDI s3, s3, -1 stands at the PC of a core's hart, and of a hob unit's whose command has run less than 2^28
heads. -/
theorem test_hyp_step :
    (let s : State := { codeLine 0 (onCore []) 0x0863 0xFFFF with agenda := [.issue 0] }
     s.agenda = .issue 0 :: [] ∧ s.ctrl.halted = false ∧ (s.thread 0).run = .running ∧ s.job 0 = none ∧ (s.thread 0).mark = none ∧
     (s.thread 0).wait = .none ∧ (s.thread 0).mnf = none ∧ (s.thread 0).gang = none ∧ (s.thread 0).path = [] ∧ (s.thread 0).pend = [] ∧
     (s.thread 0).chunk.ended = false ∧ (s.thread 0).chunk.executed < 512 ∧ (s.thread 0).chunk.wlines.length < 64 ∧
     fetched s 0 = some (0x0863, 0xFFFF) ∧ decodesTo (fetched s 0) = some (.addi 3 3 0xFFFF) ∧
     hartTakes .core 2 3 3 = true ∧ stokerOnly (.addi 3 3 0xFFFF) = false ∧
     stagger (s.thread 0).regs (.addi 3 3 0xFFFF) = .addi 3 3 0xFFFF ∧ (Instr.addi 3 3 0xFFFF).wellFormed = true) ∧
    (let l := bytesVec (vecBytes (oneHeadLine 0x0863 0xFFFF) 0 64)
     let s := withMe (onHob []) (fun t => { t with regs := { t.regs with pc := 2 } })
     let s := s.setStack 0 { s.stack 0 with hobs := [(0, { overlay := (List.range 64).map (fun i => (i, (vecBytes l 0 64).getD i 0)) })] }
     fetched s 13824 = some (0x0863, 0xFFFF) ∧ (s.hob 0).executed < 2 ^ 28) := by decide +kernel
/-- StepOtherTurns: a page that is held, on a core and a stoker no page, an offset past the overlay; a head that does not decode, one
that a core does not take (DLD), one that only a stoker's hart runs, and a line without a head; an event, and a unit read early. -/
theorem test_hyp_turns : fetches (pageHeld (onCore [])) 0 = 1 ∧
    fetches (withMe (onCore []) (fun t => { t with regs := { t.regs with pc := word (va 0x10002) } })) 0 = 2 ∧
    fetches (withMe (onStoker []) (fun t => { t with regs := { t.regs with pc := 2 } })) 12288 = 2 ∧
    fetches (withMe (onHob []) (fun t => { t with regs := { t.regs with pc := 4098 } })) 13824 = 2 ∧ fetches (onCore []) 0 = 0 ∧
    fetched (codeLine 0 (onCore []) 0xC000 0) 0 = some (0xC000, 0) ∧ decodesTo (some (0xC000, 0)) = none ∧
    hartTakes .core 0x28 3 3 = false ∧ lineBad (onCore []) 0 = true ∧ Instr.isEvent .pickup = true ∧ kindOf 0 ≠ .hob ∧
    ((onCore []).thread 0).run = .running ∧ isVA (onCore []).me.regs.pc = true ∧
    (match ((onCore []).xlate 0 0 (vaOf (onCore []).me.regs.pc / 64 * 64) false).1 with
     | .ok _ => true
     | _ => false) = true ∧ stokerOnly (.htload 0 0 0) = true ∧ kindOf 0 ≠ .stoker := by decide +kernel

/-- Core 0 with entries at the head of arrival channel 0. -/
def arrived (l : List ArrEntry) (s : State) : State := s.setCore 0 { s.core 0 with arr := [(0, l)] }
/-- VectorInstructions: lane-wise and other forms, a register bound against its use, an empty stream, a marked query at its
head, one with data, and unbound sources. -/
theorem test_hyp_vector :
    (laneFun (.vfma 1 2 3 4 1 0x1C7F) (delivered (onCore []) []) (onCore [])).isSome = true ∧
    (laneFun (.vdq 1 2 1 5 0) (delivered (onCore []) []) (onCore [])).isSome = true ∧
    (vectorOf (.vredMax 3 2 16 0) (delivered (onCore []) []) (onCore [])).isSome = true ∧
    (vectorOf (.vqnt 1 2 3 8 4) (delivered (onCore []) []) (onCore [])).isSome = true ∧
    (bound (lineStream true 1 0) (onCore [])).me.regs.against [24, 3] (some 1) = some 24 ∧
    (onCore []).me.regs.against [24, 3] (some 25) = none ∧ (onCore []).pushWaits (some 25) = false ∧
    (bound (lineStream true 2 0) (filling 0 (withItem 8 (onCore [])))).pushWaits (some 24) = true ∧
    popStalls (popAll (bound (arrivalStream 0) (onCore [])) [24, 3]) = true ∧
    (match popAll (bound (arrivalStream 0) (arrived [{ kind := .query 1 (some 3), data := 0 }] (onCore []))) [24, 3] with
     | .range ch q k => ch == 0 && q == 1 && k == 3
     | _ => false) = true ∧
    popOk (popAll (bound (arrivalStream 0) (arrived [{ kind := .query 1 none, data := 0 }] (onCore []))) [24, 3]) = true ∧
    (onCore []).unbound [24, 3] = true ∧ (bound (arrivalStream 0) (onCore [])).me.regs.binding 24 ≠ none ∧
    (onCore []).me.regs.binding 31 = none := by decide +kernel
/-- VectorFrame. -/
theorem test_hyp_vector_frame : (laneFun (.vmax 3 4 5 10 0x1000) (onCore []).me.regs.getV (onCore [])).isSome = true ∧
    (onCore []).alone = true ∧ (onCore []).unbound [3, 4, 5] = true ∧ isNext (exec (.vmax 3 4 5 10 0x1000) (onCore [])) = true ∧
    maskOn (withMe (onCore []) (fun t => { t with regs := t.regs.setM 1 5 })) 0x1000 1 = false ∧
    maskOn (withMe (onCore []) (fun t => { t with regs := t.regs.setM 1 5 })) 0x1000 2 = true := by decide +kernel

/-- A descriptor at scratchpad 0x40: base, KIND, W and CHANNEL, a bound of `n1` + 1 lines `stride` apart. -/
def descriptor (base kind n1 stride : Nat) : State :=
  put (onCore [(5, sp0 0x40)]) (sp0 0x40) 64 (base + kind * 2 ^ 64 + n1 * 2 ^ 128 + stride * 2 ^ 256)
def descAt (s : State) : Vec := bytesVec (s.ownBytes s.cur (sp0 0x40) 64)
def misaligned' (d : Vec) : Bool :=
  (d.extractLsb' 0 64 : Word).toNat % 64 != 0 || ((descBounds d).zip (descStrides d)).any (fun x => decide (1 < x.1) && x.2 % 64 != 0)
/-- Streams: what SBIND refuses and takes, at the end of the scratchpad; SSKIP, pushes at and before the end, read-ahead. -/
theorem test_hyp_streams : isAddr (word (sp0 0x20)) = true ∧ sp0 0x20 % 64 ≠ 0 ∧ sp0 0x40 % 64 = 0 ∧
    (onCore []).inSpad 0 (word (mkOA 0 8 0)) 64 = false ∧ (onCore []).inSpad 0 (word (sp0 0x40)) 64 = true ∧
    (onCore []).held 0 (sp0 0x40) 64 = false ∧ descIllegal (descAt (descriptor 0 3 0 0)) = true ∧
    (let s := bound (arrivalStream 2) (descriptor 0 9 0 0)
     descIllegal (descAt s) = false ∧ descKind (descAt s) = true ∧ s.channelBound 0 (descChannel (descAt s)) = true) ∧
    descIllegal (descAt (descriptor 32 0 0 0)) = false ∧ descKind (descAt (descriptor 32 0 0 0)) = false ∧
    misaligned' (descAt (descriptor 32 0 0 0)) = true ∧ misaligned' (descAt (descriptor 0 0 1 32)) = true ∧
    misaligned' (descAt (descriptor (sp0 0x7BF80) 0 1 64)) = false ∧
    patternIn 0 (word (sp0 0x7BF80)) (descAt (descriptor (sp0 0x7BF80) 0 1 64)) = true ∧
    patternIn 0 (word (sp0 0x7BF80)) (descAt (descriptor (sp0 0x7BF80) 0 2 64)) = false ∧
    descKind (descAt (descriptor 0 13 0 0)) = true ∧ (descriptor 0 13 0 0).channelBound 0 3 = false ∧
    (onCore []).me.regs.binding 24 = none ∧ (lineStream false 2 0).arrival = false ∧ (onCore [(5, 1)]).rs 5 ≠ 0 ∧
    (bound (lineStream true 2 1) (onCore [])).me.regs.binding 24 = some (lineStream true 2 1) ∧ (lineStream true 2 2).total ≤ 2 ∧
    1 < (lineStream true 2 1).total ∧ oaSpace ((lineStream true 2 1).elem 1) = some .scratch ∧
    (lineStream false 9 0).fetched.length < 8 ∧ 0 + 0 < (lineStream false 9 0).total ∧
    (onCore []).held 0 ((lineStream false 9 0).elem 0) 64 = false ∧ (0 : Nat) < 8 ∧
    (withMe (bound (lineStream false 9 0) (onCore [])) (fun t => { t with wait := .stall (.vmov 1 24 1 0) })).me.wait = .stall (.vmov 1 24 1 0) ∧
    popOk (popAll (bound (lineStream false 9 0) (onCore [])) (vecSources (.vmov 1 24 1 0))) = true := by decide +kernel

/-- A matrix command of core `k` of cluster 0 in a state of its life. -/
def command (i : Instr) (id k : Nat) (st : MState) (ok : Bool) : MEntry :=
  { sampled (onCore []) i 0 0 0 with id := id, core := k, st := st, ok := ok }
/-- The unit of cluster 0 with queued and granted commands. -/
def matrixUnit (q g : List MEntry) (s : State) : State := s.setCluster 0 { s.cluster 0 with queue := q, granted := g }
def zeroCmd (id k : Nat) (st : MState) : MEntry := command (.mzero 7 false 0) id k st true
/-- MatrixCommands: a refused command, one of the last kind that finds room and one that does not; MWAIT, MFAB and MCHK. -/
theorem test_hyp_matrix : (matrixOf (.mzero 7 false 0) 0).isSome = true ∧
    (mmaTrap 0 (sampled (onCore []) (.mma 0 5 6 7 true false 0 7 0 0) 5 6 7)).isSome = true ∧
    (mmaTrap 0 (sampled (onCore [(7, 128 + 128 * 2 ^ 32)]) (.mma 0 5 6 7 true false 0 7 0 0) 5 6 7)) = none ∧
    (moveTrap 0 (sampled (onCore [(7, 64)]) (.mstt 0 5 7 4 true false 0 63 0) 5 0 7) 4) = none ∧
    (moveTrap 0 (sampled (onCore [(7, 64)]) (.mstt 0 5 7 4 true false 0 64 0) 5 0 7) 4).isSome = true ∧
    4 ≤ ((matrixUnit [zeroCmd 1 0 .accepted, zeroCmd 2 0 .accepted, zeroCmd 3 0 .accepted] [zeroCmd 4 0 (.running 9 false)] (onCore [])).cluster 0).occupied 0 ∧
    ¬4 ≤ ((matrixUnit [zeroCmd 1 0 .accepted, zeroCmd 2 0 .accepted, zeroCmd 3 1 .accepted] [zeroCmd 4 0 (.running 9 false)] (onCore [])).cluster 0).occupied 0 ∧
    (withMe (onCore []) (fun t => { t with wait := .stall (.mzero 7 false 0) })).stalledHead 0 = some (.mzero 7 false 0) ∧
    (onCore []).mayRelease = true ∧ ((onCore []).tagged ([zeroCmd 1 0 .accepted])).length = 1 ∧
    (onCore [(5, 2 ^ 32)]).rs 5 = 0x100000000 ∧ fmtCode (onCore []).me.regs.ctl.fmtc = 1 ∧
    ((onCore []).tagged [zeroCmd 1 0 .accepted]).any (fun x => x.names 7) = true ∧
    ((onCore []).tagged [zeroCmd 1 0 .accepted]).any (fun x => x.names 6) = false := by decide +kernel
/-- An MMA command whose first operand a copy still fills. -/
def readsFilled (st : MState) : MEntry := { command (.mma 0 5 6 7 true false 0 7 0 0) 1 2 st false with sa := word (sp0 0) }
/-- MatrixArbitration: core 2 waits without credit and is granted after the refill; a command whose reads do not stall, and one whose
reads do. -/
theorem test_hyp_arbiter :
    (let s := matrixUnit [zeroCmd 1 2 .accepted] [] (onCore [])
     let c := s.cluster s.cur
     c.isRunning = false ∧ c.freeAt ≤ s.now ∧ c.isParked s.now = false ∧ (s.now % 16 = 0 ∧ tokenAt s.now = s.cur % 96) ∧ (arbitrate c).map Prod.fst = some 2 ∧
     (arbitrate { c with credit := Vector.replicate 8 0 }).map Prod.fst = some 2 ∧
     c.queue.find? (fun x => x.core == 2) = some (zeroCmd 1 2 .accepted) ∧ readGuarded s (zeroCmd 1 2 .accepted) = false) ∧
    readGuarded (filling 0 (onCore [])) (readsFilled .accepted) = true := by
  decide +kernel
def ended? (n : Nat) (e : MEntry) : Bool := match e.st with
  | .running k _ => decide (k ≤ n)
  | _ => false
def written? (n : Nat) (e : MEntry) : Bool := match e.st with
  | .writeback k => decide (k ≤ n)
  | _ => false
/-- MatrixCompletion: a last busy cycle with and without a mismatch, first and second; a write-back that is due; a unit idle for
4,096 cycles, the token at a parked unit with work, the last packet of an FACC and one before it. -/
theorem test_hyp_completion :
    (let s := matrixUnit [] [command (.mma 0 5 6 7 true false 0 7 0 0) 1 0 (.running 0 false) false] (onCore [])
     ((s.cluster 0).granted.find? (ended? s.now)).map MEntry.ok = some false ∧
     readGuarded s (command (.mma 0 5 6 7 true false 0 7 0 0) 1 0 (.running 0 false) false) = false ∧
     readGuarded (filling 0 (onCore [])) (readsFilled (.running 0 false)) = true) ∧
    (let s := matrixUnit [] [readsFilled .reading] (filling 0 (onCore []))
     (s.cluster 0).granted.find? (fun x => x.st == .reading) = some (readsFilled .reading) ∧ readGuarded s (readsFilled .reading) = true ∧
     readGuarded (onCore []) (readsFilled .reading) = false) ∧
    (((matrixUnit [] [zeroCmd 1 0 (.running 0 true)] (onCore [])).cluster 0).granted.find? (ended? 0)).isSome = true ∧
    (let s := matrixUnit [] [zeroCmd 1 0 (.writeback 0)] (onCore [])
     ((s.cluster 0).granted.find? (written? s.now)).isSome = true ∧ (s.cluster 0).held = [] ∧ writeGuarded s (zeroCmd 1 0 (.writeback 0)) = false) ∧
    (let s : State := { matrixUnit [zeroCmd 1 0 .accepted] [] (onCore []) with now := 4096 * 96 * 16 }
     (s.cluster 0).up = true ∧ (s.cluster 0).granted = [] ∧ (s.cluster 0).idleSince + 4096 ≤ s.now ∧ s.now % 16 = 0 ∧
     (s.cluster (tokenAt s.now)).isParked s.now = true ∧ (s.cluster (tokenAt s.now)).queue ≠ []) ∧
    (let s := carrying (.reduce 7 (accKey 0 0) 0 none [0, 0])
     meets s (itemOf (.reduce 7 (accKey 0 0) 0 none [0, 0])) = true ∧
     (reduceStep s 0 7 (accKey 0 0) 0 none [0, 0]).2.2 ≠ [] ∧ (reduceStep s 0 7 (accKey 0 0) 0 none [0]).2.2 = []) := by decide +kernel
/-- AddendPackets: tile 3 is armed for one addend; the last column that fits and the next one. -/
theorem test_hyp_addend :
    (let s := (onCore []).setCluster 0 (((onCore []).cluster 0).setTile 3 { armed := true, remain := 1 })
     let m := (s.cluster 0).tile 3
     let b : Addend := { tile := 3, round := 0, row := 0, col := 0, data := 0, ident := false, ci := none }
     let ahead (x : Addend) : Nat := ([x].filter (fun b => b.ok && b.tile == 3 && b.arming == m.arming)).length
     ahead b < m.remain.toNat ∧ ¬(ahead { b with ok := true, arming := m.arming } < m.remain.toNat) ∧
     (s.cluster 0).tileBusy 3 m.f64 = false ∧
     ((matrixUnit [] [command (.mzero 3 false 0) 1 0 (.writeback 9) true] (onCore [])).cluster 0).tileBusy 3 false = true ∧
     ({ armed := true, f64 := true } : TileMeta).f64 = true ∧ 56 % 8 = 0 ∧ 56 + 8 ≤ 64 ∧
     m.armed = true ∧ m.round = 0 ∧ m.remain ≠ 0 ∧ m.f64 = false ∧ 127 < 128 ∧ 112 % 16 = 0 ∧ 112 + 16 ≤ 128 ∧ ¬(128 + 16 ≤ 128) ∧
     m.remain = 1) := by decide +kernel

/-- The array of cluster 0 owned by a hart, with what else it holds. -/
def array (k : Kindling) (s : State) : State := s.setCluster 0 { s.cluster 0 with kn := k }
/-- KindlingArray: the owner, nobody and another; each refused word; a window and a load in progress and due; unbound operands. -/
theorem test_hyp_kindling : (onCore []).follows = false ∧ ((onCore []).kindling 0).owner = none ∧
    ((array { owner := some 0 } (onCore [])).kindling 0).owner = some (onCore []).knHart ∧
    ((array { owner := some 4 } (onCore [])).kindling 0).owner ≠ some (onCore []).knHart ∧
    256 ≤ 256 ∧ 255 < 256 ∧ (2 ^ 15 ≤ 2 ^ 15) ∧ (word 0x80).getLsbD 7 = true ∧ 128 < 127 + (256 / 2 ^ 8 % 128 + 1) ∧
    ¬(128 < 127 + (127 / 2 ^ 8 % 128 + 1)) ∧ sp0 32 % 64 ≠ 0 ∧ inClusterSpad 0 (word (sp0 0x7BFC0)) 64 = true ∧
    inClusterSpad 0 (word (sp0 0x7BFC0)) 128 = false ∧ (onCore []).mayRelease = true ∧
    (onCore []).me.regs.against [24, 25] none = none ∧ popOk (popAll (onCore []).ended [24, 25]) = true ∧
    (array { win := some { due := 0, y := 0, f := 0 } } (onCore [])).kindling 0 ≠ {} ∧
    ((array { win := some { due := 0, y := 0, f := 0 } } (onCore [])).kindling 0).busy = true ∧ ((onCore []).kindling 0).busy = false ∧
    (onCore []).me.regs.against [] (some 24) = none ∧ (∀ e ∈ (onCore []).me.replay, e.1 ≠ knLogKey true) ∧
    (withMe (onCore []) (fun t => { t with replay := [(knLogKey true, 1), (knLogKey true, 2)] })).me.replay
      = (knLogKey true, 1) :: (knLogKey true, 2) :: [] ∧ (onCore []).pushWaits (some 24) = false ∧ (onCore []).ended.follows = false ∧
    ((onCore []).kindling 0).loads = [] ∧ (2 + 0 + 1 ≤ 1 + 2) ∧ 0 + 1 < 2 ∧
    (let l : List KnLoad := [{ src := 0, first := 0, cnt := 0, due := 0, modes := some 1 }]
     l.head?.map KnLoad.modes = some (some 1) ∧ (∀ y, ([] : List KnLoad).head? = some y → y.modes = none)) ∧
    (onCore []).ended.me.gang = none ∧
    (let k : Kindling := { loads := [{ src := sp0 0, first := 127, cnt := 1, due := 0 }] }
     ((array k (onCore [])).kindling 0).loads ≠ [] ∧ ((array k (onCore [])).kindling 0).win = none ∧ 0 ≤ (onCore []).now ∧
     (array k (onCore [])).guarded (sp0 0) 64 = false) := by decide +kernel

/-- Core 0 issues a COPY on channel 0 from one line of its scratchpad to another, with its words in s4 to s7. -/
def copyWords (w0 : Nat) : List (Nat × Nat) := [(4, w0), (5, sp0 0), (6, sp0 0x100), (7, sp0 0x200)]
def withChan (c : Chan) (fifo : List Nat) (s : State) : State := s.setCore 0 { s.core 0 with chans := [(0, c)], fifo := fifo }
/-- A RUN job of channel 0 of core 0, whose program runs on stoker hart 12288. -/
def runningJob : Job := Job.make 0 0 { w0 := 6 } { rcd := word (va 64) }
def runCancelled : State :=
  { withChan { st := .active } [] (onCore []) with
    threads := (onCore []).threads ++ [(12288, { run := .running, cont := { rcd := word (va 64) } })], jobs := [(16384, some runningJob)] }
/-- CopyRequests: a reserved KIND, a misaligned mailbox and a word that is no address; a busy channel, a full FIFO and room; every
state a channel instruction meets. -/
theorem test_hyp_requests : (requestTrap (onCore []) 7 0 0 0).isSome = true ∧ (requestTrap (onCore []) 0x1000 0 0 0) = none ∧
    (requestTrap (onCore []) 0x201000 0 0 0).isSome = true ∧ (requestTrap (onCore []) 0 (word (2 ^ 40)) 0 0).isSome = true ∧
    (requestTrap (onCore (copyWords 0)) ((onCore (copyWords 0)).rs 4) ((onCore (copyWords 0)).rs 5) ((onCore (copyWords 0)).rs 6)
      ((onCore (copyWords 0)).rs 7)) = none ∧
    ((withChan { st := .queued } [] (onCore [])).chan 0 0).st ≠ .idle ∧ ((onCore []).chan 0 0).st = .idle ∧
    8 ≤ ((withChan {} [1, 2, 3, 4, 5, 6, 7, 8] (onCore [])).core 0).fifo.length ∧
    ((withChan {} [1, 2, 3, 4, 5, 6, 7] (onCore [])).core 0).fifo.length < 8 ∧ (onCore []).mayRelease = true ∧
    (withMe (onCore []) (fun t => { t with wait := .stall (.xpush 4) })).stalledHead 0 = some (.xpush 4) ∧
    busyChan ((withChan { st := .active, rwm := 5 } [] (onCore [(5, 5)])).ended.chan 0 0) = true ∧
    busyChan ((withChan { st := .faulted } [] (onCore [])).ended.chan 0 0) = false ∧
    (((withChan { st := .active, rwm := 5 } [] (onCore [(5, 5)])).ended.chan 0 0).rwm.toNat ≤ 5 ∧ 4 < (5 : Word).toNat) ∧
    runCancelled.released.chanJob 0 0 = some (16384, runningJob) ∧ runCancelled.released.hartOf 0 (word (va 64)) = some 12288 := by decide +kernel
/-- Stoker hart 12288 runs a job of channel 0 of core 0. -/
def jobOf (kind : Nat) : Job := Job.make 0 0 { w0 := BitVec.ofNat 64 kind } { rcd := word (va 64) }
def onJob (j : Job) : State := { withChan { st := .active } [] (onStoker []) with jobs := [(12288, some j)] }
/-- It is idle; a request stands in the FIFO of core 0 and the pool lies in the first page. -/
def offered (kind : Nat) (tdst : Bool) : State :=
  { withChan { st := .queued, w0 := BitVec.ofNat 64 (kind + if tdst then 2048 else 0) } [0] { onStoker [] with threads := [] } with
    parts := [(0, { pooled := true, pbase := word (va 0) })] }
def tookJob (kind : Nat) (tdst : Bool) : Bool := ((takeJob (offered kind tdst) 12288 kind tdst).job 12288).isSome
/-- One line in place. -/
def oneLine : Layout := { size := [16, 1, 1, 1, 1, 1], stride := [4, 0, 0, 0, 0, 0], origin := [0, 0, 0, 0, 0, 0], extm1 := [15, 0, 0, 0, 0, 0]
                          esize := 4, fill := 7, aux := 0 }
def copyJob : Job := { jobOf 0 with w1 := word (sp0 0), w2 := word (sp0 0x100), w3 := word (sp0 0x200), layout := some oneLine }
def readOk (r : Except (Option JobSt) Job × State) : Bool := match r.1 with
  | .ok _ => true
  | .error _ => false
def moveOk (r : Except (Option JobSt) Unit × State) : Bool := match r.1 with
  | .ok _ => true
  | .error _ => false
/-- A page table of partition 0 on stack `st` whose leaf entry for VA 0 is `leaf`. -/
def tableOn (st leaf : Nat) (s : State) : State :=
  let s := put (put (put (put s (stackKey 0 st 0x200000) 8 0x400001) (stackKey 0 st 0x400000) 8 0x401001) (stackKey 0 st 0x401000) 8 0x402001)
    (stackKey 0 st 0x402000) 8 leaf
  s.setStack st { s.stack st with troot := [(0, some 0x200000)] }
def migrating : State := tableOn 1 0 (tableOn 0 15 (onJob { jobOf 4 with w1 := word (va 0), w2 := 1, st := .waiting }))
/-- CopyJobs: each kind is taken by an idle hart, and goes on from its first element to its last and its end. -/
theorem test_hyp_jobs : tookJob 0 false = true ∧ tookJob 0 true = true ∧ tookJob 1 false = true ∧ tookJob 2 false = true ∧
    tookJob 3 false = true ∧ tookJob 4 false = true ∧ tookJob 5 false = true ∧ kindOf 12288 = .stoker ∧
    ((offered 0 false).thread 12288).run = .idle ∧ (offered 0 false).job 12288 = none ∧
    (onJob copyJob).job 12288 = some copyJob ∧ copyJob.kind = 0 ∧ w0Tdst copyJob.w0 = false ∧ copyJob.st = .moving ∧ oneLine.total = 16 ∧
    copyJob.pos < oneLine.total ∧ oneLine.total ≤ ({ copyJob with pos := 16 } : Job).pos ∧
    readOk (readIndex (onJob copyJob) copyJob oneLine) = true ∧ moveOk (moveElement (onJob copyJob) copyJob oneLine) = true ∧
    (jobOf 0).cmds = [] ∧ (jobOf 0).owned = true ∧ (jobOf 3).fail = none ∧
    (let j : Job := { copyJob with st := .fault (word 64) 2 }
     (onJob j).job 12288 = some j ∧ (j.layout.map (fun l => boxDigits j.pos l.extm1)).isSome = true ∧ j.owned = true) ∧
    framePending migrating (frameKeys (vaStack (vaOf (word (va 0)))) 0 65536) = false ∧
    (migratePlan migrating ({ jobOf 4 with w1 := word (va 0), w2 := 1, st := .waiting } : Job)).isSome = true ∧
    framePending migrating (frameKeys 0 0 65536) = false ∧
    (migratePlan migrating ({ jobOf 4 with w1 := word (va 0), w2 := 1, st := .waiting } : Job)).map (fun x => x.2) = some (1, 0, 0x402000, 0x402000) ∧
    0x402000 + 8 ≤ 2 ^ 36 ∧ 0 + 65535 < 0x402000 ∧
    (let j : Job := { copyJob with w0 := BitVec.ofNat 64 (sp0 0x400 * 2 ^ 16 + 2 ^ 12), st := .done 1 0 0 }
     j.ivec.length = 6 ∧ w0Mben j.w0 = true ∧ (w0Mbox j.w0).toNat = sp0 0x400 ∧ (∀ i, i < 32 → plainKey (sp0 0x400 + i) = true)) ∧
    (0 : Nat) ∈ ({ jobOf 5 with slices := [0] } : Job).slices ∧ framePending (onStoker []) (frameKeys 0 0 65536) = false ∧
    (onJob (jobOf 6)).stackIn 0 (vaStack (vaOf (word (va 0)))) = true ∧
    (readHeader (onJob (jobOf 6)) 0 0 (word (va 0))).1.isSome = true := by decide +kernel
/-- CopyJobs and FormsComplete: a continuation, and a copy job, that met a redirect. -/
theorem test_hyp_moves :
    (let s := withMe (onStoker []) (fun t => { t with wait := .redirect 1 })
     s.job s.cur = none ∧ s.me.run = .running ∧ s.me.wait = .redirect 1 ∧ s.mayRelease = true) ∧
    (let j : Job := { copyJob with st := .redirect 1 }
     (onJob j).job 12288 = some j ∧ (onJob j).blocked 12288 = false ∧ kindOf (onJob j).cur = .stoker) := by decide +kernel
/-- CopyElement: element 0 lies inside; an element past the size does not. -/
theorem test_hyp_element : copyJob.sides.2.2 = false ∧ (copyJob.tensorAt oneLine 0 0) = (true, word (sp0 0)) ∧
    (copyJob.tensorAt { oneLine with size := [15, 1, 1, 1, 1, 1] } 15 0).1 = false ∧
    (copyJob.tensorAt { oneLine with size := [15, 1, 1, 1, 1, 1] } 14 0).1 = true ∧
    copyJob.stalls (onJob copyJob) (copyJob.packedAt oneLine 0) 4 = false ∧ isOA (word (sp0 0)) = true ∧
    (let s := (onJob copyJob).setCore 1 { chans := [(0, { st := .active, guard := some (sp0 0x100, 64, 64, 1), fwm := word (sp0 0x100) })] }
     copyJob.stalls s (word (sp0 0x100)) 4 = true) ∧
    ({ copyJob with w0 := BitVec.ofNat 64 2048 } : Job).sides.2.2 = true ∧
    isOA (copyJob.packedAt oneLine 15) = true ∧ 0 < oneLine.esize ∧ (∀ i, i < 4 → plainKey ((copyJob.packedAt oneLine 15).toNat + i) = true) := by
  decide +kernel

/-- A table of 4 bytes with two entries on pseudo-channel 0, and the query that reads it. -/
def smallTable (policy : Nat) : HTable :=
  { va := 0, pa := 0, page := 0, big := false, entries := 2, width := 2, policy := policy, ien := false, ifmt := 0, dflt := 9, part := 0, acc := 0 }
def queryTo (form : Nat) (res : Option (List Vec × Option Nat)) : Query :=
  { qid := 1, core := 0, ch := 0, stack := 0, slot := 3, form := form, va := 0x0201, vb := 0, issued := 0, need := 4, result := res }
def hearth (x : Stack) : State := { onCore [] with dram := [(0, x)] }
/-- TableQueries: a reserved bit, a source bound for writing, a foreign stack, no room and just enough, an empty source; an answer
that is computed and one that is due; indices inside and past the end. -/
theorem test_hyp_queries : (queryOf (.tqPair 24 5 3)).isSome = true ∧ 2 ^ 16 ≤ 2 ^ 16 ∧ (word 0x800).getLsbD 11 = true ∧
    ¬(2 ^ 16 ≤ 0xF7FF) ∧ (word 0xF7FF).getLsbD 11 = false ∧
    (bound (lineStream true 1 0) (onCore [])).me.regs.against [24, 3] none = some 24 ∧ (onCore []).me.regs.against [24, 3] none = none ∧
    ({ onCore [] with ctrl := { layout := [[0], [1, 2, 3]] } } : State).stackIn 0 2 = false ∧ (onCore []).stackIn 0 7 = true ∧
    (onCore []).mayRelease = true ∧
    arrivalRoom (arrived (List.replicate 13 { kind := .payload, data := 0 }) (onCore [])).released 0 0 < 4 ∧
    4 ≤ arrivalRoom (arrived (List.replicate 12 { kind := .payload, data := 0 }) (onCore [])).released 0 0 ∧
    popStalls (popAll (bound (arrivalStream 1) (onCore [])).released [24, 3]) = true ∧ popOk (popAll (onCore []).released [24, 3]) = true ∧
    (withMe (onCore []) (fun t => { t with wait := .stall (.tqB 24 5) })).stalledHead 0 = some (.tqB 24 5) ∧
    ({ onCore [] with queries := [queryTo 0 none] } : State).queries = [queryTo 0 none] ∧ (queryTo 0 none).form < 3 ∧
    (smallTable 0).width ≤ 2 ∧ (queryTo 0 (some ([0], none))).result = some ([0], none) ∧ (queryTo 0 none).result = none ∧ (0 : Nat) < (queryTo 0 none).issued + 48 ∧ (queryTo 0 none).issued + 48 ≤ 48 ∧
    Tab.get none ((hearth {}).stack 0).htabs 3 = none ∧
    Tab.get none ((hearth { htabs := [(3, some (smallTable 0))] }).stack 0).htabs 3 = some (smallTable 0) ∧
    (queryIndices (queryTo 0 none))[0]? = some 1 ∧ (queryIndices (queryTo 0 none))[1]? = some 2 ∧ 1 < (smallTable 0).entries ∧
    (smallTable 2).entries ≤ 2 := by decide +kernel
/-- A table descriptor at VA 0x40 of base 0 with two entries of 4 bytes; pseudo-channel 0 computes or not. -/
def describing (on : Bool) (d : Nat) : State :=
  put { onStoker [(5, va 0x40), (6, 3)] with dram := [(0, { tlb := [pageAt 0], compute := if on then [(0, true)] else [] })] } (stackKey 0 0 0x40) 32 d
def installCode (on : Bool) (d : Nat) : Option Nat := (installTable (describing on d) 0 0 0 3 (BitVec.ofNat 256 d)).1
/-- HearthCommands, HTLOAD and HMODE and REFRESH. -/
theorem test_hyp_hearth : 256 ≤ 256 ∧ (describing true 0).mayRelease = true ∧ isVA (word (va 0x10)) = true ∧ va 0x10 % 32 ≠ 0 ∧ va 0x40 % 32 = 0 ∧
    ({ onStoker [] with ctrl := { layout := [[1, 2, 3], [0]] } } : State).stackIn 0 0 = false ∧
    ((describing true (va 0)).released.readVA 0 0 0x40 32).1.isSome = true ∧ installCode true (va 0 + 2 ^ 64 + 2 * 2 ^ 80) = some 0 ∧
    installCode false (va 0 + 2 ^ 64 + 2 * 2 ^ 80) = some 4 ∧
    (let s : State := { describing true 0 with dram := [(0, { heldPages := [(0, 0)], tlb := [pageAt 0], compute := [(0, true)] })] }
     (installTable s 0 0 0 3 (BitVec.ofNat 256 (va 0 + 2 ^ 64 + 2 * 2 ^ 80))).1 = none) ∧
    ((describing true 0).released.readVA 0 0 0x10000 32).1 = none ∧
    (word 0x200).toNat / 2 ^ 9 ≠ 0 ∧ (word 0x80).getLsbD 7 = true ∧ (word 8).toNat % 128 / 8 ≠ 0 % 12 ∧ (word 0x107).toNat % 128 / 8 = 0 ∧
    (describing true 0).released.computing 0 = (word 0x100).getLsbD 8 ∧ (describing false 0).released.computing 0 ≠ (word 0x100).getLsbD 8 ∧
    ((({ describing true 0 with dram := [(0, { compute := [(0, true)], htabs := [(3, some (smallTable 0))] })] } : State).released.stack 0).htabs.any
      (fun e => match e.2 with
        | some t => pcOfPa t.pa == 0
        | none => false)) = true ∧
    (Tab.get {} ((hearth { refresh := [(0, { postponed := 8 })] }).stack 0).refresh 0).postponed = 8 ∧
    (Tab.get {} ((hearth { refresh := [(0, { postponed := 7 })] }).stack 0).refresh 0).postponed < 8 ∧
    (Tab.get {} ((hearth {}).stack 0).refresh 0).due ≤ (hearth {}).now := by decide +kernel
/-- A command that waits in the queue of stoker 0. -/
def waitingCmd (id kind : Nat) : HCmd :=
  { id := id, kind := kind, pc := 0, cmd := 0, sel := word 0x20000, mbox := none, hart := 0, rd := 3, cont := {}, job := none, dpa := none
    pos := 0, skipped := 0, fault := false }
def queueOf (l : List HCmd) (s : State) : State := { s with hqueue := [(0, l)] }
/-- HearthCommands, IRED and HCMD: mailbox words, the command's word on a core and on a stoker, its operands, the selector, a full
queue and one with a place. -/
theorem test_hyp_commands : mailboxTrap (onCore []) (word (sp0 32)) = some .misalign ∧ mailboxTrap (onCore []) (word (va 64)) = some .window ∧
    mailboxTrap (onStoker []) (word (va 64)) = none ∧ mailboxTrap (onCore []) 0 = none ∧ sp0 32 % 64 ≠ 0 ∧
    inClusterSpad 0 (word (sp8 0)) 64 = false ∧ inClusterSpad 0 (word (sp0 0x7BFC0)) 64 = true ∧
    ({ onCore [] with net := [itemAt (sp0 0x40)] } : State).held 0 (sp0 0x40) 64 = true ∧ isVA (word (2 ^ 63 + 2 ^ 57)) = false ∧
    ((commandAt (put (onCore []) (sp0 0x40) 64 (va 0 * 2 ^ 64 + va 0x100 * 2 ^ 128)) (word (sp0 0x40))).map (fun x => (iredDst x.1, iredSrc x.1)))
      = some (word (va 0), word (va 0x100)) ∧
    ((commandAt (onCore []) (word (sp0 0x40))).map (fun x => isVA (iredDst x.1))) = some false ∧
    queueFull (onCore []) (iredPc (onCore []) 0 0 (word (va 0))) = false ∧
    ((commandAt (onStoker []) (word (va 0x40))).map (fun x => (mailboxTrap x.2 0).isNone && x.2.mayRelease)) = some true ∧
    queueFull (queueOf (List.replicate 32 (waitingCmd 1 1)) (onCore [])) 0 = true ∧
    queueFull (queueOf (List.replicate 31 (waitingCmd 1 1)) (onCore [])) 0 = false ∧
    (onCore []).stackIn 0 (selStack (word 0x20000)) = true ∧ selOk (word 0x20000) = true ∧ selOk (word 0x10000) = false ∧ selOk (word 0x2005F) = true ∧
    selOk (word 0x20060) = false ∧ (3 : Reg) ≠ 0#5 ∧
    (withMe (onCore []) (fun t => { t with wait := .stall (.ired 5 0) })).stalledHead 0 = some (.ired 5 0) := by decide +kernel
/-- HobUnits: HOVL operands, another stoker's unit, the queue, a page that translates; the next command in compute mode and not. -/
theorem test_hyp_units : (2 ^ 11 ≤ 2 ^ 11) ∧ (word 0x80).getLsbD 7 = true ∧ va 0x800 % 4096 ≠ 0 ∧ va 0x1000 % 4096 = 0 ∧ isVA (word (va 0x1000)) = true ∧
    selPc (word 8) / 8 ≠ hartSk 12288 % 12 ∧ selPc (word 7) / 8 = hartSk 12288 % 12 ∧ selStack (word 7) = hartSk 12288 / 12 ∧
    queueFull (onStoker []) 7 = false ∧ (onStoker []).mayRelease = true ∧
    (let s : State := { queueOf [waitingCmd 1 0, waitingCmd 2 2] (onCore []) with cur := 0 }
     (s.hob 0).cmd = none ∧ (s.nextHob 0).map HCmd.kind = some 2 ∧ (match (s.xlate 0 0 0 false).1 with
       | .ok _ => true
       | _ => false) = true) ∧
    (let s := queueOf [waitingCmd 1 1] (hearth { compute := [(0, true)] })
     (s.nextHob 0).map HCmd.kind = some 1 ∧ s.computing 0 = true ∧ (onCore []).computing 0 = false) ∧
    ((hearth { hobs := [(0, { cmd := some (waitingCmd 1 1), executed := 2 ^ 28 })] }).hob 0).cmd ≠ none ∧
    2 ^ 28 ≤ ((hearth { hobs := [(0, { cmd := some (waitingCmd 1 1), executed := 2 ^ 28 })] }).hob 0).executed := by decide +kernel
/-- HobUnits: a row of ROWLD, ROWST or ROWADD: bad offsets and words; a held page, one outside, one without a translation and one of
the unit's own pseudo-channel. -/
theorem test_hyp_rows : 32 % 64 ≠ 0 ∧ 8192 < 8128 + 128 ∧ ¬(8192 < 8128 + 64) ∧ isVA (word 64) = false ∧ va 64 % 64 = 0 ∧
    rangeIs (({ onHob [] with dram := [(0, { heldPages := [(0, 0)] })] } : State).xlateRange 0 0 0 64 false) = 1 ∧
    rangeIs (({ onHob [] with ctrl := { layout := [[1, 2, 3], [0]] } } : State).xlateRange 0 0 0 64 false) = 4 ∧
    rangeIs (({ onHob [] with tasks := [{ aTask 0 .running with reads := [(0, 1)] }] } : State).xlateRange 0 0 0 64 true) = 5 ∧
    onePc (keyPa (stackKey 0 0 (2 ^ 18 - 64))) 128 = false ∧ (onHob []).onePage 0 0 0xFFC0 128 = false ∧
    rangeIs ((onHob []).xlateRange 0 0 0x10000 64 false) = 3 ∧ rangeIs ((onHob []).xlateRange 0 0 0 128 true) = 0 ∧
    keyStack (stackKey 0 0 0) = (13824 - 13824) / 96 ∧ pcOfPa (keyPa (stackKey 0 0 0)) = 0 % 96 ∧ onePc (keyPa (stackKey 0 0 0)) 128 = true ∧
    (onHob []).onePage 0 0 0 128 = true ∧ pcOfPa (keyPa (stackKey 0 0 (2 ^ 18))) ≠ 0 % 96 ∧ (onHob []).mayRelease = true ∧
    ({ onHob [] with net := [{ itemAt (stackKey 0 0 0) with hart := 13824 }] } : State).mustWait 13824 (stackKey 0 0 0) 64 = true ∧
    (∀ j, j < 128 → plainKey (stackKey 0 0 0 + j) = true) := by decide +kernel
/-- IndexedReduce: a refused command, one that clears and then adds, and an index at ROWS. -/
def iredCmd (rows idx : Nat) : Vec := BitVec.ofNat 512
  (2 + 2 * 2 ^ 8 + 2 ^ 12 + 8 * 2 ^ 16 + rows * 2 ^ 32 + va 0x100 * 2 ^ 64 + va 0x200 * 2 ^ 128 + 8 * 2 ^ 192 + idx * 2 ^ 256)
theorem test_hyp_ired :
    (let c : HCmd := { waitingCmd 1 0 with cmd := iredCmd 3 2, dpa := some 0x100 }
     let s := queueOf [c] (onCore [])
     (s.hq (pcStoker s.cur)).find? (fun c => c.kind == 0 && c.pc == s.cur) = some c ∧ iredTotal c = 6 ∧ (0 : Nat) + 1 < iredTotal c ∧
     iredIdx c.cmd 0 < iredRows c.cmd ∧ (iredIdx c.cmd 0).testBit 31 = false ∧ 2 + 2 < iredTotal c ∧ (2 : Nat) / 2 - 1 < iredN c.cmd ∧
     (match (s.xlate 0 0 (0x200 + 2 * 8) false).1 with
      | .ok k => s.onePage (keyStack k) 0 (0x200 + 2 * 8) 8
      | _ => false) = true ∧
     (∀ i, i < 4 → plainKey (s.heldKey 0 0 0x100 0x100 4 true + i) = true)) ∧
    iredRows (iredCmd 2 2) ≤ iredIdx (iredCmd 2 2) 0 ∧
    (startIred (onCore []) (waitingCmd 1 0)).1 = .refuse 3 ∧
    (startIred (onCore []) { waitingCmd 1 0 with cmd := iredCmd 3 2 }).1 = .go 0x100 ∧
    (startIred (onCore []) { waitingCmd 1 0 with cmd := iredCmd 3 2, pc := 1 }).1 = .move 0 ∧
    (startIred (pageHeld (onCore [])) { waitingCmd 1 0 with cmd := iredCmd 3 2 }).1 = .wait ∧
    (let c (i : Nat) : HCmd := { waitingCmd i 0 with cmd := iredCmd 3 2 }
     (queueOf [c 1, c 2] (onCore [])).iredBehind (c 2) = true ∧ (queueOf [c 1, c 2] (onCore [])).iredBehind (c 1) = false) := by decide +kernel

/-- Two parties on core 0: slot 0, the home, sends from line 0 of its window to slot 1, whose entry has operation `op` over `lines`
lines and comes `off` cycles later. -/
def pairImage (op lines off : Nat) : Image :=
  { dwait := 64, parties := [word (2 ^ 48), word (2 ^ 13 + 2 ^ 32 + 2 ^ 48)]
    entries := [word (2 ^ 34 + (lines - 1) * 2 ^ 40), word (off + op * 2 ^ 16 + 2 ^ 20 + (lines - 1) * 2 ^ 40)] }
/-- The same with a remote second party at peer endpoint 5. -/
def remoteImage : Image := { pairImage 1 1 4 with parties := [word (2 ^ 48), word (1 + 5 * 2 ^ 16 + 2 ^ 32 + 2 ^ 48)] }
/-- Core 0 with what its slots hold, and the image in bytes at scratchpad 0x40. -/
def ports (a b : Slot) (s : State) : State := s.setCore 0 { s.core 0 with slots := [(0, a), (1, b)] }
def imageAt (m : Image) : State :=
  let s := put (onCore [(5, sp0 0x40)]) (sp0 0x40) 8 (m.parties.length + m.entries.length * 2 ^ 16 + m.dwait * 2 ^ 32)
  ((m.parties ++ m.entries).zipIdx).foldl (fun s x => put s (sp0 (0x80 + 8 * x.2)) 8 x.1.toNat) s
def codeOf (m : Image) : Nat := imageCode (fun d => d < 4) m 0
/-- TimetablesAndRounds: a slot in each state, header fields at and past their limits, an image that keeps every rule and one that
comes too early; a round descriptor and the window it needs. -/
theorem test_hyp_timetables : isAddr (word (sp0 0x20)) = true ∧ sp0 0x20 % 64 ≠ 0 ∧ ownSpad 0 (word (sp8 0)) 64 = false ∧ ownSpad 0 (word (sp0 0x7BFC0)) 64 = true ∧
    ((ports { st := .waiting } {} (onCore [])).port 0).st = .waiting ∧ ((ports {} { st := .running } (onCore [])).port 1).st = .running ∧
    (imageAt (pairImage 1 1 4)).held 0 (sp0 0x40) 64 = false ∧ (imageAt (pairImage 1 1 4)).mayRelease = true ∧
    ownWords (imageAt (pairImage 1 1 4)) (sp0 0x80) 2 = (pairImage 1 1 4).parties ∧
    ownWords (imageAt (pairImage 1 1 4)) (sp0 0x90) 2 = (pairImage 1 1 4).entries ∧
    (let h : Vec := bytesVec ((imageAt (pairImage 1 1 4)).ownBytes 0 (sp0 0x40) 64)
     (h.extractLsb' 0 8).toNat = 2 ∧ (h.extractLsb' 16 16).toNat = 2 ∧ (h.extractLsb' 32 32).toNat = 64 ∧ h.extractLsb' 8 8 = 0#8 ∧
     h.extractLsb' 64 448 = 0#448) ∧
    codeOf (pairImage 1 1 4) = 0 ∧ codeOf (pairImage 1 1 3) = 4 + 2 ^ 16 * 1 ∧ codeOf (pairImage 2 1 4) = 1 ∧ codeOf (pairImage 2 3 4) = 0 ∧
    ((ports { img := none } {} (onCore [])).port 0).img = none ∧
    ((ports { st := .armed, img := some (pairImage 1 1 4) } {} (onCore [])).port 0).img = some (pairImage 1 1 4) ∧ sp0 16 % 32 ≠ 0 ∧
    ownSpad 0 (word (sp0 0x7BFE0)) 32 = true ∧ ownSpad 0 (word (sp0 0x7BFE0)) 64 = false ∧
    (BitVec.ofNat 256 (2 ^ 17)).extractLsb' 17 7 ≠ 0#7 ∧ windowOk 0 (pairImage 1 1 4) 1 (word (sp0 0x7BF80)) = true ∧
    windowOk 0 (pairImage 1 1 4) 1 (word (sp0 0x7BFC0)) = false := by decide +kernel

def homeSlot (x : Slot) : State := ports { x with img := some (pairImage 1 1 4) } {} (carrying (.arrival 0 1 7))
/-- BarrierRounds: an arrival before any image, for a round that is past, and the last of its round; a round at its deadline; a
notice for a slot whose thread waits at BAR. -/
theorem test_hyp_barriers : (carrying (.arrival 0 1 7)).msg 5 = some (itemOf (.arrival 0 1 7)) ∧ ((carrying (.arrival 0 1 7)).port 0).img = none ∧
    ((homeSlot { lastr := some 7 }).port 0).held = [] ∧ laterRound 7 7 = false ∧ laterRound 8 7 = true ∧ laterRound 0x8007 7 = false ∧
    laterRound 0x8006 7 = true ∧
    (∀ k ∈ (pairImage 1 1 4).onDevice, k = 1 ∨ k ∈ [0]) ∧
    ((homeSlot { rounds := [{ round := 7, first := 0, parties := [0] }] }).port 0).rounds = [{ round := 7, first := 0, parties := [0] }] ∧
    (0 : Nat) + (pairImage 1 1 4).dwait ≤ 64 ∧
    (let s := withMe (ports { st := .waiting, round := 7, notices := [{ round := 7, t := 70, voids := [], void := false }] } {} (onCore []))
       (fun t => { t with wait := .bar 3 0 })
     (s.port s.cur).st = .waiting ∧ ((s.port s.cur).notices.find? (fun n => n.round == (s.port s.cur).round)).isSome = true ∧
     (s.thread 0).wait = .bar 3 (s.cur % 2) ∧ (s.thread 1).wait = .none ∧ (s.thread 0).gang = none ∧ (s.thread 0).path = [] ∧
     (s.thread 0).regs.rep = none ∧ kindOf 0 = .core) := by decide +kernel

/-- Party `p` of an image runs its round; `x` says how far it is. -/
def running' (p : Nat) (m : Image) (x : Slot) : State :=
  let y : Slot := { x with st := .running, img := some m }
  { (if p = 0 then ports y {} (onCore []) else ports {} y (onCore [])) with cur := p, now := 100 }
def message (lines : Nat) : RMsg := { round := 0, entry := 1, spoiled := false, lines := List.replicate lines 0 }
def turns (s : State) (op : Nat) : Bool := match s.turnOf s.cur op with
  | some (m, e, _, w) => op == 0 || (takeData s s.cur m e w).isSome
  | none => false
/-- Partition 0 has job 7 on PIDonFEP 1 at the address 9, and names itself as peer endpoint 5. -/
def peered (s : State) : State :=
  { s with parts := [(0, { peers := [(5, BitVec.ofNat 256 (1 + 7 * 2 ^ 16 + 2 ^ 40 + 9 * 2 ^ 64))] })]
           ctrl := { ports := [9], endpoints := [{ jobid := 7, pid := 1 }] } }
/-- RoundEntries: a SEND at its last line and before it, to the slot, to a peer outside and inside the module and in a void
round; lines that a copy still fills; receive entries with and without their data. -/
theorem test_hyp_entries : turns (running' 0 (pairImage 1 1 4) {}) 0 = true ∧ turns (running' 0 (pairImage 2 3 4) {}) 0 = true ∧
    turns (running' 0 remoteImage {}) 0 = true ∧ turns (running' 0 (pairImage 1 1 4) { void := true }) 0 = true ∧
    (pairImage 1 1 4).matchOf 0 = some 1 ∧ ptyRemote (remoteImage.party 1) = true ∧ ptyRemote ((pairImage 1 1 4).party 1) = false ∧
    ptyId ((pairImage 1 1 4).party 1) ≠ 0 ∧
    turns (running' 1 (pairImage 1 1 4) { msgs := [message 1] }) 1 = true ∧ turns (running' 1 (pairImage 2 3 4) { msgs := [message 3] }) 2 = true ∧
    turns (running' 1 (pairImage 3 1 4) { voidSet := [0] }) 3 = true ∧ turns (running' 1 (pairImage 4 1 4) { msgs := [message 1] }) 4 = true ∧
    turns (running' 1 (pairImage 1 1 4) {}) 1 = false ∧ (roundOp .ttXor).isSome = true ∧
    (running' 0 remoteImage {}).localPeer 0 5 = none ∧ (peered (running' 0 remoteImage {})).localPeer 0 5 = some ⟨0, 7, 1, 9⟩ ∧
    (filling 0x100 (onCore [])).guarded (sp0 0x100) 64 = true ∧ (filling 0x100 (onCore [])).guarded (sp0 0x140) 64 = false ∧
    (running' 1 (pairImage 1 1 4) {}).turnOf 1 0 = none ∧
    ((running' 1 (pairImage 2 3 4) {}).port 1).msgs.find? (fun r => r.round == 0 && r.entry == 1) = none ∧
    ((running' 1 (pairImage 2 3 4) { msgs := [message 3] }).port 1).msgs.find? (fun r => r.round == 0 && r.entry == 1) = some (message 3) ∧
    ((Tab.get [] ((running' 1 (pairImage 2 3 4) { carry := [(1, [{ round := some 9, lines := [], spoiled := false }])] }).port 1).carry 1).filter
      (fun c => c.round != some 0)) ≠ [] := by decide +kernel
def remoteHome : State :=
  { ports {} { img := some { remoteImage with parties := [word (1 + 5 * 2 ^ 16 + 2 ^ 48), word (2 ^ 13 + 2 ^ 32 + 2 ^ 48)] } } (onCore []) with
    parts := [(0, { peers := [(5, BitVec.ofNat 256 (1 + 2 ^ 40))] })], inbox := [.round ⟨0, 0, 1, 0⟩ 0 1 ⟨3, 0, false, []⟩] }
/-- RoundEntries: late data, a round at its end, and round data from a peer that is known and one that is not. -/
theorem test_hyp_round_ends : (carrying (.late 1 1 7 false [])).msg 5 = some (itemOf (.late 1 1 7 false [])) ∧
    entOp ((pairImage 2 3 4).entry 1) = 2 ∧
    (let s : State := { ports {} { rises := [(99, 3), (101, 3)] } (onCore []) with cur := 1, now := 100 }
     (s.port 1).st ≠ .running ∧ (s.port 1).rises = (99, 3) :: [(101, 3)] ∧ 99 ≤ s.now ∧ s.now < 101) ∧
    ((running' 1 (pairImage 2 3 4) { late := true }).port 1).late = true ∧ ((running' 1 (pairImage 2 3 4) {}).port 1).late = false ∧
    (let s : State := carrying (.peerRound ⟨0, 0, 1, 0⟩ 0 1 ⟨3, 0, false, []⟩)
     s.cur ≠ 0 ∧ s.msg s.cur = some (itemOf (.peerRound ⟨0, 0, 1, 0⟩ 0 1 ⟨3, 0, false, []⟩))) ∧ remoteHome.cur = 0 ∧
    ({ remoteHome with cores := [] } : State).port 1 = {} ∧
    (let s := running' 1 (pairImage 1 1 4) { next := 1, doneAt := 92, t := 92, desc := sp0 0 }
     ((s.port 1).entry 1).isNone = true ∧ (s.port 1).t ≤ s.now ∧ (∀ i, i < 8 → plainKey ((s.port 1).desc + 16 + i) = true)) ∧
    remoteHome.sourceOf ⟨0, 0, 1, 0⟩ = some 5 ∧ remoteHome.sourceOf ⟨0, 0, 2, 0⟩ = none ∧ remoteHome.dieIn 0 0 = true ∧
    (match (remoteHome.port 1).img with
     | some m => m.matchOf 0 == some 1 && m.owner 0 == 0 && ptyPeer (m.party 0) == 5 && m.owner 1 == m.selfOf 1 &&
         isLate (remoteHome.port 1) m 1 1 3 == false
     | none => false) = true := by decide +kernel

/-- Core 0 with the words of an FSEND of `n` lines or a packet reduction in s4 to s7. -/
def packetWords (n w t : Nat) : State := onCore [(4, sp0 0x40), (5, n), (6, w), (7, t)]
def withPeer (s : State) : State := { s with parts := [(0, { peers := [(5, 1)] })] }
/-- Packets: counts and words at and past their limits, foreign targets and peers, a held operand; entries of an arrival channel of
each kind, a channel with just enough room. -/
theorem test_hyp_packets : ¬(15 = 0 ∨ 15 < 15) ∧ 15 < 16 ∧ (word (2 ^ 28)).extractLsb' 28 4 ≠ 0#4 ∧ (word (2 ^ 48)).extractLsb' 48 16 ≠ 0#16 ∧
    inClusterSpad 0 (word (sp0 0x7BC40)) (64 * 15) = true ∧ inClusterSpad 0 (word (sp0 0x7BC80)) (64 * 15) = false ∧
    96 ≤ fsendCluster (word (96 * 2 ^ 14)) ∧ fsendCluster (word (95 * 2 ^ 14)) < 96 ∧ (onCore []).dieIn 0 (fsendDie (word (3 * 2 ^ 12))) = true ∧
    (onCore []).peerOk 0 5 = false ∧ (withPeer (onCore [])).peerOk 0 5 = true ∧
    ({ onCore [] with net := [itemAt (sp0 0x40)] } : State).held 0 (sp0 0x40) 64 = true ∧ (onCore []).held 0 (sp0 0x40) 960 = false ∧
    (packetOf (.facc 7 4 5 6 3)).isSome = true ∧ 3 % 3 = 0 ∧ 4 % 3 ≠ 0 ∧ (word (2 ^ 41)).extractLsb' 41 23 ≠ 0#23 ∧
    reduceTarget (onCore []) 0 6 (word (sp0 0x7BFC0)) 1 = true ∧ reduceTarget (onCore []) 0 6 (word (sp0 0x7BFC0)) 2 = false ∧
    reduceTarget (onCore []) 0 7 (word (accKey 0 4)) 128 = true ∧ (onCore []).mayRelease = true ∧
    nextEntry 0 0 (((arrived [{ kind := .header, data := 1 }] (onCore [])).ended.core 0).arrivals 0) = some { kind := .header, data := 1 } ∧
    nextEntry 0 0 (((arrived [{ kind := .payload, data := 1 }] (onCore [])).ended.core 0).arrivals 0) = some { kind := .payload, data := 1 } ∧
    nextEntry 0 0 (((onCore []).ended.core 0).arrivals 0) = none ∧
    nextEntry 0 0 (((arrived [{ kind := .header, data := 1, taken := some 1 }] (onCore [])).ended.core 0).arrivals 0) = none ∧
    (onCore []).localPeer 0 5 = none ∧ (peered (onCore [])).localPeer 0 5 = some ⟨0, 7, 1, 9⟩ ∧
    (let s := carrying (.packet 0 0 1 [0])
     s.cur ≠ 0 ∧ firstPacket s (itemOf (.packet 0 0 1 [0])) 0 0 = true ∧ 2 ≤ arrivalRoom (arrived (List.replicate 14 { kind := .payload, data := 0 }) s) 0 0 ∧
     arrivalRoom (arrived (List.replicate 15 { kind := .payload, data := 0 }) s) 0 0 < 2) ∧
    (let s : State := { carrying (.reduce 6 (sp0 0) 0 none [0, 0]) with arg := 1 }
     meets s (itemOf (.reduce 6 (sp0 0) 0 none [0, 0])) = true ∧ s.arg ≠ 0 ∧ s.guarded (sp0 0) 64 = false ∧
     (filling 0 s).guarded (sp0 0) 64 = true) ∧ (∀ j, j < 64 → plainKey (sp0 j) = true) := by decide +kernel

/-- Group 3 belongs to the damper of die 0; its record, and the group number in s6. -/
def damped (g : Group) (l : List (Nat × Nat)) : State :=
  { onCore ((6, 3) :: l) with dies := [(0, { gfirst := 3, gcount := 1, gtbase := word (va 0x1000) })], groups := if g = {} then [] else [(3, g)] }
/-- A contribution of `n` samples in one element. -/
def contribution (n : Nat) : Contribution := { n := [n], vals := [(0x3F800000, 0)] }
def folds (n : Nat) (late spoil : Bool) : Nat :=
  match foldGroup { nel := 1 } late spoil true (some (contribution n)) [(0, 0)] with
  | .done o _ _ => o
  | .mnf => 9
/-- DamperInstructions and DamperFold: the last group number and the next, an owner and none, a group in each state, tags before, at
and after the step, folds of each outcome, a record that configures. -/
theorem test_hyp_damper : (2 ^ 16 - 1 : Nat) < 2 ^ 16 ∧ (damped {} []).ownerOf 0 3 = some 0 ∧ (damped {} []).ownerOf 0 4 = none ∧ (damped {} []).ownerOf 0 2 = none ∧
    ((damped { drain := true } []).group (groupKey 0 3)).drain = true ∧ ((damped { active := true } []).group (groupKey 0 3)).active = true ∧
    ((damped {} []).group (groupKey 0 3)).active = false ∧ (damped {} []).mayRelease = true ∧
    (damped {} [(7, 2 ^ 64 - 1)]).rs 7 = BitVec.allOnes 64 ∧ inOwnRegions 0 (word (sp0 0x40)) = true ∧
    (damped {} []).guarded (sp0 0x40) 192 = false ∧ ((1 : BitVec 16) - 0).toInt = 1 ∧ ((0 : BitVec 16) - 1).toInt < 0 ∧
    (damped {} []).mayEnd = true ∧ gaccMnf (damped {} []).ended 6 (word (sp0 0x40)) 0 = false ∧ (word (2 ^ 18)).toNat = 2 ^ 18 ∧ (2 ^ 18 - 1 : Nat) < 2 ^ 18 ∧
    (filling 0x40 (damped {} [])).guarded (sp0 0x40) 192 = true ∧ (filling 0x40 (damped {} [])).released.guarded (sp0 0x40) 64 = true ∧
    oaOff (sp0 0x7BF40) + 192 ≤ spadSize ∧ ¬(oaOff (sp0 0x7BF80) + 192 ≤ spadSize) ∧
    bindingOf (damped {} []) 3 = none ∧ folds 0x3F800000 false false = 0 ∧ folds 0x3F800000 true false = 1 ∧ folds 0 false false = 0 ∧
    folds 0x3F000000 false false = 3 ∧ folds 0x4B800000 false false = 0 ∧ folds 0x4B800001 false false = 3 ∧ folds 0x3F800000 false true = 3 ∧
    (damped {} []).accessTrap .weakLoad (word (sp0 0x7BFE0)) 64 = some .window ∧ (damped {} []).accessTrap .weakLoad (word (sp0 0x7BFC0)) 64 = none ∧
    gcfgCode (damped {} []) 0 3 (BitVec.ofNat 512 (3 + 0x3F800000 * 2 ^ 128 + 2 * 2 ^ 160 + 2 ^ 224 + va 0 * 2 ^ 256)) = 0 ∧
    gcfgCode (damped {} []) 0 3 (BitVec.ofNat 512 (3 + 0x3F800000 * 2 ^ 128 + 2 ^ 160 + 2 ^ 224 + va 0 * 2 ^ 256)) = 1 ∧
    ((damped { drain := true, succ := word (va 64) } []).group 3).live = false ∧
    ((damped { drain := true, succ := word (va 64) } []).group 3).succ ≠ 0 := by decide +kernel

/-- A launch block at VA 0x80 for one thread, with the kernel header at VA 0; `w4` is the word at bit 256. -/
def launching (w4 : Nat) : State :=
  let s := put (put (onCore []) (stackKey 0 0 0) 8 (va 2)) (stackKey 0 0 0x80) 128 (va 0 + w4 * 2 ^ 256)
  { s with dies := [(0, { offers := [{ lb := word (va 0x80), part := 0, group := none }] })] }
def offeredTo (s : State) : Bool :=
  (checkLaunch s { lb := word (va 0x80), part := 0, group := none }).1.isSome
/-- A task that names step 5 of the tile of group 3, whose slots hold `l`. -/
def naming (l : List VSlot) : Task × State :=
  let t : Task := { aTask 1 .held with groups := [{ word := word (3 + 2 ^ 16 + 5 * 2 ^ 32), run := (0, 1), step := 0 }] }
  (t, { damped { configured := true } [] with tasks := [t], vers := [(0, l)], gone := [(0, [5])] })
def named (l : List VSlot) : Bool :=
  let x := naming l
  (namedTiles x.1).any (fun y => x.2.stepGone y.1 y.2)
/-- LaunchAndPlacement, launches: a block of one thread and one with a reserved bit; the last entries of a die; a hold that is over,
one that is not and a step that is gone; versions to publish and to free. -/
theorem test_hyp_launch : offeredTo (launching 0) = true ∧ offeredTo (launching 8) = false ∧
    (({ launching 0 with dies := [(0, { admits := [1], entries := 4095 })], tasks := [aTask 1 .admitted] } : State).task 1) = some (aTask 1 .admitted) ∧
    4095 + (aTask 1 .admitted).entries ≤ 4096 ∧ holdMet (onCore []) (aTask 1 .held) = true ∧
    named [.published 1 6, .free, .free, .free] = true ∧ named [.published 1 5, .published 2 6, .free, .free] = false ∧
    holdMet (naming [.published 1 4, .free, .free, .free]).2 (naming []).1 = false ∧
    holdMet (naming [.published 1 5, .free, .free, .free]).2 (naming []).1 = true ∧
    ((takeRecords { onCore [] with parts := [(0, { pooled := true, pbase := word (va 0) })] } 0 (aTask 1 .held).threads).1.isSome) = true ∧
    (aTask 1 .ended).st = .ended ∧ (aTask 1 .ended).retired = false ∧ ([VSlot.opened 1 0].any (fun v => match v with
      | .opened b _ => decide (b < 1)
      | _ => false)) = false ∧ VSlot.published 2 0 ∈ [VSlot.published 1 0, .published 2 0] ∧
    (aTask 1 .running).st ≠ .ended ∧ ({ aTask 1 .ended with retired := true } : Task).retired = true ∧
    (∀ u ∈ [aTask 1 .ended, aTask 2 .ended], u.st = .ended) := by decide +kernel
/-- A ready record at VA 64. -/
def readyEnt (sk : Option Nat) (g : Option Nat) (r : Nat) : ReadyEnt :=
  { rcd := word (va r), acc := 1, lin := 0, taskid := 1, prio := 2, since := 0, rise := 0, stoker := sk, core := none, cl := none, gang := g, marked := false }
def queued (l : List ReadyEnt) (s : State) : State := { s with parts := [(0, { ready := l })] }
def pinned (a prio : Nat) : Task := { aTask a .running with prio := prio, pin := some (0, some 0), levels := [(0, 1)] }
/-- Core 0 is full with continuations of task 2 of priority 0, while a record of task 1 of priority 2 waits for it. -/
def crowded : State :=
  let t : Thread := { running (regsOf []) with cont := { acc := 2 } }
  { queued [readyEnt none none 64] (onCore []) with
    cur := va 64, now := 2 ^ 14, threads := [(0, t), (1, t), (2, t), (3, t)], tasks := [pinned 1 2, pinned 2 0] }
def least (s : State) (e : ReadyEnt) : Option Hart :=
  (leastBy (fun (a b : (Nat × Nat × Nat) × Hart) =>
    if a.1.1 ≠ b.1.1 then a.1.1 < b.1.1
    else if a.1.2.1 ≠ b.1.2.1 then a.1.2.1 < b.1.2.1
    else a.1.2.2 < b.1.2.2) (s.threads.filterMap (fun x => (victim s (pinned 1 2) e x.1).map (fun v => (v, x.1))))).map Prod.snd
/-- A thread that OVERDUE has ended, its trap record written; its task has another record. -/
def overdueLeft : State :=
  { withMe (onCore []) (fun t => { t with run := .retiring, cont := { acc := 1, rcd := word (va 64) } }) with
    tasks := [{ aTask 1 .running with recs := [(word (va 64), 0), (word (va 128), 0)] }] }
/-- LaunchAndPlacement, placement: nothing to pick and one to pick with its record; a condition that is met; a level below 7 after
2^16 cycles; a victim; a deadline that has come. -/
theorem test_hyp_placement : nextPick (onCore []) 0 = none ∧
    (let s := put (queued [readyEnt (some 0) none 64] (onCore [])) (stackKey 0 0 (64 + 39)) 1 1
     nextPick s 0 = some (readyEnt (some 0) none 64, .some [(readyEnt (some 0) none 64, 12288)]) ∧
     (placeable s (readyEnt (some 0) none 64)).isSome = true ∧
     (recordOf s 0 (word (va 64))).map recStatus = some 1 ∧
     (recordOf s 0 (word (va 64))).map (fun r => r.extractLsb' 448 64) = some 0#64) ∧
    (let w : WaitEnt := { rcd := word (va 64), counter := 0, thresh := 0, met := true, ent := readyEnt none none 64 }
     [w].find? (fun w => w.rcd.toNat == va 64 && w.met) = some w) ∧
    (queued [readyEnt none none 64] (onCore [])).readyOf (va 64) = some (0, readyEnt none none 64) ∧ (readyEnt none none 64).level < 7 ∧
    (readyEnt none none 64).since + ((readyEnt none none 64).rise + 1) * 2 ^ 16 ≤ 65536 ∧
    crowded.task 1 = some (pinned 1 2) ∧ 2 ≤ (readyEnt none none 64).prio ∧ (readyEnt none none 64).since + 2 ^ 14 ≤ crowded.now ∧
    placeable crowded (readyEnt none none 64) = none ∧ (readyEnt none none 64).asked = none ∧ (readyEnt none none 64).stoker = none ∧
    (∀ x ∈ waitingGangs crowded, (readyEnt none none 64).gang = some x.1 → gangPlaceFor crowded x.1 x.2 = none) ∧
    (withMe (onCore []) (fun t => { t with mark := some 0 })).me.live = true ∧ (onCore []).now = 0 ∧ least crowded (readyEnt none none 64) = some 0 ∧
    (crowded.thread 0).savemode = none ∧ (crowded.thread 0).gang = none ∧
    (withMe (onCore []) (fun t => { t with mark := some 0 })).me.mark = some 0 ∧ overdueLeft.me.run = .retiring ∧
    (∀ r ∈ (overdueLeft.part 0).traps, r.retire ≠ some (0, overdueLeft.me.cont)) ∧ (overdueLeft.drain 0).blocked 0 = false ∧
    (overdueLeft.drain 0).job 0 = none ∧ (overdueLeft.drain 0).runJob 0 (word (va 64)) = none ∧
    ((overdueLeft.drain 0).task 1).map Task.recs = some [(word (va 64), 0), (word (va 128), 0)] := by decide +kernel
/-- LaunchAndPlacement: the record at VA 64, at a placement and at the end of an overdue thread. -/
theorem test_hyp_placement_key : (overdueLeft.drain 0).recordKey 0 (word (va 64)) (stackKey 0 0 64) ∧
    (readRecord (queued [readyEnt (some 0) none 64] (onCore [])) 0 (word (va 64))).2.recordKey 0 (word (va 64)) (stackKey 0 0 64) :=
  ⟨recordKey_of (by decide +kernel) (by decide +kernel) (by decide +kernel) (by decide +kernel),
    recordKey_of (by decide +kernel) (by decide +kernel) (by decide +kernel) (by decide +kernel)⟩
/-- Harts 0 and 4 wait at GANG 2. -/
def grouping : State :=
  let t : Thread := { running (regsOf []) with wait := .gang 2 }
  { onCore [] with threads := [(0, t), (4, t)] }
/-- A gang of two waits whole in the ready queue. -/
def gangWaits : State :=
  { queued [readyEnt none (some 1) 64, { readyEnt none (some 1) 128 with lin := 1 }] (onCore []) with
    threads := [], tasks := [{ aTask 1 .ready with levels := [(1, 2)] }]
    gangs := [(1, some { members := [], recs := [word (va 64), word (va 128)], cl := 0, acc := 1, head := 0, next := 0, todo := []
                         vals := (0, 0), released := [] })] }
/-- LaunchAndPlacement, gangs. -/
theorem test_hyp_gangs : (formedGroups grouping 0).head? = some [0, 4] ∧ (grouping.cluster 0).drain = none ∧
    ({ grouping with clusters := [(0, { drain := some { cores := [], gang := 0 } })] } : State).cluster 0 ≠ {} ∧
    [0, 4].all (fun h => grouping.idleOn (hartCore h) == 3) = true ∧
    (formedGroups gangWaits 0).find? (fun g => g.all (fun h => gangWaits.idleOn (hartCore h) == 3)) = none ∧
    (match nextPick gangWaits 0 with
     | some (e, .gang 1 l 0 [0, 1]) => e == readyEnt none (some 1) 64 && l.length == 2
     | _ => false) = true ∧ rejoining gangWaits 0 = none ∧ drainers (onCore []) 0 = [] ∧
    (drainers grouping 0).map (fun d => d.2.2) = [(0, [0, 1])] ∧
    (({ grouping with clusters := [(0, { drain := some { cores := [0, 1], gang := 0 } })] } : State).cluster 0).drain
      = some { cores := [0, 1], gang := 0 } := by decide +kernel
/-- TrapQueue: no vector, a vector with a counter that is none, a full queue and one with a place. -/
def vectored (cnt head tail : Nat) : State :=
  put { onCore [] with cur := 0, parts := [(0, { traps := [{ data := 0 }], tvec := word (va 0x40) })] } (stackKey 0 0 0x40) 64
    (va 0x1000 + 6 * 2 ^ 68 + cnt * 2 ^ 128 + head * 2 ^ 192 + tail * 2 ^ 256)
def vectorAt (s : State) : Vec := bytesVec (((s.readVA 0 0 0x40 64).1).getD [])
theorem test_hyp_trap_queue : (({ onCore [] with cur := 0, parts := [(0, { traps := [{ data := 0 }] })] } : State).part 0).traps = [{ data := 0 }] ∧
    ((vectored (mkOA 0 10 8) 0 63).part 0).traps = { data := 0 } :: [] ∧ ((vectored (mkOA 0 10 8) 0 63).part 0).traps.map TrapRec.retire = [none] ∧
    isVA (0 : Word) = false ∧ isVA (word (va 0x40)) = true ∧
    ((vectored (mkOA 0 10 8) 0 63).readVA 0 0 0x40 64).1.isSome = true ∧
    vectorOk (onCore []) 0 (vectorAt (vectored (mkOA 0 10 8) 0 63)) = true ∧ vectorOk (onCore []) 0 (vectorAt (vectored (sp0 8) 0 63)) = false ∧
    (63 - 0 < 2 ^ 6 ∧ 2 ^ 6 ≤ 64 - 0) ∧
    ((vectored (mkOA 0 10 8) 0 63).writeVA grateHart 0 0 (0x1000 + 64 * 63) (vecBytes 0 0 64)).1 = true ∧
    ((vectored (mkOA 0 10 8) 0 63).writeVA grateHart 0 0 (0xFFC0 + 64) (vecBytes 0 0 64)).1 = false ∧
    ((onCore []).readVA 0 0 0x10000 64).1 = none ∧
    ((vectored (mkOA 0 10 8) 0 63).xlate 0 0 (0x1000 + 64 * 63) true true).1 = .ok (stackKey 0 0 (0x1000 + 64 * 63)) ∧
    ((vectored (mkOA 0 10 8) 0 63).xlate 0 0 (0x40 + 32) true true).1 = .ok (stackKey 0 0 (0x40 + 32)) ∧
    rangesMeet (stackKey 0 0 (0x1000 + 64 * 63)) 64 (stackKey 0 0 (0x40 + 32)) 8 = false ∧
    (overdueLeft.thread 0).run = .retiring ∧ (overdueLeft.thread 0).cont = overdueLeft.me.cont := by decide +kernel

/-- The controller runs image A, of which 7 is an operator; a request of 7. -/
def ruled : State := { onCore [] with threads := [], ctrl := { slotA := { operators := [7] }, active := some false } }
def asks (n : Nat) : Mgmt := { sender := 7, seq := BitVec.ofNat 64 n, verified := true }
/-- Management: a request that is granted and those that are not; the content of each kind at its limits. -/
theorem test_hyp_management : ruled.ctrl.grants (asks 1) = true ∧ ruled.ctrl.grants (asks 0) = false ∧
    ruled.ctrl.grants { asks 1 with verified := false } = false ∧ (mgmtOf (.preempt (asks 1) (.die 0))).isSome = true ∧
    ruled.hasPart 0 = true ∧ ruled.baseOk 0 (word (va 64)) = true ∧ (word (2 ^ 36 - 2 ^ 21)).toNat % 2 ^ 21 = 0 ∧ 2 ^ 36 - 2 ^ 21 < 2 ^ 36 ∧
    (BitVec.ofNat 256 (15 + va 64 * 2 ^ 64 + 64 * 2 ^ 128)).extractLsb' 4 60 = 0#60 ∧ 64 % 64 = 0 ∧
    pqOk { ruled with ctrl := { layout := [[0], [1, 2, 3]] } } (BitVec.ofNat 256 (1 + 1 * 2 ^ 3 + 2 ^ 16 + 240 * 2 ^ 25 + 16 * 2 ^ 33 + (va (2 * 2 ^ 54)) * 2 ^ 64)) = true ∧
    (BitVec.ofNat 256 (1 + 2 ^ 40)).extractLsb' 40 12 ≠ 0#12 ∧ (BitVec.ofNat 256 (1 + 2 ^ 40)).extractLsb' 1 15 = 0#15 ∧
    (let h : BitVec 128 := BitVec.ofNat 128 (va 64 + 65535 * 2 ^ 64 + 2 ^ 80)
     (h.extractLsb' 64 16).toNat + (h.extractLsb' 80 17).toNat ≤ 65536 ∧ vaStack (vaOf (h.extractLsb' 0 64)) / 2 = 0 ∧ h.extractLsb' 97 31 = 0#31) ∧
    (rangeOpen ruled 0 0 65536).1 = true ∧ (poolFree ruled 0).1 = true ∧ vaStack 0 = vaStack (0 + 65536 - 1) ∧
    layoutOk [[0, 1], [2, 3]] = true ∧ layoutOk [[0, 3], [1, 2]] = false ∧ (List.range 4).all (fun d => !Sys2Proof.Machine.stays ruled d) = true ∧
    ((onCore []).threads.map Prod.fst).Nodup ∧ PreTarget.concerns (.partition 0) 0 (onCore []).me.cont = true ∧
    FlashImage.valid {} 0 = true ∧ FlashImage.valid {} 1 = false := by decide +kernel
/-- Management: an accepted pool is written where its range is open. -/
theorem test_hyp_pool : (ruled.writeVA grateHart 0 0 0 (List.replicate 65536 0)).1 = true := by
  have h : (ruled.xlateRange 0 0 0 65536 true true).1.isOk = true := by decide +kernel
  rw [State.writeVA, List.length_replicate]
  split
  · rfl
  · rename_i e _ q; rw [q] at h; cases h
/-- The window 0 of partition 0 over the first page. -/
def windowed : State := { ruled with parts := [(0, { windows := [(0, { v := true, rd := true, wr := true, cnt := true, base := word (va 0), len := 65536 })] })] }
/-- PowerBootAndHost: a valid slot and none; the first and the last cluster at their times; a sample; requests that windows allow
and do not. -/
theorem test_hyp_power : ({} : Controller).validSlot false = true ∧ ({ slotA := { signed := false } } : Controller).validSlot false = false ∧
    (384 : Nat) - 1 < 384 ∧ (1 : Nat) + 2200 * 383 ≤ 842601 ∧ ruled.ctrl.active ≠ none ∧ ruled.ctrl.halted = false ∧
    ({ ruled with now := 110000 } : State).ctrl.sampleAt + 110000 ≤ 110000 ∧ (∃ x ∈ [104, 105], 105 ≤ x) ∧ ruled.ctrl.knows (asks 0) = true ∧
    ruled.ctrl.knows { asks 0 with sender := 8 } = false ∧ ruled.ctrl.image.isSome = true ∧ (CounterUnit.core 3071).exists' = true ∧
    (CounterUnit.core 3072).exists' = false ∧
    (hostPieces windowed 0 0 65528 8 .read).1 = some [(stackKey 0 0 65528, 0, 8)] ∧ (hostPieces windowed 0 0 65528 9 .read).1 = none ∧
    (hostPieces windowed 0 0 0 8 .write).1.isSome = true ∧ (hostPieces windowed 0 0 0 8 .counted).1.isSome = true ∧
    isOA (word (mkOA 0 10 8)) = true ∧ windowed.dieIn 0 (oaDie (mkOA 0 10 8)) = true ∧ oaOff (mkOA 0 10 8) % 8 = 0 ∧
    oaOff (mkOA 0 10 4) % 8 ≠ 0 := by decide +kernel

/-! ## Words written out from the manual

The heads, tails and line bytes below are the manual's own worked encodings, or are put together field by field from its layouts
where a comment says so. -/

/-- The bytes of the line of chapter 05, "Building a routine", lowest address first. -/
def tri5Line : Vec := bytesVec
  [0x87, 0x01, 0xA0, 0x0C, 0xC0, 0x04, 0xC6, 0x04, 0xA0, 0x18, 0xE1, 0x0C, 0x07, 0x64, 0x00, 0x2C,
   0, 0, 0, 0, 0, 0, 0, 0, 0, 0, 0, 0, 0, 0, 0, 0,
   0, 0, 0, 0, 0, 0, 0, 0, 0x06, 0x10, 0x2C, 0x00, 0x40, 0x00, 0x00, 0x00,
   0xC0, 0x80, 0x03, 0x00, 0x00, 0x30, 0x05, 0x00, 0x00, 0x00, 0x05, 0x00, 0x00, 0x00, 0x00, 0x00]

/-- The instruction in slot `k` of a line, if its head and tail are one. -/
def slotInstr (l : Vec) (k : Nat) : Option Instr := match lineSlot l k with
  | .ok (hd, tl) => (decode hd tl).toOption
  | .error _ => none

/-- Chapter 05: the seven heads of the line with their tails. -/
theorem test_line_slots :
    slotInstr tri5Line 1 = some (.li 5 5) ∧ slotInstr tri5Line 2 = some (.add 6 0 0) ∧ slotInstr tri5Line 3 = some (.add 6 6 5) ∧
    slotInstr tri5Line 4 = some (.loop 5 0 3) ∧ slotInstr tri5Line 5 = some (.liSh16 7 0x80C000000040) ∧
    slotInstr tri5Line 6 = some (.redSwap 7 6 16 5) ∧ slotInstr tri5Line 7 = some (.exit 0 0) := by decide +kernel
/-- R123: slot 8 lies above n; R120: a byte in the gap, a wrong TAILHW and a reserved header bit make the line malformed. -/
theorem test_line_malformed :
    lineSlot tri5Line 8 = .error .noSuchSlot ∧ lineSlot (tri5Line ||| 1#512 <<< 130) 1 = .error .gapNotZero ∧
    lineSlot (tri5Line ^^^ 0x20#512) 1 = .error .badLength ∧ lineSlot (tri5Line ||| 0x800#512) 1 = .error .badHeader ∧
    lineSlot 0#512 1 = .error .badHeader := by decide +kernel

/-- The examples of R187. -/
theorem test_decode_scalar :
    decode 0x0863 0x0000FFFF = .ok (.addi 3 3 0xFFFF) ∧ decode 0x0889 0x0006000C = .ok (.shri 4 9 12) ∧
    decode 0x1489 0x00432000 = .ok (.bext 4 9 8 3) ∧ decode 0x04E5 0x00C6 = .ok (.divz 7 5 6) ∧
    decode 0x0505 0x0106 = .ok (.remz 8 5 6) ∧
    -- SOP SUB 14 (SRA) and 24 (MOV), SOPI SUB 3 (XORI), SBIT SUB 0 (SEL: D 7, C 6) and 2 (BINS: POS 8, LENM1 3), from R127, R132, R133
    decode 0x04E5 0x01C6 = .ok (.sra 7 5 6) ∧ decode 0x04E5 0x0300 = .ok (.mov 7 5) ∧
    decode 0x08E5 0x00038000 = .ok (.xori 7 5 0x8000) ∧ decode 0x14A4 0x000000E6 = .ok (.sel 5 4 6 7) ∧
    decode 0x1489 0x00832000 = .ok (.bins 4 9 8 3) ∧ decode 0x10E5 0xFFFFFFF8 = .ok (.lea 7 5 0xFFFFFFF8) := by decide +kernel
/-- The examples of R191, R193, R205 and of chapter 08's worked routine. -/
theorem test_decode_control :
    decode 0x1885 0x20000023 = .ok (.bltz 4 5 1 3) ∧ decode 0x1C00 0x08000009 = .ok (.call 0 9) ∧
    decode 0x2002 0 = .ok .ret ∧ decode 0x2440 0x000C0003 = .ok (.rep 2 3 12) ∧ decode 0x3800 0x42 = .ok (.trap 0x42) ∧
    -- JREG B 0 and 1, SAFE k = 254 (A 7, B 30), EXIT of s9 to s10, WAITC s4 s5, CTL BRK and TRET s20, CRD and CWR, from R132
    decode 0x20A0 0 = .ok (.jmpr 5) ∧ decode 0x20A1 0 = .ok (.callr 5) ∧ decode 0x28FE 0 = .ok (.safe 254) ∧
    decode 0x2D22 0 = .ok (.exit 9 2) ∧ decode 0x3085 0 = .ok (.waitc 4 5) ∧ decode 0x3500 0 = .ok .brk ∧
    decode 0x3534 0 = .ok (.tret 20) ∧ decode 0x3CC6 0 = .ok (.crd 6 6) ∧ decode 0x4206 0 = .ok (.cwr 16 6) := by decide +kernel
/-- Chapter 09, "Encodings at a glance", and RED.SWAP of chapter 05. -/
theorem test_decode_memory :
    decode 0x44C7 0x000E0010 = .ok (.ld 6 7 14 16) ∧ decode 0x5924 0x00710008 = .ok (.stl 9 4 17 8 3) ∧
    decode 0x4C67 0x00000040 = .ok (.ldv 3 7 64) ∧ decode 0x614B 0x001431AC = .ok (.amoCas 10 11 12 13 16 2) ∧
    decode 0x6405 0x00106C06 = .ok (.redFmax 5 6 1 2) ∧ decode 0x6A95 0x002C42F6 = .ok (.putc 20 21 22 23 17 5) ∧
    decode 0x6D09 0x0010016A = .ok (.apnd 8 9 10 11 2) ∧ decode 0x5CC7 0 = .ok (.afence 6 7) ∧
    decode 0x70C7 0 = .ok (.warm 6 7) ∧ decode 0x7509 0 = .ok (.qpop 8 9) ∧
    decode 0x6407 0x002C1006 = .ok (.redSwap 7 6 16 5) := by decide +kernel
/-- The examples of R128, R238, R240, R242, R244 and R247 (modifier word 0x3048: ABS2, CLAMP 1, MASK 3). -/
theorem test_decode_vector :
    decode 0x7844 0x304800010005 = .ok (.vadd 2 4 5 1 0x3048) ∧ decode 0x7885 0x000000010CE6 = .ok (.vfma 4 5 6 7 1 0) ∧
    decode 0x7843 0x0000052F3800 = .ok (.vshrImm 2 3 5 15 0) ∧ decode 0x7C43 0x000000410004 = .ok (.vcmp 2 3 4 2 1 0) ∧
    decode 0x80C5 0x000021220000 = .ok (.vcvt 6 5 2 1 1 1 0) ∧ decode 0x8122 0x000000040403 = .ok (.vqnt 9 2 3 4 0) ∧
    decode 0x8861 0x0022 = .ok (.mand 3 1 2) ∧ decode 0x88C3 0x0080 = .ok (.mpop 6 3) ∧
    -- VLANE SUB 4 with AUX 2 (VRED.MAX.s32 s7, v3) and SUB 2 (VINS.z16 v4, s5, s6), from R127 and R245
    decode 0x84E3 0x0000004E1000 = .ok (.vredMax 7 3 14 0) ∧ decode 0x8485 0x0000000D0806 = .ok (.vins 4 5 6 13) := by decide +kernel
/-- The examples of R248, R278 and R282. -/
theorem test_decode_streams_matrix :
    decode 0x8F06 0 = .ok (.sbind 24 6) ∧ decode 0x8F07 0x0040 = .ok (.sskip 24 7) ∧ decode 0x8F00 0x0020 = .ok (.sunb 24) ∧
    decode 0x904A 0x000FFFFF0020018B = .ok (.mma 2 10 11 12 true false 0 63 127 127) ∧
    decode 0x90A0 0x0000000000000800 = .ok (.mzero 5 false 0) ∧
    decode 0x904E 0x00003FFF002211E0 = .ok (.mstt 2 14 15 2 true false 0 127 127) ∧
    decode 0x9400 0 = .ok (.mwait 0) ∧ decode 0x9489 0x0020 = .ok (.mfab 4 9) ∧ decode 0x94C1 0x0042 = .ok (.mchk 6 2 1) := by
  decide +kernel
/-- The examples of R292 and R314. -/
theorem test_decode_stoker :
    decode 0x9900 0 = .ok (.xpush 8) ∧ decode 0x9906 0x0020 = .ok (.xpushb 6 8) ∧ decode 0x9CC3 0 = .ok (.xwaitDone 3 6) ∧
    decode 0x9CE3 0x0040 = .ok (.xwaitFill 3 7) ∧ decode 0x9C03 0x0060 = .ok (.xresume 3) ∧ decode 0x9C03 0x0080 = .ok (.xcancel 3) ∧
    decode 0x9D23 0x00A0 = .ok (.xstat 9 3) ∧ decode 0x9D23 0x00E0 = .ok (.xstatFill 9 3) ∧
    -- DLD of .z64 s6, [s7+16] and DST of v3 (TYPE 0), from R127, R132 and R315
    decode 0xA0C7 0x00110010 = .ok (.dld 6 7 17 16) ∧ decode 0xA467 0x00000040 = .ok (.dstVector 3 7 64) := by decide +kernel
/-- The examples of R323, R326 and R340. -/
theorem test_decode_hearth :
    decode 0xACA6 0x0007 = .ok (.htload 5 6 7) ∧ decode 0xACA6 0x0020 = .ok (.hmode 5 6) ∧ decode 0xAC06 0x0047 = .ok (.ired 6 7) ∧
    decode 0xACA6 0x0067 = .ok (.hcmd 5 6 7) ∧ decode 0xACA6 0x0087 = .ok (.hovl 5 6 7) ∧
    decode 0xA8A6 0x0060 = .ok (.tqIntp 5 6) ∧ decode 0xA8A6 0x0047 = .ok (.tqPair 5 6 7) ∧
    decode 0xB0A6 0x00018003 = .ok (.rowadd 5 6 1 3) ∧ decode 0xB0A6 0x00000001 = .ok (.rowld 5 6 1) ∧
    decode 0xB0A6 0x00004001 = .ok (.rowst 5 6 1) := by decide +kernel
/-- The tables of R359, R393 and R411. -/
theorem test_decode_kindling_flue_damper :
    decode 0xB405 0 = .ok (.knwin 5) ∧ decode 0xB4C7 0x0020 = .ok (.kndly 6 7) ∧ decode 0xB403 0x0040 = .ok (.knmode 3) ∧
    decode 0xB485 0x0060 = .ok (.knlaunch 4 5) ∧ decode 0xB485 0x0080 = .ok (.kncapt 4 5) ∧ decode 0xB509 0x00A0 = .ok (.knfirst 8 9) ∧
    decode 0xB400 0x00C0 = .ok .knreset ∧ decode 0xB4C0 0x00E0 = .ok (.knstat 6) ∧
    decode 0xB8A6 0 = .ok (.ttload 5 6 0) ∧ decode 0xB807 0x0420 = .ok (.ttarm 7 1) ∧ decode 0xB900 0x0800 = .ok (.bar 8 0) ∧
    decode 0xB92A 0x00280C0B = .ok (.fsend 9 10 11 5) ∧ decode 0xB980 0x1060 = .ok (.frecv 12 3) ∧
    decode 0xB9AE 0x0028160F = .ok (.msred 13 14 15 16 5) ∧ decode 0xB9AE 0x00301A0F = .ok (.xorred 13 14 15 16 6) ∧
    decode 0xB9AE 0x00281E0F = .ok (.facc 13 14 15 16 5) ∧
    decode 0xBCA6 0x0007 = .ok (.gcfg 5 6 7) ∧ decode 0xBCA6 0x0507 = .ok (.gacc 5 6 7 8) ∧ decode 0xBD20 0x0807 = .ok (.gtest 9 7) ∧
    decode 0xBD20 0x0C07 = .ok (.gstep 9 7) ∧ decode 0xBD4B 0x1007 = .ok (.gbind 10 7 11) ∧ decode 0xBD20 0x1427 = .ok (.gdrop 9 7 1) := by
  decide +kernel
/-- R134: what is no instruction, one of each kind. -/
theorem test_decode_refused :
    decode 0x0000 0 = .error .unassignedMajor ∧ decode 0xC000 0 = .error .unassignedMajor ∧
    decode 0x04E5 0x0320 = .error .unassignedSub ∧ decode 0x04E5 0x8000 = .error .reservedBit ∧
    decode 0x04E5 0x0301 = .error .unusedField ∧ decode 0x0CE2 0 = .error .unassignedSub ∧
    decode 0x0889 0x00060040 = .error .operandLimit ∧ decode 0x44C7 0x00070010 = .error .operandLimit ∧
    decode 0x5924 0x00F10008 = .error .operandLimit ∧ decode 0x7844 0x802000010005 = .error .operandLimit := by decide +kernel

/-! ## Ill-formed terms: one for each limit that `Instr.wellFormed` checks -/

/-- R133, R187: shift counts above 63 and fields that leave the word. -/
theorem test_wf_scalar :
    (Instr.shli 1 2 64).wellFormed = false ∧ (Instr.shri 1 2 64).wellFormed = false ∧ (Instr.srai 1 2 64).wellFormed = false ∧
    (Instr.bext 1 2 1 63).wellFormed = false ∧ (Instr.bins 1 2 32 32).wellFormed = false ∧
    (Instr.shli 1 2 63).wellFormed = true ∧ (Instr.bext 1 2 0 63).wellFormed = true := by decide
/-- R123: a relative target has a slot; R189: LOOP counts in a register other than s0. -/
theorem test_wf_branch :
    (Instr.beq 1 2 0 0).wellFormed = false ∧ (Instr.bne 1 2 0 0).wellFormed = false ∧ (Instr.blt 1 2 0 0).wellFormed = false ∧
    (Instr.bge 1 2 0 0).wellFormed = false ∧ (Instr.bltz 1 2 0 0).wellFormed = false ∧ (Instr.bgez 1 2 0 0).wellFormed = false ∧
    (Instr.loop 5 0 0).wellFormed = false ∧ (Instr.loop 0 0 3).wellFormed = false ∧ (Instr.jmp 0 0).wellFormed = false ∧
    (Instr.call 0 0).wellFormed = false := by decide
/-- R132: REP, SAFE, EXIT, GANG, FENCE, TRET, CRD and CWR. -/
theorem test_wf_control :
    (Instr.rep 0 1 0).wellFormed = false ∧ (Instr.rep 17 1 0).wellFormed = false ∧ (Instr.rep 1 1 32).wellFormed = false ∧
    (Instr.safe 255).wellFormed = false ∧ (Instr.exit 1 0).wellFormed = false ∧ (Instr.exit 1 5).wellFormed = false ∧
    (Instr.exit 0 1).wellFormed = false ∧ (Instr.exit 30 3).wellFormed = false ∧ (Instr.gang 1).wellFormed = false ∧
    (Instr.gang 9).wellFormed = false ∧ (Instr.fence 7).wellFormed = false ∧ (Instr.tret 0).wellFormed = false ∧
    (Instr.tret 31).wellFormed = false ∧ (Instr.crd 1 10).wellFormed = false ∧ (Instr.crd 1 15).wellFormed = false ∧
    (Instr.cwr 19 1).wellFormed = false := by decide
/-- R132, R133: TYPE and SCOPE of the memory instructions. -/
theorem test_wf_memory :
    (Instr.ld 1 2 1 0).wellFormed = false ∧ (Instr.st 1 2 18 0).wellFormed = false ∧ (Instr.lda 1 2 9 0 0).wellFormed = false ∧
    (Instr.lda 1 2 17 0 7).wellFormed = false ∧ (Instr.stl 1 2 17 0 7).wellFormed = false ∧ (Instr.stl 1 2 3 0 0).wellFormed = false ∧
    (Instr.amoAdd 1 2 3 13 0).wellFormed = false ∧ (Instr.amoXor 1 2 3 14 7).wellFormed = false ∧
    (Instr.amoFadd 1 2 3 2 0).wellFormed = false ∧ (Instr.amoCas 1 2 3 4 0 0).wellFormed = false ∧
    (Instr.redSwap 1 2 10 0).wellFormed = false ∧ (Instr.redFmax 1 2 14 0).wellFormed = false ∧
    (Instr.redAdd 1 2 14 7).wellFormed = false := by decide
/-- R222: PUTC with no data address carries no data; R225, R216. -/
theorem test_wf_messages :
    (Instr.putc 1 0 2 3 17 0).wellFormed = false ∧ (Instr.putc 1 2 3 4 0 0).wellFormed = false ∧
    (Instr.putc 1 2 3 4 17 7).wellFormed = false ∧ (Instr.apnd 1 2 3 4 7).wellFormed = false := by decide
/-- R129, R234, R237: the modifier word and the types of the arithmetic family. -/
theorem test_wf_vop :
    (Instr.vadd 1 2 3 4 0).wellFormed = false ∧ (Instr.vadd 1 2 3 1 0x8000).wellFormed = false ∧
    (Instr.vadd 1 2 3 1 0x0010).wellFormed = false ∧ (Instr.vmul 1 2 3 14 0x0100).wellFormed = false ∧
    (Instr.vmul 1 2 3 14 0x0040).wellFormed = false ∧ (Instr.vmul 1 2 3 14 0x00C0).wellFormed = true ∧
    (Instr.vfma 1 2 3 4 6 0).wellFormed = false ∧ (Instr.vdiv 1 2 3 14 0).wellFormed = false ∧
    (Instr.vsqrt 1 2 1 0x0004).wellFormed = false ∧ (Instr.vand 1 2 3 1 0).wellFormed = false ∧
    (Instr.vand 1 2 3 14 0x00C0).wellFormed = false ∧ (Instr.vshlImm 1 2 32 14 0).wellFormed = false ∧
    (Instr.vshrImm 1 2 8 10 0).wellFormed = false ∧ (Instr.vsraImm 1 2 64 16 0).wellFormed = false ∧
    (Instr.vsel 1 2 3 4 6 0).wellFormed = false ∧ (Instr.vmov 1 2 8 0).wellFormed = false := by decide
/-- R239 to R246. -/
theorem test_wf_vector :
    (Instr.vcmp 8 2 3 0 1 0).wellFormed = false ∧ (Instr.vcmp 1 2 3 6 14 0).wellFormed = false ∧
    (Instr.vcmp 1 2 3 7 1 0).wellFormed = false ∧ (Instr.vcmp 1 2 3 0 1 0x0040).wellFormed = false ∧
    (Instr.vclass 8 2 0 1 0).wellFormed = false ∧ (Instr.vclass 1 2 0 14 0).wellFormed = false ∧
    (Instr.vclass 1 2 0 1 1).wellFormed = false ∧ (Instr.vcvt 1 2 1 1 1 0 0).wellFormed = false ∧
    (Instr.vcvt 1 2 2 1 2 0 0).wellFormed = false ∧ (Instr.vcvt 1 2 2 1 1 5 0).wellFormed = false ∧
    (Instr.vcvt 1 2 8 1 0 0 0).wellFormed = false ∧ (Instr.vqnt 1 2 3 11 0).wellFormed = false ∧
    (Instr.vqnt 1 2 3 4 5).wellFormed = false ∧ (Instr.vdq 1 2 0 9 0).wellFormed = false ∧ (Instr.vdq 1 2 0 4 1).wellFormed = false ∧
    (Instr.vsplat 1 2 6 0).wellFormed = false ∧ (Instr.vsplat 1 2 1 1).wellFormed = false ∧ (Instr.vext 1 2 3 7).wellFormed = false ∧
    (Instr.vins 1 2 3 9).wellFormed = false ∧ (Instr.vperm 1 2 3 1 0x40).wellFormed = false ∧
    (Instr.vredAdd 1 2 4 0).wellFormed = false ∧ (Instr.vredMin 1 2 1 4).wellFormed = false ∧
    (Instr.vdot 1 2 3 5 0).wellFormed = false ∧ (Instr.vidx 1 2 1 0).wellFormed = false := by decide
/-- R130, R247, R248: mask registers and stream-bound vectors. -/
theorem test_wf_masks_streams :
    (Instr.mset 8 1).wellFormed = false ∧ (Instr.mand 1 8 2).wellFormed = false ∧ (Instr.mor 1 2 8).wellFormed = false ∧
    (Instr.mnot 8 1).wellFormed = false ∧ (Instr.mpop 1 8).wellFormed = false ∧ (Instr.sbind 23 1).wellFormed = false ∧
    (Instr.sunb 0).wellFormed = false ∧ (Instr.sskip 23 1).wellFormed = false := by decide
/-- R278, R281, R282. -/
theorem test_wf_matrix :
    (Instr.mma 8 1 2 3 false false 0 0 0 0).wellFormed = false ∧ (Instr.mma 1 1 2 3 false false 4 0 0 0).wellFormed = false ∧
    (Instr.mmas 1 1 2 3 true false 4 0 0 0).wellFormed = false ∧ (Instr.mzero 8 false 0).wellFormed = false ∧
    (Instr.mldt 1 1 2 4 false 0 0 0).wellFormed = false ∧ (Instr.mstt 1 1 2 6 false false 0 0 0).wellFormed = false ∧
    (Instr.mwait 4).wellFormed = false ∧ (Instr.mfab 8 1).wellFormed = false ∧ (Instr.mchk 1 8 0).wellFormed = false ∧
    (Instr.mchk 1 2 2).wellFormed = false := by decide
/-- R292, R311, R315. -/
theorem test_wf_stoker :
    (Instr.xpush 0).wellFormed = false ∧ (Instr.xpush 29).wellFormed = false ∧ (Instr.xpushb 1 29).wellFormed = false ∧
    (Instr.xwaitDone 16 1).wellFormed = false ∧ (Instr.xwaitRead 16 1).wellFormed = false ∧ (Instr.xwaitFill 16 1).wellFormed = false ∧
    (Instr.xresume 16).wellFormed = false ∧ (Instr.xcancel 16).wellFormed = false ∧ (Instr.xstat 1 16).wellFormed = false ∧
    (Instr.dld 1 2 0 0).wellFormed = false ∧ (Instr.dst 1 2 18 0).wellFormed = false := by decide
/-- R340, R352, R393, R411. -/
theorem test_wf_units :
    (Instr.rowadd 1 2 16 0).wellFormed = false ∧ (Instr.kncapt 3 3).wellFormed = false ∧ (Instr.knfirst 3 3).wellFormed = false ∧
    (Instr.ttload 1 2 2).wellFormed = false ∧ (Instr.ttarm 1 2).wellFormed = false ∧ (Instr.bar 1 2).wellFormed = false ∧
    (Instr.fsend 1 2 3 7).wellFormed = false ∧ (Instr.frecv 1 16).wellFormed = false ∧ (Instr.msred 1 2 3 4 7).wellFormed = false ∧
    (Instr.xorred 1 2 3 4 7).wellFormed = false ∧ (Instr.facc 1 2 3 4 7).wellFormed = false ∧ (Instr.gdrop 1 2 2).wellFormed = false := by
  decide

/-! ## Single steps

Each result is the manual's own worked value, or is worked out by hand from the rule named. -/

/-- Hart 0 at slot 1 of a line of eleven heads (header 0x028B, chapter 08). -/
def onLine (l : List (Nat × Nat)) : State :=
  let s := onCore l
  { s with mem := Memory.write s.mem (stackKey 0 0 0) [0x8B, 0x02] }
/-- Scalar register `d`, and the slot of the next head counted in half-words from VA 0, after an instruction. -/
def scalarOut (i : Instr) (l : List (Nat × Nat)) (d : Nat) : Option (Nat × Nat) :=
  (meOf (exec i (onLine l))).map (fun t => ((t.regs.getS (BitVec.ofNat 5 d)).toNat, (t.regs.pc.toNat - 2 ^ 63) / 2))
/-- 32-bit lanes, lowest first. -/
def lanes32 (l : List Nat) : Vec := l.foldr (fun x v => v <<< 32 ||| BitVec.ofNat 512 x) 0
def onLanes (l : List (Nat × List Nat)) : State :=
  withMe (onLine []) (fun t => { t with regs := l.foldl (fun r x => r.setV (BitVec.ofNat 5 x.1) (lanes32 x.2)) t.regs })
/-- The low `n` bits of vector register `d`, and FLAGS, after an instruction. -/
def vectorOut (i : Instr) (s : State) (d n : Nat) : Option (Nat × Nat) :=
  (meOf (exec i s)).map (fun t => ((t.regs.getV (BitVec.ofNat 5 d)).toNat % 2 ^ n, t.regs.ctl.flags.toNat))

/-- R183 and chapter 08, "calls and division by zero": 100 by 0 and by 7; slot 2 follows slot 1 (R122). -/
theorem test_divide :
    scalarOut (.divz 7 5 6) [(5, 100)] 7 = some (2 ^ 64 - 1, 2) ∧ scalarOut (.remz 8 5 6) [(5, 100)] 8 = some (100, 2) ∧
    scalarOut (.divz 7 5 6) [(5, 100), (6, 7)] 7 = some (14, 2) ∧ scalarOut (.remz 8 5 6) [(5, 100), (6, 7)] 8 = some (2, 2) := by
  decide +kernel
/-- Sums wrap (R181), BINS keeps the other bits (R187), s0 reads zero and discards writes. -/
theorem test_scalar :
    scalarOut (.add 5 5 5) [(5, 2 ^ 63 + 1)] 5 = some (2, 2) ∧ scalarOut (.addi 3 3 0xFFFF) [] 3 = some (2 ^ 64 - 1, 2) ∧
    scalarOut (.bins 4 9 8 3) [(4, 0xFFFF), (9, 0x35)] 4 = some (0xF5FF, 2) ∧
    scalarOut (.bext 4 9 8 3) [(9, 0x12345)] 4 = some (3, 2) ∧ scalarOut (.add 0 5 5) [(5, 7)] 0 = some (0, 2) := by decide +kernel
/-- R188, R189, R123: all ones against 1, signed and unsigned; slot 3 of the next line is half-word 35; a loop that goes on and
one that ends; chapter 08's CALL of slot 9 from slot 1. -/
theorem test_branches :
    scalarOut (.blt 5 6 1 3) [(5, 2 ^ 64 - 1), (6, 1)] 5 = some (2 ^ 64 - 1, 35) ∧
    scalarOut (.bltz 5 6 1 3) [(5, 2 ^ 64 - 1), (6, 1)] 5 = some (2 ^ 64 - 1, 2) ∧
    scalarOut (.loop 5 0 3) [(5, 2)] 5 = some (1, 3) ∧ scalarOut (.loop 5 0 3) [(5, 1)] 5 = some (0, 2) ∧
    scalarOut (.call 0 9) [] 1 = some (2 ^ 63 + 4, 9) := by decide +kernel

/-- Chapter 07, the table of binary32 to E4M3 under rne: 300 and 464; 465 plain and with :sat; 2^-10. -/
theorem test_vcvt :
    vectorOut (.vcvt 6 5 4 1 0 0 0) (onLanes [(5, [0x43960000, 0x43E80000])]) 6 16 = some (0x7E79, 16) ∧
    vectorOut (.vcvt 6 5 4 1 0 0 0) (onLanes [(5, [0x43E88000])]) 6 8 = some (0x7F, 20) ∧
    vectorOut (.vcvt 6 5 4 1 0 0 0x00C0) (onLanes [(5, [0x43E88000])]) 6 8 = some (0x7E, 32) ∧
    vectorOut (.vcvt 6 5 4 1 0 0 0) (onLanes [(5, [0x3A800000])]) 6 8 = some (0, 24) := by decide +kernel
/-- Chapter 10, the worked VQNT: 3.0, 0.1, -1.0 and a quiet NaN give bytes 7C 55 F0 7F and the scale byte 0x78. -/
theorem test_vqnt :
    (vectorOut (.vqnt 9 2 3 4 0) (onLanes [(2, [0x40400000, 0x3DCCCCCD, 0xBF800000, 0x7FC00000])]) 9 512).map (fun x =>
      (x.1 % 2 ^ 256, x.1 / 2 ^ 256 % 256, x.2)) = some (0x7FF0557C, 0x78, 16) := by decide +kernel
/-- R243: an infinity below every integer element becomes the largest negative one, and sets SAT. -/
theorem test_vqnt_floor :
    vectorOut (.vqnt 9 2 3 10 0) (onLanes [(2, [0xFF800000])]) 9 8 = some (0x81, 32) ∧
    vectorOut (.vqnt 9 2 3 8 0) (onLanes [(2, [0xFF800000])]) 9 4 = some (9, 32) := by decide +kernel
/-- Chapter 10, VDQ of that block: 3.0, 0.1015625, -1.0, the default NaN and zeros. -/
theorem test_vdq :
    (vectorOut (.vdq 10 9 0 4 0) (withMe (onLine []) (fun t => { t with regs := t.regs.setV 9 (BitVec.ofNat 512 (0x78 * 2 ^ 256 + 0x7FF0557C)) }))
      10 512).map (fun x => (BitVec.ofNat 512 x.1, x.2)) =
      some (lanes32 [0x40400000, 0x3DD00000, 0xBF800000, 0x7FC00000], 0) := by decide +kernel
/-- Chapter 16: 1.875 + 1.875 with :x128 is 480; R164: FMAX of -0 and +0 is +0, and FMIN is -0. -/
theorem test_vector :
    vectorOut (.vadd 8 4 4 1 0x0700) (onLanes [(4, [0x3FF00000])]) 8 32 = some (0x43F00000, 0) ∧
    vectorOut (.vmax 8 4 5 1 0) (onLanes [(4, [0x80000000]), (5, [0])]) 8 32 = some (0, 0) ∧
    vectorOut (.vmin 8 4 5 1 0) (onLanes [(4, [0x80000000]), (5, [0])]) 8 32 = some (0x80000000, 0) := by decide +kernel
/-- Chapter 07, the tree sum of 2^24, 1.0, 1.0 and -2^24 under a mask of four lanes is 1.0. -/
theorem test_vredadd :
    ((meOf (exec (.vredAdd 7 4 1 0x1000) (withMe (onLanes [(4, [0x4B800000, 0x3F800000, 0x3F800000, 0xCB800000])])
      (fun t => { t with regs := t.regs.setM 1 15 })))).map (fun t => (t.regs.getS 7).toNat)) = some 0x3F800000 := by decide +kernel

/-- Chapter 07, the worked EC8 block: its table, its 24 bytes and its 32 elements; with L = 36 it is bad and still 24 bytes long. -/
theorem test_ec8 :
    ec8Block [0, 0, 0, 0, 0, 3, 2, 1, 3, 0, 0, 0, 0, 0, 0, 0] false
      [0x25, 0, 0xC0, 0x20, 0, 0, 0, 0, 0, 0, 0, 0, 0, 0, 0, 0, 0, 0, 0xEB, 0, 0, 0, 0, 0] =
      (some ([0x40, 0xBC, 0x30, 0x2A] ++ List.replicate 28 0x38), 24) ∧
    ec8Block [0, 0, 0, 0, 0, 3, 2, 1, 3, 0, 0, 0, 0, 0, 0, 0] false
      [0x24, 0, 0xC0, 0x20, 0, 0, 0, 0, 0, 0, 0, 0, 0, 0, 0, 0, 0, 0, 0xEB, 0, 0, 0, 0, 0] = (none, 24) := by decide +kernel

/-- R347 by hand: inputs 2 and 5 with ticks 9 and 4 behind delays 1 and 6 both rise at 10; OR and AND capture 10 with first riser
2, in a window of 11 but not of 10; an AND output with no connection rises at 0 with no first riser, an OR output never. -/
def wired (modes : BitVec 128) : Kindling :=
  { modes := modes, delay := [(0, BitVec.allOnes 512 - BitVec.ofNat 512 (0xE * 2 ^ 8 + 0x9 * 2 ^ 20))] }
def ticks25 : List Nat := (List.replicate 128 255).set 2 9 |>.set 5 4
theorem test_window :
    outputOf (wired 0) ticks25 11 0 = (10, 2) ∧ outputOf (wired 1) ticks25 11 0 = (10, 2) ∧ outputOf (wired 1) ticks25 10 0 = (255, 255) ∧
    outputOf (wired 2) ticks25 11 1 = (0, 255) ∧ outputOf (wired 0) ticks25 11 1 = (255, 255) := by decide +kernel
/-- R92, R210: a loaded .s16 is sign-extended, a .z16 is zero-extended, bytes lowest first, an unaligned weak access is none of R66's faults; the word is loaded from cluster 0's own
scratchpad. -/
def onData (l : List (Nat × Nat)) : State :=
  let s := onLine l
  { s with mem := Memory.write s.mem (spadKey 0 64) [0x34, 0x82, 0x56] }
theorem test_load :
    (meOf (exec (.ld 6 5 12 64) (onData [(5, mkOA 0 0 0)]))).map (fun t => (t.regs.getS 6).toNat) = some (2 ^ 64 - 2 ^ 16 + 0x8234) ∧
    (meOf (exec (.ld 6 5 13 65) (onData [(5, mkOA 0 0 0)]))).map (fun t => (t.regs.getS 6).toNat) = some 0x5682 ∧
    (meOf (exec (.ld 6 5 13 2) (onData [(5, mkOA 0 0 64)]))).map (fun t => (t.regs.getS 6).toNat) = some 0x56 := by decide +kernel
/-- R70, R210: a store is buffered in its chunk, at most its own bytes; R26: TRAP suspends its thread set. -/
theorem test_store_trap :
    (meOf (exec (.st 6 5 15 8) (onLine [(5, mkOA 0 0 0), (6, 0x1122334455)]))).map (fun t => t.chunk.stores.map (fun w => (w.key, w.data))) =
      some [(mkOA 0 0 8, [0x55, 0x44, 0x33, 0x22])] ∧
    ((meOf (exec (.trap 0x42) (onLine []))).map (fun t => t.run)) ≠ some .running := by decide +kernel
/-- The digest of the empty message as FIPS 202 gives it, its first byte lowest. -/
theorem test_sha3_512 : vecBytes (sha3_512 []) 0 64 = (List.range 64).map (fun i => BitVec.ofNat 8
    (0xA69F73CCA23A9AC5C8B567DC185A756E97C982164FE25859E0D1DCC1475C80A615B2123AF1F5F94C11E3E9402C3AC558F500199D95B6D3E301758586281DCD26
      / 2 ^ (8 * (63 - i)))) := by decide +kernel
/-- R66, R198, R212: an offset of region 10 that no register has is misaligned first, for a counter's 8 bytes and a vector's 64. -/
theorem test_misaligned_region : (onCore []).counterTrap (word (mkOA 0 10 0x804)) = some .misalign ∧
    (onCore []).counterTrap (word (mkOA 0 10 0x808)) = some .window ∧
    (onCore []).accessTrap .weakLoad (word (mkOA 0 10 0x908)) 64 = some .misalign := by decide +kernel
/-- R302, R34: the thread set of a cancelled RUN job goes back to idle, or waits for the stores it has committed. -/
theorem test_cancel_run : (match exec (.xcancel 0) runCancelled with
    | .next t => ((t.thread 12288).run == .retiring || (t.thread 12288).run == .idle, (t.chan 0 0).st == .idle)
    | _ => (false, false)) = (true, true) := by decide +kernel
/-- R208: the action 2 of TRET on a parked hart queues its record with STATUS 1. -/
theorem test_return_parked : (match exec (.tret 5) { stopped .parked {} with tasks := [aTask 1 .running] } with
    | .next t => ((t.thread 4).run, (t.part 0).ready.map ReadyEnt.rcd, (t.byteAt (stackKey 0 0 (64 + 39))).toNat)
    | _ => (.running, [], 9)) = (.idle, [word (va 64)], 1) := by decide +kernel

/-! ## The assembler and the loader (chapter 06) -/

/-- Source lines of one file, assembled; the object when no error stands in it. -/
def sourceOf (l : List String) : List (Chars × List Chars) := [("a.s".toList, l.map String.toList)]
def asmOf (l : List String) : Wikel.Asm :=
  Wikel.assemble [] (expandLines Wikel.isMnemonic Wikel.isTaken [] [] 10000 [] 1 (numbered "a.s".toList ["a.s".toList] 0 (l.map String.toList))).lines
def codesOf (args : List String) (l : List String) : Nat × List (Nat × WikelCode) :=
  let o := Wikel.wikel (sourceOf l) (args.map String.toList)
  (o.status, o.diags.map (fun d => (d.line, d.code)))
def objectOf (l : List String) : List Byte := (asmOf l).object.bytes

/-- Chapter 05: the routine tri5 as the line of bytes that the manual prints; its header's ENTRY names slot 1. -/
def tri5 : List String :=
  ["        .text", "        .kernel tri5", "tri5:   LI      s5, 5                    // loop counter",
   "        ADD     s6, s0, s0               // sum := 0", "next:   ADD     s6, s6, s5", "        LOOP    s5, next",
   "        LI      s7, 0x80C0_0000_0040_0000 // stack 3, offset 0x40_0000", "        RED.SWAP.s64 [s7], s6, package", "        EXIT"]
theorem test_wikel_line :
    (asmOf tri5).text.data.map BitVec.toNat =
      [0x87, 0x01, 0xA0, 0x0C, 0xC0, 0x04, 0xC6, 0x04, 0xA0, 0x18, 0xE1, 0x0C, 0x07, 0x64, 0x00, 0x2C, 0, 0, 0, 0, 0, 0, 0, 0, 0, 0, 0, 0,
       0, 0, 0, 0, 0, 0, 0, 0, 0, 0, 0, 0, 0x06, 0x10, 0x2C, 0x00, 0x40, 0x00, 0x00, 0x00, 0xC0, 0x80, 0x03, 0x00, 0x00, 0x30, 0x05, 0x00,
       0x00, 0x00, 0x05, 0x00, 0x00, 0x00, 0x00, 0x00] ∧
    (asmOf tri5).object.relocs.map (fun r => (r.sect, r.type, r.offset, r.addend.toNat)) = [(1, 1, 0, 0)] := by decide +kernel
/-- R128: the worked modifier word; R237, R242: a shift by a constant, and a conversion with a part and a mode. -/
theorem test_wikel_vector :
    ((asmOf ["VADD.f32 v2:c01, v4, abs(v5), m3", "VSHR.z32 v2, v3, #5", "VCVT.bf16.f32 v6, v5, 1, rtz"]).placed.reverse.map
      (fun p => (encode p.instr).map (fun c => (c.1.toNat, c.2.toNat)))) =
      [some (0x7844, 0x304800010005), some (0x7843, 0x052F3800), some (0x80C5, 0x21220000)] := by decide +kernel
/-- R155: `result` at offset 0x40_0000 + 8 of stack 3 through %hi and %lo, and the load that an ABS48 of it ends. -/
def hiLo : List String := [".global result", " LI s7, %hi(result)", " ORI s7, s7, %lo(result)"]
def absolute48 : List String := [".global result", " LI s7, result"]
def resultAt8 : List String := [".data stack=3", ".global result", ".dword 0", "result: .dword 1"]
def loadOf (user : List String) : Except LoadErr (List (Word × Bool × List Byte)) :=
  linkFiles (fun k => k < 4) [objectOf user, objectOf resultAt8] [[0x80C0000000010000], [0x80C0000000020000, 0x80C0000000400000]]
theorem test_load_hi_lo :
    (match loadOf hiLo with
      | .ok ((_, t, b) :: _) => t && b.take 6 == [0xA2, 0x00, 0xE1, 0x0C, 0xE7, 0x08] &&
          b.drop 54 == [0x08, 0x00, 0x02, 0x00, 0x40, 0x00, 0x00, 0x00, 0xC0, 0x80]
      | _ => false) = true := by decide +kernel
theorem test_load_abs48 : loadOf absolute48 = .error (.reloc 0 0 4 0x80C0000000400008) := by decide +kernel
/-- R151 to R154: an object read back from its bytes. -/
theorem test_object_bytes : readObject (objectOf hiLo) = some (asmOf hiLo).object := by decide +kernel
/-- R364: the worked launch line. -/
theorem test_wikel_launch :
    let b := (asmOf [".data", ".global adam_kh",
      "adam_lb: .launch kernel=adam_kh, levels=0x0000:0x0023, prio=4, pin=0:5, save=0x2_8807_0340, stride=64"]).data.data
    (leNat ((b.drop 16).take 8), leNat ((b.drop 32).take 8), leNat ((b.drop 40).take 8), leNat ((b.drop 48).take 8), b.length) =
      (0x230000, 0x140441, 0x288070340, 64, 128) := by decide +kernel
/-- R433: constants of `.f32`, and one whose rounding overflows. -/
theorem test_wikel_float :
    ["-1.5", "0x1.8p3", "0x7F80_0000", "inf", "2.5e-3"].map (fun s => (floatBits (fmtOf 1) s.toList).toOption) =
      [some 0xBFC00000, some 0x41400000, some 0x7F800000, some 0x7F800000, some 0x3B23D70A] ∧
    (floatBits (fmtOf 1) "1e39".toList).toOption = none := by decide +kernel
/-- R138, R140, R145, R146, R434: one line for each error. -/
theorem test_wikel_errors :
    codesOf ["a.s"] [" FOO s1", " ADD.f32 s1, s2, s3", " VADD v1, v2, v3", " VADD.f32 v1, v2", " VADD.s32 v1:c01, v2, v3", " JMP 5",
        "x: NOP", "x: NOP", " .dword 1", " LI s1, 4 / 0", " LI s1, %oa(4, 0, 0, 0)", " .align 32", " AMO.ADD.s32 s1, [s2+8], s3, die"] =
      (1, [(1, .err 2), (2, .err 2), (3, .err 3), (4, .err 1), (5, .err 4), (6, .err 5), (8, .err 6), (9, .err 11), (10, .err 1),
           (11, .err 14), (12, .err 11), (13, .err 3)]) := by decide +kernel
/-- A line of its number alone, and heads 2 bytes apart, each with its target. -/
def lineNum (n : Nat) : SrcLine := { file := [], num := n, text := [], chain := [], depth := 0 }
def progOf (l : List (Instr × Option Nat)) : Wikel.Prog :=
  l.zipIdx.map (fun x => { off := 2 * x.2, instr := x.1.1, target := x.1.2, line := lineNum (x.2 + 1) })
/-- A kernel at offset 0 with one safe point of line 9, whose live registers are s5. -/
def safeAt5 (save rest : Nat) : Wikel.KernelInfo :=
  { name := [], hdr := 0, entry := some 0, first := 0, line := lineNum 9
    safes := [{ k := 0, save := some save, rest := some rest, liveS := 0x20, liveV := 0, liveM := 0, line := lineNum 9 }] }
def reported (l : List Diag) : List (Nat × WikelCode) := l.map (fun d => (d.line, d.code))
/-- R148, R149: a bound register named by DLD, a loop without a suspension point, a live register that is not saved, and one that
is. -/
theorem test_wikel_paths :
    (let p := progOf [(.sbind 24 5, none), (.dldVector 24 6 0, none), (.beq 1 2 0 3, some 4), (.exit 0 0, none)]
     reported (Wikel.checkStreams p [0] [0, 1, 2, 3]) = [(2, .err 8)] ∧ reported (Wikel.checkLoops p 4096 [0, 1, 2, 3]) = [(3, .warn 1)] ∧
     reported (Wikel.checkRuns p 4096 [0] [0, 1, 2, 3]) = [] ∧ reported (Wikel.checkRuns p 2 [0] [0, 1, 2, 3]) = [(1, .warn 1)]) ∧
    reported (Wikel.checkAll (progOf [(.safe 0, none), (.exit 0 0, none), (.saved, none), (.ld 5 2 17 0, none), (.jmp 0 2, some 2)]) 4096
      [safeAt5 4 6]) = [(9, .err 10)] ∧
    reported (Wikel.checkAll (progOf [(.safe 0, none), (.exit 0 0, none), (.st 5 2 17 0, none), (.saved, none), (.ld 5 2 17 0, none),
      (.jmp 0 2, some 2)]) 4096 [safeAt5 4 8]) = [] := by decide +kernel
/-- R137, R150: W03 for a remote party, suppressed and turned into an error; a bad option leaves the source unread. -/
def oneSend : List String :=
  [".data", ".timetable dwait=100, party=0:5:1:0:0:1, party=remote:3:1:1, entry=0:send:0:1:1, entry=4:copy:0:0:1"]
theorem test_wikel_options :
    codesOf ["a.s"] oneSend = (0, [(2, .warn 3)]) ∧ codesOf ["-Wno-03", "a.s"] oneSend = (0, []) ∧
    codesOf ["-Werror", "a.s"] oneSend = (1, [(2, .warn 3)]) ∧ codesOf ["-stepping=A1", "a.s"] oneSend = (2, []) := by decide +kernel
/-- R146, R210, R434: a TYPE suffix on LDV breaks two rows of the table. -/
theorem test_wikel_suffix : codesOf ["a.s"] [" LDV.f32 v1, [s5 + 0]"] = (1, [(1, .err 2), (1, .err 3)]) := by
  decide +kernel

/-! ## Waits, refused targets and orders of traps -/

/-- A channel of core 1 fills 64 bytes of the scratchpad of core 0 from `o` on and has filled none of them. -/
def fills (o : Nat) (s : State) : State :=
  s.setCore 1 { chans := [(0, { st := .active, guard := some (sp0 o, 64, 64, 1), fwm := word (sp0 o) })] }
/-- A COPY that is to write its mailbox at scratchpad 0x400; its record is at VA 64. -/
def mailed (st : JobSt) : Job := { jobOf 0 with w0 := BitVec.ofNat 64 (sp0 0x400 * 2 ^ 16 + 2 ^ 12), st := st }
/-- The parked hart of `stopped` holds that job, faulted. -/
def faultedJob : State :=
  { withChan { st := .faulted } [] (stopped .parked {}) with jobs := [(4, some (mailed .parked))] }
/-- A hob unit whose command has its mailbox there. -/
def mailedHob : State :=
  (onHob []).setStack 0 { (onHob []).stack 0 with hobs := [(0, { cmd := some { waitingCmd 1 1 with mbox := some (word (sp0 0x400)) } })] }
/-- SystemControl, Suspension, TrapReturn, CopyJobs, CopyRequests, LaunchAndPlacement: the mailbox record meets an unfilled destination,
or none. -/
theorem test_hyp_mailbox :
    (fills 0x400 mailedHob).released.hobWaits 13824 = true ∧ mailedHob.released.hobWaits 13824 = false ∧ (fills 0x400 mailedHob).mayRelease = true ∧
    (fills 0x400 (onJob (mailed (.done 1 0 0)))).endWaits (mailed (.done 1 0 0)) = true ∧
    (onJob (mailed (.done 1 0 0))).endWaits (mailed (.done 1 0 0)) = false ∧
    (fills 0x400 faultedJob).released.recordWaits 0 (word (va 64)) = true ∧ faultedJob.released.recordWaits 0 (word (va 64)) = false ∧
    (fills 0x400 faultedJob).mayRelease = true ∧ faultedJob.released.job 4 = some (mailed .parked) ∧ faultedJob.released.gangOf 4 = none ∧
    faultedJob.released.chanJob 0 0 = some (4, mailed .parked) ∧ (faultedJob.released.chan 0 0).st = .faulted ∧
    (fills 0x400 faultedJob).released.cancelWaits 0 0 = true ∧ faultedJob.released.cancelWaits 0 0 = false ∧
    (let s : State := { inTask [] with jobs := [(16384, some { mailed .waiting with rcd := word (va 4096) })] }
     (fills 0x400 s).released.recordWaits 0 (fills 0x400 s).released.me.cont.rcd = true ∧ s.released.recordWaits 0 s.released.me.cont.rcd = false) ∧
    (overdueLeft.drain 0).recordWaits 0 (word (va 64)) = false := by decide +kernel
/-- TrapReturn and CopyRequests: the record of the job at VA 64. -/
theorem test_hyp_job_key : faultedJob.released.recordKey 0 (word (va 64)) (stackKey 0 0 64) ∧
    (readRecord faultedJob.released 0 (word (va 64))).2.recordKey 0 (word (va 64)) (stackKey 0 0 64) :=
  ⟨recordKey_of (by decide +kernel) (by decide +kernel) (by decide +kernel) (by decide +kernel),
    recordKey_of (by decide +kernel) (by decide +kernel) (by decide +kernel) (by decide +kernel)⟩
/-- MessagesAccepted, CounterMessages, AppendLaw, FencesAndQueues: a page that is held, one that does not translate, and a redirect to
the hart's own stack, to another and out of the partition. -/
theorem test_hyp_targets : (targetWalk (pageHeld (onCore [])) 0 (word (va 0)) true).1 = .held ∧
    (targetWalk (onCore []) 0 (word (va 0x10000)) true).1 = .bad ∧ (targetWalk (onCore []) 0 (word (va 0x10000)) false).1 = .bad ∧
    (targetWalk (queueAt 0 0 0 0).released 0 (word (va 0x10040)) true).1 = .bad ∧
    (redirected 12288 0).redirectOf 0 0 8 true = some 0 ∧ (redirected 12288 0).stackIn 0 0 = true ∧ hartStack 12288 = 0 ∧
    (redirected 12288 1).redirectOf 0 0 8 true = some 1 ∧ (redirected 12288 1).stackIn 0 1 = true ∧
    ({ redirected 12288 2 with ctrl := { layout := [[0], [1, 2, 3]] } } : State).redirectOf 0 0 8 true = some 2 ∧
    (onCore []).accessTrap .plain (word (sp0 0x7BFFC)) 8 = some .misalign ∧ (onCore []).accessTrap .plain (word (mkOA 0 0 0x1000000)) 32 = some .window ∧
    isOA (word (2 ^ 40)) = false ∧ kindOf (onStoker []).cur ≠ .core := by decide +kernel
/-- Streams: an arrival stream with the entry that a skip asks for and without; a pop of an element read ahead, of one that is not, and of
one that a copy still fills. -/
theorem test_hyp_skips : (bound (arrivalStream 0) (arrived [{ kind := .payload, data := 1 }] (onCore [(5, 1)]))).me.regs.binding 24 = some (arrivalStream 0) ∧
    (arrivalStream 0).arrival = true ∧ (arrivalStream 0).skip = 0 ∧ (onCore [(5, 1)]).rs 5 = 1 ∧
    (((bound (arrivalStream 0) (arrived [{ kind := .payload, data := 1 }] (onCore [(5, 1)]))).core 0).arrivals 0).filter
      (fun e => e.taken.isNone || e.taken == some 0) ≠ [] ∧ ((onCore []).core 0).arrivals 0 = [] ∧
    (lineStream false 2 0).pos < (lineStream false 2 0).total ∧ (bound (lineStream false 2 0) (onCore [])).me.replay = [] ∧
    ({ lineStream false 2 0 with fetched := [1] } : Binding).fetched = 1 :: [] ∧ (lineStream false 2 0).fetched = [] ∧
    (let b : Binding := { lineStream false 2 0 with base := sp0 0 }
     (bound b (onCore [])).held 0 (b.elem 0) 64 = false ∧ (bound b (fills 0 (onCore []))).held 0 (b.elem 0) 64 = true) := by decide +kernel
/-- HearthCommands: a mailbox in neither form, a page of the command that is held and one that does not translate, on a stoker. -/
theorem test_hyp_unread : mailboxTrap (onStoker []) (word (2 ^ 40)) = some .window ∧ kindOf (onStoker []).cur ≠ .core ∧ isVA (word (2 ^ 40)) = false ∧
    ((pageHeld (onStoker [])).xlate 0 0 0 false).1 = .held ∧ ((onStoker []).xlate 0 0 0x10000 false).1 = .bad ∧
    ((commandAt (onStoker []) (word (va 0x40))).map (fun x => x.2.mayRelease)) = some true ∧
    ((commandAt (onCore []) (word (sp0 0x40))).map (fun x => x.2.mayRelease)) = some true ∧
    ({ onCore [] with ctrl := { layout := [[1, 2, 3], [0]] } } : State).stackIn 0 (selStack (word 0x20000)) = false := by decide +kernel
/-- Packets: a group of an MSRED that is not its last. -/
def msred (l : List Vec) : State := { carrying (.reduce 5 (sp0 0) 0 none l) with arg := 1 }
theorem test_hyp_msred : meets (msred [0, 0, 0, 0]) (itemOf (.reduce 5 (sp0 0) 0 none [0, 0, 0, 0])) = true ∧ (msred []).arg ≠ 0 ∧
    (msred []).guarded (sp0 0) 192 = false ∧ (∀ j, j < 192 → plainKey (sp0 j) = true) := by decide +kernel
/-- LaunchAndPlacement: version 1 of tile 0 is superseded by version 3; a live task is bound to it, a held one would bind it, or neither. -/
def versions (l : List Task) : State :=
  { onCore [] with vers := [(0, [.published 1 5, .published 3 6, .free, .free])], tasks := aTask 3 .ended :: l }
theorem test_hyp_versions : VSlot.published 3 6 ∈ (versions []).vslots 0 ∧ (versions []).cur = 0 ∧ (versions []).arg = 0 ∧
    (0, 0) ∈ ({ aTask 2 .running with bound := [(0, 0)] } : Task).bound ∧ TaskSt.running.live = true ∧
    bindSlot (versions []) { aTask 2 .held with reads := [(0, 1)] } 0 = some 0 ∧
    ((versions []).task (((((versions []).vslots 0).filterMap VSlot.pubAcc).max?).getD 0)).map (fun w => w.die) = some (aTask 2 .held).die := by
  decide +kernel

/-- The codes of the traps of partition 0 that an answer leaves. -/
def trapsOf (o : Result) : List Nat := ((stateOf o).part 0).traps.map (fun r => (r.data.extractLsb' 0 8).toNat)
/-- R57, R112, R113, R208, R210, R230, R334: on a stoker's hart a word that is in neither form is PAGE for a DLD, WINDOW for TRET, QPOP and
the mailbox of an IRED, which comes before a PAGE for its command. -/
theorem test_window_orders : trapsOf (exec (.dld 3 5 17 0) (onStoker [(5, 2 ^ 40)])) = [11] ∧
    trapsOf (exec (.tret 5) (onStoker [(5, 2 ^ 40 + 1)])) = [4] ∧ trapsOf (exec (.qpop 3 5) (onStoker [(5, 2 ^ 40)])) = [4] ∧
    trapsOf (exec (.ired 5 6) (onStoker [(5, va 0x10000), (6, 2 ^ 40)])) = [4] ∧
    trapsOf (exec (.ired 5 6) (onStoker [(5, va 0x10000)])) = [11] := by decide +kernel
/-- R123, R124: a line that no page holds is WINDOW on a stoker's hart too. -/
theorem test_fetch_window : trapsOf (step { withMe (onStoker []) (fun t => { t with regs := { t.regs with pc := word (va 0x10002) } }) with
    agenda := [.issue 12288] }) = [4] := by decide +kernel
/-- R61, R66, R212, R214: a 64-byte access that runs from a gap of a window into a register is misaligned; an AMO of 4 bytes and an append
descriptor in a window are WINDOW. -/
theorem test_window_touch : (onCore []).accessTrap .weakLoad (word (mkOA 0 0 0x1001FF0)) 64 = some .misalign ∧
    (onCore []).accessTrap .rmw (word (mkOA 0 0 0x1000004)) 4 = some .window ∧
    (onCore []).accessTrap .plain (word (mkOA 0 0 0x1000020)) 32 = some .window := by decide +kernel
/-- R253: a skip of two takes the one entry that is there and waits for the other. -/
theorem test_skip_arrival :
    (let t := stateOf (exec (.sskip 24 5) (bound (arrivalStream 0) (arrived [{ kind := .payload, data := 1 }] (onCore [(5, 2)]))))
     (((t.core 0).arrivals 0).map ArrEntry.taken, (t.me.regs.binding 24).map Binding.skip)) = ([some 0], some 1) := by decide +kernel
/-- R304, R289, R208: XRESUME, and the action 1 of TRET on the record, make the channel ACTIVE and leave the record queued, STATUS 1. -/
theorem test_resume_job : ([exec (.xresume 0) faultedJob, exec (.tret 5) faultedJob].all (fun o =>
    let t := stateOf o
    (t.chan 0 0).st == .active && (t.thread 4).run == .idle && (t.part 0).ready.map ReadyEnt.rcd == [word (va 64)] &&
      t.byteAt (stackKey 0 0 (64 + 39)) == 1#8 && (t.runJob 0 (word (va 64))).any (fun x => x.2.st == .moving))) = true := by decide +kernel
/-- R392, R397 by hand: one sample at 1.0 and one at 3.0 give n = 2, mean 2.0 and M2 = 2.0. -/
theorem test_msred :
    (let l : List Vec := [lanes32 [0x3F800000], lanes32 [0x40400000], 0, 0]
     let s := put (put (msred l) (sp0 0) 4 0x3F800000) (sp0 64) 4 0x3F800000
     let t := stateOf (exec .packetReduceArrival s)
     (t.readAt (sp0 0) 4, t.readAt (sp0 64) 4, t.readAt (sp0 128) 4)) = (0x40000000, 0x40000000, 0x40000000) := by decide +kernel
/-- R370: a version that nobody is bound to or wants is freed, one that a held task would bind is kept. -/
theorem test_version_free : ((stateOf (exec .versionSlotFree (versions []))).vslots 0)[0]? = some .free ∧
    ((stateOf (exec .versionSlotFree (versions [{ aTask 2 .held with reads := [(0, 1)] }]))).vslots 0)[0]? = some (.published 1 5) := by
  decide +kernel
/-- R130, R146: a register number past its limit is E03 however many digits it has. -/
theorem test_wikel_registers :
    codesOf ["a.s"] [" ADD s100, s1, s2", " MSET m100, s1", " ADD s32, s1, s2"] = (1, [(1, .err 3), (2, .err 3), (3, .err 3)]) := by
  decide +kernel

/-! ## Redirects, tokens, statistics and ends -/

/-- The hob unit of pseudo-channel 0 has executed 2^28 heads of its command. -/
def spent : State :=
  { onHob [] with cur := 0, dram := [(0, { up := true, tlb := [pageAt 0], hobs := [(0, { cmd := some (waitingCmd 1 1), executed := 2 ^ 28 })] })] }
/-- HobUnits, FormsComplete: the unit's chunk can commit. -/
theorem test_hyp_budget : spent.cur < 768 ∧ (spent.hob spent.cur).cmd ≠ none ∧ 2 ^ 28 ≤ (spent.hob spent.cur).executed ∧
    ({ spent with cur := 13824 + spent.cur } : State).mayEnd = true ∧ (spent.commit 13824).hobWaits 13824 = false := by decide +kernel
/-- R339: the command ends and its unit is idle. -/
theorem test_budget : (let t := stateOf (exec .hobBudgetExhausted spent)
    ((t.hob 0).cmd.isNone, (t.hob 0).executed, (t.thread 13824).run)) = (true, 0, .idle) := by decide +kernel

/-- A stoker's hart whose first page its slice redirects to stack 1. -/
def moved : State := withMe (redirected 12288 1) (fun t => { t with regs := { t.regs with pc := codePc } })
/-- StepRunsDecoded, StepOtherTurns, HearthCommands: the fetch, a command or a descriptor meets a redirect, or none. -/
theorem test_hyp_moved : moved.fetchMoves 12288 codePc = some 1 ∧ (onStoker []).fetchMoves 12288 codePc = none ∧ (onCore []).fetchMoves 0 codePc = none ∧
    moved.movesTo (word (va 0x40)) 64 = some 1 ∧ moved.movesTo (word (va 0x40)) 32 = some 1 ∧ (onStoker []).movesTo (word (va 0x40)) 64 = none := by
  decide +kernel
/-- R305: the fetch, IRED and HTLOAD move the hart. -/
theorem test_fetch_moves : (meOf (step { moved with agenda := [.issue 12288] })).map Thread.wait = some (.redirect 1) := by decide +kernel
theorem test_command_moves :
    (meOf (exec (.ired 5 0) (moved.setRegs (regsOf [(5, va 0x40)])))).map Thread.wait = some (.redirect 1) ∧
    (meOf (exec (.htload 3 5 6) (moved.setRegs (regsOf [(5, va 0x40)])))).map Thread.wait = some (.redirect 1) := by decide +kernel

/-- The leader of a gang of harts 0 and 4 has been squashed eight times; hart 4 has `n` heads to commit. -/
def dueGang (n : Nat) : State :=
  let s := withMe (ganged 0 []) (fun t => { t with squashes := 8 })
  s.setThread 4 { running (regsOf []) with gang := some 1, chunk := { begun := regsOf [], executed := n } }
/-- R72, R202: the leader waits for its member's chunk, then holds the token, and no other chunk commits. -/
theorem test_gang_token : (dueGang 1).tokenDue 0 = true ∧ gangTurn (dueGang 1) 0 = false ∧ tokenEnds (dueGang 1) 4 = true ∧
    (dueGang 1).tokenFree 4 = true ∧ gangTurn (dueGang 0) 0 = true ∧ (takeToken (dueGang 0) 0).tokenOf 0 = some 0 ∧
    (takeToken (dueGang 0) 0).tokenFree 4 = false := by decide +kernel

/-- R61, R253: a skip that has taken no entry keeps no count, and no store lands while it waits. -/
theorem test_skip_waits :
    (let t := stateOf (exec (.sskip 24 5) (bound (arrivalStream 0) (onCore [(5, 2)])))
     ((t.me.regs.binding 24).map Binding.skip, atBoundary t.me)) = (some 0, false) := by decide +kernel

/-- A load of tile 0 whose first element has become infinite, tagged for hart 0; that hart runs, with an MNF pending or none. -/
def overflows : MEntry := { zeroCmd 1 0 (.writeback 0) with instr := .mldt 0 5 7 1 false 0 0 0, mmnf := true, res := [0x7F800000], base := [0] }
def mnfLeft (m : Option MnfRec) : State := withMe (matrixUnit [] [overflows] (onCore [])) (fun t => { t with mnf := m })
def someMnf : MnfRec := { head := 0, tail := 0, row := 0, col := 0, tile := 0, fmta := 0, fmtb := 0, fmtc := 0 }
/-- MatrixCompletion. -/
theorem test_hyp_mnf : firstNonfinite overflows = some 0 ∧ overflows.names 0 = true ∧
    ((mnfLeft none).cluster 0).granted.find? (written? 0) = some overflows ∧ writeGuarded (mnfLeft none) overflows = false ∧
    (mnfLeft none).me.run = .running ∧ (mnfLeft none).me.cont.rcd = overflows.rcd ∧ (mnfLeft none).me.cont.gen = overflows.gen ∧
    (mnfLeft (some someMnf)).me.mnf = some someMnf ∧ someMnf.after ≤ (mnfLeft (some someMnf)).me.chunk.executed ∧
    (mnfLeft (some someMnf)).me.pend = [] ∧ (mnfLeft (some someMnf)).me.chunk.ended = false := by decide +kernel
/-- R277, R113: the write-back leaves MNF for its hart, or counts it; the hart takes the trap at its next head. -/
theorem test_mnf : ((stateOf (exec .matrixWriteback (mnfLeft none))).me.mnf.map MnfRec.tile) = some 0 ∧
    Tab.get 0 ((stateOf (exec .matrixWriteback (mnfLeft (some someMnf)))).cluster 0).stat cMnf = 1 ∧
    trapsOf (step { mnfLeft (some someMnf) with agenda := [.issue 0] }) = [6] := by decide +kernel

/-- R329, the manual's table of T[4] = 0.5 and T[5] = 0.4375 in binary32 with IEN, and its five indices. -/
def ramp (policy : Nat) : HTable := { smallTable policy with entries := 6, ien := true, ifmt := 1, dflt := 0 }
def ramped (policy : Nat) : State :=
  put (hearth { htabs := [(3, some (ramp policy))] }) (stackKey 0 0 16) 8 (0x3F000000 + 0x3EE00000 * 2 ^ 32)
def interp (policy : Nat) : List Nat × Option Nat :=
  let r := answerQuery (ramped policy) { queryTo 3 none with va := 0x0580_0500_0440 }
  ((List.range 3).map (laneOf 32 ((r.1.1[0]?).getD 0)), r.1.2)
theorem test_interpolate : interp 0 = ([0x3EF80000, 0x3EE00000, 0x3EE00000], none) ∧ interp 1 = ([0x3EF80000, 0x3EE00000, 0], none) ∧
    interp 2 = ([0x3EF80000, 0x3EE00000, 0], some 3) := by decide +kernel
/-- TableQueries. -/
theorem test_hyp_interpolate : Tab.get none ((ramped 2).stack 0).htabs 3 = some (ramp 2) ∧ (queryTo 3 none).form = 3 ∧ (ramp 2).ien = true ∧
    (smallTable 0).ien = false := by decide +kernel

/-- R302: a resumed REDUCE that is queued with a command out ends behind it. -/
def queuedReduce : State :=
  { withChan { st := .active } [] (onCore []) with jobs := [(16384, some { jobOf 3 with st := .moving, cmds := [7] })] }
theorem test_hyp_cancel : (queuedReduce.released.chanJob 0 0).map Prod.fst = some 16384 ∧ queuedReduce.mayRelease = true ∧
    (queuedReduce.released.chan 0 0).st = .active ∧ queuedReduce.released.cancelWaits 0 0 = false := by decide +kernel
theorem test_cancel_reduce : (((stateOf (exec (.xcancel 0) queuedReduce)).job 16384).map Job.st) = some (.done 2 4 0) := by decide +kernel
/-- R70, R331: what the hearth writes counts against the open chunk of the command's own hart. -/
theorem test_mailbox_squash :
    (let s := withMe (onCore []) (fun t => { t with chunk := { t.chunk with executed := 1, rlines := [lineOf (sp0 0x40)] } })
     let t := stateOf (exec .hobCommandRun { queueOf [{ waitingCmd 1 1 with mbox := some (word (sp0 0x40)) }] s with cur := 0 })
     (t.thread 0).chunk.overlaps) = true := by decide +kernel

/-- RoundEntries, LaunchAndPlacement: STATUS, and a tile set, of which a copy has filled nothing. -/
def ending : State := running' 1 (pairImage 1 1 4) { next := 1, doneAt := 92, t := 92, desc := sp0 0x100 }
def tiled : State := put (put (launching 0) (stackKey 0 0 0x80 + 36) 1 1) (stackKey 0 0 0x80 + 56) 8 (sp0 0x200)
theorem test_hyp_filling : (fills 0x100 ending).guarded (((fills 0x100 ending).port 1).desc + 16) 8 = true ∧
    ending.guarded ((ending.port 1).desc + 16) 8 = false ∧
    tileSetWaits (fills 0x200 tiled) { lb := word (va 0x80), part := 0, group := none } = true ∧
    tileSetWaits tiled { lb := word (va 0x80), part := 0, group := none } = false := by decide +kernel
theorem test_status_waits : ((stateOf (exec .roundComplete (fills 0x100 ending))).port 1).st = .running ∧
    ((stateOf (exec .roundComplete ending)).port 1).st = .loaded := by decide +kernel

/-- R30: a record with STATUS 0 is not placed. -/
def blank64 : State := queued [readyEnt (some 0) none 64] (onCore [])
theorem test_bad_record : nextPick blank64 0 = some (readyEnt (some 0) none 64, .some [(readyEnt (some 0) none 64, 12288)]) ∧
    (recordOf blank64 0 (word (va 64))).map recStatus = some 0 ∧ (readRecord blank64 0 (word (va 64))).2.runJob 0 (word (va 64)) = none ∧
    ((stateOf (exec .pickup blank64)).part 0).traps.length = 1 ∧ Tab.get 0 ((stateOf (exec .pickup blank64)).part 0).stat pBadRecord = 1 ∧
    ((stateOf (exec .pickup blank64)).thread 12288).run = .idle := by decide +kernel
/-- R414: a bad step word, a group that no damper owns, a step that a slot holds, one below every slot, and no published step. -/
def binds (l : List VSlot) (n : Nat) : Nat :=
  (gbindWord { damped { configured := true, step := 6, tiles := 0 } [] with vers := [(0, l)] } 3 (word n)).toNat
theorem test_gbind : trapsOf (exec (.gbind 3 6 7) (damped {} [(7, 2 ^ 32)])) = [1] ∧ trapsOf (exec (.gbind 3 5 7) (damped {} [(5, 4)])) = [4] ∧
    binds [.published 1 5, .published 2 6] (2 ^ 64 - 1) = 3 + 2 ^ 16 + 6 * 2 ^ 32 ∧ binds [.published 1 5, .published 2 6] 5 = 3 + 2 ^ 16 + 5 * 2 ^ 32 ∧
    binds [.published 1 5, .published 2 6] 4 = 2 ^ 64 - 1 ∧ binds [.free] (2 ^ 64 - 1) = 2 ^ 64 - 1 ∧ binds [.published 1 5] 7 = 2 ^ 64 - 1 := by
  decide +kernel
/-- R409: another agent's bytes where the statistics stand in memory change no test: mean 1.0 twice gives the ratio +∞. -/
theorem test_statistics :
    (let s := damped { active := true, nel := 1, n := 0x40000000, theta := 0x7F800000, stats := word (va 0x2000), vals := [(0x3F800000, 0)] } []
     ((stateOf (exec (.gtest 3 6) (put s (stackKey 0 0 0x2000) 4 0x7FC00000))).group 3).snr) = 0x7F800000 := by decide +kernel

/-- R116, R117: a vector that reads 0 is declared with QLOG2 6; a slot that has no page raises LOST. -/
theorem test_fresh_vector : (let s := stateOf (exec .trapVectorDeclare { ruled with inbox := [.trapVector (asks 1) 0 (word (va 64))] })
    (s.readAt (stackKey 0 0 72) 8, (s.part 0).tvec)) = (96, word (va 64)) := by decide +kernel
def slotless : State := put (vectored (mkOA 0 10 8) 0 0) (stackKey 0 0 0x40) 8 (va 0x10000)
theorem test_hyp_slotless : vectorOk slotless 0 (vectorAt slotless) = true ∧
    (slotless.writeVA grateHart 0 0 0x10000 (vecBytes 0 0 64)).1 = false ∧ (slotless.readVA 0 0 (0x40 + 40) 8).1 = some (leBytes 8 0) ∧
    ((slotless.writeVA grateHart 0 0 0x10000 (vecBytes 0 0 64)).2.xlate 0 0 (0x40 + 40) true true).1 = .ok (stackKey 0 0 0x68) ∧
    (ruled.readVA 0 0 64 64).1 = some (List.replicate 64 0) ∧ (ruled.xlate 0 0 72 true true).1 = .ok (stackKey 0 0 72) := by decide +kernel
theorem test_slot_lost : (stateOf (exec .trapQueueWrite slotless)).readAt (stackKey 0 0 0x68) 8 = 1 := by decide +kernel

/-- R24, R399: dies 1 to 3 join die 0 in one partition; scratchpads of the moved are reset, and a range that meets another is withdrawn. -/
def joined : State :=
  let s : State := { ruled with ctrl := { ruled.ctrl with layout := [[0], [1, 2, 3]] }, dies := [(0, { gfirst := 3, gcount := 2 }), (1, { gfirst := 4, gcount := 2 })]
                                inbox := [.layout (asks 1) [[0, 1, 2, 3]]] }
  put (put s (mkOA 96 0 0) 1 5) (stackKey 0 2 0) 1 6
theorem test_layout :
    (let t := stateOf (exec .partitionLayout joined)
     (t.ctrl.layout, t.byteAt (mkOA 96 0 0), t.byteAt (stackKey 0 2 0), (t.die 1).gcount, (t.die 0).gcount)) = ([[0, 1, 2, 3]], 0, 6, 0, 2) ∧
    resetKey 1 (mkOA 96 0 0) = true := by decide +kernel

/-- R165, R85: bytes of an EC8 row behind its last block are not read; those of a block are. -/
theorem test_ec8_reads : (fills 0x40 (onCore [])).ec8Guarded 0 1 (sp0 0) 128 = false ∧ (fills 0 (onCore [])).ec8Guarded 0 1 (sp0 0) 128 = true := by
  decide +kernel
/-- R149, R195: a REP in the body of a LOOP of ten passes counts with all its passes. -/
theorem test_wikel_loop_rep :
    (let body (n : BitVec 16) := progOf [(.li 5 10, none), (.rep 1 n 0, none), (.nop, none), (.loop 5 0 0, some 2), (.exit 0 0, none)]
     ((reported (Wikel.checkLoops (body 500) 4096 [0, 1, 2, 3, 4])).length, (reported (Wikel.checkLoops (body 4) 4096 [0, 1, 2, 3, 4])).length)) =
      (1, 0) := by decide +kernel
end Sys2Proof.Tests
end

section
/-! SUPPORT. What DIV, REM, DIVZ and REMZ compute (R183), what LOOP does and where it stands in the opcode map (R123, R189), and what
TRAP raises (R205). -/

namespace Sys2Proof

/-! ## Heads and tails as numbers (R125, R127) -/

theorem ofNat_mkHead (m : BitVec 6) (a b : Reg) :
    BitVec.ofNat 16 (m.toNat * 2 ^ 10 + a.toNat * 2 ^ 5 + b.toNat) = mkHead m a b := by
  have hm := m.isLt; have ha := a.isLt; have hb := b.isLt
  apply BitVec.eq_of_toNat_eq
  simp only [mkHead, BitVec.toNat_ofNat, toNat_join]
  omega

theorem ofNat_tailB (c : BitVec 3) (d : BitVec 22) (k : BitVec 5) :
    BitVec.ofNat 64 (c.toNat * 2 ^ 27 + d.toNat * 2 ^ 5 + k.toNat) = TailB.bits ⟨0, c, d, k⟩ := by
  have hc := c.isLt; have hd := d.isLt; have hk := k.isLt
  apply BitVec.eq_of_toNat_eq
  simp only [TailB.bits, BitVec.toNat_ofNat, BitVec.toNat_setWidth, toNat_join, BitVec.ofNat_eq_ofNat, Nat.zero_mod]
  omega

theorem tailI_imm (imm : BitVec 16) : TailI.bits ⟨0, 0, imm⟩ = imm.setWidth 64 := by
  have h := imm.isLt
  apply BitVec.eq_of_toNat_eq
  simp only [TailI.bits, BitVec.toNat_setWidth, toNat_join, BitVec.ofNat_eq_ofNat, BitVec.toNat_ofNat]
  omega

/-! ## TRAP and LOOP in the opcode map (R189, R205) -/

theorem encode_trap (imm : BitVec 16) : encode (.trap imm) = some (0x3800, imm.setWidth 64) :=
  congrArg (fun tail => some (0x3800, tail)) (tailI_imm imm)

theorem decodeFields_loop (a b : Reg) (d : BitVec 22) (k : BitVec 5) :
    decodeFields 0x06 a b (TailB.bits ⟨0, 6, d, k⟩) = if b = 0 then .ok (.loop a d k) else .error .unusedField := by
  simp [decodeFields, decBr, fields]

/-- LOOP is an instruction when B = 0 and neither the counter nor the slot entered is number 0; every other field is taken. -/
theorem decode_loop (a b : Reg) (d : BitVec 22) (k : BitVec 5) :
    decode (mkHead 0x06 a b) (TailB.bits ⟨0, 6, d, k⟩) =
      if b = 0 then (if a ≠ 0 ∧ k ≠ 0 then .ok (.loop a d k) else .error .operandLimit) else .error .unusedField := by
  rw [decode, Head.major_mkHead, Head.fieldA_mkHead, Head.fieldB_mkHead, decodeFields_loop]
  by_cases hb : b = 0
  · simp [hb, Instr.wellFormed]
  · simp only [if_neg hb]

end Sys2Proof

namespace Sys2Proof.Machine

/-! ## Scalar registers (R86) -/

@[simp] theorem Regs.getS_setS_self (r : Regs) {n : Reg} (hn : n ≠ 0#5) (w : Word) : (r.setS n w).getS n = w := by
  simp only [Regs.getS, Regs.setS, if_neg hn]
  exact Vector.getElem_set_self n.isLt
@[simp] theorem Regs.setS_pc (r : Regs) (n : Reg) (w : Word) : (r.setS n w).pc = r.pc := by
  unfold Regs.setS; split <;> rfl
@[simp] theorem State.me_setMe (s : State) (t : Thread) : (s.setMe t).me = t := State.thread_setThread_self ..
@[simp] theorem State.me_ws (s : State) (n : Reg) (w : Word) : (s.ws n w).me = { s.me with regs := s.me.regs.setS n w } :=
  State.me_setMe ..
@[simp] theorem State.rs_ws_self (s : State) {n : Reg} (hn : n ≠ 0#5) (w : Word) : (s.ws n w).rs n = w := by
  simp [State.rs, hn]

/-! ## Division (R183) -/

@[simp] theorem divS_zero (a : Word) : divS a 0#64 = BitVec.allOnes 64 := rfl
@[simp] theorem divU_zero (a : Word) : divU a 0#64 = BitVec.allOnes 64 := rfl
@[simp] theorem remS_zero (a : Word) : remS a 0#64 = a := rfl
@[simp] theorem remU_zero (a : Word) : remU a 0#64 = a := rfl

theorem divS_eq_sdiv (a : Word) {b : Word} (hb : b ≠ 0) : divS a b = a.sdiv b := by
  apply BitVec.eq_of_toInt_eq
  rw [divS, if_neg hb, BitVec.toInt_ofInt, BitVec.toInt_sdiv]

theorem remS_eq_srem (a : Word) {b : Word} (hb : b ≠ 0) : remS a b = a.srem b := by
  rw [remS, if_neg hb, ← BitVec.toInt_srem, BitVec.ofInt_toInt]

theorem toNat_divU (a : Word) {b : Word} (hb : b ≠ 0) : (divU a b).toNat = a.toNat / b.toNat := by
  rw [divU, if_neg hb, ← BitVec.toNat_udiv, BitVec.ofNat_toNat, BitVec.setWidth_eq]

theorem toNat_remU (a : Word) {b : Word} (hb : b ≠ 0) : (remU a b).toNat = a.toNat % b.toNat := by
  rw [remU, if_neg hb, ← BitVec.toNat_umod, BitVec.ofNat_toNat, BitVec.setWidth_eq]

/-- The operands of the one signed quotient that does not fit: -2^63 and -1. -/
theorem overflow_operands {a b : Word} (ha : a.toInt = -2 ^ 63) (hb : b.toInt = -1) : a = BitVec.intMin 64 ∧ b = -1#64 :=
  ⟨BitVec.eq_of_toInt_eq ha, BitVec.eq_of_toInt_eq hb⟩

theorem divS_overflow {a b : Word} (ha : a.toInt = -2 ^ 63) (hb : b.toInt = -1) : (divS a b).toInt = -2 ^ 63 := by
  obtain ⟨rfl, rfl⟩ := overflow_operands ha hb
  rw [divS_eq_sdiv _ (by decide), BitVec.intMin_sdiv_neg_one, ha]

theorem remS_overflow {a b : Word} (ha : a.toInt = -2 ^ 63) (hb : b.toInt = -1) : remS a b = 0 := by
  obtain ⟨rfl, rfl⟩ := overflow_operands ha hb
  rfl

/-- Any other signed quotient fits, so it is exact. -/
theorem toInt_divS {a b : Word} (hb : b ≠ 0) (fits : ¬(a.toInt = -2 ^ 63 ∧ b.toInt = -1)) :
    (divS a b).toInt = a.toInt.tdiv b.toInt := by
  rw [divS_eq_sdiv a hb]
  apply BitVec.toInt_sdiv_of_ne_or_ne
  by_contra h
  simp only [not_or, not_not] at h
  obtain ⟨rfl, rfl⟩ := h
  exact fits ⟨rfl, rfl⟩

theorem toInt_remS (a : Word) {b : Word} (hb : b ≠ 0) : (remS a b).toInt = a.toInt - a.toInt.tdiv b.toInt * b.toInt := by
  rw [remS_eq_srem a hb, BitVec.toInt_srem, Int.tmod_def, Int.mul_comm]

/-! ## The instructions -/

theorem exec_div (rd rs1 rs2 : Reg) (s : State) :
    exec (.div rd rs1 rs2) s = .next (s.ws rd (divS (s.rs rs1) (s.rs rs2))).past := rfl
theorem exec_divz (rd rs1 rs2 : Reg) (s : State) :
    exec (.divz rd rs1 rs2) s = .next (s.ws rd (divU (s.rs rs1) (s.rs rs2))).past := rfl
theorem exec_rem (rd rs1 rs2 : Reg) (s : State) :
    exec (.rem rd rs1 rs2) s = .next (s.ws rd (remS (s.rs rs1) (s.rs rs2))).past := rfl
theorem exec_remz (rd rs1 rs2 : Reg) (s : State) :
    exec (.remz rd rs1 rs2) s = .next (s.ws rd (remU (s.rs rs1) (s.rs rs2))).past := rfl

theorem branch_of_taken {s : State} {b : Bool} (h : b = true) (d : BitVec 22) (k : BitVec 5) :
    branch s b d k = .next (s.goto s.cur (relPc s.me.regs.pc d k)) := if_pos h
theorem branch_of_not_taken {s : State} {b : Bool} (h : b = false) (d : BitVec 22) (k : BitVec 5) :
    branch s b d k = .next s.past := by rw [h]; rfl
theorem exec_loop (rs : Reg) (d : BitVec 22) (k : BitVec 5) (s : State) :
    exec (.loop rs d k) s = branch (s.ws rs (s.rs rs - 1)) (s.rs rs - 1 != 0) d k := rfl

theorem exec_trap (imm : BitVec 16) (s : State) :
    exec (.trap imm) s = takeTrapInfo s s.cur (trapHere s s.cur .trap 0 imm.toNat) := rfl

/-- A trap of a hart that can release parks it behind its committed chunk (R111, R114). -/
theorem takeTrapInfo_mayRelease (s : State) (i : TrapInfo) (h : s.mayRelease = true) (hk : kindOf s.cur ≠ .hob) :
    takeTrapInfo s s.cur i = .next (park s.ended s.cur i) := by
  simp only [State.mayRelease, Bool.and_eq_true, Bool.not_eq_true'] at h
  obtain ⟨ends, free⟩ := h
  simp [takeTrapInfo_mayEnd s i ends hk, free]

end Sys2Proof.Machine
end

section
/-! The statements about division, TRAP and LOOP (R183, R189, R205). -/

open Sys2Proof Sys2Proof.Machine

/-- Settles O2: quotient and remainder are the library's `sdiv` and `srem`, exact except where the quotient is 2^63. -/
theorem divideLaw : Obligations.DivideLaw := by
  intro rd rs1 rs2 s
  refine ⟨_, _, _, _, exec_div .., exec_rem .., exec_divz .., exec_remz .., ?zero, ?overflow, ?signed, ?unsigned⟩
  case zero => intro h; simp [h]
  case overflow => exact fun ha hb => ⟨divS_overflow ha hb, remS_overflow ha hb⟩
  case signed =>
    intro hb fits
    have quotient := toInt_divS hb fits
    exact ⟨quotient, by rw [quotient, toInt_remS _ hb]⟩
  case unsigned =>
    intro hb
    have quotient := toNat_divU (s.rs rs1) hb
    exact ⟨quotient, by rw [quotient, toNat_remU _ hb, Nat.mod_eq_sub_div_mul]⟩

/-- Settles O12: TRAP takes the trap TRAP at its own head, and the trap parks a hart that can release. -/
theorem trapInstruction : Obligations.TrapInstruction := by
  intro imm s
  refine ⟨encode_trap imm, exec_trap imm s, rfl, rfl, fun hk release => ?_⟩
  rw [exec_trap, takeTrapInfo_mayRelease s _ release hk]

/-- Settles O5: LOOP is a branch on its counter less one, read back from the register it was written to. -/
theorem loopCountsDown : Obligations.LoopCountsDown := by
  intro rs b d k s hk hd tl u
  have word : decode hd tl = decode (mkHead 0x06 rs b) (TailB.bits ⟨0, 6, d, k⟩) :=
    congrArg₂ decode (ofNat_mkHead 0x06 rs b) (ofNat_tailB 6 d k)
  rw [decode_loop] at word
  refine ⟨fun ha hb => ?_, fun h => ?_, fun ha => ?_⟩
  · rw [word, if_pos hb, if_pos ⟨ha, hk⟩]
  · rw [word]
    by_cases hb : b = 0
    · have ha : ¬(rs ≠ 0 ∧ k ≠ 0) := fun both => h.elim both.1 (absurd hb)
      exact ⟨.operandLimit, by rw [if_pos hb, if_neg ha]⟩
    · exact ⟨.unusedField, if_neg hb⟩
  · have counter : u.rs rs = s.rs rs - 1 := State.rs_ws_self s ha _
    rw [counter, exec_loop]
    refine ⟨rfl, fun zero => by rw [zero]; rfl, fun more => ?_, fun last => ?_⟩
    · rw [branch_of_taken (bne_iff_ne.2 more), State.me_ws, Regs.setS_pc, State.ws_cur]
    · exact branch_of_not_taken (by rw [last]; rfl) d k

end

section
/-! SUPPORT. The decoder reads back what the encoder packs, and answers encoded rows only (R125 to R135). -/

namespace Sys2Proof

/-! ## The opcode map, one equation for each major that has a decoder of its own (R132) -/

theorem decodeFields_sop (a b : Reg) (tl : Tail) : decodeFields 0x01 a b tl = decSop a b tl := rfl
theorem decodeFields_sopi (a b : Reg) (tl : Tail) : decodeFields 0x02 a b tl = decSopi a b tl := rfl
theorem decodeFields_li (a b : Reg) (tl : Tail) : decodeFields 0x03 a b tl = decLi a b tl := rfl
theorem decodeFields_sbit (a b : Reg) (tl : Tail) : decodeFields 0x05 a b tl = decSbit a b tl := rfl
theorem decodeFields_br (a b : Reg) (tl : Tail) : decodeFields 0x06 a b tl = decBr a b tl := rfl
theorem decodeFields_jump (a b : Reg) (tl : Tail) : decodeFields 0x07 a b tl = decJump a b tl := rfl
theorem decodeFields_jreg (a b : Reg) (tl : Tail) : decodeFields 0x08 a b tl = decJreg a b := rfl
theorem decodeFields_rep (a b : Reg) (tl : Tail) : decodeFields 0x09 a b tl = decRep a b tl := rfl
theorem decodeFields_trap (a b : Reg) (tl : Tail) : decodeFields 0x0E a b tl = decTrap a b tl := rfl
theorem decodeFields_ld (a b : Reg) (tl : Tail) : decodeFields 0x11 a b tl = decLd a b tl := rfl
theorem decodeFields_st (a b : Reg) (tl : Tail) : decodeFields 0x12 a b tl = decSt a b tl := rfl
theorem decodeFields_ldv (a b : Reg) (tl : Tail) : decodeFields 0x13 a b tl = decLdv a b tl := rfl
theorem decodeFields_stv (a b : Reg) (tl : Tail) : decodeFields 0x14 a b tl = decStv a b tl := rfl
theorem decodeFields_lda (a b : Reg) (tl : Tail) : decodeFields 0x15 a b tl = decLda a b tl := rfl
theorem decodeFields_stl (a b : Reg) (tl : Tail) : decodeFields 0x16 a b tl = decStl a b tl := rfl
theorem decodeFields_amo (a b : Reg) (tl : Tail) : decodeFields 0x18 a b tl = decAmo a b tl := rfl
theorem decodeFields_red (a b : Reg) (tl : Tail) : decodeFields 0x19 a b tl = decRed a b tl := rfl
theorem decodeFields_putc (a b : Reg) (tl : Tail) : decodeFields 0x1A a b tl = decPutc a b tl := rfl
theorem decodeFields_apnd (a b : Reg) (tl : Tail) : decodeFields 0x1B a b tl = decApnd a b tl := rfl
theorem decodeFields_vop (a b : Reg) (tl : Tail) : decodeFields 0x1E a b tl = decVop a b tl := rfl
theorem decodeFields_vcmp (a b : Reg) (tl : Tail) : decodeFields 0x1F a b tl = decVcmp a b tl := rfl
theorem decodeFields_vcvt (a b : Reg) (tl : Tail) : decodeFields 0x20 a b tl = decVcvt a b tl := rfl
theorem decodeFields_vlane (a b : Reg) (tl : Tail) : decodeFields 0x21 a b tl = decVlane a b tl := rfl
theorem decodeFields_mask (a b : Reg) (tl : Tail) : decodeFields 0x22 a b tl = decMask a b tl := rfl
theorem decodeFields_strm (a b : Reg) (tl : Tail) : decodeFields 0x23 a b tl = decStrm a b tl := rfl
theorem decodeFields_mcmd (a b : Reg) (tl : Tail) : decodeFields 0x24 a b tl = decMcmd a b tl := rfl
theorem decodeFields_mctl (a b : Reg) (tl : Tail) : decodeFields 0x25 a b tl = decMctl a b tl := rfl
theorem decodeFields_xpush (a b : Reg) (tl : Tail) : decodeFields 0x26 a b tl = decXpush a b tl := rfl
theorem decodeFields_xctl (a b : Reg) (tl : Tail) : decodeFields 0x27 a b tl = decXctl a b tl := rfl
theorem decodeFields_dld (a b : Reg) (tl : Tail) : decodeFields 0x28 a b tl = decDld a b tl := rfl
theorem decodeFields_dst (a b : Reg) (tl : Tail) : decodeFields 0x29 a b tl = decDst a b tl := rfl
theorem decodeFields_tq (a b : Reg) (tl : Tail) : decodeFields 0x2A a b tl = decTq a b tl := rfl
theorem decodeFields_hctl (a b : Reg) (tl : Tail) : decodeFields 0x2B a b tl = decHctl a b tl := rfl
theorem decodeFields_row (a b : Reg) (tl : Tail) : decodeFields 0x2C a b tl = decRow a b tl := rfl
theorem decodeFields_kn (a b : Reg) (tl : Tail) : decodeFields 0x2D a b tl = decKn a b tl := rfl
theorem decodeFields_flue (a b : Reg) (tl : Tail) : decodeFields 0x2E a b tl = decFlue a b tl := rfl
theorem decodeFields_damp (a b : Reg) (tl : Tail) : decodeFields 0x2F a b tl = decDamp a b tl := rfl

/-- Reading the fields of a head gives back what was packed. -/
theorem decodeFields_mkHead (m : BitVec 6) (a b : Reg) (tl : Tail) :
    decodeFields (mkHead m a b).major (mkHead m a b).fieldA (mkHead m a b).fieldB tl = decodeFields m a b tl := by
  simp only [Head.major_mkHead, Head.fieldA_mkHead, Head.fieldB_mkHead]

/-! ## Operands that are packed across fields -/

theorem safe_index_joined (k : BitVec 10) : (k.extractLsb' 5 5 ++ k.extractLsb' 0 5 : BitVec 10) = k := by
  have h := k.isLt
  apply BitVec.eq_of_toNat_eq
  simp only [BitVec.extractLsb'_toNat, toNat_join, Nat.shiftRight_eq_div_pow]
  omega

theorem class_set_joined (k : BitVec 10) :
    ((0#1 ++ k.extractLsb' 8 2 : BitVec 3).extractLsb' 0 2 ++ k.extractLsb' 0 8 : BitVec 10) = k := by
  have h := k.isLt
  apply BitVec.eq_of_toNat_eq
  simp only [BitVec.extractLsb'_toNat, toNat_join, Nat.shiftRight_eq_div_pow, BitVec.toNat_ofNat]
  omega

theorem class_set_top (x : BitVec 2) : (0#1 ++ x : BitVec 3).getLsbD 2 = false := by
  revert x; decide

theorem extract_low {a b : Nat} (x : BitVec a) (y : BitVec b) : (x ++ y).extractLsb' 0 b = y := by
  have h := y.isLt
  apply BitVec.eq_of_toNat_eq
  rw [BitVec.extractLsb'_toNat, toNat_join, Nat.shiftRight_zero, Nat.mul_add_mod_self_right, Nat.mod_eq_of_lt h]

theorem extract_high {a b : Nat} (x : BitVec a) (y : BitVec b) : (x ++ y).extractLsb' b a = x := by
  have h := x.isLt
  apply BitVec.eq_of_toNat_eq
  rw [BitVec.extractLsb'_toNat, toNat_join, Nat.shiftRight_eq_div_pow, Nat.mul_comm, Nat.mul_add_div (Nat.two_pow_pos b),
    Nat.div_eq_of_lt y.isLt, Nat.add_zero, Nat.mod_eq_of_lt h]

theorem geom_fields (k : BitVec 11) (n m : BitVec 7) :
    (geomBits k n m).extractLsb' 0 7 = m ∧ (geomBits k n m).extractLsb' 7 7 = n ∧ (geomBits k n m).extractLsb' 14 11 = k ∧
      (geomBits k n m).extractLsb' 25 7 = 0#7 := by
  have hk := k.isLt; have hn := n.isLt; have hm := m.isLt
  refine ⟨?_, ?_, ?_, ?_⟩ <;> apply BitVec.eq_of_toNat_eq <;>
    simp only [geomBits, BitVec.extractLsb'_toNat, toNat_join, Nat.shiftRight_eq_div_pow, BitVec.toNat_ofNat] <;> omega

theorem aux_bits (x y : Bool) :
    (0#1 ++ BitVec.ofBool x ++ BitVec.ofBool y : BitVec 3).getLsbD 0 = y ∧
      (0#1 ++ BitVec.ofBool x ++ BitVec.ofBool y : BitVec 3).getLsbD 1 = x ∧
      (0#1 ++ BitVec.ofBool x ++ BitVec.ofBool y : BitVec 3).getLsbD 2 = false := by
  cases x <;> cases y <;> decide

theorem row_fields {k : Nat} (q : BitVec k) (n : BitVec 7) :
    (q ++ n).extractLsb' 7 7 = q.extractLsb' 0 7 ∧ (q ++ n).extractLsb' 14 2 = q.extractLsb' 7 2 := by
  have hn := n.isLt
  constructor <;> apply BitVec.eq_of_toNat_eq <;>
    simp only [BitVec.extractLsb'_toNat, toNat_join, Nat.shiftRight_eq_div_pow] <;> omega

theorem type_of_int_ne_zero {ty : Ty} (h : ty.isInt = true) : (ty == 0#5) = false := by
  rw [beq_eq_false_iff_ne]
  rintro rfl
  exact absurd h (by decide)

theorem extract_setWidth {n m : Nat} (x : BitVec n) (h : n ≤ m) : (x.setWidth m).extractLsb' 0 n = x := by
  have hx := x.isLt
  have hp := Nat.pow_le_pow_right (n := 2) (by decide) h
  apply BitVec.eq_of_toNat_eq
  rw [BitVec.extractLsb'_toNat, BitVec.toNat_setWidth, Nat.shiftRight_zero, Nat.mod_eq_of_lt (hx.trans_le hp), Nat.mod_eq_of_lt hx]

/-- R125 to R133: the opcode map reads back from the word of an instruction its row and every operand. -/
theorem decodeFields_encode (i : Instr) (wf : i.wellFormed = true) (hd : Head) (tl : Tail) (h : encode i = some (hd, tl)) :
    decodeFields hd.major hd.fieldA hd.fieldB tl = .ok i := by
  cases i
  case add | sub | mul | mulh | mulhz | div | divz | rem | remz | and | or | xor | shl | shr | sra | slt | sltz | min | max |
      minz | maxz | clz | ctz | popc | mov | mset | mand | mor | mnot | mpop | sbind | sunb | sskip | mwait | mfab | mchk |
      xpush | xpushb | xwaitDone | xwaitRead | xwaitFill | xresume | xcancel | xstat | xstatRead | xstatFill | tqB | tqH |
      tqPair | tqIntp | htload | hmode | ired | hcmd | hovl | knwin | kndly | knmode | knlaunch | kncapt | knfirst | knreset |
      knstat =>
    cases h
    rw [decodeFields_mkHead]
    simp only [decodeFields_sop, decodeFields_mask, decodeFields_strm, decodeFields_mctl, decodeFields_xpush,
        decodeFields_xctl, decodeFields_tq, decodeFields_hctl, decodeFields_kn, decSop, decMask, decStrm, decMctl, decXpush,
        decXctl, decTq, decHctl, decKn, TailS.of_bits]
    rfl
  case addi | andi | ori | xori | slti | shli | shri | srai | rep | trap =>
    cases h
    rw [decodeFields_mkHead]
    simp only [decodeFields_sopi, decodeFields_rep, decodeFields_trap, decSopi, decRep, decTrap, TailI.of_bits]
    rfl
  case sel | bext | bins =>
    cases h
    rw [decodeFields_mkHead, decodeFields_sbit, decSbit, TailQ.of_bits]
    rfl
  case beq | bne | blt | bge | bltz | bgez | loop | jmp | call =>
    cases h
    rw [decodeFields_mkHead]
    simp only [decodeFields_br, decodeFields_jump, decBr, decJump, TailB.of_bits]
    rfl
  case li | liSh16 =>
    cases h
    rw [decodeFields_mkHead, decodeFields_li, decLi, extract_setWidth _ (by decide)]
    rfl
  case lea =>
    cases h
    rw [decodeFields_mkHead]
    exact congrArg (fun k => Except.ok (Instr.lea _ _ k)) (extract_setWidth _ (by decide))
  case jmpr | callr | ret | exit | waitc | nop | chunk | yield | saved | split | gang | fence | halt | brk | tret | crd | cwr |
      afence | warm | qpop =>
    cases h
    rw [decodeFields_mkHead]
    rfl
  case safe =>
    cases h
    rw [decodeFields_mkHead]
    exact congrArg (fun k => Except.ok (Instr.safe k)) (safe_index_joined _)
  case ld | st | ldv | stv | lda | stl | dldVector | dstVector =>
    cases h
    rw [decodeFields_mkHead]
    simp only [decodeFields_ld, decodeFields_st, decodeFields_ldv, decodeFields_stv, decodeFields_lda, decodeFields_stl,
        decodeFields_dld, decodeFields_dst, decLd, decSt, decLdv, decStv, decLda, decStl, decDld, decDst, TailM.of_bits]
    rfl
  case dld | dst =>
    cases h
    rw [decodeFields_mkHead]
    simp only [decodeFields_dld, decodeFields_dst, decDld, decDst, TailM.of_bits, type_of_int_ne_zero wf]
    rfl
  case rowld | rowst | rowadd =>
    cases h
    rw [decodeFields_mkHead, decodeFields_row, decRow, TailM.of_bits]
    simp only [extract_low, row_fields]
    rfl
  case amoAdd | amoAnd | amoOr | amoXor | amoSwap | amoSmin | amoSmax | amoZmin | amoZmax | amoFadd | amoFmin | amoFmax |
      amoCas | redAdd | redAnd | redOr | redXor | redSwap | redSmin | redSmax | redZmin | redZmax | redFadd | redFmin | redFmax
      | putc | apnd | ttload | ttarm | bar | fsend | frecv | msred | xorred | facc | gcfg | gacc | gtest | gstep | gbind |
      gdrop =>
    cases h
    rw [decodeFields_mkHead]
    simp only [decodeFields_amo, decodeFields_red, decodeFields_putc, decodeFields_apnd, decodeFields_flue, decodeFields_damp,
        decAmo, decRed, decPutc, decApnd, decFlue, decDamp, TailA.of_bits]
    rfl
  case vadd | vsub | vmul | vdiv | vmin | vmax | vand | vor | vxor | vfma | vfms | vfnma | vsqrt | vmov | vshl | vshlImm | vshr
      | vshrImm | vsra | vsraImm | vsel | vcmp | vqnt | vsplat | vext | vins | vperm | vredAdd | vredMin | vredMax | vdot |
      vidx =>
    cases h
    rw [decodeFields_mkHead]
    simp only [decodeFields_vop, decodeFields_vcmp, decodeFields_vcvt, decodeFields_vlane, decVop, decVcmp, decVcvt, decVlane,
        TailV.of_bits]
    rfl
  case vclass =>
    cases h
    rw [decodeFields_mkHead, decodeFields_vcmp, decVcmp, TailV.of_bits]
    simp only [class_set_joined, class_set_top]
    rfl
  case vcvt | vdq =>
    cases h
    rw [decodeFields_mkHead, decodeFields_vcvt, decVcvt, TailV.of_bits]
    simp only [extract_low, extract_high]
    rfl
  case mma | mmas | mzero | mldt | mstt =>
    cases h
    rw [decodeFields_mkHead, decodeFields_mcmd, decMcmd, TailX.of_bits]
    simp only [geom_fields, aux_bits]
    rfl
  all_goals cases h

/-! ## Only encoded rows decode (R134, R135) -/

/-- A decoder's answer is an error or an instruction that has a word. -/
def acceptsEncoded : Except DecodeErr Instr → Bool
  | .error _ => true
  | .ok i => (encode i).isSome

theorem acceptsEncoded_error (e : DecodeErr) : acceptsEncoded (.error e) = true := rfl
theorem acceptsEncoded_unused {i : Instr} (ok : Bool) (h : (encode i).isSome = true) : acceptsEncoded (unused ok i) = true := by
  cases ok
  · rfl
  · exact h
theorem acceptsEncoded_fields {i : Instr} (rsv ok : Bool) (h : (encode i).isSome = true) : acceptsEncoded (fields rsv ok i) =
    true := by
  cases rsv
  · rfl
  · exact acceptsEncoded_unused ok h

theorem acceptsEncoded_rowsOfTailS (a b : Reg) (tl : Tail) :
    acceptsEncoded (decSop a b tl) ∧ acceptsEncoded (decMask a b tl) ∧ acceptsEncoded (decStrm a b tl) ∧ acceptsEncoded
        (decMctl a b tl) ∧ acceptsEncoded (decXpush a b tl) ∧ acceptsEncoded (decXctl a b tl) ∧ acceptsEncoded (decTq a b tl) ∧
        acceptsEncoded (decHctl a b tl) ∧ acceptsEncoded (decKn a b tl) := by
  refine ⟨?_, ?_, ?_, ?_, ?_, ?_, ?_, ?_, ?_⟩
  all_goals simp only [decSop, decMask, decStrm, decMctl, decXpush, decXctl, decTq, decHctl, decKn]
  all_goals split
  any_goals exact acceptsEncoded_error _
  all_goals exact acceptsEncoded_fields _ _ rfl
theorem acceptsEncoded_rowsOfTailsIQB (a b : Reg) (tl : Tail) :
    acceptsEncoded (decSopi a b tl) ∧ acceptsEncoded (decSbit a b tl) ∧ acceptsEncoded (decBr a b tl) ∧ acceptsEncoded (decJump
        a b tl) := by
  refine ⟨?_, ?_, ?_, ?_⟩
  all_goals simp only [decSopi, decSbit, decBr, decJump]
  all_goals split
  any_goals exact acceptsEncoded_error _
  all_goals exact acceptsEncoded_fields _ _ rfl
theorem acceptsEncoded_rowsOfTailsMAX (a b : Reg) (tl : Tail) :
    acceptsEncoded (decRow a b tl) ∧ acceptsEncoded (decAmo a b tl) ∧ acceptsEncoded (decRed a b tl) ∧ acceptsEncoded (decFlue
        a b tl) ∧ acceptsEncoded (decDamp a b tl) ∧ acceptsEncoded (decMcmd a b tl) := by
  refine ⟨?_, ?_, ?_, ?_, ?_, ?_⟩
  all_goals simp only [decRow, decAmo, decRed, decFlue, decDamp, decMcmd]
  all_goals split
  any_goals exact acceptsEncoded_error _
  all_goals exact acceptsEncoded_fields _ _ rfl
theorem acceptsEncoded_singleRows (a b : Reg) (tl : Tail) :
    acceptsEncoded (decRep a b tl) ∧ acceptsEncoded (decTrap a b tl) ∧ acceptsEncoded (decLd a b tl) ∧ acceptsEncoded (decSt a
        b tl) ∧ acceptsEncoded (decLdv a b tl) ∧ acceptsEncoded (decStv a b tl) ∧ acceptsEncoded (decLda a b tl) ∧
        acceptsEncoded (decStl a b tl) ∧ acceptsEncoded (decPutc a b tl) ∧ acceptsEncoded (decApnd a b tl) := by
  refine ⟨?_, ?_, ?_, ?_, ?_, ?_, ?_, ?_, ?_, ?_⟩
  all_goals simp only [decRep, decTrap, decLd, decSt, decLdv, decStv, decLda, decStl, decPutc, decApnd]
  all_goals exact acceptsEncoded_fields _ _ rfl
theorem acceptsEncoded_stackRows (a b : Reg) (tl : Tail) :
    acceptsEncoded (decDld a b tl) ∧ acceptsEncoded (decDst a b tl) := by
  refine ⟨?_, ?_⟩
  all_goals simp only [decDld, decDst]
  all_goals split
  all_goals exact acceptsEncoded_fields _ _ rfl
theorem acceptsEncoded_rowsOfTailV (a b : Reg) (tl : Tail) :
    acceptsEncoded (decVop a b tl) ∧ acceptsEncoded (decVcmp a b tl) ∧ acceptsEncoded (decVcvt a b tl) ∧
      acceptsEncoded (decVlane a b tl) := by
  refine ⟨?_, ?_, ?_, ?_⟩
  case refine_1 =>
    simp only [decVop]
    split
    case h_14 | h_15 | h_16 => split <;> exact acceptsEncoded_unused _ rfl
    any_goals exact acceptsEncoded_error _
    all_goals exact acceptsEncoded_unused _ rfl
  case refine_4 =>
    simp only [decVlane]
    split
    case h_5 => split; any_goals exact acceptsEncoded_error _
                all_goals exact acceptsEncoded_unused _ rfl
    any_goals exact acceptsEncoded_error _
    all_goals exact acceptsEncoded_unused _ rfl
  all_goals simp only [decVcmp, decVcvt]
  all_goals split
  any_goals exact acceptsEncoded_error _
  all_goals exact acceptsEncoded_unused _ rfl
theorem acceptsEncoded_li (a b : Reg) (tl : Tail) : acceptsEncoded (decLi a b tl) := by
  unfold decLi; split <;> rfl
theorem acceptsEncoded_rowsWithoutTail (a b : Reg) : acceptsEncoded (decJreg a b) ∧ acceptsEncoded (decCtl a b) := by
  constructor
  · unfold decJreg
    split
    case h_3 => exact acceptsEncoded_unused _ rfl
    all_goals rfl
  · unfold decCtl
    split
    case h_6 | h_7 | h_10 | h_11 => rfl
    all_goals exact acceptsEncoded_unused _ rfl

theorem acceptsEncoded_decodeFields (m : BitVec 6) (a b : Reg) (tl : Tail) : acceptsEncoded (decodeFields m a b tl) = true := by
  unfold decodeFields
  split
  any_goals rfl
  all_goals simp only [acceptsEncoded_rowsOfTailS, acceptsEncoded_rowsOfTailsIQB, acceptsEncoded_rowsOfTailsMAX,
      acceptsEncoded_singleRows, acceptsEncoded_stackRows, acceptsEncoded_rowsOfTailV, acceptsEncoded_li,
      acceptsEncoded_rowsWithoutTail]

/-- What decodes is well-formed and has a word. -/
theorem decode_ok {hd : Head} {tl : Tail} {i : Instr} (h : decode hd tl = .ok i) : i.wellFormed = true ∧ (encode i).isSome =
    true := by
  have accepts := acceptsEncoded_decodeFields hd.major hd.fieldA hd.fieldB tl
  unfold decode at h
  split at h
  · cases h
  next j e =>
    rw [e] at accepts
    split at h
    next wf => cases h; exact ⟨wf, accepts⟩
    · cases h

theorem decode_encode {i : Instr} (wf : i.wellFormed = true) {hd : Head} {tl : Tail} (h : encode i = some (hd, tl)) :
    decode hd tl = .ok i := by
  rw [decode, decodeFields_encode i wf hd tl h]
  exact if_pos wf

theorem decode_unassigned (hd : Head) (tl : Tail) (h : hd.major = 0#6 ∨ 0x30 ≤ hd.major.toNat) :
    decode hd tl = .error .unassignedMajor := by
  have outside : hd.major.toNat = 0 ∨ 0x30 ≤ hd.major.toNat := h.imp_left (congrArg BitVec.toNat)
  have fieldsRefuse : decodeFields hd.major hd.fieldA hd.fieldB tl = .error .unassignedMajor := by
    unfold decodeFields
    split
    any_goals rfl
    all_goals omega
  rw [decode, fieldsRefuse]

/-- Every row without a word is listed among the events. -/
theorem mem_eventRows_of_encode {i : Instr} (h : encode i = none) : i ∈ Machine.eventRows := by
  cases i
  any_goals cases h
  all_goals decide

end Sys2Proof
end

section
open Sys2Proof Sys2Proof.Machine

/-- Settles O28: the opcode map reads back what the encoder packs (`decodeFields_encode`), and it answers encoded rows only. -/
theorem decodeEncode : Obligations.DecodeEncode := by
  refine ⟨fun i wf hd tl h => decode_encode wf h, fun i _ h => ?_, fun hd tl => ⟨fun i h => ?_, decode_unassigned hd tl⟩⟩
  · rw [Option.isSome_iff_ne_none]
    exact fun none => h (mem_eventRows_of_encode none)
  · obtain ⟨wf, word⟩ := decode_ok h
    exact ⟨wf, Option.isNone_eq_false_iff.2 word⟩
end

section
/-! SUPPORT. Registers read back what was written, and the register instructions write the results that their rules give
(R86 to R88, R182 to R187, R247). -/

namespace Sys2Proof.Machine

/-! ## Register files (R86 to R88) -/

theorem Regs.getS_setS_ne (r : Regs) {n m : Reg} (h : n ≠ m) (w : Word) : (r.setS n w).getS m = r.getS m := by
  unfold Regs.setS Regs.getS
  split
  · rfl
  · split
    · rfl
    · exact Vector.getElem_set_ne n.isLt m.isLt fun e => h (BitVec.eq_of_toNat_eq e)

theorem Regs.getM_setM_self (r : Regs) {a : Nat} (h : a % 8 ≠ 0) (w : Word) : (r.setM a w).getM a = w := by
  simp only [Regs.getM, Regs.setM, if_neg h]
  exact Vector.getElem_set_self (Nat.mod_lt a (by decide))

theorem Regs.getM_setM_ne (r : Regs) {a b : Nat} (h : a % 8 ≠ b % 8) (w : Word) : (r.setM a w).getM b = r.getM b := by
  unfold Regs.setM Regs.getM
  split
  · rfl
  · split
    · rfl
    · exact Vector.getElem_set_ne (Nat.mod_lt a (by decide)) (Nat.mod_lt b (by decide)) h

theorem Regs.getV_setV_self (r : Regs) (n : Reg) (x : Vec) : (r.setV n x).getV n = x :=
  Vector.getElem_set_self n.isLt

theorem Regs.getV_setV_ne (r : Regs) {n m : Reg} (h : n ≠ m) (x : Vec) : (r.setV n x).getV m = r.getV m :=
  Vector.getElem_set_ne n.isLt m.isLt fun e => h (BitVec.eq_of_toNat_eq e)

/-! ## Results of register instructions -/

theorem ite_lt_eq_ite_le {α : Type} [LinearOrder α] (a b : α) (x y : Word) :
    (if b < a then y else x) = if a ≤ b then x else y := by
  by_cases h : a ≤ b
  · rw [if_neg h.not_gt, if_pos h]
  · rw [if_pos (not_le.1 h), if_neg h]

/-- R182, R184 to R187: the result of a scalar instruction goes to `rd`, and control falls through. -/
theorem exec_scalarResult (i : Instr) (s : State) (rd : Reg) (w : Word) (h : scalarResult i s.me.regs = some (rd, w)) :
    exec i s = .next (s.ws rd w).past := by
  cases i
  any_goals cases h
  case min | max | minz | maxz =>
    exact congrArg (fun w => Host.Outcome.next (s.ws _ w).past) (ite_lt_eq_ite_le ..)
  case sel => exact congrArg (fun w => Host.Outcome.next (s.ws _ w).past) (ite_not ..)
  all_goals rfl

/-- R247: the result of a mask instruction goes to its mask register. -/
theorem exec_maskResult (i : Instr) (s : State) (d : Reg) (w : Word) (h : maskResult i s.me.regs = some (d, w)) :
    exec i s = .next (s.setRegs (s.me.regs.setM d.toNat w)).past := by
  cases i
  any_goals cases h
  all_goals rfl

end Sys2Proof.Machine
end

section
open Sys2Proof Sys2Proof.Machine

/-- Settles O3: number 0 is hardwired, and any other number is one element of the register file. -/
theorem hardwiredRegisters : Obligations.HardwiredRegisters := fun r n _ w _ _ =>
  ⟨rfl, rfl, rfl, rfl, fun h => r.getS_setS_self h w, fun h => r.getS_setS_ne h w, fun h => r.getM_setM_self h w,
    fun h => r.getM_setM_ne h w, fun x => ⟨r.getV_setV_self n x, fun h => r.getV_setV_ne h x⟩⟩

/-- Settles O1: each arm of `exec` is the write of its result, then the fall-through. -/
theorem registerResults : Obligations.RegisterResults := ⟨exec_scalarResult, exec_maskResult⟩

/-- Settles O29: fifteen printed pairs of head and tail, evaluated. -/
theorem decodeWords : Obligations.DecodeWords := by
  unfold Obligations.DecodeWords
  decide

/-- Settles O34: every table of the reset state is empty. -/
theorem resetState : Obligations.ResetState := ⟨rfl, fun _ => rfl, fun _ => rfl, rfl, rfl⟩
end

section
/-! SUPPORT. Plain memory: what a write leaves in each byte, and what a commit makes of the bytes that its chunk stored
(R2, R69, R70). -/

namespace Sys2Proof.Machine

/-! ## Bytes of a number -/

@[simp] theorem length_leBytes (n v : Nat) : (leBytes n v).length = n := by
  induction n generalizing v with
  | zero => rfl
  | succ n ih => rw [leBytes, List.length_cons, ih]

theorem leNat_leBytes (n v : Nat) : leNat (leBytes n v) = v % 2 ^ (8 * n) := by
  induction n generalizing v with
  | zero => exact (Nat.mod_one v).symm
  | succ n ih =>
    rw [leBytes, leNat, ih, BitVec.toNat_ofNat, Nat.mul_succ, Nat.add_comm (8 * n), Nat.pow_add, Nat.mod_mul]

/-! ## Plain keys -/

theorem not_isHobKey_of_plain {k : Nat} (h : plainKey k = true) : isHobKey k = false := by
  simp only [plainKey, isStackKey, Bool.or_eq_true, Bool.and_eq_true, decide_eq_true_eq] at h
  simp only [isHobKey, decide_eq_false_iff_not]
  omega

/-- A plain key is stack memory, or scratchpad or accumulator file at an on-chip address. -/
theorem plainKey_cases {k : Nat} (h : plainKey k = true) :
    isStackKey k = true ∨ isStackKey k = false ∧ (oaSpace k = some .scratch ∨ oaSpace k = some .acc) := by
  cases hs : isStackKey k
  · simp only [plainKey, hs, Bool.false_or, Bool.and_eq_true, Bool.or_eq_true, beq_iff_eq] at h
    exact .inr ⟨rfl, h.2⟩
  · exact .inl rfl

theorem State.byteAt_plain (s : State) {k : Nat} (h : plainKey k = true) : s.byteAt k = Memory.get s.mem k := by
  unfold State.byteAt
  rw [not_isHobKey_of_plain h]
  rcases plainKey_cases h with hs | ⟨hs, hs' | hs'⟩
  · simp [hs]
  · simp [hs, hs']
  · simp [hs, hs']

/-- A write that starts in plain memory changes memory, and of the thread sets the lines their open chunks may meet. -/
theorem State.writeAt_plain (s : State) (by' : Hart) {k : Nat} (h : plainKey k = true) (b : List Byte) :
    s.writeAt by' k b = { s.noteLines (arbOfKey k) (linesOf k b.length) by' with mem := Memory.write s.mem k b } := by
  unfold State.writeAt
  rw [not_isHobKey_of_plain h]
  rcases plainKey_cases h with hs | ⟨hs, hs' | hs'⟩
  · simp [hs]; rfl
  · simp [hs, hs']; rfl
  · simp [hs, hs']; rfl

theorem Memory.get_write_outside (m : List Host.Cell) {k j : Nat} {l : List Byte} (h : j < k ∨ k + l.length ≤ j) :
    Memory.get (Memory.write m k l) j = Memory.get m j := by
  rw [Memory.get_write, if_neg (by omega)]

theorem Memory.read_write_self (m : List Host.Cell) (k : Nat) (l : List Byte) :
    (List.range l.length).map (fun i => Memory.get (Memory.write m k l) (k + i)) = l := by
  apply List.ext_getElem
  · simp
  · intro i hi hl
    rw [List.getElem_map, List.getElem_range, Memory.get_write, if_pos (by omega), Nat.add_sub_cancel_left,
      List.getElem?_eq_getElem hl, Option.getD_some]

theorem State.readAt_writeAt_plain (s : State) (by' : Hart) {k v n : Nat} (hp : ∀ i, i < n → plainKey (k + i) = true)
    (hn : 0 < n) : (s.writeAt by' k (leBytes n v)).readAt k n = v % 2 ^ (8 * n) := by
  have bytes : (s.writeAt by' k (leBytes n v)).bytesAt k n = leBytes n v := by
    calc (s.writeAt by' k (leBytes n v)).bytesAt k n
      _ = (List.range n).map (fun i => Memory.get (Memory.write s.mem k (leBytes n v)) (k + i)) :=
        List.map_congr_left fun i hi => by
          rw [State.byteAt_plain _ (hp i (List.mem_range.1 hi)), State.writeAt_plain _ _ (k := k) (hp 0 hn)]
      _ = leBytes n v := by simpa using Memory.read_write_self s.mem k (leBytes n v)
  rw [State.readAt, bytes, leNat_leBytes]

theorem State.byteAt_writeAt_outside (s : State) (by' : Hart) {k a : Nat} {b : List Byte} (hk : plainKey k = true)
    (ha : plainKey a = true) (h : a < k ∨ k + b.length ≤ a) : (s.writeAt by' k b).byteAt a = s.byteAt a := by
  rw [State.byteAt_plain _ ha, State.byteAt_plain _ ha, State.writeAt_plain _ _ hk]
  exact Memory.get_write_outside _ h

/-! ## What a commit leaves in memory -/

@[simp] theorem State.mem_settlePops (s : State) (h : Hart) (p : Tab Nat) : (s.settlePops h p).mem = s.mem := by
  unfold State.settlePops; dsimp only; split <;> rfl
@[simp] theorem State.mem_setToken (s : State) (a : Nat) (x : Option Hart) : (s.setToken a x).mem = s.mem := by
  unfold State.setToken; split <;> rfl
@[simp] theorem State.mem_endRedo (s : State) (h : Hart) : (s.endRedo h).mem = s.mem := by
  unfold State.endRedo; (repeat' split) <;> rfl

@[simp] theorem State.mem_countCl (s : State) (c n k : Nat) : (s.countCl c n k).mem = s.mem := rfl

/-- A commit writes memory by the stores of its chunk alone. -/
theorem State.mem_commit (s : State) (h : Hart) :
    (s.commit h).mem = ((s.thread h).chunk.stores.foldl (fun u w => commitStore u h w) s).mem := by
  unfold State.commit
  extract_lets _ _ popped counted _ pushed given
  have hgiven : given.mem = pushed.mem := by simp only [given, apply_ite State.mem, State.mem_setToken, ite_self]
  have hpushed : pushed.mem = counted.mem := by simp only [pushed, apply_ite State.mem, State.setCore_mem, ite_self]
  have hcounted : counted.mem = popped.mem := by simp only [counted, apply_ite State.mem, State.mem_countCl, ite_self]
  rw [State.noteWindow_mem, State.setThread_mem, State.mem_endRedo, hgiven, hpushed, hcounted, State.mem_settlePops]

theorem storedByte_append_single (l : List WStore) (w : WStore) (k : Nat) :
    storedByte (l ++ [w]) k =
      if w.key ≤ k ∧ k < w.key + w.data.length then some ((w.data[k - w.key]?).getD 0) else storedByte l k := by
  unfold storedByte
  rw [List.reverse_append, List.reverse_singleton, List.singleton_append, List.find?_cons]
  by_cases hit : w.key ≤ k ∧ k < w.key + w.data.length
  · simp [hit]
  · have miss : (decide (w.key ≤ k) && decide (k < w.key + w.data.length)) = false := by
      rw [Bool.eq_false_iff]; simpa using hit
    simp only [if_neg hit, miss]

/-- After the stores of a chunk to plain memory of its own arbiter each plain byte is what the last of them left there. -/
theorem byteAt_commitStores (s : State) (h : Hart) (l : List WStore)
    (own : ∀ w ∈ l, arbOfKey w.key = arbOf h ∧ plainKey w.key = true) {k : Nat} (hk : plainKey k = true) :
    (l.foldl (fun u w => commitStore u h w) s).byteAt k = (storedByte l k).getD (s.byteAt k) := by
  induction l using List.reverseRecOn with
  | nil => rfl
  | append_singleton l w ih =>
    obtain ⟨arb, plain⟩ := own w (by simp)
    have before := ih fun x hx => own x (by simp [hx])
    rw [List.foldl_append, List.foldl_cons, List.foldl_nil, commitStore, if_pos (by simp [arb]), storedByte_append_single]
    by_cases hit : w.key ≤ k ∧ k < w.key + w.data.length
    · rw [if_pos hit, State.byteAt_plain _ hk, State.writeAt_plain _ _ plain, Option.getD_some]
      exact (Memory.get_write ..).trans (if_pos hit)
    · rw [if_neg hit, ← before]
      exact State.byteAt_writeAt_outside _ _ plain hk (by omega)

/-- The chunk reads plain memory overlaid with its own stores (R70). -/
theorem State.ownByte_plain (s : State) (h : Hart) {k : Nat} (hk : plainKey k = true) :
    s.ownByte h k = (storedByte (s.thread h).chunk.stores k).getD (s.byteAt k) := by
  unfold State.ownByte
  rcases plainKey_cases hk with hs | ⟨-, hs | hs⟩
  · have above : ¬k < 1099511627776 := by simp [isStackKey] at hs; omega
    simp [above]
  · simp [hs]
  · simp [hs]

end Sys2Proof.Machine
end

section
open Sys2Proof Sys2Proof.Machine

/-- Settles O24: a write to plain memory is `Memory.write`, whose bytes `Memory.get_write` gives. -/
theorem memoryReadAfterWrite : Obligations.MemoryReadAfterWrite := fun s h k v n hp hn =>
  ⟨s.readAt_writeAt_plain h hp hn, fun a ha out =>
    s.byteAt_writeAt_outside h (hp 0 hn) ha (by rwa [length_leBytes])⟩

/-- Settles O25: by induction on the stores of the chunk, what they leave in a plain byte is what the chunk read there. -/
theorem commitMakesStoresVisible : Obligations.CommitMakesStoresVisible := by
  intro s own k hk
  have stores := byteAt_commitStores s s.cur _ (fun w hw => ⟨(own w hw).1, (own w hw).2.1⟩) hk
  rw [State.byteAt_plain _ hk] at stores
  rw [State.ownByte_plain _ _ hk, State.byteAt_plain _ hk, State.ended, State.mem_commit]
  exact stores
end

section
/-! SUPPORT. A hart that stands alone goes on by its program counter alone, and what an instruction on its own registers leaves as it
was (R122, R123, R181, R188 to R190, R204, R209). -/

namespace Sys2Proof.Machine

/-! ## Control of a hart that stands alone -/

theorem State.alone_iff (s : State) : s.alone = true ↔ s.me.gang = none ∧ s.me.path = [] ∧ s.me.regs.rep = none := by
  simp [State.alone, and_assoc]

/-- The state in which a hob unit has counted its head (R339); no other hart counts one. -/
def State.ticked (s : State) : State := if kindOf s.cur = .hob then s.hobTick s.cur else s

@[simp] theorem State.cur_ticked (s : State) : s.ticked.cur = s.cur := by unfold State.ticked; split <;> rfl
@[simp] theorem State.threads_ticked (s : State) : s.ticked.threads = s.threads := by unfold State.ticked; split <;> rfl
@[simp] theorem State.thread_ticked (s : State) (h : Hart) : s.ticked.thread h = s.thread h := by
  unfold State.ticked; split <;> rfl
theorem State.ticked_of_not_hob {s : State} (h : kindOf s.cur ≠ .hob) : s.ticked = s := if_neg h

/-- The issuing thread set once control has gone to `pc`. -/
def Thread.wentTo (t : Thread) (pc : Word) : Thread :=
  { t with regs := { t.regs with pc := pc }, path := [], wait := .none
           chunk := { t.chunk with executed := t.chunk.executed + 1, trail := t.chunk.trail ++ [pc] } }

theorem State.goto_of_no_gang (s : State) (pc : Word) (hg : s.me.gang = none) (hp : s.me.path = []) :
    s.goto s.cur pc = s.ticked.setMe (s.me.wentTo pc) := by
  unfold State.goto
  rw [← State.ticked]
  have me : s.ticked.thread s.cur = s.me := State.thread_ticked ..
  simp only [me, hp, hg]
  rw [State.setMe, State.cur_ticked, Thread.wentTo, hg]

theorem State.past_of_no_rep (s : State) (h : s.me.regs.rep = none) : s.past = s.goto s.cur (s.fall s.cur) := by
  unfold State.past State.advance
  change (s.thread s.cur).regs.rep = none at h
  simp only [h]

theorem State.goto_alone {s : State} (h : s.alone = true) (pc : Word) : s.goto s.cur pc = s.ticked.setMe (s.me.wentTo pc) :=
  have ⟨gang, path, _⟩ := s.alone_iff.1 h
  s.goto_of_no_gang pc gang path

theorem State.past_alone {s : State} (h : s.alone = true) : s.past = s.goto s.cur (s.fall s.cur) :=
  s.past_of_no_rep (s.alone_iff.1 h).2.2

theorem State.me_goto_alone {s : State} (h : s.alone = true) (pc : Word) : (s.goto s.cur pc).me = s.me.wentTo pc := by
  rw [State.goto_alone h, State.me_setMe]

theorem State.alone_setMe {s : State} (h : s.alone = true) {t : Thread} (hg : t.gang = s.me.gang) (hp : t.path = s.me.path)
    (hr : t.regs.rep = s.me.regs.rep) : (s.setMe t).alone = true := by
  rw [State.alone_iff] at h ⊢
  rwa [State.me_setMe, hg, hp, hr]

/-! ## Frames -/

theorem sameButHart_refl (s : State) : sameButHart s s := ⟨rfl, fun _ _ => rfl, fun _ => rfl, fun _ => ⟨rfl, fun _ => rfl⟩⟩

theorem sameButHart_trans {s t u : State} (hst : sameButHart s t) (htu : sameButHart t u) : sameButHart s u := by
  obtain ⟨rest, threads, dram, banks⟩ := hst
  obtain ⟨rest', threads', dram', banks'⟩ := htu
  have cur : t.cur = s.cur := by rw [rest]
  refine ⟨by rw [rest', rest], fun h hne => ?_, fun hk => ?_, fun st => ⟨?_, fun u' => ?_⟩⟩
  · rw [threads' h (by rwa [cur]), threads h hne]
  · rw [dram' (by rwa [cur]), dram hk]
  · rw [(banks' st).1, (banks st).1]
  · rw [(banks' st).2 u', (banks st).2 u']

theorem sameButHart_setMe (s : State) (t : Thread) : sameButHart s (s.setMe t) := by
  refine ⟨rfl, fun h hne => ?_, fun _ => rfl, fun _ => ⟨rfl, fun _ => rfl⟩⟩
  exact (State.thread_setThread ..).trans (if_neg hne)

theorem sameButHart_hobTick (s : State) (hk : kindOf s.cur = .hob) : sameButHart s (s.hobTick s.cur) := by
  refine ⟨rfl, fun _ _ => rfl, fun h => absurd hk h, fun st => ?_⟩
  unfold State.hobTick
  simp only [State.stack_setStack]
  split
  · next e =>
    rw [e]
    refine ⟨rfl, fun u => ?_⟩
    rw [Tab.get_set]
    split
    · next e' => rw [e']
    · rfl
  · exact ⟨rfl, fun _ => rfl⟩

theorem sameButHart_ticked (s : State) : sameButHart s s.ticked := by
  unfold State.ticked
  split
  · next hk => exact sameButHart_hobTick s hk
  · exact sameButHart_refl s

theorem sameButHart_goto_alone {s : State} (h : s.alone = true) (pc : Word) : sameButHart s (s.goto s.cur pc) := by
  rw [State.goto_alone h]
  exact sameButHart_trans (sameButHart_ticked s) (sameButHart_setMe _ _)

theorem windowRegs_congr {t u : Thread} (hr : u.run = t.run) (hc : u.chunk.begun = t.chunk.begun) (running : t.run = .running) :
    u.windowRegs = t.windowRegs := by
  rw [Thread.windowRegs, Thread.windowRegs, if_pos (hr.trans running), if_pos running, hc]

/-- Every byte reads as before where only the issuing thread set has changed, and its window shows the same registers (R61). -/
theorem byteAt_of_sameButHart {s t : State} (h : sameButHart s t) (hrun : t.me.run = s.me.run)
    (hwin : t.me.windowRegs = s.me.windowRegs) (k : Nat) : t.byteAt k = s.byteAt k := by
  obtain ⟨rest, threads, -, banks⟩ := h
  have cur : t.cur = s.cur := by rw [rest]
  have run (g : Hart) : (t.thread g).run = (s.thread g).run := by
    by_cases hg : g = s.cur
    · subst hg; change t.me.run = s.me.run at hrun; rwa [State.me, cur] at hrun
    · rw [threads g hg]
  have win (g : Hart) : (t.thread g).windowRegs = (s.thread g).windowRegs := by
    by_cases hg : g = s.cur
    · subst hg; change t.me.windowRegs = s.me.windowRegs at hwin; rwa [State.me, cur] at hwin
    · rw [threads g hg]
  have data (st u : Nat) : (Tab.get {} (t.stack st).hobs u).data = (Tab.get {} (s.stack st).hobs u).data := by
    rw [(banks st).2 u]
  have mem : t.mem = s.mem := by rw [rest]
  have cluster (c : Nat) : t.cluster c = s.cluster c := by unfold State.cluster; rw [rest]
  have fresh : t.fresh = s.fresh := by rw [rest]
  have now : t.now = s.now := by rw [rest]
  unfold State.byteAt
  simp only [run, win, data, mem, cluster, fresh, now]

/-! ## Branches and jumps -/

theorem branch_eq (s : State) (c : Bool) (d : BitVec 22) (k : BitVec 5) :
    branch s c d k = .next (if c then s.goto s.cur (relPc s.me.regs.pc d k) else s.past) := by
  cases c <;> rfl

theorem not_slt (a b : Word) : (!a.slt b) = decide (b.toInt ≤ a.toInt) := by
  rw [BitVec.slt, ← decide_not]
  exact decide_eq_decide.2 not_lt
theorem not_ult (a b : Word) : (!a.ult b) = decide (b.toNat ≤ a.toNat) := by
  rw [BitVec.ult, ← decide_not]
  exact decide_eq_decide.2 not_lt

theorem exec_branchOf (i : Instr) (s : State) (c : Bool) (d : BitVec 22) (k : BitVec 5)
    (h : branchOf i s.me.regs = some (c, d, k)) :
    exec i s = .next (if c then s.goto s.cur (relPc s.me.regs.pc d k) else s.past) := by
  rw [← branch_eq]
  cases i
  any_goals cases h
  case bge => exact congrArg (fun c => branch s c _ _) (not_slt ..)
  case bgez => exact congrArg (fun c => branch s c _ _) (not_ult ..)
  all_goals rfl

/-- A register jump checks its target once, with or without a link (R123, R191). -/
theorem exec_jumpOf (i : Instr) (s : State) (a : Word) (link : Bool) (h : jumpOf i s.me.regs = some (a, link)) :
    exec i s = jumpTo s a (if link then s.ws 1 (s.fall s.cur) else s) := by
  cases i
  any_goals cases h
  all_goals rfl

/-! ## Instructions on registers alone -/

@[simp] theorem Regs.setS_rep (r : Regs) (n : Reg) (w : Word) : (r.setS n w).rep = r.rep := by unfold Regs.setS; split <;> rfl
@[simp] theorem Regs.setM_rep (r : Regs) (n : Nat) (w : Word) : (r.setM n w).rep = r.rep := by unfold Regs.setM; split <;> rfl
@[simp] theorem Regs.setCtl_rep (r : Regs) (n : Nat) (w : Word) : (r.setCtl n w).rep = r.rep := by
  unfold Regs.setCtl; split <;> rfl

/-- Of the issuing thread set the registers are `r`; nothing else has changed. -/
def regsWritten (s u : State) (r : Regs) : Prop := u.cur = s.cur ∧ u.me = { s.me with regs := r } ∧ sameButHart s u

theorem regsWritten_self (s : State) : regsWritten s s s.me.regs := ⟨rfl, rfl, sameButHart_refl s⟩
theorem regsWritten_setRegs (s : State) (r : Regs) : regsWritten s (s.setRegs r) r := ⟨rfl, State.me_setMe .., sameButHart_setMe ..⟩

theorem alone_of_regsWritten {s u : State} {r : Regs} (h : s.alone = true) (hr : r.rep = s.me.regs.rep) (hu : regsWritten s u r) :
    u.alone = true := by
  rw [State.alone_iff] at h ⊢
  rwa [hu.2.1, hr]

/-- The instruction writes the registers `r`, then control goes somewhere. -/
def writesAndGoes (i : Instr) (s : State) (r : Regs) : Prop :=
  r.rep = s.me.regs.rep ∧ ∃ u pc, regsWritten s u r ∧ exec i s = .next (u.goto u.cur pc)

theorem writesAndGoes_of_past {i : Instr} {s u : State} {r : Regs} (h : s.alone = true) (hr : r.rep = s.me.regs.rep)
    (hu : regsWritten s u r) (hx : exec i s = .next u.past) : writesAndGoes i s r :=
  ⟨hr, u, _, hu, hx.trans (congrArg _ (State.past_alone (alone_of_regsWritten h hr hu)))⟩

theorem writesAndGoes_of_branch {i : Instr} {s u : State} {r : Regs} (h : s.alone = true) (hr : r.rep = s.me.regs.rep)
    (hu : regsWritten s u r) {c : Bool} {d : BitVec 22} {k : BitVec 5}
    (hx : exec i s = .next (if c then u.goto u.cur (relPc u.me.regs.pc d k) else u.past)) : writesAndGoes i s r := by
  cases c
  · exact writesAndGoes_of_past h hr hu hx
  · exact ⟨hr, u, _, hu, hx⟩

theorem exec_registerOnly (i : Instr) (s : State) (r : Regs) (h : s.alone = true) (hi : registerOnly i s = some r) :
    writesAndGoes i s r := by
  cases i
  case add | sub | mul | mulh | mulhz | div | divz | rem | remz | and | or | xor | shl | shr | sra | slt | sltz | min | max | minz
      | maxz | clz | ctz | popc | mov | addi | andi | ori | xori | slti | shli | shri | srai | li | liSh16 | lea | sel | bext | bins
      | mpop =>
    cases hi
    exact writesAndGoes_of_past h (Regs.setS_rep ..) (regsWritten_setRegs ..) (exec_scalarResult _ s _ _ rfl)
  case mset | mand | mor | mnot =>
    cases hi
    exact writesAndGoes_of_past h (Regs.setM_rep ..) (regsWritten_setRegs ..) (exec_maskResult _ s _ _ rfl)
  case beq | bne | blt | bge | bltz | bgez | jmp =>
    cases hi
    exact writesAndGoes_of_branch h rfl (regsWritten_self s) (exec_branchOf _ s _ _ _ rfl)
  case loop =>
    cases hi
    exact writesAndGoes_of_branch h (Regs.setS_rep ..) (regsWritten_setRegs ..) (branch_eq ..)
  case call =>
    cases hi
    exact writesAndGoes_of_branch (c := true) h (Regs.setS_rep ..) (regsWritten_setRegs ..) rfl
  case nop =>
    cases hi
    exact writesAndGoes_of_past h rfl (regsWritten_self s) rfl
  case crd d n =>
    obtain ⟨low, e⟩ := Option.ite_none_right_eq_some.1 hi
    cases e
    exact writesAndGoes_of_past h (Regs.setS_rep ..) (regsWritten_setRegs ..) (if_pos low)
  case cwr n a =>
    obtain ⟨ok, e⟩ := Option.ite_none_right_eq_some.1 hi
    cases e
    simp only [Bool.and_eq_true, decide_eq_true_eq, beq_iff_eq] at ok
    exact writesAndGoes_of_past h (Regs.setCtl_rep ..) (regsWritten_setRegs ..)
      ((if_neg (not_not.2 ok.2)).trans (if_pos ok.1))
  all_goals cases hi

end Sys2Proof.Machine
end

section
open Sys2Proof Sys2Proof.Machine

theorem sameThread_wentTo (t : Thread) (r : Regs) (pc : Word) : sameThread t (Thread.wentTo { t with regs := r } pc) := rfl

/-- Settles O6: such an instruction writes its registers (`exec_registerOnly`), and a hart that stands alone then moves by its PC. -/
theorem registerFrame : Obligations.RegisterFrame := by
  refine ⟨fun i s t r h hi hx => ?_, fun s pc h => ?_⟩
  · obtain ⟨rep, u, pc, hu, hx'⟩ := exec_registerOnly i s r h hi
    obtain rfl : t = u.goto u.cur pc := by rw [hx'] at hx; cases hx; rfl
    have alone := alone_of_regsWritten h rep hu
    have me : (u.goto u.cur pc).me = Thread.wentTo { s.me with regs := r } pc := by rw [State.me_goto_alone alone, hu.2.1]
    have same := sameButHart_trans hu.2.2 (sameButHart_goto_alone alone pc)
    refine ⟨by rw [me]; rfl, me ▸ sameThread_wentTo .., same, fun running => byteAt_of_sameButHart same ?_ ?_⟩
    · rw [me]; rfl
    · exact windowRegs_congr (by rw [me]; rfl) (by rw [me]; rfl) running
  · have me := State.me_goto_alone h pc
    exact ⟨by rw [me]; rfl, me ▸ sameThread_wentTo s.me s.me.regs pc, sameButHart_goto_alone h pc, by rw [me]; rfl, State.past_alone h⟩
end

section
/-! SUPPORT. Branches and jumps in the opcode map, and register targets (R123, R188 to R191). -/

namespace Sys2Proof

/-! ## Majors 0x06 to 0x08 -/

/-- A decoded head is the instruction where it is well-formed. -/
theorem decode_of_fields {m : BitVec 6} {a b : Reg} {tl : Tail} {i : Instr} (h : decodeFields m a b tl = .ok i)
    (wf : i.wellFormed = true) : decode (mkHead m a b) tl = .ok i := by
  rw [decode, decodeFields_mkHead, h]
  exact if_pos wf

/-- A head is refused where the map refuses its fields or what they give is not well-formed. -/
theorem decode_refused {m : BitVec 6} {a b : Reg} {tl : Tail}
    (h : ∀ i, decodeFields m a b tl = .ok i → i.wellFormed = false) : ∃ e, decode (mkHead m a b) tl = .error e := by
  rw [decode, decodeFields_mkHead]
  split
  · exact ⟨_, rfl⟩
  next i e => exact ⟨_, if_neg (by rw [h i e]; decide)⟩

theorem cond_cases (c : BitVec 3) : c = 0 ∨ c = 1 ∨ c = 2 ∨ c = 3 ∨ c = 4 ∨ c = 5 ∨ c = 6 ∨ c = 7 := by
  revert c; decide

theorem decodeFields_cond (a b : Reg) (c : BitVec 3) (d : BitVec 22) (k : BitVec 5) :
    decodeFields 0x06 a b (TailB.bits ⟨0, c, d, k⟩) =
      match c.toNat with
      | 0 => .ok (.beq a b d k)
      | 1 => .ok (.bne a b d k)
      | 2 => .ok (.blt a b d k)
      | 3 => .ok (.bge a b d k)
      | 4 => .ok (.bltz a b d k)
      | 5 => .ok (.bgez a b d k)
      | 6 => if b = 0 then .ok (.loop a d k) else .error .unusedField
      | _ => .error .unassignedSub := by
  rw [decodeFields_br, decBr, TailB.of_bits]
  rcases cond_cases c with rfl | rfl | rfl | rfl | rfl | rfl | rfl | rfl
  case inr.inr.inr.inr.inr.inr.inl => by_cases hb : b = 0 <;> simp [fields, hb]
  all_goals rfl

/-- COND 7, slot 0 and a LOOP with a zero counter field or a second field are refused (R188, R189). -/
theorem cond_refused (a b : Reg) (c : BitVec 3) (d : BitVec 22) (k : BitVec 5)
    (h : k = 0 ∨ c = 7 ∨ (c = 6 ∧ (a = 0 ∨ b ≠ 0))) : ∃ e, decode (mkHead 0x06 a b) (TailB.bits ⟨0, c, d, k⟩) = .error e := by
  apply decode_refused
  intro i hi
  rw [decodeFields_cond] at hi
  rcases cond_cases c with rfl | rfl | rfl | rfl | rfl | rfl | rfl | rfl
  case inr.inr.inr.inr.inr.inr.inl =>
    change (if b = 0 then Except.ok (Instr.loop a d k) else _) = _ at hi
    split at hi
    next hb =>
      cases hi
      rcases h with rfl | h | ⟨-, rfl | h⟩
      · exact Bool.and_false _
      · exact absurd h (by decide)
      · rfl
      · exact absurd hb h
    next => cases hi
  all_goals cases hi
  all_goals
    have slot : k = 0 := h.resolve_right (by rintro (e | ⟨e, -⟩) <;> exact absurd e (by decide))
    subst slot
    rfl

theorem decodeFields_jumps (a b : Reg) (c : BitVec 3) (d : BitVec 22) (k : BitVec 5) :
    decodeFields 0x07 a b (TailB.bits ⟨0, c, d, k⟩) =
      match c.toNat with
      | 0 => if a = 0 ∧ b = 0 then .ok (.jmp d k) else .error .unusedField
      | 1 => if a = 0 ∧ b = 0 then .ok (.call d k) else .error .unusedField
      | _ => .error .unassignedSub := by
  rw [decodeFields_jump, decJump, TailB.of_bits]
  rcases cond_cases c with rfl | rfl | rfl | rfl | rfl | rfl | rfl | rfl
  case inl => by_cases h : a = 0 ∧ b = 0 <;> simp_all [fields]
  case inr.inl => by_cases h : a = 0 ∧ b = 0 <;> simp_all [fields]
  all_goals rfl

/-- COND above 1, slot 0 and a register field that is not zero are refused on JMP and CALL (R190). -/
theorem jumps_refused (a b : Reg) (c : BitVec 3) (d : BitVec 22) (k : BitVec 5)
    (h : k = 0 ∨ a ≠ 0 ∨ b ≠ 0 ∨ 2 ≤ c.toNat) : ∃ e, decode (mkHead 0x07 a b) (TailB.bits ⟨0, c, d, k⟩) = .error e := by
  apply decode_refused
  intro i hi
  rw [decodeFields_jumps] at hi
  split at hi
  next hc =>
    split at hi
    next hab =>
      cases hi
      rcases h with rfl | h | h | h
      · rfl
      · exact absurd hab.1 h
      · exact absurd hab.2 h
      · omega
    next => cases hi
  next hc =>
    split at hi
    next hab =>
      cases hi
      rcases h with rfl | h | h | h
      · rfl
      · exact absurd hab.1 h
      · exact absurd hab.2 h
      · omega
    next => cases hi
  next => cases hi

/-- B above 2 is refused on a register jump, and a source on RET (R191). -/
theorem jreg_refused (a b : Reg) (h : 3 ≤ b.toNat ∨ (b = 2 ∧ a ≠ 0)) (tl : Tail) :
    ∃ e, decode (mkHead 0x08 a b) tl = .error e := by
  apply decode_refused
  intro i hi
  rw [decodeFields_jreg, decJreg] at hi
  rcases h with h | ⟨rfl, h⟩
  · split at hi
    · omega
    · omega
    · omega
    · cases hi
  · have refused : unused (a == 0#5) .ret = .error .unusedField := by
      rw [(beq_eq_false_iff_ne.2 h : (a == 0#5) = false)]; rfl
    exact absurd (refused.symm.trans hi) nofun

end Sys2Proof

namespace Sys2Proof.Machine

/-! ## Register targets -/

theorem jumpTo_follows (s t : State) (a : Word) (h : s.follows = true) : jumpTo s a t = .next (t.goto s.cur a) := by
  simp [jumpTo, h]

theorem jumpTo_hob (s t : State) (a : Word) (h : s.follows = false) (hob : kindOf s.cur = .hob) :
    jumpTo s a t = if 4096 ≤ a.toNat ∨ a.toNat % 2 = 1 ∨ a.toNat % 64 = 0 then hobFault s s.cur 6
      else .next (t.goto s.cur a) := by
  simp [jumpTo, h, hob, or_assoc]

theorem jumpTo_va (s t : State) (a : Word) (h : s.follows = false) (hob : kindOf s.cur ≠ .hob) :
    jumpTo s a t = if a.toNat % 2 = 1 ∨ a.toNat % 64 = 0 then takeTrap s .misalign a 0
      else if isVA a then .next (t.goto s.cur a) else takeTrap s .window a 0 := by
  simp only [jumpTo, h, hob]
  cases isVA a <;> simp [misalign]

end Sys2Proof.Machine
end

section
open Sys2Proof Sys2Proof.Machine

/-- Settles O4: the branch, jump and link equations, and the opcode map's rows of majors 6 to 8. -/
theorem branchesAndJumps : Obligations.BranchesAndJumps := by
  unfold Obligations.BranchesAndJumps
  refine ⟨exec_branchOf, fun rs d k s => ?_, fun d k s => ?_, fun i s a link hi => ?_, fun a b c d k => ?_⟩
  · intro rs0 u
    have counter : u.rs rs = s.rs rs - 1 := State.rs_ws_self s rs0 _
    refine ⟨?_, counter, fun zero => by rw [counter, zero]; rfl⟩
    rw [exec_loop, branch_eq, State.me_ws, Regs.setS_pc, State.ws_cur]
    by_cases one : s.rs rs = 1
    · have last : (s.rs rs - 1 != 0) = false := by rw [one]; rfl
      rw [if_pos one, last]; rfl
    · have more : (s.rs rs - 1 != 0) = true := bne_iff_ne.2 fun h => one (sub_eq_zero.1 h)
      rw [if_neg one, more]; rfl
  · show execCall d k s = _
    rw [execCall, branch_eq, State.me_ws, Regs.setS_pc, State.ws_cur]
    rfl
  · rw [exec_jumpOf i s a link hi]
    intro u odd
    refine ⟨jumpTo_follows s u a, fun f hob e va => ?_, fun f hob e => ?_, fun f hob e va => ?_, fun f hob e lt => ?_,
      fun f hob e => ?_⟩
    · rw [jumpTo_va s u a f hob, if_neg e, if_pos va]
    · rw [jumpTo_va s u a f hob, if_pos e]
    · rw [jumpTo_va s u a f hob, if_neg e, if_neg (by simp [va])]
    · rw [jumpTo_hob s u a f hob, if_neg (not_or.2 ⟨by omega, e⟩)]
    · rw [jumpTo_hob s u a f hob, if_pos e.symm]
  · intro tl hd refused
    have ht : tl = TailB.bits ⟨0, c, d, k⟩ := ofNat_tailB c d k
    have h6 : hd 6 = mkHead 6 a b := ofNat_mkHead 6 a b
    have h7 : hd 7 = mkHead 7 a b := ofNat_mkHead 7 a b
    have h8 : hd 8 = mkHead 8 a b := ofNat_mkHead 8 a b
    have back (i : Instr) (hi : decodeFields 6 a b tl = .ok i) (wf : i.wellFormed = true) : decode (hd 6) tl = .ok i :=
      h6 ▸ decode_of_fields hi wf
    refine ⟨fun hk => ?_, fun h => ?_, fun h => ?_, ?_, ?_, ?_, fun h => h8 ▸ jreg_refused a b h 0⟩
    · have slot : (k != 0#5) = true := bne_iff_ne.2 hk
      rw [ht] at back ⊢
      simp only [decodeFields_cond] at back
      refine ⟨?_, ?_, ?_, ?_, ?_, ?_, ?_, ?_, ?_⟩
      · rintro rfl; exact back _ rfl slot
      · rintro rfl; exact back _ rfl slot
      · rintro rfl; exact back _ rfl slot
      · rintro rfl; exact back _ rfl slot
      · rintro rfl; exact back _ rfl slot
      · rintro rfl; exact back _ rfl slot
      · rintro rfl ha rfl; exact back _ rfl (Bool.and_eq_true _ _ ▸ ⟨bne_iff_ne.2 ha, slot⟩)
      · rintro rfl rfl rfl; exact h7 ▸ decode_of_fields (decodeFields_jumps ..) slot
      · rintro rfl rfl rfl; exact h7 ▸ decode_of_fields (decodeFields_jumps ..) slot
    · simp only [refused, h6, ht]; exact cond_refused a b c d k h
    · simp only [refused, h7, ht]; exact jumps_refused a b c d k h
    · rintro rfl; exact h8 ▸ decode_of_fields rfl rfl
    · rintro rfl; exact h8 ▸ decode_of_fields rfl rfl
    · rintro rfl rfl; exact h8 ▸ decode_of_fields rfl rfl
end

section
/-! SUPPORT. What the operations leave of memory: most leave it as it is, and the others keep its canonical form. -/

namespace Sys2Proof.Machine

/-- Memory is in canonical form where `P` holds: what every operation keeps. -/
def OkIf (P : Prop) (m : List Host.Cell) : Prop := P → Memory.wf m = true

/-- A result goes on, with memory in canonical form where `P` holds. -/
def Goes (P : Prop) (o : Result) : Prop := ∃ t, o = .next t ∧ OkIf P t.mem

@[simp] theorem goes_next {P : Prop} (t : State) : Goes P (.next t) ↔ OkIf P t.mem := by
  constructor
  · rintro ⟨u, e, h⟩; cases e; exact h
  · exact fun h => ⟨t, rfl, h⟩
theorem goes_ite {P c : Prop} {_ : Decidable c} {a b : Result} (ha : Goes P a) (hb : Goes P b) : Goes P (if c then a else b) := by
  split <;> assumption
@[simp] theorem okIf_write {P : Prop} {m : List Host.Cell} (h : OkIf P m) (k : Nat) (l : List Byte) : OkIf P (Memory.write m k l) :=
  fun p => Memory.wf_write m k l (h p)
@[simp] theorem goes_ite_iff {P c : Prop} {_ : Decidable c} {a b : Result} :
    Goes P (if c then a else b) ↔ if c then Goes P a else Goes P b := by split <;> rfl
@[simp] theorem okIf_ite_iff {P c : Prop} {_ : Decidable c} {a b : State} :
    OkIf P (if c then a else b).mem ↔ if c then OkIf P a.mem else OkIf P b.mem := by split <;> rfl
theorem okIf_ite {P c : Prop} {_ : Decidable c} {a b : State} (ha : OkIf P a.mem) (hb : OkIf P b.mem) :
    OkIf P (if c then a else b).mem := by
  split <;> assumption
theorem okIf_ite_fst {α : Type} {P c : Prop} {_ : Decidable c} {a b : State × α} (ha : OkIf P a.1.mem) (hb : OkIf P b.1.mem) :
    OkIf P (if c then a else b).1.mem := by
  split <;> assumption
theorem okIf_ite_snd {α : Type} {P c : Prop} {_ : Decidable c} {a b : α × State} (ha : OkIf P a.2.mem) (hb : OkIf P b.2.mem) :
    OkIf P (if c then a else b).2.mem := by
  split <;> assumption
/-- Memory stays in canonical form through a list of operations that each keep it. -/
@[simp] theorem okIf_foldl {P : Prop} {β : Type} (f : State → β → State) (l : List β) (s : State) (h : OkIf P s.mem)
    (keeps : ∀ s b, OkIf P s.mem → OkIf P (f s b).mem) : OkIf P (l.foldl f s).mem := by
  induction l generalizing s with
  | nil => exact h
  | cons b r ih => exact ih _ (keeps _ _ h)
theorem okIf_foldl_fst {P : Prop} {α β : Type} (f : State × α → β → State × α) (l : List β) (x : State × α) (h : OkIf P x.1.mem)
    (keeps : ∀ x b, OkIf P x.1.mem → OkIf P (f x b).1.mem) : OkIf P (l.foldl f x).1.mem := by
  induction l generalizing x with
  | nil => exact h
  | cons b r ih => exact ih _ (keeps _ _ h)
@[simp] theorem mem_foldl {β : Type} (f : State → β → State) (l : List β) (s : State) (keeps : ∀ s b, (f s b).mem = s.mem) :
    (l.foldl f s).mem = s.mem := foldl_keeps f State.mem l s keeps

theorem mem_of_eq_snd {α : Type} {x : α × State} {a : α} {u s : State} (e : x = (a, u)) (h : x.2.mem = s.mem) : u.mem = s.mem := by
  rw [← h, e]

@[simp] theorem State.mem_setChan (s : State) (core n x) : (s.setChan core n x).mem = s.mem := (rfl)
@[simp] theorem State.mem_setSlot (s : State) (core n x) : (s.setSlot core n x).mem = s.mem := (rfl)
@[simp] theorem State.mem_countStack (s : State) (st n k) : (s.countStack st n k).mem = s.mem := (rfl)
@[simp] theorem State.mem_countPart (s : State) (p n) : (s.countPart p n).mem = s.mem := (rfl)
@[simp] theorem State.mem_logEvent (s : State) (code part loc) : (s.logEvent code part loc).mem = s.mem := by simp
    [State.logEvent]
@[simp] theorem State.mem_noteLines (s : State) (a lines by') : (s.noteLines a lines by').mem = s.mem := (rfl)
@[simp] theorem State.mem_offer (s : State) (d l) : (s.offer d l).mem = s.mem := (rfl)
@[simp] theorem mem_fireEntry (s : State) (cl e) : (fireEntry s cl e).mem = s.mem := (rfl)
@[simp] theorem mem_evalEntry (s : State) (cl e) : (evalEntry s cl e).mem = s.mem := by simp [evalEntry, apply_ite State.mem]
@[simp] theorem mem_evalEntries (s : State) (cl i) : (evalEntries s cl i).mem = s.mem := by simp [evalEntries]
@[simp] theorem mem_wtStore (s : State) (cl e j w) : (wtStore s cl e j w).mem = s.mem := by
  unfold wtStore
  split <;> simp [apply_ite State.mem]
@[simp] theorem State.mem_putCounter (s : State) (cl i w) : (s.putCounter cl i w).mem = s.mem := (rfl)
@[simp] theorem mem_countUp (s : State) (cl i) : (countUp s cl i).mem = s.mem := by simp [countUp]
@[simp] theorem mem_notifyUp (s : State) (cl i) : (notifyUp s cl i).mem = s.mem := (rfl)
@[simp] theorem State.mem_storeWindow (s : State) (h off bytes) : (s.storeWindow h off bytes).mem = s.mem := by
  unfold State.storeWindow
  dsimp only
  split <;> simp [apply_ite State.mem]
@[simp] theorem mem_storeCtl (s : State) (cl off bytes) : (storeCtl s cl off bytes).mem = s.mem := by simp [storeCtl, apply_ite State.mem]
@[simp] theorem mem_storeHob (s : State) (k bytes) : (storeHob s k bytes).mem = s.mem := (rfl)
@[simp] theorem State.okIf_writeAt {P : Prop} (s : State) (by' k bytes) (ok : OkIf P s.mem) : OkIf P (s.writeAt by' k bytes).mem := by
  unfold State.writeAt
  dsimp only
  (repeat' split) <;> simp [ok]
@[simp] theorem State.mem_lookupPage (s : State) (st p va write) : (s.lookupPage st p va write).2.mem = s.mem := by
  unfold State.lookupPage
  (repeat' split) <;> simp
@[simp] theorem State.mem_xlateAt (s : State) (st p acc va write thru) : (s.xlateAt st p acc va write thru).2.mem = s.mem := by
  unfold State.xlateAt
  grind [State.mem_lookupPage]
@[simp] theorem State.mem_xlateFrom (s : State) (p acc va write st thru n) : (s.xlateFrom p acc va write st thru n).2.mem =
    s.mem := by
  induction n generalizing s st with
  | zero => exact State.mem_xlateAt ..
  | succ n ih =>
    unfold State.xlateFrom
    split
    next e => exact (ih ..).trans (mem_of_eq_snd e (State.mem_xlateAt ..))
    next => exact State.mem_xlateAt ..
@[simp] theorem State.mem_xlate (s : State) (p acc va write thru) : (s.xlate p acc va write thru).2.mem = s.mem := by simp
    [State.xlate]
@[simp] theorem State.mem_xlateRange (s : State) (p acc va n write thru) : (s.xlateRange p acc va n write thru).2.mem = s.mem := by
  unfold State.xlateRange
  refine foldl_keeps _ (fun r : Except Xres (List (Nat × Nat × Nat)) × State => r.2.mem) _ _ fun r x => ?_
  split
  next => rfl
  next l u =>
    split
    next e => exact mem_of_eq_snd e (State.mem_xlate ..)
    next e => exact mem_of_eq_snd e (State.mem_xlate ..)
@[simp] theorem State.mem_readVA (s : State) (p acc va n) : (s.readVA p acc va n).2.mem = s.mem := by
  unfold State.readVA
  grind [State.mem_xlateRange]
@[simp] theorem State.okIf_writeVA {P : Prop} (s : State) (by' p acc va bytes) (ok : OkIf P s.mem) :
    OkIf P (s.writeVA by' p acc va bytes).2.mem := by
  unfold State.writeVA
  split
  next l u e =>
    have hu : u.mem = s.mem := mem_of_eq_snd e (State.mem_xlateRange ..)
    exact okIf_foldl _ _ _ (hu ▸ ok) fun _ _ => State.okIf_writeAt _ _ _ _
  next u e =>
    have hu : u.mem = s.mem := mem_of_eq_snd e (State.mem_xlateRange ..)
    exact hu ▸ ok
@[simp] theorem State.mem_fetchLine (s : State) (h pc) : (s.fetchLine h pc).2.mem = s.mem := by
  unfold State.fetchLine
  grind [State.mem_xlate]
@[simp] theorem State.mem_holdLine (s : State) (h pc l) : (s.holdLine h pc l).mem = s.mem := by
  unfold State.holdLine
  split <;> simp
@[simp] theorem State.mem_fetchUnit (s : State) (h pc u) : (s.fetchUnit h pc u).mem = s.mem := by
  unfold State.fetchUnit
  grind [State.mem_xlate, State.setThread_mem]
@[simp] theorem State.mem_hobTick (s : State) (h) : (s.hobTick h).mem = s.mem := (rfl)
@[simp] theorem State.mem_leadTo (s : State) (h g x pc) : (s.leadTo h g x pc).mem = s.mem := by
  simp only [State.leadTo]
  split
  · exact mem_foldl _ _ _ fun _ _ => rfl
  · rfl
@[simp] theorem State.mem_goto (s : State) (h pc) : (s.goto h pc).mem = s.mem := by
  unfold State.goto
  dsimp only
  (repeat' split) <;> simp
@[simp] theorem State.mem_advance (s : State) (h) : (s.advance h).mem = s.mem := by
  unfold State.advance
  dsimp only
  split <;> simp [apply_ite State.mem]
@[simp] theorem State.goes_done {P : Prop} (s : State) (ok : OkIf P s.mem) : Goes P (s.done) := by simp [State.done, ok]
@[simp] theorem State.goes_stalled {P : Prop} (s : State) (i) (ok : OkIf P s.mem) : Goes P (s.stalled i) := by simp
    [State.stalled, ok]
@[simp] theorem State.mem_pushMsg (s : State) (h item) : (s.pushMsg h item).mem = s.mem := (rfl)
@[simp] theorem State.mem_dropMsg (s : State) (id) : (s.dropMsg id).mem = s.mem := (rfl)
@[simp] theorem State.okIf_setTileEl {P : Prop} (s : State) (cl t pair i j v) (ok : OkIf P s.mem) : OkIf P (s.setTileEl cl t
    pair i j v).mem := by simp [State.setTileEl, ok]
@[simp] theorem okIf_addAddend {P : Prop} (s : State) (cl a) (ok : OkIf P s.mem) : OkIf P (addAddend s cl a).mem := by
  unfold addAddend
  extract_lets m width f w new vals t u bad left v
  have ht : OkIf P u.mem := okIf_ite ok (okIf_foldl _ _ _ ok fun _ _ => State.okIf_setTileEl _ _ _ _ _ _ _)
  exact okIf_ite ok (okIf_ite (okIf_ite ht ht) ht)
@[simp] theorem okIf_applyAddend {P : Prop} (s : State) (cl a) (ok : OkIf P s.mem) : OkIf P (applyAddend s cl a).mem := by
  unfold applyAddend
  split <;> simp [ok]
@[simp] theorem okIf_arriveAddend {P : Prop} (s : State) (cl a) (ok : OkIf P s.mem) : OkIf P (arriveAddend s cl a).mem := by
    simp [arriveAddend, ok]
@[simp] theorem State.mem_boundary (s : State) (h) : (s.boundary h).mem = s.mem := by simp [State.boundary]
@[simp] theorem mem_returnValue (s : State) (h id rd w) : (returnValue s h id rd w).mem = s.mem := by simp [returnValue,
    apply_ite State.mem]
@[simp] theorem okIf_reduceStep {P : Prop} (s : State) (h kind k tag ci lines) (ok : OkIf P s.mem) : OkIf P (reduceStep s h
    kind k tag ci lines).1.mem := by
  unfold reduceStep
  dsimp only
  (repeat' split) <;> simp [ok]
@[simp] theorem okIf_reduceAt {P : Prop} (s : State) (h kind k tag ci lines n) (ok : OkIf P s.mem) :
    OkIf P (reduceAt s h kind k tag ci lines n).mem := by
  induction n generalizing s k lines with
  | zero => exact ok
  | succ n ih => exact okIf_ite ok (ih _ _ _ (okIf_reduceStep _ _ _ _ _ _ _ ok))
@[simp] theorem okIf_performItem {P : Prop} (s : State) (m) (ok : OkIf P s.mem) : OkIf P (performItem s m).mem := by
  have stores (l : List (Nat × List Byte)) (t : State) (ht : OkIf P t.mem) :
      OkIf P (l.foldl (fun s x => s.writeAt m.hart x.1 x.2) t).mem :=
    okIf_foldl _ _ _ ht fun _ _ => State.okIf_writeAt _ _ _ _
  unfold performItem
  cases m.item with
  | rmw k op size v cmp ret sx =>
    dsimp only
    generalize rmwNew _ _ _ _ _ = new
    cases new <;> cases ret <;> simp [ok]
  | putc c d g p => cases d <;> simp [ok]
  | apndRow l f len => exact State.okIf_writeAt _ _ _ _ (stores _ _ ok)
  | _ => simp [ok]
@[simp] theorem State.okIf_drain {P : Prop} (s : State) (h) (ok : OkIf P s.mem) : OkIf P (s.drain h).mem :=
  okIf_foldl _ _ _ ok fun _ _ ht => okIf_ite (okIf_performItem _ _ ht) ht
@[simp] theorem State.mem_markEnded (s : State) (h) : (s.markEnded h).mem = s.mem := (rfl)
@[simp] theorem State.mem_rewind (s : State) (h path) : (s.rewind h path).mem = s.mem := (rfl)
@[simp] theorem State.mem_restart (s : State) (h) : (s.restart h).mem = s.mem := by
  unfold State.restart
  split <;> simp [apply_ite State.mem]
@[simp] theorem State.mem_squash (s : State) (h) : (s.squash h).mem = s.mem := by simp [State.squash, apply_ite State.mem]
@[simp] theorem okIf_commitStore {P : Prop} (s : State) (h w) (ok : OkIf P s.mem) : OkIf P (commitStore s h w).mem := by simp
    [commitStore, ok]
@[simp] theorem State.okIf_commit {P : Prop} (s : State) (h) (ok : OkIf P s.mem) : OkIf P (s.commit h).mem := by
  rw [State.mem_commit]
  exact okIf_foldl _ _ _ ok fun _ _ => okIf_commitStore _ _ _
theorem State.okIf_of_endChunk_error {P : Prop} {s t : State} {h : Hart} (e : s.endChunk h = .error t) (ok : OkIf P s.mem) :
    OkIf P t.mem := by
  unfold State.endChunk at e
  split at e
  · cases e; simp [ok]
  · (repeat' split at e) <;> cases e <;> simp [ok]
theorem State.okIf_of_endChunk_ok {P : Prop} {s t : State} {h : Hart} (e : s.endChunk h = .ok t) (ok : OkIf P s.mem) :
    OkIf P t.mem := by
  unfold State.endChunk at e
  split at e
  · cases e
  · (repeat' split at e) <;> cases e
    exact State.okIf_commit _ _ ok
@[simp] theorem State.goes_doneStrong {P : Prop} (s : State) (ok : OkIf P s.mem) : Goes P (s.doneStrong) := by simp
    [State.doneStrong, ok]
@[simp] theorem goes_withChunkEnd {P : Prop} (s : State) (k : State → Result) (ok : OkIf P s.mem)
    (hk : ∀ t, OkIf P t.mem → Goes P (k t)) : Goes P (withChunkEnd s k) := by
  unfold withChunkEnd
  split
  next e => exact (goes_next _).2 (State.okIf_of_endChunk_error e ok)
  next e => exact hk _ (State.okIf_of_endChunk_ok e ok)
@[simp] theorem goes_withRelease {P : Prop} (s : State) (k : State → Result) (ok : OkIf P s.mem)
    (hk : ∀ t, OkIf P t.mem → Goes P (k t)) : Goes P (withRelease s k) :=
  goes_withChunkEnd s _ ok fun t ht => goes_ite ((goes_next t).2 ht) (hk _ (State.okIf_drain t _ ht))
@[simp] theorem State.mem_fixInst (s : State) (acc) : (s.fixInst acc).mem = s.mem := by
  unfold State.fixInst
  split <;> simp
@[simp] theorem State.mem_gangWaits (s : State) (g) : (s.gangWaits g).mem = s.mem := by
  unfold State.gangWaits
  (repeat' split) <;> simp
@[simp] theorem okIf_putRecord {P : Prop} (s : State) (h c off bytes) (ok : OkIf P s.mem) : OkIf P (putRecord s h c off
    bytes).mem := by simp [putRecord, ok]
@[simp] theorem okIf_putStatus {P : Prop} (s : State) (h c st) (ok : OkIf P s.mem) : OkIf P (putStatus s h c st).mem := by simp
    [putStatus, ok]
@[simp] theorem okIf_putPc {P : Prop} (s : State) (h c pc) (ok : OkIf P s.mem) : OkIf P (putPc s h c pc).mem := by simp [putPc, ok]
@[simp] theorem mem_readRecord (s : State) (p rcd) : (readRecord s p rcd).2.mem = s.mem := by simp [readRecord]
@[simp] theorem State.mem_releaseArray (s : State) (h) : (s.releaseArray h).mem = s.mem := by simp [State.releaseArray,
    apply_ite State.mem]
@[simp] theorem State.mem_freeSlot (s : State) (tile k) : (s.freeSlot tile k).mem = s.mem := (rfl)
@[simp] theorem mem_publishTile (s : State) (tile n) : (publishTile s tile n).mem = s.mem := by
  induction n generalizing s with
  | zero => rfl
  | succ n ih =>
    unfold publishTile
    dsimp only
    (repeat' split) <;> simp [ih]
@[simp] theorem State.mem_endSuccessor (s : State) (k) : (s.endSuccessor k).mem = s.mem := by simp [State.endSuccessor,
    apply_ite State.mem]
@[simp] theorem okIf_endRecord {P : Prop} (s : State) (h c status) (ok : OkIf P s.mem) : OkIf P (endRecord s h c status).mem := by
  unfold endRecord
  split
  · exact ok
  · refine okIf_ite ok (okIf_ite (okIf_foldl _ _ _ ?_ fun _ _ => okIf_putStatus _ _ _ _) (by simpa using ok))
    split <;> simp [ok, apply_ite State.mem]
@[simp] theorem State.mem_enqueue (s : State) (p e) : (s.enqueue p e).mem = s.mem := by
  unfold State.enqueue
  split <;> simp
@[simp] theorem State.mem_dropToken (s : State) (h) : (s.dropToken h).mem = s.mem := by simp [State.dropToken, apply_ite State.mem]
@[simp] theorem State.mem_goIdle (s : State) (h) : (s.goIdle h).mem = s.mem := by simp [State.goIdle]
@[simp] theorem mem_leaveGang (s : State) (h) : (leaveGang s h).mem = s.mem := by
  unfold leaveGang
  split <;> simp
@[simp] theorem okIf_putMailbox {P : Prop} (s : State) (h p acc mbox first rest) (ok : OkIf P s.mem) : OkIf P (putMailbox s h p
    acc mbox first rest).mem := by
  unfold putMailbox
  split <;> simp [ok]
@[simp] theorem okIf_endHob {P : Prop} (s : State) (h stop fcode rest) (ok : OkIf P s.mem) : OkIf P (endHob s h stop fcode rest).mem := by
  unfold endHob
  dsimp only
  split <;> simp -implicitDefEqProofs [ok]
@[simp] theorem goes_hobFault {P : Prop} (s : State) (h fcode) (ok : OkIf P s.mem) : Goes P (hobFault s h fcode) := by
  unfold hobFault
  dsimp only
  split
  next e => exact (goes_next _).2 (State.okIf_of_endChunk_error e ok)
  next u e =>
    have hu := State.okIf_of_endChunk_ok e ok
    have hd := State.okIf_drain u h hu
    simp [hu, hd]
@[simp] theorem State.mem_addTrap (s : State) (p d) : (s.addTrap p d).mem = s.mem := (rfl)
@[simp] theorem mem_landPending (s : State) (h) : (landPending s h).mem = s.mem := by
  unfold landPending
  dsimp only
  split <;> simp [apply_ite State.mem]
@[simp] theorem mem_landAll (s : State) (h) : (landAll s h).mem = s.mem := by simp [landAll]
@[simp] theorem State.mem_leaderTraps (s : State) (h code) : (s.leaderTraps h code).mem = s.mem := by
  unfold State.leaderTraps
  split <;> simp [apply_ite State.mem]
@[simp] theorem okIf_park {P : Prop} (s : State) (h i) (ok : OkIf P s.mem) : OkIf P (park s h i).mem := by
  unfold park
  grind [mem_landAll, State.okIf_drain, okIf_putPc, okIf_putStatus, State.mem_addTrap, State.mem_leaderTraps,
      State.noteWindow_mem, State.setThread_mem]
@[simp] theorem goes_takeTrapInfo {P : Prop} (s : State) (h i) (ok : OkIf P s.mem) : Goes P (takeTrapInfo s h i) := by
  unfold takeTrapInfo
  refine goes_ite (goes_hobFault _ _ _ ok) ?_
  split
  next e => exact (goes_next _).2 (State.okIf_of_endChunk_error e ok)
  next e => have := State.okIf_of_endChunk_ok e ok; simp [this]
@[simp] theorem goes_takeTrap {P : Prop} (s : State) (code addr detail) (ok : OkIf P s.mem) : Goes P (takeTrap s code addr
    detail) := by simp [takeTrap, ok]
@[simp] theorem goes_illegal {P : Prop} (s : State) (ok : OkIf P s.mem) : Goes P (illegal s) := by simp [illegal, ok]
@[simp] theorem goes_misalign {P : Prop} (s : State) (a) (ok : OkIf P s.mem) : Goes P (misalign s a) := by simp [misalign, ok]
@[simp] theorem goes_windowTrap {P : Prop} (s : State) (a) (ok : OkIf P s.mem) : Goes P (windowTrap s a) := by simp
    [windowTrap, ok]
@[simp] theorem goes_pageTrap {P : Prop} (s : State) (a) (ok : OkIf P s.mem) : Goes P (pageTrap s a) := by simp [pageTrap, ok]
@[simp] theorem okIf_chanEnd {P : Prop} (s : State) (h j stop fcode fva st) (ok : OkIf P s.mem) : OkIf P (chanEnd s h j stop
    fcode fva st).mem := by simp [chanEnd, ok]
@[simp] theorem okIf_resumeJob {P : Prop} (s : State) (k j) (ok : OkIf P s.mem) : OkIf P (resumeJob s k j).mem := by simp
    [resumeJob, ok]
@[simp] theorem okIf_retireHart {P : Prop} (s : State) (k) (ok : OkIf P s.mem) : OkIf P (retireHart s k).mem := by
  unfold retireHart
  grind [State.mem_releaseArray, okIf_putStatus, State.mem_goIdle, State.setJob_mem, okIf_chanEnd, okIf_endRecord]
@[simp] theorem okIf_finishRetiring {P : Prop} (s : State) (h) (ok : OkIf P s.mem) : OkIf P (finishRetiring s h).mem := by simp
    [finishRetiring, ok]
@[simp] theorem okIf_releaseHart {P : Prop} (s : State) (k) (ok : OkIf P s.mem) : OkIf P (releaseHart s k).mem := by
  unfold releaseHart
  dsimp only
  split <;> simp [ok]
@[simp] theorem okIf_resumeGang {P : Prop} (s : State) (g x) (ok : OkIf P s.mem) : OkIf P (resumeGang s g x).mem := by
  unfold resumeGang
  extract_lets stopped t
  have ht : OkIf P t.mem := okIf_foldl _ _ _ ok fun _ _ => okIf_releaseHart _ _
  exact okIf_ite (okIf_ite (by simpa using ht) ht) (by simpa using ok)
@[simp] theorem okIf_releaseMember {P : Prop} (s : State) (g x k rcd skip) (ok : OkIf P s.mem) : OkIf P (releaseMember s g x k
    rcd skip).mem := by
  unfold releaseMember
  grind [okIf_resumeGang, okIf_putPc, okIf_releaseHart, State.setGang_mem]
@[simp] theorem okIf_retireQueued {P : Prop} (s : State) (h p acc rcd) (ok : OkIf P s.mem) : OkIf P (retireQueued s h p acc
    rcd).mem := by simp -implicitDefEqProofs [retireQueued, ok]
@[simp] theorem okIf_retireGang {P : Prop} (s : State) (h p g x) (ok : OkIf P s.mem) : OkIf P (retireGang s h p g x).mem := by
  refine okIf_foldl _ _ _ (okIf_foldl _ _ _ ok fun t m ht => ?_) fun _ _ => okIf_retireQueued _ _ _ _ _
  exact okIf_ite (okIf_retireHart _ _ ht) ht
@[simp] theorem okIf_trapReturn {P : Prop} (s : State) (h rcd gen action) (ok : OkIf P s.mem) : OkIf P (trapReturn s h rcd gen
    action).mem := by
  unfold trapReturn
  grind [mem_readRecord, State.mem_countPart, okIf_retireGang, okIf_releaseMember, okIf_retireHart, okIf_resumeJob, okIf_putPc,
      okIf_releaseHart]

end Sys2Proof.Machine
end

section
/-! SUPPORT. Memory stays canonical through operands, accesses, control and messages. -/

namespace Sys2Proof.Machine

@[simp] theorem goes_addressTrap {P : Prop} (s : State) (t ea) (ok : OkIf P s.mem) : Goes P (addressTrap s t ea) := by simp
    [addressTrap, ok]
@[simp] theorem State.mem_noteRead (s : State) (h k n) : (s.noteRead h k n).mem = s.mem := (rfl)
@[simp] theorem State.mem_weakStore (s : State) (h k bytes) : (s.weakStore h k bytes).mem = s.mem := by simp [State.weakStore,
    apply_ite State.mem]
@[simp] theorem State.mem_popTo (s : State) (h ch n) : (s.popTo h ch n).mem = s.mem := (rfl)
@[simp] theorem State.mem_dropQuery (s : State) (core ch qid) : (s.dropQuery core ch qid).mem = s.mem := (rfl)
theorem mem_of_popOne {s u : State} {n : Reg} {b : Binding} {v : List (Reg × Vec)} (h : popOne s n b = .ok v u) : u.mem = s.mem := by
  unfold popOne at h
  dsimp only at h
  repeat' split at h
  all_goals simp only [Pop.ok.injEq, reduceCtorEq] at h
  all_goals rw [← h.2]; rfl
theorem mem_of_popAll {l : List Reg} {s u : State} {v : List (Reg × Vec)} (h : popAll s l = .ok v u) : u.mem = s.mem := by
  induction l generalizing s u v with
  | nil => cases h; rfl
  | cons n r ih =>
    simp only [popAll] at h
    split at h
    next vals t e =>
      have ht := ih e
      split at h
      · cases h; exact ht
      · split at h
        · cases h; exact ht
        · split at h
          next e' => cases h; exact (mem_of_popOne e').trans ht
          next hx => exact absurd h (hx _ _)
    next hx => exact absurd h (hx _ _)
@[simp] theorem goes_rangeTrap {P : Prop} (s : State) (ch qid slot) (ok : OkIf P s.mem) : Goes P (rangeTrap s ch qid slot) := by
  unfold rangeTrap
  split
  next e => exact (goes_next _).2 (State.okIf_of_endChunk_error e ok)
  next u e =>
    have hu := State.okIf_of_endChunk_ok e ok
    have hq : OkIf P (u.dropQuery (hartCore u.cur) ch qid).mem := hu
    simp [hu, hq]
theorem goes_withDir {P : Prop} (s : State) (srcs dst) (k : State → Result) (ok : OkIf P s.mem)
    (hk : ∀ t, OkIf P t.mem → Goes P (k t)) : Goes P (withDir s srcs dst k) := by
  unfold withDir
  split
  · simp [ok]
  · exact goes_ite ((goes_next _).2 ok) (hk s ok)
theorem goes_withPops {P : Prop} (s : State) (i srcs) (k : State → (Reg → Vec) → Result) (ok : OkIf P s.mem)
    (hk : ∀ t v, OkIf P t.mem → Goes P (k t v)) : Goes P (withPops s i srcs k) := by
  unfold withPops
  split
  · simp [ok]
  · simp [ok]
  next e => exact hk _ _ ((mem_of_popAll e).symm ▸ ok)
@[simp] theorem State.mem_putV (s : State) (n x) : (s.putV n x).mem = s.mem := by
  unfold State.putV
  dsimp only
  split <;> simp [apply_ite State.mem]
@[simp] theorem State.goes_doneV {P : Prop} (s : State) (vd x f) (ok : OkIf P s.mem) : Goes P (s.doneV vd x f) := by simp
    [State.doneV, ok]
@[simp] theorem State.goes_doneS {P : Prop} (s : State) (rd w f) (ok : OkIf P s.mem) : Goes P (s.doneS rd w f) := by
    simp -implicitDefEqProofs [State.doneS, ok]
@[simp] theorem mem_takeToken (s : State) (h) : (takeToken s h).mem = s.mem := by simp [takeToken, apply_ite State.mem]
theorem goes_weakLoad {P : Prop} (s : State) (i k n) (f : State → Nat → Result) (ok : OkIf P s.mem)
    (hf : ∀ t v, OkIf P t.mem → Goes P (f t v)) : Goes P (weakLoad s i k n f) :=
  goes_ite (by simp [ok]) (goes_ite (hf _ _ (by simpa using ok)) (by simp [ok]))
@[simp] theorem goes_weakStoreTo {P : Prop} (s : State) (i k bytes) (ok : OkIf P s.mem) : Goes P (weakStoreTo s i k bytes) :=
    by simp [weakStoreTo, ok]
theorem goes_hobData {P : Prop} (s : State) (ea n) (f : Nat → Result) (ok : OkIf P s.mem) (hf : ∀ k, Goes P (f k)) :
    Goes P (hobData s ea n f) := goes_ite (hf _) (by simp [ok])
@[simp] theorem goes_execLd {P : Prop} (rd base ty off) (s : State) (ok : OkIf P s.mem) : Goes P (execLd rd base ty off s) := by
  have fin (k) : Goes P (weakLoad s (.ld rd base ty off) k (tyBytes ty) (fun s v => (s.ws rd (extendTy ty v)).done)) :=
    goes_weakLoad _ _ _ _ _ ok fun t v ht => State.goes_done _ ht
  unfold execLd
  refine goes_ite (goes_hobData _ _ _ _ ok fin) ?_
  split
  · simp [ok]
  · exact fin _
@[simp] theorem goes_execSt {P : Prop} (rs base ty off) (s : State) (ok : OkIf P s.mem) : Goes P (execSt rs base ty off s) := by
  unfold execSt
  refine goes_ite (goes_hobData _ _ _ _ ok fun k => goes_weakStoreTo _ _ _ _ ok) ?_
  split <;> simp [ok]
@[simp] theorem goes_execLdv {P : Prop} (vd base off) (s : State) (ok : OkIf P s.mem) : Goes P (execLdv vd base off s) := by
  unfold execLdv
  refine goes_withDir _ _ _ _ ok fun t ht => ?_
  split
  · simp [ht]
  · exact goes_weakLoad _ _ _ _ _ ht fun u v hu => by simp [hu]
@[simp] theorem goes_execStv {P : Prop} (vs base off) (s : State) (ok : OkIf P s.mem) : Goes P (execStv vs base off s) := by
  unfold execStv
  refine goes_withDir _ _ _ _ ok fun t ht => ?_
  split
  · simp [ht]
  · exact goes_ite (by simp [ht]) (goes_withPops _ _ _ _ ht fun u v hu => by simp [hu])
theorem goes_strongly {P : Prop} (s : State) (i k n) (f : State → Result) (ok : OkIf P s.mem)
    (hf : ∀ t, OkIf P t.mem → Goes P (f t)) : Goes P (strongly s i k n f) := goes_ite (by simp [ok]) (hf s ok)
@[simp] theorem goes_execLda {P : Prop} (rd base ty off scope) (s : State) (ok : OkIf P s.mem) : Goes P (execLda rd base ty off
    scope s) := by
  unfold execLda
  dsimp only
  split
  · simp [ok]
  · exact goes_withChunkEnd _ _ ok fun t ht => goes_strongly _ _ _ _ _ ht fun u hu => State.goes_doneStrong _ hu
@[simp] theorem goes_execStl {P : Prop} (rs base ty off scope) (s : State) (ok : OkIf P s.mem) : Goes P (execStl rs base ty off
    scope s) := by
  unfold execStl
  dsimp only
  split
  · simp [ok]
  · exact goes_withRelease _ _ ok fun t ht => goes_strongly _ _ _ _ _ ht fun u hu => by simp [hu]
theorem goes_stackAccess {P : Prop} (s : State) (i ea n write) (f : State → List (Nat × Nat × Nat) → Result) (ok : OkIf P s.mem)
    (hf : ∀ t l, OkIf P t.mem → Goes P (f t l)) : Goes P (stackAccess s i ea n write f) := by
  have walked {r u} (e : s.xlateRange s.myPart s.myAcc (vaOf ea) n write = (r, u)) : OkIf P u.mem :=
    mem_of_eq_snd e (State.mem_xlateRange ..) ▸ ok
  unfold stackAccess
  refine goes_ite (by simp [ok]) ?_
  split
  next e => exact goes_ite (by simp [walked e]) (hf _ _ (walked e))
  all_goals next e => simp [walked e]
theorem goes_dldAccess {P : Prop} (s : State) (i ea n write) (f : State → List (Nat × Nat × Nat) → Result) (ok : OkIf P s.mem)
    (hf : ∀ t l, OkIf P t.mem → Goes P (f t l)) : Goes P (dldAccess s i ea n write f) := by
  have go := goes_stackAccess s i ea n write f ok hf
  unfold dldAccess
  split
  · exact goes_ite (by simp [ok]) (goes_ite go (by simp [ok]))
  · exact go
@[simp] theorem State.mem_noteParts (s : State) (h l) : (s.noteParts h l).mem = s.mem := by simp [State.noteParts, apply_ite State.mem]
@[simp] theorem State.mem_storeParts (s : State) (h l bytes) : (s.storeParts h l bytes).mem = s.mem := by simp
    [State.storeParts]
@[simp] theorem goes_execDld {P : Prop} (rd base ty off) (s : State) (ok : OkIf P s.mem) : Goes P (execDld rd base ty off s) :=
  goes_dldAccess _ _ _ _ _ _ ok fun t l ht => by simp [ht]
@[simp] theorem goes_execDldVector {P : Prop} (vd base off) (s : State) (ok : OkIf P s.mem) : Goes P (execDldVector vd base off s) :=
  goes_dldAccess _ _ _ _ _ _ ok fun t l ht => by simp [ht]
@[simp] theorem goes_execDst {P : Prop} (rs base ty off) (s : State) (ok : OkIf P s.mem) : Goes P (execDst rs base ty off s) :=
  goes_dldAccess _ _ _ _ _ _ ok fun t l ht => by simp [ht]
@[simp] theorem goes_execDstVector {P : Prop} (vs base off) (s : State) (ok : OkIf P s.mem) : Goes P (execDstVector vs base off s) :=
  goes_dldAccess _ _ _ _ _ _ ok fun t l ht => by simp [ht]
@[simp] theorem goes_execChunkCommit {P : Prop} (s : State) (ok : OkIf P s.mem) : Goes P (execChunkCommit s) := by
  unfold execChunkCommit
  dsimp only
  (repeat' split) <;> simp [ok]
@[simp] theorem goes_execRemoteStoreCommit {P : Prop} (s : State) (ok : OkIf P s.mem) : Goes P (execRemoteStoreCommit s) := by
  unfold execRemoteStoreCommit
  (repeat' split) <;> simp [ok]
@[simp] theorem goes_execRemoteLoad {P : Prop} (s : State) (ok : OkIf P s.mem) : Goes P (execRemoteLoad s) := by
  unfold execRemoteLoad
  dsimp only
  split <;> simp -implicitDefEqProofs [ok]
@[simp] theorem goes_execRegisterWrite {P : Prop} (s : State) (ok : OkIf P s.mem) : Goes P (execRegisterWrite s) := by
  unfold execRegisterWrite
  (repeat' split) <;> simp [ok]
@[simp] theorem goes_branch {P : Prop} (s : State) (taken ldisp slot) (ok : OkIf P s.mem) : Goes P (branch s taken ldisp slot)
    := by simp [branch, ok]
@[simp] theorem goes_jumpTo {P : Prop} (s : State) (a) (t : State) (ok : OkIf P s.mem) (ht : OkIf P t.mem) : Goes P (jumpTo s a t) := by
  simp [jumpTo, ok, ht]
@[simp] theorem goes_execJmpr {P : Prop} (rs) (s : State) (ok : OkIf P s.mem) : Goes P (execJmpr rs s) := goes_jumpTo _ _ _ ok
    ok
@[simp] theorem goes_execCallr {P : Prop} (rs) (s : State) (ok : OkIf P s.mem) : Goes P (execCallr rs s) :=
  goes_jumpTo _ _ _ ok (by simpa using ok)
@[simp] theorem goes_execRet {P : Prop} (s : State) (ok : OkIf P s.mem) : Goes P (execRet s) := goes_jumpTo _ _ _ ok ok
@[simp] theorem mem_noteGang (s : State) (h next) : (noteGang s h next).mem = s.mem := by
  unfold noteGang
  dsimp only
  (repeat' split) <;> simp
theorem okIf_leave {P : Prop} (s : State) (h status pc) (f : State → State) (ok : OkIf P s.mem)
    (hf : ∀ t, OkIf P t.mem → OkIf P (f t).mem) : OkIf P (leave s h status pc f).mem := by
  unfold leave
  cases pc with
  | none => simpa using hf _ (by simp [ok])
  | some w => simpa using hf _ (by simp -implicitDefEqProofs [ok])
@[simp] theorem State.mem_noteSaving (s : State) : (s.noteSaving).mem = s.mem := by
  unfold State.noteSaving
  split <;> simp
@[simp] theorem goes_execSafe {P : Prop} (k) (s : State) (ok : OkIf P s.mem) : Goes P (execSafe k s) := by
  unfold execSafe
  split
  · simp [ok]
  · exact goes_ite (by simp [ok]) (goes_withChunkEnd _ _ ok fun t ht => goes_ite (by simpa using ht) (by simp [ht]))
@[simp] theorem goes_execSaved {P : Prop} (s : State) (ok : OkIf P s.mem) : Goes P (execSaved s) := by
  unfold execSaved
  split
  · simp [ok]
  · refine goes_withRelease _ _ ok fun t ht => (goes_next _).2 ?_
    exact okIf_leave _ _ _ _ _ (okIf_putRecord _ _ _ _ _ ht) fun u hu => by simpa using hu
@[simp] theorem mem_offerAll (s : State) (h c l) : (offerAll s h c l).mem = s.mem := by simp [offerAll]
@[simp] theorem goes_execExit {P : Prop} (first count) (s : State) (ok : OkIf P s.mem) : Goes P (execExit first count s) := by
  refine goes_ite (by simp [ok]) (goes_withRelease _ _ ok fun t ht => goes_ite (by simp [ht]) ((goes_next _).2 ?_))
  refine okIf_leave _ _ _ _ _ ht fun u hu => ?_
  dsimp only
  split
  · refine okIf_ite (okIf_putStatus _ _ _ _ ?_) ?_
    all_goals simpa using okIf_chanEnd _ _ _ _ _ _ _ (by simpa using hu)
  · have he (v : State) (hv : OkIf P v.mem) (h c) : OkIf P (leaveGang (endRecord v h c 7) h).mem := by simp [hv]
    refine okIf_ite (okIf_putStatus _ _ _ _ ?_) ?_
    all_goals exact he _ (by simpa using hu) _ _
@[simp] theorem State.mem_noteVals (s : State) (w th) : (s.noteVals w th).mem = s.mem := by
  unfold State.noteVals
  split <;> simp
@[simp] theorem goes_execWaitc {P : Prop} (sc st) (s : State) (ok : OkIf P s.mem) : Goes P (execWaitc sc st s) := by
  unfold execWaitc
  refine goes_ite (by simp [ok]) ?_
  dsimp only
  split
  · simp [ok]
  · refine goes_withRelease _ _ (by simpa using ok) fun t ht => (goes_next _).2 ?_
    exact okIf_leave _ _ _ _ _ ht fun u hu => by simpa using hu
@[simp] theorem goes_execYield {P : Prop} (s : State) (ok : OkIf P s.mem) : Goes P (execYield s) := by
  refine goes_ite (by simp [ok]) (goes_withRelease _ _ ok fun t ht => (goes_next _).2 ?_)
  exact okIf_leave _ _ _ _ _ ht fun u hu => by simpa using hu
@[simp] theorem State.mem_bindSplit (s : State) (h) : (s.bindSplit h).mem = s.mem := by
  unfold State.bindSplit
  dsimp only
  split <;> simp [apply_ite State.mem]
@[simp] theorem goes_execSplit {P : Prop} (s : State) (ok : OkIf P s.mem) : Goes P (execSplit s) := by
  unfold execSplit
  refine goes_ite (by simp [ok]) ?_
  split
  · simp [ok]
  · refine goes_withChunkEnd _ _ ok fun t ht => ?_
    dsimp only
    split <;> simp [ht]
@[simp] theorem goes_execChunk {P : Prop} (s : State) (ok : OkIf P s.mem) : Goes P (execChunk s) := by
  unfold execChunk
  grind [goes_withChunkEnd, State.goes_doneStrong]
@[simp] theorem goes_execFence {P : Prop} (_scope) (s : State) (ok : OkIf P s.mem) : Goes P (execFence _scope s) := by
  unfold execFence
  grind [goes_withRelease, State.goes_doneStrong]
@[simp] theorem goes_execHalt {P : Prop} (s : State) (ok : OkIf P s.mem) : Goes P (execHalt s) :=
  goes_ite (goes_withRelease _ _ ok fun t ht => by simp [ht]) (goes_withChunkEnd _ _ ok fun t ht => by simp [ht])
@[simp] theorem goes_execTret {P : Prop} (sb) (s : State) (ok : OkIf P s.mem) : Goes P (execTret sb s) := by
  unfold execTret
  grind [goes_illegal, goes_takeTrap, goes_withRelease, State.goes_stalled, State.goes_doneStrong, okIf_trapReturn]
theorem goes_stackTarget {P : Prop} (s : State) (i p ea n rd wr) (k : State → Nat → Result) (ok : OkIf P s.mem)
    (hk : ∀ t key, OkIf P t.mem → Goes P (k t key)) : Goes P (stackTarget s i p ea n rd wr k) := by
  have walk (t : State) (ht : OkIf P t.mem) (a w) {r u} (e : t.xlate p a (vaOf ea) w = (r, u)) : OkIf P u.mem :=
    mem_of_eq_snd e (State.mem_xlate ..) ▸ ht
  have first {r u} (e : (if rd then s.xlate p s.myAcc (vaOf ea) false else (.ok 0, s)) = (r, u)) : OkIf P u.mem := by
    cases rd with
    | true => exact walk s ok _ _ e
    | false => cases e; exact ok
  have here : Goes P (match (if rd then s.xlate p s.myAcc (vaOf ea) false else (.ok 0, s)) with
      | (.ok _, s) => (match s.xlate p s.myAcc (vaOf ea) wr with
        | (.ok key, s) => k s key
        | (.held, s) => s.stalled i
        | (_, s) => windowTrap s ea)
      | (.held, s) => s.stalled i
      | (_, s) => windowTrap s ea) := by
    split
    next e =>
      split
      next e' => exact hk _ _ (walk _ (first e) _ _ e')
      all_goals next e' => simp [walk _ (first e) _ _ e']
    all_goals next e => simp [first e]
  unfold stackTarget
  dsimp only
  split
  · exact goes_ite (by simp [ok]) (goes_ite here (by simp [ok]))
  · exact here
theorem goes_msgTarget {P : Prop} (s : State) (i a ea n rd wr) (k : State → Nat → Result) (ok : OkIf P s.mem)
    (hk : ∀ t key, OkIf P t.mem → Goes P (k t key)) : Goes P (msgTarget s i a ea n rd wr k) := by
  refine goes_ite (goes_ite (by simp [ok]) (goes_stackTarget _ _ _ _ _ _ _ _ ok hk)) ?_
  split
  · simp [ok]
  · exact hk _ _ ok
@[simp] theorem goes_amo {P : Prop} (s : State) (i op rd sa sv sc ty) (ok : OkIf P s.mem) : Goes P (amo s i op rd sa sv sc ty) :=
  goes_msgTarget _ _ _ _ _ _ _ _ ok fun _ _ ht => goes_withRelease _ _ ht fun u hu => by simpa using hu
@[simp] theorem goes_red {P : Prop} (s : State) (i op sa sv ty) (ok : OkIf P s.mem) : Goes P (red s i op sa sv ty) :=
  goes_msgTarget _ _ _ _ _ _ _ _ ok fun _ _ ht => goes_withRelease _ _ ht fun u hu => by simp [hu]
@[simp] theorem goes_putcGo {P : Prop} (s : State) (sc data gen) (ok : OkIf P s.mem) : Goes P (putcGo s sc data gen) :=
  goes_withRelease _ _ ok fun u hu => by simp [hu]
@[simp] theorem goes_execPutc {P : Prop} (sc sd sv sg ty scope) (s : State) (ok : OkIf P s.mem) : Goes P (execPutc sc sd sv sg
    ty scope s) := by
  unfold execPutc
  refine goes_ite (goes_stackTarget _ _ _ _ _ _ _ _ ok fun t k ht => goes_putcGo _ _ _ _ ht) ?_
  split
  · simp [ok]
  · refine goes_ite (by simp [ok]) ?_
    split
    · simp [ok]
    · exact goes_ite (by simp [ok]) (goes_msgTarget _ _ _ _ _ _ _ _ ok fun t k ht => goes_putcGo _ _ _ _ ht)
@[simp] theorem mem_rowParts (s : State) (t row) : (rowParts s t row).2.mem = s.mem := by
  unfold rowParts
  grind [State.mem_xlateRange]
@[simp] theorem goes_apndAt {P : Prop} (s : State) (i rd k row) (ok : OkIf P s.mem) : Goes P (apndAt s i rd k row) := by
  unfold apndAt
  dsimp only
  split <;> simp [ok, apply_ite State.mem]
@[simp] theorem goes_execApnd {P : Prop} (rd st sr sl scope) (s : State) (ok : OkIf P s.mem) : Goes P (execApnd rd st sr sl scope s) := by
  refine goes_ite (by simp [ok]) (goes_ite (by simp [ok]) (goes_ite (by simp [ok]) (goes_ite (by simp [ok]) ?_)))
  exact goes_msgTarget _ _ _ _ _ _ _ _ ok fun t k ht => goes_withRelease _ _ ht fun u hu => by simp [hu]
@[simp] theorem goes_execAfence {P : Prop} (sb sn) (s : State) (ok : OkIf P s.mem) : Goes P (execAfence sb sn s) := by
  unfold execAfence
  grind [goes_addressTrap, goes_withRelease, State.goes_doneStrong]
@[simp] theorem goes_execQpop {P : Prop} (rd sq) (s : State) (ok : OkIf P s.mem) : Goes P (execQpop rd sq s) := by
  refine goes_ite (by simp [ok]) (goes_ite (by simp [ok]) (goes_withRelease _ _ ok fun t ht => ?_))
  refine goes_stackTarget _ _ _ _ _ _ _ _ ht fun u k hu => ?_
  simp -implicitDefEqProofs [hu]
@[simp] theorem goes_execMessageArrival {P : Prop} (s : State) (ok : OkIf P s.mem) : Goes P (execMessageArrival s) := by
  unfold execMessageArrival
  (repeat' split) <;> simp [ok]
@[simp] theorem goes_execWaitingTaskArm {P : Prop} (s : State) (ok : OkIf P s.mem) : Goes P (execWaitingTaskArm s) := by
  unfold execWaitingTaskArm
  (repeat' split) <;> simp [ok]
@[simp] theorem goes_execPutcArrival {P : Prop} (s : State) (ok : OkIf P s.mem) : Goes P (execPutcArrival s) := by
  unfold execPutcArrival
  (repeat' split) <;> simp [ok]
@[simp] theorem goes_execApndRowWrite {P : Prop} (s : State) (ok : OkIf P s.mem) : Goes P (execApndRowWrite s) := by
  unfold execApndRowWrite
  (repeat' split) <;> simp [ok]

end Sys2Proof.Machine
end

section
/-! SUPPORT. Memory stays canonical through the matrix unit. -/

namespace Sys2Proof.Machine

@[simp] theorem goes_mCommand {P : Prop} (s : State) (i sa sb sp check) (ok : OkIf P s.mem) : Goes P (mCommand s i sa sb sp check) := by
  unfold mCommand
  grind [goes_takeTrap, State.goes_stalled, goes_withRelease, State.setCluster_mem, State.goes_doneStrong]
@[simp] theorem goes_execMma {P : Prop} (tile sa sb sp zero nf ci k n m) (s : State) (ok : OkIf P s.mem) : Goes P (execMma tile
    sa sb sp zero nf ci k n m s) := by simp [execMma, ok]
@[simp] theorem goes_execMmas {P : Prop} (tile sa sb sp zero nf ci k n m) (s : State) (ok : OkIf P s.mem) : Goes P (execMmas
    tile sa sb sp zero nf ci k n m s) := by simp [execMmas, ok]
@[simp] theorem goes_execMzero {P : Prop} (tile nf ci) (s : State) (ok : OkIf P s.mem) : Goes P (execMzero tile nf ci s) := by
    simp [execMzero, ok]
@[simp] theorem goes_execMldt {P : Prop} (tile sa sp ty nf ci n m) (s : State) (ok : OkIf P s.mem) : Goes P (execMldt tile sa
    sp ty nf ci n m s) := by simp [execMldt, ok]
@[simp] theorem goes_execMstt {P : Prop} (tile sa sp ty sat nf ci n m) (s : State) (ok : OkIf P s.mem) : Goes P (execMstt tile
    sa sp ty sat nf ci n m s) := by simp [execMstt, ok]
@[simp] theorem goes_execMatrixQueueAccept {P : Prop} (s : State) (ok : OkIf P s.mem) : Goes P (execMatrixQueueAccept s) := by
  unfold execMatrixQueueAccept
  split <;> simp [ok]
@[simp] theorem mem_compute (s : State) (cl e) : (compute s cl e).1.mem = s.mem := by
  unfold compute
  dsimp only
  split <;> simp
@[simp] theorem mem_beginRun (s : State) (cl e) : (beginRun s cl e).1.mem = s.mem := by
  unfold beginRun
  split <;> simp
@[simp] theorem mem_grantNext (s : State) (cl) : (grantNext s cl).mem = s.mem := by
  unfold grantNext
  (repeat' split) <;> simp
@[simp] theorem mem_readOn (s : State) (cl e) : (readOn s cl e).mem = s.mem := by simp [readOn]
@[simp] theorem goes_execMatrixBusyEnd {P : Prop} (s : State) (ok : OkIf P s.mem) : Goes P (execMatrixBusyEnd s) := by
  unfold execMatrixBusyEnd
  dsimp only
  (repeat' split) <;> simp [ok]
@[simp] theorem okIf_writeRegion {P : Prop} (s : State) (cl e) (ok : OkIf P s.mem) : OkIf P (writeRegion s cl e).mem := by
  unfold writeRegion
  dsimp only
  split
  · generalize List.replicate 0x10000 _ = zeros
    exact okIf_write ok _ zeros
  · exact okIf_foldl _ _ _ ok fun _ _ => State.okIf_writeAt _ _ _ _
  · rw [mem_foldl _ _ _ fun _ _ => State.mem_noteLines ..]
    exact okIf_foldl _ _ _ ok fun _ _ => State.okIf_setTileEl _ _ _ _ _ _ _
@[simp] theorem mem_postMnf (s : State) (cl e x) : (postMnf s cl e x).mem = s.mem := by simp [postMnf, apply_ite State.mem]
@[simp] theorem okIf_applyHeld {P : Prop} (s : State) (cl) (ok : OkIf P s.mem) : OkIf P (applyHeld s cl).mem :=
  okIf_foldl _ _ _ ok fun _ _ => okIf_applyAddend _ _ _
@[simp] theorem goes_execMatrixWriteback {P : Prop} (s : State) (ok : OkIf P s.mem) : Goes P (execMatrixWriteback s) := by
  unfold execMatrixWriteback
  dsimp only
  (repeat' split) <;> simp -implicitDefEqProofs [ok]
@[simp] theorem mem_reenter (s : State) (cl) : (reenter s cl).mem = s.mem := by simp [reenter, apply_ite State.mem]
@[simp] theorem goes_execAddendPacket {P : Prop} (s : State) (ok : OkIf P s.mem) : Goes P (execAddendPacket s) := by
  unfold execAddendPacket
  (repeat' split) <;> simp [ok]
@[simp] theorem goes_execMwait {P : Prop} (n) (s : State) (ok : OkIf P s.mem) : Goes P (execMwait n s) := by
  unfold execMwait
  grind [goes_withChunkEnd, State.goes_doneStrong, State.goes_stalled]
@[simp] theorem goes_execMfab {P : Prop} (tile sc) (s : State) (ok : OkIf P s.mem) : Goes P (execMfab tile sc s) := by
  unfold execMfab
  grind [goes_illegal, goes_withRelease, State.goes_doneStrong, State.setCluster_mem]
@[simp] theorem goes_execMchk {P : Prop} (rd tile clear) (s : State) (ok : OkIf P s.mem) : Goes P (execMchk rd tile clear s) := by
  unfold execMchk
  grind [goes_withChunkEnd, State.goes_stalled, State.setCluster_mem, State.goes_doneStrong, State.ws_mem]

end Sys2Proof.Machine
end

section
/-! SUPPORT. Memory stays canonical through the hearth. -/

namespace Sys2Proof.Machine

@[simp] theorem State.mem_setHq (s : State) (sk l) : (s.setHq sk l).mem = s.mem := (rfl)
@[simp] theorem State.mem_setHob (s : State) (pc u) : (s.setHob pc u).mem = s.mem := (rfl)
@[simp] theorem mem_installTable (s : State) (st p acc slot d) : (installTable s st p acc slot d).2.mem = s.mem := by
  have walked {r u} (e : s.xlate p acc (vaOf (d.extractLsb' 0 64)) false = (r, u)) : u.mem = s.mem :=
    mem_of_eq_snd e (State.mem_xlate ..)
  unfold installTable
  dsimp only
  split
  · rfl
  · split
    · rfl
    · split
      next e => exact walked e
      next e => exact walked e
      next e =>
        have hu := walked e
        (repeat' split) <;> exact hu
      next e => exact walked e
@[simp] theorem mem_htloadCode (s : State) (st p acc sd a slotw) : (htloadCode s st p acc sd a slotw).2.mem = s.mem := by
  unfold htloadCode
  grind [State.setStack_mem, State.mem_readVA, mem_installTable]
@[simp] theorem goes_execHtload {P : Prop} (rd sd st) (s : State) (ok : OkIf P s.mem) : Goes P (execHtload rd sd st s) := by
  unfold execHtload
  dsimp only
  split
  · exact (goes_next _).2 ok
  · refine goes_withRelease _ _ ok fun t ht => ?_
    have hr : OkIf P (htloadCode t (hartStack t.cur) t.myPart t.myAcc sd (t.rs sd) (t.rs st)).2.mem := by simpa using ht
    split
    · exact State.goes_doneStrong _ hr
    · exact State.goes_stalled _ _ hr
@[simp] theorem mem_hmodeCode (s : State) (sk w) : (hmodeCode s sk w).2.mem = s.mem := by
  unfold hmodeCode
  dsimp only
  (repeat' split) <;> simp
@[simp] theorem goes_execHmode {P : Prop} (rd sp) (s : State) (ok : OkIf P s.mem) : Goes P (execHmode rd sp s) := by
  unfold execHmode
  grind [goes_withRelease, mem_hmodeCode, State.goes_doneStrong, State.ws_mem]
@[simp] theorem State.goes_doneCommit {P : Prop} (s : State) (ok : OkIf P s.mem) : Goes P (s.doneCommit) := by simp
    [State.doneCommit, ok]
@[simp] theorem goes_tableQuery {P : Prop} (s : State) (i form need va ss vb) (ok : OkIf P s.mem) : Goes P (tableQuery s i form
    need va ss vb) := by
  unfold tableQuery
  grind [goes_illegal, goes_withDir, goes_takeTrap, goes_withRelease, State.goes_stalled, goes_withPops, State.goes_doneCommit]
@[simp] theorem goes_execTqB {P : Prop} (va ss) (s : State) (ok : OkIf P s.mem) : Goes P (execTqB va ss s) := by simp [execTqB, ok]
@[simp] theorem goes_execTqH {P : Prop} (va ss) (s : State) (ok : OkIf P s.mem) : Goes P (execTqH va ss s) := by simp [execTqH, ok]
@[simp] theorem goes_execTqPair {P : Prop} (va ss vb) (s : State) (ok : OkIf P s.mem) : Goes P (execTqPair va ss vb s) := by
    simp [execTqPair, ok]
@[simp] theorem goes_execTqIntp {P : Prop} (va ss) (s : State) (ok : OkIf P s.mem) : Goes P (execTqIntp va ss s) := by simp
    [execTqIntp, ok]
@[simp] theorem goes_execTqReserve {P : Prop} (s : State) (ok : OkIf P s.mem) : Goes P (execTqReserve s) := by
  unfold execTqReserve
  split <;> simp [ok]
@[simp] theorem mem_answerQuery (s : State) (q) : (answerQuery s q).2.mem = s.mem := by
  unfold answerQuery
  dsimp only
  (repeat' split) <;> simp
@[simp] theorem mem_deliverQuery (s : State) (q) : (deliverQuery s q).mem = s.mem := by
  unfold deliverQuery
  (repeat' split) <;> simp
@[simp] theorem goes_execTableQueryAnswer {P : Prop} (s : State) (ok : OkIf P s.mem) : Goes P (execTableQueryAnswer s) := by
  unfold execTableQueryAnswer
  split <;> simp [ok]
theorem goes_commandBytes {P : Prop} (s : State) (i w win) (k : State → Vec → Result) (ok : OkIf P s.mem)
    (hk : ∀ t v, OkIf P t.mem → Goes P (k t v)) : Goes P (commandBytes s i w win k) := by
  have walked {r u} (e : s.xlate s.myPart s.myAcc (vaOf w) false = (r, u)) : OkIf P u.mem :=
    mem_of_eq_snd e (State.mem_xlate ..) ▸ ok
  unfold commandBytes
  refine goes_ite (by simp [ok]) (goes_ite (by simp [ok]) ?_)
  split
  · simp [ok]
  · refine goes_ite (goes_ite (by simp [ok]) (hk _ _ (by simpa using ok))) (goes_ite (by simp [ok]) ?_)
    split
    · exact (goes_next _).2 ok
    · split
      next e => exact goes_ite (by simp [walked e]) (hk _ _ (by have hu := walked e; exact okIf_ite hu hu))
      all_goals next e => simp [walked e]
@[simp] theorem mem_pushCommand (s : State) (c) : (pushCommand s c).mem = s.mem := (rfl)
@[simp] theorem goes_execIred {P : Prop} (sc sm) (s : State) (ok : OkIf P s.mem) : Goes P (execIred sc sm s) := by
  unfold execIred
  grind [goes_takeTrap, goes_commandBytes, goes_windowTrap, State.goes_stalled, goes_withRelease, State.goes_doneStrong, mem_pushCommand]
@[simp] theorem goes_hcmdGo {P : Prop} (s : State) (i w m args) (ok : OkIf P s.mem) : Goes P (hcmdGo s i w m args) := by
  unfold hcmdGo
  grind [State.goes_stalled, goes_withRelease, State.goes_doneStrong, okIf_putMailbox, mem_pushCommand]
@[simp] theorem goes_execHcmd {P : Prop} (sh sa sm) (s : State) (ok : OkIf P s.mem) : Goes P (execHcmd sh sa sm s) := by
  unfold execHcmd
  grind [goes_takeTrap, goes_hcmdGo, goes_commandBytes]
@[simp] theorem goes_execHovl {P : Prop} (rd sh si) (s : State) (ok : OkIf P s.mem) : Goes P (execHovl rd sh si s) := by
  unfold execHovl
  refine goes_ite (goes_withRelease _ _ ok fun t ht => State.goes_doneStrong _ ht) (goes_ite (by simp [ok]) ?_)
  exact goes_withRelease _ _ ok fun t ht => (goes_next _).2 ht
@[simp] theorem goes_execHearthQueueAccept {P : Prop} (s : State) (ok : OkIf P s.mem) : Goes P (execHearthQueueAccept s) := by
  unfold execHearthQueueAccept
  split <;> simp [ok]
@[simp] theorem okIf_endIred {P : Prop} (s : State) (c stop fcode) (ok : OkIf P s.mem) : OkIf P (endIred s c stop fcode).mem := by
  unfold endIred
  dsimp only
  split <;> simp [ok]
@[simp] theorem mem_startIred (s : State) (c) : (startIred s c).2.mem = s.mem := by
  have walked {r u} (e : s.xlate c.cont.part c.cont.acc (vaOf (iredDst c.cmd)) true = (r, u)) : u.mem = s.mem :=
    mem_of_eq_snd e (State.mem_xlate ..)
  unfold startIred
  dsimp only
  split
  · rfl
  · split
    next e => exact walked e
    next e => exact walked e
    next e => exact walked e
    next e =>
      (repeat' split) <;> simp only [State.mem_xlateAt, walked e]
    next e => exact walked e
@[simp] theorem okIf_iredRun {P : Prop} (s : State) (c st pa n) (ok : OkIf P s.mem) : OkIf P (iredRun s c st pa n).1.mem := by
  induction n generalizing s c with
  | zero => exact ok
  | succ n ih =>
    unfold iredRun
    dsimp only
    have walked {r v row} (e : s.xlate c.cont.part c.cont.acc row false = (r, v)) : OkIf P v.mem := by
      rw [mem_of_eq_snd e (State.mem_xlate ..)]
      exact ok
    refine okIf_ite_fst (ih _ _ (State.okIf_writeAt _ _ _ _ ok)) (okIf_ite_fst ok (okIf_ite_fst (ih s _ ok) ?_))
    split
    next e => exact okIf_ite_fst (ih _ _ (walked e)) (ih _ _ (State.okIf_writeAt _ _ _ _ (walked e)))
    next e => exact walked e
    next e => exact ih _ _ (walked e)
@[simp] theorem mem_moveIred (s : State) (c pc) : (moveIred s c pc).mem = s.mem := by simp [moveIred, apply_ite State.mem]
@[simp] theorem goes_execIredApply {P : Prop} (s : State) (ok : OkIf P s.mem) : Goes P (execIredApply s) := by
  have started {c : HCmd} {r u} (e : (match c.dpa with | some pa => (IredStart.go pa, s) | none => startIred s c) = (r, u)) :
      OkIf P u.mem := by
    split at e
    · cases e; exact ok
    · exact mem_of_eq_snd e (mem_startIred ..) ▸ ok
  unfold execIredApply
  dsimp only
  split
  · exact (goes_next _).2 ok
  · refine goes_ite ((goes_next _).2 ok) ?_
    split
    all_goals next e =>
      have hu := started e
      simp [hu]
@[simp] theorem goes_execHobCommandRun {P : Prop} (s : State) (ok : OkIf P s.mem) : Goes P (execHobCommandRun s) := by
  unfold execHobCommandRun
  dsimp only
  split <;> simp [ok]
@[simp] theorem mem_answerHart (s : State) (h rd code) : (answerHart s h rd code).mem = s.mem := by simp [answerHart, apply_ite State.mem]
@[simp] theorem goes_execHovlLoad {P : Prop} (s : State) (ok : OkIf P s.mem) : Goes P (execHovlLoad s) := by
  unfold execHovlLoad
  dsimp only
  split
  · exact (goes_next _).2 ok
  · refine goes_ite ((goes_next _).2 ok) ?_
    split
    next e => exact (goes_next _).2 (mem_of_eq_snd e (State.mem_xlate ..) ▸ ok)
    next e =>
      have hu := mem_of_eq_snd e (State.mem_xlate ..) ▸ ok
      split <;> exact (goes_next _).2 (by simpa using hu)
theorem goes_rowAccess {P : Prop} (s : State) (i sl sb linesm1 write) (f : State → Nat → List (Nat × Nat × Nat) → Result)
    (ok : OkIf P s.mem) (hf : ∀ t k l, OkIf P t.mem → Goes P (f t k l)) : Goes P (rowAccess s i sl sb linesm1 write f) := by
  have walked {r u} (e : s.xlateRange s.myPart s.myAcc (vaOf (s.rs sb)) (64 * (linesm1.toNat + 1)) write = (r, u)) : OkIf P
      u.mem :=
    mem_of_eq_snd e (State.mem_xlateRange ..) ▸ ok
  unfold rowAccess
  refine goes_ite (by simp [ok]) ?_
  split
  next e =>
    have hu := walked e
    exact goes_ite (by simp [hu]) (goes_ite (by simp [hu]) (goes_ite (by simp [hu]) (hf _ _ _ hu)))
  all_goals next e => simp [walked e]
@[simp] theorem goes_execRowld {P : Prop} (sl sb linesm1) (s : State) (ok : OkIf P s.mem) : Goes P (execRowld sl sb linesm1 s) :=
  goes_rowAccess _ _ _ _ _ _ _ ok fun t k l ht => by simp [ht]
@[simp] theorem goes_execRowst {P : Prop} (sl sb linesm1) (s : State) (ok : OkIf P s.mem) : Goes P (execRowst sl sb linesm1 s) :=
  goes_rowAccess _ _ _ _ _ _ _ ok fun t k l ht => by simp [ht]
@[simp] theorem goes_execRowadd {P : Prop} (sl sb ty linesm1) (s : State) (ok : OkIf P s.mem) : Goes P (execRowadd sl sb ty linesm1 s) := by
  refine goes_rowAccess _ _ _ _ _ _ _ ok fun t k l ht => goes_withChunkEnd _ _ ht fun u hu => State.goes_doneStrong _ ?_
  exact okIf_foldl _ _ _ hu fun _ _ hv => okIf_foldl _ _ _ hv fun _ _ => State.okIf_writeAt _ _ _ _

end Sys2Proof.Machine
end

section
/-! SUPPORT. Memory stays canonical through the flue and the dampers. -/

namespace Sys2Proof.Machine

@[simp] theorem State.mem_setPort (s : State) (p x) : (s.setPort p x).mem = s.mem := (rfl)
@[simp] theorem State.mem_notify (s : State) (p n) : (s.notify p n).mem = s.mem := (rfl)
@[simp] theorem mem_arriveHome (s : State) (home party round) : (arriveHome s home party round).mem = s.mem := by
  unfold arriveHome
  dsimp only
  split <;> simp [apply_ite State.mem]
@[simp] theorem mem_decideRound (s : State) (home m r) : (decideRound s home m r).mem = s.mem := by simp [decideRound]
@[simp] theorem mem_settle (s : State) (home n) : (settle s home n).mem = s.mem := by
  induction n generalizing s with
  | zero => rfl
  | succ n ih =>
    unfold settle
    split
    · rfl
    · dsimp only
      rw [ih, mem_foldl _ _ _ fun _ _ => mem_arriveHome ..]
      exact mem_foldl _ _ _ fun _ _ => mem_decideRound ..
@[simp] theorem State.mem_settleHome (s : State) (home) : (s.settleHome home).mem = s.mem := by simp [State.settleHome]
@[simp] theorem goes_execBarrierArrival {P : Prop} (s : State) (ok : OkIf P s.mem) : Goes P (execBarrierArrival s) := by
  unfold execBarrierArrival
  (repeat' split) <;> simp [ok]
@[simp] theorem mem_wakeBar (s : State) (p w) : (wakeBar s p w).mem = s.mem := by
  refine mem_foldl _ _ _ fun s ts => ?_
  dsimp only
  split
  · split
    · simp
    · rfl
  · rfl
@[simp] theorem goes_execReleaseNotice {P : Prop} (s : State) (ok : OkIf P s.mem) : Goes P (execReleaseNotice s) := by
  unfold execReleaseNotice
  dsimp only
  (repeat' split) <;> simp [ok]
@[simp] theorem mem_lateAt (s : State) (p e round spoiled lines) : (lateAt s p e round spoiled lines).mem = s.mem := by simp
    [lateAt, apply_ite State.mem]
@[simp] theorem mem_sendMessage (s : State) (p x m e spoiled lines) : (sendMessage s p x m e spoiled lines).mem = s.mem := by
  unfold sendMessage
  dsimp only
  (repeat' split) <;> simp
@[simp] theorem goes_execTtSend {P : Prop} (s : State) (ok : OkIf P s.mem) : Goes P (execTtSend s) := by
  unfold execTtSend
  dsimp only
  split <;> simp [ok]
theorem mem_of_takeData {s u : State} {p : Nat} {m : Image} {e : Nat} {w : Word} (h : takeData s p m e w = some u) :
    u.mem = s.mem := by
  unfold takeData at h
  dsimp only at h
  split at h
  · cases h; rfl
  · split at h
    · cases h
    · cases h
      simp only [State.mem_setPort, apply_ite State.mem, State.mem_countCl, ite_self]
theorem goes_receive {P : Prop} (s : State) (op step) (f : State → Nat → List Vec → State) (ok : OkIf P s.mem)
    (hf : ∀ t k l, OkIf P t.mem → OkIf P (f t k l).mem) : Goes P (receive s op step f) := by
  unfold receive
  dsimp only
  split
  · exact (goes_next _).2 ok
  · refine goes_ite ((goes_next _).2 ok) ?_
    split
    · exact (goes_next _).2 ok
    next u e =>
      have hu : OkIf P u.mem := mem_of_takeData e ▸ ok
      have stored (k l c) {_ : Decidable c} : OkIf P (if c then u else f u k l).mem := okIf_ite hu (hf _ _ _ hu)
      exact goes_ite ((goes_next _).2 (by simpa using stored _ _ _)) ((goes_next _).2 (by simpa using stored _ _ _))
@[simp] theorem goes_execTtCopy {P : Prop} (s : State) (ok : OkIf P s.mem) : Goes P (execTtCopy s) :=
  goes_receive _ _ _ _ ok fun _ _ _ ht => by simp [ht]
@[simp] theorem goes_execTtMs {P : Prop} (s : State) (ok : OkIf P s.mem) : Goes P (execTtMs s) :=
  goes_receive _ _ _ _ ok fun _ _ _ ht => by simp [ht]
@[simp] theorem goes_execTtXor {P : Prop} (s : State) (ok : OkIf P s.mem) : Goes P (execTtXor s) :=
  goes_receive _ _ _ _ ok fun _ _ _ ht => by simp [ht]
@[simp] theorem goes_execTtAcc {P : Prop} (s : State) (ok : OkIf P s.mem) : Goes P (execTtAcc s) := by
  unfold execTtAcc
  dsimp only
  split
  · exact (goes_next _).2 ok
  · split
    · exact (goes_next _).2 ok
    next u e =>
      have hu : OkIf P u.mem := mem_of_takeData e ▸ ok
      exact goes_ite ((goes_next _).2 (by simp [hu])) ((goes_next _).2 (by simp [hu]))
@[simp] theorem goes_execLateMessage {P : Prop} (s : State) (ok : OkIf P s.mem) : Goes P (execLateMessage s) := by
  unfold execLateMessage
  (repeat' split) <;> simp [ok]
@[simp] theorem goes_execRoundComplete {P : Prop} (s : State) (ok : OkIf P s.mem) : Goes P (execRoundComplete s) := by
  unfold execRoundComplete
  dsimp only
  (repeat' split) <;> simp [ok]
@[simp] theorem mem_beginSeries (s : State) (m) : (beginSeries s m).mem = s.mem := by simp [beginSeries]
@[simp] theorem mem_acceptImage (s : State) (p m) : (acceptImage s p m).mem = s.mem := by simp [acceptImage, apply_ite State.mem]
@[simp] theorem goes_execTtload {P : Prop} (rd sa slot) (s : State) (ok : OkIf P s.mem) : Goes P (execTtload rd sa slot s) := by
  unfold execTtload
  grind [goes_withChunkEnd, State.goes_doneStrong, State.ws_mem, goes_misalign, goes_addressTrap, State.goes_stalled, mem_acceptImage]
@[simp] theorem goes_execTtarm {P : Prop} (sd slot) (s : State) (ok : OkIf P s.mem) : Goes P (execTtarm sd slot s) := by
  unfold execTtarm
  grind [goes_illegal, goes_misalign, goes_addressTrap, State.goes_stalled, goes_withChunkEnd, State.goes_doneStrong,
      State.okIf_writeAt, State.mem_setPort]
@[simp] theorem goes_execBar {P : Prop} (rd slot) (s : State) (ok : OkIf P s.mem) : Goes P (execBar rd slot s) := by
  unfold execBar
  dsimp only
  split <;> simp [ok]
@[simp] theorem State.mem_sendPeer (s : State) (ep kind w pw lines) : (s.sendPeer ep kind w pw lines).mem = s.mem := by
  unfold State.sendPeer
  dsimp only
  split <;> simp
@[simp] theorem goes_execFsend {P : Prop} (sa sh sn scope) (s : State) (ok : OkIf P s.mem) : Goes P (execFsend sa sh sn scope s) := by
  unfold execFsend
  grind [goes_illegal, goes_misalign, goes_addressTrap, goes_takeTrap, State.goes_stalled, goes_withRelease,
      State.goes_doneStrong, State.mem_sendPeer, State.mem_pushMsg]
@[simp] theorem goes_execFrecv {P : Prop} (rd ch) (s : State) (ok : OkIf P s.mem) : Goes P (execFrecv rd ch s) := by
  unfold execFrecv
  grind [goes_withChunkEnd, State.goes_stalled, State.goes_doneCommit, State.ws_mem, State.mem_popTo, State.goes_doneStrong]
@[simp] theorem goes_packetReduce {P : Prop} (s : State) (i kind st sa sn sp) (ok : OkIf P s.mem) :
    Goes P (packetReduce s i kind st sa sn sp) := by
  have go (f : State → Result) (hf : ∀ t, OkIf P t.mem → Goes P (f t)) : Goes P (withRelease s f) := goes_withRelease _ _ ok hf
  unfold packetReduce
  dsimp only
  refine goes_ite (by simp [ok]) (goes_ite (by simp [ok]) (goes_ite (by simp [ok]) (goes_ite (by simp [ok]) (goes_ite (by simp [ok])
    (goes_ite (by simp [ok]) (goes_ite (by simp [ok]) (go _ fun t ht => ?_)))))))
  exact goes_ite (State.goes_doneStrong _ (by simpa using ht)) (State.goes_doneStrong _ ht)
theorem mem_of_peerHead {s u : State} {k : PeerPacket} (h : s.peerHead = some (k, u)) : u.mem = s.mem := by
  unfold State.peerHead at h
  split at h <;> cases h
  rfl
@[simp] theorem mem_enterPacket (s : State) (h k) : (enterPacket s h k).mem = s.mem := by
  unfold enterPacket
  split <;> simp [apply_ite State.mem]
@[simp] theorem goes_execPacketDeliver {P : Prop} (s : State) (ok : OkIf P s.mem) : Goes P (execPacketDeliver s) := by
  unfold execPacketDeliver
  split
  · split
    next e =>
      have hu := mem_of_peerHead e ▸ ok
      simp [ok, hu]
    · exact (goes_next _).2 ok
  · (repeat' split) <;> simp [ok]
@[simp] theorem mem_enterReduce (s : State) (k) : (enterReduce s k).mem = s.mem := by
  unfold enterReduce
  split <;> simp [apply_ite State.mem]
@[simp] theorem goes_execPacketReduceArrival {P : Prop} (s : State) (ok : OkIf P s.mem) : Goes P (execPacketReduceArrival s) := by
  unfold execPacketReduceArrival
  split
  · split
    next e =>
      have hu := mem_of_peerHead e ▸ ok
      simp [ok, hu]
    · exact (goes_next _).2 ok
  · split
    · exact (goes_next _).2 ok
    · split
      · refine goes_ite ((goes_next _).2 ok) (goes_ite (by simp [ok]) ?_)
        exact goes_ite ((goes_next _).2 (okIf_reduceStep _ _ _ _ _ _ _ ok)) ((goes_next _).2 (okIf_reduceStep _ _ _ _ _ _ _ ok))
      · simp [ok]
      · exact (goes_next _).2 ok
@[simp] theorem mem_enterRound (s : State) (src core slot r) : (enterRound s src core slot r).mem = s.mem := by
  unfold enterRound
  dsimp only
  (repeat' split) <;> simp
@[simp] theorem goes_execRoundPacketArrival {P : Prop} (s : State) (ok : OkIf P s.mem) : Goes P (execRoundPacketArrival s) := by
  unfold execRoundPacketArrival
  (repeat' split) <;> simp [ok]
@[simp] theorem okIf_damperWrite {P : Prop} (s : State) (d w bytes) (ok : OkIf P s.mem) : OkIf P (damperWrite s d w bytes).mem
    := by simp [damperWrite, ok]
@[simp] theorem okIf_writeBack {P : Prop} (s : State) (k) (ok : OkIf P s.mem) : OkIf P (writeBack s k).mem := by simp
    [writeBack, ok]
@[simp] theorem okIf_keepGroup {P : Prop} (s : State) (k g) (ok : OkIf P s.mem) : OkIf P (keepGroup s k g).mem := by
    simp -implicitDefEqProofs [keepGroup, ok]
@[simp] theorem okIf_zeroHalf {P : Prop} (s : State) (k) (ok : OkIf P s.mem) : OkIf P (zeroHalf s k).mem := by
    simp -implicitDefEqProofs [zeroHalf, ok]
@[simp] theorem okIf_finishClosure {P : Prop} (s : State) (k) (ok : OkIf P s.mem) : OkIf P (finishClosure s k).mem := by simp
    [finishClosure, ok]
@[simp] theorem okIf_closeGroup {P : Prop} (s : State) (k) (ok : OkIf P s.mem) : OkIf P (closeGroup s k).mem := by simp
    [closeGroup, ok]
theorem goes_withGroup {P : Prop} (s : State) (sg bad addr) (k : Nat → Result) (ok : OkIf P s.mem) (hk : ∀ key, Goes P (k key)) :
    Goes P (withGroup s sg bad addr k) := by
  unfold withGroup
  split
  · simp [ok]
  · exact hk _
theorem goes_atDamper {P : Prop} (s : State) (i key) (k : State → Result) (ok : OkIf P s.mem)
    (hk : ∀ t, OkIf P t.mem → Goes P (k t)) : Goes P (atDamper s i key k) := by
  refine goes_withChunkEnd _ _ ok fun t ht => goes_ite (by simp [ht]) ?_
  have hd := State.okIf_drain t t.cur ht
  exact goes_ite (by simp [hd]) (hk _ hd)
@[simp] theorem State.mem_forgetSteps (s : State) (tiles step) : (s.forgetSteps tiles step).mem = s.mem := (rfl)
@[simp] theorem goes_execGcfg {P : Prop} (rd sr sg) (s : State) (ok : OkIf P s.mem) : Goes P (execGcfg rd sr sg s) := by
  unfold execGcfg
  grind [goes_withGroup, goes_addressTrap, goes_atDamper, State.goes_stalled, State.goes_doneStrong, State.ws_mem,
      State.mem_forgetSteps, okIf_writeBack, okIf_zeroHalf, State.setGroup_mem]
@[simp] theorem goes_gaccAt {P : Prop} (s : State) (i rd key win st) (ok : OkIf P s.mem) : Goes P (gaccAt s i rd key win st) := by
  unfold gaccAt
  grind [State.goes_doneStrong, State.ws_mem, okIf_keepGroup, State.goes_stalled, goes_takeTrapInfo, okIf_damperWrite]
@[simp] theorem goes_execGacc {P : Prop} (rd sw sg st) (s : State) (ok : OkIf P s.mem) : Goes P (execGacc rd sw sg st s) := by
  unfold execGacc
  dsimp only
  split
  · exact goes_atDamper _ _ _ _ ok fun t ht => goes_gaccAt _ _ _ _ _ _ ht
  · refine goes_withChunkEnd _ _ ok fun t ht => ?_
    split
    next x _ e =>
      obtain ⟨u, hu, hm⟩ := goes_takeTrap t _ _ 0 ht
      cases hu.symm.trans e
      simp [hm]
    · exact goes_takeTrap _ _ _ _ ht
@[simp] theorem goes_execGtest {P : Prop} (rd sg) (s : State) (ok : OkIf P s.mem) : Goes P (execGtest rd sg s) := by
  unfold execGtest
  grind [goes_withGroup, goes_atDamper, State.goes_doneStrong, State.ws_mem, State.setGroup_mem, okIf_closeGroup, okIf_writeBack]
@[simp] theorem goes_execGstep {P : Prop} (rd sg) (s : State) (ok : OkIf P s.mem) : Goes P (execGstep rd sg s) := by
  unfold execGstep
  grind [goes_withGroup, goes_atDamper, State.goes_doneStrong, State.ws_mem, okIf_closeGroup]
@[simp] theorem goes_execGbind {P : Prop} (rd sg ss) (s : State) (ok : OkIf P s.mem) : Goes P (execGbind rd sg ss s) := by
  unfold execGbind
  grind [goes_withGroup, goes_withChunkEnd, State.goes_doneStrong, State.ws_mem]
@[simp] theorem goes_execGdrop {P : Prop} (rd sg mode) (s : State) (ok : OkIf P s.mem) : Goes P (execGdrop rd sg mode s) := by
  unfold execGdrop
  grind [goes_withGroup, goes_atDamper, State.goes_doneStrong, State.ws_mem, okIf_keepGroup, okIf_zeroHalf]

end Sys2Proof.Machine
end

section
/-! SUPPORT. Memory stays canonical through launches, the grate and placement. -/

namespace Sys2Proof.Machine

@[simp] theorem mem_freeRecords (s : State) (p n i fuel) : (freeRecords s p n i fuel).2.mem = s.mem := by
  induction fuel generalizing s n i with
  | zero => rfl
  | succ fuel ih =>
    unfold freeRecords
    cases n with
    | zero => rfl
    | succ m =>
      dsimp only
      split <;> simp [ih]
@[simp] theorem mem_takeRecords (s : State) (p n) : (takeRecords s p n).2.mem = s.mem := by
  unfold takeRecords
  split <;> simp
@[simp] theorem mem_readHeader (s : State) (p acc w) : (readHeader s p acc w).2.mem = s.mem := by
  unfold readHeader
  grind [State.mem_readVA]
@[simp] theorem okIf_placeOn {P : Prop} (s : State) (h c pc later) (ok : OkIf P s.mem) : OkIf P (placeOn s h c pc later).mem :=
    by simp [placeOn, ok]
@[simp] theorem mem_grateRead (s : State) (p w n) : (grateRead s p w n).2.mem = s.mem := by
  unfold grateRead
  (repeat' split) <;> simp
@[simp] theorem mem_checkLaunch (s : State) (l) : (checkLaunch s l).2.mem = s.mem := by
  unfold checkLaunch
  dsimp only
  split
  · rfl
  · split
    next e => exact mem_of_eq_snd e (State.mem_readVA ..)
    next e =>
      have h₁ := mem_of_eq_snd e (State.mem_readVA ..)
      split
      · exact h₁
      · split
        next e => exact (mem_of_eq_snd e (mem_readHeader ..)).trans h₁
        next e =>
          have h₂ := (mem_of_eq_snd e (mem_readHeader ..)).trans h₁
          split
          next e => exact (mem_of_eq_snd e (mem_grateRead ..)).trans h₂
          next e =>
            have h₃ := (mem_of_eq_snd e (mem_grateRead ..)).trans h₂
            split <;> exact h₃
@[simp] theorem mem_grateTrap (s : State) (p code addr c pc) : (grateTrap s p code addr c pc).mem = s.mem := (rfl)
@[simp] theorem mem_refuseLaunch (s : State) (p lb group) : (refuseLaunch s p lb group).mem = s.mem := by
  unfold refuseLaunch
  split <;> simp
@[simp] theorem okIf_returnExited {P : Prop} (s : State) (src) (ok : OkIf P s.mem) : OkIf P (returnExited s src).mem := by
  unfold returnExited
  split <;> simp [ok]
@[simp] theorem goes_execLaunchAccept {P : Prop} (s : State) (ok : OkIf P s.mem) : Goes P (execLaunchAccept s) := by
  unfold execLaunchAccept
  dsimp only
  split
  · exact (goes_next _).2 ok
  · refine goes_ite ((goes_next _).2 ok) ?_
    split
    all_goals next e =>
      have hu := mem_of_eq_snd e (mem_checkLaunch ..) ▸ ok
      simp [hu]
@[simp] theorem goes_execLaunchAdmit {P : Prop} (s : State) (ok : OkIf P s.mem) : Goes P (execLaunchAdmit s) := by
  unfold execLaunchAdmit
  dsimp only
  (repeat' split) <;> simp [ok]
@[simp] theorem mem_tileFrame (s : State) (p tile) : (tileFrame s p tile).2.mem = s.mem := by
  unfold tileFrame
  grind [State.mem_xlate]
@[simp] theorem okIf_copyTile {P : Prop} (s : State) (p tile src dst) (ok : OkIf P s.mem) : OkIf P (copyTile s p tile src dst).mem := by
  unfold copyTile
  grind [mem_tileFrame, State.okIf_writeAt]
@[simp] theorem okIf_openTile {P : Prop} (s : State) (t step tile) (ok : OkIf P s.mem) : OkIf P (openTile s t step tile).1.mem
    := by simp [openTile, ok]
@[simp] theorem okIf_openAll {P : Prop} (s : State) (t tiles) (ok : OkIf P s.mem) : OkIf P (openAll s t tiles).1.mem := by
  unfold openAll
  refine okIf_foldl_fst _ _ _ ok fun x tile hx => ?_
  exact okIf_openTile _ _ _ _ hx
@[simp] theorem okIf_createRecord {P : Prop} (s : State) (t gang lin rcd) (ok : OkIf P s.mem) : OkIf P (createRecord s t gang
    lin rcd).mem := by simp [createRecord, ok]
@[simp] theorem okIf_readyTask {P : Prop} (s : State) (t rcds) (ok : OkIf P s.mem) : OkIf P (readyTask s t rcds).mem := by
  unfold readyTask
  refine okIf_foldl _ _ _ ?_ fun _ _ => okIf_createRecord _ _ _ _ _
  rw [mem_foldl _ _ _ fun _ _ => State.setGang_mem ..]
  exact okIf_openAll _ _ _ ok
@[simp] theorem goes_execLaunchRelease {P : Prop} (s : State) (ok : OkIf P s.mem) : Goes P (execLaunchRelease s) := by
  unfold execLaunchRelease
  split
  · exact (goes_next _).2 ok
  · refine goes_ite ((goes_next _).2 ok) (goes_ite (by simp [ok]) (goes_ite ((goes_next _).2 ok) ?_))
    split
    all_goals next e =>
      have hu := mem_of_eq_snd e (mem_takeRecords ..) ▸ ok
      simp [hu]
@[simp] theorem goes_execVersionPublish {P : Prop} (s : State) (ok : OkIf P s.mem) : Goes P (execVersionPublish s) := by
  unfold execVersionPublish
  dsimp only
  split <;> simp [ok]
@[simp] theorem goes_execVersionSlotFree {P : Prop} (s : State) (ok : OkIf P s.mem) : Goes P (execVersionSlotFree s) := by
  unfold execVersionSlotFree
  dsimp only
  split <;> simp [ok]
@[simp] theorem okIf_badRecord {P : Prop} (s : State) (p c pc) (ok : OkIf P s.mem) : OkIf P (badRecord s p c pc).mem := by
  unfold badRecord
  grind [State.mem_countPart, okIf_putStatus, mem_grateTrap, State.setJob_mem, okIf_chanEnd, okIf_endRecord]
@[simp] theorem mem_takeBack (s : State) (h c) : (takeBack s h c).mem = s.mem := by
  unfold takeBack
  split <;> simp [apply_ite State.mem]
@[simp] theorem okIf_pickOne {P : Prop} (s : State) (p e h) (ok : OkIf P s.mem) : OkIf P (pickOne s p e h).mem := by
  unfold pickOne
  dsimp only
  (repeat' split) <;> simp [ok]
@[simp] theorem mem_moveWaiting (s : State) (t e core) : (moveWaiting s t e core).mem = s.mem := (rfl)
@[simp] theorem mem_resumeWhole (s : State) (e core) : (resumeWhole s e core).mem = s.mem := by
  unfold resumeWhole
  split <;> simp [apply_ite State.mem]
@[simp] theorem goes_execPickup {P : Prop} (s : State) (ok : OkIf P s.mem) : Goes P (execPickup s) := by
  unfold execPickup
  split
  · refine (goes_next _).2 ?_
    rw [mem_resumeWhole]
    exact okIf_foldl _ _ _ ok fun _ _ => okIf_pickOne _ _ _ _
  · exact (goes_next _).2 ok
@[simp] theorem goes_execWaitcWake {P : Prop} (s : State) (ok : OkIf P s.mem) : Goes P (execWaitcWake s) := by
  unfold execWaitcWake
  split <;> simp [ok]
@[simp] theorem State.mem_onReady (s : State) (rcd f) : (s.onReady rcd f).mem = s.mem := (rfl)
@[simp] theorem goes_execPriorityAging {P : Prop} (s : State) (ok : OkIf P s.mem) : Goes P (execPriorityAging s) := by
  unfold execPriorityAging
  split <;> simp [ok]
@[simp] theorem mem_markOne (s : State) (h) : (markOne s h).mem = s.mem := by simp [markOne, apply_ite State.mem]
@[simp] theorem mem_notePreempted (s : State) (h) : (notePreempted s h).mem = s.mem := by
  unfold notePreempted
  dsimp only
  split <;> simp [apply_ite State.mem]
@[simp] theorem mem_markThread (s : State) (h) : (markThread s h).mem = s.mem := by simp [markThread, apply_ite State.mem]
@[simp] theorem goes_execPreemptMark {P : Prop} (s : State) (ok : OkIf P s.mem) : Goes P (execPreemptMark s) := by
  unfold execPreemptMark
  dsimp only
  (repeat' split) <;> simp [ok]
@[simp] theorem mem_leaveGroup (s : State) (h) : (leaveGroup s h).mem = s.mem := by
  unfold leaveGroup
  dsimp only
  split <;> simp [apply_ite State.mem]
@[simp] theorem mem_dropChunk (s : State) (h) : (dropChunk s h).mem = s.mem := by simp [dropChunk, apply_ite State.mem]
@[simp] theorem goes_execOverdue {P : Prop} (s : State) (ok : OkIf P s.mem) : Goes P (execOverdue s) := by
  unfold execOverdue
  refine goes_ite (by simp [ok]) (goes_ite ((goes_next _).2 ok) ((goes_next _).2 ?_))
  rcases e : s.endChunk s.cur with u | u
  · have hu : OkIf P (dropChunk s s.cur).mem := by simpa using ok
    simpa [apply_ite State.mem] using State.okIf_drain _ s.cur hu
  · have hu := State.okIf_of_endChunk_ok e ok
    simpa [apply_ite State.mem] using State.okIf_drain _ s.cur hu
@[simp] theorem goes_execGangDrain {P : Prop} (s : State) (ok : OkIf P s.mem) : Goes P (execGangDrain s) := by
  unfold execGangDrain
  dsimp only
  (repeat' split) <;> simp [ok]
@[simp] theorem mem_endDrain (s : State) (cl) : (endDrain s cl).mem = s.mem := by
  refine (mem_foldl _ _ _ fun s x => ?_).trans rfl
  split
  · split <;> rfl
  · rfl
@[simp] theorem mem_joinGang (s : State) (g x cl m back todo) : (joinGang s g x cl m back todo).mem = s.mem := by
  unfold joinGang
  split <;> simp [apply_ite State.mem]
@[simp] theorem okIf_placeGang {P : Prop} (s : State) (cl g l cores) (ok : OkIf P s.mem) : OkIf P (placeGang s cl g l cores).mem := by
  unfold placeGang
  extract_lets p pairs t u m v
  have ht : OkIf P t.mem := okIf_foldl _ _ _ ok fun _ _ => okIf_pickOne _ _ _ _
  have hu : OkIf P u.mem := okIf_foldl _ _ _ ht fun _ _ h => by rwa [mem_resumeWhole]
  have hv : OkIf P v.mem := by
    simp only [v]
    split <;> simp [hu]
  split
  · exact okIf_ite (by simpa using hv) hv
  · exact hv
@[simp] theorem okIf_rejoinGang {P : Prop} (s : State) (g x l) (ok : OkIf P s.mem) : OkIf P (rejoinGang s g x l).mem := by
  unfold rejoinGang
  extract_lets p t back
  have ht : OkIf P t.mem := okIf_foldl _ _ _ ok fun _ _ => okIf_pickOne _ _ _ _
  simp [ht]
@[simp] theorem mem_startGroup (s : State) (cl g) : (startGroup s cl g).mem = s.mem := by
  unfold startGroup
  extract_lets lead pc id x t u
  have hu : u.mem = s.mem := by
    refine Eq.trans (mem_foldl _ _ _ ?_) rfl
    exact fun _ _ => rfl
  split
  · split
    · simp [hu]
    · exact hu
  · exact hu
@[simp] theorem goes_execGangPlace {P : Prop} (s : State) (ok : OkIf P s.mem) : Goes P (execGangPlace s) := by
  unfold execGangPlace
  dsimp only
  (repeat' split) <;> simp [ok]
@[simp] theorem okIf_loseTrap {P : Prop} (s : State) (p) (ok : OkIf P s.mem) : OkIf P (loseTrap s p).mem := by
  unfold loseTrap
  grind [State.mem_countPart, State.mem_readVA, State.okIf_writeVA]
@[simp] theorem okIf_finishRetire {P : Prop} (s : State) (r) (ok : OkIf P s.mem) : OkIf P (finishRetire s r).mem := by
  unfold finishRetire
  split <;> simp [ok]
@[simp] theorem okIf_writeTrap {P : Prop} (s : State) (p r) (ok : OkIf P s.mem) : OkIf P (writeTrap s p r).mem := by
  unfold writeTrap
  grind [State.mem_readVA, okIf_loseTrap, State.okIf_writeVA, State.mem_logEvent, mem_countUp, State.mem_noteLines]
@[simp] theorem goes_execTrapQueueWrite {P : Prop} (s : State) (ok : OkIf P s.mem) : Goes P (execTrapQueueWrite s) := by
  unfold execTrapQueueWrite
  dsimp only
  split <;> simp -implicitDefEqProofs [ok]

end Sys2Proof.Machine
end

section
/-! SUPPORT. Memory stays canonical through the controller. -/

namespace Sys2Proof.Machine

theorem mem_of_request {s u : State} {i : Input} (h : s.request = some (i, u)) : u.mem = s.mem := by
  unfold State.request at h
  split at h <;> cases h
  rfl
@[simp] theorem State.mem_reply (s : State) (o) : (s.reply o).mem = s.mem := (rfl)
@[simp] theorem State.mem_refuse (s : State) (p) : (s.refuse p).mem = s.mem := by simp [State.refuse]
theorem goes_configure {P : Prop} (s : State) (q p) (f : State → Option State) (ok : OkIf P s.mem)
    (hf : ∀ t, f s = some t → OkIf P t.mem) : Goes P (configure s q p f) := by
  unfold configure
  refine goes_ite (by simp [ok]) ?_
  split
  · simp [ok]
  next e => simpa using hf _ e
@[simp] theorem mem_assignEndpoints (s : State) (fresh') : (assignEndpoints s fresh').mem = s.mem := (rfl)
@[simp] theorem mem_stacksUp (s : State) : (stacksUp s).mem = s.mem := mem_foldl _ _ _ fun _ _ => rfl
@[simp] theorem goes_execPowerUp {P : Prop} (s : State) : Goes P (execPowerUp s) := by
  have fresh : OkIf P s.powered.mem := fun _ => rfl
  unfold execPowerUp
  dsimp only
  split
  · simpa [apply_ite State.mem] using fresh
  · simpa [apply_ite State.mem] using fresh
@[simp] theorem goes_execSensorSample {P : Prop} (s : State) (ok : OkIf P s.mem) : Goes P (execSensorSample s) := by
  unfold execSensorSample
  split
  next u e =>
    have hu : OkIf P u.mem := mem_of_request e ▸ ok
    refine goes_ite ((goes_next _).2 ok) (goes_ite ?_ (goes_ite ?_ ?_))
    · simpa using hu
    · simpa using hu
    · exact (goes_next _).2 hu
  next => exact (goes_next _).2 ok
@[simp] theorem okIf_settleDamper {P : Prop} (s : State) (d) (ok : OkIf P s.mem) : OkIf P (settleDamper s d).mem := by
  refine okIf_foldl _ _ _ ok fun t g ht => ?_
  have hw := okIf_writeBack t g.1 ht
  exact okIf_ite (okIf_finishClosure _ _ hw) hw
theorem Tab.wf_filter {α : Type} [DecidableEq α] (d : α) (p : Nat × α → Bool) (t : Tab α) (h : Tab.wf d t = true) :
    Tab.wf d (t.filter p) = true := by
  induction t with
  | nil => rfl
  | cons e r ih =>
    obtain ⟨a, x⟩ := e
    simp only [Tab.wf, Bool.and_eq_true, List.all_eq_true] at h
    obtain ⟨⟨hx, first⟩, rest⟩ := h
    by_cases keep : p (a, x) = true
    · rw [List.filter_cons_of_pos keep]
      simp only [Tab.wf, Bool.and_eq_true, List.all_eq_true]
      exact ⟨⟨hx, fun e he => first e (List.mem_of_mem_filter he)⟩, ih rest⟩
    · rw [List.filter_cons_of_neg keep]
      exact ih rest
@[simp] theorem okIf_resetDie {P : Prop} (s : State) (d) (ok : OkIf P s.mem) : OkIf P (resetDie s d).mem := by
  unfold resetDie
  extract_lets t clear free u v
  have ht : t.mem = s.mem := mem_foldl _ _ _ fun s c => by
    split <;> simp
  have hu : OkIf P u.mem := fun p => Tab.wf_filter _ _ _ (ht ▸ ok p)
  have hv : v.mem = u.mem := mem_foldl _ _ _ fun _ _ => rfl
  rw [mem_foldl _ _ _ fun _ _ => State.setStack_mem .., hv]
  exact hu
@[simp] theorem mem_clearShared (s : State) (l) : (clearShared s l).mem = s.mem := (rfl)
@[simp] theorem mem_setRange (s : State) (d base first cnt) : (setRange s d base first cnt).mem = s.mem := (rfl)
@[simp] theorem mem_settleRange (s : State) (d) : (settleRange s d).mem = s.mem := by simp [settleRange, apply_ite State.mem]
theorem okIf_of_changeLayout {P : Prop} {s t : State} {l : List (List Nat)} (h : changeLayout s l = some t) (ok : OkIf P s.mem) :
    OkIf P t.mem := by
  unfold changeLayout at h
  dsimp only at h
  split at h
  · cases h
  · split at h
    · cases h
    · cases h
      have settled (l : List Nat) : OkIf P (l.foldl settleDamper s).mem := okIf_foldl _ _ _ ok fun _ _ => okIf_settleDamper _ _
      rw [State.mem_logEvent, mem_assignEndpoints, mem_foldl _ _ _ fun _ _ => mem_settleRange ..]
      refine okIf_foldl _ _ _ ?_ fun _ _ => okIf_resetDie _ _
      show OkIf P (clearShared _ l).mem
      rw [mem_clearShared]
      exact settled _
@[simp] theorem goes_execPartitionLayout {P : Prop} (s : State) (ok : OkIf P s.mem) : Goes P (execPartitionLayout s) := by
  unfold execPartitionLayout
  split
  next u e =>
    have hu : OkIf P u.mem := mem_of_request e ▸ ok
    exact goes_configure _ _ _ _ hu fun t ht => okIf_of_changeLayout ht hu
  next => exact (goes_next _).2 ok
@[simp] theorem okIf_freshVector {P : Prop} (s : State) (p w) (ok : OkIf P s.mem) : OkIf P (freshVector s p w).mem := by
  unfold freshVector
  grind [State.mem_readVA, State.okIf_writeVA]
@[simp] theorem goes_execTrapVectorDeclare {P : Prop} (s : State) (ok : OkIf P s.mem) : Goes P (execTrapVectorDeclare s) := by
  unfold execTrapVectorDeclare
  split
  next u e =>
    have hu : OkIf P u.mem := mem_of_request e ▸ ok
    refine goes_configure _ _ _ _ hu fun t ht => ?_
    dsimp only at ht
    split at ht
    · cases ht
    · cases ht
      simp [hu]
  next => exact (goes_next _).2 ok
@[simp] theorem mem_poolFree (s : State) (p) : (poolFree s p).2.mem = s.mem := by
  unfold poolFree
  split
  · rfl
  · refine foldl_keeps _ (fun x : Bool × State => x.2.mem) _ _ fun x i => ?_
    dsimp only
    split
    · exact mem_readRecord ..
    · rfl
@[simp] theorem mem_rangeOpen (s : State) (p va n) : (rangeOpen s p va n).2.mem = s.mem := by
  unfold rangeOpen
  grind [State.mem_xlateRange]
@[simp] theorem mem_poolOk (s : State) (p w) : (poolOk s p w).2.mem = s.mem := by
  unfold poolOk
  grind [mem_rangeOpen, mem_poolFree]
@[simp] theorem goes_execRecordPoolDeclare {P : Prop} (s : State) (ok : OkIf P s.mem) : Goes P (execRecordPoolDeclare s) := by
  unfold execRecordPoolDeclare
  split
  next u e =>
    have hu : OkIf P u.mem := mem_of_request e ▸ ok
    extract_lets x
    have hx : OkIf P x.2.mem := okIf_ite_snd (by simpa using hu) hu
    refine goes_configure _ _ _ _ hx fun t ht => ?_
    dsimp only at ht
    split at ht
    · cases ht
      exact State.okIf_writeVA _ _ _ _ _ _ hx
    · cases ht
  next => exact (goes_next _).2 ok
@[simp] theorem goes_execDamperRangeDeclare {P : Prop} (s : State) (ok : OkIf P s.mem) : Goes P (execDamperRangeDeclare s) := by
  unfold execDamperRangeDeclare
  split
  next u e =>
    have hu : OkIf P u.mem := mem_of_request e ▸ ok
    refine goes_configure _ _ _ _ hu fun t ht => ?_
    dsimp only at ht
    split at ht
    · cases ht
    · cases ht
      simp [hu]
  next => exact (goes_next _).2 ok
@[simp] theorem goes_execTranslationRootDeclare {P : Prop} (s : State) (ok : OkIf P s.mem) : Goes P (execTranslationRootDeclare s) := by
  unfold execTranslationRootDeclare
  split
  next u e =>
    have hu : OkIf P u.mem := mem_of_request e ▸ ok
    refine goes_configure _ _ _ _ hu fun t ht => ?_
    dsimp only at ht
    split at ht
    · cases ht
    · cases ht
      simp [hu]
  next => exact (goes_next _).2 ok
@[simp] theorem goes_execHostWindowDeclare {P : Prop} (s : State) (ok : OkIf P s.mem) : Goes P (execHostWindowDeclare s) := by
  unfold execHostWindowDeclare
  split
  next u e =>
    have hu : OkIf P u.mem := mem_of_request e ▸ ok
    refine goes_configure _ _ _ _ hu fun t ht => ?_
    dsimp only at ht
    split at ht
    · cases ht
    · cases ht
      simp [hu]
  next => exact (goes_next _).2 ok
@[simp] theorem goes_execPartitionQueueDeclare {P : Prop} (s : State) (ok : OkIf P s.mem) : Goes P (execPartitionQueueDeclare s) := by
  unfold execPartitionQueueDeclare
  split
  next u e =>
    have hu : OkIf P u.mem := mem_of_request e ▸ ok
    refine goes_configure _ _ _ _ hu fun t ht => ?_
    dsimp only at ht
    split at ht
    · cases ht
    · cases ht
      simp [hu]
  next => exact (goes_next _).2 ok
@[simp] theorem goes_execPeerTableWrite {P : Prop} (s : State) (ok : OkIf P s.mem) : Goes P (execPeerTableWrite s) := by
  unfold execPeerTableWrite
  split
  next u e =>
    have hu : OkIf P u.mem := mem_of_request e ▸ ok
    refine goes_configure _ _ _ _ hu fun t ht => ?_
    dsimp only at ht
    split at ht
    · cases ht
    · cases ht
      simp [hu]
  next => exact (goes_next _).2 ok
@[simp] theorem goes_execPreemptRequest {P : Prop} (s : State) (ok : OkIf P s.mem) : Goes P (execPreemptRequest s) := by
  unfold execPreemptRequest
  split
  next u e =>
    have hu : OkIf P u.mem := mem_of_request e ▸ ok
    refine goes_configure _ _ _ _ hu fun t ht => ?_
    cases ht
    rw [mem_foldl _ _ _ fun _ _ => mem_markThread ..]
    exact hu
  next => exact (goes_next _).2 ok
@[simp] theorem goes_execImageUpdate {P : Prop} (s : State) (ok : OkIf P s.mem) : Goes P (execImageUpdate s) := by
  unfold execImageUpdate
  split
  next u e =>
    have hu : OkIf P u.mem := mem_of_request e ▸ ok
    refine goes_ite (by simp [hu]) (goes_ite ?_ ?_) <;> simpa using hu
  next => exact (goes_next _).2 ok
@[simp] theorem goes_execAttest {P : Prop} (s : State) (ok : OkIf P s.mem) : Goes P (execAttest s) := by
  unfold execAttest
  split
  next u e =>
    have hu : OkIf P u.mem := mem_of_request e ▸ ok
    (repeat' split) <;> simp [hu]
  next => exact (goes_next _).2 ok
@[simp] theorem goes_execCounterRead {P : Prop} (s : State) (ok : OkIf P s.mem) : Goes P (execCounterRead s) := by
  unfold execCounterRead
  split
  next u e =>
    have hu : OkIf P u.mem := mem_of_request e ▸ ok
    exact goes_ite (by simp [hu]) (by simp [hu])
  next => exact (goes_next _).2 ok
@[simp] theorem goes_refuseHost {P : Prop} (s : State) (p) (ok : OkIf P s.mem) : Goes P (refuseHost s p) := by simp
    [refuseHost, ok]
@[simp] theorem mem_hostPieces (s : State) (p win off n u) : (hostPieces s p win off n u).2.mem = s.mem := by
  unfold hostPieces
  grind [State.mem_xlateRange]
@[simp] theorem okIf_hostStore {P : Prop} (s : State) (l data) (ok : OkIf P s.mem) : OkIf P (hostStore s l data).mem :=
  okIf_foldl _ _ _ ok fun _ _ => State.okIf_writeAt _ _ _ _
@[simp] theorem goes_execHostWrite {P : Prop} (s : State) (ok : OkIf P s.mem) : Goes P (execHostWrite s) := by
  unfold execHostWrite
  split
  next u e =>
    have hu : OkIf P u.mem := mem_of_request e ▸ ok
    split
    all_goals next e =>
      have hv := mem_of_eq_snd e (mem_hostPieces ..) ▸ hu
      simp [hv]
  next => exact (goes_next _).2 ok
@[simp] theorem goes_execHostRead {P : Prop} (s : State) (ok : OkIf P s.mem) : Goes P (execHostRead s) := by
  unfold execHostRead
  split
  next u e =>
    have hu : OkIf P u.mem := mem_of_request e ▸ ok
    split
    all_goals next e =>
      have hv := mem_of_eq_snd e (mem_hostPieces ..) ▸ hu
      simp [hv]
  next => exact (goes_next _).2 ok
@[simp] theorem goes_execCountedWrite {P : Prop} (s : State) (ok : OkIf P s.mem) : Goes P (execCountedWrite s) := by
  unfold execCountedWrite
  split
  next u e =>
    have hu : OkIf P u.mem := mem_of_request e ▸ ok
    refine goes_ite (by simp [hu]) ?_
    split
    all_goals next e =>
      have hv := mem_of_eq_snd e (mem_hostPieces ..) ▸ hu
      simp [hv]
  next => exact (goes_next _).2 ok
@[simp] theorem goes_execUnsupportedOperation {P : Prop} (s : State) (ok : OkIf P s.mem) : Goes P (execUnsupportedOperation s) := by
  unfold execUnsupportedOperation
  split
  next u e =>
    have hu : OkIf P u.mem := mem_of_request e ▸ ok
    simp [hu]
  next => exact (goes_next _).2 ok
@[simp] theorem goes_execTransportFailure {P : Prop} (s : State) (ok : OkIf P s.mem) : Goes P (execTransportFailure s) := by
  unfold execTransportFailure
  split
  next u e =>
    have hu : OkIf P u.mem := mem_of_request e ▸ ok
    simpa using hu
  next => exact (goes_next _).2 ok

end Sys2Proof.Machine
end

section
/-! SUPPORT. Memory stays canonical through the copy engines. -/

namespace Sys2Proof.Machine

@[simp] theorem mem_acceptRequest (s : State) (ch w0 w1 w2 w3) : (acceptRequest s ch w0 w1 w2 w3).mem = s.mem := (rfl)
theorem goes_pushRequest {P : Prop} (s : State) (sa) (full : State → Result) (accept : State → State) (ok : OkIf P s.mem)
    (hfull : Goes P (full s)) (haccept : ∀ t, (accept t).mem = t.mem) : Goes P (pushRequest s sa full accept) := by
  unfold pushRequest
  dsimp only
  split
  · exact goes_takeTrap _ _ _ _ ok
  · refine goes_ite (goes_takeTrap _ _ _ _ ok) (goes_ite hfull (goes_withRelease _ _ ok fun t ht => State.goes_doneStrong _ ?_))
    rwa [haccept, mem_acceptRequest]
@[simp] theorem goes_execXpush {P : Prop} (sa) (s : State) (ok : OkIf P s.mem) : Goes P (execXpush sa s) :=
  goes_pushRequest _ _ _ _ ok (State.goes_stalled _ _ ok) fun _ => rfl
@[simp] theorem goes_execXpushb {P : Prop} (rd sa) (s : State) (ok : OkIf P s.mem) : Goes P (execXpushb rd sa s) :=
  goes_pushRequest _ _ _ _ ok (by simp -implicitDefEqProofs [ok]) fun _ => State.ws_mem _ _ _
@[simp] theorem goes_execXpushFifoAccept {P : Prop} (s : State) (ok : OkIf P s.mem) : Goes P (execXpushFifoAccept s) := by
  unfold execXpushFifoAccept
  split <;> simp [ok]
@[simp] theorem mem_jobAccess (s : State) (w n write) : (jobAccess s w n write).2.mem = s.mem := by
  unfold jobAccess
  grind [State.mem_xlateRange]
@[simp] theorem mem_jobRead (s : State) (j w n) : (jobRead s j w n).2.mem = s.mem := by
  unfold jobRead
  grind [mem_jobAccess]
@[simp] theorem okIf_jobWrite {P : Prop} (s : State) (j w b) (ok : OkIf P s.mem) : OkIf P (jobWrite s j w b).2.mem := by
  unfold jobWrite
  refine okIf_ite_snd ok ?_
  split
  next e =>
    have hu := mem_of_eq_snd e (mem_jobAccess ..)
    exact okIf_foldl _ _ _ (hu ▸ ok) fun t _ ht => State.okIf_writeAt _ _ _ _ ht
  next e =>
    have hu := mem_of_eq_snd e (mem_jobAccess ..)
    exact hu ▸ ok
@[simp] theorem okIf_takeJob {P : Prop} (s : State) (h kind tdst) (ok : OkIf P s.mem) : OkIf P (takeJob s h kind tdst).mem := by
  unfold takeJob
  grind [mem_takeRecords, okIf_putRecord, State.setCore_mem, State.mem_setChan, State.setStack_mem, State.setJob_mem,
      State.setThread_mem]
@[simp] theorem mem_onChan (s : State) (j f) : (onChan s j f).mem = s.mem := by simp [onChan, apply_ite State.mem]
@[simp] theorem mem_setupCopy (s : State) (j) : (setupCopy s j).1.mem = s.mem := by
  unfold setupCopy
  grind [mem_jobRead, mem_onChan]
@[simp] theorem mem_readIndex (s : State) (j l) : (readIndex s j l).2.mem = s.mem := by
  unfold readIndex
  grind [mem_jobRead]
@[simp] theorem okIf_moveElement {P : Prop} (s : State) (j l) (ok : OkIf P s.mem) : OkIf P (moveElement s j l).2.mem := by
  unfold moveElement
  grind [mem_jobRead, okIf_jobWrite]
@[simp] theorem okIf_moveElements {P : Prop} (s : State) (j l a) (ok : OkIf P s.mem) : OkIf P (moveElements s j l a).1.mem := by
  induction a generalizing s j with
  | zero => exact ok
  | succ n ih =>
    rw [moveElements]
    refine okIf_ite_fst ok ?_
    split
    next e =>
      have hu := mem_of_eq_snd e (mem_readIndex ..)
      exact hu ▸ ok
    next j' u e =>
      have hu : OkIf P u.mem := mem_of_eq_snd e (mem_readIndex ..) ▸ ok
      have hm := okIf_moveElement u j' l hu
      split
      next e₂ => rwa [e₂] at hm
      next e₂ =>
        rw [e₂] at hm
        exact ih _ _ (by simpa using hm)
@[simp] theorem okIf_copyGo {P : Prop} (s : State) (j n) (ok : OkIf P s.mem) : OkIf P (copyGo s j n).1.mem := by
  unfold copyGo
  split <;> simp [ok]
@[simp] theorem mem_reduceGo (s : State) (j a) : (reduceGo s j a).1.mem = s.mem := by
  induction a generalizing s j with
  | zero => rfl
  | succ n ih =>
    rw [reduceGo]
    simp only [apply_ite Prod.fst, apply_ite State.mem, ih, mem_pushCommand, ite_self]
@[simp] theorem mem_setupReduce (s : State) (j) : (setupReduce s j).1.mem = s.mem := by
  unfold setupReduce
  dsimp only
  (repeat' split) <;> simp
@[simp] theorem mem_setupShoot (s : State) (j) : (setupShoot s j).1.mem = s.mem := by
  unfold setupShoot
  dsimp only
  (repeat' split) <;> simp
@[simp] theorem goes_execShootAck {P : Prop} (s : State) (ok : OkIf P s.mem) : Goes P (execShootAck s) := by
  unfold execShootAck
  split <;> simp [ok]
@[simp] theorem State.mem_countWalk (s : State) (st p va) : (s.countWalk st p va).mem = s.mem := by
  unfold State.countWalk
  split <;> simp
@[simp] theorem mem_countPlan (s : State) (j) : (countPlan s j).mem = s.mem := by
  unfold countPlan
  dsimp only
  split <;> simp [apply_ite State.mem]
@[simp] theorem mem_setupMigrate (s : State) (j) : (setupMigrate s j).1.mem = s.mem := by
  unfold setupMigrate
  dsimp only
  (repeat' split) <;> simp
@[simp] theorem mem_releaseHold (s : State) (j) : (releaseHold s j).mem = s.mem := by simp [releaseHold, apply_ite State.mem]
/-- Bytes written in several places, and what does not write memory after them, keep memory's canonical form. -/
theorem okIf_pageMoved {P : Prop} (s : State) (h : Hart) (key : Nat → Nat) (bytes : State → Nat → List Byte) (a b : Nat) (x y : List Byte)
    (n : Nat) (z : Stack) (k : Nat) (j : Option Job) (ok : OkIf P s.mem) :
    OkIf P (((((((List.range 4).foldl (fun s k => s.writeAt h (key k) (bytes s k)) s).writeAt h a x).writeAt h b y)).setStack n
        z).setJob k j).mem := by
  rw [State.setJob_mem, State.setStack_mem]
  exact State.okIf_writeAt _ _ _ _ (State.okIf_writeAt _ _ _ _ (okIf_foldl _ _ _ ok fun t _ ht => State.okIf_writeAt _ _ _ _ ht))
@[simp] theorem goes_execMigrateMove {P : Prop} (s : State) (ok : OkIf P s.mem) : Goes P (execMigrateMove s) := by
  unfold execMigrateMove
  split
  · exact (goes_next _).2 ok
  · dsimp only
    refine goes_ite ((goes_next _).2 ok) ?_
    split
    · simpa using ok
    · exact goes_ite ((goes_next _).2 ok) ((goes_next _).2 (okIf_pageMoved _ _ _ _ _ _ _ _ _ _ _ _ ok))
@[simp] theorem mem_setupJob (s : State) (j) : (setupJob s j).1.mem = s.mem := by
  unfold setupJob
  split <;> simp
@[simp] theorem okIf_goJob {P : Prop} (s : State) (j n) (ok : OkIf P s.mem) : OkIf P (goJob s j n).1.mem := by
  unfold goJob
  split <;> simp [ok]
@[simp] theorem goes_jobEvent {P : Prop} (s : State) (kind tdst) (ok : OkIf P s.mem) : Goes P (jobEvent s kind tdst) := by
  unfold jobEvent
  dsimp only
  (repeat' split) <;> simp [ok]
@[simp] theorem goes_execCopy {P : Prop} (s : State) (ok : OkIf P s.mem) : Goes P (execCopy s) := by simp [execCopy, ok]
@[simp] theorem goes_execCopyToTensor {P : Prop} (s : State) (ok : OkIf P s.mem) : Goes P (execCopyToTensor s) := by simp
    [execCopyToTensor, ok]
@[simp] theorem goes_execGather {P : Prop} (s : State) (ok : OkIf P s.mem) : Goes P (execGather s) := by simp [execGather, ok]
@[simp] theorem goes_execScatter {P : Prop} (s : State) (ok : OkIf P s.mem) : Goes P (execScatter s) := by simp [execScatter, ok]
@[simp] theorem goes_execReduce {P : Prop} (s : State) (ok : OkIf P s.mem) : Goes P (execReduce s) := by simp [execReduce, ok]
@[simp] theorem goes_execMigrate {P : Prop} (s : State) (ok : OkIf P s.mem) : Goes P (execMigrate s) := by simp [execMigrate, ok]
@[simp] theorem goes_execShoot {P : Prop} (s : State) (ok : OkIf P s.mem) : Goes P (execShoot s) := by simp [execShoot, ok]
@[simp] theorem goes_execRun {P : Prop} (s : State) (ok : OkIf P s.mem) : Goes P (execRun s) := by
  unfold execRun
  dsimp only
  have taken : OkIf P (if (s.job s.cur).isNone && kindOf s.cur = .stoker && (s.thread s.cur).run == .idle then
      takeJob s s.cur 6 false else s).mem := okIf_ite (okIf_takeJob _ _ _ _ ok) ok
  generalize (if (s.job s.cur).isNone && kindOf s.cur = .stoker && (s.thread s.cur).run == .idle then
      takeJob s s.cur 6 false else s) = u at taken ⊢
  split
  · exact (goes_next _).2 taken
  · refine goes_ite ((goes_next _).2 taken) (goes_ite ((goes_next _).2 (by simpa using taken)) ?_)
    split
    next e =>
      have hv := mem_of_eq_snd e (mem_readHeader ..)
      exact (goes_next _).2 (by simpa [hv] using taken)
    next e =>
      have hv := mem_of_eq_snd e (mem_readHeader ..)
      refine (goes_next _).2 (okIf_placeOn _ _ _ _ _ ?_)
      rw [State.setJob_mem, State.setJob_mem]
      exact okIf_putPc _ _ _ _ (hv ▸ taken)
@[simp] theorem okIf_endJob {P : Prop} (s : State) (h j stop fcode fva) (ok : OkIf P s.mem) : OkIf P (endJob s h j stop fcode
    fva).mem := by simp [endJob, ok]
@[simp] theorem goes_execCopyComplete {P : Prop} (s : State) (ok : OkIf P s.mem) : Goes P (execCopyComplete s) := by
  unfold execCopyComplete
  (repeat' split) <;> simp [ok]
@[simp] theorem goes_execReduceComplete {P : Prop} (s : State) (ok : OkIf P s.mem) : Goes P (execReduceComplete s) := by
  unfold execReduceComplete
  (repeat' split) <;> simp [ok]
@[simp] theorem goes_execPage {P : Prop} (s : State) (ok : OkIf P s.mem) : Goes P (execPage s) := by
  unfold execPage
  dsimp only
  (repeat' split) <;> simp -implicitDefEqProofs [ok]
@[simp] theorem goes_execContinuationMigrate {P : Prop} (s : State) (ok : OkIf P s.mem) : Goes P (execContinuationMigrate s) := by
  unfold execContinuationMigrate
  extract_lets h move
  have moves (t : State) (n : Nat) (ht : OkIf P t.mem) : Goes P (move t n) := by
    refine goes_ite ((goes_next _).2 ht) ((goes_next _).2 ?_)
    rw [State.mem_goIdle, State.mem_enqueue]
    have put := okIf_putStatus _ h ((t.drain h).thread h).cont 6
      (okIf_putPc _ h ((t.drain h).thread h).cont ((t.drain h).thread h).regs.pc (State.okIf_drain t h ht))
    split
    · simpa using put
    · exact put
  split
  · split
    · exact moves _ _ ok
    · exact (goes_next _).2 ok
  · split
    · split
      next e => exact (goes_next _).2 (State.okIf_of_endChunk_error e ok)
      next e => exact moves _ _ (State.okIf_of_endChunk_ok e ok)
    · exact (goes_next _).2 ok
@[simp] theorem goes_execXwaitDone {P : Prop} (ch rd) (s : State) (ok : OkIf P s.mem) : Goes P (execXwaitDone ch rd s) := by
  unfold execXwaitDone
  grind [goes_withChunkEnd, State.goes_stalled, State.goes_doneStrong, State.ws_mem]
@[simp] theorem goes_execXwaitRead {P : Prop} (ch sa) (s : State) (ok : OkIf P s.mem) : Goes P (execXwaitRead ch sa s) := by
  unfold execXwaitRead
  grind [goes_withChunkEnd, State.goes_stalled, State.goes_doneStrong]
@[simp] theorem goes_execXwaitFill {P : Prop} (ch sa) (s : State) (ok : OkIf P s.mem) : Goes P (execXwaitFill ch sa s) := by
  unfold execXwaitFill
  grind [goes_withChunkEnd, State.goes_stalled, State.goes_doneStrong]
@[simp] theorem goes_execXresume {P : Prop} (ch) (s : State) (ok : OkIf P s.mem) : Goes P (execXresume ch s) := by
  unfold execXresume
  grind [goes_withRelease, State.goes_doneStrong, okIf_resumeJob]
@[simp] theorem okIf_cancelRun {P : Prop} (s : State) (k j) (ok : OkIf P s.mem) : OkIf P (cancelRun s k j).mem := by
  unfold cancelRun
  grind [okIf_finishRetiring, State.setThread_mem, State.mem_dropToken, State.setPart_mem, okIf_chanEnd, okIf_putStatus,
      State.setJob_mem]
@[simp] theorem okIf_cancelChan {P : Prop} (s : State) (core ch) (ok : OkIf P s.mem) : OkIf P (cancelChan s core ch).mem := by
  unfold cancelChan
  dsimp only
  (repeat' split) <;> simp -implicitDefEqProofs [ok]
@[simp] theorem goes_execXcancel {P : Prop} (ch) (s : State) (ok : OkIf P s.mem) : Goes P (execXcancel ch s) := by
  unfold execXcancel
  grind [goes_withRelease, State.goes_stalled, State.goes_doneStrong, okIf_cancelChan]
@[simp] theorem goes_execXstat {P : Prop} (rd ch) (s : State) (ok : OkIf P s.mem) : Goes P (execXstat rd ch s) := by
    simp -implicitDefEqProofs [execXstat, ok]
@[simp] theorem goes_execXstatRead {P : Prop} (rd ch) (s : State) (ok : OkIf P s.mem) : Goes P (execXstatRead rd ch s) := by
    simp -implicitDefEqProofs [execXstatRead, ok]
@[simp] theorem goes_execXstatFill {P : Prop} (rd ch) (s : State) (ok : OkIf P s.mem) : Goes P (execXstatFill rd ch s) := by
    simp -implicitDefEqProofs [execXstatFill, ok]

end Sys2Proof.Machine
end

section
/-! SUPPORT. Memory stays canonical through the Kindling array, the scalar and the vector instructions. -/

namespace Sys2Proof.Machine

@[simp] theorem State.mem_setKindling (s : State) (cl k) : (s.setKindling cl k).mem = s.mem := (rfl)
theorem goes_withArray {P : Prop} (s : State) (c) (k : State → Result) (ok : OkIf P s.mem)
    (hk : ∀ t, OkIf P t.mem → Goes P (k t)) : Goes P (withArray s c k) := by
  have refused := goes_takeTrap s .kindle 0 0 ok
  unfold withArray
  split
  · exact goes_ite (hk _ ok) refused
  · exact goes_ite (hk _ ok) refused
@[simp] theorem State.mem_claim (s : State) : (s.claim).mem = s.mem := by simp [State.claim, apply_ite State.mem]
@[simp] theorem goes_execKnwin {P : Prop} (sw) (s : State) (ok : OkIf P s.mem) : Goes P (execKnwin sw s) := by
  refine goes_ite (goes_withChunkEnd _ _ ok fun t ht => State.goes_doneStrong _ ht) (goes_ite (by simp [ok]) ?_)
  exact goes_withArray _ _ _ ok fun t ht => goes_withChunkEnd _ _ ht fun u hu => State.goes_doneStrong _ (by simpa using hu)
@[simp] theorem goes_execKndly {P : Prop} (sa sr) (s : State) (ok : OkIf P s.mem) : Goes P (execKndly sa sr s) := by
  refine goes_ite (goes_withRelease _ _ ok fun t ht => State.goes_doneStrong _ ht) (goes_ite (by simp [ok]) ?_)
  refine goes_ite (by simp [ok]) (goes_ite (by simp [ok]) (goes_withArray _ _ _ ok fun t ht => ?_))
  exact goes_withRelease _ _ ht fun u hu => State.goes_doneStrong _ (by simpa using hu)
@[simp] theorem State.mem_setModes (s : State) (cl m) : (s.setModes cl m).mem = s.mem := (rfl)
@[simp] theorem goes_execKnmode {P : Prop} (vm) (s : State) (ok : OkIf P s.mem) : Goes P (execKnmode vm s) := by
  refine goes_withDir _ _ _ _ ok fun s ok => ?_
  extract_lets act
  have acts (t : State) (ht : OkIf P t.mem) : Goes P (act t) := by
    refine goes_withChunkEnd _ _ ht fun u hu => goes_withPops _ _ _ _ hu fun v vals hv => ?_
    refine goes_ite (State.goes_doneCommit _ hv) (State.goes_doneCommit _ ?_)
    split
    · simpa using hv
    · simpa using hv
  exact goes_ite (acts _ ok) (goes_withArray _ _ _ ok acts)
@[simp] theorem goes_execKnlaunch {P : Prop} (va vb) (s : State) (ok : OkIf P s.mem) : Goes P (execKnlaunch va vb s) := by
  refine goes_withDir _ _ _ _ ok fun s ok => ?_
  extract_lets act
  have acts (t : State) (ht : OkIf P t.mem) : Goes P (act t) := by
    refine goes_ite (by simp [ht]) (goes_withChunkEnd _ _ ht fun u hu => goes_withPops _ _ _ _ hu fun v vals hv => ?_)
    exact goes_ite (State.goes_doneCommit _ hv) (State.goes_doneCommit _ (by simpa using hv))
  exact goes_ite (acts _ ok) (goes_withArray _ _ _ ok acts)
@[simp] theorem goes_execKnreset {P : Prop} (s : State) (ok : OkIf P s.mem) : Goes P (execKnreset s) := by
  have ends := goes_withChunkEnd s State.doneStrong ok fun t ht => State.goes_doneStrong _ ht
  refine goes_ite ends ?_
  split
  · exact ends
  · exact goes_withArray _ _ _ ok fun t ht => goes_withChunkEnd _ _ ht fun u hu => State.goes_doneStrong _ (by simpa using hu)
@[simp] theorem mem_captureHalves (s : State) (key now) : (captureHalves s key now).2.mem = s.mem := by
  unfold captureHalves
  dsimp only
  (repeat' split) <;> simp
@[simp] theorem goes_capture {P : Prop} (s : State) (i first vd ve) (ok : OkIf P s.mem) : Goes P (capture s i first vd ve) := by
  refine goes_withDir _ _ _ _ ok fun s ok => goes_withDir _ _ _ _ ok fun s ok => ?_
  extract_lets key act
  have acts (t : State) (ht : OkIf P t.mem) : Goes P (act t) := State.goes_done _ (by simpa using ht)
  exact goes_ite (acts _ ok) (goes_withArray _ _ _ ok fun t ht => goes_ite (by simp [ht]) (acts _ ht))
@[simp] theorem goes_execKnstat {P : Prop} (rd) (s : State) (ok : OkIf P s.mem) : Goes P (execKnstat rd s) := by
  unfold execKnstat
  grind [goes_withChunkEnd, State.goes_doneStrong, State.ws_mem, State.setGang_mem]
@[simp] theorem goes_execKindlingCapture {P : Prop} (s : State) (ok : OkIf P s.mem) : Goes P (execKindlingCapture s) := by
  unfold execKindlingCapture
  dsimp only
  split <;> simp [ok]
@[simp] theorem mem_takeModes (s : State) (cl a) : (takeModes s cl a).mem = s.mem := by
  induction a generalizing s with
  | nil => rfl
  | cons l r ih =>
    rw [takeModes]
    split
    · exact ih _
    · rfl
@[simp] theorem goes_execKndlyLoadDone {P : Prop} (s : State) (ok : OkIf P s.mem) : Goes P (execKndlyLoadDone s) := by
  unfold execKndlyLoadDone
  dsimp only
  split <;> simp [ok]
@[simp] theorem goes_alu2 {P : Prop} (s : State) (rd rs1 rs2 f) (ok : OkIf P s.mem) : Goes P (alu2 s rd rs1 rs2 f) := by
    simp -implicitDefEqProofs [alu2, ok]
@[simp] theorem goes_alu1 {P : Prop} (s : State) (rd rs1 f) (ok : OkIf P s.mem) : Goes P (alu1 s rd rs1 f) := by
    simp -implicitDefEqProofs [alu1, ok]
@[simp] theorem goes_bindTo {P : Prop} (s : State) (vn d) (ok : OkIf P s.mem) : Goes P (bindTo s vn d) := by
    simp -implicitDefEqProofs [bindTo, ok]
@[simp] theorem goes_execSbind {P : Prop} (vn sd) (s : State) (ok : OkIf P s.mem) : Goes P (execSbind vn sd s) := by simp
    [execSbind, ok]
@[simp] theorem goes_execSskip {P : Prop} (vn sc) (s : State) (ok : OkIf P s.mem) : Goes P (execSskip vn sc s) := by
  unfold execSskip
  dsimp only
  split <;> simp -implicitDefEqProofs [ok]
@[simp] theorem goes_execStreamPrefetch {P : Prop} (s : State) (ok : OkIf P s.mem) : Goes P (execStreamPrefetch s) := by
  unfold execStreamPrefetch
  dsimp only
  split <;> simp [ok]
@[simp] theorem goes_execStreamStallRelease {P : Prop} (s : State) (ok : OkIf P s.mem) : Goes P (execStreamStallRelease s) := by
  unfold execStreamStallRelease
  (repeat' split) <;> simp [ok]
theorem goes_vec1 {P : Prop} (s : State) (i va dst) (f : State → Vec → Result) (ok : OkIf P s.mem)
    (hf : ∀ t a, OkIf P t.mem → Goes P (f t a)) : Goes P (vec1 s i va dst f) :=
  goes_withDir _ _ _ _ ok fun _ ht => goes_withPops _ _ _ _ ht fun _ _ hu => hf _ _ hu
theorem goes_vec2 {P : Prop} (s : State) (i va vb dst) (f : State → Vec → Vec → Result) (ok : OkIf P s.mem)
    (hf : ∀ t a b, OkIf P t.mem → Goes P (f t a b)) : Goes P (vec2 s i va vb dst f) :=
  goes_withDir _ _ _ _ ok fun _ ht => goes_withPops _ _ _ _ ht fun _ _ hu => hf _ _ _ hu
theorem goes_vec3 {P : Prop} (s : State) (i va vb vc dst) (f : State → Vec → Vec → Vec → Result) (ok : OkIf P s.mem)
    (hf : ∀ t a b c, OkIf P t.mem → Goes P (f t a b c)) : Goes P (vec3 s i va vb vc dst f) :=
  goes_withDir _ _ _ _ ok fun _ ht => goes_withPops _ _ _ _ ht fun _ _ hu => hf _ _ _ _ hu
@[simp] theorem goes_lanesTo {P : Prop} (s : State) (vd t md f) (ok : OkIf P s.mem) : Goes P (lanesTo s vd t md f) := by simp
    [lanesTo, ok]
@[simp] theorem goes_vop2 {P : Prop} (s : State) (i vd va vb t md f) (ok : OkIf P s.mem) : Goes P (vop2 s i vd va vb t md f) :=
  goes_vec2 _ _ _ _ _ _ ok fun _ _ _ hu => goes_lanesTo _ _ _ _ _ hu
@[simp] theorem goes_vop1 {P : Prop} (s : State) (i vd va t md f) (ok : OkIf P s.mem) : Goes P (vop1 s i vd va t md f) :=
  goes_vec1 _ _ _ _ _ ok fun _ _ hu => goes_lanesTo _ _ _ _ _ hu
@[simp] theorem goes_vop3 {P : Prop} (s : State) (i vd va vb vc t md f) (ok : OkIf P s.mem) : Goes P (vop3 s i vd va vb vc t md f) :=
  goes_vec3 _ _ _ _ _ _ _ ok fun _ _ _ _ hu => goes_lanesTo _ _ _ _ _ hu
@[simp] theorem goes_execVsel {P : Prop} (vd va vb mk ty md) (s : State) (ok : OkIf P s.mem) : Goes P (execVsel vd va vb mk ty md s) :=
  goes_vec2 _ _ _ _ _ _ ok fun _ _ _ hu => goes_lanesTo _ _ _ _ _ hu
@[simp] theorem goes_execVcmp {P : Prop} (mdst va vb cc ty md) (s : State) (ok : OkIf P s.mem) : Goes P (execVcmp mdst va vb cc ty md s) :=
  goes_vec2 _ _ _ _ _ _ ok fun _ _ _ hu => State.goes_done _ (by simpa using hu)
@[simp] theorem goes_execVclass {P : Prop} (mdst va set ty md) (s : State) (ok : OkIf P s.mem) : Goes P (execVclass mdst va set ty md s) :=
  goes_vec1 _ _ _ _ _ ok fun _ _ hu => State.goes_done _ (by simpa using hu)
@[simp] theorem goes_execVcvt {P : Prop} (vd va dt st part mode md) (s : State) (ok : OkIf P s.mem) : Goes P (execVcvt vd va dt
    st part mode md s) :=
  goes_vec1 _ _ _ _ _ ok fun _ _ hu => State.goes_doneV _ _ _ _ hu
@[simp] theorem goes_execVqnt {P : Prop} (vd va vb ty mode) (s : State) (ok : OkIf P s.mem) : Goes P (execVqnt vd va vb ty mode s) :=
  goes_vec2 _ _ _ _ _ _ ok fun _ _ _ hu => State.goes_doneV _ _ _ _ hu
@[simp] theorem goes_execVdq {P : Prop} (vd va part ty md) (s : State) (ok : OkIf P s.mem) : Goes P (execVdq vd va part ty md s) :=
  goes_vec1 _ _ _ _ _ ok fun _ _ hu => goes_lanesTo _ _ _ _ _ hu
@[simp] theorem goes_execVsplat {P : Prop} (vd rs ty md) (s : State) (ok : OkIf P s.mem) : Goes P (execVsplat vd rs ty md s) := by
  unfold execVsplat
  grind [goes_withDir, goes_lanesTo]
@[simp] theorem goes_execVext {P : Prop} (rd va si ty) (s : State) (ok : OkIf P s.mem) : Goes P (execVext rd va si ty s) :=
  goes_vec1 _ _ _ _ _ ok fun _ _ hu => State.goes_done _ (by simpa using hu)
@[simp] theorem goes_execVins {P : Prop} (vd rs si ty) (s : State) (ok : OkIf P s.mem) : Goes P (execVins vd rs si ty s) := by
  unfold execVins
  grind [goes_withDir, State.goes_doneV]
@[simp] theorem goes_execVperm {P : Prop} (vd va vb ty md) (s : State) (ok : OkIf P s.mem) : Goes P (execVperm vd va vb ty md s) :=
  goes_vec2 _ _ _ _ _ _ ok fun _ _ _ hu => goes_lanesTo _ _ _ _ _ hu
@[simp] theorem goes_reduceTo {P : Prop} (s : State) (rd op t md leaf) (ok : OkIf P s.mem) : Goes P (reduceTo s rd op t md
    leaf) := by simp [reduceTo, ok]
@[simp] theorem goes_execVredAdd {P : Prop} (rd va ty md) (s : State) (ok : OkIf P s.mem) : Goes P (execVredAdd rd va ty md s) :=
  goes_vec1 _ _ _ _ _ ok fun _ _ hu => goes_reduceTo _ _ _ _ _ _ hu
@[simp] theorem goes_execVredMin {P : Prop} (rd va ty md) (s : State) (ok : OkIf P s.mem) : Goes P (execVredMin rd va ty md s) :=
  goes_vec1 _ _ _ _ _ ok fun _ _ hu => goes_reduceTo _ _ _ _ _ _ hu
@[simp] theorem goes_execVredMax {P : Prop} (rd va ty md) (s : State) (ok : OkIf P s.mem) : Goes P (execVredMax rd va ty md s) :=
  goes_vec1 _ _ _ _ _ ok fun _ _ hu => goes_reduceTo _ _ _ _ _ _ hu
@[simp] theorem goes_execVdot {P : Prop} (rd va vb ty md) (s : State) (ok : OkIf P s.mem) : Goes P (execVdot rd va vb ty md s) :=
  goes_vec2 _ _ _ _ _ _ ok fun _ _ _ hu => goes_reduceTo _ _ _ _ _ _ hu
@[simp] theorem goes_execVidx {P : Prop} (vd rs ty md) (s : State) (ok : OkIf P s.mem) : Goes P (execVidx vd rs ty md s) := by
  unfold execVidx
  grind [goes_withDir, goes_lanesTo]

end Sys2Proof.Machine
end

section
/-! SUPPORT. Every instruction, every event and every turn keeps memory in canonical form. -/

namespace Sys2Proof.Machine

/-- Every instruction and every event goes on in every state, and keeps memory in canonical form: one lemma above for each of them, and
for those that are one call of a shared operation the lemma of that operation. -/
@[simp] theorem goes_exec {P : Prop} (i : Instr) (s : State) (ok : OkIf P s.mem) : Goes P (exec i s) := by
  cases i <;> simp -implicitDefEqProofs [ok, exec,
    execChunkLengthEnd, execStoreFootprintEnd, execRegisterWindowStore, execBeq, execBne, execBlt, execBge, execBltz,
    execBgez, execLoop, execJmp, execCall, execRep, execGang, execNop, execBrk, execTrap, execCrd, execCwr, execWarm,
    execMatrixGrant, execMatrixPark, execStaggerTokenMove, execRefresh, execHobBudgetExhausted, execBarrierDeadline,
    execMsred, execXorred, execFacc, execDamperDrainFinish, execClusterReady, execKncapt, execKnfirst, execAdd, execSub,
    execMul, execMulh, execMulhz, execDiv, execDivz, execRem, execRemz, execAnd, execOr, execXor, execShl, execShr,
    execSra, execSlt, execSltz, execMin, execMax, execMinz, execMaxz, execClz, execCtz, execPopc, execMov, execAddi,
    execAndi, execOri, execXori, execSlti, execShli, execShri, execSrai, execLi, execLiSh16, execLea, execSel, execBext,
    execBins, execSunb, execVadd, execVsub, execVmul, execVfma, execVfms, execVfnma, execVdiv, execVsqrt, execVmin,
    execVmax, execVand, execVor, execVxor, execVshl, execVshlImm, execVshr, execVshrImm, execVsra, execVsraImm,
    execVmov, execMset, execMand, execMor, execMnot, execMpop, execAmoAdd, execAmoAnd, execAmoOr, execAmoXor,
    execAmoSwap, execAmoSmin, execAmoSmax, execAmoZmin, execAmoZmax, execAmoFadd, execAmoFmin, execAmoFmax, execAmoCas,
    execRedAdd, execRedAnd, execRedOr, execRedXor, execRedSwap, execRedSmin, execRedSmax, execRedZmin, execRedZmax,
    execRedFadd, execRedFmin, execRedFmax]

/-- What stands before a head goes on and keeps memory, or leaves it to an event or an instruction to do so. -/
def Prep.Keeps (P : Prop) : Prep → Prop
  | .answer o => Goes P o
  | .event _ _ => True
  | .issue _ t => OkIf P t.mem

theorem Prep.keeps_ite {P c : Prop} {_ : Decidable c} {a b : Prep} (ha : a.Keeps P) (hb : b.Keeps P) :
    (if c then a else b).Keeps P := by
  split <;> assumption

theorem State.mem_of_fetchLine {s u : State} {h : Hart} {pc : Word} {r : Fetched} (e : s.fetchLine h pc = (r, u)) : u.mem =
    s.mem :=
  mem_of_eq_snd e (State.mem_fetchLine ..)

theorem fetchDecode_keeps {P : Prop} (s : State) (h : Hart) (ok : OkIf P s.mem) : (fetchDecode s h).Keeps P := by
  unfold fetchDecode
  dsimp only
  split
  · exact (goes_next _).2 ok
  · split
    next e => exact (goes_next _).2 (State.mem_of_fetchLine e ▸ ok)
    next u e =>
      have hu : OkIf P u.mem := State.mem_of_fetchLine e ▸ ok
      split
      · exact goes_hobFault _ _ _ hu
      · exact goes_takeTrapInfo _ _ _ hu
    next l u e =>
      have hu : OkIf P (u.holdLine h (s.thread h).regs.pc l).mem := by
        rw [State.mem_holdLine, State.mem_of_fetchLine e]
        exact ok
      split
      · exact goes_takeTrapInfo _ _ _ hu
      · split
        · exact goes_takeTrapInfo _ _ _ hu
        · split
          · exact hu
          · exact goes_takeTrapInfo _ _ _ hu

theorem prepare_keeps {P : Prop} (s : State) (h : Hart) (ok : OkIf P s.mem) : (prepare s h).Keeps P := by
  have fetched : (fetchDecode (takeToken s h) h).Keeps P := fetchDecode_keeps _ _ (by simpa [takeToken, apply_ite State.mem] using ok)
  have waits : (Prep.answer (.next s)).Keeps P := (goes_next s).2 ok
  have traps (i) : (Prep.answer (takeTrapInfo s h i)).Keeps P := goes_takeTrapInfo _ _ _ ok
  have marked : (Prep.answer (.next (s.markEnded h))).Keeps P := (goes_next _).2 (by simpa using ok)
  unfold prepare
  refine Prep.keeps_ite waits (Prep.keeps_ite trivial ?_)
  split
  any_goals exact waits
  all_goals
    refine Prep.keeps_ite trivial (Prep.keeps_ite trivial (Prep.keeps_ite marked (Prep.keeps_ite trivial (Prep.keeps_ite trivial
      (Prep.keeps_ite waits ?_)))))
    split
    · exact traps _
    · exact Prep.keeps_ite trivial fetched

theorem goes_issueTurn {P : Prop} (s : State) (h : Hart) (ok : OkIf P s.mem) : Goes P (issueTurn s h) := by
  have keeps := prepare_keeps { s with cur := h, arg := 0, now := s.now + 1 } h ok
  unfold issueTurn
  dsimp only
  split
  next e => rwa [e] at keeps
  next => exact goes_exec _ _ ok
  next e => rw [e] at keeps; exact goes_exec _ _ keeps

theorem goes_turn {P : Prop} (s : State) (t : Turn) (on : s.ctrl.halted = false) (ok : OkIf P s.mem) : Goes P (turn s t) := by
  unfold turn
  simp only [on, Bool.false_eq_true, if_false]
  split
  · exact goes_exec _ _ ok
  · exact goes_ite (goes_exec _ _ ok) ((goes_next _).2 ok)
  · exact goes_issueTurn _ _ ok
  · simpa using ok
  · exact (goes_next _).2 ok

/-- A module that is off powers up, or answers the fault of that name. -/
theorem turn_off {P : Prop} (s : State) (t : Turn) (off : s.ctrl.halted = true) (ok : OkIf P s.mem) :
    Goes P (turn s t) ∨ turn s t = .fault .moduleOff := by
  unfold turn
  simp only [off, if_true]
  split
  · exact .inl (goes_exec _ _ ok)
  all_goals exact .inr rfl

theorem nextTurn_keeps (s : State) : (nextTurn s).2.ctrl = s.ctrl ∧ (nextTurn s).2.mem = s.mem := by
  unfold nextTurn
  split <;> exact ⟨rfl, rfl⟩

/-- A step goes on and keeps memory in canonical form, or the module is off. -/
theorem step_goes {P : Prop} (s : State) (ok : OkIf P s.mem) :
    Goes P (step s) ∨ (s.ctrl.halted = true ∧ step s = .fault .moduleOff) := by
  obtain ⟨ctrl, mem⟩ := nextTurn_keeps s
  cases e : s.ctrl.halted with
  | false => exact .inl (goes_turn _ _ (by rw [ctrl, e]) (mem ▸ ok))
  | true => exact (turn_off _ _ (by rw [ctrl, e]) (mem ▸ ok)).imp_right fun h => ⟨rfl, h⟩


end Sys2Proof.Machine
end

section
open Sys2Proof Sys2Proof.Machine

/-- Settles O33: every operation keeps memory in canonical form, because memory is written by `Memory.write` alone. -/
theorem stepKeepsMemory : Obligations.StepKeepsMemory := by
  intro s t ok e
  rcases step_goes (P := s.memOk) s id with ⟨u, hu, keeps⟩ | ⟨-, stopped⟩
  · cases hu.symm.trans e
    exact keeps ok
  · cases stopped.symm.trans e

/-- Settles O32: every operation answers a next state, so that nothing but a module that is off stops. -/
theorem nothingStops : Obligations.NothingStops := by
  have goes {o : Result} (h : Goes False o) : goesOn o := h.imp fun _ => And.left
  refine ⟨fun i s => goes (goes_exec i s False.elim), fun s => ⟨fun on => ?_, fun off => ?_, fun off h rest e => ?_⟩⟩
  · rcases step_goes s False.elim with next | ⟨off, -⟩
    · exact goes next
    · simp [on] at off
  · exact (step_goes s False.elim).imp goes And.right
  · simp [step, nextTurn, e, turn, off]

end

section
/-! SUPPORT. Loads and stores: what a weak load, a weak store, a strong access and a stack access come to (R70, R73, R85, R211
    to R215,
R315), and the directions and pops of streams (R249, R250). -/

namespace Sys2Proof.Machine

/-! ## Weak accesses -/

section
variable {s : State} {i : Instr} {k n : Nat} {f : State → Nat → Result} {b : List Byte}

theorem weakLoad_held (h : s.held s.cur k n = true) : weakLoad s i k n f = s.stalled i := if_pos h
theorem weakLoad_here (h : s.held s.cur k n = false) (here : arbOfKey k = arbOf s.cur) :
    weakLoad s i k n f = f (s.noteRead s.cur k n) (s.loadNat s.cur k n) := by
  rw [weakLoad, if_neg (Bool.not_eq_true _ ▸ h), if_pos here]
theorem weakLoad_away (h : s.held s.cur k n = false) (away : arbOfKey k ≠ arbOf s.cur) :
    weakLoad s i k n f = .next (s.setMe { s.me with wait := .load i }) := by
  rw [weakLoad, if_neg (Bool.not_eq_true _ ▸ h), if_neg away]
theorem weakStoreTo_held (h : s.held s.cur k b.length = true) : weakStoreTo s i k b = s.stalled i := if_pos h
theorem weakStoreTo_free (h : s.held s.cur k b.length = false) : weakStoreTo s i k b = .next (s.weakStore s.cur k b).past := by
  rw [weakStoreTo, if_neg (Bool.not_eq_true _ ▸ h), State.done, State.past]

end

/-- Where a load or store of a core or a stoker is refused it raises its trap, and otherwise it is performed at its word. -/
theorem execLd_eq (rd base : Reg) (ty : Ty) (off : BitVec 16) (s : State) (h : kindOf s.cur ≠ .hob) :
    execLd rd base ty off s = match s.accessTrap .weakLoad (s.ea base off) (tyBytes ty) with
      | some t => addressTrap s t (s.ea base off)
      | none => weakLoad s (.ld rd base ty off) (s.ea base off).toNat (tyBytes ty) fun s v => (s.ws rd (extendTy ty v)).done := by
  rw [execLd, if_neg h] <;> rfl
theorem execSt_eq (rs base : Reg) (ty : Ty) (off : BitVec 16) (s : State) (h : kindOf s.cur ≠ .hob) :
    execSt rs base ty off s = match s.accessTrap .weakStore (s.ea base off) (tyBytes ty) with
      | some t => addressTrap s t (s.ea base off)
      | none => weakStoreTo s (.st rs base ty off) (s.ea base off).toNat (leBytes (tyBytes ty) (s.rs rs).toNat) :=
  if_neg h
/-- On a hob unit both address the unit's data memory. -/
theorem execLd_hob (rd base : Reg) (ty : Ty) (off : BitVec 16) (s : State) (h : kindOf s.cur = .hob) :
    execLd rd base ty off s = hobData s (s.ea base off) (tyBytes ty) fun k =>
      weakLoad s (.ld rd base ty off) k (tyBytes ty) fun s v => (s.ws rd (extendTy ty v)).done := by
  rw [execLd, if_pos h]
theorem execSt_hob (rs base : Reg) (ty : Ty) (off : BitVec 16) (s : State) (h : kindOf s.cur = .hob) :
    execSt rs base ty off s = hobData s (s.ea base off) (tyBytes ty) fun k =>
      weakStoreTo s (.st rs base ty off) k (leBytes (tyBytes ty) (s.rs rs).toNat) := by
  rw [execSt, if_pos h]

theorem hobData_in {s : State} {ea : Word} {n : Nat} {f : Nat → Result} (h : ea.toNat + n ≤ 8192) :
    hobData s ea n f = f (hobKey (s.cur - 13824) ea.toNat) := if_pos h
theorem hobData_past {s : State} {ea : Word} {n : Nat} {f : Nat → Result} (h : 8192 < ea.toNat + n) :
    hobData s ea n f = hobFault s s.cur 6 := if_neg (by omega)

/-! ## Streams -/

theorem withDir_against {s : State} {srcs : List Reg} {dst : Option Reg} {k : State → Result} {n : Reg}
    (h : s.me.regs.against srcs dst = some n) : withDir s srcs dst k = takeTrap s .stream 0 n.toNat := by
  rw [withDir, h]
theorem withDir_waits {s : State} {srcs : List Reg} {dst : Option Reg} {k : State → Result}
    (h : s.me.regs.against srcs dst = none) (w : s.pushWaits dst = true) : withDir s srcs dst k = .next s := by
  rw [withDir, h]
  exact if_pos w
theorem withDir_goes {s : State} {srcs : List Reg} {dst : Option Reg} {k : State → Result}
    (h : s.me.regs.against srcs dst = none) (w : s.pushWaits dst = false) : withDir s srcs dst k = k s := by
  rw [withDir, h]
  exact if_neg (Bool.not_eq_true _ ▸ w)
/-- A head without a vector destination pushes nothing, so that it does not wait for room. -/
@[simp] theorem State.pushWaits_none (s : State) : s.pushWaits none = false := rfl

/-! ## Strong accesses -/

theorem strongly_waits {s : State} {i : Instr} {k n : Nat} {f : State → Result} (h : s.mustWait s.cur k n = true) :
    strongly s i k n f = s.stalled i := if_pos h
theorem strongly_goes {s : State} {i : Instr} {k n : Nat} {f : State → Result} (h : s.mustWait s.cur k n = false) :
    strongly s i k n f = f s := if_neg (Bool.not_eq_true _ ▸ h)

end Sys2Proof.Machine
end

section
open Sys2Proof Sys2Proof.Machine

/-- Settles O15: LD and ST come to the cases of a weak access, at their word or in the unit's data memory. -/
theorem weakAccess : Obligations.WeakAccess := by
  refine ⟨fun r base ty off s core => ?_, fun r base ty off s hob => ?_⟩
  · have ld : exec (.ld r base ty off) s = _ := execLd_eq r base ty off s core
    have st : exec (.st r base ty off) s = _ := execSt_eq r base ty off s core
    refine ⟨fun x e => ?_, fun x e => ?_, fun e h => ?_, fun e h here => ?_, fun e h away => ?_, fun e h => ?_, fun e h => ?_⟩
    · rw [ld, e]
    · rw [st, e]
    · rw [ld, e]; exact weakLoad_held h
    · rw [ld, e]; exact weakLoad_here h here
    · rw [ld, e]; exact weakLoad_away h away
    · rw [st, e]; exact weakStoreTo_held h
    · rw [st, e]; exact weakStoreTo_free h
  · have ld : exec (.ld r base ty off) s = _ := execLd_hob r base ty off s hob
    have st : exec (.st r base ty off) s = _ := execSt_hob r base ty off s hob
    refine ⟨fun past => ⟨?_, ?_⟩, fun fits h here => ?_, fun fits h => ?_⟩
    · rw [ld, hobData_past past]
    · rw [st, hobData_past past]
    · rw [ld, hobData_in fits]; exact weakLoad_here h here
    · rw [st, hobData_in fits]; exact weakStoreTo_free h

/-- Settles O16: the directions of the streams, then the cases of a weak access; the strong ones behind the end of their chunk. -/
theorem vectorAndStrongAccess : Obligations.VectorAndStrongAccess := by
  refine ⟨fun v base off s => ⟨fun n e => ?_, fun n e => ?_, fun e w => ?_, fun e w => ⟨fun x a => ?_, fun a h here => ?_,
    fun a h away => ?_⟩, fun e => ⟨fun x a => ?_, fun a h vals u p => ?_, fun a h => ?_⟩⟩, fun r base ty off scope s =>
    ⟨fun x a => ⟨?_, ?_⟩, fun a e w => ?_, fun a e w => ?_, fun a e w => ?_, fun a e w => ?_⟩⟩
  · simp only [exec, execLdv, withDir_against e]
  · simp only [exec, execStv, withDir_against e]
  · simp only [exec, execLdv, withDir_waits e w]
  · simp only [exec, execLdv, withDir_goes e w, a]
  · simp only [exec, execLdv, withDir_goes e w, a]
    exact weakLoad_here h here
  · simp only [exec, execLdv, withDir_goes e w, a]
    exact weakLoad_away h away
  · simp only [exec, execStv, withDir_goes e s.pushWaits_none, a]
  · simp only [exec, execStv, withDir_goes e s.pushWaits_none, a, h, withPops, p]
    rfl
  · simp only [exec, execStv, withDir_goes e s.pushWaits_none, a]
    rcases h with h | h
    · exact if_pos h
    · simp only [withPops, h]
      exact ite_self _
  · exact (by rw [exec, execLda, a])
  · exact (by rw [exec, execStl, a])
  · rw [exec, execLda, a]
    exact (withChunkEnd_mayEnd _ _ e).trans (strongly_goes (by rwa [State.cur_ended]))
  · rw [exec, execLda, a]
    exact (withChunkEnd_mayEnd _ _ e).trans (strongly_waits (by rwa [State.cur_ended]))
  · rw [exec, execStl, a]
    exact (withRelease_mayRelease _ _ e).trans (strongly_goes w)
  · rw [exec, execStl, a]
    exact (withRelease_mayRelease _ _ e).trans (strongly_waits w)

end

section
/-! SUPPORT. Stack accesses and messages: the walks of their target and what stops them (R57, R215, R217, R303, R305, R310, R315). -/

namespace Sys2Proof.Machine

/-! ## A walk changes the cached translations and the counter of malformed entries (R303, R308) -/

theorem sameButTlb_refl (s : State) : sameButTlb s s := ⟨rfl, fun _ => ⟨rfl, fun _ _ => rfl⟩⟩

theorem sameButTlb_trans {s t u : State} (st : sameButTlb s t) (tu : sameButTlb t u) : sameButTlb s u := by
  refine ⟨by rw [tu.1, st.1], fun k => ⟨?_, fun n h => ?_⟩⟩
  · rw [(tu.2 k).1, (st.2 k).1]
  · rw [(tu.2 k).2 n h, (st.2 k).2 n h]

/-- What does not read stack memory's own state is as it was. -/
theorem sameButTlb.keeps {α : Type} {s t : State} (h : sameButTlb s t) (p : State → α)
    (free : ∀ (s : State) (d : Tab Stack), p { s with dram := d } = p s) : p t = p s := by
  rw [h.1, free]
theorem sameButTlb.cur {s t : State} (h : sameButTlb s t) : t.cur = s.cur := h.keeps State.cur fun _ _ => rfl
theorem sameButTlb.thread {s t : State} (h : sameButTlb s t) (k : Hart) : t.thread k = s.thread k :=
  h.keeps (fun u => u.thread k) fun _ _ => rfl
theorem sameButTlb.me {s t : State} (h : sameButTlb s t) : t.me = s.me := h.keeps State.me fun _ _ => rfl
theorem sameButTlb.mem {s t : State} (h : sameButTlb s t) : t.mem = s.mem := h.keeps State.mem fun _ _ => rfl

theorem sameButTlb_setStack (s : State) (st : Nat) (l : List TlbEntry) (c : Tab Word)
    (h : ∀ n, n ≠ kBadEntry → Tab.get 0 c n = Tab.get 0 (s.stack st).stat n) :
    sameButTlb s (s.setStack st { s.stack st with tlb := l, stat := c }) := by
  refine ⟨rfl, fun k => ?_⟩
  rw [State.stack_setStack]
  split
  next e => exact ⟨by rw [e], e ▸ h⟩
  next => exact ⟨rfl, fun _ _ => rfl⟩

theorem State.lookupPage_sameButTlb (s : State) (st p va : Nat) (w : Bool) : sameButTlb s (s.lookupPage st p va w).2 := by
  unfold State.lookupPage
  split
  · exact sameButTlb_refl s
  · split
    · exact sameButTlb_refl s
    · refine sameButTlb_setStack s st _ _ fun n h => ?_
      rw [bump, Tab.get_set, if_neg h]
    · split
      · exact sameButTlb_setStack s st _ _ fun _ _ => rfl
      · exact sameButTlb_refl s

theorem State.xlateAt_sameButTlb (s : State) (st p acc va : Nat) (w thru : Bool) :
    sameButTlb s (s.xlateAt st p acc va w thru).2 := by
  have looked := s.lookupPage_sameButTlb st p va w
  unfold State.xlateAt
  split
  · exact sameButTlb_refl s
  · split
    · exact sameButTlb_refl s
    · rcases e : s.lookupPage st p va w with ⟨_ | f, u⟩
      · rwa [e] at looked
      · rw [e] at looked
        dsimp only
        split
        · exact looked
        · split <;> exact looked

theorem State.xlateFrom_sameButTlb (s : State) (p acc va : Nat) (w : Bool) (st : Nat) (thru : Bool) (n : Nat) :
    sameButTlb s (s.xlateFrom p acc va w st thru n).2 := by
  induction n generalizing s st with
  | zero => exact State.xlateAt_sameButTlb ..
  | succ n ih =>
    have once := s.xlateAt_sameButTlb st p acc va w thru
    unfold State.xlateFrom
    split
    next e => rw [e] at once; exact sameButTlb_trans once (ih ..)
    next => exact once

theorem State.xlate_sameButTlb (s : State) (p acc va : Nat) (w thru : Bool) : sameButTlb s (s.xlate p acc va w thru).2 :=
  State.xlateFrom_sameButTlb ..

theorem State.xlateRange_sameButTlb (s : State) (p acc va n : Nat) (w thru : Bool) :
    sameButTlb s (s.xlateRange p acc va n w thru).2 := by
  unfold State.xlateRange
  generalize List.map _ _ = pages
  generalize hr : ((Except.ok [], s) : Except Xres (List (Nat × Nat × Nat)) × State) = r
  have hs : sameButTlb s r.2 := hr ▸ sameButTlb_refl s
  clear hr
  induction pages generalizing r with
  | nil => exact hs
  | cons x l ih =>
    refine ih _ ?_
    rcases r with ⟨_ | l, u⟩
    · exact hs
    · have once := sameButTlb_trans hs (u.xlate_sameButTlb p acc x.1 w thru)
      dsimp only
      split
      next e => rwa [e] at once
      next e => rwa [e] at once

theorem targetWalk_sameButTlb (s : State) (p : Nat) (ea : Word) (rd : Bool) : sameButTlb s (targetWalk s p ea rd).2 := by
  have first : sameButTlb s (if rd then s.xlate p s.myAcc (vaOf ea) false else (.ok 0, s)).2 := by
    split
    · exact State.xlate_sameButTlb ..
    · exact sameButTlb_refl s
  unfold targetWalk
  split
  next e => rw [e] at first; exact sameButTlb_trans first (State.xlate_sameButTlb ..)
  next => exact first

/-! ## DLD and DST -/

/-- DLD and DST are one access of their parts, and then the head is past. -/
theorem exec_stackOf (i : Instr) (s : State) (ea : Word) (n : Nat) (w : Bool) (f : State → List (Nat × Nat × Nat) → State)
    (h : stackOf i s = some (ea, n, w, f)) : exec i s = dldAccess s i ea n w fun u l => .next (f u l).past := by
  cases i
  any_goals cases h
  all_goals rfl

theorem addressTrap_oa {s : State} {ea : Word} (h : isOA ea = true) (t : Trap) : addressTrap s t ea = takeTrap s t ea 0 := by
  simp [addressTrap, isAddr, h]
theorem addressTrap_neither {s : State} {ea : Word} (va : isVA ea = false) (oa : isOA ea = false) :
    addressTrap s .window ea = windowTrap s ea := by
  simp [addressTrap, isAddr, va, oa]
theorem windowTrap_other {s : State} (a : Word) (h : kindOf s.cur ≠ .core) : windowTrap s a = takeTrap s .page a 0 := by
  rw [windowTrap, if_neg h]

section
variable {s : State} {i : Instr} {ea : Word} {n : Nat} {w : Bool} {f : State → List (Nat × Nat × Nat) → Result}

theorem dldAccess_not_va (h : isVA ea = false) : dldAccess s i ea n w f = addressTrap s .window ea := by
  simp [dldAccess, stackAccess, h]
/-- Where no redirect leads away, the access translates its pages. -/
theorem dldAccess_home (va : isVA ea = true) (h : s.stays ea n w = true ∨
    (s.redirectOf s.myPart (vaOf ea) n w = some (hartStack s.cur) ∧ s.stackIn s.myPart (hartStack s.cur) = true)) :
    dldAccess s i ea n w f = stackAccess s i ea n w f := by
  rcases h with stays | ⟨home, within⟩
  · simp only [State.stays, Option.isNone_iff_eq_none] at stays
    simp [dldAccess, va, stays]
  · simp [dldAccess, va, home, within]
theorem dldAccess_outside (va : isVA ea = true) {st : Nat} (h : s.redirectOf s.myPart (vaOf ea) n w = some st)
    (out : s.stackIn s.myPart st = false) : dldAccess s i ea n w f = takeTrap s .page ea 0 := by
  simp [dldAccess, va, h, out, pageTrap]
theorem dldAccess_moves (va : isVA ea = true) {st : Nat} (h : s.redirectOf s.myPart (vaOf ea) n w = some st)
    (within : s.stackIn s.myPart st = true) (away : st ≠ hartStack s.cur) :
    dldAccess s i ea n w f = .next (s.setMe { s.me with wait := .redirect st }) := by
  simp [dldAccess, va, h, within, away]

end

/-! ## The target of a message -/

section
variable {s : State} {i : Instr} {ea : Word} {p n : Nat} {rd : Bool} {k : State → Nat → Result}

/-- The walk of a target page, and what it comes to. -/
theorem stackTarget_here (h : ∀ st, (if kindOf s.cur = .stoker then s.redirectOf p (vaOf ea) n true else none) = some st →
      st = hartStack s.cur ∧ s.stackIn p st = true) :
    stackTarget s i p ea n rd true k = match targetWalk s p ea rd with
      | (.ok key, u) => k u key
      | (.held, u) => u.stalled i
      | (_, u) => windowTrap u ea := by
  have here : stackTarget s i p ea n rd true k = match (if rd then s.xlate p s.myAcc (vaOf ea) false else (.ok 0, s)) with
      | (.ok _, s) =>
        (match s.xlate p s.myAcc (vaOf ea) true with
         | (.ok key, s) => k s key
         | (.held, s) => s.stalled i
         | (_, s) => windowTrap s ea)
      | (.held, s) => s.stalled i
      | (_, s) => windowTrap s ea := by
    unfold stackTarget
    dsimp only
    generalize (if kindOf s.cur = .stoker then s.redirectOf p (vaOf ea) n true else none) = moved at h ⊢
    cases moved with
    | none => rfl
    | some st =>
      obtain ⟨home, within⟩ := h st rfl
      simp only [within, ← home, Bool.not_true, Bool.false_eq_true, if_false, if_true] <;> rfl
  rw [here, targetWalk]
  rcases (if rd then s.xlate p s.myAcc (vaOf ea) false else (.ok 0, s)) with ⟨r, u⟩
  cases r with
  | ok x =>
    cases e : u.xlate p u.myAcc (vaOf ea) true with
    | mk r v => cases r <;> rfl
  | _ => rfl

theorem stackTarget_stops : stopsAtTarget (stackTarget s i p ea n rd true k) i s p ea n rd := by
  refine ⟨fun st e => ⟨fun out => ?_, fun within away => ?_⟩, fun h e u walk => ⟨fun held => ?_, fun free bad => ?_⟩⟩
  · simp [stackTarget, e, out, pageTrap]
  · simp [stackTarget, e, within, away]
  · rw [stackTarget_here h, walk, held]
    rfl
  · rw [stackTarget_here h, walk]
    have trap : windowTrap u ea = takeTrap u (if kindOf s.cur = .core then .window else .page) ea 0 := by
      rw [windowTrap, ← (targetWalk_sameButTlb s p ea rd).cur, walk]
    cases e with
    | ok x => exact absurd rfl (bad x)
    | held => exact absurd rfl free
    | _ => exact trap

/-- A message's target: misaligned, refused, or accepted at the word or at the key that its walk gives. -/
theorem msgTarget_misaligned {a : Acc} (va : isVA ea = true) (h : ea.toNat % n ≠ 0) :
    msgTarget s i a ea n rd true k = takeTrap s .misalign ea 0 := by
  rw [msgTarget, if_pos va, if_pos h, misalign]
theorem msgTarget_stops {a : Acc} (va : isVA ea = true) (h : ea.toNat % n = 0) :
    stopsAtTarget (msgTarget s i a ea n rd true k) i s s.myPart ea n rd := by
  rw [msgTarget, if_pos va, if_neg (not_not.2 h)]
  exact stackTarget_stops
theorem msgTarget_refused {a : Acc} {t : Trap} (va : isVA ea = false) (h : s.accessTrap a ea n = some t) :
    msgTarget s i a ea n rd true k = addressTrap s t ea := by
  simp [msgTarget, va, h]
theorem msgTarget_accepted {a : Acc} {key : Nat} {v : State} (h : targetOf s a ea n rd = some (key, v)) :
    msgTarget s i a ea n rd true k = k v key := by
  unfold targetOf at h
  split at h
  next va =>
    split at h
    · cases h
    next ok =>
      simp only [Bool.or_eq_true, decide_eq_true_eq, not_or, not_not, Bool.and_eq_true, not_and] at ok
      obtain ⟨aligned, home⟩ := ok
      rw [msgTarget, if_pos va, if_neg (not_not.2 aligned), stackTarget_here, targetWalk]
      · split at h
        · split at h
          next walk => cases h; simp only [walk]
          next => cases h
        next => cases h
      · intro st moved
        split at moved
        next stoker => simpa [stoker, moved] using home
        next => cases moved
  next va =>
    split at h
    next ok =>
      cases h
      simp only [Option.isNone_iff_eq_none] at ok
      simp [msgTarget, va, ok]
    next => cases h

end

theorem exec_amoOf (i : Instr) (op : Nat) (rd sa sv sc : Reg) (ty : Ty) (s : State) (h : amoOf i = some (op, rd, sa, sv, sc, ty)) :
    exec i s = amo s i op rd sa sv sc ty := by
  cases i
  any_goals cases h
  all_goals rfl
theorem exec_redOf (i : Instr) (op : Nat) (sa sv : Reg) (ty : Ty) (s : State) (h : redOf i = some (op, sa, sv, ty)) :
    exec i s = red s i op sa sv ty := by
  cases i
  any_goals cases h
  all_goals rfl

end Sys2Proof.Machine
end

section
open Sys2Proof Sys2Proof.Machine

/-- Settles O17: the word, the redirect and then the walk of the pages decide, in this order. -/
theorem stackAccess : Obligations.StackAccess := by
  intro i s ea n w f access
  rw [exec_stackOf i s ea n w f access]
  refine ⟨fun va => ⟨dldAccess_not_va va, fun oa => ?_, fun oa other => ?_⟩, fun va home => ?_, fun st va moved =>
    ⟨dldAccess_outside va moved, dldAccess_moves va moved⟩⟩
  · rw [dldAccess_not_va va, addressTrap_oa oa]
  · rw [dldAccess_not_va va, addressTrap_neither va oa, windowTrap_other _ other]
  · rw [dldAccess_home va home]
    refine ⟨fun l u e => ⟨fun waits => ?_, fun free => ?_⟩, fun u e => ?_, fun st u e => ?_, fun x u hx e => ?_⟩
    · simp only [Machine.stackAccess, va, e, waits]; rfl
    · simp only [Machine.stackAccess, va, e, free]; rfl
    · simp only [Machine.stackAccess, va, e]; rfl
    · simp only [Machine.stackAccess, va, e]; rfl
    · rcases hx with rfl | rfl | rfl <;> · simp only [Machine.stackAccess, va, e]; rfl

/-- Settles O18: an AMO and a RED are messages to one target, and their scope is read nowhere. -/
theorem messagesAccepted : Obligations.MessagesAccepted := by
  refine ⟨fun i op rd sa sv sc ty s h => ?_, fun i op sa sv ty s h => ?_⟩
  · rw [exec_amoOf i op rd sa sv sc ty s h]
    refine ⟨msgTarget_misaligned, msgTarget_stops, fun va x => msgTarget_refused va, fun k v target release => ?_⟩
    exact (msgTarget_accepted target).trans (withRelease_mayRelease _ _ release)
  · rw [exec_redOf i op sa sv ty s h]
    refine ⟨msgTarget_misaligned, msgTarget_stops, fun va x => msgTarget_refused va, fun k v target release => ?_⟩
    exact (msgTarget_accepted target).trans (withRelease_mayRelease _ _ release)

end

section
/-! SUPPORT. The frame of a head that is done, weak or strong: what control, the chunk's boundary and the lines of others
    change (R61, R69,
R72, R211 to R213), and what an AMO or RED leaves at its target (R215 to R218). -/

namespace Sys2Proof.Machine

/-! ## A weak head of a hart that stands alone -/

/-- A head that has made its hart's own changes, and no other, leaves these and a PC once it is past. A running hart shows in its
window what it held at the start of its chunk, so that no byte has changed. -/
theorem past_frame {s u : State} (same : sameButHart s u) (alone : u.alone = true) (running : s.me.run = .running)
    (run : u.me.run = s.me.run) (begun : u.me.chunk.begun = s.me.chunk.begun) :
    u.past.me.regs = { u.me.regs with pc := u.past.me.regs.pc } ∧ u.past.me.chunk.stores = u.me.chunk.stores ∧
      sameButHart s u.past ∧ ∀ a, u.past.byteAt a = s.byteAt a := by
  rw [State.past_alone alone]
  have me := State.me_goto_alone alone (u.fall u.cur)
  have frame := sameButHart_trans same (sameButHart_goto_alone alone (u.fall u.cur))
  refine ⟨by rw [me]; rfl, by rw [me]; rfl, frame, byteAt_of_sameButHart frame (by rw [me]; exact run) ?_⟩
  exact windowRegs_congr (by rw [me]; exact run) (by rw [me]; exact begun) running

/-! ## Lines that others write -/

theorem Tab.get_mapValues {α : Type} (d : α) (t : Tab α) (f : Nat → α → α) (k : Nat) (h : f k d = d) :
    Tab.get d (t.map fun e => (e.1, f e.1 e.2)) k = f k (Tab.get d t k) := by
  induction t with
  | nil => exact h.symm
  | cons e r ih =>
    rw [List.map_cons, Tab.get, Tab.get, ih]
    split
    next eq => rw [eq]
    next => rfl

/-- Thread set `k` is as it was, but for the lines that its open chunk may meet. -/
def onlySeen (s t : State) (k : Hart) : Prop :=
  ∃ l, t.thread k = { s.thread k with chunk := { (s.thread k).chunk with seen := l } }

theorem onlySeen_refl (s : State) (k : Hart) : onlySeen s s k := ⟨_, rfl⟩
theorem onlySeen_of_eq {s t : State} {k : Hart} (h : t.thread k = s.thread k) : onlySeen s t k := ⟨_, h⟩
theorem onlySeen_trans {s t u : State} {k : Hart} (st : onlySeen s t k) (tu : onlySeen t u k) : onlySeen s u k := by
  obtain ⟨l, e⟩ := st
  obtain ⟨m, f⟩ := tu
  exact ⟨m, by rw [f, e]⟩

/-- The thread set that remembers lines written by others, where `meets` says that it runs and they may concern it. -/
def Thread.saw (t : Thread) (meets : Bool) (l : List Nat) : Thread :=
  if meets && t.run == .running && t.chunk.executed != 0 then { t with chunk := { t.chunk with seen := l ++ t.chunk.seen } }
      else t

theorem Tab.get_saw (t : Tab Thread) (meets : Hart → Bool) (lines : Thread → List Nat) (k : Hart) :
    Tab.get {} (t.map fun e => if meets e.1 && e.2.run == .running && e.2.chunk.executed != 0 then
      (e.1, { e.2 with chunk := { e.2.chunk with seen := lines e.2 ++ e.2.chunk.seen } }) else e) k =
      (Tab.get {} t k).saw (meets k) (lines (Tab.get {} t k)) := by
  have idle : Thread.saw {} (meets k) (lines {}) = ({} : Thread) := by
    rw [Thread.saw, Bool.and_assoc, Bool.and_comm]
    rfl
  rw [← Tab.get_mapValues ({} : Thread) t (fun h x => x.saw (meets h) (lines x)) k idle]
  refine congrArg (fun l => Tab.get ({} : Thread) l k) (List.map_congr_left fun e _ => ?_)
  rw [Thread.saw]
  split <;> rfl

theorem State.thread_noteLines (s : State) (a : Nat) (lines : List Nat) (writer k : Hart) :
    (s.noteLines a lines writer).thread k = (s.thread k).saw (k != writer && arbOf k == a) lines :=
  Tab.get_saw s.threads (fun h => h != writer && arbOf h == a) (fun _ => lines) k

theorem State.thread_noteLines_self (s : State) (a : Nat) (lines : List Nat) (k : Hart) :
    (s.noteLines a lines k).thread k = s.thread k := by
  simp [State.thread_noteLines, Thread.saw]

theorem onlySeen_noteLines (s : State) (a : Nat) (lines : List Nat) (writer k : Hart) :
    onlySeen s (s.noteLines a lines writer) k := by
  rw [onlySeen, State.thread_noteLines, Thread.saw]
  split
  · exact ⟨_, rfl⟩
  · exact ⟨_, rfl⟩

theorem State.thread_noteWindow (s : State) (h : Hart) (moved : Nat → Bool) (k : Hart) :
    ∃ l, (s.noteWindow h moved).thread k = (s.thread k).saw (k != h && arbOf k == arbOf h) l := by
  unfold State.noteWindow
  split
  · exact ⟨[], by simp [Thread.saw]⟩
  · exact ⟨_, Tab.get_saw s.threads (fun j => j != h && arbOf j == arbOf h)
      (fun t => t.chunk.rlines.filter fun l => (winOff h l).any moved) k⟩

theorem State.thread_noteWindow_self (s : State) (h : Hart) (moved : Nat → Bool) : (s.noteWindow h moved).thread h = s.thread h := by
  obtain ⟨l, e⟩ := s.thread_noteWindow h moved h
  simpa [Thread.saw] using e

theorem onlySeen_noteWindow (s : State) (h : Hart) (moved : Nat → Bool) (k : Hart) : onlySeen s (s.noteWindow h moved) k := by
  obtain ⟨l, e⟩ := s.thread_noteWindow h moved k
  rw [onlySeen, e, Thread.saw]
  split
  · exact ⟨_, rfl⟩
  · exact ⟨_, rfl⟩

theorem State.noteWindow_threads (s : State) (h : Hart) (moved : Nat → Bool) :
    s.noteWindow h moved = { s with threads := (s.noteWindow h moved).threads } := by
  unfold State.noteWindow
  split <;> rfl

/-! ## A strong head of a hart that stands alone -/

theorem State.endRedo_of_no_gang (s : State) (h : Hart) (hg : (s.thread h).gang = none) : s.endRedo h = s := by
  simp [State.endRedo, State.leads, hg]

/-- A strong head that is done: control has gone on, a new chunk has begun, and of the other thread sets and of the rest nothing has
changed but the lines that open chunks may meet. -/
theorem pastStrong_alone {u : State} (alone : u.alone = true) (core : kindOf u.cur ≠ .hob) :
    u.pastStrong.me.regs = { u.me.regs with pc := u.pastStrong.me.regs.pc } ∧
      u.pastStrong = { u with threads := u.pastStrong.threads } ∧ ∀ h, h ≠ u.cur → onlySeen u u.pastStrong h := by
  have went : u.advance u.cur = u.setMe (u.me.wentTo (u.fall u.cur)) := by
    rw [← State.past, State.past_alone alone, State.goto_alone alone, State.ticked_of_not_hob core]
  have thread : (u.setMe (u.me.wentTo (u.fall u.cur))).thread u.cur = u.me.wentTo (u.fall u.cur) := State.me_setMe ..
  have done : u.pastStrong = ((u.setMe (u.me.wentTo (u.fall u.cur))).setMe { u.me.wentTo (u.fall u.cur) with
      chunk := { begun := (u.me.wentTo (u.fall u.cur)).regs } }).noteWindow u.cur
      (windowDiffers u.me.chunk.begun (u.me.wentTo (u.fall u.cur)).regs) := by
    rw [State.pastStrong, went, State.boundary, State.endRedo_of_no_gang, thread]
    · rfl
    · rw [thread]; exact (State.alone_iff u).1 alone |>.1
  refine ⟨?_, ?_, fun h hne => ?_⟩
  · have me : u.pastStrong.me = { u.me.wentTo (u.fall u.cur) with chunk := { begun := (u.me.wentTo (u.fall u.cur)).regs } } := by
      rw [done, State.me, State.cur_noteWindow]
      exact (State.thread_noteWindow_self ..).trans (State.me_setMe ..)
    rw [me]
    rfl
  · rw [done]
    exact State.noteWindow_threads ..
  · rw [done]
    refine onlySeen_trans (onlySeen_of_eq ?_) (onlySeen_noteWindow ..)
    exact ((State.thread_setThread ..).trans (if_neg hne)).trans ((State.thread_setThread ..).trans (if_neg hne))

/-! ## Plain memory -/

theorem State.byteAt_congr_plain {s t : State} (h : t.mem = s.mem) {k : Nat} (hk : plainKey k = true) : t.byteAt k = s.byteAt k := by
  rw [State.byteAt_plain _ hk, State.byteAt_plain _ hk, h]
theorem State.readAt_congr_plain {s t : State} (h : t.mem = s.mem) {k n : Nat} (hk : ∀ i, i < n → plainKey (k + i) = true) :
    t.readAt k n = s.readAt k n := by
  refine congrArg leNat (List.map_congr_left fun i hi => State.byteAt_congr_plain h (hk i (List.mem_range.1 hi)))

theorem State.writeAt_plain_rest (s : State) (writer : Hart) {k : Nat} (h : plainKey k = true) (b : List Byte) :
    s.writeAt writer k b = { s with threads := (s.writeAt writer k b).threads, mem := Memory.write s.mem k b } := by
  rw [State.writeAt_plain s writer h]
  rfl

/-- A write to plain memory leaves thread sets as they are, but for the lines that open chunks of others may meet. -/
theorem onlySeen_writeAt (s : State) (writer : Hart) {k : Nat} (h : plainKey k = true) (b : List Byte) (j : Hart) :
    onlySeen s (s.writeAt writer k b) j := by
  rw [State.writeAt_plain s writer h]
  exact onlySeen_noteLines ..
theorem State.thread_writeAt_self (s : State) (writer : Hart) {k : Nat} (h : plainKey k = true) (b : List Byte) :
    (s.writeAt writer k b).thread writer = s.thread writer := by
  rw [State.writeAt_plain s writer h]
  exact State.thread_noteLines_self ..

/-- A strong store of a hart that stands alone, once it is done (R213). -/
theorem strongStore_frame {u t : State} (alone : u.alone = true) (core : kindOf u.cur ≠ .hob) {k n v : Nat}
    (plain : ∀ i, i < n → plainKey (k + i) = true) (pos : 0 < n) (e : t = (u.writeAt u.cur k (leBytes n v)).pastStrong) :
    t.me.regs = { u.me.regs with pc := t.me.regs.pc } ∧ t.readAt k n = v % 2 ^ (8 * n) ∧
      (∀ a, plainKey a = true → a < k ∨ k + n ≤ a → t.byteAt a = u.byteAt a) ∧
      t.net = u.net ∧ t.clusters = u.clusters ∧ t.cores = u.cores ∧ ∀ h, h ≠ u.cur → onlySeen u t h := by
  have key : plainKey k = true := plain 0 pos
  have read := u.readAt_writeAt_plain u.cur (v := v) plain pos
  have bytes (a : Nat) (ha : plainKey a = true) (out : a < k ∨ k + n ≤ a) :=
    u.byteAt_writeAt_outside u.cur (b := leBytes n v) key ha (by rwa [length_leBytes])
  have wrote := u.writeAt_plain_rest u.cur key (leBytes n v)
  have cur := u.cur_writeAt u.cur k (leBytes n v)
  have self := u.thread_writeAt_self u.cur key (leBytes n v)
  have others := onlySeen_writeAt u u.cur key (leBytes n v)
  generalize u.writeAt u.cur k (leBytes n v) = w at *
  have me : w.me = u.me := by rw [State.me, cur, self]; rfl
  obtain ⟨regs, rest, seen⟩ := pastStrong_alone (u := w) (by rw [State.alone, me]; exact alone) (by rwa [cur])
  rw [← e] at regs rest seen
  have mem : t.mem = w.mem := by rw [rest]
  refine ⟨by rw [regs, me], by rw [State.readAt_congr_plain mem plain, read], fun a ha out => ?_, ?_, ?_, ?_, fun h hne => ?_⟩
  · rw [State.byteAt_congr_plain mem ha, bytes a ha out]
  · rw [rest, wrote]
  · rw [rest, wrote]
  · rw [rest, wrote]
  · exact onlySeen_trans (others h) (seen h (by rwa [cur]))

/-! ## What a weak access leaves -/

theorem isOA_of_accessTrap {s : State} {a : Acc} {ea : Word} {n : Nat} (h : s.accessTrap a ea n = none) : isOA ea = true := by
  by_contra other
  unfold State.accessTrap at h
  split at h
  · cases h
  · rw [if_pos (by simpa using other)] at h
    cases h

/-- The thread set that has read, and the one that has stored. -/
def Thread.noted (t : Thread) (k n : Nat) : Thread :=
  { t with chunk := { t.chunk with rlines := addLines t.chunk.rlines (linesOf k n) } }
def Thread.stored (t : Thread) (k : Nat) (b : List Byte) : Thread :=
  { t with chunk := { t.chunk with
      stores := t.chunk.stores ++ [{ key := k, data := b }], wlines := addLines t.chunk.wlines (linesOf k b.length) } }
/-- A store that names s0 or m0 in a register window is void (R61). -/
def voidStore (k : Nat) : Bool :=
  k < 2 ^ 40 && oaSpace k == some .window && (oaOff k % 0x10000 < 8 || (0x2000 ≤ oaOff k % 0x10000 && oaOff k % 0x10000 < 0x2008))

theorem State.noteRead_eq (s : State) (k n : Nat) : s.noteRead s.cur k n = s.setMe (s.me.noted k n) := rfl
theorem State.weakStore_eq (s : State) (k : Nat) (b : List Byte) :
    s.weakStore s.cur k b = if voidStore k then s else s.setMe (s.me.stored k b) := rfl

/-- A load writes its register and notes what its chunk has read. -/
theorem weakLoad_frame {s : State} (alone : s.alone = true) (running : s.me.run = .running) (k n : Nat) (r : Reg) (v : Word) :
    ((s.noteRead s.cur k n).ws r v).past.me.regs =
        { s.me.regs.setS r v with pc := ((s.noteRead s.cur k n).ws r v).past.me.regs.pc } ∧
      ((s.noteRead s.cur k n).ws r v).past.me.chunk.stores = s.me.chunk.stores ∧
      sameButHart s ((s.noteRead s.cur k n).ws r v).past ∧ ∀ a, ((s.noteRead s.cur k n).ws r v).past.byteAt a = s.byteAt a := by
  rw [State.noteRead_eq]
  have me : ((s.setMe (s.me.noted k n)).ws r v).me = { s.me.noted k n with regs := s.me.regs.setS r v } := by
    rw [State.me_ws, State.me_setMe]
    rfl
  have same : sameButHart s ((s.setMe (s.me.noted k n)).ws r v) := sameButHart_trans (sameButHart_setMe ..) (sameButHart_setMe ..)
  have alone' : ((s.setMe (s.me.noted k n)).ws r v).alone = true := by
    rw [State.alone_iff] at alone ⊢
    rw [me]
    exact ⟨alone.1, alone.2.1, (Regs.setS_rep ..).trans alone.2.2⟩
  have frame := past_frame same alone' running (by rw [me]; rfl) (by rw [me]; rfl)
  rwa [me] at frame

/-- A store joins its chunk, or is void. -/
theorem weakStore_frame {s : State} (alone : s.alone = true) (running : s.me.run = .running) (k : Nat) (b : List Byte) :
    (s.weakStore s.cur k b).past.me.regs = { s.me.regs with pc := (s.weakStore s.cur k b).past.me.regs.pc } ∧
      (s.weakStore s.cur k b).past.me.chunk.stores =
        (if voidStore k then s.me.chunk.stores else s.me.chunk.stores ++ [{ key := k, data := b }]) ∧
      sameButHart s (s.weakStore s.cur k b).past ∧ ∀ a, (s.weakStore s.cur k b).past.byteAt a = s.byteAt a := by
  rw [State.weakStore_eq]
  cases voidStore k with
  | true => exact past_frame (sameButHart_refl s) alone running rfl rfl
  | false =>
    have me : (s.setMe (s.me.stored k b)).me = s.me.stored k b := State.me_setMe ..
    have frame := past_frame (sameButHart_setMe s (s.me.stored k b)) (State.alone_setMe alone rfl rfl rfl) running
      (by rw [me]; rfl) (by rw [me]; rfl)
    rwa [me] at frame

/-! ## What an AMO or RED leaves -/

/-- The target word of an AMO or RED once it has been performed: its bytes are replaced, or nothing is written. -/
def rmwDone (s : State) (h : Hart) (k n : Nat) : Option Nat → State
  | some x => s.writeAt h k (leBytes n x)
  | none => s

/-- The old value returns to the hart of an AMO. -/
def rmwReturned (u : State) (h : Hart) (id : Nat) (old : Word) : Option Reg → State
  | some rd => returnValue u h id rd old
  | none => u

theorem mem_rmwReturned (u : State) (h : Hart) (id : Nat) (old : Word) (ret : Option Reg) :
    (rmwReturned u h id old ret).mem = u.mem := by
  cases ret with
  | some rd => exact mem_returnValue ..
  | none => rfl

theorem performItem_rmw (s : State) (m : Msg) {k op n : Nat} {v c : Word} {ret : Option Reg} {sx : Bool}
    (h : m.item = .rmw k op n v c ret sx) :
    performItem s m = rmwReturned (rmwDone (s.dropMsg m.id) m.hart k n
      (rmwNew op n (s.readAt k n) (v.toNat % 2 ^ (8 * n)) (c.toNat % 2 ^ (8 * n)))) m.hart m.id (rmwOld n sx (s.readAt k n))
          ret := by
  simp only [performItem, h]
  generalize rmwNew op n (s.readAt k n) (v.toNat % 2 ^ (8 * n)) (c.toNat % 2 ^ (8 * n)) = new
  cases new <;> cases ret <;> rfl

theorem toEntry_of_plain {k : Nat} (h : plainKey k = true) : toEntry k = false := by
  rcases plainKey_cases h with stack | ⟨-, space | space⟩
  · have offChip : ¬ k < 2 ^ 40 := by
      simp only [isStackKey, Bool.and_eq_true, decide_eq_true_eq] at stack
      omega
    simp only [toEntry, offChip, decide_false, Bool.false_and]
  · simp [toEntry, space]
  · simp [toEntry, space]

section
variable (s : State) (h : Hart) {k n : Nat} (plain : ∀ i, i < n → plainKey (k + i) = true) (pos : 0 < n)
include plain pos

theorem readAt_rmwDone_some (x : Nat) : (rmwDone s h k n (some x)).readAt k n = x % 2 ^ (8 * n) := s.readAt_writeAt_plain h
    plain pos
theorem byteAt_rmwDone (new : Option Nat) {a : Nat} (ha : plainKey a = true) (out : a < k ∨ k + n ≤ a) :
    (rmwDone s h k n new).byteAt a = s.byteAt a := by
  cases new with
  | some x => exact State.byteAt_writeAt_outside _ _ (plain 0 pos) ha (by rwa [length_leBytes])
  | none => rfl
theorem thread_rmwDone (new : Option Nat) : (rmwDone s h k n new).thread h = s.thread h := by
  cases new with
  | some x => exact State.thread_writeAt_self _ _ (plain 0 pos) _
  | none => rfl

end

end Sys2Proof.Machine
end

section
open Sys2Proof Sys2Proof.Machine

/-- Settles O26: both change the issuing thread set alone, a load its register and what its chunk has read, a store its chunk. -/
theorem weakFrame : Obligations.WeakFrame := by
  intro r base ty off s t alone running core ea n w
  refine ⟨fun ok free here e => ?_, fun ok free e => ?_⟩
  · have ld : exec (.ld r base ty off) s = _ := execLd_eq r base ty off s core
    rw [ld, ok] at e
    obtain rfl := Host.Outcome.next.inj ((weakLoad_here free here).symm.trans e)
    have ⟨regs, rest⟩ := weakLoad_frame alone running ea.toNat n r (extendTy ty (s.loadNat s.cur ea.toNat n))
    exact ⟨⟨_, regs⟩, rest⟩
  · have st : exec (.st r base ty off) s = _ := execSt_eq r base ty off s core
    rw [st, ok] at e
    obtain rfl := Host.Outcome.next.inj ((weakStoreTo_free free).symm.trans e)
    obtain ⟨regs, stores, rest⟩ := weakStore_frame alone running ea.toNat w.data
    refine ⟨regs, stores.trans (if_congr ?_ rfl rfl), rest⟩
    have onChip : ea.toNat < 2 ^ 40 := by simpa [isOA] using isOA_of_accessTrap ok
    simp only [voidStore, onChip, decide_true, Bool.true_and, Bool.and_eq_true, beq_iff_eq, Bool.or_eq_true, decide_eq_true_eq]

/-- Settles O27: the access itself, then the frame of a strong head that is done. -/
theorem strongFrame : Obligations.StrongFrame := by
  intro r base ty off scope s alone alone' core ends ea n others ok plain pos
  have hob {u : State} (e : u.cur = s.cur) : kindOf u.cur ≠ .hob := by rw [e, core]; nofun
  refine ⟨fun free => ?_, fun release free => ?_⟩
  · let v := extendTy ty (s.ended.readAt ea.toNat n)
    have me : (s.ended.ws r v).me = { s.ended.me with regs := s.ended.me.regs.setS r v } := State.me_setMe ..
    have done := pastStrong_alone (u := s.ended.ws r v) (State.alone_setMe alone rfl rfl (Regs.setS_rep ..)) (hob
        (State.cur_ended s))
    obtain ⟨regs, rest, seen⟩ := done
    refine ⟨_, v, ((vectorAndStrongAccess.2 r base ty off scope s).2.1 ok ends free), ?_, ?_⟩
    · rw [regs, me]
    · rw [rest]
      refine ⟨rfl, rfl, rfl, rfl, fun h hne => ?_⟩
      have hne' : h ≠ (s.ended.ws r v).cur := by rwa [State.ws_cur, State.cur_ended]
      exact onlySeen_trans (onlySeen_of_eq ((State.thread_setThread ..).trans (if_neg hne'))) (rest ▸ seen h hne')
  · obtain ⟨regs, read, bytes, net, clusters, cores, seen⟩ := strongStore_frame alone' (hob (State.cur_released s)) plain pos
      rfl
    refine ⟨_, (vectorAndStrongAccess.2 r base ty off scope s).2.2.2.1 ok release free, regs, read, bytes, net, clusters, cores, ?_⟩
    exact fun h hne => seen h (by rwa [State.cur_released])

/-- Settles O19: the word is written (`rmwDone`), and the old value returns to the hart that waits for it. -/
theorem rmwPerformed : Obligations.RmwPerformed := by
  intro s m k op n v c ret sx hm item first plain size
  have pos : 0 < n := by omega
  have arrives : exec .messageArrival s = .next (performItem s m) := by
    simp [exec, execMessageArrival, hm, item, first, toEntry_of_plain (show plainKey k = true from plain 0 pos)]
  have done := performItem_rmw s m item
  have silent := performItem_rmw s { m with item := .rmw k op n v c none sx } rfl
  generalize rmwNew op n (s.readAt k n) (v.toNat % 2 ^ (8 * n)) (c.toNat % 2 ^ (8 * n)) = new at *
  have mem : (performItem s m).mem = (rmwDone (s.dropMsg m.id) m.hart k n new).mem := by
    rw [done, mem_rmwReturned]
  refine ⟨_, arrives, fun x e => ?_, fun e => ?_, fun a ha out => ?_, fun rd e waits => ?_⟩
  · rw [State.readAt_congr_plain mem plain, e]
    exact readAt_rmwDone_some _ _ plain pos x
  · rw [State.readAt_congr_plain mem plain, e]
    rfl
  · rw [State.byteAt_congr_plain mem ha]
    exact byteAt_rmwDone _ _ plain pos new ha out
  · have thread := thread_rmwDone (s.dropMsg m.id) m.hart plain pos new
    rw [done, silent, e]
    exact if_pos ((congrArg Thread.wait thread).trans waits)

end

section
/-! SUPPORT. Writes in general, and what items on their way leave at their targets (R61, R73, R217, R222, R225, R375). -/

namespace Sys2Proof.Machine

/-! ## What no write of bytes touches -/

/-- What a write of bytes leaves: all but thread sets, memory, clusters, stacks, dies and partitions. -/
def State.beyond (s : State) : State := { s with threads := [], mem := [], clusters := [], dram := [], dies := [], parts := [] }

@[simp] theorem State.beyond_noteLines (s : State) (a : Nat) (l : List Nat) (h : Hart) : (s.noteLines a l h).beyond = s.beyond := rfl
@[simp] theorem State.beyond_setThread (s : State) (h : Hart) (t : Thread) : (s.setThread h t).beyond = s.beyond := rfl
@[simp] theorem State.beyond_setCluster (s : State) (c : Nat) (x : Cluster) : (s.setCluster c x).beyond = s.beyond := rfl
@[simp] theorem State.beyond_setPart (s : State) (p : Nat) (x : Part) : (s.setPart p x).beyond = s.beyond := rfl
@[simp] theorem State.beyond_countCl (s : State) (c n k : Nat) : (s.countCl c n k).beyond = s.beyond := rfl
@[simp] theorem State.beyond_putCounter (s : State) (c i : Nat) (w : Word) : (s.putCounter c i w).beyond = s.beyond := rfl
@[simp] theorem beyond_storeHob (s : State) (k : Nat) (b : List Byte) : (storeHob s k b).beyond = s.beyond := rfl
@[simp] theorem beyond_fireEntry (s : State) (c e : Nat) : (fireEntry s c e).beyond = s.beyond := rfl
@[simp] theorem beyond_evalEntry (s : State) (c e : Nat) : (evalEntry s c e).beyond = s.beyond := by
  unfold evalEntry
  dsimp only
  split <;> rfl
@[simp] theorem beyond_evalEntries (s : State) (c i : Nat) : (evalEntries s c i).beyond = s.beyond :=
  foldl_keeps _ State.beyond _ _ fun _ _ => beyond_evalEntry ..
@[simp] theorem beyond_countUp (s : State) (c i : Nat) : (countUp s c i).beyond = s.beyond := by simp [countUp]
@[simp] theorem beyond_wtStore (s : State) (c e j : Nat) (w : Word) : (wtStore s c e j w).beyond = s.beyond := by
  unfold wtStore
  split <;> simp only [apply_ite State.beyond, State.beyond_countCl, State.beyond_setCluster, beyond_evalEntry, ite_self]
@[simp] theorem beyond_storeCtl (s : State) (c o : Nat) (b : List Byte) : (storeCtl s c o b).beyond = s.beyond := by
  unfold storeCtl
  dsimp only
  split <;> rfl
@[simp] theorem State.beyond_storeWindow (s : State) (h : Hart) (o : Nat) (b : List Byte) :
    (s.storeWindow h o b).beyond = s.beyond := by
  unfold State.storeWindow
  dsimp only
  split <;> simp [apply_ite State.beyond]
@[simp] theorem State.beyond_writeAt (s : State) (h : Hart) (k : Nat) (b : List Byte) : (s.writeAt h k b).beyond = s.beyond := by
  unfold State.writeAt
  extract_lets u plain
  have noted : u.beyond = s.beyond := rfl
  split
  · exact noted
  · split
    · exact noted
    · split
      case h_1 | h_2 | h_7 => exact noted
      all_goals simp [noted]

/-- A write changes memory at its own bytes only. -/
theorem State.get_mem_writeAt (s : State) (h : Hart) {k j : Nat} {b : List Byte} (out : j < k ∨ k + b.length ≤ j) :
    Memory.get (s.writeAt h k b).mem j = Memory.get s.mem j := by
  have wrote : Memory.get (Memory.write s.mem k b) j = Memory.get s.mem j := Memory.get_write_outside _ out
  unfold State.writeAt
  extract_lets u plain
  split
  · rfl
  · split
    · exact wrote
    · split
      case h_1 => exact wrote
      case h_2 => exact wrote
      all_goals simp [u]

/-! ## Bytes that are written -/

theorem State.bytesAt_writeAt_plain (s : State) (h : Hart) {k : Nat} {b : List Byte}
    (plain : ∀ i, i < b.length → plainKey (k + i) = true) : (s.writeAt h k b).bytesAt k b.length = b := by
  refine Eq.trans (List.map_congr_left fun i hi => ?_) (Memory.read_write_self s.mem k b)
  have inside := List.mem_range.1 hi
  have key : plainKey k = true := plain 0 (by omega)
  rw [State.byteAt_plain _ (plain i inside), State.writeAt_plain _ _ key]

end Sys2Proof.Machine
end

section
open Sys2Proof Sys2Proof.Machine

/-- Refutes O20: the clause of a remote store to plain memory asks plain keys of its bytes only, so that it also speaks of a store of
no byte at a control register. That one is no REMOTE_STORE_COMMIT (it is a REGISTER_WRITE, R91): the event leaves it on its way, where
the clause has it gone. -/
theorem not_itemsPerformed : ¬ Obligations.ItemsPerformed := by
  intro h
  let k := mkOA 0 11 0
  let m : Msg := { id := 0, hart := 0, part := 0, item := .rstore k [] }
  let s : State := { net := [m] }
  obtain ⟨-, -, -, -, -, plainStore, -⟩ := (h.1 s m).1 rfl rfl
  obtain ⟨t, e, -, net, -⟩ := plainStore k [] rfl rfl nofun
  have hm : s.msg s.cur = some m := rfl
  have register : (isHobKey k || isStackKey k || oaSpace k != some .ctl) = false := by decide
  have stays : exec .remoteStoreCommit s = .next s := by
    simp only [exec, execRemoteStoreCommit, hm, m, register]
    rfl
  cases stays.symm.trans e
  exact absurd net (by decide)

end

section
/-! SUPPORT. PUTC: what a write leaves of counters, and the count at the target (R45, R221 to R223). -/

namespace Sys2Proof.Machine

/-! ## A counter through writes to other bytes -/

theorem map_bytes_eq_leBytes (n v : Nat) : (List.range n).map (fun i => BitVec.ofNat 8 (v / 256 ^ i)) = leBytes n v := by
  induction n generalizing v with
  | zero => rfl
  | succ n ih =>
    rw [List.range_succ_eq_map, List.map_cons, List.map_map, leBytes, ← ih (v / 256)]
    simp [Function.comp_def, Nat.div_div_eq_div_mul, Nat.pow_succ']

theorem mergeBytes_nil (old n base key : Nat) : mergeBytes old n base key [] = old % 2 ^ (8 * n) := by
  rw [← leNat_leBytes, ← map_bytes_eq_leBytes, mergeBytes]
  refine congrArg leNat (List.map_congr_left fun i _ => if_neg ?_)
  simp only [List.length_nil, Bool.and_eq_true, decide_eq_true_eq]
  omega

/-- Every counter counts what it did. -/
def sameCounters (s t : State) : Prop := ∀ c i, (t.cluster c).counter i = (s.cluster c).counter i

theorem sameCounters_refl (s : State) : sameCounters s s := fun _ _ => rfl
theorem sameCounters_trans {s t u : State} (st : sameCounters s t) (tu : sameCounters t u) : sameCounters s u :=
  fun c i => (tu c i).trans (st c i)
theorem sameCounters_ite {s t u : State} {p : Prop} {_ : Decidable p} (ht : sameCounters s t) (hu : sameCounters s u) :
    sameCounters s (if p then t else u) := by
  split <;> assumption

section
variable (s : State)

theorem sameCounters_setCluster {cl : Nat} {x : Cluster} (h : x.counters = (s.cluster cl).counters) :
    sameCounters s (s.setCluster cl x) := by
  intro c i
  rw [State.cluster_setCluster]
  split
  next e => rw [Cluster.counter, h, e, Cluster.counter]
  next => rfl

theorem sameCounters_countCl (cl n k : Nat) : sameCounters s (s.countCl cl n k) := sameCounters_setCluster s rfl
theorem sameCounters_fireEntry (cl e : Nat) : sameCounters s (fireEntry s cl e) :=
  sameCounters_setCluster (s.noteLines cl [lineOf (mkOA cl 10 (0x1000 + 32 * e))] deviceHart) rfl
theorem sameCounters_evalEntry (cl e : Nat) : sameCounters s (evalEntry s cl e) :=
  sameCounters_ite (sameCounters_fireEntry s cl e) (sameCounters_refl s)
theorem sameCounters_evalEntries (cl n : Nat) : sameCounters s (evalEntries s cl n) := fun c i =>
  foldl_keeps _ (fun u : State => (u.cluster c).counter i) _ _ fun u _ => sameCounters_evalEntry u cl _ c i

theorem counter_putCounter (cl j : Nat) (w : Word) (c i : Nat) :
    ((s.putCounter cl j w).cluster c).counter i = if c = cl ∧ i = j then w else (s.cluster c).counter i := by
  have put : ((s.putCounter cl j w).cluster c) = ((s.setCluster cl ((s.cluster cl).setCounter j w)).cluster c) := rfl
  rw [put, State.cluster_setCluster]
  by_cases hc : c = cl
  · subst hc
    rw [if_pos rfl]
    simp [Cluster.counter, Cluster.setCounter, Tab.get_set]
  · rw [if_neg hc, if_neg fun h => hc h.1]

/-- An event counted is one more at its counter. -/
theorem counter_countUp (c i : Nat) : ((countUp s c i).cluster c).counter i = (s.cluster c).counter i + 1 := by
  rw [countUp, sameCounters_evalEntries, counter_putCounter, if_pos ⟨rfl, rfl⟩]

theorem sameCounters_wtStore (cl e j : Nat) (w : Word) : sameCounters s (wtStore s cl e j w) := by
  have bad := sameCounters_countCl s cl cBadCtl 1
  unfold wtStore
  split
  · exact sameCounters_ite bad (sameCounters_setCluster s rfl)
  · exact sameCounters_ite bad (sameCounters_setCluster s rfl)
  · refine sameCounters_ite bad (sameCounters_ite ?_ (sameCounters_setCluster s rfl))
    exact sameCounters_trans (sameCounters_setCluster s (by rfl)) (sameCounters_evalEntry _ _ _)
  · exact sameCounters_ite (sameCounters_refl s) bad

theorem Cluster.counters_setCtl (x : Cluster) (n : Nat) (w : Word) : (x.setCtl n w).counters = x.counters := by
  unfold Cluster.setCtl
  split <;> rfl

theorem sameCounters_storeCtl (cl off : Nat) (b : List Byte) : sameCounters s (storeCtl s cl off b) :=
  sameCounters_ite (sameCounters_setCluster s (foldl_keeps _ Cluster.counters _ _ fun _ _ => Cluster.counters_setCtl ..))
    (sameCounters_countCl _ _ _ _)

theorem sameCounters_storeWindow (h : Hart) (off : Nat) (b : List Byte) : sameCounters s (s.storeWindow h off b) := by
  unfold State.storeWindow
  dsimp only
  split
  · exact sameCounters_refl s
  · exact sameCounters_refl s
  all_goals exact sameCounters_ite (sameCounters_countCl (s.setThread h _) _ _ _) (sameCounters_refl s)

/-- A write of no byte leaves the counter that it names as it is. -/
theorem sameCounters_putCounter_self (cl j off : Nat) :
    sameCounters s (s.putCounter cl j (BitVec.ofNat 64 (mergeBytes ((s.cluster cl).counter j).toNat 8 (8 * j) off []))) := by
  intro c i
  rw [counter_putCounter]
  split
  next same =>
    obtain ⟨rfl, rfl⟩ := same
    rw [mergeBytes_nil, Nat.mod_eq_of_lt (BitVec.isLt _), BitVec.ofNat_toNat, BitVec.setWidth_eq]
  next => rfl

/-- A write of plain bytes, or of no byte wherever it names, leaves every counter as it is. -/
theorem sameCounters_writeAt (h : Hart) {k : Nat} {b : List Byte} (plain : ∀ i, i < b.length → plainKey (k + i) = true) :
    sameCounters s (s.writeAt h k b) := by
  cases b with
  | cons x r =>
    have key : plainKey k = true := plain 0 (Nat.succ_pos _)
    rw [State.writeAt_plain s h key]
    exact sameCounters_refl s
  | nil =>
    have noted : sameCounters s (s.noteLines (arbOfKey k) (linesOf k ([] : List Byte).length) h) := sameCounters_refl s
    unfold State.writeAt
    generalize s.noteLines (arbOfKey k) (linesOf k ([] : List Byte).length) h = u at noted ⊢
    dsimp only
    split
    · exact noted
    · split
      · exact noted
      · split
        case h_3 => exact sameCounters_trans noted (sameCounters_putCounter_self _ _ _ _)
        case h_4 => exact sameCounters_trans noted (sameCounters_wtStore _ _ _ _ _)
        case h_5 => exact sameCounters_trans noted (sameCounters_storeCtl _ _ _ _)
        case h_6 => exact sameCounters_trans noted (sameCounters_storeWindow _ _ _ _)
        all_goals exact noted

end

/-! ## PUTC at issue -/

section
variable (s : State) (sc sd sv sg : Reg) (ty : Ty) (scope : BitVec 3)

/-- What becomes of a PUTC that no partition queue takes: its words are checked in order, and then it leaves. -/
theorem execPutc_local (h : sd = 0#5 ∨ scope ≠ 5#3 ∨ s.queueFor s.myPart (s.rs sc) (s.rs sd) (tyBytes ty) = none) :
    execPutc sc sd sv sg ty scope s =
      if s.counterTrap (s.rs sc) = some .misalign then misalign s (s.rs sc)
      else if sd ≠ 0#5 ∧ (s.rs sd).toNat % tyBytes ty ≠ 0 then misalign s (s.rs sd)
      else match s.counterTrap (s.rs sc) with
        | some t => addressTrap s t (s.rs sc)
        | none =>
          if sd = 0#5 then putcGo s (s.rs sc) none ((s.rs sg).setWidth 16)
          else msgTarget s (.putc sc sd sv sg ty scope) .plain (s.rs sd) (tyBytes ty) false true fun u k =>
            putcGo u (s.rs sc) (some (k, leBytes (tyBytes ty) (s.rs sv).toNat)) ((s.rs sg).setWidth 16) := by
  unfold execPutc
  extract_lets i n c d gen bytes cross
  have stays : cross = false := by
    rcases h with h | h | h
    · simp [cross, h]
    · simp [cross, h]
    · simp [cross, n, c, d, h]
  simp only [stays, Bool.false_eq_true, if_false]
  split
  next e => exact (if_pos e).symm
  next other =>
    rw [if_neg other]
    simp [d, n] <;> rfl

/-- A PUTC whose words pass leaves as a release, with the words that the hart held at issue. -/
theorem putcGo_leaves {s : State} {c : Word} {data : Option (Nat × List Byte)} {gen : BitVec 16} (h : s.mayRelease = true) :
    putcGo s c data gen =
      .next (s.released.pushMsg s.released.cur (.putc c.toNat data gen s.released.myPart)).pastStrong :=
  withRelease_mayRelease _ _ h

end

/-! ## PUTC at its target -/

/-- A PUTC that has arrived: discarded and counted as stale, or its data written and its counter raised. -/
theorem performItem_putc {s : State} {m : Msg} {c : Nat} {d : Option (Nat × List Byte)} {g : BitVec 16} {p : Nat}
    (item : m.item = .putc c d g p) :
    performItem s m = if g ≠ 0 ∧ g ≠ Tab.get 0 (s.cluster (oaCl c)).cgen (oaOff c / 8) then (s.dropMsg m.id).countPart p pStale
      else countUp ((d.elim (s.dropMsg m.id) fun x => (s.dropMsg m.id).writeAt m.hart x.1 x.2).noteLines (oaCl c) [lineOf c] m.hart)
        (oaCl c) (oaOff c / 8) := by
  simp only [performItem, item, Bool.and_eq_true, decide_eq_true_eq]
  cases d <;> rfl

end Sys2Proof.Machine
end

section
open Sys2Proof Sys2Proof.Machine

/-- Settles O21: PUTC at issue by the order of its checks, and at its target by `performItem_putc`. -/
theorem counterMessages : Obligations.CounterMessages := by
  refine ⟨fun sc sd sv sg ty scope s => ⟨fun local' => ?_, fun q hd hscope hq aligned core k v walk release => ?_⟩,
    fun s m c d g p hm item first plain => ?_⟩
  · have putc : exec (.putc sc sd sv sg ty scope) s = _ := execPutc_local s sc sd sv sg ty scope local'
    rw [putc]
    refine ⟨fun e => ?_, fun e hd odd => ?_, fun e ok => ?_, fun e hd release => ?_, fun e hd aligned => ⟨fun va => ?_, fun va x e' => ?_⟩,
      fun e hd aligned k v target release => ?_⟩
    · exact if_pos e
    · rw [if_neg e, if_pos ⟨hd, odd⟩]
      rfl
    · rw [e, if_neg (by simp), if_neg fun h => ok.elim h.1 h.2]
    · rw [e, if_neg (by simp), if_neg fun h => h.1 hd]
      exact (if_pos hd).trans (putcGo_leaves release)
    all_goals rw [e, if_neg (by simp), if_neg fun h => h.2 aligned]; simp only [hd, if_false]
    · exact msgTarget_stops va aligned
    · exact msgTarget_refused va e'
    · exact (msgTarget_accepted target).trans (putcGo_leaves release)
  · have cross : (s.queueFor s.myPart (s.rs sc) (s.rs sd) (tyBytes ty)).isSome = true := by rw [hq]; rfl
    have going : exec (.putc sc sd sv sg ty scope) s = stackTarget s (.putc sc sd sv sg ty scope) (pqCons q) (s.rs sd) (tyBytes ty) false
        true fun u k => putcGo u (s.rs sc) (some (k, leBytes (tyBytes ty) (s.rs sv).toNat)) ((s.rs sg).setWidth 16) := by
      simp [exec, execPutc, hd, hscope, hq, aligned]
    rw [going, stackTarget_here (by simp [core])]
    have there : targetWalk s (pqCons q) (s.rs sd) false = (.ok k, v) := walk
    rw [there]
    exact putcGo_leaves release
  · have arrives : exec .putcArrival s = .next (performItem s m) := by simp [exec, execPutcArrival, hm, item, first]
    refine ⟨_, arrives, fun stale => ?_, fun fresh => ?_⟩
    · rw [performItem_putc item, if_pos stale]
      exact ⟨congrArg Part.stat (State.part_setPart_self ..), rfl, rfl⟩
    · rw [performItem_putc item, if_neg fresh]
      refine ⟨?_, ?_⟩
      · rw [counter_countUp]
        refine congrArg (· + 1) ?_
        cases d with
        | none => rfl
        | some x => exact sameCounters_writeAt (s.dropMsg m.id) m.hart (plain x rfl) _ _
      · rintro x rfl
        refine Eq.trans (List.map_congr_left fun i hi => ?_) (State.bytesAt_writeAt_plain (s.dropMsg m.id) m.hart (plain x rfl))
        exact State.byteAt_congr_plain (by simp) (plain x rfl i (List.mem_range.1 hi))

end

section
/-! SUPPORT. APND, AFENCE, WARM and QPOP (R224 to R230). -/

namespace Sys2Proof.Machine

/-! ## APND -/

/-- A strong head is done: it has gone on and its chunk's boundary is behind it. -/
theorem State.doneStrong_eq (s : State) : s.doneStrong = .next s.pastStrong := rfl

/-- Word `j` of the descriptor of an append. -/
def apndWord (s : State) (k j : Nat) : Word := BitVec.ofNat 64 (s.readAt (k + 8 * j) 8)
/-- The row fits behind TAIL, and the descriptor is whole. -/
def apndFits (s : State) (k : Nat) (row : List Byte) : Prop :=
  apndWord s k 3 = 0 ∧ (apndWord s k 0).toNat + row.length ≤ (apndWord s k 1).toNat
/-- TAIL has moved behind the row, which is on its way, and the old tail is returned. -/
def apndTaken (s u : State) (rd : Reg) (k : Nat) (row : List Byte) (parts : List (Nat × List Byte)) : State :=
  let x := u.writeAt s.cur k (leBytes 8 ((apndWord s k 0).toNat + row.length))
  ((x.pushMsg x.cur (.apndRow parts (k + 16) row.length)).ws rd (apndWord s k 0)).pastStrong
/-- The answer of all ones, counted at a core's cluster. -/
def apndRefused (s : State) (rd : Reg) : State :=
  ((if kindOf s.cur = .core then s.countCl (hartCl s.cur) cAppendRefused 1 else s).ws rd (BitVec.allOnes 64)).pastStrong

section
variable {s u : State} {i : Instr} {rd : Reg} {k : Nat} {row : List Byte}

/-- Where the row of an append goes, if anywhere. -/
def apndGoes (s : State) (k : Nat) (row : List Byte) : RowTo :=
  if apndWord s k 3 = 0 && (apndWord s k 0).toNat + row.length ≤ (apndWord s k 1).toNat then (rowParts s (apndWord s k 0) row).1
  else .refused
theorem apndAt_eq : apndAt s i rd k row = match apndGoes s k row with
    | .wait => s.stalled i
    | .parts parts => .next (apndTaken s (rowParts s (apndWord s k 0) row).2 rd k row parts)
    | .refused => .next (apndRefused s rd) := by
  have word (j : Nat) : BitVec.ofNat 64 (s.readAt (k + 8 * j) 8) = apndWord s k j := rfl
  unfold apndAt
  simp only [word]
  rw [← apndGoes]
  cases apndGoes s k row with
  | wait => rfl
  | refused => rfl
  | parts parts => simp only [apndTaken, State.doneStrong_eq]

theorem apndAt_fits (fits : apndFits s k row) : apndAt s i rd k row = match (rowParts s (apndWord s k 0) row).1 with
    | .wait => s.stalled i
    | .parts parts => .next (apndTaken s (rowParts s (apndWord s k 0) row).2 rd k row parts)
    | .refused => .next (apndRefused s rd) := by
  rw [apndAt_eq, apndGoes, if_pos (by simpa [apndFits] using fits)]
theorem apndAt_parts {parts : List (Nat × List Byte)} (fits : apndFits s k row)
    (e : rowParts s (apndWord s k 0) row = (.parts parts, u)) : apndAt s i rd k row = .next (apndTaken s u rd k row parts) := by
  rw [apndAt_fits fits, e]
theorem apndAt_wait (fits : apndFits s k row) (e : (rowParts s (apndWord s k 0) row).1 = .wait) :
    apndAt s i rd k row = s.stalled i := by
  rw [apndAt_fits fits, e]
theorem apndAt_refused (h : ¬ apndFits s k row ∨ (rowParts s (apndWord s k 0) row).1 = .refused) :
    apndAt s i rd k row = .next (apndRefused s rd) := by
  by_cases fits : apndFits s k row
  · rw [apndAt_fits fits, h.resolve_left (not_not.2 fits)]
  · rw [apndAt_eq, apndGoes, if_neg (by simpa [apndFits] using fits)]

end

theorem execApnd_checked (rd st sr sl : Reg) (scope : BitVec 3) (s : State)
    (len : ¬ ((s.rs sl).toNat < 64 ∨ 512 < (s.rs sl).toNat ∨ (s.rs sl).toNat % 64 ≠ 0)) (desc : (s.rs st).toNat % 32 = 0)
    (src : (s.rs sr).toNat % 64 = 0) (spad : s.inSpad s.myPart (s.rs sr) (s.rs sl).toNat = true) :
    execApnd rd st sr sl scope s = msgTarget s (.apnd rd st sr sl scope) .plain (s.rs st) 32 true true (fun u k => withRelease u fun u =>
      if u.held u.cur (s.rs sr).toNat (s.rs sl).toNat || u.mustWait u.cur k 16 || u.mustWait u.cur (k + 24) 8 then
        u.stalled (.apnd rd st sr sl scope)
      else apndAt u (.apnd rd st sr sl scope) rd k (u.ownBytes u.cur (s.rs sr).toNat (s.rs sl).toNat)) := by
  simp only [not_or, not_not] at len
  obtain ⟨lo, hi, lines⟩ := len
  simp [execApnd, lo, hi, lines, desc, src, spad]

/-! ## AFENCE, WARM and QPOP -/

theorem execAfence_inside {sb sn : Reg} {s : State} (va : isVA (s.rs sb) = true)
    (range : (s.rs sn).toNat = 0 ∨ (vaOf (s.rs sb) % 2 ^ 54 + (s.rs sn).toNat ≤ 2 ^ 54 ∧
      s.stackIn s.myPart (vaStack (vaOf (s.rs sb))) = true)) : execAfence sb sn s = withRelease s State.doneStrong := by
  have inStack : ¬ ((s.rs sn).toNat ≠ 0 ∧ 2 ^ 54 < vaOf (s.rs sb) % 2 ^ 54 + (s.rs sn).toNat) := by omega
  have inPart : ¬ ((s.rs sn).toNat ≠ 0 ∧ s.stackIn s.myPart (vaStack (vaOf (s.rs sb))) = false) := by
    rcases range with zero | ⟨-, within⟩
    · exact fun h => h.1 zero
    · simp [within]
  unfold execAfence
  simp only [va, Bool.not_true, Bool.false_eq_true, if_false, Bool.and_eq_true, decide_eq_true_eq, Bool.not_eq_true']
  rw [if_neg inStack, if_neg inPart]

theorem execAfence_outside {sb sn : Reg} {s : State} (h : isVA (s.rs sb) = false ∨ ((s.rs sn).toNat ≠ 0 ∧
      (2 ^ 54 < vaOf (s.rs sb) % 2 ^ 54 + (s.rs sn).toNat ∨ s.stackIn s.myPart (vaStack (vaOf (s.rs sb))) = false))) :
    execAfence sb sn s = addressTrap s .window (s.rs sb) := by
  unfold execAfence
  simp only [Bool.and_eq_true, decide_eq_true_eq, Bool.not_eq_true']
  split
  · rfl
  next va =>
    obtain ⟨some', out⟩ := h.resolve_left va
    split
    · rfl
    next inStack => rw [if_pos ⟨some', out.resolve_left fun far => inStack ⟨some', far⟩⟩]

/-- WARM goes on where its walks leave it. -/
theorem execWarm_walks (sb sn : Reg) (s : State) : ∃ u, execWarm sb sn s = .next u.past ∧ sameButTlb s u ∧
    ((isVA (s.rs sb) = false ∨ (s.rs sn).toNat = 0) → u = s) := by
  unfold execWarm
  dsimp only
  split
  · exact ⟨s, rfl, sameButTlb_refl s, fun _ => rfl⟩
  next warm =>
    refine ⟨_, rfl, ?_, fun h => absurd ?_ warm⟩
    · generalize List.map _ _ = pages
      have walks (l : List Nat) (u : State) (hu : sameButTlb s u) :
          sameButTlb s (l.foldl (fun s a => if a < 2 ^ 57 then (s.xlate s.myPart s.myAcc a false).2 else s) u) := by
        induction l generalizing u with
        | nil => exact hu
        | cons a r ih =>
          refine ih _ ?_
          dsimp only
          split
          · exact sameButTlb_trans hu (State.xlate_sameButTlb ..)
          · exact hu
      exact walks pages s (sameButTlb_refl s)
    · rcases h with h | h
      · simp [h]
      · simp [h]

theorem aligned_of_targetOf {s v : State} {a : Acc} {ea : Word} {n key : Nat} {rd : Bool} (va : isVA ea = true)
    (h : targetOf s a ea n rd = some (key, v)) : ea.toNat % n = 0 := by
  by_contra odd
  simp [targetOf, va, odd] at h
theorem stackTarget_accepted {s v : State} {i : Instr} {a : Acc} {ea : Word} {n key : Nat} {rd : Bool} {k : State → Nat → Result}
    (va : isVA ea = true) (h : targetOf s a ea n rd = some (key, v)) : stackTarget s i s.myPart ea n rd true k = k v key := by
  have accepted := msgTarget_accepted (i := i) (k := k) h
  rwa [msgTarget, if_pos va, if_neg (not_not.2 (aligned_of_targetOf va h))] at accepted

/-- A queue descriptor whose fields break their form. -/
def queueBad (s : State) (k : Nat) : Prop :=
  (queueWord s k 1).toNat % 16 ≠ 0 ∨ 2 ^ 9 ≤ (queueWord s k 1).toNat ∨ 20 < (queueWord s k 1).toNat / 16 % 32 ∨
    ∃ j, j < 4 ∧ queueWord s k (4 + j) ≠ 0
/-- CNTADDR names a counter of the partition. -/
def queueCounter (s : State) (k : Nat) : Prop :=
  isOA (queueWord s k 2) = true ∧ oaSpace (queueWord s k 2).toNat = some .counter ∧ (queueWord s k 2).toNat % 8 = 0 ∧
    s.dieIn s.myPart (oaDie (queueWord s k 2).toNat) = true

/-- QPOP at its descriptor, of key `k`. -/
def qpopAt (rd sq : Reg) (s : State) (k : Nat) : Result :=
  if s.mustWait s.cur k 64 then s.stalled (.qpop rd sq)
  else if (queueWord s k 1).toNat % 16 ≠ 0 || 2 ^ 9 ≤ (queueWord s k 1).toNat || 20 < (queueWord s k 1).toNat / 16 % 32
    || (List.range 4).any (fun j => queueWord s k (4 + j) != 0) then illegal s
  else if !(isOA (queueWord s k 2) && oaSpace (queueWord s k 2).toNat == some .counter && (queueWord s k 2).toNat % 8 = 0 &&
      s.dieIn s.myPart (oaDie (queueWord s k 2).toNat)) then takeTrap s .window (queueWord s k 2) 0
  else if (queueWord s k 3).toNat <
      ((s.cluster (oaCl (queueWord s k 2).toNat)).counter (oaOff (queueWord s k 2).toNat / 8)).toNat then
    let u := s.writeAt s.cur (k + 24) (leBytes 8 ((queueWord s k 3).toNat + 1))
    .next (u.ws rd (queueWord u k 0 +
      BitVec.ofNat 64 (64 * ((queueWord s k 3).toNat % 2 ^ ((queueWord s k 1).toNat / 16 % 32))))).pastStrong
  else .next (s.ws rd (BitVec.allOnes 64)).pastStrong

theorem execQpop_eq {rd sq : Reg} {s : State} (aligned : (s.rs sq).toNat % 64 = 0) (va : isVA (s.rs sq) = true) :
    execQpop rd sq s = withRelease s fun u => stackTarget u (.qpop rd sq) u.myPart (s.rs sq) 64 true true (qpopAt rd sq) := by
  simp only [execQpop, aligned, va, ne_eq, not_true_eq_false, if_false, Bool.not_true, Bool.false_eq_true]
  rfl

theorem queueBad_iff (s : State) (k : Nat) : ((decide ((queueWord s k 1).toNat % 16 ≠ 0) || decide (2 ^ 9 ≤ (queueWord s k 1).toNat) ||
    decide (20 < (queueWord s k 1).toNat / 16 % 32) || (List.range 4).any (fun j => queueWord s k (4 + j) != 0)) = true) ↔
      queueBad s k := by
  simp [queueBad, or_assoc]
theorem queueCounter_iff (s : State) (k : Nat) : ((!(isOA (queueWord s k 2) && oaSpace (queueWord s k 2).toNat == some .counter &&
    decide ((queueWord s k 2).toNat % 8 = 0) && s.dieIn s.myPart (oaDie (queueWord s k 2).toNat))) = true) ↔ ¬ queueCounter s k := by
  simp only [queueCounter, Bool.not_eq_true', ← Bool.not_eq_true, Bool.and_eq_true, beq_iff_eq, decide_eq_true_eq, and_assoc]

end Sys2Proof.Machine
end

section
open Sys2Proof Sys2Proof.Machine

/-- Settles O22: the checks in their order, then the descriptor's three outcomes behind the release. -/
theorem appendLaw : Obligations.AppendLaw := by
  intro rd st sr sl scope s n src d i badLen
  have checked (len : ¬ badLen) : ¬ (decide (n < 64) || decide (512 < n) || decide (n % 64 ≠ 0)) = true := by
    simpa [or_assoc, badLen] using len
  refine ⟨fun bad => ?_, fun len odd => ?_, fun len desc odd => ?_, fun len desc lines out => ?_, fun len desc lines spad => ?_,
    fun len desc lines spad k v target release => ?_⟩
  · have long : (decide (n < 64) || decide (512 < n) || decide (n % 64 ≠ 0)) = true := by simpa [or_assoc, badLen] using bad
    exact if_pos long
  · exact (if_neg (checked len)).trans (if_pos odd)
  · exact (if_neg (checked len)).trans ((if_neg (not_not.2 desc)).trans (if_pos odd))
  · have foreign : (!s.inSpad s.myPart src n) = true := by rw [out]; rfl
    exact (if_neg (checked len)).trans ((if_neg (not_not.2 desc)).trans ((if_neg (not_not.2 lines)).trans (if_pos foreign)))
  · have going : exec i s = _ := execApnd_checked rd st sr sl scope s len desc lines spad
    rw [going]
    exact ⟨fun va => msgTarget_stops va desc, fun va x => msgTarget_refused va⟩
  · have going : exec i s = _ := execApnd_checked rd st sr sl scope s len desc lines spad
    rw [going, msgTarget_accepted target, withRelease_mayRelease _ _ release]
    intro r waits stall row w fits
    have waits_iff : (r.held r.cur src.toNat n || r.mustWait r.cur k 16 || r.mustWait r.cur (k + 24) 8) = true ↔ waits := by
      simp [waits, or_assoc]
    have goes (go : ¬ waits) : (if r.held r.cur src.toNat n || r.mustWait r.cur k 16 || r.mustWait r.cur (k + 24) 8 then
        r.stalled i else apndAt r i rd k row) = apndAt r i rd k row := if_neg (mt waits_iff.1 go)
    refine ⟨fun wait => if_pos (waits_iff.2 wait), fun go parts u fit e => (goes go).trans ?_, fun go fit e => (goes go).trans ?_,
      fun go refuse => (goes go).trans ?_⟩
    · exact apndAt_parts fit e
    · exact apndAt_wait fit e
    · exact apndAt_refused refuse

/-- Settles O23: AFENCE by its range, WARM by its walks, QPOP by its descriptor behind the release. -/
theorem fencesAndQueues : Obligations.FencesAndQueues := by
  refine ⟨fun sb sn s => ⟨fun va range release => ?_, execAfence_outside, execWarm_walks sb sn s⟩, fun rd sq s => ?_⟩
  · exact (execAfence_inside va range).trans (withRelease_mayRelease _ _ release)
  · refine ⟨fun odd => if_pos odd, fun aligned other => ?_, fun aligned va release => ?_, fun k v va release target => ?_⟩
    · exact (if_neg (not_not.2 aligned)).trans (if_pos (by rw [other]; rfl))
    · have going : exec (.qpop rd sq) s = _ := execQpop_eq aligned va
      rw [going, withRelease_mayRelease _ _ release]
      exact stackTarget_stops
    · have going : exec (.qpop rd sq) s = qpopAt rd sq v k := (execQpop_eq (aligned_of_targetOf va target) va).trans
        ((withRelease_mayRelease _ _ release).trans (stackTarget_accepted va target))
      intro ql c bad counter
      refine ⟨fun wait => ?_, fun free => ⟨fun isBad => ?_, fun good foreign => ?_, fun good isCounter => ?_⟩⟩
      · rw [going]; exact if_pos wait
      all_goals have free' : ¬ v.mustWait v.cur k 64 = true := by rw [free]; nofun
      all_goals rw [going, qpopAt, if_neg free']
      · exact if_pos ((queueBad_iff v k).2 isBad)
      · exact (if_neg (mt (queueBad_iff v k).1 good)).trans (if_pos ((queueCounter_iff v k).2 foreign))
      · rw [if_neg (mt (queueBad_iff v k).1 good), if_neg (mt (queueCounter_iff v k).1 (not_not.2 isCounter))]
        exact ⟨fun waits => if_pos waits, fun empty => if_neg (Nat.not_lt.2 empty)⟩

end

section
/-! SUPPORT. Control registers: what CRD and CWR come to, and the values that the cluster registers store (R97 to R101). -/

namespace Sys2Proof.Machine

/-! ## Stored values -/

/-- A binary32 pattern is a NaN where its exponent is all ones and its fraction is not zero. -/
theorem isNan_dec_f32 (v : Nat) : (f32.dec v).isNan = (decide (v / 2 ^ 23 % 2 ^ 8 = 255) && !decide (v % 2 ^ 23 = 0)) := by
  have eb : f32.eb = 8 := rfl
  have mb : f32.mb = 23 := rfl
  have e4 : f32.e4 = false := rfl
  unfold Fmt.dec
  simp only [eb, mb, e4, Bool.false_and, Bool.false_eq_true, if_false, Bool.not_false, Bool.true_and, beq_iff_eq]
  by_cases ones : v / 2 ^ 23 % 2 ^ 8 = 2 ^ 8 - 1
  · rw [if_pos ones]
    have isOnes : decide (v / 2 ^ 23 % 2 ^ 8 = 255) = true := decide_eq_true ones
    rw [isOnes]
    by_cases zero : v % 2 ^ 23 = 0
    · rw [if_pos zero, decide_eq_true zero]
      rfl
    · rw [if_neg zero, decide_eq_false zero]
      rfl
  · rw [if_neg ones]
    have notOnes : decide (v / 2 ^ 23 % 2 ^ 8 = 255) = false := decide_eq_false ones
    rw [notOnes]
    split <;> rfl

theorem chktolStored_eq (w : Word) (h : w.toNat < 2 ^ 32) :
    chktolStored w = if (f32.dec w.toNat).isNan || (w.toNat ≥ 2 ^ 31 + 1) then 0x37800000 else w := by
  unfold chktolStored
  refine if_congr ?_ rfl rfl
  simp only [isNan_dec_f32, Bool.or_eq_true, Bool.and_eq_true, decide_eq_true_eq, Bool.not_eq_true', decide_eq_false_iff_not]
  omega

theorem sum_lt_of_digits (d : Nat → Nat) (h : ∀ k, d k < 16) (n : Nat) :
    (List.range n).foldl (fun a k => a + d k * 16 ^ k) 0 < 16 ^ n := by
  induction n with
  | zero => exact Nat.one_pos
  | succ n ih =>
    rw [List.range_succ, List.foldl_append, List.foldl_cons, List.foldl_nil, Nat.pow_succ]
    have top : d n * 16 ^ n ≤ 15 * 16 ^ n := Nat.mul_le_mul_right _ (Nat.le_of_lt_succ (h n))
    omega

/-- The base-16 digits of a sum of digits. -/
theorem digit_of_sum (d : Nat → Nat) (h : ∀ k, d k < 16) {n k : Nat} (hk : k < n) :
    (List.range n).foldl (fun a k => a + d k * 16 ^ k) 0 / 16 ^ k % 16 = d k := by
  induction n with
  | zero => exact absurd hk (Nat.not_lt_zero _)
  | succ n ih =>
    rw [List.range_succ, List.foldl_append, List.foldl_cons, List.foldl_nil]
    rcases Nat.lt_succ_iff_lt_or_eq.1 hk with below | rfl
    · have split : d n * 16 ^ n = d n * 16 ^ (n - k - 1) * 16 * 16 ^ k := by
        rw [Nat.mul_assoc, Nat.mul_assoc, ← Nat.pow_succ', ← Nat.pow_add]
        congr 2
        omega
      rw [split, Nat.add_mul_div_right _ _ (Nat.pow_pos (by omega)), Nat.add_mul_mod_self_right, ih below]
    · rw [Nat.add_mul_div_right _ _ (Nat.pow_pos (by omega)), Nat.div_eq_of_lt (sum_lt_of_digits d h k), Nat.zero_add,
        Nat.mod_eq_of_lt (h k)]

/-- Each weight is stored as it is, a 0 as 1 (R99). -/
theorem mwgtStored_digit (w : Word) {k : Nat} (hk : k < 8) :
    (mwgtStored w).toNat / 16 ^ k % 16 = if w.toNat / 16 ^ k % 16 = 0 then 1 else w.toNat / 16 ^ k % 16 := by
  have digits (k : Nat) : (if w.toNat / 16 ^ k % 16 = 0 then 1 else w.toNat / 16 ^ k % 16) < 16 := by
    split
    · omega
    · exact Nat.mod_lt _ (by omega)
  have small := sum_lt_of_digits (fun k => if w.toNat / 16 ^ k % 16 = 0 then 1 else w.toNat / 16 ^ k % 16) digits 8
  rw [mwgtStored, BitVec.toNat_ofNat, Nat.mod_eq_of_lt (Nat.lt_trans small (by decide))]
  exact digit_of_sum (fun k => if w.toNat / 16 ^ k % 16 = 0 then 1 else w.toNat / 16 ^ k % 16) digits hk

theorem pdead_stored (w : Word) (r : Regs) :
    (r.setCtl 8 w).getCtl 8 = if w.toNat < 256 then 256 else (w.setWidth 24).setWidth 64 := by
  simp only [Regs.setCtl, Regs.getCtl]
  split <;> rfl

end Sys2Proof.Machine
end

section
open Sys2Proof Sys2Proof.Machine

/-- Settles O8: the access by the register's number and the kind of hart, and the stored values one by one. -/
theorem controlRegisters : Obligations.ControlRegisters := by
  refine ⟨fun rd n rs s => ?_, fun w r c k => ⟨pdead_stored w r, fun hk => mwgtStored_digit w hk, chktolStored_eq w, rfl⟩⟩
  intro cell _ _
  refine ⟨fun lo => ?_, fun hi core free => ?_, fun hi core waits => ?_, fun hi other => ?_, fun bad => ?_,
    fun ok lo => ?_, fun ok hi core free => ?_, fun ok hi core waits => ?_, fun ok hi other => ?_⟩
  all_goals simp only [exec, execCrd, execCwr]
  · exact if_pos lo
  · rw [if_neg (Nat.not_lt.2 hi), if_neg (not_not.2 core)]
    exact if_neg (Bool.not_eq_true _ ▸ free)
  · rw [if_neg (Nat.not_lt.2 hi), if_neg (not_not.2 core)]
    exact if_pos waits
  · rw [if_neg (Nat.not_lt.2 hi)]
    exact if_pos other
  · exact if_pos bad
  · rw [if_neg (not_not.2 ok)]
    exact if_pos lo
  · rw [if_neg (not_not.2 ok), if_neg (Nat.not_lt.2 hi), if_neg (not_not.2 core)]
    exact if_neg (Bool.not_eq_true _ ▸ free)
  · rw [if_neg (not_not.2 ok), if_neg (Nat.not_lt.2 hi), if_neg (not_not.2 core)]
    exact if_pos waits
  · rw [if_neg (not_not.2 ok), if_neg (Nat.not_lt.2 hi)]
    exact if_pos other

end

section
/-! SUPPORT. Chunk boundaries, pending window stores and gangs, as the thread set of the hart sees them (R61, R69, R200 to R203, R207). -/

namespace Sys2Proof.Machine

/-! ## The boundary of a chunk -/

@[simp] theorem State.thread_endRedo (s : State) (h k : Hart) : (s.endRedo h).thread k = s.thread k := by
  unfold State.endRedo
  split
  · split <;> rfl
  · rfl

/-- At the boundary of its chunk a thread set begins anew with its registers. -/
theorem State.thread_boundary_self (s : State) (h : Hart) :
    (s.boundary h).thread h = { s.thread h with chunk := { begun := (s.thread h).regs } } := by
  unfold State.boundary
  exact (State.thread_noteWindow_self ..).trans (State.thread_setThread_self ..)
theorem State.me_boundary {s : State} {h : Hart} (e : s.cur = h) :
    (s.boundary h).me = { s.me with chunk := { begun := s.me.regs } } := by
  subst e
  rw [State.me, State.cur_boundary]
  exact s.thread_boundary_self s.cur

/-! ## Pending window stores -/

/-- The thread set once its oldest pending store has landed. -/
def Thread.landed (t : Thread) : Thread :=
  match t.pend with
  | [] => t
  | w :: r =>
    { t with pend := r, regs := (windowStore t.regs w.key w.data).1
             chunk := { t.chunk with begun := (windowStore t.regs w.key w.data).1 } }

theorem Thread.landed_nil {t : Thread} (e : t.pend = []) : t.landed = t := by simp only [Thread.landed, e]
theorem Thread.landed_cons {t : Thread} {w : WStore} {r : List WStore} (e : t.pend = w :: r) :
    t.landed = { t with
      pend := r, regs := (windowStore t.regs w.key w.data).1
      chunk := { t.chunk with begun := (windowStore t.regs w.key w.data).1 } } := by
  simp only [Thread.landed, e]

theorem thread_landPending_self (s : State) (h : Hart) : (landPending s h).thread h = (s.thread h).landed := by
  rcases e : (s.thread h).pend with _ | ⟨w, r⟩
  · rw [Thread.landed_nil e]
    simp only [landPending, e]
  · have land (t : Thread) (moved : Nat → Bool) : ((s.setThread h t).noteWindow h moved).thread h = t :=
      (State.thread_noteWindow_self ..).trans (State.thread_setThread_self ..)
    rw [Thread.landed_cons e]
    simp only [landPending, e]
    split
    · exact land ..
    · exact land ..

theorem pc_windowStore (r : Regs) (off : Nat) (b : List Byte) : (windowStore r off b).1.pc = r.pc := by
  have ctl (n : Nat) (w : Word) : (r.setCtl n w).pc = r.pc := by
    unfold Regs.setCtl
    split <;> rfl
  have mask (n : Nat) (w : Word) : (r.setM n w).pc = r.pc := by
    unfold Regs.setM
    split <;> rfl
  have vector (n : Reg) (w : Vec) : (r.setV n w).pc = r.pc := rfl
  unfold windowStore
  simp only [apply_ite Prod.fst, apply_ite Regs.pc, Regs.setS_pc, ctl, mask, vector, ite_self]

/-- All that is pending lands: nothing but registers, what is pending and where the chunk began has changed, and not the PC. -/
theorem thread_landAll_self (s : State) (h : Hart) : ∃ r b, (landAll s h).thread h =
    { s.thread h with pend := [], regs := r, chunk := { (s.thread h).chunk with begun := b } } ∧
    r.pc = (s.thread h).regs.pc ∧ ((s.thread h).pend = [] → r = (s.thread h).regs) := by
  have lands (l : List WStore) (u : State) (e : (u.thread h).pend = l) :
      ∃ r b, (l.foldl (fun s _ => landPending s h) u).thread h =
        { u.thread h with pend := [], regs := r, chunk := { (u.thread h).chunk with begun := b } } ∧
        r.pc = (u.thread h).regs.pc ∧ (l = [] → r = (u.thread h).regs) := by
    induction l generalizing u with
    | nil => exact ⟨(u.thread h).regs, (u.thread h).chunk.begun, by rw [List.foldl_nil, ← e], rfl, fun _ => rfl⟩
    | cons w r ih =>
      have first := thread_landPending_self u h
      rw [Thread.landed_cons e] at first
      obtain ⟨x, b, rest, pc, _⟩ := ih (landPending u h) (by rw [first])
      rw [first] at pc
      exact ⟨x, b, by rw [List.foldl_cons, rest, first], pc.trans (pc_windowStore ..), nofun⟩
  exact lands _ s rfl

@[simp] theorem cur_landPending (s : State) (h : Hart) : (landPending s h).cur = s.cur := by
  unfold landPending
  dsimp only
  split
  · rfl
  · split <;> simp
@[simp] theorem cur_landAll (s : State) (h : Hart) : (landAll s h).cur = s.cur := foldl_keeps _ State.cur _ _ fun _ _ =>
    cur_landPending ..

theorem me_landAll {s : State} {h : Hart} (e : s.cur = h) : ∃ r b, (landAll s h).me =
    { s.me with pend := [], regs := r, chunk := { s.me.chunk with begun := b } } ∧ r.pc = s.me.regs.pc ∧ (s.me.pend = [] → r =
        s.me.regs) := by
  subst e
  rw [State.me, cur_landAll]
  exact thread_landAll_self s s.cur

/-! ## Gangs -/

theorem thread_foldl_setThread {h : Hart} (l : List Hart) (f : State → Hart → Thread) (s : State) (other : ∀ m ∈ l, m ≠ h) :
    (l.foldl (fun s m => s.setThread m (f s m)) s).thread h = s.thread h := by
  induction l generalizing s with
  | nil => rfl
  | cons m r ih =>
    refine (ih _ fun k hk => other k (List.mem_cons_of_mem _ hk)).trans ?_
    rw [State.thread_setThread, if_neg (other m List.mem_cons_self).symm]

/-- A leader's head sends its members on, and leaves its own thread set as it is. -/
theorem State.thread_leadTo_self (s : State) (h : Hart) (g : Nat) (x : Gang) (pc : Word) : (s.leadTo h g x pc).thread h =
    s.thread h := by
  unfold State.leadTo
  dsimp only
  split
  · refine (thread_foldl_setThread _ (fun s m => (s.thread m).sendTo pc) s fun m hm => ?_)
    have := (List.mem_filter.1 hm).2
    simp only [Bool.and_eq_true, bne_iff_ne] at this
    exact this.1
  · rfl

theorem thread_noteGang_self (s : State) (h : Hart) (next : Word) : (noteGang s h next).thread h = s.thread h := by
  unfold noteGang
  dsimp only
  split
  · rfl
  · split
    · rfl
    · split
      · exact State.thread_leadTo_self ..
      · rfl
@[simp] theorem cur_noteGang (s : State) (h : Hart) (next : Word) : (noteGang s h next).cur = s.cur := by
  unfold noteGang
  dsimp only
  (repeat' split) <;> simp

theorem me_noteGang (s : State) (next : Word) : (noteGang s s.cur next).me = s.me := by
  rw [State.me, cur_noteGang, thread_noteGang_self, State.me]

@[simp] theorem State.thread_bindSplit (s : State) (h k : Hart) : (s.bindSplit h).thread k = s.thread k := by
  unfold State.bindSplit
  dsimp only
  (repeat' split) <;> rfl
@[simp] theorem State.cur_bindSplit (s : State) (h : Hart) : (s.bindSplit h).cur = s.cur := by
  unfold State.bindSplit
  dsimp only
  (repeat' split) <;> rfl
/-- The state in which a gang member has left its gang, with its bound core as SPLIT notes it (R203). -/
def State.leftGang (s : State) (h : Hart) : State := (s.setThread h { s.thread h with gang := none }).bindSplit h

theorem State.me_leftGang {s : State} {h : Hart} (e : s.cur = h) : (s.leftGang h).me = { s.me with gang := none } := by
  subst e
  rw [State.me, State.leftGang, State.cur_bindSplit, State.thread_bindSplit]
  exact State.thread_setThread_self ..

/-- SPLIT leaves the thread set as it leaves its gang, whether the gang dissolves or not. -/
theorem exec_split_me {s : State} {g : Nat} (unsaved : s.me.savemode = none) (gang : s.me.gang = some g) (e : s.mayEnd = true) :
    ∃ t, exec .split s = .next t ∧ t.me = { s.ended.pastStrong.me with gang := none } := by
  have leaves : exec .split s = match (s.ended.pastStrong.leftGang s.ended.cur).gang g with
      | some x => .next (if x.todo.isEmpty && x.members.head? != some s.ended.cur then
          (s.ended.pastStrong.leftGang s.ended.cur).setGang g none else s.ended.pastStrong.leftGang s.ended.cur)
      | none => .next (s.ended.pastStrong.leftGang s.ended.cur) := by
    simp only [exec, execSplit, unsaved, gang, Option.isSome_none, Bool.false_eq_true, if_false, withChunkEnd_mayEnd _ _ e] <;>
        rfl
  rw [leaves, ← State.me_leftGang (h := s.ended.cur) (by simp [State.pastStrong])]
  split
  · split <;> exact ⟨_, rfl, rfl⟩
  · exact ⟨_, rfl, rfl⟩

end Sys2Proof.Machine
end

section
open Sys2Proof Sys2Proof.Machine

/-- Settles O9: each form ends its chunk, or not, as sections 02 and 08 say, and the thread set beyond the boundary is read off it. -/
theorem systemControl : Obligations.SystemControl := by
  refine ⟨fun s scope => ⟨rfl, fun e => withChunkEnd_mayEnd _ _ e, fun r => withRelease_mayRelease _ _ r, fun off core => ?_,
      fun off other => ?_⟩,
    fun g s unsaved => ⟨fun gang => ?_, fun alone => ?_, fun alone e => ?_, fun gang e => ?_, fun core e => ?_, fun hob r w =>
        ?_,
      fun hob r free => ?_⟩⟩
  · simp only [exec, execBrk, off, core]
    rfl
  · simp only [exec, execBrk, off, if_neg other]
    rfl
  · simp [exec, execGang, illegal, gang, Option.isSome_iff_ne_none.2 gang]
  · simp [exec, execSplit, illegal, unsaved, alone]
  · have going : exec (.gang g) s = _ := (if_neg (by simp [unsaved, alone])).trans (withChunkEnd_mayEnd _ _ e)
    refine ⟨_, going, ?_⟩
    rw [State.me_boundary (by rfl), State.me_setMe]
    exact ⟨rfl, rfl, rfl⟩
  · obtain ⟨k, e'⟩ := Option.ne_none_iff_exists'.1 gang
    obtain ⟨t, going, me⟩ := exec_split_me unsaved e' e
    exact ⟨t, going, by rw [me], by rw [me]⟩
  · have going : exec .halt s = _ := (if_neg core).trans (withChunkEnd_mayEnd _ _ e)
    obtain ⟨r, b, lands, _, kept⟩ := me_landAll (s := noteGang s.ended s.ended.cur (s.ended.fall s.ended.cur)) (cur_noteGang ..)
    rw [me_noteGang] at lands kept
    refine ⟨_, going, ?_⟩
    rw [State.me_boundary (by rfl), State.me_setMe, lands]
    exact ⟨rfl, rfl, kept, rfl⟩
  · exact (if_pos hob).trans ((withRelease_mayRelease _ _ r).trans (if_pos (by rwa [State.cur_released])))
  · exact (if_pos hob).trans ((withRelease_mayRelease _ _ r).trans (if_neg (by rw [State.cur_released, free]; nofun)))

end

section
/-! SUPPORT. REP: its body, its passes and the stagger of its fields (R192 to R195). -/

namespace Sys2Proof.Machine

/-- What bars a REP, as the statement of R192 asks it of each head of the body. -/
theorem barred_eq (s : State) (l : List Word) :
    l.any (fun pc => match s.headOf s.cur pc with | some x => repBars x.1 | none => false) =
      l.any fun pc => ((s.headOf s.cur pc).map fun x => repBars x.1).getD false := by
  congr 1
  funext pc
  cases s.headOf s.cur pc <;> rfl

/-- A step out of a REP's head, once its position has been noted, moves the PC and nothing else of the registers. -/
theorem State.me_regs_put_goto {s : State} (gang : s.me.gang = none) (path : s.me.path = []) (x : Option RepState) (pc : Word) :
    ((s.setMe { s.me with regs := { s.me.regs with rep := x } }).goto s.cur pc).me.regs = { s.me.regs with pc := pc, rep := x } := by
  have into := State.goto_of_no_gang (s.setMe { s.me with regs := { s.me.regs with rep := x } }) pc
    (by rw [State.me_setMe]; exact gang) (by rw [State.me_setMe]; exact path)
  have here : (s.setMe { s.me with regs := { s.me.regs with rep := x } }).cur = s.cur := rfl
  rw [here] at into
  rw [into, State.me_setMe, State.me_setMe]
  rfl

/-- The staggered number of a register (R193). -/
def Regs.staggered (r : Regs) (x : RepState) (n : Reg) : Reg :=
  if (r.binding n).isSome then n else n + BitVec.ofNat 5 (x.pass * x.stride)

theorem stagger_eq {r : Regs} {x : RepState} (e : r.rep = some x) (i : Instr) : stagger r i = mapVec (r.staggered x) i := by
  rw [stagger, e] <;> rfl

theorem Regs.staggered_bound {r : Regs} {n : Reg} (x : RepState) (e : (r.binding n).isSome) : r.staggered x n = n := if_pos e
theorem Regs.staggered_free {r : Regs} {n : Reg} (x : RepState) (e : r.binding n = none) :
    (r.staggered x n).toNat = (n.toNat + x.pass * x.stride) % 32 := by
  rw [Regs.staggered, if_neg (by simp [e]), BitVec.toNat_add, BitVec.toNat_ofNat]
  omega

end Sys2Proof.Machine
end

section
open Sys2Proof Sys2Proof.Machine

/-- Settles O7: REP by the branches of its checks, a pass by those of `State.advance`, the fields by the one function that moves them. -/
theorem repetition : Obligations.Repetition := by
  refine ⟨fun n count stride s => ?_, fun s r rep gang path => ⟨fun more => ?_, fun last next => ?_, fun last done => ?_, ?_,
      fun d a b t m => ?_⟩⟩
  · intro body barred waits
    refine ⟨fun w => if_pos w, fun w b => ?_, fun w b c => ?_, fun w b c alone => ?_⟩
    · exact (if_neg (Bool.eq_false_iff.1 w)).trans (if_pos ((barred_eq s body.1).trans b))
    · exact (if_neg (Bool.eq_false_iff.1 w)).trans ((if_neg (Bool.eq_false_iff.1 ((barred_eq s body.1).trans b))).trans (if_pos c))
    · have going : exec (.rep n count stride) s = _ :=
        (if_neg (Bool.eq_false_iff.1 w)).trans ((if_neg (Bool.eq_false_iff.1 ((barred_eq s body.1).trans b))).trans (if_neg c))
      refine ⟨_, going, ?_⟩
      rw [← State.past, State.past_alone alone, State.setRegs, State.me_setMe, State.me_goto_alone alone]
      exact ⟨rfl, rfl, sameButHart_trans (sameButHart_goto_alone alone _) (sameButHart_setMe _ _)⟩
  · rw [State.past, State.advance]
    simp only [show (s.thread s.cur).regs.rep = some r from rep, if_pos more]
    exact State.me_regs_put_goto gang path _ _
  · rw [State.past, State.advance]
    simp only [show (s.thread s.cur).regs.rep = some r from rep, if_neg (Nat.not_lt.2 last), if_pos next]
    exact State.me_regs_put_goto gang path _ _
  · rw [State.past, State.advance]
    simp only [show (s.thread s.cur).regs.rep = some r from rep, if_neg (Nat.not_lt.2 last), if_neg (Nat.not_lt.2 done)]
    exact State.me_regs_put_goto gang path _ _
  · exact ⟨s.me.regs.staggered r, stagger_eq rep, fun n => ⟨Regs.staggered_bound r, Regs.staggered_free r⟩⟩
  · refine ⟨s.me.regs.staggered r d, s.me.regs.staggered r a, s.me.regs.staggered r b, stagger_eq rep _, fun p hp => ?_⟩
    have moved : p.2 = s.me.regs.staggered r p.1 := by
      simp only [List.mem_cons, List.not_mem_nil, or_false] at hp
      obtain rfl | rfl | rfl := hp <;> rfl
    rw [moved]
    exact ⟨Regs.staggered_bound r, Regs.staggered_free r⟩

end

section
/-! SUPPORT. How a chunk ends: the token, the squash and the overrun that a commit counts (R68, R69, R71, R72, R251). -/

namespace Sys2Proof.Machine

/-! ## Outside a gang, and inside one -/

theorem State.gangOf_of_no_gang {s : State} {h : Hart} (gang : (s.thread h).gang = none) : s.gangOf h = none := by
  rw [State.gangOf, gang]; rfl
theorem State.leaderOpen_of_no_gang {s : State} {h : Hart} (gang : (s.thread h).gang = none) : s.leaderOpen h = none := by
  unfold State.leaderOpen
  rw [State.gangOf_of_no_gang gang]
  rfl
/-- A member whose leader's chunk is open waits for it. -/
theorem State.leaderOpen_of_member {s : State} {h k : Hart} {g : Nat} {x : Gang} (gang : (s.thread h).gang = some g)
    (known : s.gang g = some x) (first : x.members.head? = some k) (other : k ≠ h) (running : (s.thread k).run = .running)
    (begun : (s.thread k).chunk.executed ≠ 0) : s.leaderOpen h = some k := by
  unfold State.leaderOpen
  simp [State.gangOf, gang, known, first, other, running, begun]

theorem State.tokenFree_iff (s : State) (h : Hart) : s.tokenFree h = true ↔ ∀ k, s.tokenOf (arbOf h) = some k → k = h := by
  cases e : s.tokenOf (arbOf h) <;> simp [State.tokenFree, e]

theorem State.mayEnd_iff (s : State) : s.mayEnd = true ↔
    s.leaderOpen s.cur = none ∧ s.tokenFree s.cur = true ∧ s.me.chunk.overlaps = false ∧ s.storesWait s.cur = false := by
  simp [State.mayEnd, State.me, and_assoc]
theorem withChunkEnd_held {s : State} (k : State → Result) (gang : s.me.gang = none) (taken : s.tokenFree s.cur = false) :
    withChunkEnd s k = .next s := by
  unfold withChunkEnd State.endChunk
  rw [State.leaderOpen_of_no_gang gang, taken]
  rfl
theorem withChunkEnd_overlaps {s : State} (k : State → Result) (gang : s.me.gang = none) (free : s.tokenFree s.cur = true)
    (meets : s.me.chunk.overlaps = true) : withChunkEnd s k = .next (s.squash s.cur) := by
  unfold withChunkEnd State.endChunk
  rw [State.leaderOpen_of_no_gang gang, free, show (s.thread s.cur).chunk.overlaps = true from meets]
  rfl
theorem withChunkEnd_leader {s : State} {h : Hart} (k : State → Result) (leader : s.leaderOpen s.cur = some h) :
    withChunkEnd s k = .next (s.markEnded h) := by
  unfold withChunkEnd State.endChunk
  rw [leader]

/-! ## The token -/

@[simp] theorem State.tokenOf_setToken (s : State) (a : Nat) (x : Option Hart) : (s.setToken a x).tokenOf a = x := by
  unfold State.setToken State.tokenOf
  split
  · rw [State.cluster_setCluster, if_pos rfl]
  · rw [State.stack_setStack, if_pos rfl]
@[simp] theorem State.stat_setToken (s : State) (a c : Nat) (x : Option Hart) : ((s.setToken a x).cluster c).stat = (s.cluster c).stat := by
  unfold State.setToken
  split
  · rw [State.cluster_setCluster]
    split
    next e => rw [e]
    next => rfl
  · rfl
@[simp] theorem State.thread_setToken (s : State) (a : Nat) (x : Option Hart) (h : Hart) : (s.setToken a x).thread h = s.thread
    h := by
  unfold State.setToken
  split <;> rfl
@[simp] theorem State.cores_setToken (s : State) (a : Nat) (x : Option Hart) : (s.setToken a x).cores = s.cores := by
  unfold State.setToken
  split <;> rfl
@[simp] theorem State.net_setToken (s : State) (a : Nat) (x : Option Hart) : (s.setToken a x).net = s.net := by
  unfold State.setToken
  split <;> rfl

/-! ## The squash -/

/-- The thread set once its chunk has been squashed outside a gang. -/
def Thread.squashed (t : Thread) : Thread :=
  { t with regs := t.chunk.begun, chunk := { begun := t.chunk.begun }, replay := t.chunk.log ++ t.replay, path := [], wait :=
      .none
           mnf := t.mnf.map (fun m => { m with after := max m.after t.chunk.executed }), squashes := t.squashes + 1 }

/-- The state with the chunk of the issuing hart squashed outside a gang, and the squash counted at its cluster. -/
def State.squashed (s : State) : State :=
  let u := (s.rewind s.cur []).setMe { (s.rewind s.cur []).me with squashes := s.me.squashes + 1 }
  if kindOf s.cur = .core then u.countCl (hartCl s.cur) cSquash 1 else u

@[simp] theorem State.cur_squashed (s : State) : s.squashed.cur = s.cur := by unfold State.squashed; dsimp only; split <;> rfl
theorem State.me_squashed (s : State) : s.squashed.me = s.me.squashed := by
  have thread : s.squashed.thread s.cur =
      ((s.rewind s.cur []).setMe { (s.rewind s.cur []).me with squashes := s.me.squashes + 1 }).thread s.cur := by
    unfold State.squashed
    dsimp only
    split <;> rfl
  have rewound : (s.rewind s.cur []).me = _ := State.thread_setThread_self ..
  have me := State.me_setMe (s.rewind s.cur []) { (s.rewind s.cur []).me with squashes := s.me.squashes + 1 }
  rw [rewound] at thread me
  rw [State.me, State.cur_squashed, thread]
  exact me
theorem State.mem_squashed (s : State) : s.squashed.mem = s.mem := by unfold State.squashed; dsimp only; split <;> rfl
theorem State.net_squashed (s : State) : s.squashed.net = s.net := by unfold State.squashed; dsimp only; split <;> rfl
theorem State.stat_squashed {s : State} (core : kindOf s.cur = .core) :
    (s.squashed.cluster (hartCl s.cur)).stat = bump (s.cluster (hartCl s.cur)).stat cSquash 1 := by
  rw [State.squashed]
  simp only [if_pos core, State.countCl, State.cluster_setCluster, if_pos]
  rfl
theorem State.tokenOf_squashed (s : State) (a : Nat) : s.squashed.tokenOf a = s.tokenOf a := by
  unfold State.squashed
  dsimp only
  split
  · unfold State.tokenOf State.countCl
    rw [State.cluster_setCluster]
    split
    · split
      next e => rw [e]; rfl
      next => rfl
    · rfl
  · rfl

theorem State.squash_of_no_gang {s : State} (gang : s.me.gang = none) :
    s.squash s.cur = if 8 ≤ s.me.squashes + 1 ∧ s.tokenOf (arbOf s.cur) = none then
      s.squashed.setToken (arbOf s.cur) (some s.cur) else s.squashed := by
  have restarts : s.restart s.cur = s.rewind s.cur [] := by
    unfold State.restart
    rw [State.gangOf_of_no_gang gang]
  have alone : s.squashed.headsGang s.cur = false := by
    rw [State.headsGang, State.gangOf_of_no_gang]
    · rfl
    · rw [← State.cur_squashed s]
      exact (congrArg Thread.gang s.me_squashed).trans gang
  unfold State.squash
  rw [restarts]
  change (if (decide (8 ≤ s.me.squashes + 1) && (s.squashed.tokenOf (arbOf s.cur)).isNone && !s.squashed.headsGang s.cur) =
      true then
    s.squashed.setToken (arbOf s.cur) (some s.cur) else s.squashed) = _
  simp [alone, State.tokenOf_squashed]

/-- A squash outside a gang: the thread set returns to the start of its chunk, memory and the fabric are as before. -/
theorem State.squash_alone {s : State} (gang : s.me.gang = none) :
    (s.squash s.cur).me = s.me.squashed ∧ (s.squash s.cur).mem = s.mem ∧ (s.squash s.cur).net = s.net := by
  rw [State.squash_of_no_gang gang]
  split
  · refine ⟨?_, by rw [State.mem_setToken, State.mem_squashed], by rw [State.net_setToken, State.net_squashed]⟩
    rw [← State.me_squashed, State.me, State.me, State.cur_setToken, State.thread_setToken]
  · exact ⟨s.me_squashed, s.mem_squashed, s.net_squashed⟩
/-- The eighth squash in a row takes the token. -/
theorem State.tokenOf_squash {s : State} (gang : s.me.gang = none) (free : s.tokenFree s.cur = true) (eighth : 8 ≤
    s.me.squashes + 1) :
    (s.squash s.cur).tokenOf (arbOf s.cur) = some s.cur := by
  rw [State.squash_of_no_gang gang]
  split
  · exact State.tokenOf_setToken ..
  next taken =>
    obtain ⟨k, e⟩ := Option.ne_none_iff_exists'.1 fun none => taken ⟨eighth, none⟩
    rw [State.tokenOf_squashed, e, (s.tokenFree_iff s.cur).1 free k e]
theorem State.stat_squash {s : State} (gang : s.me.gang = none) (core : kindOf s.cur = .core) :
    ((s.squash s.cur).cluster (hartCl s.cur)).stat = bump (s.cluster (hartCl s.cur)).stat cSquash 1 := by
  rw [State.squash_of_no_gang gang]
  split
  · rw [State.stat_setToken, State.stat_squashed core]
  · exact State.stat_squashed core

/-! ## The overrun that a commit counts -/

@[simp] theorem State.cores_writeAt (s : State) (h : Hart) (k : Nat) (b : List Byte) : (s.writeAt h k b).cores = s.cores := by
  change (s.writeAt h k b).beyond.cores = s.beyond.cores
  rw [State.beyond_writeAt]
@[simp] theorem cores_commitStore (s : State) (h : Hart) (w : WStore) : (commitStore s h w).cores = s.cores := by
  unfold commitStore
  split
  · exact State.cores_writeAt ..
  · rfl

@[simp] theorem State.cores_countCl (s : State) (c n k : Nat) : (s.countCl c n k).cores = s.cores := rfl
@[simp] theorem State.cores_endRedo (s : State) (h : Hart) : (s.endRedo h).cores = s.cores := by
  unfold State.endRedo
  split
  · split <;> rfl
  · rfl
@[simp] theorem State.cores_noteWindow (s : State) (h : Hart) (moved : Nat → Bool) : (s.noteWindow h moved).cores = s.cores := by
  unfold State.noteWindow
  split <;> rfl

/-- What a chunk has popped leaves its channels; the overrun stays. -/
theorem overrun_settlePops (s : State) (h k : Hart) (pops : Tab Nat) : ((s.settlePops h pops).core (hartCore k)).overrun =
    (s.core (hartCore k)).overrun := by
  unfold State.settlePops
  dsimp only
  split
  · rw [State.core_setCore]
    split
    next e => rw [e]; exact foldl_keeps _ Core.overrun _ _ fun _ _ => rfl
    next => rfl
  · rfl

theorem State.core_congr {s t : State} (e : s.cores = t.cores) (k : Nat) : s.core k = t.core k := by rw [State.core, e, State.core]

theorem overrun_commit (s : State) (h : Hart) :
    ((s.commit h).core (hartCore h)).overrun = (s.core (hartCore h)).overrun + BitVec.ofNat 64 (s.thread h).chunk.past := by
  have stored : ((s.thread h).chunk.stores.foldl (fun s w => commitStore s h w) s).cores = s.cores :=
    foldl_keeps _ State.cores _ _ fun _ _ => cores_commitStore ..
  have settled := overrun_settlePops ((s.thread h).chunk.stores.foldl (fun s w => commitStore s h w) s) h h (s.thread h).chunk.pops
  rw [State.core_congr stored] at settled
  unfold State.commit
  dsimp only
  rw [← settled]
  generalize State.settlePops _ h _ = u
  have beyond (v : State) (t : Thread) (moved : Nat → Bool) :
      ((((if v.tokenOf (arbOf h) = some h then v.setToken (arbOf h) none else v).endRedo h).setThread h t).noteWindow h
          moved).cores = v.cores := by
    rw [State.cores_noteWindow]
    refine (State.cores_endRedo ..).trans ?_
    split
    · exact State.cores_setToken ..
    · rfl
  rw [State.core_congr (beyond ..)]
  have breaks : (if (s.thread h).chunk.brks = 0 then u else u.countCl (hartCl h) cBreak (s.thread h).chunk.brks).cores =
      u.cores := by
    split <;> rfl
  split
  next none => rw [State.core_congr breaks, none]; exact (BitVec.add_zero _).symm
  next => rw [State.core_setCore_self, State.core_congr breaks]

end Sys2Proof.Machine
end

section
open Sys2Proof Sys2Proof.Machine

/-- Settles O10: a head that ends the chunk by the checks in their order, a squash by what it leaves of thread set, token and counters,
and the overrun step by step through the commit. -/
theorem chunksEnd : Obligations.ChunksEnd := by
  refine ⟨fun s => ⟨fun gang taken => ?_, fun gang free meets => ?_⟩,
    fun s => ⟨fun running ended e arg => ?_, fun gang running ended free reason => ?_,
      fun g x k gang known first other running begun => withChunkEnd_leader _ (State.leaderOpen_of_member gang known first
          other running begun),
      overrun_commit s s.cur, fun e => if_pos e, fun e => if_pos e, State.me_setMe ..⟩⟩
  · refine withChunkEnd_held _ gang (Bool.eq_false_iff.2 fun free => ?_)
    obtain ⟨k, e, other⟩ := taken
    exact other ((s.tokenFree_iff s.cur).1 free k e)
  · have free := (s.tokenFree_iff s.cur).2 free
    obtain ⟨me, mem, net⟩ := State.squash_alone gang
    refine ⟨_, withChunkEnd_overlaps _ gang free meets, ?_⟩
    rw [me]
    exact ⟨rfl, rfl, rfl, rfl, mem, net, State.tokenOf_squash gang free, State.stat_squash gang⟩
  · obtain ⟨leader, free, meets, stores⟩ := s.mayEnd_iff.1 e
    simp [exec, execChunkCommit, ← State.me.eq_def, running, ended, leader, free, meets, stores, arg, State.ended]
  · have free := (s.tokenFree_iff s.cur).2 free
    simp [exec, execChunkCommit, ← State.me.eq_def, running, ended, State.leaderOpen_of_no_gang gang, free, reason]

end

section
/-! SUPPORT. Records in stack memory: 64 bytes whose page translates are read and written where they stand (R306 to R310, R34).
    -/

namespace Sys2Proof.Machine

/-! ## The 64 bytes of a record share their translation -/

/-- Every cached translation that meets the 64 bytes at `v` covers them all. -/
def State.wholeAt (s : State) (p v : Nat) : Prop :=
  ∀ st, ∀ e ∈ (s.stack st).tlb, e.part = p → rangesMeet e.va e.size v 64 = true → e.va ≤ v ∧ v + 64 ≤ e.va + e.size

theorem TlbEntry.size_pos (e : TlbEntry) : 0 < e.size := by
  unfold TlbEntry.size
  split <;> decide
theorem TlbEntry.covers_shift {e : TlbEntry} {p v off : Nat} (lt : off < 64)
    (whole : e.part = p → rangesMeet e.va e.size v 64 = true → e.va ≤ v ∧ v + 64 ≤ e.va + e.size) :
    e.covers p (v + off) = e.covers p v := by
  have pos := e.size_pos
  simp only [rangesMeet, Bool.and_eq_true, decide_eq_true_eq] at whole
  rw [Bool.eq_iff_iff]
  simp only [TlbEntry.covers, Bool.and_eq_true, beq_iff_eq, decide_eq_true_eq]
  constructor
  · rintro ⟨⟨part, low⟩, high⟩
    have := whole part (by omega)
    omega
  · rintro ⟨⟨part, low⟩, high⟩
    have := whole part (by omega)
    omega

theorem walkLevels_shift (s : State) (st p v off table : Nat) (l : List (Nat × Nat × Nat × Nat)) (slice : (v + off) % 2 ^ 54 /
    2 ^ 21 = v % 2 ^ 54 / 2 ^ 21)
    (same : ∀ x ∈ l, (v + off) / 2 ^ x.1 = v / 2 ^ x.1 ∧ (v + off) / x.2.2.1 = v / x.2.2.1) :
    walkLevels s st p (v + off) table l = walkLevels s st p v table l := by
  induction l generalizing table with
  | nil => rfl
  | cons x r ih =>
    obtain ⟨sh, cnt, page, next⟩ := x
    obtain ⟨index, base⟩ := same _ List.mem_cons_self
    unfold walkLevels
    dsimp only at index base ⊢
    rw [index, base, slice, ih _ fun y hy => same y (List.mem_cons_of_mem _ hy)]
theorem walk_shift (s : State) (st p : Nat) {v off : Nat} (align : v % 64 = 0) (lt : off < 64) : walk s st p (v + off) = walk s
    st p v := by
  unfold walk
  split
  · rfl
  · refine walkLevels_shift _ _ _ _ _ _ _ (by omega) ?_
    simp only [List.mem_cons, List.not_mem_nil, or_false, forall_eq_or_imp, forall_eq, Nat.div_zero, and_true, and_self]
    refine ⟨?_, ?_, ?_, ?_⟩ <;> omega

theorem State.lookupPage_shift {s : State} {p v off : Nat} (st : Nat) (w : Bool) (whole : s.wholeAt p v) (align : v % 64 = 0)
    (lt : off < 64) :
    s.lookupPage st p (v + off) w = s.lookupPage st p v w := by
  have covers (e) (he : e ∈ (s.stack st).tlb) : e.covers p (v + off) = e.covers p v := TlbEntry.covers_shift lt (whole st e he)
  unfold State.lookupPage
  dsimp only
  rw [walk_shift s st p align lt, List.find?_congr fun e he => by rw [covers e he], List.filter_congr (q := fun f => !f.covers
      p v) fun e he => by rw [covers e he]]

/-- A leaf that a walk finds covers the 64 bytes. -/
theorem walkLevels_leaf {s : State} {st p v table : Nat} {l : List (Nat × Nat × Nat × Nat)} {e : TlbEntry} (align : v % 64 = 0)
    (pages : ∀ x ∈ l, x.2.2.1 = 0 ∨ x.2.2.1 = 2 ^ 21 ∨ x.2.2.1 = 2 ^ 16) (found : walkLevels s st p v table l = .leaf e) :
    e.part = p ∧ e.va ≤ v ∧ v + 64 ≤ e.va + e.size := by
  induction l generalizing table with
  | nil => exact Walk.noConfusion found
  | cons x r ih =>
    obtain ⟨sh, cnt, page, next⟩ := x
    have size := pages _ List.mem_cons_self
    have covers (hp : page ≠ 0) : v / page * page ≤ v ∧ v + 64 ≤ v / page * page + if (page == 2 ^ 21) = true then 2 ^ 21 else
        2 ^ 16 := by
      rcases size with zero | big | small
      · exact absurd zero hp
      · simp only at big
        subst big
        rw [if_pos (by rfl)]
        omega
      · simp only at small
        subst small
        rw [if_neg (by decide)]
        omega
    unfold walkLevels at found
    dsimp only at found
    split at found
    · cases found
    · split at found
      · cases found
      · split at found
        · split at found
          · cases found
          next hp =>
            split at found
            · cases found
              exact ⟨rfl, covers hp⟩
            · split at found
              · cases found
              · cases found
                exact ⟨rfl, covers hp⟩
        · split at found
          · cases found
          · exact ih (fun y hy => pages y (List.mem_cons_of_mem _ hy)) found
theorem walk_leaf {s : State} {st p v : Nat} {e : TlbEntry} (align : v % 64 = 0) (found : walk s st p v = .leaf e) :
    e.part = p ∧ e.va ≤ v ∧ v + 64 ≤ e.va + e.size := by
  unfold walk at found
  split at found
  · cases found
  · refine walkLevels_leaf align ?_ found
    simp

/-! ## Cached translations -/

/-- The entry that the TLB slice of stack `st` holds for each of the 64 bytes at `v`. -/
def State.caches (s : State) (st p v : Nat) (w : Bool) (e : TlbEntry) : Prop :=
  ∀ off, off < 64 → (s.stack st).tlb.find? (fun e => e.covers p (v + off) && e.allows w) = some e

/-- The cached translations lead from stack `st`, over at most `n` redirects, to the byte that holds `v`. -/
inductive CachedTo (s : State) (p acc v : Nat) (w : Bool) (k : Nat) : Nat → Nat → Prop
  | here {n st slot : Nat} {e : TlbEntry} (cached : s.caches st p v w e) (inside : s.stackIn p st = true) (leaf : e.redir = none)
      (tile : s.slotFor acc (v / 2 ^ 16) w = some slot) (key : k = stackKey slot st (e.frame + (v - e.va))) : CachedTo s p acc
          v w k n st
  | further {n st st' : Nat} {e : TlbEntry} (cached : s.caches st p v w e) (inside : s.stackIn p st = true) (redirect : e.redir = some st')
      (rest : CachedTo s p acc v w k n st') : CachedTo s p acc v w k (n + 1) st

theorem State.lookupPage_of_caches {s : State} {st p v off : Nat} {w : Bool} {e : TlbEntry} (cached : s.caches st p v w e) (lt : off < 64) :
    s.lookupPage st p (v + off) w = (some e, s) := by
  unfold State.lookupPage
  rw [cached off lt]

theorem TlbEntry.le_of_caches {s : State} {st p v : Nat} {w : Bool} {e : TlbEntry} (cached : s.caches st p v w e) : e.va ≤ v := by
  have := List.find?_some (cached 0 (by decide))
  simp only [TlbEntry.covers, Bool.and_eq_true, decide_eq_true_eq] at this
  omega

/-- What the TLBs hold is translated without a walk. -/
theorem CachedTo.xlateFrom {s : State} {p acc v k n st off : Nat} {w : Bool} (c : CachedTo s p acc v w k n st) (align : v % 64
    = 0) (lt : off < 64) :
    s.xlateFrom p acc (v + off) w st true n = (.ok (k + off), s) := by
  have tile : (v + off) / 2 ^ 16 = v / 2 ^ 16 := by omega
  induction c with
  | @here n st slot e cached inside leaf hslot key =>
    have once : s.xlateAt st p acc (v + off) w true = (.ok (k + off), s) := by
      unfold State.xlateAt
      have low := TlbEntry.le_of_caches cached
      have moved : stackKey slot st (e.frame + (v + off - e.va)) = k + off := by rw [key, stackKey, stackKey]; omega
      simp only [inside, State.lookupPage_of_caches cached lt, leaf, tile, hslot, moved]
      rfl
    cases n with
    | zero => exact once
    | succ n => rw [State.xlateFrom, once]
  | @further n st st' e cached inside redirect rest ih =>
    have once : s.xlateAt st p acc (v + off) w true = (.redirect st', s) := by
      unfold State.xlateAt
      simp only [inside, State.lookupPage_of_caches cached lt, redirect]
      rfl
    rw [State.xlateFrom, once]
    exact ih

/-- Nothing but the TLBs, the stacks of the partition and the slots of tiles decides where cached translations lead. -/
theorem CachedTo.congr {s t : State} {p acc v k n st : Nat} {w : Bool} (c : CachedTo s p acc v w k n st)
    (tlb : ∀ st, (t.stack st).tlb = (s.stack st).tlb) (inside : ∀ st, t.stackIn p st = s.stackIn p st)
    (slot : t.slotFor acc (v / 2 ^ 16) w = s.slotFor acc (v / 2 ^ 16) w) : CachedTo t p acc v w k n st := by
  have cached {st : Nat} {e : TlbEntry} (h : s.caches st p v w e) : t.caches st p v w e := fun off lt => by rw [tlb, h off lt]
  induction c with
  | here h i leaf hslot key => exact .here (cached h) ((inside _).trans i) leaf (slot.trans hslot) key
  | further h i redirect _ ih => exact .further (cached h) ((inside _).trans i) redirect ih

/-! ## A walk leaves what it finds in the TLBs -/

/-- What a lookup does to the TLB of its own stack, and to no other. -/
theorem State.lookupPage_cases (s : State) (st p v : Nat) (w : Bool) :
    (∃ e, (s.stack st).tlb.find? (fun e => e.covers p v && e.allows w) = some e ∧ s.lookupPage st p v w = (some e, s)) ∨
    (∃ u, s.lookupPage st p v w = (none, u) ∧ ∀ k, (u.stack k).tlb = (s.stack k).tlb) ∨
    (∃ e, walk s st p v = .leaf e ∧ e.allows w = true ∧ (s.lookupPage st p v w).1 = some e ∧
      (s.stack st).tlb.find? (fun e => e.covers p v && e.allows w) = none ∧
      ∀ k, ((s.lookupPage st p v w).2.stack k).tlb =
        if k = st then (s.stack st).tlb.filter (fun f => !f.covers p v) ++ [e] else (s.stack k).tlb) := by
  unfold State.lookupPage
  split
  next e found => exact .inl ⟨e, found, rfl⟩
  next none =>
    split
    · exact .inr (.inl ⟨_, rfl, fun _ => rfl⟩)
    · refine .inr (.inl ⟨_, rfl, fun k => ?_⟩)
      rw [State.countStack, State.stack_setStack]
      split
      next e => rw [e]
      next => rfl
    next e leaf =>
      split
      next allowed =>
        refine .inr (.inr ⟨e, leaf, allowed, rfl, none, fun k => ?_⟩)
        rw [State.stack_setStack]
        split <;> rfl
      next => exact .inr (.inl ⟨_, rfl, fun _ => rfl⟩)

theorem State.wholeAt_lookupPage {s : State} {p v : Nat} (st : Nat) (w : Bool) (whole : s.wholeAt p v) (align : v % 64 = 0) :
    (s.lookupPage st p v w).2.wholeAt p v := by
  rcases s.lookupPage_cases st p v w with ⟨e, _, same⟩ | ⟨u, same, tlb⟩ | ⟨e, leaf, _, _, _, tlb⟩
  · rw [same]; exact whole
  · rw [same]
    intro k e he
    rw [tlb] at he
    exact whole k e he
  · intro k f hf part meets
    rw [tlb] at hf
    split at hf
    · rcases List.mem_append.1 hf with old | new
      · exact whole st f (List.mem_of_mem_filter old) part meets
      · rw [List.mem_singleton.1 new]
        exact (walk_leaf align leaf).2
    · exact whole k f hf part meets

theorem State.caches_of_find {s : State} {st p v : Nat} {w : Bool} {e : TlbEntry} (whole : s.wholeAt p v)
    (found : (s.stack st).tlb.find? (fun e => e.covers p v && e.allows w) = some e) : s.caches st p v w e := fun off lt => by
  rw [List.find?_congr fun f hf => by rw [TlbEntry.covers_shift lt (whole st f hf)], found]

theorem State.caches_of_lookupPage {s u : State} {st p v : Nat} {w : Bool} {e : TlbEntry} (whole : s.wholeAt p v) (align : v % 64 = 0)
    (found : s.lookupPage st p v w = (some e, u)) : u.caches st p v w e := by
  have whole' := s.wholeAt_lookupPage st w whole align
  refine State.caches_of_find (by rwa [found] at whole') ?_
  rcases s.lookupPage_cases st p v w with ⟨f, cached, same⟩ | ⟨_, none, _⟩ | ⟨f, leaf, allowed, fst, _, tlb⟩
  · rw [found] at same
    cases same
    exact cached
  · rw [found] at none
    cases none
  · rw [found] at fst tlb
    cases fst
    obtain ⟨part, low, high⟩ := walk_leaf align leaf
    rw [tlb, if_pos rfl, List.find?_append, List.find?_eq_none.2, Option.none_or, List.find?_singleton, if_pos]
    · simp only [TlbEntry.covers, allowed, Bool.and_eq_true, beq_iff_eq, decide_eq_true_eq, and_true]
      exact ⟨⟨part, low⟩, by omega⟩
    · intro g hg
      have := (List.mem_filter.1 hg).2
      simp only [Bool.not_eq_true'] at this
      simp [this]

/-- A lookup of the same bytes leaves what a TLB holds for them. -/
theorem State.caches_lookupPage {s : State} {st p v : Nat} {w : Bool} {e : TlbEntry} (cached : s.caches st p v w e) (st' : Nat) :
    (s.lookupPage st' p v w).2.caches st p v w e := by
  rcases s.lookupPage_cases st' p v w with ⟨_, _, same⟩ | ⟨u, same, tlb⟩ | ⟨_, _, _, _, none, tlb⟩
  · rw [same]; exact cached
  · rw [same]
    intro off lt
    rw [tlb, cached off lt]
  · intro off lt
    rw [tlb]
    split
    next e' =>
      have := cached 0 (by decide)
      rw [Nat.add_zero, e', none] at this
      cases this
    next => exact cached off lt

/-- How a translation on one stack comes to a key, or to another stack. -/
theorem State.xlateAt_thru {s u : State} {st p acc v : Nat} {w : Bool} {r : Xres} (at' : s.xlateAt st p acc v w true = (r, u))
    (goes : (∃ k, r = .ok k) ∨ ∃ st', r = .redirect st') : ∃ e, s.stackIn p st = true ∧ s.lookupPage st p v w = (some e, u) ∧
      (∀ k, r = .ok k → e.redir = none ∧ ∃ slot, u.slotFor acc (v / 2 ^ 16) w = some slot ∧ k = stackKey slot st (e.frame + (v - e.va))) ∧
      ∀ st', r = .redirect st' → e.redir = some st' := by
  have stops {r' : Xres} (h : r' = r) (no : (∀ k, r' ≠ .ok k) ∧ ∀ k, r' ≠ .redirect k) : False := by
    subst h
    rcases goes with ⟨k, e⟩ | ⟨k, e⟩
    · exact no.1 k e
    · exact no.2 k e
  unfold State.xlateAt at at'
  split at at'
  · exact (stops (congrArg Prod.fst at') ⟨nofun, nofun⟩).elim
  next inside =>
    simp only [Bool.not_true, Bool.false_and, Bool.false_eq_true, if_false] at at'
    split at at'
    · exact (stops (congrArg Prod.fst at') ⟨nofun, nofun⟩).elim
    next e x found =>
      refine ⟨e, by simpa using inside, ?_⟩
      split at at'
      next redirect =>
        cases at'
        exact ⟨found, nofun, fun _ h => by cases h; exact redirect⟩
      next leaf =>
        split at at'
        · exact (stops (congrArg Prod.fst at') ⟨nofun, nofun⟩).elim
        next slot =>
          cases at'
          exact ⟨found, fun _ h => by cases h; exact ⟨leaf, _, slot, rfl⟩, nofun⟩

/-- A translation that succeeds leaves its way in the TLBs, and what they held for the same bytes. -/
theorem State.cached_of_xlateFrom {s u : State} {p acc v k n st : Nat} {w : Bool} (align : v % 64 = 0) (whole : s.wholeAt p v)
    (ok : s.xlateFrom p acc v w st true n = (.ok k, u)) :
    CachedTo u p acc v w k n st ∧ u.wholeAt p v ∧ ∀ st e, s.caches st p v w e → u.caches st p v w e := by
  have ends {s : State} {n st : Nat} (whole : s.wholeAt p v) (at' : s.xlateAt st p acc v w true = (.ok k, u)) :
      CachedTo u p acc v w k n st ∧ u.wholeAt p v ∧ ∀ st e, s.caches st p v w e → u.caches st p v w e := by
    obtain ⟨e, inside, found, leads, _⟩ := State.xlateAt_thru at' (.inl ⟨k, rfl⟩)
    obtain ⟨leaf, slot, tile, key⟩ := leads k rfl
    have walked := s.lookupPage_sameButTlb st p v w
    have stays := s.wholeAt_lookupPage st w whole align
    rw [found] at walked stays
    refine ⟨.here (State.caches_of_lookupPage whole align found) ?_ leaf tile key, stays, fun st' f cached => ?_⟩
    · rw [← inside]
      exact walked.keeps (fun s => s.stackIn p st) fun _ _ => rfl
    · have := State.caches_lookupPage cached st
      rwa [found] at this
  induction n generalizing s st with
  | zero => exact ends whole ok
  | succ n ih =>
    rw [State.xlateFrom] at ok
    split at ok
    next st' x at' =>
      obtain ⟨e, inside, found, _, leads⟩ := State.xlateAt_thru at' (.inr ⟨st', rfl⟩)
      have walked := s.lookupPage_sameButTlb st p v w
      have stays := s.wholeAt_lookupPage st w whole align
      rw [found] at walked stays
      obtain ⟨rest, whole', kept⟩ := ih stays ok
      have walked' := x.xlateFrom_sameButTlb p acc v w st' true n
      rw [ok] at walked'
      refine ⟨.further (kept _ _ (State.caches_of_lookupPage whole align found)) ?_ (leads st' rfl) rest, whole', fun st'' f
          cached => kept _ _ ?_⟩
      · rw [← inside]
        exact (sameButTlb_trans walked walked').keeps (fun s => s.stackIn p st) fun _ _ => rfl
      · have := State.caches_lookupPage cached st
        rwa [found] at this
    next => exact ends whole ok

/-- A later byte of the 64 translates as the first does, and leaves the same state. -/
theorem State.xlateFrom_shift {s u : State} {p acc v k n st off : Nat} {w : Bool} (align : v % 64 = 0) (whole : s.wholeAt p v)
    (lt : off < 64)
    (ok : s.xlateFrom p acc v w st true n = (.ok k, u)) : s.xlateFrom p acc (v + off) w st true n = (.ok (k + off), u) := by
  have tile : (v + off) / 2 ^ 16 = v / 2 ^ 16 := by omega
  have ends {s : State} {st : Nat} (whole : s.wholeAt p v) (at' : s.xlateAt st p acc v w true = (.ok k, u)) :
      s.xlateAt st p acc (v + off) w true = (.ok (k + off), u) := by
    obtain ⟨e, inside, found, leads, _⟩ := State.xlateAt_thru at' (.inl ⟨k, rfl⟩)
    obtain ⟨leaf, slot, hslot, key⟩ := leads k rfl
    have low := TlbEntry.le_of_caches (State.caches_of_lookupPage whole align found)
    have moved : stackKey slot st (e.frame + (v + off - e.va)) = k + off := by rw [key, stackKey, stackKey]; omega
    unfold State.xlateAt
    simp only [inside, State.lookupPage_shift st w whole align lt, found, leaf, tile, hslot, moved]
    rfl
  induction n generalizing s st with
  | zero => exact ends whole ok
  | succ n ih =>
    rw [State.xlateFrom] at ok ⊢
    split at ok
    next st' x at' =>
      obtain ⟨e, inside, found, _, leads⟩ := State.xlateAt_thru at' (.inr ⟨st', rfl⟩)
      have stays := s.wholeAt_lookupPage st w whole align
      rw [found] at stays
      have once : s.xlateAt st p acc (v + off) w true = (.redirect st', x) := by
        unfold State.xlateAt
        simp only [inside, State.lookupPage_shift st w whole align lt, found, leads st' rfl]
        rfl
      rw [once]
      exact ih stays ok
    next => rw [ends whole ok]

/-! ## Records -/

/-- The record at `rcd` stands at key `k`, and the TLBs hold the way there. -/
def State.hasRecord (s : State) (p : Nat) (rcd : Word) (k : Nat) (w : Bool) : Prop :=
  vaOf rcd % 64 = 0 ∧ (∀ i, i < 64 → plainKey (k + i) = true) ∧ CachedTo s p 0 (vaOf rcd) w k 8 (vaStack (vaOf rcd))

theorem State.hasRecord.congr {s t : State} {p k : Nat} {rcd : Word} {w : Bool} (r : s.hasRecord p rcd k w)
    (tlb : ∀ st, (t.stack st).tlb = (s.stack st).tlb) (inside : ∀ st, t.stackIn p st = s.stackIn p st)
    (slot : ∀ v, t.slotFor 0 v w = s.slotFor 0 v w) : t.hasRecord p rcd k w :=
  ⟨r.1, r.2.1, r.2.2.congr tlb inside (slot _)⟩

/-- Bytes within one page translate where the first of them does. -/
theorem State.xlateRange_ok {s u : State} {p acc va n k : Nat} {w thru : Bool} (pos : 0 < n) (page : (va + n - 1) / 2 ^ 16 = va / 2 ^ 16)
    (ok : s.xlate p acc va w thru = (.ok k, u)) : s.xlateRange p acc va n w thru = (.ok [(k, 0, n)], u) := by
  have pages : (List.range ((va + n - 1) / 2 ^ 16 - va / 2 ^ 16 + 1)).map (fun i =>
      (max va ((va / 2 ^ 16 + i) * 2 ^ 16), min (va + n) ((va / 2 ^ 16 + i + 1) * 2 ^ 16) - max va ((va / 2 ^ 16 + i) * 2 ^
          16))) = [(va, n)] := by
    rw [page, Nat.sub_self]
    simp only [Nat.zero_add, List.range_one, List.map_cons, List.map_nil, Nat.add_zero, List.cons.injEq, and_true, Prod.mk.injEq]
    omega
  unfold State.xlateRange
  dsimp only
  rw [pages, List.foldl_cons, List.foldl_nil]
  dsimp only
  rw [ok, Nat.sub_self]
  rfl

/-- Bytes within a record. -/
theorem page_of_record {v off n : Nat} (align : v % 64 = 0) (pos : 0 < n) (within : off + n ≤ 64) :
    (v + off + n - 1) / 2 ^ 16 = (v + off) / 2 ^ 16 := by omega

theorem State.writeVA_ok {s u : State} {p acc va k : Nat} (h : Hart) {bytes : List Byte} (ok : s.xlateRange p acc va
    bytes.length true true = (.ok [(k, 0, bytes.length)], u)) :
    s.writeVA h p acc va bytes = (true, u.writeAt h k bytes) := by
  unfold State.writeVA
  rw [ok]
  simp

/-- The first write to a record leaves its way in the TLBs. -/
theorem writeVA_of_recordKey {s : State} {p k off : Nat} {rcd : Word} {bytes : List Byte} (h : Hart) (r : s.recordKey p rcd k)
    (pos : 0 < bytes.length) (within : off + bytes.length ≤ 64) :
    ∃ u, sameButTlb s u ∧ u.hasRecord p rcd k true ∧ s.writeVA h p 0 (vaOf rcd + off) bytes = (true, u.writeAt h (k + off) bytes) := by
  obtain ⟨align, ok, plain, whole⟩ := r
  have walked := s.xlate_sameButTlb p 0 (vaOf rcd) true true
  rcases e : s.xlate p 0 (vaOf rcd) true true with ⟨x, u⟩
  rw [e] at ok walked
  cases ok
  refine ⟨u, walked, ⟨align, plain, (State.cached_of_xlateFrom align whole e).1⟩, State.writeVA_ok h ?_⟩
  refine State.xlateRange_ok pos (page_of_record align pos within) ?_
  have stack : vaStack (vaOf rcd + off) = vaStack (vaOf rcd) := by unfold vaStack; omega
  rw [State.xlate, stack]
  exact State.xlateFrom_shift align whole (by omega) e

/-- A later write stores its bytes and walks nowhere. -/
theorem State.hasRecord.writeVA {s : State} {p k off : Nat} {rcd : Word} {bytes : List Byte} (h : Hart) (r : s.hasRecord p rcd k true)
    (pos : 0 < bytes.length) (within : off + bytes.length ≤ 64) :
    s.writeVA h p 0 (vaOf rcd + off) bytes = (true, s.writeAt h (k + off) bytes) := by
  obtain ⟨align, plain, cached⟩ := r
  refine State.writeVA_ok h (State.xlateRange_ok pos (page_of_record align pos within) ?_)
  have stack : vaStack (vaOf rcd + off) = vaStack (vaOf rcd) := by unfold vaStack; omega
  rw [State.xlate, stack]
  exact cached.xlateFrom align (by omega)

/-- A write of plain memory leaves the way to a record. -/
theorem State.hasRecord.writeAt {s : State} {p k q : Nat} {rcd : Word} {w : Bool} (r : s.hasRecord p rcd k w) (h : Hart) (plain
    : plainKey q = true)
    (bytes : List Byte) : (s.writeAt h q bytes).hasRecord p rcd k w := by
  rw [State.writeAt_plain s h plain]
  exact r.congr (fun _ => rfl) (fun _ => rfl) fun _ => rfl

/-- What a write into a record leaves there. -/
theorem putRecord_of_recordKey {s : State} {h : Hart} {c : Cont} {k off : Nat} {bytes : List Byte} (r : s.recordKey c.part c.rcd k)
    (pos : 0 < bytes.length) (within : off + bytes.length ≤ 64) :
    ∃ u, sameButTlb s u ∧ (putRecord s h c off bytes) = u.writeAt h (k + off) bytes ∧ (putRecord s h c off bytes).hasRecord
        c.part c.rcd k true := by
  obtain ⟨u, walked, way, wrote⟩ := writeVA_of_recordKey h r pos within
  refine ⟨u, walked, congrArg Prod.snd wrote, ?_⟩
  rw [putRecord, wrote]
  exact way.writeAt h (way.2.1 _ (by omega)) _
theorem State.hasRecord.putRecord {s : State} {h : Hart} {c : Cont} {k off : Nat} {bytes : List Byte} (r : s.hasRecord c.part c.rcd k true)
    (pos : 0 < bytes.length) (within : off + bytes.length ≤ 64) : putRecord s h c off bytes = s.writeAt h (k + off) bytes :=
  congrArg Prod.snd (r.writeVA h pos within)

/-! ## What a translation depends on -/

/-- Two states in which stack memory, the stacks of each partition and the slots of tiles are the same. -/
def sameWay (s t : State) : Prop :=
  t.dram = s.dram ∧ t.mem = s.mem ∧ (∀ p st, t.stackIn p st = s.stackIn p st) ∧ ∀ acc v w, t.slotFor acc v w = s.slotFor acc v w

theorem sameWay_refl (s : State) : sameWay s s := ⟨rfl, rfl, fun _ _ => rfl, fun _ _ _ => rfl⟩
theorem sameWay_trans {s t u : State} (st : sameWay s t) (tu : sameWay t u) : sameWay s u :=
  ⟨tu.1.trans st.1, tu.2.1.trans st.2.1, fun p k => (tu.2.2.1 p k).trans (st.2.2.1 p k), fun a v w => (tu.2.2.2 a v w).trans
      (st.2.2.2 a v w)⟩
theorem sameWay.stack {s t : State} (h : sameWay s t) (st : Nat) : t.stack st = s.stack st := by rw [State.stack, h.1, State.stack]

theorem sameWay.walkLevels {s t : State} (h : sameWay s t) (st p v table : Nat) (l : List (Nat × Nat × Nat × Nat)) :
    walkLevels t st p v table l = walkLevels s st p v table l := by
  induction l generalizing table with
  | nil => rfl
  | cons x r ih =>
    unfold Machine.walkLevels State.pte
    simp only [h.2.1, ih]
theorem sameWay.walk {s t : State} (h : sameWay s t) (st p v : Nat) : walk t st p v = walk s st p v := by
  unfold Machine.walk
  rw [h.stack]
  split
  · rfl
  · exact h.walkLevels ..

theorem sameWay.lookupPage {s t : State} (h : sameWay s t) (st p v : Nat) (w : Bool) :
    (t.lookupPage st p v w).1 = (s.lookupPage st p v w).1 ∧ sameWay (s.lookupPage st p v w).2 (t.lookupPage st p v w).2 := by
  have put (x : Stack) : sameWay (s.setStack st x) (t.setStack st x) := ⟨by rw [State.setStack, State.setStack, h.1], h.2⟩
  unfold State.lookupPage
  rw [h.walk, h.stack]
  split
  · exact ⟨rfl, h⟩
  · split
    · exact ⟨rfl, h⟩
    · refine ⟨rfl, ?_⟩
      unfold State.countStack
      rw [h.stack]
      exact put _
    · split
      · refine ⟨rfl, ?_⟩
        dsimp only
        exact put _
      · exact ⟨rfl, h⟩

theorem sameWay.xlateAt {s t : State} (h : sameWay s t) (st p acc v : Nat) (w thru : Bool) :
    (t.xlateAt st p acc v w thru).1 = (s.xlateAt st p acc v w thru).1 ∧ sameWay (s.xlateAt st p acc v w thru).2 (t.xlateAt st p
        acc v w thru).2 := by
  obtain ⟨fst, snd⟩ := h.lookupPage st p v w
  unfold State.xlateAt
  rw [h.2.2.1, h.stack]
  split
  · exact ⟨rfl, h⟩
  · split
    · exact ⟨rfl, h⟩
    · generalize s.lookupPage st p v w = a at fst snd ⊢
      generalize t.lookupPage st p v w = b at fst snd ⊢
      rcases a with ⟨e, u⟩
      rcases b with ⟨e', u'⟩
      cases fst
      cases e with
      | none => exact ⟨rfl, snd⟩
      | some e =>
        dsimp only
        split
        · exact ⟨rfl, snd⟩
        · have slot : u'.slotFor acc (v / 2 ^ 16) w = u.slotFor acc (v / 2 ^ 16) w := snd.2.2.2 ..
          rw [slot]
          rcases u.slotFor acc (v / 2 ^ 16) w with _ | k
          · exact ⟨rfl, snd⟩
          · exact ⟨rfl, snd⟩

theorem sameWay.xlateFrom {s t : State} (h : sameWay s t) (st p acc v n : Nat) (w thru : Bool) :
    (t.xlateFrom p acc v w st thru n).1 = (s.xlateFrom p acc v w st thru n).1 ∧
      sameWay (s.xlateFrom p acc v w st thru n).2 (t.xlateFrom p acc v w st thru n).2 := by
  induction n generalizing s t st with
  | zero => exact h.xlateAt ..
  | succ n ih =>
    obtain ⟨fst, snd⟩ := h.xlateAt st p acc v w thru
    unfold State.xlateFrom
    generalize s.xlateAt st p acc v w thru = a at fst snd ⊢
    generalize t.xlateAt st p acc v w thru = b at fst snd ⊢
    rcases a with ⟨e, u⟩
    rcases b with ⟨e', u'⟩
    cases fst
    cases e with
    | redirect st' => exact ih snd st'
    | ok => exact ⟨rfl, snd⟩
    | bad => exact ⟨rfl, snd⟩
    | outside => exact ⟨rfl, snd⟩
    | held => exact ⟨rfl, snd⟩
    | readonly => exact ⟨rfl, snd⟩

theorem sameWay.recordKey {s t : State} (h : sameWay s t) {p k : Nat} {rcd : Word} (r : s.recordKey p rcd k) : t.recordKey p
    rcd k := by
  obtain ⟨align, ok, plain, whole⟩ := r
  exact ⟨align, (h.xlateFrom ..).1.trans ok, plain, fun st => by rw [h.stack]; exact whole st⟩

/-! ## What a write by virtual address leaves -/

/-- From `s` to `t` hart `h` has written bytes of stack memory: nothing but those, cached translations and what the open chunks of
other harts may meet has changed. -/
def bytesOnly (h : Hart) (s t : State) : Prop :=
  t = { s with threads := t.threads, mem := t.mem, dram := t.dram } ∧ t.thread h = s.thread h ∧ ∀ k, onlySeen s t k

theorem bytesOnly_refl (h : Hart) (s : State) : bytesOnly h s s := ⟨rfl, rfl, fun k => onlySeen_refl s k⟩
theorem bytesOnly_trans {h : Hart} {s t u : State} (st : bytesOnly h s t) (tu : bytesOnly h t u) : bytesOnly h s u :=
  ⟨by rw [tu.1, st.1], tu.2.1.trans st.2.1, fun k => onlySeen_trans (st.2.2 k) (tu.2.2 k)⟩
theorem bytesOnly.keeps {α : Type} {h : Hart} {s t : State} (b : bytesOnly h s t) (p : State → α)
    (free : ∀ (s : State) x m d, p { s with threads := x, mem := m, dram := d } = p s) : p t = p s := by
  rw [b.1, free]
theorem bytesOnly.cur {h : Hart} {s t : State} (b : bytesOnly h s t) : t.cur = s.cur := b.keeps State.cur fun _ _ _ _ => rfl
theorem bytesOnly.part {h : Hart} {s t : State} (b : bytesOnly h s t) (p : Nat) : t.part p = s.part p :=
  b.keeps (fun s => s.part p) fun _ _ _ _ => rfl
theorem bytesOnly.of_sameButTlb {h : Hart} {s t : State} (b : sameButTlb s t) : bytesOnly h s t := by
  refine ⟨?_, b.thread h, fun k => onlySeen_of_eq (b.thread k)⟩
  rw [b.1]

theorem bytesOnly_writeAt (h : Hart) (s : State) {k : Nat} (stack : 2 ^ 40 ≤ k) (b : List Byte) : bytesOnly h s (s.writeAt h k b) := by
  have seen := State.thread_noteLines_self s (arbOfKey k) (linesOf k b.length) h
  have others := onlySeen_noteLines s (arbOfKey k) (linesOf k b.length) h
  unfold State.writeAt
  dsimp only
  split
  · exact ⟨rfl, seen, others⟩
  next hob =>
    have key : isStackKey k = true := by
      simp only [isHobKey, decide_eq_true_eq] at hob
      simp only [isStackKey, Bool.and_eq_true, decide_eq_true_eq]
      omega
    rw [if_pos key]
    exact ⟨rfl, seen, others⟩

theorem State.xlateRange_keys {s u : State} {p acc v n : Nat} {w thru : Bool} {l : List (Nat × Nat × Nat)}
    (ok : s.xlateRange p acc v n w thru = (.ok l, u)) : ∀ x ∈ l, 2 ^ 40 ≤ x.1 := by
  have folds (pages : List (Nat × Nat)) (r : Except Xres (List (Nat × Nat × Nat)) × State)
      (start : ∀ l, r.1 = .ok l → ∀ x ∈ l, 2 ^ 40 ≤ x.1) :
      ∀ l, (pages.foldl (fun r x =>
        match r with
        | (.error e, s) => (.error e, s)
        | (.ok l, s) => match s.xlate p acc x.1 w thru with
          | (.ok k, s) => (.ok (l ++ [(k, x.1 - v, x.2)]), s)
          | (e, s) => (.error e, s)) r).1 = .ok l → ∀ x ∈ l, 2 ^ 40 ≤ x.1 := by
    induction pages generalizing r with
    | nil => exact start
    | cons x rest ih =>
      refine ih _ ?_
      rcases r with ⟨_ | l, u⟩
      · exact nofun
      · dsimp only
        split
        next k u' at' =>
          intro l' e y hy
          cases e
          rcases List.mem_append.1 hy with old | new
          · exact start l rfl y old
          · rw [List.mem_singleton.1 new]
            exact State.xlate_ok _ _ _ _ _ _ _ (congrArg Prod.fst at')
        next => exact nofun
  refine folds _ (.ok [], s) (fun l e => ?_) l (congrArg Prod.fst ok)
  cases e
  exact nofun

theorem bytesOnly_writeVA (h : Hart) (s : State) (p acc va : Nat) (bytes : List Byte) : bytesOnly h s (s.writeVA h p acc va bytes).2 := by
  have walked := s.xlateRange_sameButTlb p acc va bytes.length true true
  have writes (l : List (Nat × Nat × Nat)) (u : State) (keys : ∀ x ∈ l, 2 ^ 40 ≤ x.1) :
      bytesOnly h u (l.foldl (fun s x => s.writeAt h x.1 ((bytes.drop x.2.1).take x.2.2)) u) := by
    induction l generalizing u with
    | nil => exact bytesOnly_refl h u
    | cons x r ih =>
      exact bytesOnly_trans (bytesOnly_writeAt h u (keys x List.mem_cons_self) _) (ih _ fun y hy => keys y
          (List.mem_cons_of_mem _ hy))
  unfold State.writeVA
  split
  next l u e =>
    rw [e] at walked
    exact bytesOnly_trans (.of_sameButTlb walked) (writes l u (State.xlateRange_keys e))
  next e =>
    rw [e] at walked
    exact .of_sameButTlb walked

theorem bytesOnly_putRecord (h : Hart) (s : State) (c : Cont) (off : Nat) (bytes : List Byte) : bytesOnly h s (putRecord s h c off bytes) :=
  bytesOnly_writeVA ..

theorem State.readAt_writeAt_outside (s : State) (h : Hart) {k a n : Nat} {b : List Byte} (hk : plainKey k = true)
    (ha : ∀ i, i < n → plainKey (a + i) = true) (apart : a + n ≤ k ∨ k + b.length ≤ a) : (s.writeAt h k b).readAt a n =
        s.readAt a n :=
  congrArg leNat (List.map_congr_left fun i hi => by
    have := List.mem_range.1 hi
    exact State.byteAt_writeAt_outside s h hk (ha i this) (by omega))
theorem State.byteAt_writeAt_one (s : State) (h : Hart) {k : Nat} (b : Byte) (hk : plainKey k = true) : (s.writeAt h k
    [b]).byteAt k = b := by
  rw [State.byteAt_plain _ hk, State.writeAt_plain s h hk, Memory.get_write, if_pos (by simp)]
  simp

/-- A record that takes a PC and then a STATUS holds both, and every other byte is as it was. -/
theorem putPc_putStatus {s : State} {h : Hart} {c : Cont} {k st : Nat} {pc : Word} (r : s.recordKey c.part c.rcd k) :
    let t := putStatus (putPc s h c pc) h c st
    t.hasRecord c.part c.rcd k true ∧ t.byteAt (k + 39) = BitVec.ofNat 8 st ∧ t.readAt k 8 = pc.toNat ∧
      ∀ a, plainKey a = true → a < k ∨ k + 8 ≤ a → a ≠ k + 39 → t.byteAt a = s.byteAt a := by
  intro t
  have plain := r.2.2.1
  obtain ⟨u, walked, first, way⟩ := putRecord_of_recordKey (h := h) (c := c) (off := 0) (bytes := leBytes 8 pc.toNat) r
    (by simp [length_leBytes]) (by simp [length_leBytes])
  have second : t = (putPc s h c pc).writeAt h (k + 39) [BitVec.ofNat 8 st] := way.putRecord (by simp) (by simp)
  have key := plain 39 (by decide)
  rw [second]
  refine ⟨way.writeAt h key _, State.byteAt_writeAt_one _ _ _ key, ?_, fun a ha outside other => ?_⟩
  · rw [State.readAt_writeAt_outside _ _ key (fun i hi => plain i (by omega)) (.inl (by omega)), putPc, first]
    exact (State.readAt_writeAt_plain u h (fun i hi => plain i (by omega)) (by decide)).trans (Nat.mod_eq_of_lt pc.isLt)
  · rw [State.byteAt_writeAt_outside _ _ key ha (by simp; omega), putPc, first,
      State.byteAt_writeAt_outside _ _ (plain 0 (by decide)) ha (by rw [length_leBytes]; omega), State.byteAt_congr_plain
          walked.mem ha]

end Sys2Proof.Machine
end

section
/-! SUPPORT. A trap that is taken: what it leaves of the hart, and the fields of its record (R111, R114, R115). -/

namespace Sys2Proof.Machine

/-! ## The fields of a trap record -/

/-- A field of `n` bits at bit `a` of a sum of fields. -/
theorem extractLsb'_ofNat {w a n N : Nat} (within : a + n ≤ w) : (BitVec.ofNat w N).extractLsb' a n = BitVec.ofNat n (N / 2 ^ a) := by
  ext i hi
  simp only [BitVec.getElem_extractLsb', BitVec.getLsbD_ofNat, Nat.testBit_div_two_pow]
  rw [BitVec.getElem_eq_testBit_toNat, BitVec.toNat_ofNat, Nat.testBit_mod_two_pow, Nat.testBit_div_two_pow]
  rw [Nat.add_comm a i, decide_eq_true (by omega), decide_eq_true hi, Bool.true_and]

theorem trapDataAt_fields {loc : BitVec 16} {c : Cont} {save gang : Bool} {i : TrapInfo} (code : i.code < 256) :
    let d := trapDataAt loc c save gang i
    d.extractLsb' 0 8 = BitVec.ofNat 8 i.code ∧ d.extractLsb' 16 16 = c.gen ∧ d.extractLsb' 32 32 = c.taskid ∧
      d.extractLsb' 64 64 = i.pc ∧ d.extractLsb' 256 64 = c.rcd := by
  have tail : tailLen i.head.major < 16 := by
    unfold tailLen
    split <;> decide
  have gen := c.gen.isLt
  have task := c.taskid.isLt
  have pc := i.pc.isLt
  have head := i.head.isLt
  have tailbits := i.tail.isLt
  obtain ⟨flags, few, eflags⟩ : ∃ x, x < 8 ∧ (if save then 2 ^ 8 else 0) + (if gang then 2 ^ 9 else 0) + (if i.parked then 2 ^
      10 else 0) = 2 ^ 8 * x := by
    refine ⟨(if save then 1 else 0) + (if gang then 2 else 0) + (if i.parked then 4 else 0), ?_, ?_⟩ <;>
      cases save <;> cases gang <;> cases i.parked <;> decide
  intro d
  obtain ⟨high, fields⟩ : ∃ h, d = BitVec.ofNat 512 (i.code + 2 ^ 8 * flags + c.gen.toNat * 2 ^ 16 + c.taskid.toNat * 2 ^ 32 +
      i.pc.toNat * 2 ^ 64
      + i.head.toNat * 2 ^ 128 + tailLen i.head.major * 2 ^ 144 + i.tail.toNat * 2 ^ 192 + 2 ^ 256 * (c.rcd.toNat + 2 ^ 64 * h)) := by
    refine ⟨i.addr.toNat + i.fmta.toNat % 32 * 2 ^ 64 + i.fmta.toNat / 32 % 2 * 2 ^ 69 + i.fmtb.toNat % 32 * 2 ^ 70
      + i.fmtb.toNat / 32 % 2 * 2 ^ 75 + i.fmtc.toNat % 32 * 2 ^ 76 + i.row % 2 ^ 16 * 2 ^ 96 + i.col % 2 ^ 16 * 2 ^ 112
      + loc.toNat * 2 ^ 128 + i.detail % 2 ^ 16 * 2 ^ 144, congrArg (BitVec.ofNat 512) ?_⟩
    dsimp only
    generalize (if save = true then 2 ^ 8 else 0) = b1 at *
    generalize (if gang = true then 2 ^ 9 else 0) = b2 at *
    generalize (if i.parked = true then 2 ^ 10 else 0) = b3 at *
    omega
  rw [fields]
  refine ⟨?_, ?_, ?_, ?_, ?_⟩ <;> refine (extractLsb'_ofNat (by decide)).trans (BitVec.eq_of_toNat_eq ?_) <;>
    rw [BitVec.toNat_ofNat]
  · rw [BitVec.toNat_ofNat]
    omega
  all_goals omega

/-! ## Parking -/

@[simp] theorem State.thread_leaderTraps (s : State) (h k : Hart) (code : Nat) : (s.leaderTraps h code).thread k = s.thread k := by
  unfold State.leaderTraps
  split
  · dsimp only
    split <;> rfl
  · rfl
@[simp] theorem State.cur_leaderTraps (s : State) (h : Hart) (code : Nat) : (s.leaderTraps h code).cur = s.cur := by
  unfold State.leaderTraps
  split
  · dsimp only
    split <;> rfl
  · rfl
@[simp] theorem State.part_leaderTraps (s : State) (h : Hart) (code p : Nat) : (s.leaderTraps h code).part p = s.part p := by
  unfold State.leaderTraps
  split
  · dsimp only
    split <;> rfl
  · rfl

/-- The registers that a trap leaves: no stream is bound and no REP runs. -/
def Regs.parked (r : Regs) : Regs := { r with streams := [], rep := none }
/-- The thread set that a trap has parked. -/
def Thread.parkedAt (t : Thread) : Thread :=
  { t with run := .parked, regs := t.regs.parked, chunk := { begun := t.regs.parked }
           wait := .none, mark := none, mnf := none, replay := [], path := [], line := none }

/-- The state in which a trap has been recorded, before its hart is parked. -/
def trapRecorded (s : State) (h : Hart) (i : TrapInfo) : State :=
  let t := s.thread h
  (putStatus (putPc s h t.cont t.regs.pc) h t.cont 5).addTrap t.cont.part (trapData h t.cont t.savemode.isSome t.gang.isSome i)

theorem trapRecorded_thread (s : State) (h : Hart) (i : TrapInfo) : (trapRecorded s h i).thread h = s.thread h :=
  (bytesOnly_trans (bytesOnly_putRecord ..) (bytesOnly_putRecord ..)).2.1

theorem park_eq (s : State) (h : Hart) (i : TrapInfo) :
    let u := trapRecorded (landAll (s.drain h) h) h i
    park s h i = ((u.leaderTraps h i.code).setThread h (u.thread h).parkedAt).noteWindow h
      (windowDiffers (u.thread h).windowRegs (u.thread h).regs.parked) := rfl

theorem park_thread (s : State) (h : Hart) (i : TrapInfo) : (park s h i).thread h = ((landAll (s.drain h) h).thread h).parkedAt := by
  rw [park_eq]
  exact (State.thread_noteWindow_self ..).trans ((State.thread_setThread_self ..).trans (congrArg _ (trapRecorded_thread ..)))
theorem park_mem (s : State) (h : Hart) (i : TrapInfo) : (park s h i).mem = (trapRecorded (landAll (s.drain h) h) h i).mem := by
  rw [park_eq]
  exact (State.noteWindow_mem ..).trans (State.mem_leaderTraps ..)

/-- The record of a trap of thread set `t` on hart `h`. -/
def Thread.trapRec (t : Thread) (h : Hart) (i : TrapInfo) : TrapRec :=
  { data := trapData h t.cont t.savemode.isSome t.gang.isSome i }

theorem trapRecorded_part (s : State) (h : Hart) (i : TrapInfo) (p : Nat) : (trapRecorded s h i).part p =
    if p = (s.thread h).cont.part then
      { s.part p with traps := (s.part p).traps ++ [(s.thread h).trapRec h i] }
    else s.part p := by
  have same := (bytesOnly_trans (bytesOnly_putRecord h s (s.thread h).cont 0 (leBytes 8 (s.thread h).regs.pc.toNat))
    (bytesOnly_putRecord h _ (s.thread h).cont 39 [BitVec.ofNat 8 5])).part
  unfold trapRecorded State.addTrap
  rw [State.part_setPart]
  split
  next e => subst e; rw [← same]; rfl
  next => rw [← same]; rfl
theorem trapRecorded_cur (s : State) (h : Hart) (i : TrapInfo) : (trapRecorded s h i).cur = s.cur :=
  (bytesOnly_trans (bytesOnly_putRecord ..) (bytesOnly_putRecord ..)).cur

theorem State.part_noteWindow (s : State) (h : Hart) (moved : Nat → Bool) (p : Nat) : (s.noteWindow h moved).part p = s.part p := by
  unfold State.noteWindow
  split <;> rfl
theorem park_part (s : State) (h : Hart) (i : TrapInfo) (p : Nat) :
    (park s h i).part p = (trapRecorded (landAll (s.drain h) h) h i).part p := by
  rw [park_eq]
  exact (State.part_noteWindow ..).trans (State.part_leaderTraps ..)
@[simp] theorem cur_park (s : State) (h : Hart) (i : TrapInfo) : (park s h i).cur = s.cur := by
  rw [park_eq]
  refine (State.cur_noteWindow ..).trans ((State.cur_leaderTraps ..).trans ((trapRecorded_cur ..).trans ?_))
  simp

theorem sameWay_setThread (s : State) (h : Hart) (t : Thread) : sameWay s (s.setThread h t) := ⟨rfl, rfl, fun _ _ => rfl, fun _ _ _ => rfl⟩
theorem sameWay_countCl (s : State) (c n k : Nat) : sameWay s (s.countCl c n k) := ⟨rfl, rfl, fun _ _ => rfl, fun _ _ _ => rfl⟩
theorem sameWay_noteWindow (s : State) (h : Hart) (moved : Nat → Bool) : sameWay s (s.noteWindow h moved) := by
  unfold State.noteWindow
  split <;> exact ⟨rfl, rfl, fun _ _ => rfl, fun _ _ _ => rfl⟩
theorem sameWay_landPending (s : State) (h : Hart) : sameWay s (landPending s h) := by
  unfold landPending
  dsimp only
  split
  · exact sameWay_refl s
  · have landed (t : Thread) (moved : Nat → Bool) : sameWay s ((s.setThread h t).noteWindow h moved) :=
      sameWay_trans (sameWay_setThread ..) (sameWay_noteWindow ..)
    split
    · exact sameWay_trans (landed ..) (sameWay_countCl ..)
    · exact landed ..
theorem sameWay_landAll (s : State) (h : Hart) : sameWay s (landAll s h) := by
  unfold landAll
  generalize (s.thread h).pend = l
  induction l generalizing s with
  | nil => exact sameWay_refl s
  | cons w r ih => exact sameWay_trans (sameWay_landPending s h) (ih _)

/-- A trap that parks a core or a stoker: thread set, partition and record, as section 04 has them. -/
theorem park_spec (s : State) (i : TrapInfo) :
    let u := s.drain s.cur
    let c := u.me.cont
    let t := park s s.cur i
    t.me.run = .parked ∧ t.me.regs = { (landAll u s.cur).me.regs with streams := [], rep := none } ∧ t.me.cont = c ∧
      t.me.mark = none ∧ t.me.pend = [] ∧
      (t.part c.part).traps.getLast? = some { data := trapData s.cur c u.me.savemode.isSome u.me.gang.isSome i } ∧
      ∀ k, u.recordKey c.part c.rcd k → t.byteAt (k + 39) = 5 ∧ t.readAt k 8 = u.me.regs.pc.toNat := by
  intro u c t
  have cur : u.cur = s.cur := State.cur_drain ..
  obtain ⟨r, b, lands, pc, _⟩ := thread_landAll_self u s.cur
  have here : u.thread s.cur = u.me := by rw [State.me, cur]
  have me : t.me = ((landAll u s.cur).thread s.cur).parkedAt := by
    rw [← park_thread s s.cur i, State.me, cur_park]
  have me' : (landAll u s.cur).me = (landAll u s.cur).thread s.cur := by rw [State.me, cur_landAll, cur]
  have mem : t.mem = (trapRecorded (landAll u s.cur) s.cur i).mem := park_mem ..
  have part := park_part s s.cur i c.part
  rw [here] at lands pc
  rw [me, me', lands]
  refine ⟨rfl, rfl, rfl, rfl, rfl, ?_, fun k key => ?_⟩
  · rw [part, trapRecorded_part, lands, if_pos rfl]
    exact List.getLast?_concat ..
  · have plain := key.2.2.1
    have recorded := putPc_putStatus (h := s.cur) (c := c) (st := 5) (pc := r.pc) ((sameWay_landAll u s.cur).recordKey key)
    have wrote : t.mem = (putStatus (putPc (landAll u s.cur) s.cur c r.pc) s.cur c 5).mem := by
      rw [mem, trapRecorded, lands]
      rfl
    obtain ⟨_, status, at', _⟩ := recorded
    rw [State.byteAt_congr_plain wrote (plain 39 (by decide)), State.readAt_congr_plain wrote fun i hi => plain i (by omega)]
    exact ⟨status, at'.trans (by rw [pc])⟩

end Sys2Proof.Machine
end

section
open Sys2Proof Sys2Proof.Machine

/-- Settles O13: a trap parks its hart as `park_spec` has it, and its record has the fields of `trapDataAt_fields`. -/
theorem trapEntry : Obligations.TrapEntry := by
  refine ⟨fun s i core release => ?_, fun s i hob => if_pos hob, fun s brk core release => ?_⟩
  · intro c
    have park : takeTrapInfo s s.cur i = .next (park s.ended s.cur i) := takeTrapInfo_mayRelease s i release core
    have spec := park_spec s.ended i
    rw [State.cur_ended] at spec
    have drained : s.ended.drain s.cur = s.released := by rw [State.released, State.cur_ended]
    rw [drained] at spec
    obtain ⟨run, regs, cont, mark, pend, traps, record⟩ := spec
    exact ⟨_, _, park, run, regs, cont, mark, pend, traps, record, trapDataAt_fields⟩
  · have trap := takeTrapInfo_mayRelease s (trapHere s s.cur .brk 0 0) release core
    refine ⟨_, _, (if_pos brk).trans trap, rfl, rfl, rfl, rfl, ?_⟩
    have spec := park_spec s.ended (trapHere s s.cur .brk 0 0)
    rw [State.cur_ended] at spec
    exact spec.1

end

section
/-! SUPPORT. From a turn to the meaning of its head: what stands before a fetch, and what a fetch comes to (R10, R121, R124, R134). -/

namespace Sys2Proof.Machine

/-! ## The fetch -/

theorem fetchDecode_moves {s : State} {h : Hart} {st : Nat} (e : s.fetchMoves h (s.thread h).regs.pc = some st) :
    fetchDecode s h = .answer (.next (s.setThread h { s.thread h with wait := .redirect st })) := by
  unfold fetchDecode
  simp only [e]
theorem fetchDecode_waits {s u : State} {h : Hart} (still : s.fetchMoves h (s.thread h).regs.pc = none)
    (e : s.fetchLine h (s.thread h).regs.pc = (.wait, u)) : fetchDecode s h = .answer (.next u) := by
  unfold fetchDecode
  simp only [still, e]
/-- The trap of a line at `ln` that cannot be fetched. -/
def unfetched (s : State) (h : Hart) (ln : Word) : TrapInfo := { trapHere s h .window ln 0 with pc := ln }
theorem fetchDecode_fails {s u : State} {h : Hart} (still : s.fetchMoves h (s.thread h).regs.pc = none)
    (e : s.fetchLine h (s.thread h).regs.pc = (.fail, u)) :
    fetchDecode s h = if kindOf h = .hob then .answer (hobFault u h 6) else
      .answer (takeTrapInfo u h (unfetched u h (pcMove (s.thread h).regs.pc 0 0))) := by
  unfold fetchDecode
  simp only [still, e, unfetched]
theorem fetchDecode_malformed {s u : State} {h : Hart} {l : Vec} {x : LineErr} (still : s.fetchMoves h (s.thread h).regs.pc = none)
    (e : s.fetchLine h (s.thread h).regs.pc = (.line l, u)) (bad : lineSlot l (pcSlot (s.thread h).regs.pc) = .error x) :
    fetchDecode s h = .answer (takeTrapInfo (u.holdLine h (s.thread h).regs.pc l) h
      (trapHere (u.holdLine h (s.thread h).regs.pc l) h .linefmt 0 0)) := by
  unfold fetchDecode
  simp only [still, e, bad]

/-- Whether a head with its instruction issues on hart `h`, whose registers are `r`. -/
def issues (h : Hart) (r : Regs) (hd : Head) (i : Instr) : Bool :=
  hartTakes (kindOf h) hd.major.toNat hd.fieldA.toNat hd.fieldB.toNat && (kindOf h == .stoker || !stokerOnly i) && (stagger r i).wellFormed

theorem fetchDecode_refused {s u : State} {h : Hart} {l : Vec} {hd : Head} {tl : Tail} (still : s.fetchMoves h (s.thread
    h).regs.pc = none)
    (e : s.fetchLine h (s.thread h).regs.pc = (.line l, u)) (head : lineSlot l (pcSlot (s.thread h).regs.pc) = .ok (hd, tl))
    (bad : ∀ i, decode hd tl = .ok i → issues h ((u.holdLine h (s.thread h).regs.pc l).thread h).regs hd i = false) :
    fetchDecode s h = .answer (takeTrapInfo (u.holdLine h (s.thread h).regs.pc l) h
      (trapHere (u.holdLine h (s.thread h).regs.pc l) h .illegal 0 0)) := by
  unfold fetchDecode
  simp only [still, e, head]
  rcases d : decode hd tl with x | i
  · rfl
  · exact if_neg (Bool.eq_false_iff.1 (bad i d))
theorem fetchDecode_issues {s u : State} {h : Hart} {l : Vec} {hd : Head} {tl : Tail} {i : Instr} (still : s.fetchMoves h
    (s.thread h).regs.pc = none)
    (e : s.fetchLine h (s.thread h).regs.pc = (.line l, u)) (head : lineSlot l (pcSlot (s.thread h).regs.pc) = .ok (hd, tl))
    (d : decode hd tl = .ok i) (good : issues h ((u.holdLine h (s.thread h).regs.pc l).thread h).regs hd i = true) :
    fetchDecode s h = .issue (stagger ((u.holdLine h (s.thread h).regs.pc l).thread h).regs i) (u.holdLine h (s.thread
        h).regs.pc l) := by
  unfold fetchDecode
  simp only [still, e, head, d]
  exact if_pos good

theorem regs_holdLine (s : State) (h : Hart) (pc : Word) (l : Vec) : ((s.holdLine h pc l).thread h).regs = (s.thread h).regs := by
  unfold State.holdLine
  split
  · rfl
  · rw [State.thread_setThread_self]
theorem thread_of_fetchLine {s u : State} {h : Hart} {pc : Word} {r : Fetched} (e : s.fetchLine h pc = (r, u)) (k : Hart) :
    u.thread k = s.thread k := by
  have walked := (s.xlate_sameButTlb (s.thread h).cont.part (s.thread h).cont.acc (vaOf pc / 64 * 64) false false).thread k
  unfold State.fetchLine at e
  split at e
  · split at e <;> cases e <;> rfl
  · dsimp only at e
    split at e
    · cases e; rfl
    · split at e
      · cases e; rfl
      · split at e
        next x => rw [x] at walked; cases e; exact walked
        next x => rw [x] at walked; cases e; exact walked
        next x => rw [x] at walked; cases e; exact walked

/-- A unit that is read ahead is kept with its line. -/
theorem State.fetchUnit_ok {s u : State} {h : Hart} {pc : Word} {unit k : Nat} (core : kindOf h ≠ .hob) (running : (s.thread
    h).run = .running)
    (lt : unit < 8) (va : isVA pc = true) (ok : s.xlate (s.thread h).cont.part (s.thread h).cont.acc (vaOf pc / 64 * 64) false
        = (.ok k, u)) :
    s.fetchUnit h pc unit = u.setThread h { u.thread h with
      early := (u.thread h).early.filter (fun e => !(e.1 == lineNo pc && e.2.1 == unit)) ++
        [(lineNo pc, unit, BitVec.ofNat 64 (u.readAt (k + 8 * unit) 8))] } := by
  unfold State.fetchUnit
  dsimp only
  rw [if_neg (by simp [core, running, va]; omega), ok]

/-- Walks change no byte of stack memory. -/
theorem State.readAt_sameButTlb {s u : State} {k n off : Nat} (walked : sameButTlb s u) (stack : 2 ^ 40 ≤ k) :
    u.readAt (k + off) n = s.readAt (k + off) n := by
  refine congrArg leNat (List.map_congr_left fun i _ => ?_)
  unfold State.byteAt
  split
  · rw [(walked.2 _).1]
  next hob =>
    have key : isStackKey (k + off + i) = true := by
      simp only [isHobKey, decide_eq_true_eq] at hob
      simp only [isStackKey, Bool.and_eq_true, decide_eq_true_eq]
      omega
    rw [if_pos key, if_pos key, walked.mem]

/-- A thread set that runs and that nothing holds back fetches at its turn. -/
theorem prepare_fetches {s : State} {h : Hart} (running : (s.thread h).run = .running) (job : s.job h = none) (mark : (s.thread
    h).mark = none)
    (wait : (s.thread h).wait = .none) (mnf : (s.thread h).mnf = none) (gang : (s.thread h).gang = none) (path : (s.thread h).path = [])
    (pend : (s.thread h).chunk.executed = 0 → (s.thread h).pend = []) (ended : (s.thread h).chunk.ended = false)
    (short : (s.thread h).chunk.executed < 512) (few : (s.thread h).chunk.wlines.length < 64)
    (budget : kindOf h = .hob → (s.hob (h - 13824)).executed < 2 ^ 28) : prepare s h = fetchDecode s h := by
  have boundary : (atBoundary (s.thread h) && !(s.thread h).pend.isEmpty) = false := by
    by_cases begun : (s.thread h).chunk.executed = 0
    · simp [pend begun]
    · simp [atBoundary, begun]
  have token : tokenEnds s h = false := by simp [tokenEnds, State.gangOf_of_no_gang gang]
  have take : takeToken s h = s := by simp [takeToken, State.tokenDue, State.headsGang, State.gangOf_of_no_gang gang]
  have turn : gangTurn s h = true := by simp [gangTurn, path, gang]
  unfold prepare
  have spends : (kindOf h = .hob && decide (2 ^ 28 ≤ (Tab.get {} (s.stack (hartStack h)).hobs ((h - 13824) % 96)).executed)) =
      false := by
    by_cases hob : kindOf h = .hob
    · have place : hartStack h = (h - 13824) / 96 := by
        unfold hartStack
        unfold kindOf at hob
        split at hob
        · cases hob
        · split at hob
          · cases hob
          next far => exact if_neg far
      have := budget hob
      rw [State.hob, ← place] at this
      simp only [hob, decide_true, Bool.true_and, decide_eq_false_iff_not]
      omega
    · simp [hob]
  dsimp only
  rw [if_neg (by simp [running, job]), mark, wait]
  dsimp only
  rw [if_neg (by simp), boundary, ended, token, turn, mnf, take]
  simp only [Bool.false_eq_true, if_false, Bool.not_true, if_neg (Nat.not_le.2 short), if_neg (Nat.not_le.2 few),
      Option.filter_none]
  exact if_neg (by rw [spends]; nofun)

end Sys2Proof.Machine
end

section
open Sys2Proof Sys2Proof.Machine

/-- Settles O30: nothing stands between the turn and its fetch, and the fetch gives the head. -/
theorem stepRunsDecoded : Obligations.StepRunsDecoded := by
  intro s h rest l u hd tl i agenda on s₁ t running job mark wait mnf gang path pend ended short few budget still e head d j
      takes kind good
  have fetches : prepare s₁ h = fetchDecode s₁ h := prepare_fetches running job mark wait mnf gang path pend ended short few
      budget
  have regs : ((u.holdLine h t.regs.pc l).thread h).regs = t.regs := by rw [regs_holdLine, thread_of_fetchLine e]; rfl
  have decoded : fetchDecode s₁ h = .issue j (u.holdLine h t.regs.pc l) := by
    rw [show j = stagger ((u.holdLine h t.regs.pc l).thread h).regs i by rw [regs]]
    refine fetchDecode_issues still e head d ?_
    rw [show (s₁.thread h).regs.pc = t.regs.pc from rfl, regs]
    simp only [issues, takes, Bool.true_and, Bool.and_eq_true, Bool.or_eq_true, beq_iff_eq, Bool.not_eq_true']
    exact ⟨kind, good⟩
  rw [step, nextTurn, agenda]
  change (if s.ctrl.halted = true then _ else issueTurn { s with agenda := rest } h) = _
  rw [if_neg (by rw [on]; nofun), issueTurn]
  rw [show prepare _ h = _ from fetches.trans decoded]

/-- Settles O31: a fetch by its outcomes in their order, and each other turn by what it names. -/
theorem stepOtherTurns : Obligations.StepOtherTurns := by
  refine ⟨fun s h l u => ?_, fun s i p n rest agenda on event => ?_, fun s h pc unit rest agenda on => ?_, fun s h pc unit k u
      core running lt va ok => ?_⟩
  · intro pc v
    refine ⟨fun st e => fetchDecode_moves e, fun still e => fetchDecode_waits still e, fun still e => ⟨fun hob => ?_, fun core => ?_⟩,
      fun still e => ⟨fun x bad => fetchDecode_malformed still e bad, fun hd tl head bad => fetchDecode_refused still e head ?_⟩⟩
    · rw [fetchDecode_fails still e, if_pos hob]
    · exact ⟨_, (fetchDecode_fails still e).trans (if_neg core), rfl, rfl, rfl⟩
    · intro i d
      rcases bad with ⟨x, b⟩ | takes | ⟨j, b, only, core⟩
      · rw [d] at b; cases b
      · simp [issues, takes]
      · rw [d] at b
        cases b
        simp [issues, only, core]
  · rw [step, nextTurn, agenda]
    unfold turn
    split
    next e => cases e; rfl
    next e => cases e; rw [if_neg (by rw [on]; nofun), if_pos event]
    next e => cases e
    next e => cases e
    next e => cases e
  · rw [step, nextTurn, agenda]
    change (if s.ctrl.halted = true then _ else _) = _
    rw [if_neg (by rw [on]; nofun)]
  · have walked := s.xlate_sameButTlb (s.thread h).cont.part (s.thread h).cont.acc (vaOf pc / 64 * 64) false false
    rw [ok] at walked
    rw [State.fetchUnit_ok core running lt va ok]
    refine ⟨?_, walked.mem, ?_⟩
    · rw [State.thread_setThread_self, State.readAt_sameButTlb walked (State.xlate_ok _ _ _ _ _ _ _ (congrArg Prod.fst ok))]
      exact List.mem_append_right _ List.mem_cons_self
    · rw [State.thread_setThread_self, ← walked.thread]

end

section
/-! SUPPORT. Vector instructions: their operand forms, their lanes, and what they leave (R89, R231, R232). -/

namespace Sys2Proof.Machine

/-! ## Lanes -/

theorem laneOf_ofNat {w j N : Nat} (within : w * j + w ≤ 512) : laneOf w (BitVec.ofNat 512 N) j = N / 2 ^ (w * j) % 2 ^ w := by
  rw [laneOf, extractLsb'_ofNat within, BitVec.toNat_ofNat]

theorem foldr_lane (w : Nat) (l : List Nat) (j : Nat) (hj : j < l.length) :
    l.foldr (fun x a => x % 2 ^ w + 2 ^ w * a) 0 / 2 ^ (w * j) % 2 ^ w = l[j] % 2 ^ w := by
  induction l generalizing j with
  | nil => exact absurd hj (Nat.not_lt_zero j)
  | cons x r ih =>
    have low : x % 2 ^ w < 2 ^ w := Nat.mod_lt _ (by positivity)
    rw [List.foldr_cons]
    cases j with
    | zero => simp
    | succ j =>
      rw [Nat.mul_succ, Nat.add_comm (w * j), Nat.pow_add, ← Nat.div_div_eq_div_mul, Nat.add_mul_div_left _ _ (by positivity),
        Nat.div_eq_of_lt low, Nat.zero_add, List.getElem_cons_succ]
      exact ih j (Nat.lt_of_succ_lt_succ hj)

theorem laneOf_lt (w : Nat) (v : Vec) (j : Nat) : laneOf w v j < 2 ^ w := BitVec.isLt _

/-- Each lane of the result is the one computed where the mask has a one, and the old one elsewhere. -/
theorem laneOf_mapLanes (t : Ty) (on : Nat → Bool) (old : Vec) (f : Nat → Nat × Flg) {j : Nat} (hj : j < lanesOf t) :
    laneOf t.width (mapLanes t on old f).1 j = if on j then (f j).1 % 2 ^ t.width else laneOf t.width old j := by
  have within : t.width * j + t.width ≤ 512 := by
    have := Nat.mul_le_of_le_div t.width (j + 1) 512 hj
    rw [Nat.mul_comm t.width j, ← Nat.succ_mul]
    exact this
  unfold mapLanes ofLanes
  dsimp only
  rw [laneOf_ofNat within, foldr_lane _ _ _ (by simpa using hj)]
  simp only [List.getElem_map, List.getElem_range]
  split
  · rfl
  · exact Nat.mod_eq_of_lt (laneOf_lt ..)

/-! ## Operand forms -/

theorem popAll_unbound {s : State} {srcs : List Reg} (free : s.unbound srcs = true) : popAll s srcs = .ok [] s := by
  induction srcs with
  | nil => rfl
  | cons n r ih =>
    simp only [State.unbound, List.all_cons, Bool.and_eq_true, Option.isNone_iff_eq_none] at free ih
    rw [popAll, ih free.2]
    simp [free.1]

/-- A vector instruction as its operand form has it: the directions of its registers, the pops of its sources, and what follows. -/
theorem exec_operands {i : Instr} {s : State} {srcs : List Reg} {dst : Option Reg} {k : State → (Reg → Vec) → Result}
    (form : exec i s = withDir s srcs dst fun s => withPops s i srcs k) :
    (∀ n, s.me.regs.against srcs dst = some n → exec i s = takeTrap s .stream 0 n.toNat) ∧
    (s.me.regs.against srcs dst = none → s.pushWaits dst = true → exec i s = .next s) ∧
    (s.me.regs.against srcs dst = none → s.pushWaits dst = false →
      (popAll s srcs = .stall → exec i s = .next (s.setMe { s.me with wait := .stall i })) ∧
      (∀ ch q k, popAll s srcs = .range ch q k → exec i s = rangeTrap s ch q k) ∧
      (∀ vals u, popAll s srcs = .ok vals u → exec i s = k u (delivered s vals)) ∧
      (s.unbound srcs = true → popAll s srcs = .ok [] s)) := by
  rw [form]
  unfold withPops
  refine ⟨fun n e => withDir_against e, fun e w => withDir_waits e w, fun e w => ?_⟩
  rw [withDir_goes e w]
  refine ⟨fun p => ?_, fun ch q k p => ?_, fun vals u p => ?_, popAll_unbound⟩
  · rw [p]; rfl
  · rw [p]
  · rw [p]; rfl

theorem Regs.against_bound {r : Regs} {n : Reg} (bound : r.binding n ≠ none) : r.against [n] (some n) = some n := by
  obtain ⟨b, e⟩ := Option.ne_none_iff_exists'.1 bound
  unfold Regs.against
  cases w : b.write <;> simp [e, w]
theorem Regs.against_free {r : Regs} {srcs : List Reg} {n : Reg} (sources : ∀ x ∈ srcs, r.binding x = none) (free : r.binding n = none) :
    r.against srcs (some n) = none := by
  unfold Regs.against
  rw [List.find?_eq_none.2 fun x hx => by simp [sources x hx]]
  simp only [free]
theorem State.pushWaits_free {s : State} {n : Reg} (free : s.me.regs.binding n = none) : s.pushWaits (some n) = false := by
  rw [State.pushWaits, free]

/-- VINS replaces one lane, and goes on (R245). -/
theorem exec_vins (d rs si : Reg) (t : Ty) (s : State) : exec (.vins d rs si t) s = withDir s [d] (some d) fun s =>
    .next (s.wrote d ((mapLanes t (fun i => i == (s.rs si).toNat) (s.me.regs.getV d) fun _ => ((s.rs rs).toNat % 2 ^ t.width,
        0)).1, 0)).past :=
  rfl

/-! ## The frame on unbound registers -/

/-- A hart that stands alone and has written registers only falls through with nothing else changed. -/
theorem past_of_regsWritten {s u t : State} {r : Regs} (alone : s.alone = true) (rep : r.rep = s.me.regs.rep) (w : regsWritten s u r)
    (e : t = u.past) : t.me.regs = { r with pc := t.me.regs.pc } ∧ sameThread s.me t.me ∧ sameButHart s t ∧
      (s.me.run = .running → ∀ k, t.byteAt k = s.byteAt k) := by
  have alone' := alone_of_regsWritten alone rep w
  rw [State.past_alone alone'] at e
  have me : t.me = Thread.wentTo { s.me with regs := r } (u.fall u.cur) := by rw [e, State.me_goto_alone alone', w.2.1]
  have same : sameButHart s t := e ▸ sameButHart_trans w.2.2 (sameButHart_goto_alone alone' _)
  refine ⟨by rw [me]; rfl, me ▸ sameThread_wentTo .., same, fun running => byteAt_of_sameButHart same ?_ ?_⟩
  · rw [me]; rfl
  · exact windowRegs_congr (by rw [me]; rfl) (by rw [me]; rfl) running

theorem regsWritten_wrote {s : State} {d : Reg} (free : s.me.regs.binding d = none) (x : Vec × Flg) :
    regsWritten s (s.wrote d x) ((s.me.regs.setV d x.1).raise x.2) := by
  have put : s.putV d x.1 = s.setRegs (s.me.regs.setV d x.1) := by
    unfold State.putV
    simp only [show (s.thread s.cur).regs.binding d = none from free]
    rfl
  have first := regsWritten_setRegs s (s.me.regs.setV d x.1)
  unfold State.wrote
  rw [put]
  refine ⟨rfl, ?_, sameButHart_trans first.2.2 (sameButHart_setMe ..)⟩
  rw [State.setRegs, State.me_setMe, first.2.1]

/-! ## The forms -/

/-- What a lane-wise instruction leaves once its sources are popped. -/
def lanesDone (i : Instr) (u : State) (v : Reg → Vec) : Result :=
  match laneFun i v u with
  | some (d, t, m, _, f) => .next (u.wrote d (mapLanes t (maskOn u m) (u.oldV d) f)).past
  | none => illegal u

theorem exec_laneFun {i : Instr} {s u : State} {v : Reg → Vec} {d : Reg} {t : Ty} {m : BitVec 16} {srcs : List Reg}
    {f : Nat → Nat × Flg}
    (e : laneFun i v u = some (d, t, m, srcs, f)) : exec i s = withDir s srcs (some d) fun s => withPops s i srcs (lanesDone i) := by
  unfold laneFun at e
  split at e
  all_goals cases e
  all_goals rfl

/-- What another vector instruction with vector sources leaves once they are popped. -/
def formDone (i : Instr) (u : State) (v : Reg → Vec) : Result :=
  match vectorOf i v u with
  | some (_, _, w) => .next w.past
  | none => illegal u

theorem exec_vectorOf {i : Instr} {s u w : State} {v : Reg → Vec} {dst : Option Reg} {srcs : List Reg}
    (e : vectorOf i v u = some (srcs, dst, w)) : exec i s = withDir s srcs dst fun s => withPops s i srcs (formDone i) := by
  unfold vectorOf at e
  split at e
  all_goals cases e
  all_goals rfl

end Sys2Proof.Machine
end

section
open Sys2Proof Sys2Proof.Machine

/-- Settles O35: each instruction is its operand form with its own result. -/
theorem vectorInstructions : Obligations.VectorInstructions := by
  refine ⟨fun i s u vals d t m srcs f e => ?_, fun i s u w vals dst srcs e => ?_, fun d rs si t s => ?_⟩
  · obtain ⟨against, waits, goes⟩ := exec_operands (exec_laneFun e (s := s))
    refine ⟨against, waits, fun a p => ?_⟩
    obtain ⟨stalls, marked, pops, free⟩ := goes a p
    refine ⟨stalls, marked, fun popped => ?_, free⟩
    rw [pops vals u popped, lanesDone, e]
  · obtain ⟨against, waits, goes⟩ := exec_operands (exec_vectorOf e (s := s))
    refine ⟨against, waits, fun a p => ?_⟩
    obtain ⟨stalls, marked, pops, free⟩ := goes a p
    refine ⟨stalls, marked, fun popped => ?_, free⟩
    rw [pops vals u popped, formDone, e]
  · rw [exec_vins]
    refine ⟨fun bound => withDir_against (Regs.against_bound bound), fun free => ?_⟩
    have sources : ∀ x ∈ [d], s.me.regs.binding x = none := fun x hx => List.mem_singleton.1 hx ▸ free
    rw [withDir_goes (Regs.against_free sources free) (State.pushWaits_free free)]
    refine ⟨_, rfl, fun j hj => ?_⟩
    rw [laneOf_mapLanes _ _ _ _ hj]
    simp only [beq_iff_eq, Nat.mod_mod]

/-- Settles O36: unbound registers are popped by none, and the lanes are those of `mapLanes`. -/
theorem vectorFrame : Obligations.VectorFrame := by
  intro i s r d t m srcs f e alone free goes
  have sources := free
  simp only [State.unbound, List.all_cons, Bool.and_eq_true, Option.isNone_iff_eq_none, List.all_eq_true] at sources
  obtain ⟨dest, sources⟩ := sources
  obtain ⟨-, -, form⟩ := exec_operands (exec_laneFun e (s := s))
  obtain ⟨-, -, pops, popped⟩ := form (Regs.against_free sources dest) (State.pushWaits_free dest)
  have none := popped (by simp only [State.unbound, List.all_eq_true, Option.isNone_iff_eq_none]; exact sources)
  have done := pops [] s none
  rw [lanesDone, show laneFun i (delivered s []) s = _ from e] at done
  rw [goes] at done
  have written := regsWritten_wrote dest (mapLanes t (maskOn s m) (s.oldV d) f)
  obtain ⟨regs, thread, rest, bytes⟩ := past_of_regsWritten alone (by rfl) written (Host.Outcome.next.inj done)
  have old : s.oldV d = s.me.regs.getV d := by rw [State.oldV, dest]; rfl
  refine ⟨⟨_, _, regs, fun j hj off => ?_, fun j hj on => ?_⟩, thread, rest, bytes⟩
  · rw [laneOf_mapLanes _ _ _ _ hj, off, old]
    rfl
  · rw [laneOf_mapLanes _ _ _ _ hj, on]
    rfl

end

section
open Sys2Proof Sys2Proof.Machine

/-- Settles O55: the tests of a contribution in their order; what is left is folded. -/
theorem damperFold : Obligations.DamperFold := by
  intro g h late spoil gmnf w old o l fold
  have folded : (if late then 1 else 0) ≠ 3 := by cases late <;> decide
  unfold foldGroup at fold
  dsimp only at fold
  split at fold
  · cases fold
    exact ⟨fun _ => ⟨rfl, rfl⟩, fun n => absurd rfl n, fun _ => rfl⟩
  next c =>
    split at fold
    · cases fold
      exact ⟨fun _ => ⟨rfl, rfl⟩, fun n => absurd rfl n, fun _ => rfl⟩
    next tests =>
      simp only [Bool.or_eq_true, not_or, Bool.not_eq_true, Bool.not_eq_false'] at tests
      obtain ⟨⟨unspoilt, count⟩, -⟩ := tests
      have known : ¬(some c = none ∨ spoil = true) := by simp [unspoilt]
      split at fold
      · split at fold
        · cases fold
        · cases fold
          exact ⟨fun _ => ⟨rfl, rfl⟩, fun n => absurd rfl n, fun _ => rfl⟩
      · split at fold
        next zero =>
          cases fold
          exact ⟨fun e => absurd e folded, fun _ => ⟨rfl, c, rfl, unspoilt, count, fun _ => ⟨rfl, rfl⟩, fun e => by simp [zero] at e⟩,
            fun e => absurd e known⟩
        next some' =>
          split at fold
          · split at fold
            · cases fold
            · cases fold
              exact ⟨fun _ => ⟨rfl, rfl⟩, fun n => absurd rfl n, fun _ => rfl⟩
          next finite =>
            cases fold
            refine ⟨fun e => absurd e folded, fun _ => ⟨rfl, c, rfl, unspoilt, count, fun e => absurd e some', fun _ => ⟨rfl,
                _, rfl, fun x hx => ?_⟩⟩,
              fun e => absurd e known⟩
            simp only [Bool.not_eq_true, Bool.not_eq_false', List.all_eq_true] at finite
            exact Bool.and_eq_true_iff.1 (finite x hx)

end

section
/-! SUPPORT. The accesses of a copy job to on-chip memory (R295). -/

namespace Sys2Proof.Machine

theorem jobAccess_onChip {s : State} {w : Word} {n : Nat} {write : Bool} (oa : isOA w = true) :
    jobAccess s w n write = (.ok [(w.toNat, 0, n)], s) := by
  unfold jobAccess
  exact if_pos oa
theorem jobRead_onChip {s : State} {j : Job} {w : Word} {n : Nat} (oa : isOA w = true) (free : j.stalls s w n = false) :
    jobRead s j w n = (.ok (s.bytesAt w.toNat n), s) := by
  unfold jobRead
  rw [if_neg (by rw [free]; nofun), jobAccess_onChip oa]
  simp
theorem jobWrite_onChip {s : State} {j : Job} {w : Word} {b : List Byte} (oa : isOA w = true) (free : j.stalls s w b.length = false) :
    jobWrite s j w b = (.ok (), s.writeAt s.cur w.toNat b) := by
  unfold jobWrite
  rw [if_neg (by rw [free]; nofun), jobAccess_onChip oa]
  simp
theorem jobRead_stalls {s : State} {j : Job} {w : Word} {n : Nat} (stalls : j.stalls s w n = true) : jobRead s j w n = (.error none, s) :=
  if_pos stalls
theorem jobWrite_stalls {s : State} {j : Job} {w : Word} {b : List Byte} (stalls : j.stalls s w b.length = true) :
    jobWrite s j w b = (.error none, s) := if_pos stalls

@[simp] theorem State.length_bytesAt (s : State) (k n : Nat) : (s.bytesAt k n).length = n := by simp [State.bytesAt]

/-- Bytes written at a place of on-chip memory: they stand there, and no other byte of plain memory has changed. -/
theorem writes_only (s : State) (h : Hart) {k n : Nat} {b : List Byte} (len : b.length = n) (pos : 0 < n)
    (plain : ∀ i, i < n → plainKey (k + i) = true) :
    (∀ q, plainKey q = true → q < k ∨ k + n ≤ q → (s.writeAt h k b).byteAt q = s.byteAt q) ∧ (s.writeAt h k b).bytesAt k n = b := by
  subst len
  exact ⟨fun q hq out => State.byteAt_writeAt_outside s h (plain 0 pos) hq out, State.bytesAt_writeAt_plain s h plain⟩

section
variable {s : State} {j : Job} {l : Layout}

theorem moveElement_dropped (towards : j.sides.2.2 = true) (out : (j.tensorAt l j.pos j.idx).1 = false) :
    moveElement s j l = (.ok (), s) := by
  unfold moveElement
  dsimp only
  rw [if_pos towards, if_pos (by rw [out]; rfl)]
theorem moveElement_toTensor (towards : j.sides.2.2 = true) (inside : (j.tensorAt l j.pos j.idx).1 = true)
    (oa : isOA (j.tensorAt l j.pos j.idx).2 = true) (op : isOA (j.packedAt l j.pos) = true)
    (freeA : j.stalls s (j.tensorAt l j.pos j.idx).2 l.esize = false) (freeP : j.stalls s (j.packedAt l j.pos) l.esize = false) :
    moveElement s j l = (.ok (), s.writeAt s.cur (j.tensorAt l j.pos j.idx).2.toNat (s.bytesAt (j.packedAt l j.pos).toNat l.esize)) := by
  unfold moveElement
  dsimp only
  rw [if_pos towards, if_neg (by rw [inside]; nofun), jobRead_onChip op freeP]
  exact jobWrite_onChip oa (by rwa [State.length_bytesAt])
/-- The bytes that an element takes on the packed side: the tensor's inside it, the fill pattern elsewhere. -/
def packedBytes (s : State) (j : Job) (l : Layout) : List Byte :=
  if (j.tensorAt l j.pos j.idx).1 then s.bytesAt (j.tensorAt l j.pos j.idx).2.toNat l.esize else leBytes l.esize l.fill.toNat
theorem length_packedBytes : (packedBytes s j l).length = l.esize := by
  unfold packedBytes
  split
  · exact State.length_bytesAt ..
  · exact length_leBytes ..
theorem moveElement_toPacked (towards : j.sides.2.2 = false) (oa : isOA (j.tensorAt l j.pos j.idx).2 = true)
    (freeA : j.stalls s (j.tensorAt l j.pos j.idx).2 l.esize = false ∨ (j.tensorAt l j.pos j.idx).1 = false) :
    moveElement s j l = jobWrite s j (j.packedAt l j.pos) (packedBytes s j l) := by
  unfold moveElement packedBytes
  dsimp only
  rw [if_neg (by rw [towards]; nofun)]
  split
  next inside =>
    rw [jobRead_onChip oa (freeA.resolve_right (by rw [inside]; nofun))]
  next => rfl
theorem moveElement_waits (towards : j.sides.2.2 = false) (oa : isOA (j.tensorAt l j.pos j.idx).2 = true)
    (stalls : j.stalls s (j.packedAt l j.pos) l.esize = true) : moveElement s j l = (.error none, s) := by
  by_cases free : j.stalls s (j.tensorAt l j.pos j.idx).2 l.esize = false ∨ (j.tensorAt l j.pos j.idx).1 = false
  · rw [moveElement_toPacked towards oa free]
    exact jobWrite_stalls (by rwa [length_packedBytes])
  · simp only [not_or, Bool.not_eq_false] at free
    unfold moveElement
    dsimp only
    rw [if_neg (by rw [towards]; nofun), if_pos free.2, jobRead_stalls free.1]

end

end Sys2Proof.Machine
end

section
open Sys2Proof Sys2Proof.Machine

/-- Settles O45: the four ways an element goes, and the one place that a write changes. -/
theorem copyElement : Obligations.CopyElement := by
  intro s t j l r moved a p inside at' only oa op pos
  refine ⟨fun freeA freeP => ⟨fun towards plain => ?_, fun towards isIn plain => ?_⟩, fun towards out => ?_, fun towards stalls => ?_⟩
  · rw [moveElement_toPacked towards oa (.inl freeA), jobWrite_onChip op (by rwa [length_packedBytes])] at moved
    cases moved
    obtain ⟨rest, wrote⟩ := writes_only s s.cur length_packedBytes pos plain
    exact ⟨rfl, rest, wrote⟩
  · rw [moveElement_toTensor towards isIn oa op freeA freeP] at moved
    cases moved
    obtain ⟨rest, wrote⟩ := writes_only s s.cur (State.length_bytesAt ..) pos plain
    exact ⟨rfl, rest, wrote⟩
  · rw [moveElement_dropped towards out] at moved
    cases moved
    exact ⟨rfl, rfl⟩
  · rw [moveElement_waits towards oa stalls] at moved
    cases moved
    exact ⟨rfl, rfl⟩

end

section
/-! SUPPORT. Elements of accumulator tiles, and the addend packets that add to them (R262, R271, R286). -/

namespace Sys2Proof.Machine

/-! ## Elements of a tile -/

theorem Memory.read_write_leBytes (m : List Host.Cell) (k n v : Nat) : leNat (Memory.read (Memory.write m k (leBytes n v)) k n)
    = v % 2 ^ (8 * n) := by
  have same := Memory.read_write_self m k (leBytes n v)
  rw [length_leBytes] at same
  rw [Memory.read, same, leNat_leBytes]
theorem Memory.read_write_outside (m : List Host.Cell) {k j n : Nat} {l : List Byte} (apart : j + n ≤ k ∨ k + l.length ≤ j) :
    Memory.read (Memory.write m k l) j n = Memory.read m j n :=
  List.map_congr_left fun i hi => Memory.get_write_outside _ (by have := List.mem_range.1 hi; omega)

/-- The width in bits of an element of a tile, or of a binary64 pair. -/
def elWidth (pair : Bool) : Nat := if pair then 64 else 32

theorem tileKey_eq (cl t i j : Nat) : tileKey cl t i j = tileKey cl 0 0 0 + (t * 0x10000 + i * 0x200 + 4 * j) := by
  unfold tileKey accKey mkOA
  omega

/-- The element that was set reads as it was set. -/
theorem State.tileEl_setTileEl_self (s : State) (cl t : Nat) (pair : Bool) (i j v : Nat) :
    (s.setTileEl cl t pair i j v).tileEl cl t pair i j = v % 2 ^ elWidth pair := by
  have apart : tileKey cl t i j + 4 ≤ tileKey cl (t + 1) i j := by
    rw [tileKey_eq cl t, tileKey_eq cl (t + 1)]
    omega
  unfold State.setTileEl State.tileEl elWidth
  cases pair
  · simp only [Bool.false_eq_true, if_false]
    exact Memory.read_write_leBytes ..
  · simp only [if_true]
    rw [Memory.read_write_outside _ (.inl apart), Memory.read_write_leBytes, Memory.read_write_leBytes]
    omega

/-- Another element of the tile reads as before. -/
theorem State.tileEl_setTileEl_other (s : State) (cl t : Nat) {pair : Bool} {i j i' j' : Nat} (v : Nat) (other : (i, j) ≠ (i', j'))
    (hj : j < 128) (hj' : j' < 128) (rows : pair = true → i < 128 ∧ i' < 128) :
    (s.setTileEl cl t pair i j v).tileEl cl t pair i' j' = s.tileEl cl t pair i' j' := by
  have len (x : Nat) : (leBytes 4 x).length = 4 := length_leBytes ..
  have differ : i ≠ i' ∨ j ≠ j' := by
    rcases Nat.decEq i i' with ne | rfl
    · exact .inl ne
    · exact .inr fun e => other (by rw [e])
  have same (a x : Nat) : tileKey cl a i' j' + 4 ≤ tileKey cl a i j ∨ tileKey cl a i j + (leBytes 4 x).length ≤ tileKey cl a i'
      j' := by
    rw [len, tileKey_eq cl a i' j', tileKey_eq cl a i j]
    omega
  unfold State.setTileEl State.tileEl
  cases pair
  · simp only [Bool.false_eq_true, if_false]
    rw [Memory.read_write_outside _ (same ..)]
  · obtain ⟨hi, hi'⟩ := rows rfl
    have next (x : Nat) : tileKey cl t i' j' + 4 ≤ tileKey cl (t + 1) i j ∨
        tileKey cl (t + 1) i j + (leBytes 4 x).length ≤ tileKey cl t i' j' := by
      rw [len, tileKey_eq cl t i' j', tileKey_eq cl (t + 1) i j]
      omega
    have back (x : Nat) : tileKey cl (t + 1) i' j' + 4 ≤ tileKey cl t i j ∨
        tileKey cl t i j + (leBytes 4 x).length ≤ tileKey cl (t + 1) i' j' := by
      rw [len, tileKey_eq cl (t + 1) i' j', tileKey_eq cl t i j]
      omega
    simp only [if_true]
    rw [Memory.read_write_outside _ (next _), Memory.read_write_outside _ (same ..), Memory.read_write_outside _ (same ..),
      Memory.read_write_outside _ (back _)]

/-- Elements that are set at places of their own: each reads as it was set. -/
theorem tileEl_foldl {α : Type} {l : List α} {pos : α → Nat × Nat} (val : α → Nat) (s : State) (cl t : Nat) {pair : Bool}
    (cols : ∀ a ∈ l, (pos a).2 < 128) (rows : pair = true → ∀ a ∈ l, (pos a).1 < 128) (apart : l.Pairwise fun a b => pos a ≠ pos b) :
    ∀ a ∈ l, (l.foldl (fun s x => s.setTileEl cl t pair (pos x).1 (pos x).2 (val x)) s).tileEl cl t pair (pos a).1 (pos a).2 =
      val a % 2 ^ elWidth pair := by
  have rest (l : List α) (p : Nat × Nat) (hp : p.2 < 128) (hr : pair = true → p.1 < 128) (cols : ∀ a ∈ l, (pos a).2 < 128)
      (rows : pair = true → ∀ a ∈ l, (pos a).1 < 128) (other : ∀ a ∈ l, p ≠ pos a) (s : State) :
      (l.foldl (fun s x => s.setTileEl cl t pair (pos x).1 (pos x).2 (val x)) s).tileEl cl t pair p.1 p.2 = s.tileEl cl t pair
          p.1 p.2 := by
    induction l generalizing s with
    | nil => rfl
    | cons a r ih =>
      rw [List.foldl_cons, ih (fun b hb => cols b (.tail a hb)) (fun h b hb => rows h b (.tail a hb)) (fun b hb => other b (.tail a hb))]
      exact State.tileEl_setTileEl_other s cl t _ (other a List.mem_cons_self).symm (cols a List.mem_cons_self) hp
        fun h => ⟨rows h a List.mem_cons_self, hr h⟩
  induction l generalizing s with
  | nil => exact nofun
  | cons b r ih =>
    obtain ⟨first, apart⟩ := List.pairwise_cons.1 apart
    intro a ha
    rw [List.foldl_cons]
    rcases List.mem_cons.1 ha with rfl | later
    · rw [rest r _ (cols a List.mem_cons_self) (fun h => rows h a List.mem_cons_self) (fun b hb => cols b (.tail a hb))
        (fun h b hb => rows h b (.tail a hb)) first]
      exact State.tileEl_setTileEl_self ..
    · exact ih _ (fun b hb => cols b (.tail _ hb)) (fun h b hb => rows h b (.tail _ hb)) apart a later

/-! ## Addend packets -/

theorem Cluster.takes_iff (c : Cluster) (a : Addend) : c.takes a = true ↔
    (c.tile a.tile).armed = true ∧ a.round = (c.tile a.tile).round ∧
      (c.held.filter (fun b => b.ok && b.tile == a.tile && b.arming == (c.tile a.tile).arming)).length < (c.tile
          a.tile).remain.toNat ∧
      a.row < 128 ∧ a.col % (if (c.tile a.tile).f64 then 8 else 16) = 0 ∧
      a.col + (if (c.tile a.tile).f64 then 8 else 16) ≤ (if (c.tile a.tile).f64 then 64 else 128) := by
  simp [Cluster.takes, and_assoc]

/-- The packet as its tile has judged it. -/
def Addend.judged (a : Addend) (c : Cluster) : Addend :=
  { a with ok := c.takes a, f64 := (c.tile a.tile).f64, arming := (c.tile a.tile).arming }

theorem applyAddend_quiet (s : State) (cl : Nat) {a : Addend} (quiet : a.ci = none) : applyAddend s cl a = addAddend s cl a := by
  simp only [applyAddend, quiet]

theorem arriveAddend_refused {s : State} {cl : Nat} {a : Addend} (refused : (s.cluster cl).takes a = false) (quiet : a.ci = none) :
    arriveAddend s cl a = s.countCl cl cAddendRefused 1 := by
  unfold arriveAddend
  simp [refused, quiet, applyAddend, addAddend]
theorem arriveAddend_held {s : State} {cl : Nat} {a : Addend} (taken : (s.cluster cl).takes a = true)
    (waits : (s.cluster cl).tileBusy a.tile ((s.cluster cl).tile a.tile).f64 = true ∨ ∃ b ∈ (s.cluster cl).held, b.tile = a.tile) :
    arriveAddend s cl a = s.setCluster cl { s.cluster cl with held := (s.cluster cl).held ++ [a.judged (s.cluster cl)] } := by
  unfold arriveAddend
  simp only [taken, Bool.true_or, Bool.true_and, Bool.or_eq_true, List.any_eq_true, beq_iff_eq, if_true]
  rw [if_pos waits, Addend.judged, taken]
theorem arriveAddend_added {s : State} {cl : Nat} {a : Addend} (taken : (s.cluster cl).takes a = true) (quiet : a.ci = none)
    (goes : ¬((s.cluster cl).tileBusy a.tile ((s.cluster cl).tile a.tile).f64 = true ∨ ∃ b ∈ (s.cluster cl).held, b.tile = a.tile)) :
    arriveAddend s cl a = addAddend s cl (a.judged (s.cluster cl)) := by
  unfold arriveAddend
  simp only [taken, Bool.true_or, Bool.true_and, Bool.or_eq_true, List.any_eq_true, beq_iff_eq, if_true]
  rw [if_neg goes, Addend.judged, taken]
  exact applyAddend_quiet s cl quiet

/-- The element `e` that a packet leaves. -/
def addendEl (s : State) (cl : Nat) (a : Addend) (e : Nat) : Nat :=
  (if a.f64 then f64 else f32).addF (s.tileEl cl a.tile a.f64 a.row (a.col + e))
    (a.data.extractLsb' (elWidth a.f64 * e) (elWidth a.f64)).toNat
/-- The elements of a packet's lines with their sums. -/
def addendVals (s : State) (cl : Nat) (a : Addend) : List (Nat × Nat) :=
  (List.range (if a.f64 then 8 else 16)).map fun e => (e, addendEl s cl a e)
/-- The state with the sums written to the tile. -/
def addendPlaced (s : State) (cl : Nat) (a : Addend) : State :=
  if a.ident then s else (addendVals s cl a).foldl (fun s x => s.setTileEl cl a.tile a.f64 a.row (a.col + x.1) x.2) s
/-- The tile's status with one addend of its arming counted down. -/
def addendMeta (s : State) (cl : Nat) (a : Addend) : TileMeta :=
  let m := (s.cluster cl).tile a.tile
  { m with
    remain := m.remain - 1, armed := m.remain - 1 != 0
    nonfinite := m.nonfinite || !a.ident && (addendVals s cl a).any fun x => !(if a.f64 then f64 else f32).isFinite x.2 }

theorem State.clusters_setTileEl (s : State) (cl t : Nat) (pair : Bool) (i j v : Nat) : (s.setTileEl cl t pair i j v).clusters
    = s.clusters := by
  unfold State.setTileEl
  dsimp only
  split <;> rfl
theorem clusters_addendPlaced (s : State) (cl : Nat) (a : Addend) : (addendPlaced s cl a).clusters = s.clusters := by
  unfold addendPlaced
  split
  · rfl
  · exact foldl_keeps _ State.clusters _ _ fun _ _ => State.clusters_setTileEl ..
theorem tileEl_addendPlaced {s : State} {cl : Nat} {a : Addend} (real : a.ident = false) (row : a.row < 128)
    (cols : a.col + (if a.f64 then 8 else 16) ≤ 128) {e : Nat} (he : e < if a.f64 then 8 else 16) :
    (addendPlaced s cl a).tileEl cl a.tile a.f64 a.row (a.col + e) = addendEl s cl a e % 2 ^ elWidth a.f64 := by
  have mem : (e, addendEl s cl a e) ∈ addendVals s cl a := List.mem_map.2 ⟨e, List.mem_range.2 he, rfl⟩
  have bound : ∀ x ∈ addendVals s cl a, x.1 < if a.f64 then 8 else 16 := fun x hx => by
    obtain ⟨k, hk, rfl⟩ := List.mem_map.1 hx
    exact List.mem_range.1 hk
  have apart : (addendVals s cl a).Pairwise fun x y => (a.row, a.col + x.1) ≠ (a.row, a.col + y.1) :=
    List.pairwise_map.2 (List.pairwise_lt_range.imp fun lt e => by have := (Prod.mk.inj e).2; omega)
  have placed : addendPlaced s cl a =
      (addendVals s cl a).foldl (fun s x => s.setTileEl cl a.tile a.f64 a.row (a.col + x.1) x.2) s :=
    if_neg (by rw [real]; nofun)
  rw [placed]
  generalize addendVals s cl a = l at mem bound apart ⊢
  generalize addendEl s cl a e = v at mem ⊢
  have set := tileEl_foldl (pair := a.f64) (pos := fun x => (a.row, a.col + x.1)) Prod.snd s cl a.tile
    (fun x hx => Nat.lt_of_lt_of_le (Nat.add_lt_add_left (bound x hx) _) cols) (fun _ _ _ => row) apart (e, v) mem
  dsimp only at set
  exact set

theorem cluster_notifyUp (s : State) (cl i : Nat) :
    (notifyUp s cl i).cluster cl = (s.cluster cl).setCounter i ((s.cluster cl).counter i + 1) := State.cluster_setCluster_self
        ..

/-- A packet that is taken: its elements stand in the tile, one addend is counted down, and the last raises the tile's counter. -/
theorem addAddend_eq {s : State} {cl : Nat} {a : Addend} (ok : a.ok = true) (armed : a.arming = ((s.cluster cl).tile
    a.tile).arming) :
    ∃ v, addAddend s cl a = (if ((s.cluster cl).tile a.tile).remain - 1 = 0 then
        notifyUp v cl ((s.cluster cl).tile a.tile).ci.toNat else v) ∧
      v.mem = (addendPlaced s cl a).mem ∧ v.cluster cl = (s.cluster cl).setTile a.tile (addendMeta s cl a) := by
  have clusters := clusters_addendPlaced s cl a
  have placed (lines : List Nat) : (((addendPlaced s cl a).noteLines cl lines deviceHart).setCluster cl
      ((((addendPlaced s cl a).noteLines cl lines deviceHart).cluster cl).setTile a.tile (addendMeta s cl a))).cluster cl =
      (s.cluster cl).setTile a.tile (addendMeta s cl a) := by
    rw [State.cluster_setCluster_self, State.cluster, State.cluster, ← clusters]
    rfl
  unfold addAddend
  simp only [ok, Bool.not_true, Bool.false_eq_true, if_false, if_pos armed]
  exact ⟨_, rfl, rfl, placed _⟩

end Sys2Proof.Machine
end

section
open Sys2Proof Sys2Proof.Machine

/-- Settles O41: a packet is refused, held or added as its tile judges it, and one that is added leaves what `addAddend_eq` says. -/
theorem addendPackets : Obligations.AddendPackets := by
  intro s cl a c m width w f ahead fits waits t
  have judged : c.takes a = true ↔ fits := c.takes_iff a
  refine ⟨fun no quiet => arriveAddend_refused (Bool.eq_false_iff.2 fun h => no (judged.1 h)) quiet, fun yes hold => ?_, fun
      yes goes quiet => ?_⟩
  · exact (arriveAddend_held (judged.2 yes) hold).trans (by rw [Addend.judged, judged.2 yes])
  · have row : a.row < 128 := yes.2.2.2.1
    have cols : a.col + width ≤ 128 := yes.2.2.2.2.2.trans (by split <;> decide)
    have added : t = addAddend s cl (a.judged c) := arriveAddend_added (judged.2 yes) quiet goes
    obtain ⟨v, whole, mem, cluster⟩ := addAddend_eq (s := s) (cl := cl) (a := a.judged c) (judged.2 yes) rfl
    have whole : t = if m.remain - 1 = 0 then notifyUp v cl m.ci.toNat else v := added.trans whole
    have left : m.remain - 1 = 0 ↔ m.remain = 1 := by bv_omega
    have tile : (v.cluster cl).tile a.tile = addendMeta s cl (a.judged c) := by
      rw [cluster]
      exact Tab.get_set_self ..
    have same : t.mem = v.mem ∧ (t.cluster cl).tile a.tile = (v.cluster cl).tile a.tile := by
      rw [whole]
      split
      · exact ⟨rfl, by rw [cluster_notifyUp]; rfl⟩
      · exact ⟨rfl, rfl⟩
    have elements (e : Nat) : t.tileEl cl a.tile m.f64 a.row (a.col + e) =
        (addendPlaced s cl (a.judged c)).tileEl cl a.tile m.f64 a.row (a.col + e) := by
      rw [State.tileEl, State.tileEl, same.1, mem]
    refine ⟨fun ident => ?_, fun real e he => (elements e).trans (tileEl_addendPlaced (a := a.judged c) real row cols he), ?_,
      fun last => ?_, fun more => ?_⟩
    · rw [same.1, mem, addendPlaced, if_pos (show (a.judged c).ident = true from ident)]
    · rw [same.2, tile]; rfl
    · refine ⟨?_, ?_⟩
      · rw [same.2, tile]
        simp only [addendMeta, bne_eq_false_iff_eq]
        exact left.2 last
      · rw [whole, if_pos (left.2 last), cluster_notifyUp, cluster]
        exact Tab.get_set_self ..
    · refine ⟨?_, ?_⟩
      · rw [same.2, tile]
        simp only [addendMeta, bne_iff_ne, ne_eq]
        exact fun h => more (left.1 h)
      · rw [whole, if_neg fun h => more (left.1 h), cluster]
        rfl

end

section
/-! SUPPORT. Matrix commands as they are issued (R258 to R260, R282 to R285). -/

namespace Sys2Proof.Machine

/-- Each command of the matrix unit is checked and queued in the one way. -/
theorem exec_matrixOf {i : Instr} {s : State} {sa sb sp : Reg} {chk : MEntry → Option (Trap × Word)}
    (e : matrixOf i (hartCl s.cur) = some (sa, sb, sp, chk)) : exec i s = mCommand s i sa sb sp chk := by
  unfold matrixOf at e
  split at e
  all_goals cases e
  all_goals rfl
theorem exec_matrixQueueAccept {i : Instr} {s : State} {x : Reg × Reg × Reg × (MEntry → Option (Trap × Word))}
    (e : matrixOf i (hartCl s.cur) = some x) (stalled : s.stalledHead s.cur = some i) : exec .matrixQueueAccept s = exec i s := by
  rw [exec, execMatrixQueueAccept, stalled]
  unfold matrixOf at e
  split at e
  all_goals cases e
  all_goals rfl

end Sys2Proof.Machine
end

section
open Sys2Proof Sys2Proof.Machine

/-- Settles O38: a command by the checks of `mCommand`, MWAIT, MFAB and MCHK by what they find of their continuation's commands. -/
theorem matrixCommands : Obligations.MatrixCommands := by
  refine ⟨fun i sa sb sp chk s e => ?_, fun tile a rd s mayEnd => ?_⟩
  · intro cl full
    rw [exec_matrixOf e]
    refine ⟨fun x w bad => ?_, fun good full => ?_, fun good room release => ?_, fun stalled => (exec_matrixQueueAccept e
        stalled).trans (exec_matrixOf e)⟩
    · rw [mCommand, bad]
    · rw [mCommand, good]
      exact if_pos full
    · rw [mCommand, good]
      refine ((if_neg room).trans (withRelease_mayRelease s _ release)).trans ?_
      dsimp only
      rw [State.cur_released]
      rfl
  · intro e r cl left w bad busy m
    have ends (k : State → Result) : withChunkEnd s k = k e := withChunkEnd_mayEnd s k mayEnd
    have cur : hartCl e.cur = cl := by rw [State.cur_ended]
    refine ⟨fun few => ?_, fun many => ?_, fun no => ?_, fun yes release => ?_, fun b => ?_, fun b keep => ?_, fun b clear => ?_⟩
    · exact (ends _).trans (if_pos few)
    · exact (ends _).trans (if_neg (Nat.not_le.2 many))
    · exact if_pos (by simpa only [Bool.or_eq_true, decide_eq_true_eq, Bool.and_eq_true, or_assoc] using no)
    · refine ((if_neg (by simpa only [Bool.or_eq_true, decide_eq_true_eq, Bool.and_eq_true, or_assoc] using yes)).trans
        (withRelease_mayRelease s _ release)).trans ?_
      dsimp only
      rw [State.cur_released]
      rfl
    · refine (ends _).trans ((if_pos ?_).trans ?_)
      · rw [cur]; exact b
      · rfl
    · refine (ends _).trans ((if_neg ?_).trans ?_)
      · rw [cur, show List.any _ _ = false from b]; nofun
      · rw [cur]
        dsimp only
        rw [if_pos keep]
        rfl
    · refine (ends _).trans ((if_neg ?_).trans ?_)
      · rw [cur, show List.any _ _ = false from b]; nofun
      · rw [cur]
        dsimp only
        rw [if_neg clear]
        rfl

end

section
/-! SUPPORT. The arbiter of the matrix unit and what a grant leaves (R267 to R270). -/

namespace Sys2Proof.Machine

/-! ## A command is computed -/

/-- The state `t` differs from `s` in the statistics of cluster `cl` alone, its reruns not among them. -/
def statOnly (cl : Nat) (s t : State) : Prop :=
  t = { s with clusters := t.clusters } ∧ (∀ d, d ≠ cl → t.cluster d = s.cluster d) ∧
    ∃ st, t.cluster cl = { s.cluster cl with stat := st } ∧ Tab.get 0 st cRerun = Tab.get 0 (s.cluster cl).stat cRerun

theorem Tab.get_set_other {α : Type} [DecidableEq α] (d : α) (t : Tab α) {k j : Nat} (x : α) (other : j ≠ k) :
    Tab.get d (Tab.set d t k x) j = Tab.get d t j := (Tab.get_set ..).trans (if_neg other)

theorem statOnly_refl (cl : Nat) (s : State) : statOnly cl s s := ⟨rfl, fun _ _ => rfl, _, rfl, rfl⟩
theorem statOnly_trans {cl : Nat} {s t u : State} (a : statOnly cl s t) (b : statOnly cl t u) : statOnly cl s u := by
  obtain ⟨whole, others, st, cluster, reruns⟩ := a
  obtain ⟨whole', others', st', cluster', reruns'⟩ := b
  refine ⟨?_, fun d hd => (others' d hd).trans (others d hd), st', ?_, ?_⟩
  · rw [whole', whole]
  · rw [cluster', cluster]
  · rw [reruns', cluster, reruns]
theorem statOnly_countCl (s : State) (cl : Nat) {n : Nat} (k : Nat) (other : n ≠ cRerun) : statOnly cl s (s.countCl cl n k) := by
  refine ⟨rfl, fun d hd => Tab.get_set_other _ _ _ hd, bump (s.cluster cl).stat n k, State.cluster_setCluster_self .., ?_⟩
  exact Tab.get_set_other _ _ _ other.symm

/-- Computing a command counts at its cluster and gives it a result, and leaves all else. -/
theorem compute_spec (s : State) (cl : Nat) (e : MEntry) :
    statOnly cl s (compute s cl e).1 ∧ ∃ res ok, (compute s cl e).2 = { e with res := res, ok := ok } := by
  have counted (n m : Nat) : statOnly cl s ((s.countCl cl cEc8 n).countCl cl cSparse m) :=
    statOnly_trans (statOnly_countCl s cl n (by decide)) (statOnly_countCl _ cl m (by decide))
  unfold compute
  dsimp only
  split
  · exact ⟨counted .., _, _, rfl⟩
  · exact ⟨counted .., _, _, rfl⟩
  · exact ⟨statOnly_refl .., _, e.ok, rfl⟩
  · exact ⟨statOnly_refl .., _, e.ok, rfl⟩
  · exact ⟨statOnly_refl .., e.res, e.ok, rfl⟩

/-- A command whose reads are free begins its busy cycles, another one stalls. -/
theorem beginRun_spec (s : State) (cl : Nat) (e : MEntry) :
    statOnly cl s (beginRun s cl e).1 ∧ (beginRun s cl e).2.id = e.id ∧ (beginRun s cl e).2.instr = e.instr ∧
      (beginRun s cl e).2.base = e.base ∧
      (readGuarded s e = false → runsTo (beginRun s cl e).2 (s.now + e.busy - 1) false) ∧
      (readGuarded s e = true → (beginRun s cl e).2.st = .reading) := by
  unfold beginRun
  split
  · next stalls => exact ⟨statOnly_refl .., rfl, rfl, rfl, by rw [stalls]; nofun, fun _ => rfl⟩
  · next goes =>
    obtain ⟨only, res, ok, entry⟩ := compute_spec s cl { e with st := .running (s.now + e.busy - 1) false }
    rw [entry]
    exact ⟨only, rfl, rfl, rfl, fun _ => rfl, fun h => absurd h goes⟩

/-! ## A grant -/

/-- What a grant leaves of the cluster: the command moved from the queue to the granted ones, and one credit spent. -/
def Cluster.granting (c : Cluster) (e e' : MEntry) (k : Nat) (cr : Vector Nat 8) : Cluster :=
  { c with
    queue := c.queue.filter (fun f => f.id != e.id), granted := c.granted ++ [e'], parked := false, last := k
    credit := Vector.ofFn (fun i => if i.val = k then cr[i] - 1 else cr[i]) }

theorem grantNext_eq {s : State} {cl k : Nat} {cr : Vector Nat 8} {e : MEntry} (choice : arbitrate (s.cluster cl) = some (k, cr))
    (oldest : (s.cluster cl).queue.find? (fun x => x.core == k) = some e) :
    grantNext s cl = (beginRun s cl { e with base := regionBase s cl e }).1.setCluster cl
      (((beginRun s cl { e with base := regionBase s cl e }).1.cluster cl).granting e
        (beginRun s cl { e with base := regionBase s cl e }).2 k cr) := by
  unfold grantNext
  rw [choice]
  dsimp only
  rw [oldest]
  rfl

/-- A grant runs the oldest command of the core that was chosen, or lets its reads stall. -/
theorem grantNext_spec {s : State} {cl k : Nat} {cr : Vector Nat 8} {e : MEntry} (choice : arbitrate (s.cluster cl) = some (k, cr))
    (oldest : (s.cluster cl).queue.find? (fun x => x.core == k) = some e) :
    grantNext s cl = { s with clusters := (grantNext s cl).clusters } ∧ (∀ d, d ≠ cl → (grantNext s cl).cluster d = s.cluster d) ∧
    ∃ e' st, (grantNext s cl).cluster cl = { (s.cluster cl).granting e e' k cr with stat := st } ∧
      (readGuarded s e = false → runsTo e' (s.now + e.busy - 1) false) ∧ (readGuarded s e = true → e'.st = .reading) ∧
      e'.id = e.id ∧ e'.instr = e.instr ∧ e'.base = regionBase s cl e := by
  rw [grantNext_eq choice oldest]
  obtain ⟨⟨whole, others, st, cluster, -⟩, id, instr, base, runs, stalls⟩ :=
    beginRun_spec s cl { e with base := regionBase s cl e }
  generalize beginRun s cl { e with base := regionBase s cl e } = x at whole others cluster id instr base runs stalls ⊢
  refine ⟨?_, fun d hd => (Tab.get_set_other _ _ _ hd).trans (others d hd), x.2, st, ?_, runs, stalls, id, instr, base⟩
  · rw [State.setCluster, whole]
  · rw [State.cluster_setCluster_self, cluster]
    rfl

/-! ## The arbiter's choice -/

theorem arbitrate_spec {c : Cluster} {k : Nat} {cr : Vector Nat 8} (choice : arbitrate c = some (k, cr)) :
    k < 8 ∧ (∃ e ∈ c.queue, e.core = k) ∧ (∀ h : k < 8, cr[k] ≠ 0) ∧
      (cr = c.credit ∨ ((∀ i : Fin 8, cr[i] = weightOf c.mwgt i.val) ∧ ∀ i : Fin 8, (∃ e ∈ c.queue, e.core = i.val) →
          c.credit[i] = 0)) := by
  unfold arbitrate at choice
  dsimp only at choice
  split at choice
  · cases choice
  · obtain ⟨k', found, pair⟩ := Option.map_eq_some_iff.1 choice
    obtain ⟨rfl, rfl⟩ := Prod.mk.inj pair
    have holds := List.find?_some found
    obtain ⟨d, -, place⟩ := List.mem_map.1 (List.mem_of_find?_eq_some found)
    have small : k' < 8 := by omega
    simp only [Bool.and_eq_true, List.any_eq_true, beq_iff_eq, bne_iff_ne] at holds
    obtain ⟨waits, credit⟩ := holds
    refine ⟨small, waits, fun h => ?_, ?_⟩
    · simpa [h] using credit
    · split
      · next dry =>
        refine .inr ⟨fun i => by simp, fun i waits => ?_⟩
        have all := List.all_eq_true.1 dry i.val (List.mem_range.2 i.isLt)
        obtain ⟨e, he, core⟩ := waits
        have some : c.queue.any (fun e => e.core == i.val) = true := List.any_eq_true.2 ⟨e, he, by simp [core]⟩
        rw [some] at all
        simpa using all
      · exact .inl rfl

end Sys2Proof.Machine
end

section
open Sys2Proof Sys2Proof.Machine

/-- Settles O39: the arbiter's own choice, and what its grant leaves. -/
theorem matrixArbitration : Obligations.MatrixArbitration := by
  refine ⟨fun s k cr e => ?_, fun c k cr choice => arbitrate_spec choice⟩
  intro c free due awake choice oldest
  have goes : (c.isRunning || decide (s.now < c.freeAt) || (c.isParked s.now && !tokenReaches s.now s.cur)) = false := by
    have late : decide (s.now < c.freeAt) = false := decide_eq_false (by omega)
    rw [free, late]
    rcases awake with awake | ⟨cycle, token⟩
    · rw [awake]; rfl
    · simp [tokenReaches, cycle, token]
  obtain ⟨whole, -, e', st, cluster, runs, stalls, id, instr, base⟩ := grantNext_spec choice oldest
  refine ⟨grantNext s s.cur, e', ?_, ?_, ?_, ?_, ?_, runs, stalls, id, instr, base, fun i => ?_⟩
  · exact if_neg (Bool.eq_false_iff.1 goes)
  · rw [cluster]; rfl
  · rw [whole]
  · rw [cluster]; rfl
  · rw [cluster]; rfl
  · rw [cluster]
    simp [Cluster.granting]

end

section
/-! SUPPORT. The end of a command's busy cycles, its write-back, and the parked unit (R27, R269 to R277). -/

namespace Sys2Proof.Machine

/-! ## The status of the tiles, and a granted command replaced -/

theorem Cluster.foldl_setTile (c : Cluster) (f : TileMeta → TileMeta) (names : Nat → Bool) {l : List Nat} (distinct : l.Nodup) :
    ∃ ts, l.foldl (fun c t => if names t then c.setTile t (f (c.tile t)) else c) c = { c with tiles := ts } ∧
      ∀ n, Tab.get {} ts n = if n ∈ l ∧ names n = true then f (c.tile n) else c.tile n := by
  induction l generalizing c with
  | nil => exact ⟨c.tiles, rfl, fun n => by simp [Cluster.tile]⟩
  | cons a r ih =>
    obtain ⟨fresh, distinct⟩ := List.nodup_cons.1 distinct
    rw [List.foldl_cons]
    by_cases named : names a = true
    · obtain ⟨ts, whole, tiles⟩ := ih (c.setTile a (f (c.tile a))) distinct
      refine ⟨ts, by rw [if_pos named, whole]; rfl, fun n => ?_⟩
      rw [tiles]
      by_cases here : n = a
      · subst here
        rw [if_neg (by simp [fresh]), if_pos ⟨List.mem_cons_self, named⟩]
        exact Tab.get_set_self ..
      · have other : (c.setTile a (f (c.tile a))).tile n = c.tile n := Tab.get_set_other _ _ _ here
        simp [other, here]
    · obtain ⟨ts, whole, tiles⟩ := ih c distinct
      refine ⟨ts, by rw [if_neg named, whole], fun n => ?_⟩
      rw [tiles]
      by_cases here : n = a
      · subst here; simp [named]
      · simp [here]

/-- Changing the status of a command's tiles changes those tiles alone. -/
theorem Cluster.onTiles_spec (c : Cluster) (e : MEntry) (f : TileMeta → TileMeta) :
    ∃ ts, c.onTiles e f = { c with tiles := ts } ∧
      ∀ n, (c.onTiles e f).tile n = if n < 8 ∧ e.names n = true then f (c.tile n) else c.tile n := by
  obtain ⟨ts, whole, tiles⟩ := c.foldl_setTile f e.names List.nodup_range (l := List.range 8)
  refine ⟨ts, whole, fun n => ?_⟩
  rw [Cluster.onTiles, whole]
  exact (tiles n).trans (by simp)

theorem Cluster.mem_putEntry {c : Cluster} {e x : MEntry} (mem : x ∈ (c.putEntry e).granted) (id : x.id = e.id) : x = e := by
  obtain ⟨y, -, rfl⟩ := List.mem_map.1 mem
  by_cases same : (y.id == e.id) = true
  · rw [if_pos same]
  · rw [if_neg same] at id
    exact absurd (beq_iff_eq.2 id) same

/-! ## The last busy cycle -/

theorem busyEnd_reads {s : State} {e : MEntry} (first : (s.cluster s.cur).granted.find? (fun x => x.st == .reading) = some e) :
    exec .matrixBusyEnd s = .next (readOn s s.cur e) := by
  change execMatrixBusyEnd s = _
  unfold execMatrixBusyEnd
  simp only [first]

/-- The state and the cluster that a command which goes to write-back leaves. -/
def busyDone (s : State) (c : Cluster) (e : MEntry) (stop : Nat) : State :=
  s.setCluster s.cur { c.putEntry { e with st := .writeback (stop + 24) } with freeAt := stop + 1, idleSince := stop + 1 }
/-- The state in which a command spoils its tiles, or runs again. -/
def busySpoiled (s : State) : State := (s.countCl s.cur cRerun 1).countCl s.cur cSpoiledTile 1
def busyAgain (s : State) (e : MEntry) (stop : Nat) : State × MEntry :=
  compute (s.countCl s.cur cRerun 1) s.cur { e with st := .running (stop + e.busy) true }

theorem busyEnd_eq {s : State} {e : MEntry} {stop : Nat} {again : Bool}
    (none : (s.cluster s.cur).granted.find? (fun x => x.st == .reading) = none)
    (first : (s.cluster s.cur).granted.find? (fun x => match x.st with
      | .running n _ => n ≤ s.now
      | _ => false) = some e) (runs : runsTo e stop again) :
    exec .matrixBusyEnd s =
      if e.ok then .next (busyDone s (s.cluster s.cur) e stop)
      else if again then .next (busyDone (busySpoiled s)
        (((busySpoiled s).cluster s.cur).onTiles e fun m => { m with spoiled := true }) e stop)
      else if readGuarded s e then .next s
      else .next ((busyAgain s e stop).1.setCluster s.cur
        ((((busyAgain s e stop).1.cluster s.cur).putEntry (busyAgain s e stop).2).onTiles e fun m =>
          { m with reruns := if m.reruns = 255 then 255 else m.reruns + 1 })) := by
  change execMatrixBusyEnd s = _
  unfold execMatrixBusyEnd
  rw [runsTo] at runs
  simp only [none]
  split
  · next no => cases first.symm.trans no
  · next x found =>
    obtain rfl : e = x := Option.some.inj (first.symm.trans found)
    simp only [runs]
    rfl

theorem busyDone_spec {s u : State} (here : u.cur = s.cur) (c : Cluster) (e : MEntry) (stop : Nat) :
    ((busyDone u c e stop).cluster s.cur).freeAt = stop + 1 ∧
    (∀ x ∈ ((busyDone u c e stop).cluster s.cur).granted, x.id = e.id → x.st = .writeback (stop + 24)) ∧
    (busyDone u c e stop).mem = u.mem ∧ ∀ n, ((busyDone u c e stop).cluster s.cur).tile n = c.tile n := by
  rw [← here, busyDone, State.cluster_setCluster_self]
  refine ⟨rfl, fun x mem id => ?_, rfl, fun _ => rfl⟩
  rw [Cluster.mem_putEntry (e := { e with st := .writeback (stop + 24) }) mem id]

/-! ## The write-back -/

/-- The state once the result is written: the status of its tiles, and the command no longer granted. -/
def writtenBack (u : State) (cl : Nat) (e : MEntry) : State :=
  let upd (m : TileMeta) : TileMeta :=
    { m with
      spoiled := m.spoiled && !e.clears, nonfinite := (m.nonfinite && !e.clears) || (firstNonfinite e).isSome
      pair64 := e.tileOf.2 }
  let c := if e.isStore then u.cluster cl else (u.cluster cl).onTiles e upd
  u.setCluster cl { c with granted := c.granted.filter (fun x => x.id != e.id), idleSince := max c.idleSince (u.now + 1) }
/-- The MNF of a command that turned non-finite is posted, and its counter raised. -/
def mnfPosted (s : State) (cl : Nat) (e : MEntry) : State :=
  match firstNonfinite e with
  | some x => postMnf s cl e x
  | none => s
def notifiedBy (s : State) (cl : Nat) (e : MEntry) : State :=
  match e.notify with
  | some i => notifyUp s cl i
  | none => s

/-- What follows the write of the result. -/
def writebackState (u : State) (cl : Nat) (e : MEntry) : State :=
  applyHeld (notifiedBy (mnfPosted (writtenBack u cl e) cl e) cl e) cl

theorem writeback_eq {s : State} {e : MEntry} (first : (s.cluster s.cur).granted.find? (fun x => match x.st with
      | .writeback due => due ≤ s.now
      | _ => false) = some e) (free : writeGuarded s e = false) :
    exec .matrixWriteback s = .next (writebackState (writeRegion s s.cur e) s.cur e) := by
  change execMatrixWriteback s = _
  unfold execMatrixWriteback
  dsimp only
  split
  · next no => cases first.symm.trans no
  · next x found =>
    obtain rfl : e = x := Option.some.inj (first.symm.trans found)
    simp only [free]
    rfl

/-! ### What the steps behind the write leave -/

theorem granted_writtenBack (u : State) (cl : Nat) (e : MEntry) : ∀ x ∈ ((writtenBack u cl e).cluster cl).granted, x.id ≠ e.id := by
  rw [writtenBack, State.cluster_setCluster_self]
  exact fun x hx => bne_iff_ne.1 (List.mem_filter.1 hx).2

theorem granted_notifyUp (s : State) (cl i : Nat) : ((notifyUp s cl i).cluster cl).granted = (s.cluster cl).granted := by
  rw [cluster_notifyUp]; rfl
theorem granted_postMnf (s : State) (cl : Nat) (e : MEntry) (x : Nat) :
    ((postMnf s cl e x).cluster cl).granted = (s.cluster cl).granted := by
  unfold postMnf
  dsimp only
  split
  · rfl
  · rw [State.countCl, State.cluster_setCluster_self]
theorem granted_addAddend (s : State) (cl : Nat) (a : Addend) : ((addAddend s cl a).cluster cl).granted = (s.cluster
    cl).granted := by
  have placed (l : List (Nat × Nat)) : (if a.ident = true then s else
      l.foldl (fun s x => s.setTileEl cl a.tile a.f64 a.row (a.col + x.1) x.2) s).clusters = s.clusters := by
    split
    · rfl
    · exact foldl_keeps _ State.clusters _ _ fun _ _ => State.clusters_setTileEl ..
  have kept (l : List (Nat × Nat)) (lines : List Nat) (m : TileMeta) :
      ((((if a.ident = true then s else l.foldl (fun s x => s.setTileEl cl a.tile a.f64 a.row (a.col + x.1) x.2) s).noteLines cl
        lines deviceHart).cluster cl).setTile a.tile m).granted = (s.cluster cl).granted := by
    rw [State.cluster, State.cluster, ← placed l]
    rfl
  unfold addAddend
  dsimp only
  split
  · rfl
  · split
    · split
      · rw [granted_notifyUp, State.cluster_setCluster_self]
        exact kept ..
      · rw [State.cluster_setCluster_self]
        exact kept ..
    · rw [State.cluster_setCluster_self]
      exact kept ..
theorem granted_applyHeld (s : State) (cl : Nat) : ((applyHeld s cl).cluster cl).granted = (s.cluster cl).granted := by
  have start (c : Cluster) (same : c.granted = (s.cluster cl).granted) :
      ((s.setCluster cl c).cluster cl).granted = (s.cluster cl).granted := by rw [State.cluster_setCluster_self, same]
  refine (foldl_keeps _ (fun s : State => (s.cluster cl).granted) _ _ fun u a => ?_).trans (start _ rfl)
  unfold applyAddend
  split
  · rw [granted_notifyUp, granted_addAddend]
  · exact granted_addAddend ..
theorem applyHeld_nil {s : State} {cl : Nat} (none : (s.cluster cl).held = []) : applyHeld s cl = s.setCluster cl (s.cluster cl) := by
  unfold applyHeld
  simp only [none, List.filter_nil, List.foldl_nil]
  rw [← none]

/-- A write-back of a command leaves none of its id granted. -/
theorem granted_writeback (u : State) (cl : Nat) (e : MEntry) :
    ∀ x ∈ ((writebackState u cl e).cluster cl).granted, x.id ≠ e.id := by
  have notified : ((notifiedBy (mnfPosted (writtenBack u cl e) cl e) cl e).cluster cl).granted =
      ((mnfPosted (writtenBack u cl e) cl e).cluster cl).granted := by
    unfold notifiedBy
    split
    · exact granted_notifyUp ..
    · rfl
  have posted : ((mnfPosted (writtenBack u cl e) cl e).cluster cl).granted = ((writtenBack u cl e).cluster cl).granted := by
    unfold mnfPosted
    split
    · exact granted_postMnf ..
    · rfl
  rw [writebackState, granted_applyHeld, notified, posted]
  exact granted_writtenBack u cl e

/-! ### The result in its tile -/

/-- The columns of a region are at most a tile's. -/
theorem MEntry.cols (e : MEntry) : 0 < e.geom.2.1 ∧ e.geom.2.1 ≤ 128 := by
  unfold MEntry.geom
  split
  all_goals dsimp only; omega

theorem MEntry.not_store_of_mma {e : MEntry} (mma : e.isMma = true) : e.isStore = false := by
  unfold MEntry.isMma at mma
  unfold MEntry.isStore
  split
  · next i => simp [i] at mma
  · rfl

/-- The elements of a command's result, each at its place in the tile. -/
def resultPlaced (s : State) (cl : Nat) (e : MEntry) : State :=
  (e.res.zipIdx).foldl (fun s x => s.setTileEl cl e.tileOf.1 e.tileOf.2 (x.2 / e.geom.2.1) (x.2 % e.geom.2.1) x.1) s

theorem tileEl_resultPlaced (s : State) (cl : Nat) {e : MEntry} (single : e.tileOf.2 = false) {x v : Nat} (res : e.res[x]? = some v) :
    (resultPlaced s cl e).tileEl cl e.tileOf.1 false (x / e.geom.2.1) (x % e.geom.2.1) = v % 2 ^ 32 := by
  obtain ⟨some, few⟩ := e.cols
  have mem : (v, x) ∈ e.res.zipIdx := List.mem_zipIdx_iff_getElem?.2 res
  have apart : e.res.zipIdx.Pairwise fun a b => (a.2 / e.geom.2.1, a.2 % e.geom.2.1) ≠ (b.2 / e.geom.2.1, b.2 % e.geom.2.1) := by
    refine (List.pairwise_map.1 (List.nodup_zipIdx_map_snd e.res)).imp fun differ same => differ ?_
    obtain ⟨row, col⟩ := Prod.mk.inj same
    exact (Nat.div_add_mod _ _).symm.trans ((congrArg₂ (fun a b => e.geom.2.1 * a + b) row col).trans (Nat.div_add_mod _ _))
  have set := tileEl_foldl (pair := false) (pos := fun a => (a.2 / e.geom.2.1, a.2 % e.geom.2.1)) Prod.fst s cl e.tileOf.1
    (fun a _ => (Nat.mod_lt _ some).trans_le few) nofun apart _ mem
  dsimp only [elWidth] at set
  rw [resultPlaced, single]
  exact set

theorem mem_noteLines_foldl {α : Type} (l : List α) (a : Nat) (lines : α → List Nat) (by' : Hart) (s : State) :
    (l.foldl (fun s i => s.noteLines a (lines i) by') s).mem = s.mem := foldl_keeps _ State.mem _ _ fun _ _ => rfl

theorem getD_zeros (n k : Nat) : ((List.replicate n (0 : Byte))[k]?).getD 0 = 0 := by
  rw [List.getElem?_replicate]
  split <;> rfl
theorem mem_noteLines_written (s : State) (m : List Host.Cell) (a : Nat) (lines : List Nat) (by' : Hart) :
    (({ s with mem := m } : State).noteLines a lines by').mem = m := rfl

theorem writeRegion_mma {s : State} {cl : Nat} {e : MEntry} (mma : e.isMma = true) :
    (writeRegion s cl e).mem = (resultPlaced s cl e).mem := by
  unfold MEntry.isMma at mma
  unfold writeRegion
  dsimp only
  split
  · next i => simp [i] at mma
  · next i => simp [i] at mma
  · exact mem_noteLines_foldl ..
theorem writeRegion_mzero {s : State} {cl : Nat} {e : MEntry} {tile : Reg} {nf : Bool} {ci : BitVec 8} (zero : e.instr = .mzero
    tile nf ci) :
    (writeRegion s cl e).mem = Memory.write s.mem (tileKey cl tile.toNat 0 0) (List.replicate 0x10000 0) := by
  unfold writeRegion
  simp only [zero, MEntry.tileOf]
  exact mem_noteLines_written ..

theorem onlySeen_noteLines_foldl {α : Type} (l : List α) (a : Nat) (lines : α → List Nat) (by' : Hart) (s : State) (k : Hart) :
    onlySeen s (l.foldl (fun s i => s.noteLines a (lines i) by') s) k := by
  induction l generalizing s with
  | nil => exact onlySeen_refl s k
  | cons b r ih => exact onlySeen_trans (onlySeen_noteLines ..) (ih _)
theorem clusters_noteLines_foldl {α : Type} (l : List α) (a : Nat) (lines : α → List Nat) (by' : Hart) (s : State) :
    (l.foldl (fun s i => s.noteLines a (lines i) by') s).clusters = s.clusters := foldl_keeps _ State.clusters _ _ fun _ _ =>
        rfl
theorem resultPlaced_beside (s : State) (cl : Nat) (e : MEntry) :
    (resultPlaced s cl e).clusters = s.clusters ∧ (resultPlaced s cl e).threads = s.threads := by
  refine ⟨foldl_keeps _ State.clusters _ _ fun _ _ => State.clusters_setTileEl .., foldl_keeps _ State.threads _ _ fun _ _ => ?_⟩
  unfold State.setTileEl
  dsimp only
  split <;> rfl
theorem zeroed_beside (s : State) (m : List Host.Cell) (a : Nat) (lines : List Nat) (by' : Hart) (k : Hart) :
    (({ s with mem := m } : State).noteLines a lines by').clusters = s.clusters ∧
      onlySeen s (({ s with mem := m } : State).noteLines a lines by') k :=
  ⟨rfl, onlySeen_noteLines { s with mem := m } a lines by' k⟩

/-- A command that stores nothing leaves the clusters, and of a thread set all but the lines that its chunk may meet. -/
theorem writeRegion_tiles {s : State} {cl : Nat} {e : MEntry} (tiles : e.isStore = false) (k : Hart) :
    (writeRegion s cl e).clusters = s.clusters ∧ onlySeen s (writeRegion s cl e) k := by
  have placed := resultPlaced_beside s cl e
  have same : onlySeen s (resultPlaced s cl e) k := onlySeen_of_eq (by rw [State.thread, placed.2]; rfl)
  unfold MEntry.isStore at tiles
  unfold writeRegion
  dsimp only
  split
  · exact zeroed_beside ..
  · next i => simp [i] at tiles
  · exact ⟨(clusters_noteLines_foldl ..).trans placed.1, onlySeen_trans same (onlySeen_noteLines_foldl ..)⟩

/-! ### The status and the MNF -/

theorem firstNonfinite_tiles {e : MEntry} {x : Nat} (bad : firstNonfinite e = some x) : e.isStore = false := by
  unfold firstNonfinite at bad
  split at bad
  · cases bad
  · next h => exact Bool.eq_false_iff.2 h

theorem cluster_writtenBack (u : State) (cl : Nat) (e : MEntry) : ∃ ts g i,
    (writtenBack u cl e).cluster cl = { u.cluster cl with tiles := ts, granted := g, idleSince := i } ∧
      ∀ x, firstNonfinite e = some x → ∀ n, n < 8 → e.names n = true → (Tab.get {} ts n).nonfinite = true := by
  rw [writtenBack, State.cluster_setCluster_self]
  by_cases store : e.isStore = true
  · rw [if_pos store]
    exact ⟨_, _, _, rfl, fun x bad => by rw [firstNonfinite_tiles bad] at store; cases store⟩
  · rw [if_neg store]
    obtain ⟨ts, whole, tiles⟩ := (u.cluster cl).onTiles_spec e fun m =>
      { m with
        spoiled := m.spoiled && !e.clears, nonfinite := (m.nonfinite && !e.clears) || (firstNonfinite e).isSome
        pair64 := e.tileOf.2 }
    rw [whole] at tiles ⊢
    refine ⟨ts, _, _, rfl, fun x bad n few named => ?_⟩
    have tile := tiles n
    rw [if_pos ⟨few, named⟩] at tile
    exact (congrArg TileMeta.nonfinite tile).trans (by simp [bad])

theorem notifiedBy_spec (s : State) (cl : Nat) (e : MEntry) (k : Hart) : (notifiedBy s cl e).mem = s.mem ∧
    onlySeen s (notifiedBy s cl e) k ∧ ∃ cs, (notifiedBy s cl e).cluster cl = { s.cluster cl with counters := cs } := by
  unfold notifiedBy
  split
  · exact ⟨rfl, onlySeen_noteLines .., _, cluster_notifyUp ..⟩
  · exact ⟨rfl, onlySeen_refl .., _, rfl⟩
theorem postMnf_spec (s : State) (cl : Nat) (e : MEntry) (x : Nat) : (postMnf s cl e x).mem = s.mem ∧
    ∃ st, (postMnf s cl e x).cluster cl = { s.cluster cl with stat := st } := by
  unfold postMnf
  dsimp only
  split
  · exact ⟨rfl, _, rfl⟩
  · exact ⟨rfl, _, State.cluster_setCluster_self ..⟩
theorem mnfPosted_spec (s : State) (cl : Nat) (e : MEntry) : (mnfPosted s cl e).mem = s.mem ∧
    ∃ st, (mnfPosted s cl e).cluster cl = { s.cluster cl with stat := st } := by
  unfold mnfPosted
  split
  · exact postMnf_spec ..
  · exact ⟨rfl, _, rfl⟩

/-- What a write-back leaves behind its result, no addend held. -/
theorem writeback_leaves (u : State) {cl : Nat} (e : MEntry) (none : (u.cluster cl).held = []) (k : Hart) :
    let p := mnfPosted (writtenBack u cl e) cl e
    let t := writebackState u cl e
    t.mem = u.mem ∧ onlySeen p t k ∧ (t.cluster cl).stat = (p.cluster cl).stat ∧
      ∀ x, firstNonfinite e = some x → ∀ n, n < 8 → e.names n = true → ((t.cluster cl).tile n).nonfinite = true := by
  intro p t
  obtain ⟨ts, g, i, written, bad⟩ := cluster_writtenBack u cl e
  obtain ⟨memP, st, posted⟩ := mnfPosted_spec (writtenBack u cl e) cl e
  obtain ⟨memN, seen, cs, notified⟩ := notifiedBy_spec p cl e k
  have whole : t = (notifiedBy p cl e).setCluster cl ((notifiedBy p cl e).cluster cl) :=
    applyHeld_nil (by rw [notified, posted, written]; exact none)
  have cluster : t.cluster cl = (notifiedBy p cl e).cluster cl := by rw [whole, State.cluster_setCluster_self]
  refine ⟨?_, ?_, by rw [cluster, notified], fun x b n few named => ?_⟩
  · rw [whole]
    exact memN.trans memP
  · rw [whole]
    exact seen
  · rw [cluster, notified, posted, written]
    exact bad x b n few named

/-- The thread set that a command's MNF is left for (R277). -/
def MEntry.tags (e : MEntry) (u : Thread) : Prop :=
  e.mmnf = true ∧ (u.run = .running ∨ u.run = .halted) ∧ u.cont.rcd = e.rcd ∧ u.cont.gen = e.gen ∧ u.mnf = none
/-- The record of the MNF of a command at element `x`. -/
def MEntry.mnfAt (e : MEntry) (x : Nat) : MnfRec :=
  { head := ((encode e.instr).getD (0, 0)).1, tail := ((encode e.instr).getD (0, 0)).2, row := x / e.geom.2.1
    col := x % e.geom.2.1, tile := e.tileOf.1, fmta := e.fmta, fmtb := e.fmtb, fmtc := e.fmtc }

theorem postMnf_tagged {s : State} {cl : Nat} {e : MEntry} (x : Nat) (tagged : e.tags (s.thread e.hart)) :
    postMnf s cl e x = s.setThread e.hart { s.thread e.hart with mnf := some (e.mnfAt x) } := by
  obtain ⟨mmnf, run, rcd, gen, mnf⟩ := tagged
  refine if_pos ?_
  simp [mmnf, run, rcd, gen, mnf]
theorem postMnf_counted {s : State} {cl : Nat} {e : MEntry} (x : Nat) (other : ¬e.tags (s.thread e.hart)) :
    postMnf s cl e x = s.countCl cl cMnf 1 := by
  refine if_neg fun tagged => other ?_
  simpa [MEntry.tags, and_assoc] using tagged

/-- A write-back with an element that turned non-finite leaves its MNF, or counts it. -/
theorem writeback_mnf {s : State} {cl : Nat} {e : MEntry} (none : (s.cluster cl).held = []) {x : Nat}
    (bad : firstNonfinite e = some x) :
    let t := writebackState (writeRegion s cl e) cl e
    (e.tags (s.thread e.hart) → (t.thread e.hart).mnf = some (e.mnfAt x)) ∧
    (¬e.tags (s.thread e.hart) → (t.thread e.hart).mnf = (s.thread e.hart).mnf ∧
      Tab.get 0 (t.cluster cl).stat cMnf = Tab.get 0 (s.cluster cl).stat cMnf + 1) := by
  obtain ⟨clusters, seen⟩ := writeRegion_tiles (s := s) (cl := cl) (firstNonfinite_tiles bad) e.hart
  have cluster : (writeRegion s cl e).cluster cl = s.cluster cl := by rw [State.cluster, clusters]; rfl
  obtain ⟨-, later, stat, -⟩ := writeback_leaves (writeRegion s cl e) e (by rw [cluster]; exact none) e.hart
  obtain ⟨l, same⟩ : onlySeen s (writtenBack (writeRegion s cl e) cl e) e.hart := seen
  obtain ⟨ts, g, i, written, -⟩ := cluster_writtenBack (writeRegion s cl e) cl e
  rw [cluster] at written
  have posted : mnfPosted (writtenBack (writeRegion s cl e) cl e) cl e = postMnf (writtenBack (writeRegion s cl e) cl e) cl e x := by
    unfold mnfPosted
    simp only [bad]
  rw [posted] at later stat
  generalize writebackState (writeRegion s cl e) cl e = t at later stat ⊢
  generalize writtenBack (writeRegion s cl e) cl e = w at same written posted later stat
  have tags : e.tags (w.thread e.hart) ↔ e.tags (s.thread e.hart) := by rw [same]; rfl
  obtain ⟨l', mnf⟩ := later
  have mnf : (t.thread e.hart).mnf = ((postMnf w cl e x).thread e.hart).mnf := by rw [mnf]
  refine ⟨fun tagged => ?_, fun other => ⟨?_, ?_⟩⟩
  · rw [mnf, postMnf_tagged x (tags.2 tagged), State.thread_setThread_self]
  · rw [mnf, postMnf_counted x (fun h => other (tags.1 h))]
    change (w.thread e.hart).mnf = _
    rw [same]
  · refine (congrArg (fun st => Tab.get 0 st cMnf) stat).trans ?_
    rw [postMnf_counted x (fun h => other (tags.1 h)), State.countCl, State.cluster_setCluster_self, written]
    exact Tab.get_set_self ..

/-! ## The stagger token -/

/-- What stores, loads and messages see of a cluster. -/
def Cluster.asSeen (c d : Cluster) : Prop :=
  d.kn = c.kn ∧ d.counters = c.counters ∧ d.wt = c.wt ∧ d.mwgt = c.mwgt ∧ d.chktol = c.chktol
/-- The states differ in clusters alone, and in nothing of them that an access sees. -/
def readsSame (s t : State) : Prop := t = { s with clusters := t.clusters } ∧ ∀ d, (s.cluster d).asSeen (t.cluster d)

theorem byteAt_readsSame {s t : State} (same : readsSame s t) (k : Nat) : t.byteAt k = s.byteAt k := by
  obtain ⟨whole, seen⟩ := same
  obtain ⟨kn, counters, wt, mwgt, chktol⟩ := seen (oaCl k)
  have ctl (n : Nat) : (t.cluster (oaCl k)).getCtl n = (s.cluster (oaCl k)).getCtl n := by
    unfold Cluster.getCtl
    rw [mwgt, chktol, kn]
  have counter (n : Nat) : (t.cluster (oaCl k)).counter n = (s.cluster (oaCl k)).counter n := by
    rw [Cluster.counter, counters]; rfl
  have entry (n : Nat) : (t.cluster (oaCl k)).entry n = (s.cluster (oaCl k)).entry n := by rw [Cluster.entry, wt]; rfl
  unfold State.byteAt
  simp only [ctl, counter, entry, kn]
  rw [whole]
  rfl

theorem readGuarded_readsSame {s t : State} (same : readsSame s t) (e : MEntry) : readGuarded t e = readGuarded s e := by
  have guarded (k n : Nat) : t.guarded k n = s.guarded k n := by rw [same.1]; rfl
  have bytes (k n : Nat) : t.bytesAt k n = s.bytesAt k n := List.map_congr_left fun _ _ => byteAt_readsSame same _
  have rows : t.rowsGuarded = s.rowsGuarded := by
    funext base pitch rows len
    simp only [State.rowsGuarded, guarded]
  have scl : t.sclGuarded = s.sclGuarded := by
    funext scl rows k
    simp only [State.sclGuarded, guarded]
  have ctab : t.ctabGuarded = s.ctabGuarded := by
    funext f
    simp only [State.ctabGuarded, guarded]
  have ec8 : t.ec8Guarded = s.ec8Guarded := by
    funext skip n
    induction n with
    | zero => rfl
    | succ n ih =>
      funext key left
      simp only [State.ec8Guarded, guarded, bytes, ih]
  have matrix : t.matrixGuarded = s.matrixGuarded := by
    funext f s' sa pitch r k
    simp only [State.matrixGuarded, rows, scl, ctab, ec8]
  simp only [readGuarded, matrix, rows, scl]

theorem readsSame_refl (s : State) : readsSame s s := ⟨rfl, fun _ => ⟨rfl, rfl, rfl, rfl, rfl⟩⟩
theorem readsSame_trans {s t u : State} (a : readsSame s t) (b : readsSame t u) : readsSame s u := by
  obtain ⟨whole, seen⟩ := a
  obtain ⟨whole', seen'⟩ := b
  refine ⟨by rw [whole', whole], fun d => ?_⟩
  obtain ⟨kn, counters, wt, mwgt, chktol⟩ := seen d
  obtain ⟨kn', counters', wt', mwgt', chktol'⟩ := seen' d
  exact ⟨kn'.trans kn, counters'.trans counters, wt'.trans wt, mwgt'.trans mwgt, chktol'.trans chktol⟩
theorem readsSame_setCluster (s : State) (cl : Nat) {c : Cluster} (seen : (s.cluster cl).asSeen c) : readsSame s (s.setCluster cl c) := by
  refine ⟨rfl, fun d => ?_⟩
  rw [State.cluster_setCluster]
  split
  · next h => rw [h]; exact seen
  · exact ⟨rfl, rfl, rfl, rfl, rfl⟩

/-- What the token leaves of a parked unit that it reaches. -/
def reentered (s : State) (cl : Nat) (y : Cluster) : Prop :=
  let x := s.cluster cl
  x.isParked s.now = true → x.queue ≠ [] → x.isRunning = false → x.freeAt ≤ s.now →
    y.parked = false ∧ y.idleSince = s.now ∧ ∀ k cr e, arbitrate x = some (k, cr) → x.queue.find? (fun e => e.core == k) = some
        e →
      ∃ e' ∈ y.granted, e'.id = e.id ∧ (readGuarded s e = false → runsTo e' (s.now + e.busy - 1) false) ∧
        (readGuarded s e = true → e'.st = .reading)

theorem reentered_readsSame {s t : State} {cl : Nat} {y : Cluster} (same : readsSame s t) (cluster : t.cluster cl = s.cluster cl)
    (done : reentered t cl y) : reentered s cl y := by
  have now : t.now = s.now := by rw [same.1]
  unfold reentered at done ⊢
  simp only [readGuarded_readsSame same, cluster, now] at done
  exact done

theorem grantNext_readsSame (s : State) (cl : Nat) :
    readsSame s (grantNext s cl) ∧ ∀ d, d ≠ cl → (grantNext s cl).cluster d = s.cluster d := by
  rcases choice : arbitrate (s.cluster cl) with _ | ⟨k, cr⟩
  · rw [grantNext, choice]
    exact ⟨readsSame_refl s, fun _ _ => rfl⟩
  · rcases oldest : (s.cluster cl).queue.find? (fun x => x.core == k) with _ | e
    · have idle : grantNext s cl = s := by
        unfold grantNext
        simp only [choice, oldest]
      rw [idle]
      exact ⟨readsSame_refl s, fun _ _ => rfl⟩
    · obtain ⟨whole, others, e', st, cluster, -⟩ := grantNext_spec choice oldest
      refine ⟨⟨whole, fun d => ?_⟩, others⟩
      by_cases here : d = cl
      · rw [here, cluster]
        exact ⟨rfl, rfl, rfl, rfl, rfl⟩
      · rw [others d here]
        exact ⟨rfl, rfl, rfl, rfl, rfl⟩

/-- A unit that is awake stays awake through a grant, which takes what its arbiter chooses. -/
theorem grantNext_awake {s : State} {cl : Nat} (awake : (s.cluster cl).parked = false) :
    ((grantNext s cl).cluster cl).parked = false ∧ ((grantNext s cl).cluster cl).idleSince = (s.cluster cl).idleSince ∧
    ∀ k cr e, arbitrate (s.cluster cl) = some (k, cr) → (s.cluster cl).queue.find? (fun e => e.core == k) = some e →
      ∃ e' ∈ ((grantNext s cl).cluster cl).granted, e'.id = e.id ∧ (readGuarded s e = false → runsTo e' (s.now + e.busy - 1) false) ∧
        (readGuarded s e = true → e'.st = .reading) := by
  by_cases grants : ∃ k cr e, arbitrate (s.cluster cl) = some (k, cr) ∧ (s.cluster cl).queue.find? (fun e => e.core == k) =
      some e
  · obtain ⟨k, cr, e, choice, oldest⟩ := grants
    obtain ⟨-, -, e', st, cluster, runs, stalls, id, -⟩ := grantNext_spec choice oldest
    rw [cluster]
    refine ⟨rfl, rfl, fun k' cr' x chosen found => ?_⟩
    obtain ⟨rfl, rfl⟩ := Prod.mk.inj (Option.some.inj (choice.symm.trans chosen))
    obtain rfl : e = x := Option.some.inj (oldest.symm.trans found)
    exact ⟨e', List.mem_append_right _ List.mem_cons_self, id, runs, stalls⟩
  · have idle : grantNext s cl = s := by
      unfold grantNext
      split
      · rfl
      · next k cr choice =>
        split
        · rfl
        · next e oldest => exact absurd ⟨k, cr, e, choice, oldest⟩ grants
    rw [idle]
    exact ⟨awake, rfl, fun k cr e choice oldest => absurd ⟨k, cr, e, choice, oldest⟩ grants⟩

/-- The state in which the unit of a cluster is awake. -/
def awoken (s : State) (cl : Nat) : State := s.setCluster cl { s.cluster cl with parked := false, idleSince := s.now }

theorem reenter_spec (s : State) (cl : Nat) : readsSame s (reenter s cl) ∧
    (∀ d, d ≠ cl → (reenter s cl).cluster d = s.cluster d) ∧ reentered s cl ((reenter s cl).cluster cl) := by
  by_cases awake : ((s.cluster cl).isParked s.now && !(s.cluster cl).queue.isEmpty && !(s.cluster cl).isRunning &&
      decide ((s.cluster cl).freeAt ≤ s.now)) = true
  · have enters : reenter s cl = grantNext (awoken s cl) cl := if_pos awake
    have cluster : (awoken s cl).cluster cl = { s.cluster cl with parked := false, idleSince := s.now } :=
      State.cluster_setCluster_self ..
    have same : readsSame s (awoken s cl) := readsSame_setCluster s cl ⟨rfl, rfl, rfl, rfl, rfl⟩
    obtain ⟨granting, others⟩ := grantNext_readsSame (awoken s cl) cl
    obtain ⟨parked, since, granted⟩ := grantNext_awake (s := awoken s cl) (cl := cl) (by rw [cluster])
    rw [enters]
    refine ⟨readsSame_trans same granting, fun d hd => (others d hd).trans ((State.cluster_setCluster ..).trans (if_neg hd)),
      fun _ _ _ _ => ⟨parked, by rw [since, cluster], fun k cr e choice oldest => ?_⟩⟩
    have key := granted k cr e (by rw [cluster]; exact choice) (by rw [cluster]; exact oldest)
    rw [readGuarded_readsSame same] at key
    exact key
  · have sleeps : reenter s cl = s := if_neg awake
    rw [sleeps]
    refine ⟨readsSame_refl s, fun _ _ => rfl, fun parked queue idle free => absurd ?_ awake⟩
    simp [parked, queue, idle, free]

/-- The token reaches clusters of several dies on one cycle: each unit re-enters as it would alone. -/
theorem foldl_reenter {l : List Nat} (distinct : l.Nodup) (s : State) : readsSame s (l.foldl reenter s) ∧
    (∀ d, d ∉ l → (l.foldl reenter s).cluster d = s.cluster d) ∧ ∀ d ∈ l, reentered s d ((l.foldl reenter s).cluster d) := by
  induction l generalizing s with
  | nil => exact ⟨readsSame_refl s, fun _ _ => rfl, nofun⟩
  | cons a r ih =>
    obtain ⟨fresh, distinct⟩ := List.nodup_cons.1 distinct
    obtain ⟨first, others, here⟩ := reenter_spec s a
    obtain ⟨rest, kept, each⟩ := ih distinct (reenter s a)
    refine ⟨readsSame_trans first rest, fun d hd => ?_, fun d hd => ?_⟩
    · rw [List.mem_cons, not_or] at hd
      exact (kept d hd.2).trans (others d hd.1)
    · rcases List.mem_cons.1 hd with rfl | later
      · rw [List.foldl_cons, kept d fresh]
        exact here
      · exact reentered_readsSame first (others d fun e => fresh (e ▸ later)) (each d later)

/-- The token stands at the same cluster of every die. -/
theorem foldl_token (now : Nat) (l : List Nat) {s : State} (here : s.now = now) :
    l.foldl (fun s d => reenter s (96 * d + tokenAt s.now)) s = (l.map fun d => 96 * d + tokenAt now).foldl reenter s := by
  induction l generalizing s with
  | nil => rfl
  | cons a r ih =>
    rw [List.map_cons, List.foldl_cons, List.foldl_cons, here]
    exact ih (by rw [(reenter_spec s _).1.1]; exact here)

/-! ## A pending MNF, and the next packet of an FACC -/

theorem prepare_mnf {s : State} {h : Hart} {m : MnfRec} (running : (s.thread h).run = .running) (job : s.job h = none)
    (mark : (s.thread h).mark = none) (wait : (s.thread h).wait = .none ∨ ∃ i, (s.thread h).wait = .stall i)
    (gang : (s.thread h).gang = none) (path : (s.thread h).path = []) (pend : (s.thread h).pend = [])
    (ended : (s.thread h).chunk.ended = false) (short : (s.thread h).chunk.executed < 512)
    (few : (s.thread h).chunk.wlines.length < 64) (mnf : (s.thread h).mnf = some m) (after : m.after ≤ (s.thread
        h).chunk.executed) :
    prepare s h = .answer (takeTrapInfo s h (mnfInfo s h m)) := by
  have token : tokenEnds s h = false := by simp [tokenEnds, State.gangOf_of_no_gang gang]
  have turn : gangTurn s h = true := by simp [gangTurn, path, gang]
  unfold prepare
  rcases wait with wait | ⟨i, wait⟩ <;>
    simp [running, job, mark, wait, pend, ended, token, turn, Nat.not_le.2 short, Nat.not_le.2 few, mnf, after,
        Option.filter_some]

theorem addendPacket_eq {s : State} {msg : Msg} {k : Nat} {tag : BitVec 16} {ci : Option (BitVec 8)} {l : List Vec}
    (found : s.msg s.cur = some msg) (item : msg.item = .reduce 7 k tag ci l) (first : s.firstOf msg = true) :
    exec .addendPacket s = if (reduceStep s msg.hart 7 k tag ci l).2.2.isEmpty then
        .next ((reduceStep s msg.hart 7 k tag ci l).1.dropMsg msg.id)
      else .next { (reduceStep s msg.hart 7 k tag ci l).1 with
        net := (reduceStep s msg.hart 7 k tag ci l).1.net.map fun x =>
          if x.id == msg.id then { x with item := .reduce 7 (reduceStep s msg.hart 7 k tag ci l).2.1 tag ci (reduceStep s
              msg.hart 7 k tag ci l).2.2 }
          else x } := by
  rw [State.msg] at found
  change execAddendPacket s = _
  unfold execAddendPacket
  simp only [found, item, first]
  rfl

end Sys2Proof.Machine
end

section
open Sys2Proof Sys2Proof.Machine

/-- Settles O40: busy cycles end as `busyEnd_eq` says, a write-back leaves its result, status and MNF, and units park and wake. -/
theorem matrixCompletion : Obligations.MatrixCompletion := by
  refine ⟨fun s e stop again => ?_, fun s e => ?_, fun s h rest m agenda on => ?_, fun s msg k tag ci l => ?_⟩
  · intro c stalls
    refine ⟨fun reading => ⟨readOn s s.cur e, busyEnd_reads reading, ?_, fun x mem id => ?_⟩, fun none found runs =>
      ⟨fun ends => ?_, fun bad rerun t next n few named => ?_, fun bad first stall => ?_, fun bad first free => ?_⟩⟩
    · obtain ⟨⟨whole, -⟩, -⟩ := beginRun_spec s s.cur e
      rw [readOn, State.setCluster, whole]
    · obtain ⟨-, same, -, -, goes, waits⟩ := beginRun_spec s s.cur e
      rw [readOn, State.cluster_setCluster_self] at mem
      have entry := Cluster.mem_putEntry mem (id.trans same.symm)
      exact ⟨fun h => entry ▸ waits h, fun h => entry ▸ goes h⟩
    · have finishes (u : State) (c : Cluster) (here : u.cur = s.cur) (mem : u.mem = s.mem) (goes : exec .matrixBusyEnd s =
          .next (busyDone u c e stop)) : ∃ t, exec .matrixBusyEnd s = .next t ∧ (t.cluster s.cur).freeAt = stop + 1 ∧
          (∀ x ∈ (t.cluster s.cur).granted, x.id = e.id → x.st = .writeback (stop + 24)) ∧ t.mem = s.mem := by
        obtain ⟨free, entries, same, -⟩ := busyDone_spec here c e stop
        exact ⟨_, goes, free, entries, same.trans mem⟩
      have eq := busyEnd_eq none found runs
      by_cases ok : e.ok = true
      · exact finishes s _ rfl rfl (eq.trans (if_pos ok))
      · exact finishes (busySpoiled s) _ rfl rfl (eq.trans ((if_neg ok).trans (if_pos (ends.resolve_left ok))))
    · rw [busyEnd_eq none found runs, if_neg (by rw [bad]; nofun), if_pos rerun] at next
      cases next
      obtain ⟨ts, -, tiles⟩ := ((busySpoiled s).cluster s.cur).onTiles_spec e fun m => { m with spoiled := true }
      obtain ⟨-, -, -, kept⟩ := busyDone_spec (s := s) (u := busySpoiled s) rfl
        (((busySpoiled s).cluster s.cur).onTiles e fun m => { m with spoiled := true }) e stop
      rw [kept, tiles, if_pos ⟨few, named⟩]
    · rw [busyEnd_eq none found runs, if_neg (by rw [bad]; nofun), if_neg (by rw [first]; nofun), if_pos stall]
    · rw [busyEnd_eq none found runs, if_neg (by rw [bad]; nofun), if_neg (by rw [first]; nofun), if_neg (by rw [free]; nofun)]
      obtain ⟨⟨whole, -, st, cluster, reruns⟩, res, ok, entry⟩ := compute_spec (s.countCl s.cur cRerun 1) s.cur
        { e with st := .running (stop + e.busy) true }
      obtain ⟨ts, tiles, -⟩ := (((busyAgain s e stop).1.cluster s.cur).putEntry (busyAgain s e stop).2).onTiles_spec e fun m =>
        { m with reruns := if m.reruns = 255 then 255 else m.reruns + 1 }
      refine ⟨_, rfl, fun x mem id => ?_, ?_, ?_⟩
      · rw [State.cluster_setCluster_self, tiles] at mem
        have same : (busyAgain s e stop).2 = { e with st := .running (stop + e.busy) true, res := res, ok := ok } := entry
        have it := Cluster.mem_putEntry (e := (busyAgain s e stop).2) mem (id.trans (by rw [same]))
        rw [it, same]
        rfl
      · rw [State.setCluster, busyAgain, whole]
        rfl
      · rw [State.cluster_setCluster_self, tiles]
        refine (congrArg (fun c => Tab.get 0 (Cluster.stat c) cRerun) cluster).trans (reruns.trans ?_)
        rw [State.countCl, State.cluster_setCluster_self]
        exact Tab.get_set_self ..
  · intro c n found none free
    have held (tiles : e.isStore = false) : ((writeRegion s s.cur e).cluster s.cur).held = [] := by
      rw [State.cluster, (writeRegion_tiles (s := s) (cl := s.cur) tiles e.hart).1]
      exact none
    refine ⟨_, writeback_eq found free, granted_writeback _ _ e, fun mma single x v res => ?_, fun tile nf ci zero o ho => ?_,
      fun x bad => ?_⟩
    · have tiles : e.isStore = false := MEntry.not_store_of_mma mma
      have mem : (writebackState (writeRegion s s.cur e) s.cur e).mem = (resultPlaced s s.cur e).mem :=
        (writeback_leaves _ e (held tiles) e.hart).1.trans (writeRegion_mma mma)
      rw [State.tileEl, mem]
      exact tileEl_resultPlaced s s.cur single res
    · have tiles : e.isStore = false := by rw [MEntry.isStore, zero]
      rw [(writeback_leaves _ e (held tiles) e.hart).1, writeRegion_mzero zero, Memory.get_write, List.length_replicate, if_pos (by omega)]
      exact getD_zeros ..
    · obtain ⟨-, -, -, status⟩ := writeback_leaves _ e (held (firstNonfinite_tiles bad)) e.hart
      exact ⟨status x bad, writeback_mnf none bad⟩
  · intro s₁ t running job mark wait gang path pend ended short few mnf after
    have answers : prepare s₁ h = .answer (takeTrapInfo s₁ h (mnfInfo s₁ h m)) :=
      prepare_mnf running job mark wait gang path pend ended short few mnf after
    refine ⟨?_, rfl, rfl⟩
    rw [step, nextTurn, agenda]
    change (if s.ctrl.halted = true then _ else issueTurn { s with agenda := rest } h) = _
    rw [if_neg (by rw [on]; nofun), issueTurn]
    rw [show prepare _ h = _ from answers]
  · intro c r
    refine ⟨fun up none idle => ?_, fun cycle => ⟨_, if_neg (by simpa using cycle), ?_⟩, fun found item first => ?_⟩
    · exact if_pos (by simp [c, up, none, idle])
    · have distinct : ((List.range 4).map fun d => 96 * d + tokenAt s.now).Nodup :=
        List.nodup_range.map fun a b e => by omega
      obtain ⟨-, -, each⟩ := foldl_reenter distinct s
      rw [foldl_token s.now (List.range 4) rfl]
      intro d hd x y parked queue idle free
      exact each _ (List.mem_map.2 ⟨d, List.mem_range.2 hd, rfl⟩) parked queue idle free
    · have eq := addendPacket_eq found item first
      refine ⟨fun last => eq.trans (if_pos (List.isEmpty_iff.2 last)), fun more => ⟨_, eq.trans (if_neg fun h => more
          (List.isEmpty_iff.1 h)), rfl, rfl, rfl⟩⟩

end

section
/-! SUPPORT. Reads and writes by virtual address, and the trap queue (R57, R116, R117). -/

namespace Sys2Proof.Machine

/-! ## Reads by virtual address -/

theorem State.readVA_sameButTlb (s : State) (p acc va n : Nat) : sameButTlb s (s.readVA p acc va n).2 := by
  have walked := s.xlateRange_sameButTlb p acc va n false true
  unfold State.readVA
  split
  next e => rw [e] at walked; exact walked
  next e => rw [e] at walked; exact walked

/-- The translation of one more piece of a range. -/
def rangeStep (p acc va : Nat) (w thru : Bool) (r : Except Xres (List (Nat × Nat × Nat)) × State) (x : Nat × Nat) :
    Except Xres (List (Nat × Nat × Nat)) × State :=
  match r with
  | (.error e, s) => (.error e, s)
  | (.ok l, s) => match s.xlate p acc x.1 w thru with
    | (.ok k, s) => (.ok (l ++ [(k, x.1 - va, x.2)]), s)
    | (e, s) => (.error e, s)

theorem sameWay.rangeStep {p acc va : Nat} {w thru : Bool} {r r' : Except Xres (List (Nat × Nat × Nat)) × State}
    (same : r'.1 = r.1) (way : sameWay r.2 r'.2) (x : Nat × Nat) :
    (rangeStep p acc va w thru r' x).1 = (rangeStep p acc va w thru r x).1 ∧
      sameWay (rangeStep p acc va w thru r x).2 (rangeStep p acc va w thru r' x).2 := by
  obtain ⟨b, u⟩ := r
  obtain ⟨b', v⟩ := r'
  cases same
  rcases b with _ | l
  · exact ⟨rfl, way⟩
  · obtain ⟨fst, snd⟩ := sameWay.xlateFrom way (vaStack x.1) p acc x.1 8 w thru
    unfold Machine.rangeStep State.xlate
    dsimp only at fst snd ⊢
    generalize u.xlateFrom p acc x.1 w (vaStack x.1) thru 8 = a at fst snd ⊢
    generalize v.xlateFrom p acc x.1 w (vaStack x.1) thru 8 = a' at fst snd ⊢
    obtain ⟨res, u'⟩ := a
    obtain ⟨res', v'⟩ := a'
    cases fst
    cases res
    all_goals exact ⟨rfl, snd⟩

theorem sameWay.xlateRange {s t : State} (h : sameWay s t) (p acc va n : Nat) (w thru : Bool) :
    (t.xlateRange p acc va n w thru).1 = (s.xlateRange p acc va n w thru).1 ∧
      sameWay (s.xlateRange p acc va n w thru).2 (t.xlateRange p acc va n w thru).2 := by
  have folds (pages : List (Nat × Nat)) (r r' : Except Xres (List (Nat × Nat × Nat)) × State) (same : r'.1 = r.1)
      (way : sameWay r.2 r'.2) :
      (pages.foldl (Machine.rangeStep p acc va w thru) r').1 = (pages.foldl (Machine.rangeStep p acc va w thru) r).1 ∧
        sameWay (pages.foldl (Machine.rangeStep p acc va w thru) r).2 (pages.foldl (Machine.rangeStep p acc va w thru) r').2 := by
    induction pages generalizing r r' with
    | nil => exact ⟨same, way⟩
    | cons x rest ih =>
      obtain ⟨fst, snd⟩ := sameWay.rangeStep same way x
      exact ih _ _ fst snd
  exact folds _ (.ok [], s) (.ok [], t) rfl h

theorem isStackKey_of_large {k : Nat} (large : 2 ^ 40 ≤ k) (dram : isHobKey k = false) : isStackKey k = true := by
  simp only [isHobKey, decide_eq_false_iff_not] at dram
  simp only [isStackKey, Bool.and_eq_true, decide_eq_true_eq]
  omega
theorem sameWay.bytesAt {s t : State} (h : sameWay s t) {k : Nat} (large : 2 ^ 40 ≤ k) (n : Nat) : t.bytesAt k n = s.bytesAt k
    n := by
  refine List.map_congr_left fun i _ => ?_
  unfold State.byteAt
  rcases hob : isHobKey (k + i) with _ | _
  · simp only [isStackKey_of_large (Nat.le_add_right_of_le large) hob, h.2.1, Bool.false_eq_true, if_false, if_true]
  · simp only [h.stack, if_true]

/-- Where translation goes the same way, so does a read. -/
theorem sameWay.readVA {s t : State} (h : sameWay s t) (p acc va n : Nat) :
    (t.readVA p acc va n).1 = (s.readVA p acc va n).1 ∧ sameWay (s.readVA p acc va n).2 (t.readVA p acc va n).2 := by
  obtain ⟨fst, snd⟩ := h.xlateRange p acc va n false true
  unfold State.readVA
  rcases walk : s.xlateRange p acc va n false true with ⟨e | l, u⟩
  · rcases walk' : t.xlateRange p acc va n false true with ⟨e' | l', u'⟩
    · rw [walk, walk'] at snd
      exact ⟨rfl, snd⟩
    · rw [walk, walk'] at fst
      cases fst
  · rcases walk' : t.xlateRange p acc va n false true with ⟨e' | l', u'⟩
    · rw [walk, walk'] at fst
      cases fst
    · rw [walk, walk'] at fst snd
      cases fst
      have keys := State.xlateRange_keys walk
      refine ⟨congrArg some (congrArg List.flatten (List.map_congr_left fun x hx => ?_)), snd⟩
      exact sameWay.bytesAt snd (keys x hx) _

/-- A write within one page, at the byte that its address translates to. -/
theorem writeVA_within {s : State} {p va k : Nat} {bytes : List Byte} (h : Hart) (pos : 0 < bytes.length)
    (page : (va + bytes.length - 1) / 2 ^ 16 = va / 2 ^ 16) (ok : (s.xlate p 0 va true true).1 = .ok k) :
    ∃ u, sameButTlb s u ∧ s.writeVA h p 0 va bytes = (true, u.writeAt h k bytes) :=
  ⟨_, s.xlate_sameButTlb p 0 va true true, State.writeVA_ok h (State.xlateRange_ok pos page (Prod.ext ok rfl))⟩

/-! ## A trap that is lost -/

theorem sameWay_setPart (s : State) (p : Nat) {x : Part} : sameWay s (s.setPart p x) :=
  ⟨rfl, rfl, fun _ _ => rfl, fun _ _ _ => rfl⟩

theorem loseTrap_undeclared {s : State} {p : Nat} (none : isVA (s.part p).tvec = false) : loseTrap s p = s.countPart p pLost := by
  unfold loseTrap
  simp [none]

/-- A lost trap is counted, and at most LOST written. -/
theorem loseTrap_cases (s : State) (p : Nat) :
    loseTrap s p = s.countPart p pLost ∨ bytesOnly grateHart (s.countPart p pLost) (loseTrap s p) := by
  rcases declared : isVA (s.part p).tvec with _ | _
  · exact .inl (loseTrap_undeclared declared)
  · right
    have walked := (s.countPart p pLost).readVA_sameButTlb p 0 (vaOf (s.part p).tvec + 40) 8
    unfold loseTrap
    simp only [declared, Bool.not_true, Bool.false_eq_true, if_false]
    split
    next e => rw [e] at walked; exact bytesOnly_trans (.of_sameButTlb walked) (bytesOnly_writeVA ..)
    next e => rw [e] at walked; exact .of_sameButTlb walked

/-- A lost trap is counted at its partition, and leaves the traps and the log. -/
theorem loseTrap_counts (s : State) (p : Nat) : ((loseTrap s p).part p).stat = bump (s.part p).stat pLost 1 ∧
    ((loseTrap s p).part p).traps = (s.part p).traps ∧ (loseTrap s p).ctrl = s.ctrl := by
  have part : (s.countPart p pLost).part p = { s.part p with stat := bump (s.part p).stat pLost 1 } := State.part_setPart_self
      ..
  rcases loseTrap_cases s p with same | bytes
  · rw [same, part]
    exact ⟨rfl, rfl, rfl⟩
  · rw [bytes.part, part]
    exact ⟨rfl, rfl, bytes.keeps State.ctrl fun _ _ _ _ => rfl⟩

/-- Where LOST can be read and written, it rises by one. -/
theorem loseTrap_lost {s y : State} {p k : Nat} {c : List Byte} (declared : isVA (s.part p).tvec = true)
    (align : vaOf (s.part p).tvec % 64 = 0) (read : s.readVA p 0 (vaOf (s.part p).tvec + 40) 8 = (some c, y))
    (ok : (y.xlate p 0 (vaOf (s.part p).tvec + 40) true true).1 = .ok k) (plain : ∀ i, i < 8 → plainKey (k + i) = true) :
    (loseTrap s p).readAt k 8 = (leNat c + 1) % 2 ^ 64 := by
  obtain ⟨fst, snd⟩ := (sameWay_setPart s p (x := { s.part p with stat := bump (s.part p).stat pLost 1 })).readVA p 0
    (vaOf (s.part p).tvec + 40) 8
  have counted : s.countPart p pLost = s.setPart p { s.part p with stat := bump (s.part p).stat pLost 1 } := rfl
  rw [read] at fst snd
  have len : (leBytes 8 (leNat c + 1)).length = 8 := length_leBytes ..
  unfold loseTrap
  dsimp only
  rw [declared, counted]
  rcases got : (s.setPart p { s.part p with stat := bump (s.part p).stat pLost 1 }).readVA p 0 (vaOf (s.part p).tvec + 40) 8
    with ⟨b, z⟩
  rw [got] at fst snd
  cases fst
  have same : (z.xlate p 0 (vaOf (s.part p).tvec + 40) true true).1 = .ok k := (snd.xlateFrom ..).1.trans ok
  obtain ⟨u, -, wrote⟩ := writeVA_within grateHart (bytes := leBytes 8 (leNat c + 1)) (by rw [len]; decide)
    (by rw [len]; exact page_of_record align (by decide) (by decide)) same
  simp only [Bool.not_true, Bool.false_eq_true, if_false]
  rw [wrote]
  exact State.readAt_writeAt_plain _ _ plain (by decide)

/-! ## A trap record is written, or lost -/

/-- The fields of a partition's trap vector (R116). -/
def vecLog (v : Vec) : Nat := (v.extractLsb' 68 5).toNat
def vecTail (v : Vec) : Word := v.extractLsb' 256 64
def vecCounter (v : Vec) : Nat := (v.extractLsb' 128 64).toNat
/-- The queue has no slot left. -/
def vecFull (v : Vec) : Prop := 2 ^ vecLog v ≤ (vecTail v - v.extractLsb' 192 64).toNat
/-- The address of the slot at TAIL, and the record's bytes there. -/
def slotAt (v : Vec) : Nat := vaOf (v.extractLsb' 0 64) + 64 * ((vecTail v).toNat % 2 ^ vecLog v)
def recordBytes (r : TrapRec) (v : Vec) : List Byte :=
  vecBytes (r.data ||| BitVec.ofNat 512 ((vecTail v).toNat % 2 ^ 32 * 2 ^ 480)) 0 64
/-- The vector's counter is raised for a record that was written. -/
def trapCounted (s : State) (v : Vec) : State :=
  countUp (s.noteLines (oaCl (vecCounter v)) [lineOf (vecCounter v)] grateHart) (oaCl (vecCounter v)) (oaOff (vecCounter v) / 8)

theorem writeTrap_undeclared {s : State} {p : Nat} (r : TrapRec) (none : isVA (s.part p).tvec = false) :
    writeTrap s p r = loseTrap s p := by
  unfold writeTrap
  simp [none]
theorem writeTrap_unread {s x : State} {p : Nat} (r : TrapRec) (declared : isVA (s.part p).tvec = true)
    (read : s.readVA p 0 (vaOf (s.part p).tvec) 64 = (none, x)) : writeTrap s p r = loseTrap x p := by
  unfold writeTrap
  simp [declared, read]

section
variable {s x : State} {p : Nat} {b : List Byte}

theorem writeTrap_refused (r : TrapRec) (declared : isVA (s.part p).tvec = true)
    (read : s.readVA p 0 (vaOf (s.part p).tvec) 64 = (some b, x)) (bad : vectorOk x p (bytesVec b) = false ∨ vecFull (bytesVec b)) :
    writeTrap s p r = loseTrap x p := by
  unfold writeTrap
  simp only [declared, read, if_true]
  rcases ok : vectorOk x p (bytesVec b) with _ | _
  · rfl
  · have full := bad.resolve_left (by rw [ok]; nofun)
    exact if_pos full
theorem writeTrap_goes (r : TrapRec) (declared : isVA (s.part p).tvec = true)
    (read : s.readVA p 0 (vaOf (s.part p).tvec) 64 = (some b, x)) (ok : vectorOk x p (bytesVec b) = true) (room : ¬vecFull (bytesVec b))
    {wrote : Bool} {y : State} (write : x.writeVA grateHart p 0 (slotAt (bytesVec b)) (recordBytes r (bytesVec b)) = (wrote, y)) :
    writeTrap s p r = if wrote then trapCounted (y.writeVA grateHart p 0 (vaOf (s.part p).tvec + 32)
        (leBytes 8 ((vecTail (bytesVec b)).toNat + 1))).2 (bytesVec b)
      else (loseTrap y p).logEvent 10 p 0 := by
  unfold writeTrap
  simp only [declared, read, if_true, ok, Bool.not_true, Bool.false_eq_true, if_false]
  refine (if_neg room).trans ?_
  unfold slotAt recordBytes vecTail vecLog at write
  rw [write]
  cases wrote
  · rfl
  · rfl

end

/-- The record of an event that is logged. -/
def State.logged (s : State) (code part loc : Nat) : LogRec :=
  { time := BitVec.ofNat 64 s.now, code := BitVec.ofNat 16 code, part := BitVec.ofNat 2 part, loc := BitVec.ofNat 16 loc
    data := Config.logData (s.ctrl.overwritten + s.ctrl.log.length) }
theorem State.log_logEvent (s : State) (code part loc : Nat) : (s.logEvent code part loc).ctrl.log =
    (s.ctrl.log ++ [s.logged code part loc]).drop ((s.ctrl.log ++ [s.logged code part loc]).length - 4096) := by
  simp only [State.logEvent, State.logged]

/-- The newest record of the log is the event that is logged. -/
theorem State.mem_logEvent_log (s : State) (code part loc : Nat) : s.logged code part loc ∈ (s.logEvent code part loc).ctrl.log := by
  rw [State.log_logEvent, List.drop_append_of_le_length (Nat.sub_le_iff_le_add.2 (by simp))]
  exact List.mem_append_right _ List.mem_cons_self
theorem State.part_logEvent (s : State) (code part loc p : Nat) : (s.logEvent code part loc).part p = s.part p := by
  unfold State.part State.logEvent
  rfl

/-- A hart that falls idle holds nothing. -/
theorem State.thread_goIdle (s : State) (h : Hart) : (s.goIdle h).thread h = {} := by
  rw [State.goIdle, State.thread_noteWindow_self, State.thread_setThread_self]
theorem thread_retireHart (s : State) (h : Hart) : (retireHart s h).thread h = {} := by
  unfold retireHart
  dsimp only
  split
  · exact State.thread_goIdle ..
  · split
    · exact State.thread_goIdle ..
    · exact State.thread_goIdle ..

theorem vectorOk_aligned {s : State} {p : Nat} {v : Vec} (ok : vectorOk s p v = true) : vaOf (v.extractLsb' 0 64) % 64 = 0 := by
  unfold vectorOk at ok
  simp only [Bool.and_eq_true, beq_iff_eq] at ok
  have low : (v.extractLsb' 0 6).toNat = 0 := by simp only [ok]
  unfold vaOf
  rw [BitVec.extractLsb'_toNat] at low ⊢
  omega

/-- Raising a counter marks the waits that it meets, of a partition's state nothing else. -/
theorem State.part_putCounter (s : State) (cl i : Nat) (w : Word) (p : Nat) :
    ∃ l, (s.putCounter cl i w).part p = { s.part p with waiting := l } :=
  ⟨_, Tab.get_mapValues ({} : Part) s.parts (fun _ x => { x with
    waiting := x.waiting.map (fun e => if e.counter == mkOA cl 10 (8 * i) && e.thresh.toNat ≤ w.toNat then
        { e with met := true } else e) })
    p rfl⟩
theorem parts_evalEntry (s : State) (cl e : Nat) : (evalEntry s cl e).parts = s.parts := by
  unfold evalEntry
  dsimp only
  split <;> rfl
theorem parts_evalEntries (s : State) (cl i : Nat) : (evalEntries s cl i).parts = s.parts :=
  foldl_keeps _ State.parts _ _ fun _ _ => parts_evalEntry ..
theorem traps_trapCounted (s : State) (v : Vec) (p : Nat) : ((trapCounted s v).part p).traps = (s.part p).traps := by
  obtain ⟨l, part⟩ := State.part_putCounter (s.noteLines (oaCl (vecCounter v)) [lineOf (vecCounter v)] grateHart)
    (oaCl (vecCounter v)) (oaOff (vecCounter v) / 8) (((s.noteLines (oaCl (vecCounter v)) [lineOf (vecCounter v)]
        grateHart).cluster
      (oaCl (vecCounter v))).counter (oaOff (vecCounter v) / 8) + 1) p
  rw [trapCounted, countUp, State.part, parts_evalEntries, ← State.part, part]
  rfl

/-- The state once the record is written: its bytes stand, TAIL has risen, and so has the counter. -/
theorem trapCounted_spec {x y : State} {p k kt : Nat} {w : Word} {r : TrapRec} {v : Vec} (align : vaOf w % 64 = 0)
    (slot : vaOf (v.extractLsb' 0 64) % 64 = 0) (write : x.writeVA grateHart p 0 (slotAt v) (recordBytes r v) = (true, y))
    (ok : (x.xlate p 0 (slotAt v) true true).1 = .ok k) (okTail : (y.xlate p 0 (vaOf w + 32) true true).1 = .ok kt)
    (plain : ∀ i, i < 64 → plainKey (k + i) = true) (plainTail : ∀ i, i < 8 → plainKey (kt + i) = true) :
    let t := trapCounted (y.writeVA grateHart p 0 (vaOf w + 32) (leBytes 8 ((vecTail v).toNat + 1))).2 v
    t.readAt kt 8 = ((vecTail v).toNat + 1) % 2 ^ 64 ∧ (rangesMeet k 64 kt 8 = false → t.bytesAt k 64 = recordBytes r v) := by
  have len : (recordBytes r v).length = 64 := (List.length_map ..).trans List.length_range
  have len8 (n : Nat) : (leBytes 8 n).length = 8 := length_leBytes ..
  have aligned : slotAt v % 64 = 0 := by unfold slotAt; omega
  obtain ⟨u, -, wrote⟩ := writeVA_within (bytes := recordBytes r v) grateHart (by rw [len]; decide) (by rw [len]; omega) ok
  obtain ⟨u', seen, wroteTail⟩ := writeVA_within (bytes := leBytes 8 ((vecTail v).toNat + 1)) grateHart (by rw [len8]; decide)
    (by rw [len8]; exact page_of_record align (by decide) (by decide)) okTail
  have at' : y = u.writeAt grateHart k (recordBytes r v) := congrArg Prod.snd (write.symm.trans wrote)
  rw [wroteTail]
  have mem : (trapCounted (u'.writeAt grateHart kt (leBytes 8 ((vecTail v).toNat + 1))) v).mem =
      (u'.writeAt grateHart kt (leBytes 8 ((vecTail v).toNat + 1))).mem := by rw [trapCounted, mem_countUp]; rfl
  refine ⟨?_, fun apart => ?_⟩
  · rw [State.readAt_congr_plain mem plainTail]
    exact State.readAt_writeAt_plain _ _ plainTail (by decide)
  · simp only [rangesMeet, Bool.and_eq_false_iff, decide_eq_false_iff_not, Nat.not_lt] at apart
    have placed := State.bytesAt_writeAt_plain u grateHart (k := k) (b := recordBytes r v) (by rw [len]; exact plain)
    rw [len, ← at'] at placed
    refine (List.map_congr_left fun i hi => ?_).trans placed
    have inside := List.mem_range.1 hi
    rw [State.byteAt_congr_plain mem (plain i inside), State.byteAt_writeAt_outside (k := kt) _ _ (plainTail 0 (by decide))
        (plain i inside)
      (by rw [len8]; omega), State.byteAt_congr_plain seen.mem (plain i inside)]

end Sys2Proof.Machine
end

section
open Sys2Proof Sys2Proof.Machine

/-- Settles O57: the record is written or lost as `writeTrap` decides, and a retiring continuation ends behind it. -/
theorem trapQueue : Obligations.TrapQueue := by
  intro s r rest traps p w u writes lost plain
  have part : u.part p = { s.part p with traps := rest } := State.part_setPart_self ..
  have tvec : (u.part p).tvec = w := by rw [part]
  have goes : exec .trapQueueWrite s = .next (finishRetire (writeTrap u p r) r) := by
    change execTrapQueueWrite s = _
    unfold execTrapQueueWrite
    simp only [traps]
    rfl
  have lose (x : State) (same : x.part p = u.part p) (whole : writeTrap u p r = loseTrap x p) (f : State → Prop) (holds : f
      (loseTrap x p)) :
      writes fun t => lost t ∧ f t := by
    obtain ⟨stat, traps, -⟩ := loseTrap_counts x p
    refine ⟨_, goes, by rw [whole, traps, same, part], ?_, by rw [whole]; exact holds⟩
    change ((writeTrap u p r).part p).stat = _
    rw [whole, stat, same, part]
  have readPart {n va : Nat} {b : Option (List Byte)} {x : State} (read : u.readVA p 0 va n = (b, x)) : x.part p = u.part p := by
    have same := (u.readVA_sameButTlb p 0 va n).keeps (fun s => s.part p) fun _ _ => rfl
    rwa [read] at same
  refine ⟨fun undeclared => ?_, fun declared x read => ?_, fun declared b x read => ?_, fun none t => ?_, fun t h c retire
      retiring cont last => ?_⟩
  · have undeclared : isVA (u.part p).tvec = false := by rw [tvec]; exact undeclared
    exact lose u rfl (writeTrap_undeclared r undeclared) (fun t => t.mem = s.mem) (by rw [loseTrap_undeclared undeclared]; rfl)
  · have declared' : isVA (u.part p).tvec = true := by rw [tvec]; exact declared
    have read' : u.readVA p 0 (vaOf (u.part p).tvec) 64 = (none, x) := by rw [tvec]; exact read
    obtain ⟨t, next, traps, stat, -⟩ := lose x (readPart read) (writeTrap_unread r declared' read') (fun _ => True) trivial
    exact ⟨t, next, traps, stat⟩
  · intro v log oa tail full slot data
    have declared' : isVA (u.part p).tvec = true := by rw [tvec]; exact declared
    have read' : u.readVA p 0 (vaOf (u.part p).tvec) 64 = (some b, x) := by rw [tvec]; exact read
    have partX : x.part p = u.part p := readPart read
    have tvecX : (x.part p).tvec = w := by rw [partX, tvec]
    refine ⟨fun bad => ?_, fun ok room y write => ?_, fun ok room y write => ?_⟩
    · refine lose x partX (writeTrap_refused r declared' read' bad) _ fun c y k align got ok plain => ?_
      rw [← tvecX] at declared align got ok
      exact loseTrap_lost (p := p) declared align got ok plain
    · have partY : y.part p = x.part p := by
        have same := (bytesOnly_writeVA grateHart x p 0 slot data).part p
        rwa [write] at same
      have tvecY : (y.part p).tvec = w := by rw [partY, tvecX]
      have whole : writeTrap u p r = (loseTrap y p).logEvent 10 p 0 := writeTrap_goes r declared' read' ok room write
      obtain ⟨stat, traps, -⟩ := loseTrap_counts y p
      refine ⟨_, goes, ?_, ?_, ?_, fun c z k align got ok plain => ?_⟩
      · rw [whole, State.part_logEvent, traps, partY, partX, part]
      · change ((writeTrap u p r).part p).stat = _
        rw [whole, State.part_logEvent, stat, partY, partX, part]
      · exact ⟨_, by rw [whole]; exact State.mem_logEvent_log (loseTrap y p) 10 p 0, rfl, rfl⟩
      · rw [whole, State.readAt_congr_plain (State.mem_logEvent ..) plain]
        rw [← tvecY] at declared align got ok
        exact loseTrap_lost (s := y) (p := p) declared align got ok plain
    · have partY : y.part p = x.part p := by
        have same := (bytesOnly_writeVA grateHart x p 0 slot data).part p
        rwa [write] at same
      have whole : writeTrap u p r = trapCounted (y.writeVA grateHart p 0 (vaOf (u.part p).tvec + 32) (leBytes 8 (tail.toNat + 1))).2 v :=
        writeTrap_goes r declared' read' ok room write
      rw [tvec] at whole
      have bytes := bytesOnly_writeVA grateHart y p 0 (vaOf w + 32) (leBytes 8 (tail.toNat + 1))
      refine ⟨_, goes, ?_, ?_, fun k kt align okSlot okTail plain plainTail => ?_⟩
      · rw [whole]
        rw [traps_trapCounted, bytes.part, partY, partX, part]
      · rw [whole]
        refine (counter_countUp ..).trans ?_
        change ((y.writeVA grateHart p 0 (vaOf w + 32) (leBytes 8 (tail.toNat + 1))).2.cluster (oaCl oa)).counter (oaOff oa / 8) + 1 = _
        rw [bytes.keeps (fun s => s.cluster (oaCl oa)) fun _ _ _ _ => rfl]
      · rw [whole]
        exact trapCounted_spec align (vectorOk_aligned ok) write okSlot okTail plain plainTail
  · unfold finishRetire
    simp only [none]
  · intro d
    have same : finishRetire t r = if d.blocked h || d.recordWaits c.part c.rcd then d else retireHart d h := by
      unfold finishRetire
      simp only [retire, finishRetiring, retiring, cont]
      refine if_neg ?_
      simpa using fun x hx => last x hx
    refine ⟨fun waits => same.trans (if_pos (by simpa using waits)), fun free writable => ?_⟩
    rw [same, free, writable]
    exact thread_retireHart d h

end

section
/-! SUPPORT. What a continuation leaves behind as its thread set falls idle: its record, its entry in a queue (R34, R43, R108,
    R197 to R199). -/

namespace Sys2Proof.Machine

/-! ## The record of a continuation that leaves its thread set -/

/-- From `s` to `t` records, thread sets, gangs and clusters have changed, no counter among them. -/
def leftBy (s t : State) : Prop :=
  t = { s with threads := t.threads, mem := t.mem, dram := t.dram, gangs := t.gangs, clusters := t.clusters } ∧
    ∀ c, (t.cluster c).counters = (s.cluster c).counters

theorem leftBy_refl (s : State) : leftBy s s := ⟨rfl, fun _ => rfl⟩
theorem leftBy_trans {s t u : State} (st : leftBy s t) (tu : leftBy t u) : leftBy s u :=
  ⟨by rw [tu.1, st.1], fun c => (tu.2 c).trans (st.2 c)⟩
theorem leftBy.of_bytesOnly {h : Hart} {s t : State} (b : bytesOnly h s t) : leftBy s t :=
  ⟨by rw [b.1], fun c => b.keeps (fun s => (s.cluster c).counters) fun _ _ _ _ => rfl⟩
theorem leftBy.keeps {α : Type} {s t : State} (b : leftBy s t) (p : State → α)
    (free : ∀ (s : State) x m d g c, p { s with threads := x, mem := m, dram := d, gangs := g, clusters := c } = p s) : p t = p
        s := by
  rw [b.1, free]

theorem leftBy_setThread (s : State) (h : Hart) (t : Thread) : leftBy s (s.setThread h t) := ⟨rfl, fun _ => rfl⟩
theorem leftBy_setGang (s : State) (g : Nat) (x : Option Gang) : leftBy s (s.setGang g x) := ⟨rfl, fun _ => rfl⟩
theorem leftBy_leadTo (s : State) (h : Hart) (g : Nat) (x : Gang) (pc : Word) : leftBy s (s.leadTo h g x pc) := by
  have sent (l : List Hart) (u : State) : leftBy u (l.foldl (fun s m => s.setThread m ((s.thread m).sendTo pc)) u) := by
    induction l generalizing u with
    | nil => exact leftBy_refl u
    | cons m r ih => exact leftBy_trans (leftBy_setThread ..) (ih _)
  unfold State.leadTo
  dsimp only
  split
  · exact leftBy_trans (sent ..) (leftBy_setGang ..)
  · exact leftBy_setGang ..
theorem leftBy_noteGang (s : State) (h : Hart) (next : Word) : leftBy s (noteGang s h next) := by
  unfold noteGang
  dsimp only
  split
  · exact leftBy_refl s
  · split
    · exact leftBy_refl s
    · split
      · exact leftBy_trans (leftBy_leadTo ..) (leftBy_setGang ..)
      · exact leftBy_setGang ..

theorem State.thread_releaseArray (s : State) (h : Hart) : (s.releaseArray h).thread h = s.thread h := by
  unfold State.releaseArray
  split
  · exact s.thread_noteLines_self ..
  · rfl
theorem leftBy_releaseArray (s : State) (h : Hart) : leftBy s (s.releaseArray h) := by
  unfold State.releaseArray
  split
  · refine ⟨rfl, fun c => ?_⟩
    dsimp only
    rw [State.cluster_setCluster]
    split
    · next e => rw [e]; rfl
    · rfl
  · exact leftBy_refl s

theorem sameWay_of_leftBy {s t : State} (b : leftBy s t) (dram : t.dram = s.dram) (mem : t.mem = s.mem) : sameWay s t :=
  ⟨dram, mem, fun p st => b.keeps (fun s => s.stackIn p st) fun _ _ _ _ _ _ => rfl,
    fun acc v w => b.keeps (fun s => s.slotFor acc v w) fun _ _ _ _ _ _ => rfl⟩

theorem dram_leadTo (s : State) (h : Hart) (g : Nat) (x : Gang) (pc : Word) : (s.leadTo h g x pc).dram = s.dram := by
  unfold State.leadTo
  dsimp only
  split
  · exact foldl_keeps _ State.dram _ _ fun _ _ => rfl
  · rfl
theorem dram_noteGang (s : State) (h : Hart) (next : Word) : (noteGang s h next).dram = s.dram := by
  unfold noteGang
  dsimp only
  split
  · rfl
  · split
    · rfl
    · split
      · exact dram_leadTo ..
      · rfl
theorem dram_releaseArray (s : State) (h : Hart) : (s.releaseArray h).dram = s.dram := by
  unfold State.releaseArray
  split <;> rfl

/-- The record as a continuation leaves it: the PC where it goes on, if any, and its status. -/
def recordLeft (s : State) (h : Hart) (status : Nat) (pc : Option Word) : State :=
  putStatus (match pc with
    | some w => putPc s h (s.thread h).cont w
    | none => s) h (s.thread h).cont status
/-- The state in which the continuation has left its thread set but for its queue. -/
def leftState (s : State) (h : Hart) (status : Nat) (pc : Option Word) : State :=
  noteGang ((recordLeft s h status pc).releaseArray h) h (pc.getD (((recordLeft s h status pc).releaseArray h).thread h).regs.pc)

theorem leave_eq (s : State) (h : Hart) (status : Nat) (pc : Option Word) (f : State → State) :
    leave s h status pc f = (f (leftState s h status pc)).goIdle h := by
  cases pc <;> rfl

theorem bytesOnly_recordLeft (s : State) (h : Hart) (status : Nat) (pc : Option Word) : bytesOnly h s (recordLeft s h status pc) := by
  unfold recordLeft
  split
  · exact bytesOnly_trans (bytesOnly_putRecord ..) (bytesOnly_putRecord ..)
  · exact bytesOnly_putRecord ..

theorem leftState_spec (s : State) (h : Hart) (status : Nat) (pc : Option Word) :
    leftBy s (leftState s h status pc) ∧ (leftState s h status pc).thread h = s.thread h ∧
      sameWay (recordLeft s h status pc) (leftState s h status pc) := by
  have bytes := bytesOnly_recordLeft s h status pc
  have after : leftBy (recordLeft s h status pc) (leftState s h status pc) :=
    leftBy_trans (leftBy_releaseArray ..) (leftBy_noteGang ..)
  refine ⟨leftBy_trans (.of_bytesOnly bytes) after, ?_, sameWay_of_leftBy after ?_ ?_⟩
  · rw [leftState, thread_noteGang_self, State.thread_releaseArray, bytes.2.1]
  · rw [leftState, dram_noteGang, dram_releaseArray]
  · rw [leftState, mem_noteGang, State.mem_releaseArray]

/-! ## The thread set that falls idle -/

theorem State.parts_dropToken (s : State) (h : Hart) : (s.dropToken h).parts = s.parts ∧ (s.dropToken h).dies = s.dies := by
  have set (a : Nat) : (s.setToken a none).parts = s.parts ∧ (s.setToken a none).dies = s.dies := by
    unfold State.setToken
    split <;> exact ⟨rfl, rfl⟩
  unfold State.dropToken
  split
  · exact set _
  · exact ⟨rfl, rfl⟩
theorem State.part_goIdle (s : State) (h : Hart) (p : Nat) : (s.goIdle h).part p = s.part p := by
  rw [State.goIdle, State.part_noteWindow, State.part, State.setThread, (s.parts_dropToken h).1, State.part]
theorem State.dies_goIdle (s : State) (h : Hart) : (s.goIdle h).dies = s.dies := by
  have noted (u : State) : (u.noteWindow h fun _ => true).dies = u.dies := by
    unfold State.noteWindow
    split <;> rfl
  rw [State.goIdle, noted, State.setThread, (s.parts_dropToken h).2]

theorem State.part_gangWaits (s : State) (g p : Nat) : (s.gangWaits g).part p = s.part p := by
  unfold State.gangWaits
  split
  · rfl
  · split
    · rfl
    · unfold State.fixInst
      dsimp only
      split <;> rfl
theorem State.part_enqueue (s : State) (p : Nat) (e : ReadyEnt) :
    (s.enqueue p e).part p = { s.part p with ready := (s.part p).ready ++ [e] } := by
  unfold State.enqueue
  dsimp only
  split
  · exact State.part_setPart_self ..
  · exact (State.part_gangWaits ..).trans (State.part_setPart_self ..)

/-- The record of a continuation that left its thread set, once the set is idle. -/
theorem leave_record {s : State} {h : Hart} {k : Nat} {f : State → State} (status : Nat) (pc : Word)
    (key : s.recordKey (s.thread h).cont.part (s.thread h).cont.rcd k) (keeps : ∀ u, (f u).mem = u.mem) :
    (leave s h status (some pc) f).byteAt (k + 39) = BitVec.ofNat 8 status ∧
      (leave s h status (some pc) f).readAt k 8 = pc.toNat := by
  obtain ⟨-, -, -, left, -⟩ := leftState_spec s h status (some pc)
  have same : (leave s h status (some pc) f).mem = (recordLeft s h status (some pc)).mem := by
    rw [leave_eq, State.mem_goIdle, keeps, left]
  obtain ⟨-, written, at', -⟩ := putPc_putStatus (h := h) (st := status) (pc := pc) key
  have plain := key.2.2.1
  rw [State.byteAt_congr_plain same (plain 39 (by decide)), State.readAt_congr_plain same fun i hi => plain i (by omega)]
  exact ⟨written, at'⟩
theorem thread_leave (s : State) (h : Hart) (status : Nat) (pc : Option Word) (f : State → State) :
    (leave s h status pc f).thread h = {} := by
  rw [leave_eq, State.thread_goIdle]

theorem State.hasRecord.putPc_putStatus {s : State} {h : Hart} {c : Cont} {k : Nat} (st : Nat) (pc : Word)
    (way : s.hasRecord c.part c.rcd k true) :
    let t := putStatus (putPc s h c pc) h c st
    t.byteAt (k + 39) = BitVec.ofNat 8 st ∧ t.readAt k 8 = pc.toNat ∧
      ∀ a, plainKey a = true → k + 8 ≤ a → a ≠ k + 39 → t.byteAt a = s.byteAt a := by
  intro t
  have plain := way.2.1
  have len : (leBytes 8 pc.toNat).length = 8 := length_leBytes ..
  have first : putPc s h c pc = s.writeAt h k (leBytes 8 pc.toNat) := way.putRecord (by rw [len]; decide) (by rw [len]; decide)
  have key := plain 39 (by decide)
  have way' : (putPc s h c pc).hasRecord c.part c.rcd k true := by rw [first]; exact way.writeAt h (plain 0 (by decide)) _
  have second : t = (putPc s h c pc).writeAt h (k + 39) [BitVec.ofNat 8 st] := way'.putRecord (by simp) (by simp)
  rw [second]
  refine ⟨State.byteAt_writeAt_one _ _ _ key, ?_, fun a ha outside other => ?_⟩
  · rw [State.readAt_writeAt_outside _ _ key (fun i hi => plain i (by omega)) (.inl (by omega)), first]
    exact (State.readAt_writeAt_plain s h (fun i hi => plain i (by omega)) (by decide)).trans (Nat.mod_eq_of_lt pc.isLt)
  · rw [State.byteAt_writeAt_outside _ _ key ha (by simp; omega), first,
      State.byteAt_writeAt_outside (k := k) _ _ (plain 0 (by decide)) ha (by rw [len]; omega)]

/-- The record that a save routine leaves: the point it was saved at is written before PC and status. -/
theorem saved_record {s v : State} {h : Hart} {c : Cont} {u : State} {k q : Nat} {f : State → State} (pc : Word)
    (cont : (v.thread h).cont = c) (key : s.recordKey c.part c.rcd q) (written : v = u.writeAt s.cur (q + 38) [BitVec.ofNat 8 k])
    (way : v.hasRecord c.part c.rcd q true) (keeps : ∀ u, (f u).mem = u.mem) :
    (leave v h 4 (some pc) f).byteAt (q + 39) = 4 ∧ (leave v h 4 (some pc) f).byteAt (q + 38) = BitVec.ofNat 8 k ∧
      (leave v h 4 (some pc) f).readAt q 8 = pc.toNat := by
  have plain := key.2.2.1
  obtain ⟨-, -, -, left, -⟩ := leftState_spec v h 4 (some pc)
  have same : (leave v h 4 (some pc) f).mem = (putStatus (putPc v h c pc) h c 4).mem := by
    rw [leave_eq, State.mem_goIdle, keeps, left, ← cont]
    rfl
  obtain ⟨status, at', rest⟩ := way.putPc_putStatus (h := h) 4 pc
  rw [State.byteAt_congr_plain same (plain 39 (by decide)), State.byteAt_congr_plain same (plain 38 (by decide)),
    State.readAt_congr_plain same fun i hi => plain i (by omega)]
  refine ⟨status, ?_, at'⟩
  rw [rest _ (plain 38 (by decide)) (by omega) (by omega), written, State.byteAt_writeAt_one _ _ _ (plain 38 (by decide))]

/-- A continuation waits on a counter (R198). -/
def State.awaits (s : State) (c : Cont) (h : Hart) (w th : Word) : State :=
  s.setPart c.part { s.part c.part with waiting := (s.part c.part).waiting ++
    [{ rcd := c.rcd, counter := w.toNat, thresh := th
       met := decide (th.toNat ≤ ((s.cluster (oaCl w.toNat)).counter (oaOff w.toNat / 8)).toNat), ent := readyEntry s h c }] }

theorem cur_noteVals (s : State) (w th : Word) : (s.noteVals w th).cur = s.cur := by
  unfold State.noteVals
  split <;> rfl

/-! ## Save routines -/

theorem State.entersSave_of_no_gang {s : State} (gang : s.me.gang = none) : s.entersSave = s.me.mark.isSome := by
  unfold State.entersSave
  rw [State.gangOf_of_no_gang gang]
theorem State.leads_of_no_gang {s : State} {h : Hart} (gang : (s.thread h).gang = none) : s.leads h = none := by
  simp [State.leads, gang]
theorem State.noteSaving_of_no_gang {s : State} (gang : s.me.gang = none) : s.noteSaving = s := by
  unfold State.noteSaving
  rw [State.leads_of_no_gang gang]

/-- A thread enters a save routine: its next head is the routine's first. -/
def State.enters (u : State) (k : Nat) (pc : Word) : State :=
  ((u.goto u.cur pc).setMe { (u.goto u.cur pc).me with savemode := some k }).boundary u.cur
theorem State.me_enters {u : State} (k : Nat) (pc : Word) (gang : u.me.gang = none) (path : u.me.path = []) : (u.enters k pc).me =
    { u.me.wentTo pc with savemode := some k, chunk := { begun := (u.me.wentTo pc).regs } } := by
  rw [State.enters, State.me_boundary ((State.setMe_cur ..).trans (State.cur_goto ..)), State.me_setMe,
    State.goto_of_no_gang u pc gang path, State.me_setMe]

theorem exec_safe {k : BitVec 10} {s : State} {p : SafePt} (point : (s.safesOf s.me.cont)[k.toNat]? = some p) (outside :
    s.me.savemode = none)
    (may : s.mayEnd = true) : exec (.safe k) s =
      if s.ended.entersSave then
        let u := s.ended.noteSaving
        .next (((u.ws 1 (u.fall u.cur)).ws 2 u.me.cont.savearea).enters k.toNat p.savepc)
      else .next s.ended.noteSaving.pastStrong := by
  change execSafe k s = _
  unfold execSafe
  simp only [point, outside]
  refine (withChunkEnd_mayEnd s _ may).trans ?_
  rfl

/-! ## Offers are only added to -/

/-- Every successor that a die's grate has been offered is still offered. -/
structure offersGrow (s t : State) : Prop where
  kept : ∀ d, ∀ l ∈ (s.die d).offers, l ∈ (t.die d).offers

theorem offersGrow_refl (s : State) : offersGrow s s := ⟨fun _ _ h => h⟩
theorem offersGrow_trans {s t u : State} (st : offersGrow s t) (tu : offersGrow t u) : offersGrow s u :=
  ⟨fun d l h => tu.kept d l (st.kept d l h)⟩
theorem offersGrow_of_dies {s t : State} (same : t.dies = s.dies) : offersGrow s t :=
  ⟨fun d l h => by rw [State.die, same]; exact h⟩
theorem offersGrow_ite {s t u : State} {p : Prop} {_ : Decidable p} (ht : offersGrow s t) (hu : offersGrow s u) :
    offersGrow s (if p then t else u) := by
  split
  · exact ht
  · exact hu
theorem offersGrow_setDie (s : State) (d : Nat) {x : Die} (grows : ∀ l ∈ (s.die d).offers, l ∈ x.offers) : offersGrow s
    (s.setDie d x) := by
  refine ⟨fun d' l h => ?_⟩
  rw [State.die, State.setDie, Tab.get_set]
  split
  · next e => exact grows l (e ▸ h)
  · exact h
theorem offersGrow_foldl {α : Type} (f : State → α → State) (each : ∀ s a, offersGrow s (f s a)) (l : List α) (s : State) :
    offersGrow s (l.foldl f s) := by
  induction l generalizing s with
  | nil => exact offersGrow_refl s
  | cons a r ih => exact offersGrow_trans (each s a) (ih _)

theorem offersGrow_offer (s : State) (d : Nat) (l : Launch) : offersGrow s (s.offer d l) :=
  offersGrow_setDie s d fun _ h => List.mem_append_left _ h
theorem offersGrow_fireEntry (s : State) (cl e : Nat) : offersGrow s (fireEntry s cl e) := by
  unfold fireEntry
  extract_lets u x v
  exact offersGrow_trans (t := v) (offersGrow_of_dies rfl) (offersGrow_offer v ..)
theorem offersGrow_evalEntry (s : State) (cl e : Nat) : offersGrow s (evalEntry s cl e) :=
  offersGrow_ite (offersGrow_fireEntry s cl e) (offersGrow_refl s)
theorem offersGrow_setCluster (s : State) (c : Nat) (x : Cluster) : offersGrow s (s.setCluster c x) := offersGrow_of_dies rfl
theorem offersGrow_wtStore (s : State) (cl e j : Nat) (w : Word) : offersGrow s (wtStore s cl e j w) := by
  have bad : offersGrow s (s.countCl cl cBadCtl 1) := offersGrow_setCluster ..
  unfold wtStore
  split
  · exact offersGrow_ite bad (offersGrow_setCluster ..)
  · exact offersGrow_ite bad (offersGrow_setCluster ..)
  · exact offersGrow_ite bad (offersGrow_ite (offersGrow_trans (offersGrow_setCluster ..) (offersGrow_evalEntry ..))
      (offersGrow_setCluster ..))
  · exact offersGrow_ite (offersGrow_refl s) bad
theorem offersGrow_storeCtl (s : State) (cl off : Nat) (b : List Byte) : offersGrow s (storeCtl s cl off b) :=
  offersGrow_ite (offersGrow_setCluster ..) (offersGrow_setCluster ..)
theorem offersGrow_storeWindow (s : State) (h : Hart) (off : Nat) (b : List Byte) : offersGrow s (s.storeWindow h off b) := by
  have set (t : Thread) : offersGrow s (s.setThread h t) := offersGrow_of_dies rfl
  unfold State.storeWindow
  dsimp only
  split
  · exact offersGrow_refl s
  · exact set _
  all_goals exact offersGrow_ite (offersGrow_trans (set _) (offersGrow_setCluster ..)) (set _)
theorem offersGrow_writeAt (s : State) (h : Hart) (k : Nat) (b : List Byte) : offersGrow s (s.writeAt h k b) := by
  unfold State.writeAt
  extract_lets u plain
  have noted : offersGrow s u := offersGrow_of_dies rfl
  split
  · exact offersGrow_of_dies rfl
  · split
    · exact offersGrow_of_dies rfl
    · split
      case h_1 | h_2 | h_3 => exact offersGrow_of_dies rfl
      case h_4 => exact offersGrow_trans noted (offersGrow_wtStore ..)
      case h_5 => exact offersGrow_trans noted (offersGrow_storeCtl ..)
      case h_6 => exact offersGrow_trans noted (offersGrow_storeWindow ..)
      all_goals exact noted

theorem offersGrow_writeVA (s : State) (h : Hart) (p acc va : Nat) (b : List Byte) : offersGrow s (s.writeVA h p acc va b).2 :=
  offersGrow_of_dies ((bytesOnly_writeVA h s p acc va b).keeps State.dies fun _ _ _ _ => rfl)
theorem offersGrow_putMailbox (s : State) (h : Hart) (p acc : Nat) (mbox : Option Word) (first : Nat) (rest : List Byte) :
    offersGrow s (putMailbox s h p acc mbox first rest) := by
  have put (w : Word) (u : State) (off : Nat) (b : List Byte) : offersGrow u (if b.isEmpty then u
      else if isOA w then u.writeAt h (w.toNat + off) b else (u.writeVA h p acc (vaOf w + off) b).2) :=
    offersGrow_ite (offersGrow_refl u) (offersGrow_ite (offersGrow_writeAt ..) (offersGrow_writeVA ..))
  unfold putMailbox
  split
  · exact offersGrow_refl s
  · exact offersGrow_trans (put ..) (put ..)
theorem offersGrow_chanEnd (s : State) (h : Hart) (j : Job) (stop fcode : Nat) (fva : Word) (st : ChanSt) :
    offersGrow s (chanEnd s h j stop fcode fva st) := by
  unfold chanEnd
  extract_lets first rest u v
  have boxed : offersGrow s u := offersGrow_ite (offersGrow_putMailbox ..) (offersGrow_refl s)
  have counted : offersGrow s v := offersGrow_ite (offersGrow_trans boxed (offersGrow_of_dies rfl)) boxed
  exact offersGrow_ite (offersGrow_trans counted (offersGrow_of_dies rfl)) counted
theorem offersGrow_putStatus (s : State) (h : Hart) (c : Cont) (st : Nat) : offersGrow s (putStatus s h c st) :=
  offersGrow_writeVA ..
theorem dies_publishTile (s : State) (tile n : Nat) : (publishTile s tile n).dies = s.dies := by
  induction n generalizing s with
  | zero => rfl
  | succ n ih =>
    unfold publishTile
    dsimp only
    split
    · split
      · exact ih _
      · rfl
    · rfl
theorem offersGrow_endRecord (s : State) (h : Hart) (c : Cont) (status : Nat) : offersGrow s (endRecord s h c status) := by
  unfold endRecord
  split
  · exact offersGrow_refl s
  · dsimp only
    refine offersGrow_ite (offersGrow_refl s) (offersGrow_ite ?_ (offersGrow_of_dies rfl))
    refine offersGrow_trans ?_ (offersGrow_foldl _ (fun _ _ => offersGrow_putStatus ..) _ _)
    have freed (u : State) (l : List (Nat × Nat)) : offersGrow u (l.foldl (fun s x => s.freeSlot x.1 x.2) u) :=
      offersGrow_foldl (fun (s : State) (x : Nat × Nat) => s.freeSlot x.1 x.2) (fun _ _ => offersGrow_of_dies rfl) _ _
    have published (u : State) (l : List (Nat × Nat)) : offersGrow u (l.foldl (fun s x => publishTile s x.1 4) u) :=
      offersGrow_foldl _ (fun _ _ => offersGrow_of_dies (dies_publishTile ..)) _ _
    have succeeded (u : State) (k : Closure) : offersGrow u (u.endSuccessor k) :=
      offersGrow_ite (offersGrow_of_dies rfl) (offersGrow_refl u)
    have left (u : State) (d : Nat) (n : Nat) : offersGrow u (u.setDie d { u.die d with entries := n }) :=
      offersGrow_setDie u d fun _ h => h
    have task (t : Task) (d n : Nat) : offersGrow s ((s.setTask t).setDie d { (s.setTask t).die d with entries := n }) :=
      offersGrow_trans (t := s.setTask t) (offersGrow_of_dies rfl) (left ..)
    split
    · exact offersGrow_trans (offersGrow_trans (offersGrow_ite (offersGrow_trans (task ..) (freed ..)) (task ..)) (published ..))
        (succeeded ..)
    · exact offersGrow_trans (offersGrow_ite (offersGrow_trans (task ..) (freed ..)) (task ..)) (published ..)
theorem offersGrow_leaveGang (s : State) (h : Hart) : offersGrow s (leaveGang s h) := by
  unfold leaveGang
  split
  · exact offersGrow_refl s
  · exact offersGrow_of_dies rfl
theorem offersGrow_offerAll (s : State) (h : Hart) (c : Cont) (l : List Word) : offersGrow s (offerAll s h c l) :=
  offersGrow_foldl _ (fun _ _ => offersGrow_offer ..) _ _
theorem offered_offerAll {s : State} {h : Hart} {c : Cont} {l : List Word} {w : Word} (mem : w ∈ l) :
    ∃ x ∈ ((offerAll s h c l).die (hartDie h)).offers, x.lb = w ∧ x.part = c.part := by
  induction l generalizing s with
  | nil => cases mem
  | cons a r ih =>
    rcases List.mem_cons.1 mem with rfl | later
    · let x : Launch := ⟨w, c.part, none, some (c.part, c.rcd)⟩
      refine ⟨x, (offersGrow_offerAll (s.offer (hartDie h) x) h c r).kept _ _ ?_, rfl, rfl⟩
      have offered (x : Launch) : ((s.offer (hartDie h) x).die (hartDie h)).offers = (s.die (hartDie h)).offers ++ [x] :=
        congrArg Die.offers (Tab.get_set_self ..)
      rw [offered]
      exact List.mem_append_right _ List.mem_cons_self
    · exact ih later

theorem outsideOf {s : State} (outside : s.me.savemode = none) (x y : Result) : (if s.me.savemode.isSome then x else y) = y :=
  if_neg (by rw [outside]; nofun)
theorem insideOf {s : State} (inside : s.me.savemode ≠ none) (x y : Result) : (if s.me.savemode.isSome then x else y) = x :=
  if_pos (Option.isSome_iff_ne_none.2 inside)

theorem exec_yield {s : State} (outside : s.me.savemode = none) (may : s.mayRelease = true) : exec .yield s =
    .next (leave s.released s.released.cur 1 (some (s.released.fall s.released.cur)) fun x =>
      x.enqueue s.released.me.cont.part (readyEntry x s.released.cur s.released.me.cont)) :=
  (outsideOf outside _ _).trans (withRelease_mayRelease s _ may)

theorem exec_saved {s : State} {k : Nat} (inside : s.me.savemode = some k) (may : s.mayRelease = true) : exec .saved s =
    let r := s.released
    let c := r.me.cont
    let v := putRecord r r.cur c 38 [BitVec.ofNat 8 k]
    .next (leave v v.cur 4 (some ((((r.safesOf c)[k]?).map (fun p => p.restpc)).getD 0)) fun x => x.enqueue c.part (savedEntry
        x x.cur c)) := by
  change execSaved s = _
  unfold execSaved
  rw [inside]
  exact (withRelease_mayRelease s _ may).trans rfl

/-- The successors that EXIT hands on: none of a gang's member but its leader. -/
def exitWords (s : State) (first count : Reg) : List Word :=
  if s.follows then [] else (List.range count.toNat).map (fun i => s.rs (first + BitVec.ofNat 5 i))
/-- EXIT's effect on all but the record and the thread set (R197, R302, R367). -/
def exited (u : State) (h : Hart) (c : Cont) (l : List Word) : State :=
  let u := offerAll u h c l
  match u.runJob c.part c.rcd with
  | some (n, j) =>
    let v := (chanEnd u h j 1 0 0 .idle).setJob n none
    if l.isEmpty then putStatus v h c 0 else v
  | none =>
    let v := leaveGang (endRecord u h c 7) h
    if l.isEmpty then putStatus v h c 0 else v
theorem exec_exit {first count : Reg} {s : State} (outside : s.me.savemode = none) (may : s.mayRelease = true) :
    exec (.exit first count) s =
      let r := s.released
      if r.recordWaits r.me.cont.part r.me.cont.rcd then r.stalled (.exit first count)
      else .next (leave r r.cur 7 none fun x => exited x r.cur r.me.cont (exitWords r first count)) := by
  change execExit first count s = _
  unfold execExit
  refine (outsideOf outside _ _).trans ((withRelease_mayRelease s _ may).trans ?_)
  dsimp only
  generalize s.released = r
  rfl

/-! ### The task whose continuation ends -/

theorem State.task_setTask {s : State} {t : Task} {x : Task} (old : s.task t.acc = some x) (a : Nat) :
    (s.setTask t).task a = if a = t.acc then some t else s.task a := by
  have acc (u : Task) : (if (u.acc == t.acc) = true then t else u).acc = u.acc := by
    split
    · next e => exact (beq_iff_eq.1 e).symm
    · rfl
  have found : (s.setTask t).task a = (s.task a).map fun u => if (u.acc == t.acc) = true then t else u := by
    unfold State.task State.setTask
    rw [List.find?_map]
    refine congrArg _ (List.find?_congr fun u _ => ?_)
    rw [Function.comp_apply, acc]
  rw [found]
  split
  · next here =>
    have same : (x.acc == t.acc) = true := List.find?_some (p := fun u : Task => u.acc == t.acc) old
    rw [here, old, Option.map_some, if_pos same]
  · next other =>
    rcases task : s.task a with _ | u
    · rfl
    · have at' : u.acc = a := by simpa using List.find?_some task
      rw [Option.map_some, if_neg (by rw [at']; simpa using other)]

/-- A task that keeps what it binds and opens leads every access the same way. -/
theorem sameWay_setTask {s : State} {t x : Task} (old : s.task t.acc = some x) (opened : t.opened = x.opened) (reads : t.reads = x.reads)
    (bound : t.bound = x.bound) : sameWay s (s.setTask t) := by
  refine ⟨rfl, rfl, fun _ _ => rfl, fun acc v w => ?_⟩
  have task := State.task_setTask old acc
  have slots : (s.setTask t).vslots v = s.vslots v := rfl
  unfold State.slotFor
  by_cases here : acc = t.acc
  · rw [if_pos here] at task
    rw [task, here, old, slots]
    simp only [opened, reads, bound]
  · rw [if_neg here] at task
    rw [task, slots]
theorem sameWay_setDie (s : State) (d : Nat) (x : Die) : sameWay s (s.setDie d x) := ⟨rfl, rfl, fun _ _ => rfl, fun _ _ _ => rfl⟩
theorem sameWay_setGroup (s : State) (k : Nat) (g : Group) : sameWay s (s.setGroup k g) := ⟨rfl, rfl, fun _ _ => rfl, fun _ _ _ => rfl⟩
theorem sameWay_endSuccessor (s : State) (k : Closure) : sameWay s (s.endSuccessor k) := by
  unfold State.endSuccessor
  dsimp only
  split
  · exact sameWay_setGroup ..
  · exact sameWay_refl s

/-- No thread of the task has been retired. -/
def Task.whole (t : Task) : Prop := ∀ y ∈ t.recs, y.2 ≠ 8

theorem Task.whole_ended {t : Task} (whole : t.whole) (rcd : Word) : (t.recs.map fun (r : Word × Nat) =>
    if r.1 == rcd && r.2 == 0 then (r.1, 7) else r).filter (fun r => r.2 == 8) = [] := by
  refine List.filter_eq_nil_iff.2 fun r hr => ?_
  obtain ⟨y, hy, rfl⟩ := List.mem_map.1 hr
  split
  · simp
  · simpa using whole y hy

/-- What a write by virtual address reads to find its way, but for the slots of tiles. -/
def State.way (s : State) : List Host.Cell × Tab Stack × Controller := (s.mem, s.dram, s.ctrl)

theorem way_publishTile (s : State) (tile n : Nat) : (publishTile s tile n).way = s.way := by
  induction n generalizing s with
  | zero => rfl
  | succ n ih =>
    unfold publishTile
    dsimp only
    split
    · split
      · exact ih _
      · rfl
    · rfl
theorem way_endSuccessor (s : State) (k : Closure) : (s.endSuccessor k).way = s.way := by
  unfold State.endSuccessor
  dsimp only
  split <;> rfl

/-- The end of a record of a task without retired threads writes nothing; with no version opened it leads accesses the same way. -/
theorem endRecord_spec (s : State) (h : Hart) (c : Cont) (whole : ∀ x, s.task c.acc = some x → x.whole) :
    (endRecord s h c 7).way = s.way ∧ ((∀ x, s.task c.acc = some x → x.opened = []) → sameWay s (endRecord s h c 7)) := by
  unfold endRecord
  split
  · exact ⟨rfl, fun _ => sameWay_refl s⟩
  · next t task =>
    have acc : t.acc = c.acc := by simpa using List.find?_some task
    dsimp only
    rw [Task.whole_ended (whole t task)]
    split
    · exact ⟨rfl, fun _ => sameWay_refl s⟩
    · split
      · have published (u : State) (l : List (Nat × Nat)) : (l.foldl (fun s x => publishTile s x.1 4) u).way = u.way :=
          foldl_keeps _ State.way _ _ fun _ _ => way_publishTile ..
        have freed (u : State) (l : List (Nat × Nat)) : (l.foldl (fun s x => s.freeSlot x.1 x.2) u).way = u.way :=
          foldl_keeps _ State.way _ _ fun _ _ => rfl
        rw [List.foldl_nil]
        refine ⟨?_, fun quiet => ?_⟩
        · have succeeded (u : State) (same : u.way = s.way) : (match t.group with
              | some k => u.endSuccessor k
              | none => u).way = s.way := by
            split
            · exact (way_endSuccessor ..).trans same
            · exact same
          refine succeeded _ ((published ..).trans ?_)
          split
          · exact freed ..
          · rfl
        · have kept (d : Nat) (x : Die) (y : Task) (same : y.acc = t.acc ∧ y.opened = t.opened ∧ y.reads = t.reads ∧ y.bound = t.bound) :
              sameWay s ((s.setTask y).setDie d x) := by
            obtain ⟨acc', opened, reads, bound⟩ := same
            exact sameWay_trans (sameWay_setTask (x := t) (by rw [acc', acc]; exact task) opened reads bound) (sameWay_setDie ..)
          simp only [quiet t task, List.foldl_nil, ite_self]
          split
          · exact sameWay_trans (kept _ _ _ (by exact ⟨rfl, (quiet t task).symm, rfl, rfl⟩)) (sameWay_endSuccessor ..)
          · exact kept _ _ _ (by exact ⟨rfl, (quiet t task).symm, rfl, rfl⟩)
      · exact ⟨rfl, fun _ => sameWay_setTask (x := t) (by rw [acc]; exact task) rfl rfl rfl⟩

/-- Where a tile's slot has changed, cached translations lead to the same place in another slot, or nowhere. -/
theorem CachedTo.otherSlot {s t : State} {p acc v k n st off : Nat} {w : Bool} (c : CachedTo s p acc v w k n st) (align : v % 64 = 0)
    (lt : off < 64) (tlb : ∀ st, (t.stack st).tlb = (s.stack st).tlb) (inside : ∀ st, t.stackIn p st = s.stackIn p st) :
    (t.xlateFrom p acc (v + off) w st true n).2 = t ∧ ∀ q, (t.xlateFrom p acc (v + off) w st true n).1 = .ok q →
      ∃ a b, q + a * 2 ^ 39 = k + off + b * 2 ^ 39 := by
  have cached {st : Nat} {e : TlbEntry} (h : s.caches st p v w e) : t.caches st p v w e := fun off lt => by rw [tlb, h off lt]
  induction c with
  | @here n st slot e hit inStack leaf hslot key =>
    have low := TlbEntry.le_of_caches hit
    have ends (r : Xres) (once : t.xlateAt st p acc (v + off) w true = (r, t)) (final : ∀ st', r ≠ .redirect st') :
        t.xlateFrom p acc (v + off) w st true n = (r, t) := by
      cases n with
      | zero => exact once
      | succ n =>
        rw [State.xlateFrom, once]
        cases r
        case redirect st' => exact absurd rfl (final st')
        all_goals rfl
    rcases tile : t.slotFor acc ((v + off) / 2 ^ 16) w with _ | x
    · rw [ends .readonly ?_ nofun]
      · exact ⟨rfl, nofun⟩
      · unfold State.xlateAt
        simp only [(inside st).trans inStack, State.lookupPage_of_caches (cached hit) lt, leaf, tile]
        rfl
    · rw [ends (.ok (stackKey x st (e.frame + (v + off - e.va)))) ?_ nofun]
      · refine ⟨rfl, fun q ok => ?_⟩
        cases ok
        refine ⟨slot, x, ?_⟩
        rw [key, stackKey, stackKey]
        omega
      · unfold State.xlateAt
        simp only [(inside st).trans inStack, State.lookupPage_of_caches (cached hit) lt, leaf, tile]
        rfl
  | @further n st st' e hit inStack redirect rest ih =>
    have once : t.xlateAt st p acc (v + off) w true = (.redirect st', t) := by
      unfold State.xlateAt
      simp only [(inside st).trans inStack, State.lookupPage_of_caches (cached hit) lt, redirect]
      rfl
    rw [State.xlateFrom, once]
    exact ih

theorem State.xlateRange_within {s : State} {p acc va n : Nat} {w thru : Bool} (pos : 0 < n)
    (page : (va + n - 1) / 2 ^ 16 = va / 2 ^ 16) :
    s.xlateRange p acc va n w thru = rangeStep p acc va w thru (.ok [], s) (va, n) := by
  have pages : (List.range ((va + n - 1) / 2 ^ 16 - va / 2 ^ 16 + 1)).map (fun i =>
      (max va ((va / 2 ^ 16 + i) * 2 ^ 16), min (va + n) ((va / 2 ^ 16 + i + 1) * 2 ^ 16) - max va ((va / 2 ^ 16 + i) * 2 ^ 16))) =
      [(va, n)] := by
    rw [page, Nat.sub_self]
    simp only [Nat.zero_add, List.range_one, List.map_cons, List.map_nil, Nat.add_zero, List.cons.injEq, and_true, Prod.mk.injEq]
    omega
  unfold State.xlateRange
  dsimp only
  rw [pages, List.foldl_cons, List.foldl_nil]
  rfl

/-- A byte written into a record through another slot leaves the record's other bytes. -/
theorem putRecord_otherSlot {s t : State} {h : Hart} {c : Cont} {k off : Nat} (b : Byte) (lt : off < 64)
    (way : s.hasRecord c.part c.rcd k true) (tlb : ∀ st, (t.stack st).tlb = (s.stack st).tlb)
    (inside : ∀ st, t.stackIn c.part st = s.stackIn c.part st) {i : Nat} (small : i < 64) (other : i ≠ off) :
    Memory.get (putRecord t h c off [b]).mem (k + i) = Memory.get t.mem (k + i) := by
  obtain ⟨align, -, cached⟩ := way
  obtain ⟨still, leads⟩ := cached.otherSlot align lt tlb inside
  have stack : vaStack (vaOf c.rcd + off) = vaStack (vaOf c.rcd) := by unfold vaStack; omega
  obtain ⟨r, found⟩ : ∃ r, t.xlateFrom c.part 0 (vaOf c.rcd + off) true (vaStack (vaOf c.rcd)) true 8 = (r, t) :=
    ⟨_, Prod.ext rfl still⟩
  have walk : t.xlateRange c.part 0 (vaOf c.rcd + off) [b].length true true =
      rangeStep c.part 0 (vaOf c.rcd + off) true true (.ok [], t) (vaOf c.rcd + off, 1) :=
    State.xlateRange_within Nat.one_pos (page_of_record align Nat.one_pos lt)
  unfold Machine.rangeStep State.xlate at walk
  rw [found] at leads
  simp only [stack, found] at walk
  unfold putRecord State.writeVA
  rw [walk]
  cases r
  case ok q =>
    obtain ⟨x, y, apart⟩ := leads q rfl
    exact State.get_mem_writeAt t h (by simp; omega)
  all_goals rfl

/-! ### EXIT -/

theorem offersGrow_exited (u : State) (h : Hart) (c : Cont) (l : List Word) : offersGrow (offerAll u h c l) (exited u h c l) := by
  unfold exited
  dsimp only
  split
  · have ended (j : Job) (n : Hart) : offersGrow (offerAll u h c l) ((chanEnd (offerAll u h c l) h j 1 0 0 .idle).setJob n none) :=
      offersGrow_trans (offersGrow_chanEnd ..) (offersGrow_of_dies rfl)
    exact offersGrow_ite (offersGrow_trans (ended ..) (offersGrow_putStatus ..)) (ended ..)
  · have ended := offersGrow_trans (offersGrow_endRecord (offerAll u h c l) h c 7) (offersGrow_leaveGang _ h)
    exact offersGrow_ite (offersGrow_trans ended (offersGrow_putStatus ..)) ended

theorem sameWay_offerAll (s : State) (h : Hart) (c : Cont) (l : List Word) : sameWay s (offerAll s h c l) := by
  unfold offerAll
  induction l generalizing s with
  | nil => exact sameWay_refl s
  | cons a r ih => exact sameWay_trans (sameWay_setDie ..) (ih _)
theorem sameWay_leaveGang (s : State) (h : Hart) : sameWay s (leaveGang s h) := by
  unfold leaveGang
  split <;> exact ⟨rfl, rfl, fun _ _ => rfl, fun _ _ _ => rfl⟩

theorem way_offerAll (s : State) (h : Hart) (c : Cont) (l : List Word) : (offerAll s h c l).way = s.way :=
  foldl_keeps _ State.way _ _ fun _ _ => rfl
theorem way_leaveGang (s : State) (h : Hart) : (leaveGang s h).way = s.way := by
  unfold leaveGang
  split <;> rfl

/-- EXIT of no RUN job, whose task has no retired thread, writes at most its STATUS, at the same place where no version is opened. -/
theorem exited_spec {u : State} {h : Hart} {c : Cont} {l : List Word} (job : (offerAll u h c l).runJob c.part c.rcd = none)
    (whole : ∀ x, (offerAll u h c l).task c.acc = some x → x.whole) : ∃ v, v.way = u.way ∧
      exited u h c l = (if l.isEmpty then putStatus v h c 0 else v) ∧
      ((∀ x, (offerAll u h c l).task c.acc = some x → x.opened = []) → sameWay u v) := by
  obtain ⟨way, same⟩ := endRecord_spec (offerAll u h c l) h c whole
  refine ⟨leaveGang (endRecord (offerAll u h c l) h c 7) h, ?_, ?_, fun quiet =>
    sameWay_trans (sameWay_offerAll ..) (sameWay_trans (same quiet) (sameWay_leaveGang ..))⟩
  · rw [way_leaveGang, way, way_offerAll]
  · unfold exited
    simp only [job]

/-- The record that EXIT leaves: its PC as it was, and STATUS 7, or 0 without successors. -/
theorem exit_record {r : State} {h : Hart} {c : Cont} (l : List Word) {k : Nat} (cont : (r.thread h).cont = c)
    (key : r.recordKey c.part c.rcd k) (job : r.runJob c.part c.rcd = none) (whole : ∀ x, r.task c.acc = some x → x.whole) :
    let t := leave r h 7 none fun x => exited x h c l
    t.readAt k 8 = r.readAt k 8 ∧ (l ≠ [] → t.byteAt (k + 39) = 7) ∧
      (l = [] → (∀ x, r.task c.acc = some x → x.opened = []) → t.byteAt (k + 39) = 0) := by
  intro t
  have plain := key.2.2.1
  obtain ⟨left, -, same⟩ := leftState_spec r h 7 none
  have sameJob : (offerAll (leftState r h 7 none) h c l).runJob c.part c.rcd = none := by
    have offered : (offerAll (leftState r h 7 none) h c l).jobs = (leftState r h 7 none).jobs := foldl_keeps _ State.jobs _ _
        fun _ _ => rfl
    have kept := left.keeps (fun s => s.runJob c.part c.rcd) fun _ _ _ _ _ _ => rfl
    rw [State.runJob, offered]
    exact kept.trans job
  have sameTask : (offerAll (leftState r h 7 none) h c l).task c.acc = r.task c.acc := by
    have offered : (offerAll (leftState r h 7 none) h c l).tasks = (leftState r h 7 none).tasks := foldl_keeps _ State.tasks _
        _ fun _ _ => rfl
    rw [State.task, offered]
    exact left.keeps (fun s => s.task c.acc) fun _ _ _ _ _ _ => rfl
  obtain ⟨u, walked, at', way⟩ := putRecord_of_recordKey (h := h) (c := c) (off := 39) (bytes := [BitVec.ofNat 8 7]) key
      (by simp) (by simp)
  rw [show recordLeft r h 7 none = putRecord r h c 39 [BitVec.ofNat 8 7] by rw [← cont]; rfl] at same
  have status : (putRecord r h c 39 [BitVec.ofNat 8 7]).byteAt (k + 39) = 7 := by
    rw [at', State.byteAt_writeAt_one _ _ _ (plain 39 (by decide))]
    rfl
  have pc : (putRecord r h c 39 [BitVec.ofNat 8 7]).readAt k 8 = r.readAt k 8 := by
    rw [at', State.readAt_writeAt_outside _ _ (plain 39 (by decide)) (fun i hi => plain i (by omega)) (.inl (by omega)),
      State.readAt_congr_plain walked.mem fun i hi => plain i (by omega)]
  obtain ⟨v, leads, whole', quiet⟩ := exited_spec sameJob (by rw [sameTask]; exact whole)
  have mem : t.mem = (exited (leftState r h 7 none) h c l).mem := by rw [show t = _ from leave_eq .., State.mem_goIdle]
  have vmem : v.mem = (putRecord r h c 39 [BitVec.ofNat 8 7]).mem := (congrArg Prod.fst leads).trans same.2.1
  have dram : v.dram = (putRecord r h c 39 [BitVec.ofNat 8 7]).dram := (congrArg (fun x => x.2.1) leads).trans same.1
  have tlb (st : Nat) : (v.stack st).tlb = ((putRecord r h c 39 [BitVec.ofNat 8 7]).stack st).tlb := by
    rw [State.stack, dram]
    rfl
  have inside (st : Nat) : v.stackIn c.part st = (putRecord r h c 39 [BitVec.ofNat 8 7]).stackIn c.part st := by
    have ctrl : v.ctrl = (leftState r h 7 none).ctrl := congrArg (fun x => x.2.2) leads
    rw [← same.2.2.1, State.stackIn, State.dieIn, ctrl]
    rfl
  rw [whole'] at mem
  refine ⟨?_, fun some => ?_, fun none open' => ?_⟩
  · rw [← pc]
    refine congrArg leNat (List.map_congr_left fun i hi => ?_)
    have small := List.mem_range.1 hi
    rw [State.byteAt_plain _ (plain i (by omega)), State.byteAt_plain _ (plain i (by omega)), mem, ← vmem]
    split
    · exact putRecord_otherSlot _ (by decide) way tlb inside (by omega) (by omega)
    · rfl
  · rw [if_neg fun h => some (List.isEmpty_iff.1 h), vmem] at mem
    rw [State.byteAt_congr_plain mem (plain 39 (by decide)), status]
  · have sameV := sameWay_trans same (quiet (by rw [sameTask]; exact open'))
    have way' : v.hasRecord c.part c.rcd k true := way.congr tlb inside fun w => sameV.2.2.2 0 w true
    have second : putStatus v h c 0 = v.writeAt h (k + 39) [BitVec.ofNat 8 0] := way'.putRecord (by simp) (by simp)
    rw [if_pos (List.isEmpty_iff.2 none), second] at mem
    rw [State.byteAt_congr_plain mem (plain 39 (by decide)), State.byteAt_writeAt_one _ _ _ (plain 39 (by decide))]
    rfl

/-- What WAITC does with its words (R198). -/
def waitsOn (v : State) (w th : Word) : Result :=
  match v.counterTrap w with
  | some x => addressTrap v x w
  | none => withRelease v fun r => .next (leave r r.cur 3 (some (r.fall r.cur)) fun x => x.awaits r.me.cont r.cur w th)
theorem exec_waitc {sc st : Reg} {s : State} (outside : s.me.savemode = none) (leads : s.follows = false) :
    exec (.waitc sc st) s = waitsOn (s.noteVals (s.rs sc) (s.rs st)) (s.rs sc) (s.rs st) := by
  refine (outsideOf outside _ _).trans ?_
  rw [leads]
  rfl

end Sys2Proof.Machine
end

section
open Sys2Proof Sys2Proof.Machine

/-- Settles O11: each form ends its chunk, leaves its record as `recordLeft` says, and its entry in a queue, and falls idle. -/
theorem suspension : Obligations.Suspension := by
  refine ⟨fun k s => ?_, fun s outside may => ?_, fun sc st s outside leads => ?_, fun first count s outside may => ?_, fun s
      => ?_,
    fun s a b g k inside => ?_⟩
  · intro e u
    refine ⟨fun none => ?_, fun p point => ⟨fun inside => ?_, fun outside may free => ?_, fun outside may gang => ?_,
      fun outside may marked gang path => ?_⟩⟩
    · change execSafe k s = _
      unfold execSafe
      simp only [none]
      rfl
    · change execSafe k s = _
      unfold execSafe
      simp only [point]
      exact if_pos (Option.isSome_iff_ne_none.2 inside)
    · rw [exec_safe point outside may]
      exact if_neg (by rw [free]; nofun)
    · exact ⟨State.entersSave_of_no_gang gang, State.noteSaving_of_no_gang gang⟩
    · have enters : s.ended.entersSave = true := by
        rw [State.entersSave_of_no_gang gang]
        exact Option.isSome_iff_ne_none.2 marked
      have goes := exec_safe point outside may
      rw [if_pos enters, State.noteSaving_of_no_gang gang] at goes
      dsimp only at goes
      refine ⟨_, goes, ?_⟩
      have me : u.me.gang = none ∧ u.me.path = [] ∧ u.me.mark = e.me.mark ∧ u.me.cont = e.me.cont := by
        rw [State.me_ws, State.me_ws]
        exact ⟨gang, path, rfl, rfl⟩
      obtain ⟨noGang, noPath, mark, cont⟩ := me
      rw [State.me_enters (u := u) k.toNat p.savepc noGang noPath]
      generalize u.me = x at mark cont ⊢
      exact ⟨rfl, rfl, mark, cont⟩
  · intro r c
    have goes := exec_yield outside may
    have cur : r.cur = s.cur := State.cur_released s
    refine ⟨_, goes, ?_, rfl, ?_, fun k key => ?_⟩
    · rw [← cur, thread_leave]
    · rw [leave_eq, State.part_goIdle, State.part_enqueue]
      exact ⟨_, List.mem_append_right _ List.mem_cons_self, rfl, rfl, rfl, rfl⟩
    · exact leave_record 1 (r.fall r.cur) key fun _ => State.mem_enqueue ..
  · intro v r c cnt
    have waits := exec_waitc (sc := sc) (st := st) outside leads
    refine ⟨fun x bad => waits.trans (by rw [waitsOn, bad]), fun good may => ?_⟩
    · rw [waitsOn, good] at waits
      have cur : r.cur = s.cur := (State.cur_released v).trans (cur_noteVals ..)
      refine ⟨_, waits.trans (withRelease_mayRelease v _ may), ?_, ?_, fun k key => ?_⟩
      · rw [← cur, thread_leave]
      · rw [leave_eq, State.part_goIdle, State.awaits, State.part_setPart_self]
        refine ⟨_, List.mem_append_right _ List.mem_cons_self, rfl, rfl, rfl, ?_⟩
        have counters := (leftState_spec r r.cur 3 (some (r.fall r.cur))).1.2 (oaCl (s.rs sc).toNat)
        dsimp only
        rw [Cluster.counter, counters]
        rfl
      · exact leave_record 3 (r.fall r.cur) key fun _ => rfl
  · intro r c
    have goes := exec_exit (first := first) (count := count) outside may
    have cur : r.cur = s.cur := State.cur_released s
    have listed (alone : r.follows = false) :
        exitWords r first count = (List.range count.toNat).map fun i => r.rs (first + BitVec.ofNat 5 i) := if_neg
            (by rw [alone]; nofun)
    refine ⟨fun waits => goes.trans (if_pos waits), fun free => ⟨_, goes.trans (if_neg (by rw [free]; nofun)), ?_,
      fun alone i few => ?_, fun job alone whole k key => ?_⟩⟩
    · rw [← cur, thread_leave]
    · have word : r.rs (first + BitVec.ofNat 5 i) ∈ exitWords r first count := by
        rw [listed alone]
        exact List.mem_map.2 ⟨i, List.mem_range.2 few, rfl⟩
      obtain ⟨x, mem, lb, part⟩ := offered_offerAll (s := leftState r r.cur 7 none) (h := r.cur) (c := c) word
      refine ⟨x, ?_, lb, part⟩
      rw [leave_eq, State.die, State.dies_goIdle, ← State.die, ← cur]
      exact (offersGrow_exited (leftState r r.cur 7 none) r.cur c (exitWords r first count)).kept _ _ mem
    · obtain ⟨pc, more, last⟩ := exit_record (exitWords r first count) rfl key job whole
      have empty : exitWords r first count = [] ↔ count = 0 := by
        rw [listed alone, List.map_eq_nil_iff, List.range_eq_nil]
        exact ⟨fun e => BitVec.eq_of_toNat_eq e, fun e => by rw [e]; rfl⟩
      exact ⟨pc, fun some => more fun h => some (empty.1 h), fun none => last (empty.2 none)⟩
  · refine ⟨fun outside => ?_, fun k inside may => ?_⟩
    · change execSaved s = _
      unfold execSaved
      rw [outside]
      rfl
    · intro r c
      let v := putRecord r r.cur c 38 [BitVec.ofNat 8 k]
      have bytes : bytesOnly r.cur r v := bytesOnly_putRecord ..
      have cur : v.cur = s.cur := bytes.cur.trans (State.cur_released s)
      have cont : (v.thread v.cur).cont = c := by
        rw [bytes.cur, bytes.2.1]
        rfl
      obtain ⟨pc, isPc⟩ : ∃ pc, pc = (((r.safesOf c)[k]?).map (fun p => p.restpc)).getD 0 := ⟨_, rfl⟩
      have goes : exec .saved s = .next (leave v v.cur 4 (some pc) fun x => x.enqueue c.part (savedEntry x x.cur c)) := by
        rw [isPc]
        exact exec_saved inside may
      have whole : leave v v.cur 4 (some pc) (fun x => x.enqueue c.part (savedEntry x x.cur c)) = leave v r.cur 4 (some pc)
          fun x => x.enqueue c.part (savedEntry (leftState v v.cur 4 (some pc)) (leftState v v.cur 4 (some pc)).cur c) := by
        rw [leave_eq, ← bytes.cur, leave_eq]
      refine ⟨_, goes, ?_, ⟨_, pc, whole, fun p point => ?_, fun q key => ?_⟩, ?_⟩
      · rw [← cur, thread_leave]
      · rw [isPc, point]
        rfl
      · obtain ⟨u, -, written, way⟩ := putRecord_of_recordKey (h := r.cur) (c := c) (off := 38) (bytes := [BitVec.ofNat 8 k])
          key
          (by simp) (by simp)
        exact saved_record (s := r) (v := v) pc cont key written way fun _ => State.mem_enqueue ..
      · rw [leave_eq, State.part_goIdle, State.part_enqueue]
        exact ⟨_, List.mem_append_right _ List.mem_cons_self, rfl, rfl⟩
  · intro i mem
    simp only [List.mem_cons, List.not_mem_nil, or_false] at mem
    rcases mem with rfl | rfl | rfl | rfl | rfl | rfl
    · change execSafe k s = _
      unfold execSafe
      split
      · rfl
      · exact insideOf inside ..
    · exact insideOf inside ..
    · exact insideOf inside ..
    · exact insideOf inside ..
    · exact if_pos (by simp [Option.isSome_iff_ne_none.2 inside])
    · exact insideOf inside ..

end

section
/-! SUPPORT. A return from an exception (R208): what becomes of the thread sets, records and gangs that it names. -/

namespace Sys2Proof.Machine

/-! ## Thread sets that another's end leaves alone -/

/-- From `s` to `t` thread set `m` has not started or stopped, nor left its gang; an idle one is as it was. -/
structure restsSo (m : Hart) (s t : State) : Prop where
  idle : s.thread m = {} → t.thread m = {}
  run : (t.thread m).run = (s.thread m).run
  gang : (t.thread m).gang = (s.thread m).gang
  cont : (t.thread m).cont = (s.thread m).cont

section
variable {m : Hart} {s t u : State}

theorem restsSo_of_eq (same : t.thread m = s.thread m) : restsSo m s t :=
  ⟨fun h => same.trans h, by rw [same], by rw [same], by rw [same]⟩
theorem restsSo_of_threads (same : t.threads = s.threads) : restsSo m s t :=
  restsSo_of_eq (by rw [State.thread, same]; rfl)
theorem restsSo_refl (m : Hart) (s : State) : restsSo m s s := restsSo_of_eq rfl
theorem restsSo_trans (st : restsSo m s t) (tu : restsSo m t u) : restsSo m s u :=
  ⟨fun h => tu.idle (st.idle h), tu.run.trans st.run, tu.gang.trans st.gang, tu.cont.trans st.cont⟩
theorem restsSo_ite {p : Prop} {_ : Decidable p} (ht : restsSo m s t) (hu : restsSo m s u) : restsSo m s (if p then t else u) := by
  split
  · exact ht
  · exact hu
theorem restsSo_foldl {α : Type} (f : State → α → State) (each : ∀ s a, restsSo m s (f s a)) (l : List α) (s : State) :
    restsSo m s (l.foldl f s) := by
  induction l generalizing s with
  | nil => exact restsSo_refl m s
  | cons a r ih => exact restsSo_trans (each s a) (ih _)
theorem restsSo_saw {b : Bool} {l : List Nat} (saw : t.thread m = (s.thread m).saw b l) : restsSo m s t := by
  unfold Thread.saw at saw
  split at saw
  · next runs =>
    refine ⟨fun idle => ?_, by rw [saw], by rw [saw], by rw [saw]⟩
    rw [idle] at runs
    simp at runs
  · exact restsSo_of_eq saw

end

theorem restsSo_noteLines (m : Hart) (s : State) (a : Nat) (l : List Nat) (h : Hart) : restsSo m s (s.noteLines a l h) :=
  restsSo_saw (State.thread_noteLines ..)
theorem restsSo_noteWindow (m : Hart) (s : State) (h : Hart) (moved : Nat → Bool) : restsSo m s (s.noteWindow h moved) := by
  obtain ⟨l, saw⟩ := s.thread_noteWindow h moved m
  exact restsSo_saw saw
theorem restsSo_setThread_other {m h : Hart} (other : m ≠ h) (s : State) (t : Thread) : restsSo m s (s.setThread h t) :=
  restsSo_of_eq ((State.thread_setThread ..).trans (if_neg other))
theorem restsSo_setCluster (m : Hart) (s : State) (c : Nat) (x : Cluster) : restsSo m s (s.setCluster c x) :=
    restsSo_of_threads rfl

theorem restsSo_evalEntry (m : Hart) (s : State) (cl e : Nat) : restsSo m s (evalEntry s cl e) := by
  have fired : restsSo m s (fireEntry s cl e) := by
    unfold fireEntry
    extract_lets u x v
    exact restsSo_trans (t := u) (restsSo_noteLines ..) (restsSo_of_threads rfl)
  exact restsSo_ite fired (restsSo_refl m s)
theorem restsSo_wtStore (m : Hart) (s : State) (cl e j : Nat) (w : Word) : restsSo m s (wtStore s cl e j w) := by
  have bad : restsSo m s (s.countCl cl cBadCtl 1) := restsSo_setCluster ..
  unfold wtStore
  split
  · exact restsSo_ite bad (restsSo_setCluster ..)
  · exact restsSo_ite bad (restsSo_setCluster ..)
  · exact restsSo_ite bad (restsSo_ite (restsSo_trans (restsSo_setCluster ..) (restsSo_evalEntry ..)) (restsSo_setCluster ..))
  · exact restsSo_ite (restsSo_refl m s) bad
theorem restsSo_storeCtl (m : Hart) (s : State) (cl off : Nat) (b : List Byte) : restsSo m s (storeCtl s cl off b) :=
  restsSo_ite (restsSo_setCluster ..) (restsSo_setCluster ..)
theorem restsSo_storeWindow (m : Hart) (s : State) (h : Hart) (off : Nat) (b : List Byte) : restsSo m s (s.storeWindow h off b) := by
  have set (t : Thread) (busy : s.thread h ≠ {}) (run : t.run = (s.thread h).run) (gang : t.gang = (s.thread h).gang)
      (cont : t.cont = (s.thread h).cont) : restsSo m s (s.setThread h t) := by
    by_cases here : m = h
    · subst here
      refine ⟨fun idle => absurd idle busy, ?_, ?_, ?_⟩
      all_goals rw [State.thread_setThread_self]; assumption
    · exact restsSo_setThread_other here s t
  have busy {r : Run} (run : (s.thread h).run = r) (active : r ≠ .idle) : s.thread h ≠ {} := fun idle =>
    active (by rw [← run, idle])
  unfold State.storeWindow
  dsimp only
  split
  · exact restsSo_refl m s
  · next run => exact set _ (busy run nofun) rfl rfl rfl
  all_goals
    next run =>
      have landed := set { s.thread h with regs := (windowStore (s.thread h).regs off b).1 } (busy run nofun) rfl rfl rfl
      exact restsSo_ite (restsSo_trans landed (restsSo_setCluster ..)) landed
theorem restsSo_writeAt (m : Hart) (s : State) (h : Hart) (k : Nat) (b : List Byte) : restsSo m s (s.writeAt h k b) := by
  unfold State.writeAt
  extract_lets u plain
  have noted : restsSo m s u := restsSo_noteLines ..
  have same {v : State} (threads : v.threads = u.threads) : restsSo m s v := restsSo_trans noted (restsSo_of_threads threads)
  split
  · exact same rfl
  · split
    · exact same rfl
    · split
      case h_1 | h_2 | h_3 => exact same rfl
      case h_4 => exact restsSo_trans noted (restsSo_wtStore ..)
      case h_5 => exact restsSo_trans noted (restsSo_storeCtl ..)
      case h_6 => exact restsSo_trans noted (restsSo_storeWindow ..)
      all_goals exact noted
theorem restsSo_writeVA (m : Hart) (s : State) (h : Hart) (p acc va : Nat) (b : List Byte) : restsSo m s (s.writeVA h p acc va b).2 := by
  have walked := s.xlateRange_sameButTlb p acc va b.length true true
  unfold State.writeVA
  split
  next l u e =>
    rw [e] at walked
    exact restsSo_trans (restsSo_of_eq (walked.thread m)) (restsSo_foldl _ (fun _ _ => restsSo_writeAt ..) _ _)
  next e =>
    rw [e] at walked
    exact restsSo_of_eq (walked.thread m)
theorem restsSo_putRecord (m : Hart) (s : State) (h : Hart) (c : Cont) (off : Nat) (b : List Byte) : restsSo m s (putRecord s h c off b) :=
  restsSo_writeVA ..
theorem restsSo_putStatus (m : Hart) (s : State) (h : Hart) (c : Cont) (st : Nat) : restsSo m s (putStatus s h c st) :=
  restsSo_writeVA ..
theorem restsSo_putMailbox (m : Hart) (s : State) (h : Hart) (p acc : Nat) (mbox : Option Word) (first : Nat) (rest : List Byte) :
    restsSo m s (putMailbox s h p acc mbox first rest) := by
  have put (w : Word) (u : State) (off : Nat) (b : List Byte) : restsSo m u (if b.isEmpty then u
      else if isOA w then u.writeAt h (w.toNat + off) b else (u.writeVA h p acc (vaOf w + off) b).2) :=
    restsSo_ite (restsSo_refl m u) (restsSo_ite (restsSo_writeAt ..) (restsSo_writeVA ..))
  unfold putMailbox
  split
  · exact restsSo_refl m s
  · exact restsSo_trans (put ..) (put ..)
theorem restsSo_notifyUp (m : Hart) (s : State) (cl i : Nat) : restsSo m s (notifyUp s cl i) :=
  restsSo_trans (restsSo_noteLines m s ..) (restsSo_of_threads rfl)
theorem restsSo_chanEnd (m : Hart) (s : State) (h : Hart) (j : Job) (stop fcode : Nat) (fva : Word) (st : ChanSt) :
    restsSo m s (chanEnd s h j stop fcode fva st) := by
  unfold chanEnd
  extract_lets first rest u v
  have boxed : restsSo m s u := restsSo_ite (restsSo_putMailbox ..) (restsSo_refl m s)
  have counted : restsSo m s v := restsSo_ite (restsSo_trans boxed (restsSo_notifyUp ..)) boxed
  exact restsSo_ite (restsSo_trans counted (restsSo_of_threads rfl)) counted
theorem threads_publishTile (s : State) (tile n : Nat) : (publishTile s tile n).threads = s.threads := by
  induction n generalizing s with
  | zero => rfl
  | succ n ih =>
    unfold publishTile
    dsimp only
    split
    · split
      · exact ih _
      · rfl
    · rfl
theorem restsSo_endRecord (m : Hart) (s : State) (h : Hart) (c : Cont) (status : Nat) : restsSo m s (endRecord s h c status) := by
  unfold endRecord
  split
  · exact restsSo_refl m s
  · dsimp only
    refine restsSo_ite (restsSo_refl m s) (restsSo_ite ?_ (restsSo_of_threads rfl))
    refine restsSo_trans ?_ (restsSo_foldl _ (fun _ _ => restsSo_putStatus ..) _ _)
    have freed (u : State) (l : List (Nat × Nat)) : restsSo m u (l.foldl (fun s x => s.freeSlot x.1 x.2) u) :=
      restsSo_foldl (fun (s : State) (x : Nat × Nat) => s.freeSlot x.1 x.2) (fun _ _ => restsSo_of_threads rfl) _ _
    have published (u : State) (l : List (Nat × Nat)) : restsSo m u (l.foldl (fun s x => publishTile s x.1 4) u) :=
      restsSo_foldl _ (fun _ _ => restsSo_of_threads (threads_publishTile ..)) _ _
    have succeeded (u : State) (k : Closure) : restsSo m u (u.endSuccessor k) :=
      restsSo_ite (restsSo_of_threads rfl) (restsSo_refl m u)
    have task (t : Task) (d : Nat) (x : Die) : restsSo m s ((s.setTask t).setDie d x) := restsSo_of_threads rfl
    split
    · exact restsSo_trans (restsSo_trans (restsSo_ite (restsSo_trans (task ..) (freed ..)) (task ..)) (published ..))
        (succeeded ..)
    · exact restsSo_trans (restsSo_ite (restsSo_trans (task ..) (freed ..)) (task ..)) (published ..)
theorem restsSo_releaseArray (m : Hart) (s : State) (h : Hart) : restsSo m s (s.releaseArray h) := by
  unfold State.releaseArray
  split
  · exact restsSo_trans (restsSo_noteLines m s ..) (restsSo_of_threads rfl)
  · exact restsSo_refl m s
theorem restsSo_goIdle {m h : Hart} (other : m ≠ h) (s : State) : restsSo m s (s.goIdle h) := by
  have dropped : (s.dropToken h).thread m = s.thread m := by
    unfold State.dropToken
    split
    · exact State.thread_setToken ..
    · rfl
  have emptied : restsSo m (s.dropToken h) ((s.dropToken h).setThread h {}) := restsSo_setThread_other other ..
  exact restsSo_trans (restsSo_of_eq dropped) (restsSo_trans emptied (restsSo_noteWindow m _ h fun _ => true))

/-- The end of one hart's continuation leaves the other thread sets. -/
theorem restsSo_retireHart {m k : Hart} (other : m ≠ k) (s : State) : restsSo m s (retireHart s k) := by
  unfold retireHart
  extract_lets c u
  have released : restsSo m s u := restsSo_trans (restsSo_putStatus m s k c 8) (restsSo_releaseArray ..)
  have ends (j : Job) (n : Hart) : restsSo m s (((putStatus (chanEnd u k j 2 4 0 .idle) k c 0).setJob n none).goIdle k) := by
    have ended : restsSo m u (putStatus (chanEnd u k j 2 4 0 .idle) k c 0) := restsSo_trans (restsSo_chanEnd ..)
        (restsSo_putStatus ..)
    have dropped : restsSo m (putStatus (chanEnd u k j 2 4 0 .idle) k c 0) ((putStatus (chanEnd u k j 2 4 0 .idle) k c
        0).setJob n none) :=
      restsSo_of_threads rfl
    exact restsSo_trans released (restsSo_trans ended (restsSo_trans dropped (restsSo_goIdle other _)))
  split
  · exact ends ..
  · split
    · exact ends ..
    · exact restsSo_trans released (restsSo_trans (restsSo_endRecord ..) (restsSo_goIdle other _))

/-! ## TRET and the record it names -/

/-- What a return does to the continuation that hart `k` holds. -/
def returned (u : State) (h : Hart) (p : Nat) (k : Hart) (rcd : Word) (act : Nat) : State :=
  match u.gangOf k with
  | some (g, x) =>
    if x.released.contains rcd then u.countPart p pStale
    else if act = 0 then retireGang u h p g x
    else releaseMember u g x k rcd (act == 2)
  | none =>
    match u.job k with
    | some j => if act = 0 then retireHart u k else resumeJob u k j
    | none =>
      if act = 0 then retireHart u k
      else releaseHart (if act = 2 && (u.thread k).run == .parked then putPc u k (u.thread k).cont (u.fall k) else u) k

section
variable {r : State} {h : Hart} {rcd : Word} {gen : BitVec 16} {act : Nat}

theorem trapReturn_named {k : Hart} {x : Vec} (holder : r.holderOf (r.thread h).cont.part rcd = some k)
    (record : (readRecord r (r.thread h).cont.part rcd).1 = some x) (same : x.extractLsb' 288 16 = gen) :
    trapReturn r h rcd gen act = returned (readRecord r (r.thread h).cont.part rcd).2 h (r.thread h).cont.part k rcd act := by
  have pair : readRecord r (r.thread h).cont.part rcd = (some x, (readRecord r (r.thread h).cont.part rcd).2) := Prod.ext
      record rfl
  unfold trapReturn
  dsimp only
  rw [pair, holder]
  exact if_neg fun other => other same

theorem trapReturn_stale (stale : ∀ k x, r.holderOf (r.thread h).cont.part rcd = some k →
      (readRecord r (r.thread h).cont.part rcd).1 = some x → x.extractLsb' 288 16 ≠ gen) :
    trapReturn r h rcd gen act =
      (readRecord r (r.thread h).cont.part rcd).2.countPart (r.thread h).cont.part pStale := by
  unfold trapReturn
  dsimp only
  split
  · next x u k record holder =>
    have fst : (readRecord r (r.thread h).cont.part rcd).1 = some x := congrArg Prod.fst record
    rw [if_pos (stale k x holder fst)]
    exact congrArg (fun y => State.countPart y _ pStale) (congrArg Prod.snd record).symm
  · next a b c no record _ =>
    exact congrArg (fun y => State.countPart y _ pStale) (congrArg Prod.snd record).symm

end

/-- The hart that holds a record stands parked or halted with it. -/
theorem holderOf_spec {r : State} {p : Nat} {rcd : Word} {k : Hart} (holder : r.holderOf p rcd = some k) :
    (r.thread k).cont.rcd = rcd ∧ (r.thread k).cont.part = p ∧ ((r.thread k).run = .parked ∨ (r.thread k).run = .halted) := by
  have found := List.find?_some holder
  simpa [and_assoc] using found

/-! ### A parked hart is queued, a halted one goes on -/

/-- The record of a hart that is released or resumed, with STATUS 1. -/
def requeued (s : State) (k : Hart) : State := (putStatus s k (s.thread k).cont 1).releaseArray k

theorem releaseHart_parked {s : State} {k : Hart} (parked : (s.thread k).run = .parked) : releaseHart s k =
    ((requeued s k).enqueue (s.thread k).cont.part (readyEntry (requeued s k) k (s.thread k).cont)).goIdle k := by
  unfold releaseHart
  simp only [parked]
  rfl
theorem releaseHart_halted {s : State} {k : Hart} (halted : (s.thread k).run = .halted) : releaseHart s k =
    s.setThread k { s.thread k with
      run := .running, regs := { (s.thread k).regs with pc := s.fall k }
      chunk := { begun := { (s.thread k).regs with pc := s.fall k } } } := by
  unfold releaseHart
  simp only [halted]

/-- A parked hart that is released falls idle, its record in the ready queue. -/
theorem released_parked {s : State} {k : Hart} (parked : (s.thread k).run = .parked) :
    (releaseHart s k).thread k = {} ∧ (releaseHart s k).mem = (putStatus s k (s.thread k).cont 1).mem ∧
      ∃ e ∈ ((releaseHart s k).part (s.thread k).cont.part).ready, e.rcd = (s.thread k).cont.rcd ∧ e.acc = (s.thread k).cont.acc ∧
        e.lin = (s.thread k).cont.lin ∧ e.rise = 0 := by
  rw [releaseHart_parked parked]
  refine ⟨State.thread_goIdle .., ?_, ?_⟩
  · rw [State.mem_goIdle, State.mem_enqueue, requeued, State.mem_releaseArray]
  · rw [State.part_goIdle, State.part_enqueue]
    exact ⟨_, List.mem_append_right _ List.mem_cons_self, rfl, rfl, rfl, rfl⟩

/-! ### A continuation that is retired -/

theorem State.beyond_goIdle (s : State) (h : Hart) : (s.goIdle h).beyond = s.beyond := by
  have noted (u : State) : (u.noteWindow h fun _ => true).beyond = u.beyond := by
    unfold State.noteWindow
    split <;> rfl
  have dropped : (s.dropToken h).beyond = s.beyond := by
    unfold State.dropToken
    split
    · unfold State.setToken
      split <;> rfl
    · rfl
  rw [State.goIdle, noted, State.beyond_setThread, dropped]
theorem State.jobs_goIdle (s : State) (h : Hart) : (s.goIdle h).jobs = s.jobs := by
  change (s.goIdle h).beyond.jobs = s.beyond.jobs
  rw [State.beyond_goIdle]
theorem State.cores_goIdle (s : State) (h : Hart) : (s.goIdle h).cores = s.cores := by
  change (s.goIdle h).beyond.cores = s.beyond.cores
  rw [State.beyond_goIdle]
theorem State.tasks_goIdle (s : State) (h : Hart) : (s.goIdle h).tasks = s.tasks := by
  change (s.goIdle h).beyond.tasks = s.beyond.tasks
  rw [State.beyond_goIdle]

/-- The state in which a continuation has STATUS 8 and has given up its array. -/
def retiring (s : State) (k : Hart) : State := (putStatus s k (s.thread k).cont 8).releaseArray k
theorem leftBy_retiring (s : State) (k : Hart) : leftBy s (retiring s k) :=
  leftBy_trans (.of_bytesOnly (bytesOnly_putRecord ..)) (leftBy_releaseArray ..)
theorem job_retiring (s : State) (k h : Hart) : (retiring s k).job h = s.job h :=
  (leftBy_retiring s k).keeps (fun s => s.job h) fun _ _ _ _ _ _ => rfl

theorem retireHart_job {s : State} {k : Hart} {j : Job} (job : s.job k = some j) : retireHart s k =
    ((putStatus (chanEnd (retiring s k) k j 2 4 0 .idle) k (s.thread k).cont 0).setJob k none).goIdle k := by
  have same := (job_retiring s k k).trans job
  unfold retireHart
  dsimp only
  rw [← retiring, same]
theorem retireHart_plain {s : State} {k : Hart} (job : s.job k = none) (run : s.runJob (s.thread k).cont.part (s.thread
    k).cont.rcd = none) :
    retireHart s k = (endRecord (retiring s k) k (s.thread k).cont 8).goIdle k := by
  have same := (job_retiring s k k).trans job
  have sameRun : (retiring s k).runJob (s.thread k).cont.part (s.thread k).cont.rcd = none :=
    ((leftBy_retiring s k).keeps (fun u => u.runJob (s.thread k).cont.part (s.thread k).cont.rcd) fun _ _ _ _ _ _ => rfl).trans
        run
  unfold retireHart
  dsimp only
  rw [← retiring, same]
  dsimp only
  rw [sameRun]

theorem chan_chanEnd {s : State} {h : Hart} {j : Job} (owned : j.owned = true) (stop fcode : Nat) (fva : Word) (st : ChanSt) :
    ((chanEnd s h j stop fcode fva st).chan j.core j.ch).st = st ∧
      ((chanEnd s h j stop fcode fva st).chan j.core j.ch).lastend = BitVec.ofNat 8 stop := by
  unfold chanEnd
  extract_lets first rest u v
  rw [if_pos owned, State.chan, State.setChan, State.core_setCore_self, Core.chan, Core.setChan, Tab.get_set_self]
  exact ⟨rfl, rfl⟩

theorem retired_job {s : State} {k : Hart} {j : Job} (job : s.job k = some j) :
    (retireHart s k).job k = none ∧ (retireHart s k).thread k = {} ∧
      (j.owned = true → ((retireHart s k).chan j.core j.ch).st = .idle ∧ ((retireHart s k).chan j.core j.ch).lastend = 2) := by
  refine ⟨?_, thread_retireHart s k, fun owned => ?_⟩
  · rw [retireHart_job job, State.job, State.jobs_goIdle]
    exact Tab.get_set_self none _ k none
  · obtain ⟨st, lastend⟩ := chan_chanEnd (s := retiring s k) (h := k) owned 2 4 0 .idle
    have bytes := bytesOnly_putRecord k (chanEnd (retiring s k) k j 2 4 0 .idle) (s.thread k).cont 39 [BitVec.ofNat 8 0]
    have cores : (retireHart s k).cores = (chanEnd (retiring s k) k j 2 4 0 .idle).cores := by
      rw [retireHart_job job, State.cores_goIdle]
      exact bytes.keeps State.cores fun _ _ _ _ => rfl
    rw [State.chan, State.core, cores, ← State.core, ← State.chan]
    exact ⟨st, lastend⟩

/-- The task with one record at its end. -/
def Task.endedAt (t : Task) (rcd : Word) (status : Nat) : Task :=
  { t with
    recs := t.recs.map fun (r : Word × Nat) => if r.1 == rcd && r.2 == 0 then (r.1, status) else r
    retired := t.retired || status == 8 }

/-- Of a task with another thread that goes on, a record that ends leaves its STATUS. -/
theorem endRecord_open {s : State} {h : Hart} {c : Cont} {t : Task} {status : Nat} {z : Word × Nat} (task : s.task c.acc = some t)
    (here : (c.rcd, 0) ∈ t.recs) (other : z ∈ t.recs) (apart : z.1 ≠ c.rcd) (running : z.2 = 0) : endRecord s h c status =
      s.setTask (t.endedAt c.rcd status) := by
  have any : (t.recs.any fun r => r.1 == c.rcd && r.2 == 0) = true := List.any_eq_true.2 ⟨_, here, by simp⟩
  have goesOn : ((t.recs.map fun (r : Word × Nat) => if r.1 == c.rcd && r.2 == 0 then (r.1, status) else r).all fun r => r.2 != 0) =
      false := by
    refine List.all_eq_false.2 ⟨z, List.mem_map.2 ⟨z, other, ?_⟩, by simp [running]⟩
    rw [if_neg (by simp [apart])]
  unfold endRecord
  rw [task]
  dsimp only
  rw [any, goesOn]
  rfl

theorem retired_plain {s : State} {k : Hart} (job : s.job k = none) (run : s.runJob (s.thread k).cont.part (s.thread
    k).cont.rcd = none)
    {t : Task} {z : Word × Nat} {q : Nat} (task : s.task (s.thread k).cont.acc = some t) (here : ((s.thread k).cont.rcd, 0) ∈ t.recs)
    (other : z ∈ t.recs) (apart : z.1 ≠ (s.thread k).cont.rcd) (running : z.2 = 0)
    (key : s.recordKey (s.thread k).cont.part (s.thread k).cont.rcd q) : (retireHart s k).byteAt (q + 39) = 8 ∧
      ∃ w, (retireHart s k).task (s.thread k).cont.acc = some w ∧ w.retired = true ∧ ((s.thread k).cont.rcd, 8) ∈ w.recs := by
  have task' : (retiring s k).task (s.thread k).cont.acc = some t :=
    ((leftBy_retiring s k).keeps (fun u => u.task (s.thread k).cont.acc) fun _ _ _ _ _ _ => rfl).trans task
  have acc : t.acc = (s.thread k).cont.acc := by simpa using List.find?_some task
  have plain := key.2.2.1
  obtain ⟨u, walked, at', way⟩ := putRecord_of_recordKey (h := k) (off := 39) (bytes := [BitVec.ofNat 8 8]) key (by simp)
      (by simp)
  rw [retireHart_plain job run, endRecord_open (status := 8) task' here other apart running]
  refine ⟨?_, ?_⟩
  · have mem (y : Task) : (((retiring s k).setTask y).goIdle k).mem = (putRecord s k (s.thread k).cont 39 [BitVec.ofNat 8 8]).mem := by
      rw [State.mem_goIdle, State.setTask_mem, retiring, State.mem_releaseArray]
      rfl
    rw [State.byteAt_congr_plain (mem _) (plain 39 (by decide)), at', State.byteAt_writeAt_one _ _ _ (plain 39 (by decide))]
    rfl
  · rw [State.task, State.tasks_goIdle, ← State.task, ← acc]
    rw [← acc] at task'
    have ended := State.task_setTask (t := t.endedAt (s.thread k).cont.rcd 8) (x := t) task' t.acc
    exact ⟨_, ended.trans (if_pos rfl), by simp [Task.endedAt], List.mem_map.2 ⟨_, here, by simp⟩⟩

/-! ### A copy job that goes on -/

theorem State.cores_enqueue (s : State) (p : Nat) (e : ReadyEnt) : (s.enqueue p e).cores = s.cores ∧ (s.enqueue p e).jobs =
    s.jobs := by
  have waits (u : State) (g : Nat) : (u.gangWaits g).cores = u.cores ∧ (u.gangWaits g).jobs = u.jobs := by
    unfold State.gangWaits
    split
    · exact ⟨rfl, rfl⟩
    · split
      · exact ⟨rfl, rfl⟩
      · unfold State.fixInst
        dsimp only
        split <;> exact ⟨rfl, rfl⟩
  unfold State.enqueue
  dsimp only
  split
  · exact ⟨rfl, rfl⟩
  · exact waits ..

/-- The channel of a job that is resumed is ACTIVE. -/
def activated (s : State) (j : Job) : State :=
  if j.owned then s.setChan j.core j.ch { s.chan j.core j.ch with st := .active } else s
/-- The state in which a resumed job is kept under a number of its own. -/
def resumedJob (s : State) (k : Hart) (j : Job) : State :=
  { ((activated s j).setJob k none).setJob (16384 + (activated s j).fresh) (some { j with st := .moving }) with
    fresh := (activated s j).fresh + 1 }
theorem resumeJob_eq (s : State) (k : Hart) (j : Job) : resumeJob s k j =
    ((putStatus (resumedJob s k j) k (s.thread k).cont 1).enqueue (s.thread k).cont.part
      (readyEntry (resumedJob s k j) k (s.thread k).cont)).goIdle k := rfl

theorem resumed_job {s : State} {k : Hart} {j : Job} :
    (∃ n, 16384 ≤ n ∧ (resumeJob s k j).job n = some { j with st := .moving }) ∧ (k < 16384 → (resumeJob s k j).job k = none) ∧
      (resumeJob s k j).thread k = {} ∧
      (∃ e ∈ ((resumeJob s k j).part (s.thread k).cont.part).ready, e.rcd = (s.thread k).cont.rcd ∧ e.acc = (s.thread k).cont.acc ∧
        e.lin = (s.thread k).cont.lin ∧ e.rise = 0) ∧
      (j.owned = true → ((resumeJob s k j).chan j.core j.ch).st = .active) ∧
      ∀ q, s.recordKey (s.thread k).cont.part (s.thread k).cont.rcd q → (resumeJob s k j).byteAt (q + 39) = 1 := by
  have bytes := bytesOnly_putRecord k (resumedJob s k j) (s.thread k).cont 39 [BitVec.ofNat 8 1]
  have jobs : (resumeJob s k j).jobs = (resumedJob s k j).jobs := by
    rw [resumeJob_eq, State.jobs_goIdle, (State.cores_enqueue ..).2]
    exact bytes.keeps State.jobs fun _ _ _ _ => rfl
  have cores : (resumeJob s k j).cores = (resumedJob s k j).cores := by
    rw [resumeJob_eq, State.cores_goIdle, (State.cores_enqueue ..).1]
    exact bytes.keeps State.cores fun _ _ _ _ => rfl
  have way : sameWay s (resumedJob s k j) := by
    have active : sameWay s (activated s j) := by
      unfold activated
      split
      · exact ⟨rfl, rfl, fun _ _ => rfl, fun _ _ _ => rfl⟩
      · exact sameWay_refl s
    exact active
  have table : (resumeJob s k j).jobs =
      Tab.set none (Tab.set none (activated s j).jobs k none) (16384 + (activated s j).fresh) (some { j with st := .moving })
          := jobs
  have kept : (resumeJob s k j).job (16384 + (activated s j).fresh) = some { j with st := .moving } := by
    rw [State.job, table, Tab.get_set_self]
  refine ⟨⟨_, Nat.le_add_right .., kept⟩, fun low => ?_, ?_, ?_, fun owned => ?_, fun q key => ?_⟩
  · have apart : k ≠ 16384 + (activated s j).fresh := fun e => absurd low (by rw [e]; exact Nat.not_lt.2 (Nat.le_add_right ..))
    rw [State.job, table, Tab.get_set_other _ _ _ apart, Tab.get_set_self]
  · rw [resumeJob_eq, State.thread_goIdle]
  · rw [resumeJob_eq, State.part_goIdle, State.part_enqueue]
    exact ⟨_, List.mem_append_right _ List.mem_cons_self, rfl, rfl, rfl, rfl⟩
  · have set : ((activated s j).chan j.core j.ch).st = .active := by
      rw [activated, if_pos owned, State.chan, State.setChan, State.core_setCore_self, Core.chan, Core.setChan,
          Tab.get_set_self]
    rw [State.chan, State.core, cores]
    exact set
  · have plain := key.2.2.1
    obtain ⟨u, walked, at', -⟩ := putRecord_of_recordKey (h := k) (off := 39) (bytes := [BitVec.ofNat 8 1]) (way.recordKey key)
        (by simp) (by simp)
    have mem : (resumeJob s k j).mem = (putRecord (resumedJob s k j) k (s.thread k).cont 39 [BitVec.ofNat 8 1]).mem := by
      rw [resumeJob_eq, State.mem_goIdle, State.mem_enqueue]
      rfl
    rw [State.byteAt_congr_plain mem (plain 39 (by decide)), at', State.byteAt_writeAt_one _ _ _ (plain 39 (by decide))]
    rfl

/-! ### A gang's members -/

theorem thread_enqueue (s : State) (p : Nat) (e : ReadyEnt) : (s.enqueue p e).threads = s.threads := by
  have waits (u : State) (g : Nat) : (u.gangWaits g).threads = u.threads := by
    unfold State.gangWaits
    split
    · rfl
    · split
      · rfl
      · unfold State.fixInst
        dsimp only
        split <;> rfl
  unfold State.enqueue
  dsimp only
  split
  · rfl
  · exact waits ..
theorem restsSo_releaseHart {m k : Hart} (other : m ≠ k) {s : State} (parked : (s.thread k).run = .parked) :
    restsSo m s (releaseHart s k) := by
  have queued : restsSo m s (requeued s k) := restsSo_trans (restsSo_putStatus m s k _ 1) (restsSo_releaseArray ..)
  rw [releaseHart_parked parked]
  exact restsSo_trans queued (restsSo_trans (restsSo_of_threads (thread_enqueue ..)) (restsSo_goIdle other _))

/-- While a member that stopped has not been released, the others wait for it. -/
theorem resumeGang_waits {s : State} {g : Nat} {x : Gang} {m : Hart} (stopped : m ∈ s.stoppedIn x) (held : (s.thread
    m).cont.rcd ∉ x.released) :
    resumeGang s g x = s.setGang g (some x) := by
  unfold resumeGang
  dsimp only
  refine if_neg fun all => held ?_
  simpa using List.all_eq_true.1 all m stopped

theorem halted_released {s : State} {l : List Hart} (distinct : l.Nodup) (halted : ∀ m ∈ l, (s.thread m).run = .halted) :
    ∀ m ∈ l, ((l.foldl releaseHart s).thread m).run = .running := by
  have other {m : Hart} (l : List Hart) (out : m ∉ l) (s : State) (halted : ∀ m ∈ l, (s.thread m).run = .halted) (distinct : l.Nodup) :
      (l.foldl releaseHart s).thread m = s.thread m := by
    induction l generalizing s with
    | nil => rfl
    | cons a r ih =>
      obtain ⟨fresh, distinct⟩ := List.nodup_cons.1 distinct
      obtain ⟨apart, out⟩ := not_or.1 fun h => out (List.mem_cons.2 h)
      rw [List.foldl_cons, releaseHart_halted (halted a List.mem_cons_self), ih out _ (fun k hk => ?_) distinct,
        State.thread_setThread, if_neg apart]
      have apart : k ≠ a := fun e => fresh (e ▸ hk)
      rw [State.thread_setThread, if_neg apart]
      exact halted k (List.mem_cons_of_mem _ hk)
  induction l generalizing s with
  | nil => exact nofun
  | cons a r ih =>
    obtain ⟨fresh, rest⟩ := List.nodup_cons.1 distinct
    have still (t : Thread) : ∀ k ∈ r, ((s.setThread a t).thread k).run = .halted := fun k hk => by
      have apart : k ≠ a := fun e => fresh (e ▸ hk)
      rw [State.thread_setThread, if_neg apart]
      exact halted k (List.mem_cons_of_mem _ hk)
    intro m mem
    rw [List.foldl_cons, releaseHart_halted (halted a List.mem_cons_self)]
    rcases List.mem_cons.1 mem with rfl | later
    · rw [other r fresh _ (still _) rest, State.thread_setThread_self]
    · exact ih rest (still _) m later

/-- When every member that stopped is halted and has been released, all of them run on. -/
theorem resumeGang_goes {s : State} {g : Nat} {x : Gang} (distinct : x.members.Nodup)
    (all : ∀ m ∈ s.stoppedIn x, (s.thread m).run = .halted ∧ (s.thread m).cont.rcd ∈ x.released) :
    ∀ m ∈ s.stoppedIn x, ((resumeGang s g x).thread m).run = .running := by
  intro m mem
  have ready : ((s.stoppedIn x).all fun m => x.released.contains (s.thread m).cont.rcd) = true :=
    List.all_eq_true.2 fun m hm => by simpa using (all m hm).2
  have runs := halted_released (s := s.setGang g (some { x with released := [] })) (distinct.filter _) (fun m hm => (all m hm).1) m mem
  have waits (u : State) : ((u.setGang g (some { x with released := [], back := [] })).gangWaits g).threads = u.threads := by
    unfold State.gangWaits
    split
    · rfl
    · split
      · rfl
      · unfold State.fixInst
        dsimp only
        split <;> rfl
  unfold resumeGang
  dsimp only
  rw [if_pos ready]
  split
  · rw [State.thread, waits]
    exact runs
  · exact runs

theorem restsSo_retireQueued (m : Hart) (s : State) (h : Hart) (p acc : Nat) (rcd : Word) : restsSo m s (retireQueued s h p acc rcd) := by
  unfold retireQueued
  extract_lets x u c
  exact restsSo_ite (restsSo_trans (t := u) (restsSo_of_threads rfl) (restsSo_trans (restsSo_putStatus m u h c 8)
      (restsSo_endRecord ..)))
    (restsSo_refl m s)

/-- A member that the gang still holds is retired. -/
def retireMember (g : Nat) (s : State) (m : Hart) : State :=
  if (s.thread m).run != .idle && (s.thread m).gang == some g then retireHart s m else s

/-- Retiring a gang leaves the thread set of each of its members idle. -/
theorem retireGang_spec {s : State} {g : Nat} {x : Gang} (h : Hart) (p : Nat) : (retireGang s h p g x).gang g = none ∧
    ∀ m ∈ x.members, (s.thread m).run ≠ .idle → (s.thread m).gang = some g → (retireGang s h p g x).thread m = {} := by
  refine ⟨Tab.get_set_self none _ g none, fun m mem busy gang => ?_⟩
  have stays (l : List Hart) (s : State) (idle : s.thread m = {}) : (l.foldl (retireMember g) s).thread m = {} := by
    induction l generalizing s with
    | nil => exact idle
    | cons a r ih =>
      refine ih _ ?_
      unfold retireMember
      by_cases here : m = a
      · subst here
        rw [if_neg (by simp [idle]), idle]
      · split
        · exact (restsSo_retireHart here s).idle idle
        · exact idle
  have retired (l : List Hart) (s : State) (mem : m ∈ l) (busy : (s.thread m).run ≠ .idle) (gang : (s.thread m).gang = some g) :
      (l.foldl (retireMember g) s).thread m = {} := by
    induction l generalizing s with
    | nil => cases mem
    | cons a r ih =>
      by_cases here : m = a
      · subst here
        rw [List.foldl_cons, retireMember, if_pos (by simp [busy, gang])]
        exact stays r _ (thread_retireHart s m)
      · have later : m ∈ r := (List.mem_cons.1 mem).resolve_left here
        have kept : restsSo m s (retireMember g s a) := restsSo_ite (restsSo_retireHart here s) (restsSo_refl m s)
        exact ih _ later (by rw [kept.run]; exact busy) (by rw [kept.gang]; exact gang)
  have members := retired x.members s mem busy gang
  exact (restsSo_foldl _ (fun _ _ => restsSo_retireQueued ..) x.recs _).idle members

/-- What TRET refuses of its words, and where its record must lie. -/
def tretBad (s : State) (sb : Reg) : Prop :=
  (s.rs sb).toNat % 4 = 3 ∨ (s.rs sb).toNat / 4 % 16 ≠ 0 ∨ 2 ^ 16 ≤ (s.rs (sb + 1)).toNat
def tretRcd (s : State) (sb : Reg) : Word := s.rs sb &&& ~~~63#64
def tretHome (s : State) (sb : Reg) : Prop :=
  isVA (tretRcd s sb) = true ∧ s.stackIn s.myPart (vaStack (vaOf (tretRcd s sb))) = true

theorem exec_tret (sb : Reg) (s : State) : exec (.tret sb) s =
    if (s.rs sb).toNat % 4 = 3 || (s.rs sb).toNat / 4 % 16 ≠ 0 || 2 ^ 16 ≤ (s.rs (sb + 1)).toNat then takeTrap s .illegal 0 0
    else if !isVA (tretRcd s sb) || !s.stackIn s.myPart (vaStack (vaOf (tretRcd s sb))) then takeTrap s .window (tretRcd s sb) 0
    else withRelease s fun r =>
      if (s.rs sb).toNat % 4 = 0 && r.recordWaits r.myPart (tretRcd s sb) then r.stalled (.tret sb)
      else .next (trapReturn r r.cur (tretRcd s sb) ((s.rs (sb + 1)).setWidth 16) ((s.rs sb).toNat % 4)).pastStrong := rfl
theorem exec_tret_bad {s : State} {sb : Reg} (bad : tretBad s sb) : exec (.tret sb) s = takeTrap s .illegal 0 0 := by
  rw [exec_tret, if_pos]
  simpa [tretBad, or_assoc] using bad
theorem exec_tret_foreign {s : State} {sb : Reg} (good : ¬tretBad s sb) (foreign : ¬tretHome s sb) :
    exec (.tret sb) s = takeTrap s .window (tretRcd s sb) 0 := by
  rw [exec_tret, if_neg (by simpa [tretBad, or_assoc] using good), if_pos]
  rw [tretHome, Decidable.not_and_iff_or_not] at foreign
  simpa using foreign
theorem exec_tret_goes {s : State} {sb : Reg} (good : ¬tretBad s sb) (home : tretHome s sb) (may : s.mayRelease = true) :
    exec (.tret sb) s =
      if (s.rs sb).toNat % 4 = 0 && s.released.recordWaits s.released.myPart (tretRcd s sb) then s.released.stalled (.tret sb)
      else .next (trapReturn s.released s.released.cur (tretRcd s sb) ((s.rs (sb + 1)).setWidth 16) ((s.rs sb).toNat %
          4)).pastStrong := by
  rw [exec_tret, if_neg (by simpa [tretBad, or_assoc] using good), if_neg (by rw [home.1, home.2]; decide)]
  exact withRelease_mayRelease s _ may

/-- A hart of no gang that is parked, released by action 1 or 2: its record holds STATUS 1 and the PC where it goes on. -/
theorem returned_parked {u : State} {h : Hart} {p : Nat} {k : Hart} {rcd : Word} {act q : Nat} (gang : u.gangOf k = none)
    (job : u.job k = none) (some : act ≠ 0) (parked : (u.thread k).run = .parked)
    (key : u.recordKey (u.thread k).cont.part (u.thread k).cont.rcd q) (few : act ≠ 3 ∧ act < 4) :
    (returned u h p k rcd act).byteAt (q + 39) = 1 ∧
      (returned u h p k rcd act).readAt q 8 = if act = 1 then u.readAt q 8 else (u.fall k).toNat := by
  have plain := key.2.2.1
  have whole : returned u h p k rcd act =
      releaseHart (if act = 2 && (u.thread k).run == .parked then putPc u k (u.thread k).cont (u.fall k) else u) k := by
    unfold returned
    rw [gang]
    dsimp only
    rw [job]
    exact if_neg some
  rw [whole]
  by_cases two : act = 2
  · rw [if_pos (by simp [two, parked]), if_neg (by omega)]
    have same : (putPc u k (u.thread k).cont (u.fall k)).thread k = u.thread k := (bytesOnly_putRecord ..).2.1
    obtain ⟨-, mem, -⟩ := released_parked (s := putPc u k (u.thread k).cont (u.fall k)) (k := k) (by rw [same, parked])
    rw [same] at mem
    obtain ⟨-, status, pc, -⟩ := putPc_putStatus (h := k) (st := 1) (pc := u.fall k) key
    rw [State.byteAt_congr_plain mem (plain 39 (by decide)), State.readAt_congr_plain mem fun i hi => plain i (by omega)]
    exact ⟨status, pc⟩
  · rw [if_neg (by simp [two]), if_pos (by omega)]
    obtain ⟨-, mem, -⟩ := released_parked (s := u) parked
    obtain ⟨v, walked, at', -⟩ := putRecord_of_recordKey (h := k) (off := 39) (bytes := [BitVec.ofNat 8 1]) key (by simp)
        (by simp)
    have mem : (releaseHart u k).mem = (v.writeAt k (q + 39) [BitVec.ofNat 8 1]).mem := by rw [mem, putStatus, at']
    rw [State.byteAt_congr_plain mem (plain 39 (by decide)), State.readAt_congr_plain mem (fun i hi => plain i (by omega)),
      State.byteAt_writeAt_one _ _ _ (plain 39 (by decide)),
      State.readAt_writeAt_outside _ _ (plain 39 (by decide)) (fun i hi => plain i (by omega)) (.inl (by omega)),
      State.readAt_congr_plain walked.mem fun i hi => plain i (by omega)]
    exact ⟨rfl, rfl⟩

/-- A parked or halted hart of no gang and no job, released: what its thread set becomes. -/
theorem returned_released {u : State} {h : Hart} {p : Nat} {k : Hart} {rcd : Word} {act : Nat} (gang : u.gangOf k = none)
    (job : u.job k = none) (some : act ≠ 0) :
    ((u.thread k).run = .parked → (returned u h p k rcd act).thread k = {} ∧
      ∃ e ∈ ((returned u h p k rcd act).part (u.thread k).cont.part).ready, e.rcd = (u.thread k).cont.rcd ∧
        e.acc = (u.thread k).cont.acc ∧ e.lin = (u.thread k).cont.lin ∧ e.rise = 0) ∧
    ((u.thread k).run = .halted → (returned u h p k rcd act).mem = u.mem ∧ ((returned u h p k rcd act).thread k).run = .running
        ∧
      ((returned u h p k rcd act).thread k).cont = (u.thread k).cont ∧
      ((returned u h p k rcd act).thread k).regs = { (u.thread k).regs with pc := u.fall k }) := by
  have whole : returned u h p k rcd act =
      releaseHart (if act = 2 && (u.thread k).run == .parked then putPc u k (u.thread k).cont (u.fall k) else u) k := by
    unfold returned
    rw [gang]
    dsimp only
    rw [job]
    exact if_neg some
  refine ⟨fun parked => ?_, fun halted => ?_⟩
  · have same : (if act = 2 && (u.thread k).run == .parked then putPc u k (u.thread k).cont (u.fall k) else u).thread k =
      u.thread k := by
      split
      · exact (bytesOnly_putRecord ..).2.1
      · rfl
    obtain ⟨idle, -, queued⟩ := released_parked (k := k) ((congrArg Thread.run same).trans parked)
    rw [same] at queued
    rw [whole]
    exact ⟨idle, queued⟩
  · rw [whole, if_neg (by simp [halted]), releaseHart_halted halted]
    refine ⟨rfl, ?_⟩
    rw [State.thread_setThread_self]
    exact ⟨rfl, rfl, rfl⟩

/-- A gang's member that is released while another one holds the gang back. -/
theorem releaseMember_held {u : State} {g : Nat} {y : Gang} {k m : Hart} {rcd : Word} (skip : Bool) (isRcd : (u.thread
    k).cont.rcd = rcd)
    (mem : m ∈ u.stoppedIn y) (other : m ≠ k) (held : (u.thread m).cont.rcd ≠ rcd ∧ (u.thread m).cont.rcd ∉ y.released) :
    ((u.thread k).run = .parked → (releaseMember u g y k rcd skip).thread k = {} ∧
      (∃ e ∈ ((releaseMember u g y k rcd skip).part (u.thread k).cont.part).ready, e.rcd = (u.thread k).cont.rcd ∧
        e.acc = (u.thread k).cont.acc ∧ e.lin = (u.thread k).cont.lin ∧ e.rise = 0) ∧
      ∃ w, (releaseMember u g y k rcd skip).gang g = some w ∧ rcd ∈ w.back) ∧
    ((u.thread k).run = .halted → (releaseMember u g y k rcd skip).thread k = u.thread k ∧
      ∃ w, (releaseMember u g y k rcd skip).gang g = some w ∧ rcd ∈ w.released) := by
  obtain ⟨apart, unreleased⟩ := held
  refine ⟨fun parked => ?_, fun halted => ?_⟩
  · let s := if skip then putPc u k (u.thread k).cont (u.fall k) else u
    let x : Gang := { y with
      back := y.back ++ [rcd], todo := if skip then y.todo.filter (fun m => m != k) else y.todo
      redo := y.redo && !(skip && (u.leads k).isSome) }
    have whole : releaseMember u g y k rcd skip = resumeGang (releaseHart (s.setGang g (some x)) k) g x :=
      if_neg (by rw [parked]; decide)
    have same (i : Hart) : restsSo i u (s.setGang g (some x)) :=
      restsSo_trans (restsSo_ite (restsSo_putRecord ..) (restsSo_refl i u)) (restsSo_of_threads rfl)
    have cont := (same k).cont
    have parked' : ((s.setGang g (some x)).thread k).run = .parked := (same k).run.trans parked
    have rests : restsSo m u (releaseHart (s.setGang g (some x)) k) := restsSo_trans (same m) (restsSo_releaseHart other parked')
    have stopped : m ∈ (releaseHart (s.setGang g (some x)) k).stoppedIn x := by
      obtain ⟨member, runs⟩ := List.mem_filter.1 mem
      exact List.mem_filter.2 ⟨member, by rw [rests.run]; exact runs⟩
    obtain ⟨idle, -, queued⟩ := released_parked (s := s.setGang g (some x)) parked'
    rw [cont] at queued
    rw [whole, resumeGang_waits stopped (by rw [rests.cont]; exact unreleased)]
    exact ⟨idle, queued, x, State.gang_setGang_self .., List.mem_append_right _ List.mem_cons_self⟩
  · have whole : releaseMember u g y k rcd skip = resumeGang u g { y with released := y.released ++ [rcd] } :=
      if_pos (by rw [halted]; decide)
    rw [whole, resumeGang_waits (x := { y with released := y.released ++ [rcd] }) mem (by simp [unreleased, apart])]
    exact ⟨rfl, _, State.gang_setGang_self .., List.mem_append_right _ List.mem_cons_self⟩

end Sys2Proof.Machine
end

section
open Sys2Proof Sys2Proof.Machine

/-- Settles O14: `returned` says what a return does, by gang, job and action. -/
theorem trapReturn : Obligations.TrapReturn := by
  intro sb s a rcd gen act bad here
  refine ⟨fun refused => exec_tret_bad refused, fun good foreign => exec_tret_foreign good foreign, fun good home may zero
      waits => ?_,
    fun good home may free => ?_⟩
  · exact (exec_tret_goes good home may).trans (if_pos (Bool.and_eq_true_iff.2 ⟨decide_eq_true zero, waits⟩))
  · intro r p u v
    have goes : exec (.tret sb) s = .next v.pastStrong := (exec_tret_goes good home may).trans (if_neg fun h =>
      free ⟨of_decide_eq_true (Bool.and_eq_true_iff.1 h).1, (Bool.and_eq_true_iff.1 h).2⟩)
    have read : sameButTlb r u := State.readVA_sameButTlb ..
    refine ⟨goes, fun stale => ⟨trapReturn_stale stale, ?_, read.mem, ?_⟩, fun k x holder record same => ?_⟩
    · exact read.keeps State.threads fun _ _ => rfl
    · exact read.keeps State.parts fun _ _ => rfl
    · intro t queued
      have whole : v = returned u r.cur p k rcd act := trapReturn_named holder record same
      obtain ⟨isRcd, isPart, stopped⟩ := holderOf_spec holder
      have thread : u.thread k = t := read.thread k
      have gangOf : u.gangOf k = r.gangOf k := read.keeps (fun s => s.gangOf k) fun _ _ => rfl
      have jobOf : u.job k = r.job k := read.keeps (fun s => s.job k) fun _ _ => rfl
      have few : act ≠ 3 ∧ act < 4 := ⟨fun h => good (.inl h), Nat.mod_lt _ (by decide)⟩
      refine ⟨fun alone idle => ?_, fun alone j job => ?_, fun g y gang fresh distinct => ?_, fun g y gang old => ?_⟩
      · rw [← gangOf] at alone
        rw [← jobOf] at idle
        refine ⟨fun goes parked => ?_, fun goes halted => ?_, fun retires free => ?_⟩
        · obtain ⟨falls, queued⟩ := (returned_released (h := r.cur) (p := p) (rcd := rcd) alone idle goes).1
            (by rw [thread, parked])
          rw [← whole] at falls queued
          rw [thread, isRcd, isPart] at queued
          refine ⟨falls, queued, fun q key => ?_⟩
          rw [← isRcd, ← isPart] at key
          obtain ⟨status, pc⟩ := returned_parked (h := r.cur) (p := p) (rcd := rcd) alone idle goes (by rw [thread, parked])
            (by rw [thread]; exact key) few
          rw [← whole] at status pc
          refine ⟨status, pc.trans ?_⟩
          rw [State.readAt_congr_plain read.mem fun i hi => key.2.2.1 i (by omega)]
        · obtain ⟨mem, runs, cont, regs⟩ := (returned_released (h := r.cur) (p := p) (rcd := rcd) alone idle goes).2
            (by rw [thread, halted])
          rw [thread] at cont regs
          rw [whole]
          exact ⟨mem.trans read.mem, runs, cont, regs⟩
        · have retired : v = retireHart u k := by
            rw [whole]
            unfold returned
            rw [alone]
            dsimp only
            rw [idle]
            exact if_pos retires
          rw [retired]
          refine ⟨thread_retireHart u k, fun y z q task here other apart running key => ?_⟩
          have goal := retired_plain (z := z) (q := q) (t := y) idle (s := u) (k := k)
          rw [thread, isRcd, isPart] at goal
          exact goal ((read.keeps (fun s => s.runJob p rcd) fun _ _ => rfl).trans free)
            ((read.keeps (fun s => s.task t.cont.acc) fun _ _ => rfl).trans task) here other apart running key
      · rw [← gangOf] at alone
        rw [← jobOf] at job
        refine ⟨fun goes => ?_, fun retires => ?_⟩
        · have resumed : v = resumeJob u k j := by
            rw [whole]
            unfold returned
            rw [alone]
            dsimp only
            rw [job]
            exact if_neg goes
          have spec := resumed_job (s := u) (k := k) (j := j)
          rw [thread, isRcd, isPart, ← resumed] at spec
          obtain ⟨kept, freed, falls, queued, active, status⟩ := spec
          exact ⟨kept, freed, falls, queued, fun q key => ⟨status q key, active⟩⟩
        · have retired : v = retireHart u k := by
            rw [whole]
            unfold returned
            rw [alone]
            dsimp only
            rw [job]
            exact if_pos retires
          rw [retired]
          exact retired_job job
      · have stop : u.stoppedIn y = r.stoppedIn y := read.keeps (fun s => s.stoppedIn y) fun _ _ => rfl
        have member : v = if act = 0 then retireGang u r.cur p g y else releaseMember u g y k rcd (act == 2) := by
          rw [whole]
          unfold returned
          rw [gangOf, gang]
          exact if_neg fun old => fresh (List.elem_iff.1 old)
        have held (goes : act ≠ 0) {m : Hart} (mem : m ∈ r.stoppedIn y) (other : m ≠ k)
            (others : (r.thread m).cont.rcd ≠ rcd ∧ (r.thread m).cont.rcd ∉ y.released) := by
          have spec := releaseMember_held (u := u) (g := g) (y := y) (k := k) (m := m) (rcd := rcd) (act == 2)
              (by rw [thread]; exact isRcd)
            (stop ▸ mem) other (by rw [read.thread m]; exact others)
          rw [thread, isRcd, isPart] at spec
          rw [if_neg goes] at member
          rw [← member] at spec
          exact spec
        refine ⟨fun retires => ?_, fun goes parked ⟨_, mem, other, apart⟩ => (held goes mem other apart).1 parked,
          fun goes halted ⟨_, mem, other, apart⟩ => (held goes mem other apart).2 halted, fun goes halted all => ?_⟩
        · rw [member, if_pos retires]
          obtain ⟨gone, idles⟩ := retireGang_spec (s := u) (g := g) (x := y) r.cur p
          refine ⟨gone, fun m mem busy inGang => ?_⟩
          rw [← read.thread m] at busy inGang
          exact idles m mem busy inGang
        · rw [member, if_neg goes]
          have whole : releaseMember u g y k rcd (act == 2) = resumeGang u g { y with released := y.released ++ [rcd] } :=
            if_pos (by rw [thread, halted]; decide)
          intro m mem
          rw [whole]
          rw [← stop] at mem all
          refine resumeGang_goes (x := { y with released := y.released ++ [rcd] }) distinct (fun i hi => ?_) m mem
          obtain ⟨run, released⟩ := all i hi
          rw [read.thread i]
          refine ⟨run, List.mem_append.2 ?_⟩
          exact released.elim (fun here => .inr (List.mem_singleton.2 here)) .inl
      · rw [whole]
        unfold returned
        rw [gangOf, gang]
        exact if_pos (List.elem_iff.2 old)

end

section
/-! SUPPORT. The format registers that the oldest trap record of a partition shows. -/

namespace Sys2Proof.Machine

/-- FMTA as the first trap record of partition 0 gives it. -/
def shownFormat (r : Result) : Option (BitVec 5) :=
  match r with
  | .next u => (u.part 0).traps.head?.map fun x => x.data.extractLsb' 384 5
  | _ => none

end Sys2Proof.Machine
end

section
open Sys2Proof Sys2Proof.Machine

/-- Refutes O54: its first clause has a GACC of a bad number trap at once, where GACC commits its chunk first and names what it then finds
(R113). A halted thread set whose open chunk holds a store to its own FMTA tells the two apart: the trap record of the clause shows the
register as it was, the record that GACC leaves shows it as stored. -/
theorem not_damperInstructions : ¬ Obligations.DamperInstructions := by
  intro h
  let store : WStore := { key := mkOA 0 0 0x1003000, data := leBytes 8 2 }
  let t : Thread := { run := .halted, regs := ({} : Regs).setS 1 (2 ^ 16), chunk := { stores := [store] } }
  let s : State := ({} : State).setThread 0 t
  obtain ⟨number, -⟩ := h 0 0 1 0 0 0 0 s
  have same : exec (.gacc 0 0 1 0) s = takeTrap s .illegal 0 0 := number (by decide) _ (by simp)
  have shown : shownFormat (exec (.gacc 0 0 1 0) s) = some 2 := by decide
  have before : shownFormat (takeTrap s .illegal 0 0) = some 1 := by decide
  rw [same, before] at shown
  exact absurd shown (by decide)

end

section
/-! SUPPORT. Timetable slots: their table, arrivals at a home, and the notices that start a round. -/

namespace Sys2Proof.Machine

/-! ### The table of slots -/

theorem State.port_setPort_self (s : State) (p : Nat) (x : Slot) : (s.setPort p x).port p = x := by
  rw [State.port, State.slot, State.setPort, State.setSlot, State.core_setCore_self, Core.slot, Core.setSlot, Tab.get_set_self]
theorem State.port_setPort_other (s : State) {p q : Nat} (other : q ≠ p) (x : Slot) : (s.setPort p x).port q = s.port q := by
  rw [State.port, State.slot, State.setPort, State.setSlot, State.core_setCore]
  split
  · next same =>
    have apart : q % 2 ≠ p % 2 := fun h => other (by omega)
    rw [Core.slot, Core.setSlot, Tab.get_set_other _ _ _ apart, State.port, State.slot, same]
    rfl
  · rfl
theorem State.port_of_cores {s t : State} (same : t.cores = s.cores) (p : Nat) : t.port p = s.port p := by
  rw [State.port, State.slot, State.core, same]; rfl

/-! ### Notices -/

/-- Every notice of `s` stands in `t` at its slot. -/
def keepsNotices (s t : State) : Prop := ∀ p, ∀ n ∈ (s.port p).notices, n ∈ (t.port p).notices

theorem keepsNotices_refl (s : State) : keepsNotices s s := fun _ _ h => h
theorem keepsNotices_trans {s t u : State} (st : keepsNotices s t) (tu : keepsNotices t u) : keepsNotices s u :=
  fun p n h => tu p n (st p n h)
theorem keepsNotices_setPort {s : State} {p : Nat} {x : Slot} (kept : ∀ n ∈ (s.port p).notices, n ∈ x.notices) :
    keepsNotices s (s.setPort p x) := by
  intro q n mem
  by_cases same : q = p
  · rw [same, State.port_setPort_self]
    exact kept n (same ▸ mem)
  · rw [State.port_setPort_other _ same]
    exact mem
theorem keepsNotices_notify (s : State) (p : Nat) (n : Notice) : keepsNotices s (s.notify p n) :=
  keepsNotices_setPort fun _ mem => List.mem_append_left _ mem
theorem notify_notices (s : State) (p : Nat) (n : Notice) : n ∈ ((s.notify p n).port p).notices := by
  rw [State.notify, State.port_setPort_self]
  exact List.mem_append_right _ List.mem_cons_self
theorem keepsNotices_foldl {α : Type} (f : State → α → State) (each : ∀ s a, keepsNotices s (f s a)) (l : List α) (s : State) :
    keepsNotices s (l.foldl f s) := by
  induction l generalizing s with
  | nil => exact keepsNotices_refl s
  | cons a r ih => exact keepsNotices_trans (each s a) (ih _)

/-- What a slot holds as the home of rounds stays as it was. -/
structure sameHome (x y : Slot) : Prop where
  img : y.img = x.img
  held : y.held = x.held
  rounds : y.rounds = x.rounds
  lastr : y.lastr = x.lastr
theorem sameHome_refl (x : Slot) : sameHome x x := ⟨rfl, rfl, rfl, rfl⟩
theorem sameHome_trans {x y z : Slot} (xy : sameHome x y) (yz : sameHome y z) : sameHome x z :=
  ⟨yz.img.trans xy.img, yz.held.trans xy.held, yz.rounds.trans xy.rounds, yz.lastr.trans xy.lastr⟩
theorem sameHome_notify (s : State) (p q : Nat) (n : Notice) : sameHome (s.port q) ((s.notify p n).port q) := by
  by_cases same : q = p
  · rw [same, State.notify, State.port_setPort_self]
    exact ⟨rfl, rfl, rfl, rfl⟩
  · rw [State.notify, State.port_setPort_other _ same]
    exact sameHome_refl _

/-- A notice for each of a list of parties. -/
def notifyAll (m : Image) (of : Nat → Notice) (l : List Nat) (s : State) : State :=
  l.foldl (fun s k => s.notify (ptyId (m.party k)) (of k)) s
theorem sameHome_notifyAll (m : Image) (of : Nat → Notice) (l : List Nat) (s : State) (q : Nat) :
    sameHome (s.port q) ((notifyAll m of l s).port q) := by
  induction l generalizing s with
  | nil => exact sameHome_refl _
  | cons k r ih => exact sameHome_trans (sameHome_notify ..) (ih _)
theorem notifyAll_notices {m : Image} (of : Nat → Notice) {l : List Nat} (s : State) {k : Nat} (mem : k ∈ l) :
    of k ∈ ((notifyAll m of l s).port (ptyId (m.party k))).notices := by
  induction l generalizing s with
  | nil => cases mem
  | cons a r ih =>
    rcases List.mem_cons.1 mem with rfl | later
    · exact keepsNotices_foldl _ (fun s _ => keepsNotices_notify s _ _) r _ _ _ (notify_notices ..)
    · exact ih _ later

/-! ### Homes -/

/-- The notice of a round to party `k`. -/
def decided (s : State) (m : Image) (r : Arriving) (k : Nat) : Notice :=
  { round := r.round, t := s.now + 64, voids := m.onDevice.filter fun p => !r.parties.contains p
    void := (m.onDevice.filter fun p => !r.parties.contains p).contains k }

/-- What a decision tells each on-device party, `on` being the parties that have arrived. -/
def toldAll (s t : State) (m : Image) (round : BitVec 16) (on : List Nat) : Prop :=
  ∀ k ∈ m.onDevice, ∃ n ∈ (t.port (ptyId (m.party k))).notices, n.round = round ∧ n.t = s.now + 64 ∧ n.void = !on.contains k ∧
    ∀ j, j ∈ n.voids ↔ j ∈ m.onDevice ∧ j ∉ on

theorem decideRound_told (s : State) (home : Nat) (m : Image) (r : Arriving) :
    toldAll s (decideRound s home m r) m r.round r.parties ∧
      sameHome { s.port home with rounds := (s.port home).rounds.filter fun q => q.round != r.round, lastr := some r.round }
        ((decideRound s home m r).port home) := by
  let u := s.setPort home { s.port home with
    rounds := (s.port home).rounds.filter fun q => q.round != r.round, lastr := some r.round }
  have whole : decideRound s home m r = notifyAll m (decided s m r) m.onDevice u := by
    have all (l : List Nat) (v : State) (now : v.now = s.now) : l.foldl (fun s p => s.notify (ptyId (m.party p))
        { round := r.round, t := s.now + 64, voids := m.onDevice.filter fun p => !r.parties.contains p
          void := (m.onDevice.filter fun p => !r.parties.contains p).contains p }) v = notifyAll m (decided s m r) l v := by
      induction l generalizing v with
      | nil => rfl
      | cons k r ih =>
        rw [List.foldl_cons, now]
        exact ih _ now
    exact all _ u rfl
  rw [whole]
  refine ⟨fun k mem => ⟨decided s m r k, notifyAll_notices _ u mem, rfl, rfl, ?_, fun j => ?_⟩, ?_⟩
  · by_cases arrived : k ∈ r.parties
    · simp [decided, arrived]
    · simp [decided, arrived, mem]
  · simp [decided]
  · have same := sameHome_notifyAll m (decided s m r) m.onDevice u home
    rw [State.port_setPort_self] at same
    exact same

/-- A home with nothing held and nothing to decide is left as it is. -/
theorem settle_rests {m : Image} {home : Nat} (n : Nat) {s : State} (img : (s.port home).img = some m) (held : (s.port home).held = [])
    (ready : (s.port home).rounds.filter (roundReady m s.now) = []) :
    sameHome (s.port home) ((settle s home n).port home) ∧ keepsNotices s (settle s home n) := by
  induction n generalizing s with
  | zero => exact ⟨sameHome_refl _, keepsNotices_refl s⟩
  | succ n ih =>
    let u := s.setPort home { s.port home with held := [] }
    have port : u.port home = { s.port home with held := [] } := State.port_setPort_self ..
    have whole : settle s home (n + 1) = settle u home n := by
      rw [settle, img]
      dsimp only
      rw [ready, List.foldl_nil, held, List.foldl_nil]
    have next := ih (s := u) (by rw [port]; exact img) (by rw [port]) (by rw [port]; exact ready)
    rw [whole]
    rw [port] at next
    have emptied : sameHome (s.port home) { s.port home with held := [] } := ⟨rfl, held.symm, rfl, rfl⟩
    have kept : keepsNotices s u := keepsNotices_setPort fun _ h => h
    exact ⟨sameHome_trans emptied next.1, keepsNotices_trans kept next.2⟩

/-- The only round of a home is decided as soon as it is ready. -/
theorem settle_decides {m : Image} {home : Nat} (n : Nat) {s : State} {r : Arriving} (img : (s.port home).img = some m)
    (held : (s.port home).held = []) (rounds : (s.port home).rounds = [r]) (ready : roundReady m s.now r = true) :
    ((settle s home (n + 1)).port home).lastr = some r.round ∧ ((settle s home (n + 1)).port home).rounds = [] ∧
      toldAll s (settle s home (n + 1)) m r.round r.parties := by
  obtain ⟨told, same⟩ := decideRound_told s home m r
  have whole : settle s home (n + 1) =
      settle ((decideRound s home m r).setPort home { (decideRound s home m r).port home with held := [] }) home n := by
    have none : ((decideRound s home m r).port home).held = [] := same.held.trans held
    rw [settle, img]
    dsimp only
    rw [rounds, List.filter_cons, if_pos ready, List.filter_nil, List.foldl_cons, List.foldl_nil, none, List.foldl_nil]
  rw [whole]
  generalize decideRound s home m r = v at told same
  have port : (v.setPort home { v.port home with held := [] }).port home = { v.port home with held := [] } :=
      State.port_setPort_self ..
  have none : (v.port home).rounds = [] := by rw [same.rounds]; simp [rounds]
  obtain ⟨rest, kept⟩ := settle_rests (m := m) (home := home) n (s := v.setPort home { v.port home with held := [] })
    (by rw [port]; exact same.img.trans img) (by rw [port]) (by rw [port]; simp [none])
  rw [port] at rest
  refine ⟨rest.lastr.trans same.lastr, rest.rounds.trans none, fun k mem => ?_⟩
  obtain ⟨w, inn, is⟩ := told k mem
  exact ⟨w, kept _ _ (keepsNotices_setPort (s := v) (p := home) (x := { v.port home with held := [] }) (fun _ h => h) _ _ inn), is⟩

theorem exec_barrierArrival {s : State} {q : Msg} {home party : Nat} {round : BitVec 16} (msg : s.msg s.cur = some q)
    (item : q.item = .arrival home party round) :
    exec .barrierArrival s = .next ((arriveHome (s.dropMsg q.id) home party round).settleHome home) := by
  change execBarrierArrival s = _
  unfold execBarrierArrival
  rw [msg]
  dsimp only
  rw [item]

section
variable {s : State} {home party : Nat} {round : BitVec 16}

/-- Before its home has an image an arrival is held. -/
theorem arriveHome_held (none : (s.port home).img = none) : (arriveHome s home party round).settleHome home =
    s.setPort home { s.port home with held := (s.port home).held ++ [(party, round)] } := by
  have whole : arriveHome s home party round = s.setPort home
      { s.port home with held := (s.port home).held ++ [(party, round)] } := by
    unfold arriveHome
    dsimp only
    rw [none]
  rw [whole, State.settleHome, settle, State.port_setPort_self]
  simp only [none]

/-- An arrival for a round the home has left is answered void. -/
theorem arriveHome_void {m : Image} {l : BitVec 16} (img : (s.port home).img = some m) (last : (s.port home).lastr = some l)
    (past : laterRound round l = false) : arriveHome s home party round =
    s.notify (ptyId (m.party party)) { round := round, t := 0, voids := [], void := true } := by
  unfold arriveHome
  dsimp only
  rw [img]
  dsimp only
  rw [last]
  exact if_pos (by simp [past])

/-- An arrival for the round that its home counts. -/
theorem arriveHome_counted {m : Image} {r : Arriving} (img : (s.port home).img = some m) (rounds : (s.port home).rounds = [r])
    (ahead : ∀ l, (s.port home).lastr = some l → laterRound r.round l = true) : arriveHome s home party r.round =
    s.setPort home { s.port home with rounds := [{ r with parties := party :: r.parties }] } := by
  have now : laterRound r.round r.round = false := by simp [laterRound]
  unfold arriveHome
  dsimp only
  rw [img]
  dsimp only
  rw [if_neg, rounds, if_neg (by simp [now]), if_pos (by simp)]
  · simp
  · split
    · next l last => simp [ahead l last]
    · decide

end

/-! ### The notice of a round -/

/-- BAR's value is returned to thread `ts` of the core where it waits for it. -/
def wokenBar (p : Nat) (w : Word) (s : State) (ts : Nat) : State :=
  match (s.thread (p / 2 * 4 + ts)).wait with
  | .bar rd k =>
    if k = p % 2 then
      ((s.setThread (p / 2 * 4 + ts) { s.thread (p / 2 * 4 + ts) with regs := (s.thread (p / 2 * 4 + ts)).regs.setS rd w }).advance
        (p / 2 * 4 + ts)).boundary (p / 2 * 4 + ts)
    else s
  | _ => s
theorem wakeBar_eq (s : State) (p : Nat) (w : Word) : wakeBar s p w = (List.range 4).foldl (wokenBar p w) s := rfl

theorem State.cores_leadTo (s : State) (h : Hart) (g : Nat) (x : Gang) (pc : Word) : (s.leadTo h g x pc).cores = s.cores :=
  (leftBy_leadTo s h g x pc).keeps State.cores fun _ _ _ _ _ _ => rfl
theorem State.cores_hobTick (s : State) (h : Hart) : (s.hobTick h).cores = s.cores := rfl
theorem State.cores_goto (s : State) (h : Hart) (pc : Word) : (s.goto h pc).cores = s.cores := by
  unfold State.goto
  dsimp only
  have ticked : (if kindOf h = .hob then s.hobTick h else s).cores = s.cores := by
    split
    · exact State.cores_hobTick s h
    · rfl
  generalize (if kindOf h = .hob then s.hobTick h else s) = u at ticked ⊢
  rw [← ticked]
  split
  · rfl
  · split
    · rfl
    · split
      · rfl
      · split
        · exact State.cores_leadTo ..
        · rfl
theorem State.cores_advance (s : State) (h : Hart) : (s.advance h).cores = s.cores := by
  unfold State.advance
  dsimp only
  split
  · exact State.cores_goto ..
  · split
    · exact State.cores_goto ..
    · split
      · exact State.cores_goto ..
      · exact State.cores_goto ..
theorem State.cores_boundary (s : State) (h : Hart) : (s.boundary h).cores = s.cores := by
  rw [State.boundary, State.cores_noteWindow]
  exact State.cores_endRedo ..

theorem wokenBar_keeps (p : Nat) (w : Word) (s : State) (ts : Nat) :
    (wokenBar p w s ts).cores = s.cores ∧ (wokenBar p w s ts).mem = s.mem := by
  unfold wokenBar
  split
  · split
    · exact ⟨(State.cores_boundary ..).trans (State.cores_advance ..), (State.mem_boundary ..).trans (State.mem_advance ..)⟩
    · exact ⟨rfl, rfl⟩
  · exact ⟨rfl, rfl⟩
theorem wakeBar_keeps (s : State) (p : Nat) (w : Word) : (wakeBar s p w).cores = s.cores ∧ (wakeBar s p w).mem = s.mem :=
  ⟨foldl_keeps _ State.cores _ _ fun s ts => (wokenBar_keeps p w s ts).1,
    foldl_keeps _ State.mem _ _ fun s ts => (wokenBar_keeps p w s ts).2⟩

section
variable {s : State} {p : Nat} {w : Word}

theorem wokenBar_rests {ts : Nat} (other : ∀ r, (s.thread (p / 2 * 4 + ts)).wait ≠ .bar r (p % 2)) : wokenBar p w s ts = s := by
  unfold wokenBar
  split
  · next rd k wait => exact if_neg fun same : k = p % 2 => other rd (by rw [wait, same])
  · rfl

/-- A hart that no gang leads and no path or REP guides goes to `pc`, and nothing else moves. -/
theorem State.goto_free {h : Hart} (kind : kindOf h = .core) (gang : (s.thread h).gang = none) (path : (s.thread h).path = [])
    (pc : Word) : s.goto h pc = s.setThread h { s.thread h with
      regs := { (s.thread h).regs with pc := pc }, path := [], wait := .none
      chunk := { (s.thread h).chunk with executed := (s.thread h).chunk.executed + 1, trail := (s.thread h).chunk.trail ++ [pc] } } := by
  unfold State.goto
  rw [if_neg (by rw [kind]; decide)]
  simp only [path, gang]

theorem wokenBar_wakes {ts : Nat} {rd : Reg} (wait : (s.thread (p / 2 * 4 + ts)).wait = .bar rd (p % 2))
    (kind : kindOf (p / 2 * 4 + ts) = .core) (gang : (s.thread (p / 2 * 4 + ts)).gang = none)
    (path : (s.thread (p / 2 * 4 + ts)).path = []) (rep : (s.thread (p / 2 * 4 + ts)).regs.rep = none) :
    (∃ pc, ((wokenBar p w s ts).thread (p / 2 * 4 + ts)).regs = { (s.thread (p / 2 * 4 + ts)).regs.setS rd w with pc := pc }) ∧
      ∀ k, k ≠ ts → ((wokenBar p w s ts).thread (p / 2 * 4 + k)).wait = (s.thread (p / 2 * 4 + k)).wait := by
  have acts : wokenBar p w s ts = ((s.setThread (p / 2 * 4 + ts) { s.thread (p / 2 * 4 + ts) with
      regs := (s.thread (p / 2 * 4 + ts)).regs.setS rd w }).advance (p / 2 * 4 + ts)).boundary (p / 2 * 4 + ts) := by
    unfold wokenBar
    rw [wait]
    exact if_pos rfl
  have others {k : Nat} (other : k ≠ ts) : p / 2 * 4 + k ≠ p / 2 * 4 + ts := fun same => other (by omega)
  generalize p / 2 * 4 + ts = h at *
  let u := s.setThread h { s.thread h with regs := (s.thread h).regs.setS rd w }
  have thread : u.thread h = { s.thread h with regs := (s.thread h).regs.setS rd w } := State.thread_setThread_self ..
  have goes : u.advance h = u.goto h (u.fall h) := by
    unfold State.advance
    rw [thread]
    dsimp only
    rw [Regs.setS_rep, rep]
  rw [acts, goes, State.goto_free kind (by rw [thread]; exact gang) (by rw [thread]; exact path), thread]
  refine ⟨⟨u.fall h, ?_⟩, fun k other => ?_⟩
  · rw [State.thread_boundary_self, State.thread_setThread_self]
  · have saw (t : Thread) (b : Bool) (l : List Nat) : (t.saw b l).wait = t.wait := by unfold Thread.saw; split <;> rfl
    rw [State.boundary]
    obtain ⟨l, seen⟩ := State.thread_noteWindow _ h _ (p / 2 * 4 + k)
    rw [seen, saw, State.thread_setThread, if_neg (others other), State.thread_endRedo, State.thread_setThread, if_neg (others other),
      State.thread_setThread, if_neg (others other)]

/-- Of the four threads of a core only the one that waits for this slot takes the value. -/
theorem wakeBar_one {ts : Nat} (few : ts < 4) (others : ∀ k, k < 4 → k ≠ ts → ∀ r, (s.thread (p / 2 * 4 + k)).wait ≠ .bar r (p % 2))
    (kept : ∀ k, k ≠ ts → ((wokenBar p w s ts).thread (p / 2 * 4 + k)).wait = (s.thread (p / 2 * 4 + k)).wait) :
    wakeBar s p w = wokenBar p w s ts := by
  have before {k : Nat} (small : k < 4) (other : k ≠ ts) : wokenBar p w s k = s := wokenBar_rests (others k small other)
  have after {k : Nat} (small : k < 4) (other : k ≠ ts) : wokenBar p w (wokenBar p w s ts) k = wokenBar p w s ts :=
    wokenBar_rests fun r => by rw [kept k other]; exact others k small other r
  have range : List.range 4 = [0, 1, 2, 3] := rfl
  rw [wakeBar_eq, range, List.foldl_cons, List.foldl_cons, List.foldl_cons, List.foldl_cons, List.foldl_nil]
  interval_cases ts
  · rw [after (k := 1) (by decide) (by decide), after (k := 2) (by decide) (by decide), after (k := 3) (by decide) (by decide)]
  · rw [before (k := 0) (by decide) (by decide), after (k := 2) (by decide) (by decide), after (k := 3) (by decide) (by decide)]
  · rw [before (k := 0) (by decide) (by decide), before (k := 1) (by decide) (by decide), after (k := 3) (by decide) (by decide)]
  · rw [before (k := 0) (by decide) (by decide), before (k := 1) (by decide) (by decide), before (k := 2) (by decide) (by decide)]

end

/-- The slot of a party whose round starts with notice `n`. -/
def Slot.started (x : Slot) (n : Notice) : Slot :=
  { x with st := .running, t := n.t, void := n.void, voidSet := n.voids, next := 0, line := 0, buf := [], ident := false, mark
      := false
           notices := [], doneAt := 0 }
/-- What BAR returns of a notice. -/
def Notice.value (n : Notice) : Word := if n.void then BitVec.allOnes 64 else BitVec.ofNat 64 n.t

theorem exec_releaseNotice {s : State} {n : Notice} (waiting : (s.port s.cur).st = .waiting)
    (found : (s.port s.cur).notices.find? (fun n => n.round == (s.port s.cur).round) = some n) : exec .releaseNotice s =
      .next (wakeBar (s.setPort s.cur ((s.port s.cur).started n)) s.cur n.value) := by
  change execReleaseNotice s = _
  unfold execReleaseNotice
  dsimp only
  rw [if_neg (by rw [waiting]; decide), found]
  rfl

end Sys2Proof.Machine
end

section
open Sys2Proof Sys2Proof.Machine

/-- Settles O51: by what the home holds, and by the notice that a waiting party finds. -/
theorem barrierRounds : Obligations.BarrierRounds := by
  intro s q home party round u x told
  refine ⟨fun msg item => ⟨fun none => ?_, fun m l img held last past => ?_, fun m r img held rounds same ahead all => ?_⟩,
    fun m r img held rounds due => ?_, fun n ts rd waiting found => ?_⟩
  · exact (exec_barrierArrival msg item).trans (congrArg Host.Outcome.next (arriveHome_held (s := u) none))
  · have arrived := arriveHome_void (s := u) (party := party) img last past
    refine ⟨_, exec_barrierArrival msg item, fun rounds => ⟨{ round := round, t := 0, voids := [], void := true }, ?_, rfl, rfl⟩⟩
    rw [arrived]
    have same := sameHome_notify u (ptyId (m.party party)) home { round := round, t := 0, voids := [], void := true }
    refine (settle_rests (m := m) (home := home) _ (same.img.trans img) (same.held.trans held) ?_).2 _ _ (notify_notices ..)
    rw [same.rounds]
    simp [show (u.port home).rounds = [] from rounds]
  · subst same
    have arrived := arriveHome_counted (s := u) (party := party) img rounds ahead
    let v := u.setPort home { u.port home with rounds := [{ r with parties := party :: r.parties }] }
    have port : v.port home = { u.port home with rounds := [{ r with parties := party :: r.parties }] } :=
        State.port_setPort_self ..
    have there (k : Nat) (mem : k ∈ m.onDevice) : k ∈ party :: r.parties := List.mem_cons.2 (all k mem)
    have ready : roundReady m v.now { r with parties := party :: r.parties } = true :=
      Bool.or_eq_true_iff.2 (.inl (List.all_eq_true.2 fun k mem => List.elem_iff.2 (there k mem)))
    obtain ⟨lastr, none, tells⟩ := settle_decides (m := m) (home := home) ((v.port home).held.length + 1) (s := v)
      (by rw [port]; exact img) (by rw [port]; exact held) (by rw [port]) ready
    refine ⟨v.settleHome home, (exec_barrierArrival msg item).trans (by rw [arrived]), lastr, none, fun k mem => ?_⟩
    obtain ⟨n, inn, isRound, isT, void, voids⟩ := tells k mem
    refine ⟨n, inn, isRound, isT, ?_, fun j => (voids j).trans (and_congr_right fun on => ?_)⟩
    · exact (void.trans (congrArg not (List.elem_iff.2 (there k mem)))).trans (congrArg not (List.elem_iff.2 mem).symm)
    · exact ⟨fun out => absurd (there j on) out, fun out => absurd on out⟩
  · obtain ⟨lastr, -, tells⟩ := settle_decides (m := m) (home := s.cur) ((s.port s.cur).held.length + 1) (s := s) img held
      rounds
      (Bool.or_eq_true_iff.2 (.inr (decide_eq_true due)))
    exact ⟨s.settleHome s.cur, rfl, lastr, tells⟩
  · obtain ⟨cores, mem⟩ := wakeBar_keeps (s.setPort s.cur ((s.port s.cur).started n)) s.cur n.value
    refine ⟨_, exec_releaseNotice waiting found, ?_⟩
    rw [State.port_of_cores cores, State.port_setPort_self]
    refine ⟨rfl, rfl, rfl, rfl, rfl, rfl, mem, fun few others wait gang path rep kind => ?_⟩
    have thread (k : Hart) : (s.setPort s.cur ((s.port s.cur).started n)).thread k = s.thread k := rfl
    generalize s.setPort s.cur ((s.port s.cur).started n) = v at thread ⊢
    simp only [← thread] at others wait gang path rep ⊢
    obtain ⟨⟨pc, regs⟩, kept⟩ := wokenBar_wakes (w := n.value) wait kind gang path rep
    rw [wakeBar_one few others kept, regs]
    rfl

end

section
/-! SUPPORT. Accesses that are performed neither start nor stop a thread set, and what the channel instructions leave of their
    channel. -/

namespace Sys2Proof.Machine

/-! ### Thread sets run, wait or rest as they did -/

/-- From `s` to `t` no thread set starts, stops or takes another continuation. -/
structure sameRuns (s t : State) : Prop where
  run : ∀ m, (t.thread m).run = (s.thread m).run
  cont : ∀ m, (t.thread m).cont = (s.thread m).cont

theorem sameRuns_refl (s : State) : sameRuns s s := ⟨fun _ => rfl, fun _ => rfl⟩
theorem sameRuns_trans {s t u : State} (st : sameRuns s t) (tu : sameRuns t u) : sameRuns s u :=
  ⟨fun m => (tu.run m).trans (st.run m), fun m => (tu.cont m).trans (st.cont m)⟩
theorem sameRuns_of_rests {s t : State} (rests : ∀ m, restsSo m s t) : sameRuns s t :=
  ⟨fun m => (rests m).run, fun m => (rests m).cont⟩
theorem sameRuns_of_threads {s t : State} (same : t.threads = s.threads) : sameRuns s t :=
  sameRuns_of_rests fun _ => restsSo_of_threads same
theorem sameRuns_ite {s t u : State} {p : Prop} {_ : Decidable p} (ht : sameRuns s t) (hu : sameRuns s u) :
    sameRuns s (if p then t else u) := by
  split
  · exact ht
  · exact hu
theorem sameRuns_foldl {α : Type} (f : State → α → State) (each : ∀ s a, sameRuns s (f s a)) (l : List α) (s : State) :
    sameRuns s (l.foldl f s) := by
  induction l generalizing s with
  | nil => exact sameRuns_refl s
  | cons a r ih => exact sameRuns_trans (each s a) (ih _)
theorem sameRuns_setThread {s : State} {h : Hart} {t : Thread} (run : t.run = (s.thread h).run)
    (cont : t.cont = (s.thread h).cont) : sameRuns s (s.setThread h t) := by
  refine ⟨fun m => ?_, fun m => ?_⟩ <;> rw [State.thread_setThread] <;> split
  · next here => rw [here, run]
  · rfl
  · next here => rw [here, cont]
  · rfl
theorem sameRuns_writeAt (s : State) (h : Hart) (k : Nat) (b : List Byte) : sameRuns s (s.writeAt h k b) :=
  sameRuns_of_rests fun _ => restsSo_writeAt ..
theorem sameRuns_notifyUp (s : State) (cl i : Nat) : sameRuns s (notifyUp s cl i) := sameRuns_of_rests fun _ =>
    restsSo_notifyUp ..

theorem sendTo_run (t : Thread) (pc : Word) : (t.sendTo pc).run = t.run ∧ (t.sendTo pc).cont = t.cont := by
  unfold Thread.sendTo
  dsimp only
  split <;> exact ⟨rfl, rfl⟩
theorem sameRuns_leadTo (s : State) (h : Hart) (g : Nat) (x : Gang) (pc : Word) : sameRuns s (s.leadTo h g x pc) := by
  unfold State.leadTo
  dsimp only
  have sent := sameRuns_foldl (fun (s : State) (m : Hart) => s.setThread m ((s.thread m).sendTo pc))
    (fun s m => sameRuns_setThread (sendTo_run ..).1 (sendTo_run ..).2) ((x.members.drop 1).filter fun m => m != h &&
        !x.todo.contains m) s
  exact sameRuns_ite (sameRuns_trans sent (sameRuns_of_threads rfl)) (sameRuns_of_threads rfl)
theorem sameRuns_goto (s : State) (h : Hart) (pc : Word) : sameRuns s (s.goto h pc) := by
  unfold State.goto
  dsimp only
  have ticked : sameRuns s (if kindOf h = .hob then s.hobTick h else s) := sameRuns_ite (sameRuns_of_threads rfl)
      (sameRuns_refl s)
  refine sameRuns_trans ticked ?_
  generalize (if kindOf h = .hob then s.hobTick h else s) = u
  split
  · exact sameRuns_setThread rfl rfl
  · split
    · exact sameRuns_setThread rfl rfl
    · split
      · exact sameRuns_setThread rfl rfl
      · next x _ =>
        split
        · exact sameRuns_trans (sameRuns_leadTo ..) (sameRuns_setThread ((sameRuns_leadTo ..).run h).symm
            ((sameRuns_leadTo ..).cont h).symm)
        · exact sameRuns_trans (sameRuns_setThread (h := h) (by exact rfl) (by exact rfl)) (sameRuns_of_threads rfl)
theorem sameRuns_advance (s : State) (h : Hart) : sameRuns s (s.advance h) := by
  have put (x : Option RepState) : sameRuns s (s.setThread h { s.thread h with regs := { (s.thread h).regs with rep := x } }) :=
    sameRuns_setThread rfl rfl
  unfold State.advance
  dsimp only
  split
  · exact sameRuns_goto ..
  · split
    · exact sameRuns_trans (put _) (sameRuns_goto ..)
    · split
      · exact sameRuns_trans (put _) (sameRuns_goto ..)
      · exact sameRuns_trans (put _) (sameRuns_goto ..)
theorem sameRuns_noteWindow (s : State) (h : Hart) (moved : Nat → Bool) : sameRuns s (s.noteWindow h moved) :=
  sameRuns_of_rests fun _ => restsSo_noteWindow ..
theorem sameRuns_noteLines (s : State) (a : Nat) (l : List Nat) (h : Hart) : sameRuns s (s.noteLines a l h) :=
  sameRuns_of_rests fun _ => restsSo_noteLines ..
theorem sameRuns_endRedo (s : State) (h : Hart) : sameRuns s (s.endRedo h) := 
  ⟨fun m => by rw [State.thread_endRedo], fun m => by rw [State.thread_endRedo]⟩
theorem sameRuns_boundary (s : State) (h : Hart) : sameRuns s (s.boundary h) := by
  refine sameRuns_trans (sameRuns_trans (sameRuns_endRedo s h) (sameRuns_setThread ?_ ?_)) (sameRuns_noteWindow ..)
  all_goals rw [State.thread_endRedo]
theorem sameRuns_returnValue (s : State) (h : Hart) (id : Nat) (rd : Reg) (w : Word) : sameRuns s (returnValue s h id rd w) := by
  have set : sameRuns s (s.setThread h { s.thread h with regs := (s.thread h).regs.setS rd w }) := sameRuns_setThread rfl rfl
  exact sameRuns_ite (sameRuns_trans (sameRuns_trans set (sameRuns_advance _ h)) (sameRuns_boundary _ h)) (sameRuns_refl s)
theorem sameRuns_evalEntries (s : State) (cl i : Nat) : sameRuns s (evalEntries s cl i) :=
  sameRuns_of_rests fun m => restsSo_foldl _ (fun _ _ => restsSo_evalEntry ..) _ _
theorem sameRuns_countUp (s : State) (cl i : Nat) : sameRuns s (countUp s cl i) :=
  sameRuns_trans (t := s.putCounter cl i ((s.cluster cl).counter i + 1)) (sameRuns_of_threads rfl) (sameRuns_evalEntries ..)
theorem threads_setTileEl (s : State) (cl t : Nat) (pair : Bool) (i j v : Nat) : (s.setTileEl cl t pair i j v).threads =
    s.threads := by
  unfold State.setTileEl
  split <;> rfl
theorem sameRuns_addAddend (s : State) (cl : Nat) (a : Addend) : sameRuns s (addAddend s cl a) := by
  unfold addAddend
  extract_lets m width f w new vals t u bad left v
  have stored : sameRuns s t :=
    sameRuns_ite (sameRuns_refl s) (sameRuns_foldl _ (fun _ _ => by exact sameRuns_of_threads (threads_setTileEl ..)) _ _)
  have noted : sameRuns s u := sameRuns_trans stored (sameRuns_noteLines ..)
  have counted : sameRuns s v := sameRuns_trans noted (sameRuns_of_threads rfl)
  exact sameRuns_ite (sameRuns_refl s) (sameRuns_ite (sameRuns_ite (sameRuns_trans counted (sameRuns_notifyUp ..)) counted)
    (sameRuns_trans noted (sameRuns_of_threads rfl)))
theorem sameRuns_applyAddend (s : State) (cl : Nat) (a : Addend) : sameRuns s (applyAddend s cl a) := by
  unfold applyAddend
  split
  · exact sameRuns_trans (sameRuns_addAddend ..) (sameRuns_notifyUp ..)
  · exact sameRuns_addAddend ..
theorem sameRuns_arriveAddend (s : State) (cl : Nat) (a : Addend) : sameRuns s (arriveAddend s cl a) := by
  unfold arriveAddend
  extract_lets c m b u
  have refused : sameRuns s u := sameRuns_ite (sameRuns_refl s) (sameRuns_of_threads rfl)
  exact sameRuns_ite (sameRuns_trans refused (sameRuns_of_threads rfl)) (sameRuns_trans refused (sameRuns_applyAddend ..))
theorem sameRuns_reduceStep (s : State) (h : Hart) (kind k : Nat) (tag : BitVec 16) (ci : Option (BitVec 8)) (lines : List Vec) :
    sameRuns s (reduceStep s h kind k tag ci lines).1 := by
  have fin {t : State} (rest : List Vec) (st : sameRuns s t) : sameRuns s (if rest.isEmpty then (match ci with
      | some i => notifyUp t (oaCl k) i.toNat
      | none => t) else t) := by
    refine sameRuns_ite ?_ st
    split
    · exact sameRuns_trans st (sameRuns_notifyUp ..)
    · exact st
  unfold reduceStep
  dsimp only
  split
  · exact fin _ (sameRuns_writeAt ..)
  · exact fin _ (sameRuns_writeAt ..)
  · split
    · exact sameRuns_trans (sameRuns_arriveAddend ..) (sameRuns_of_threads rfl)
    · exact sameRuns_arriveAddend ..
theorem sameRuns_reduceAt (s : State) (h : Hart) (kind k : Nat) (tag : BitVec 16) (ci : Option (BitVec 8)) (lines : List Vec)
    (n : Nat) :
    sameRuns s (reduceAt s h kind k tag ci lines n) := by
  induction n generalizing s k lines with
  | zero => exact sameRuns_refl s
  | succ n ih => exact sameRuns_ite (sameRuns_refl s) (sameRuns_trans (sameRuns_reduceStep ..) (ih ..))
theorem sameRuns_performItem (s : State) (m : Msg) : sameRuns s (performItem s m) := by
  have dropped : sameRuns s (s.dropMsg m.id) := sameRuns_of_threads rfl
  unfold performItem
  split
  · exact sameRuns_trans dropped (sameRuns_writeAt ..)
  · extract_lets old u v
    have written : sameRuns s v := by
      unfold v
      split
      · exact sameRuns_trans dropped (sameRuns_writeAt ..)
      · exact dropped
    split
    · exact sameRuns_trans written (sameRuns_returnValue ..)
    · exact written
  · extract_lets u cl i v
    refine sameRuns_ite (sameRuns_trans dropped (sameRuns_of_threads rfl)) ?_
    have written : sameRuns s v := by
      unfold v
      split
      · exact sameRuns_trans dropped (sameRuns_writeAt ..)
      · exact dropped
    exact sameRuns_trans (sameRuns_trans written (sameRuns_noteLines ..)) (sameRuns_countUp ..)
  · exact sameRuns_trans (sameRuns_trans dropped (sameRuns_foldl _ (fun _ _ => sameRuns_writeAt ..) _ _)) (sameRuns_writeAt ..)
  · exact sameRuns_trans dropped (sameRuns_reduceAt ..)
  · exact sameRuns_refl s
  · exact sameRuns_refl s
  · exact sameRuns_refl s
  · exact sameRuns_refl s
  · exact sameRuns_refl s
theorem sameRuns_drain (s : State) (h : Hart) : sameRuns s (s.drain h) :=
  sameRuns_foldl _ (fun _ _ => sameRuns_ite (sameRuns_performItem ..) (sameRuns_refl _)) _ _

/-- A hart that retires waits for its stores, or it is idle. -/
theorem finishRetiring_run (s : State) {h : Hart} (retiring : (s.thread h).run = .retiring) :
    ((finishRetiring s h).thread h).run = .retiring ∨ (finishRetiring s h).thread h = {} := by
  have drained : ((s.drain h).thread h).run = .retiring := ((sameRuns_drain s h).run h).trans retiring
  unfold finishRetiring
  dsimp only
  split
  · exact .inl retiring
  · split
    · exact .inl drained
    · exact .inr (thread_retireHart ..)

/-! ### Requests (R290 to R292) -/

theorem State.chan_setChan_self (s : State) (core n : Nat) (x : Chan) : (s.setChan core n x).chan core n = x := by
  rw [State.chan, State.setChan, State.core_setCore_self, Core.chan, Core.setChan, Tab.get_set_self]
theorem State.fifo_setChan (s : State) (core n : Nat) (x : Chan) : ((s.setChan core n x).core core).fifo = (s.core core).fifo := by
  rw [State.setChan, State.core_setCore_self]; rfl
/-- The fifo of a core does not matter to its channels. -/
theorem State.chan_setFifo (s : State) (core n : Nat) (l : List Nat) :
    (s.setCore core { s.core core with fifo := l }).chan core n = s.chan core n := by
  rw [State.chan, State.core_setCore_self]; rfl

section
variable {s : State} {sa : Reg} {full : State → Result} {ok : State → State}

/-- Word `k` of the request that a register names. -/
def requestWord (s : State) (sa : Reg) (k : Nat) : Word := s.rs (sa + BitVec.ofNat 5 k)
/-- What a request is refused for. -/
def refusalOf (s : State) (sa : Reg) : Option (Trap × Word) :=
  requestTrap s (requestWord s sa 0) (requestWord s sa 1) (requestWord s sa 2) (requestWord s sa 3)

theorem pushRequest_eq : pushRequest s sa full ok =
    match refusalOf s sa with
    | some (t, a) => takeTrap s t a 0
    | none =>
      if (s.chan (hartCore s.cur) (w0Channel (requestWord s sa 0))).st ≠ .idle then takeTrap s .fifo 0 (w0Channel (requestWord s sa 0))
      else if 8 ≤ (s.core (hartCore s.cur)).fifo.length then full s
      else withRelease s fun r => (ok (acceptRequest r (w0Channel (requestWord s sa 0)) (requestWord s sa 0) (requestWord s sa 1)
        (requestWord s sa 2) (requestWord s sa 3))).doneStrong := rfl

theorem pushRequest_refused {x : Trap} {a : Word} (bad : refusalOf s sa = some (x, a)) : pushRequest s sa full ok = takeTrap s
    x a 0 := by
  rw [pushRequest_eq, bad]
theorem pushRequest_busy (good : refusalOf s sa = none) (busy : (s.chan (hartCore s.cur) (w0Channel (requestWord s sa 0))).st ≠ .idle) :
    pushRequest s sa full ok = takeTrap s .fifo 0 (w0Channel (requestWord s sa 0)) := by
  rw [pushRequest_eq, good]
  exact if_pos busy
theorem pushRequest_full (good : refusalOf s sa = none) (idle : (s.chan (hartCore s.cur) (w0Channel (requestWord s sa 0))).st = .idle)
    (many : 8 ≤ (s.core (hartCore s.cur)).fifo.length) : pushRequest s sa full ok = full s := by
  rw [pushRequest_eq, good]
  exact (if_neg (fun h => h idle)).trans (if_pos many)
theorem pushRequest_accepted (good : refusalOf s sa = none)
    (idle : (s.chan (hartCore s.cur) (w0Channel (requestWord s sa 0))).st = .idle) (few : (s.core (hartCore s.cur)).fifo.length < 8)
    (may : s.mayRelease = true) : pushRequest s sa full ok = (ok (acceptRequest s.released (w0Channel (requestWord s sa 0))
      (requestWord s sa 0) (requestWord s sa 1) (requestWord s sa 2) (requestWord s sa 3))).doneStrong := by
  rw [pushRequest_eq, good]
  exact ((if_neg (fun h => h idle)).trans (if_neg (by omega))).trans (withRelease_mayRelease s _ may)

end

theorem exec_xpush (sa : Reg) (s : State) : exec (.xpush sa) s = pushRequest s sa (fun s => s.stalled (.xpush sa)) id := rfl
theorem exec_xpushb (rd sa : Reg) (s : State) : exec (.xpushb rd sa) s =
    pushRequest s sa (fun s => (s.ws rd 1).done) (fun s => s.ws rd 0) := rfl
section
variable {s : State} {sa : Reg} (rd : Reg)

theorem exec_push_refused {x : Trap} {a : Word} (bad : refusalOf s sa = some (x, a)) :
    exec (.xpush sa) s = takeTrap s x a 0 ∧ exec (.xpushb rd sa) s = takeTrap s x a 0 := by
  rw [exec_xpush, exec_xpushb]
  exact ⟨pushRequest_refused bad, pushRequest_refused bad⟩
theorem exec_push_busy (good : refusalOf s sa = none) (busy : (s.chan (hartCore s.cur) (w0Channel (requestWord s sa 0))).st ≠ .idle) :
    exec (.xpush sa) s = takeTrap s .fifo 0 (w0Channel (requestWord s sa 0)) ∧
      exec (.xpushb rd sa) s = takeTrap s .fifo 0 (w0Channel (requestWord s sa 0)) := by
  rw [exec_xpush, exec_xpushb]
  exact ⟨pushRequest_busy good busy, pushRequest_busy good busy⟩
theorem exec_push_full (good : refusalOf s sa = none) (idle : (s.chan (hartCore s.cur) (w0Channel (requestWord s sa 0))).st = .idle)
    (many : 8 ≤ (s.core (hartCore s.cur)).fifo.length) :
    exec (.xpush sa) s = .next (s.setMe { s.me with wait := .stall (.xpush sa) }) ∧ exec (.xpushb rd sa) s = .next (s.ws rd 1).past := by
  rw [exec_xpush, exec_xpushb, pushRequest_full good idle many, pushRequest_full good idle many]
  exact ⟨rfl, rfl⟩

end

/-- The state in which the request that a register names is accepted. -/
def acceptedFrom (s r : State) (sa : Reg) : State := acceptRequest r (w0Channel (requestWord s sa 0)) (requestWord s sa 0)
  (requestWord s sa 1) (requestWord s sa 2) (requestWord s sa 3)
theorem exec_push_accepted {s : State} {sa : Reg} (rd : Reg) (good : refusalOf s sa = none)
    (idle : (s.chan (hartCore s.cur) (w0Channel (requestWord s sa 0))).st = .idle) (few : (s.core (hartCore s.cur)).fifo.length < 8)
    (may : s.mayRelease = true) : exec (.xpush sa) s = .next (acceptedFrom s s.released sa).pastStrong ∧
      exec (.xpushb rd sa) s = .next ((acceptedFrom s s.released sa).ws rd 0).pastStrong := by
  rw [exec_xpush, exec_xpushb, pushRequest_accepted good idle few may, pushRequest_accepted good idle few may]
  exact ⟨rfl, rfl⟩
theorem exec_xpushFifoAccept {s : State} {sa : Reg} (stalled : s.stalledHead s.cur = some (.xpush sa)) :
    exec .xpushFifoAccept s = exec (.xpush sa) s := by
  change execXpushFifoAccept s = execXpush sa s
  unfold execXpushFifoAccept
  rw [stalled]

/-- A request that is accepted: the words are staged, the channel stands last in the FIFO, nothing else moves. -/
theorem acceptRequest_spec (r : State) (ch : Nat) (w0 w1 w2 w3 : Word) :
    ((acceptRequest r ch w0 w1 w2 w3).core (hartCore r.cur)).fifo = (r.core (hartCore r.cur)).fifo ++ [ch] ∧
      (acceptRequest r ch w0 w1 w2 w3).chan (hartCore r.cur) ch = { r.chan (hartCore r.cur) ch with
        st := .queued, w0 := w0, w1 := w1, w2 := w2, w3 := w3, seq := (r.chan (hartCore r.cur) ch).seq + 1
        kind := BitVec.ofNat 4 (w0Kind w0), rwm := resetRead (w0Kind w0) (w0Tdst w0) w1, fwm := resetFill (w0Kind w0) (w0Tdst w0) w2
        guard := none, ivec := [0, 0, 0, 0, 0, 0], fva := 0, issuer := r.me.cont } := by
  unfold acceptRequest
  extract_lets core c kind u
  refine ⟨?_, ?_⟩
  · rw [State.core_setCore_self]
    exact congrArg (· ++ [ch]) (State.fifo_setChan ..)
  · rw [State.chan_setFifo]
    exact State.chan_setChan_self ..

theorem acceptRequest_frame (r : State) (ch : Nat) (w0 w1 w2 w3 : Word) : (acceptRequest r ch w0 w1 w2 w3).mem = r.mem ∧
    (acceptRequest r ch w0 w1 w2 w3).net = r.net ∧ (acceptRequest r ch w0 w1 w2 w3).clusters = r.clusters ∧
      (acceptRequest r ch w0 w1 w2 w3).dram = r.dram := ⟨rfl, rfl, rfl, rfl⟩

/-! ### The job of a channel -/

theorem chanJob_spec {s : State} {core ch k : Nat} {j : Job} (job : s.chanJob core ch = some (k, j)) :
    j.owned = true ∧ j.core = core ∧ j.ch = ch := by
  unfold State.chanJob at job
  split at job
  · next k' j' found =>
    cases job
    have named := List.find?_some found
    simpa [and_assoc] using named
  · cases job

theorem State.cores_putMailbox (s : State) (h : Hart) (p acc : Nat) (mbox : Option Word) (first : Nat) (rest : List Byte) :
    (putMailbox s h p acc mbox first rest).cores = s.cores := by
  have put (w : Word) (u : State) (off : Nat) (b : List Byte) : (if b.isEmpty then u
      else if isOA w then u.writeAt h (w.toNat + off) b else (u.writeVA h p acc (vaOf w + off) b).2).cores = u.cores := by
    split
    · rfl
    · split
      · exact State.cores_writeAt ..
      · exact (bytesOnly_writeVA h u p acc (vaOf w + off) b).keeps State.cores fun _ _ _ _ => rfl
  unfold putMailbox
  split
  · rfl
  · exact (put ..).trans (put ..)

/-- A channel's end that raises no counter: its fields, and the rest of its core. -/
theorem chanEnd_spec {s : State} {h : Hart} {j : Job} (owned : j.owned = true) {stop : Nat} (quiet : stop ≠ 1) (fcode : Nat)
    (fva : Word) (st : ChanSt) : ((chanEnd s h j stop fcode fva st).chan j.core j.ch).fcode = BitVec.ofNat 8 fcode ∧
      ((chanEnd s h j stop fcode fva st).core j.core).fifo = (s.core j.core).fifo := by
  unfold chanEnd
  extract_lets first rest u v
  have cores : v.cores = s.cores := by
    unfold v
    rw [if_neg (by simp [quiet])]
    unfold u
    split
    · exact State.cores_putMailbox ..
    · rfl
  rw [if_pos owned]
  refine ⟨?_, ?_⟩
  · rw [State.chan_setChan_self]
  · rw [State.fifo_setChan, State.core, cores]; rfl

/-! ### XRESUME and XCANCEL -/

section
variable {s : State} {ch : Reg}

/-- What XRESUME does once its hart may go on. -/
def resumed (core : Nat) (ch : Reg) (r : State) : Result :=
  if (r.chan core ch.toNat).st ≠ .faulted then r.doneStrong
  else match r.chanJob core ch.toNat with
  | none => r.doneStrong
  | some (k, j) => (resumeJob r k j).doneStrong
theorem exec_xresume (may : s.mayRelease = true) : exec (.xresume ch) s = resumed (hartCore s.cur) ch s.released := by
  have whole : exec (.xresume ch) s = withRelease s fun r => resumed (hartCore r.cur) ch r := rfl
  rw [whole, withRelease_mayRelease s _ may, State.cur_released]
theorem exec_xresume_faulted {k : Nat} {j : Job} (may : s.mayRelease = true)
    (faulted : (s.released.chan (hartCore s.cur) ch.toNat).st = .faulted)
    (job : s.released.chanJob (hartCore s.cur) ch.toNat = some (k, j)) :
    exec (.xresume ch) s = .next (resumeJob s.released k j).pastStrong := by
  rw [exec_xresume may, resumed, if_neg (fun h => h faulted), job]
  rfl
/-- What XCANCEL does once its hart may go on. -/
def cancelled (core : Nat) (ch : Reg) (r : State) : Result :=
  if r.cancelWaits core ch.toNat then r.stalled (.xcancel ch) else (cancelChan r core ch.toNat).doneStrong
theorem exec_xcancel (may : s.mayRelease = true) : exec (.xcancel ch) s = cancelled (hartCore s.cur) ch s.released := by
  have whole : exec (.xcancel ch) s = withRelease s fun r => cancelled (hartCore r.cur) ch r := rfl
  rw [whole, withRelease_mayRelease s _ may, State.cur_released]
theorem exec_xcancel_goes (may : s.mayRelease = true) (free : s.released.cancelWaits (hartCore s.cur) ch.toNat = false) :
    exec (.xcancel ch) s = .next (cancelChan s.released (hartCore s.cur) ch.toNat).pastStrong :=
  (exec_xcancel may).trans (if_neg (by rw [free]; decide))

/-! ### XSTAT and XWAIT -/

theorem exec_xstat (rd : Reg) : exec (.xstat rd ch) s = .next (s.ws rd (s.chan (hartCore s.cur) ch.toNat).statWord).past := rfl


section
variable (ends : s.mayEnd = true)
include ends

theorem exec_xwaitDone (rd : Reg) : exec (.xwaitDone ch rd) s =
    if busyChan (s.ended.chan (hartCore s.cur) ch.toNat) then s.ended.stalled (.xwaitDone ch rd)
    else (s.ended.ws rd ((s.ended.chan (hartCore s.cur) ch.toNat).lastend.setWidth 64)).doneStrong := by
  refine (withChunkEnd_mayEnd s _ ends).trans ?_
  dsimp only
  rw [State.cur_ended]
theorem exec_xwaitRead (sa : Reg) : exec (.xwaitRead ch sa) s =
    if busyChan (s.ended.chan (hartCore s.cur) ch.toNat) &&
        (s.ended.chan (hartCore s.cur) ch.toNat).rwm.toNat ≤ (s.ended.rs sa).toNat then s.ended.stalled (.xwaitRead ch sa)
    else s.ended.doneStrong := by
  refine (withChunkEnd_mayEnd s _ ends).trans ?_
  dsimp only
  rw [State.cur_ended]
theorem exec_xwaitFill (sa : Reg) : exec (.xwaitFill ch sa) s =
    if busyChan (s.ended.chan (hartCore s.cur) ch.toNat) &&
        (s.ended.chan (hartCore s.cur) ch.toNat).fwm.toNat ≤ (s.ended.rs sa).toNat then s.ended.stalled (.xwaitFill ch sa)
    else s.ended.doneStrong := by
  refine (withChunkEnd_mayEnd s _ ends).trans ?_
  dsimp only
  rw [State.cur_ended]

end

end

section
variable {r : State} {core n : Nat}

theorem cancelChan_idle (idle : (r.chan core n).st = .idle) : cancelChan r core n = r := by
  unfold cancelChan
  dsimp only
  rw [idle]
theorem cancelChan_queued (queued : (r.chan core n).st = .queued) : cancelChan r core n =
    chanEnd (r.setCore core { r.core core with fifo := (r.core core).fifo.filter fun m => m != n }) r.cur
      (Job.make core n (r.chan core n) (r.chan core n).issuer) 2 4 0 .idle := by
  unfold cancelChan
  dsimp only
  rw [queued]
  rfl
theorem cancelChan_active {k : Nat} {j : Job} (active : (r.chan core n).st = .active) (job : r.chanJob core n = some (k, j)) :
    cancelChan r core n = if 16384 ≤ k && j.cmds.isEmpty then cancelRun r k j
      else (if j.st = .waiting then releaseHold r j else r).setJob k (some { j with st := .done 2 4 0 }) := by
  unfold cancelChan
  dsimp only
  rw [active, job]
theorem cancelChan_faulted {k : Nat} {j : Job} (faulted : (r.chan core n).st = .faulted) (job : r.chanJob core n = some (k, j)) :
    cancelChan r core n = retireHart r k := by
  unfold cancelChan
  dsimp only
  rw [faulted, job]

/-- A queued request that is taken away. -/
theorem cancelled_queued (queued : (r.chan core n).st = .queued) : ((cancelChan r core n).chan core n).st = .idle ∧
    ((cancelChan r core n).chan core n).lastend = 2 ∧ ((cancelChan r core n).chan core n).fcode = 4 ∧
      n ∉ ((cancelChan r core n).core core).fifo := by
  rw [cancelChan_queued queued]
  let u := r.setCore core { r.core core with fifo := (r.core core).fifo.filter fun m => m != n }
  let j := Job.make core n (r.chan core n) (r.chan core n).issuer
  obtain ⟨st, lastend⟩ := chan_chanEnd (s := u) (h := r.cur) (j := j) rfl 2 4 0 .idle
  obtain ⟨fcode, fifo⟩ := chanEnd_spec (s := u) (h := r.cur) (j := j) rfl (stop := 2) (by decide) 4 0 .idle
  refine ⟨st, lastend, fcode, fun mem => ?_⟩
  have mem : n ∈ (u.core core).fifo := fifo ▸ mem
  rw [State.core_setCore_self] at mem
  simp at mem

/-- A job that is running ends as soon as it can. -/
theorem cancelled_active {k : Nat} {j : Job} (active : (r.chan core n).st = .active) (job : r.chanJob core n = some (k, j))
    (runs : k < 16384 ∨ j.cmds ≠ []) : (cancelChan r core n).job k = some { j with st := .done 2 4 0 } := by
  rw [cancelChan_active active job, if_neg]
  · exact State.job_setJob_self ..
  · rcases runs with low | some
    · simp [Nat.not_le.2 low]
    · simp [some]
/-- A job whose continuation a hart holds. -/
theorem cancelRun_held {k : Nat} {j : Job} {h : Hart} (held : r.hartOf j.cont.part j.rcd = some h) :
    ((cancelRun r k j).thread h).run = .retiring ∨ (cancelRun r k j).thread h = {} := by
  unfold cancelRun
  dsimp only
  rw [held]
  exact finishRetiring_run _ (by rw [State.thread_setThread_self])

end

end Sys2Proof.Machine
end

section
open Sys2Proof Sys2Proof.Machine

/-- Settles O43: requests by what refuses them, channel instructions by the state of their channel. -/
theorem copyRequests : Obligations.CopyRequests := by
  refine ⟨fun rd sa s => ?_, fun rd ch sa s ends => ?_⟩
  · intro w core ch bad idle
    refine ⟨fun x a is => exec_push_refused rd is, fun good busy => exec_push_busy rd good busy,
      fun good free many => exec_push_full rd good free many, fun good free few may => ?_,
      exec_xpushFifoAccept⟩
    intro r
    have cur : r.cur = s.cur := State.cur_released s
    obtain ⟨fifo, chan⟩ := acceptRequest_spec r ch (w 0) (w 1) (w 2) (w 3)
    rw [cur] at fifo chan
    obtain ⟨push, pushb⟩ := exec_push_accepted rd good free few may
    refine ⟨acceptRequest r ch (w 0) (w 1) (w 2) (w 3), push, pushb, fifo, ?_⟩
    rw [chan]
    exact ⟨rfl, rfl, rfl, rfl, rfl, rfl, rfl, acceptRequest_frame ..⟩
  · intro core n e c r stall x
    have cur : r.cur = s.cur := State.cur_released s
    have curE : e.cur = s.cur := State.cur_ended s
    refine ⟨fun busy => ?_, fun free => ?_, fun busy low => ?_, fun go => ?_, fun busy low => ?_, fun go => ?_, rfl, rfl, ?_,
        fun may other => ?_,
      fun may faulted k j job => ?_, fun may waits => ?_, fun may free => ⟨fun idle => ?_, fun queued => ?_, fun active k j job
          low => ?_,
        fun active k j job high some => ?_, fun active k j h job high none held => ?_, fun faulted k j job here => ?_⟩⟩
    · exact (exec_xwaitDone ends rd).trans (if_pos busy)
    · exact (exec_xwaitDone ends rd).trans (if_neg (by rw [free]; decide))
    · exact (exec_xwaitRead ends sa).trans (if_pos (by rw [busy, decide_eq_true low]; rfl))
    · refine (exec_xwaitRead ends sa).trans (if_neg ?_)
      simpa [imp_iff_not_or] using go
    · exact (exec_xwaitFill ends sa).trans (if_pos (by rw [busy, decide_eq_true low]; rfl))
    · refine (exec_xwaitFill ends sa).trans (if_neg ?_)
      simpa [imp_iff_not_or] using go
    · exact exec_xstat rd
    · exact (exec_xresume may).trans (if_pos other)
    · obtain ⟨kept, freed, idle, ⟨y, inn, rcd, acc, lin, -⟩, active, status⟩ := resumed_job (s := r) (k := k) (j := j)
      exact ⟨_, exec_xresume_faulted may faulted job, idle, freed, kept, ⟨y, inn, rcd, acc, lin⟩, fun q key => ⟨status q key, active⟩⟩
    · exact (exec_xcancel may).trans (if_pos waits)
    · exact (exec_xcancel_goes may free).trans (by rw [cancelChan_idle idle])
    · exact ⟨_, exec_xcancel_goes may free, cancelled_queued queued⟩
    · exact ⟨_, exec_xcancel_goes may free, cancelled_active active job (.inl low)⟩
    · exact ⟨_, exec_xcancel_goes may free, cancelled_active active job (.inr some)⟩
    · refine ⟨_, exec_xcancel_goes may free, ?_⟩
      rw [cancelChan_active active job, if_pos (by simp [high, none])]
      exact cancelRun_held held
    · obtain ⟨owned, isCore, isCh⟩ := chanJob_spec job
      obtain ⟨gone, -, channel⟩ := retired_job (s := r) here
      rw [isCore, isCh] at channel
      refine ⟨_, exec_xcancel_goes may free, ?_⟩
      rw [cancelChan_faulted faulted job]
      exact ⟨(channel owned).1, (channel owned).2, gone⟩

end

section
/-! SUPPORT. An indexed reduction in the hearth (R333 to R335): how it starts, and one access of it. -/

namespace Sys2Proof.Machine

theorem startIred_sameButTlb (s : State) (c : HCmd) : sameButTlb s (startIred s c).2 := by
  have walked := s.xlate_sameButTlb c.cont.part c.cont.acc (vaOf (iredDst c.cmd)) true false
  unfold startIred
  dsimp only
  split
  · exact sameButTlb_refl s
  · split
    next e => rw [e] at walked; exact walked
    next e => rw [e] at walked; exact walked
    next e => rw [e] at walked; exact walked
    next k u e =>
      rw [e] at walked
      split
      · exact walked
      · split
        · exact walked
        · split
          · split
            · exact sameButTlb_trans walked (u.xlateAt_sameButTlb (vaStack (vaOf (iredSrc c.cmd))) _ _ _ false false)
            · exact sameButTlb_trans walked (u.xlateAt_sameButTlb (vaStack (vaOf (iredSrc c.cmd))) _ _ _ false false)
          · split
            · exact sameButTlb_trans walked (u.xlateAt_sameButTlb (vaStack (vaOf (iredSrc c.cmd))) _ _ _ false false)
            · exact sameButTlb_trans walked (u.xlateAt_sameButTlb (vaStack (vaOf (iredSrc c.cmd))) _ _ _ false false)
    next e => rw [e] at walked; exact walked

/-! ### One access -/

/-- Elements of a row, and the accesses that clear the destination row. -/
def iredPer (c : HCmd) : Nat := iredLen c.cmd / addSize (iredOp c.cmd)
def iredZeros (c : HCmd) : Nat := if iredZero c.cmd then iredLen c.cmd / 4 else 0
/-- The index that the next access is for, by its place and by its value, and the element in its row. -/
def iredE (c : HCmd) : Nat := (c.pos - iredZeros c) / iredPer c
def iredK (c : HCmd) : Nat := (c.pos - iredZeros c) % iredPer c
def iredX (c : HCmd) : Nat := iredIdx c.cmd (iredE c)
/-- The row of the source that an index names. -/
def iredRow (c : HCmd) : Nat := vaOf (iredSrc c.cmd) + iredX c * iredPitch c.cmd
/-- The key of a byte of the destination row. -/
def iredTo (u : State) (c : HCmd) (st pa off : Nat) : Nat := u.heldKey c.cont.acc st (vaOf (iredDst c.cmd)) pa off true
/-- The source element of the next access, its row at `key`. -/
def iredFrom (v : State) (c : HCmd) (key : Nat) : Nat :=
  leNat ((List.range (addSize (iredOp c.cmd))).map fun b => v.byteAt
    (v.heldKey c.cont.acc (keyStack key) (iredRow c) (keyPa key) (iredK c * addSize (iredOp c.cmd) + b) false))

section
variable {u : State} {c : HCmd} {st pa : Nat}

theorem iredRun_clears (low : c.pos < iredZeros c) : iredRun u c st pa 1 =
    (u.writeAt hearthHart (iredTo u c st pa (4 * c.pos)) (leBytes 4 0), { c with pos := c.pos + 1 }) := by
  rw [iredRun]
  dsimp only
  rw [if_pos (show c.pos < if iredZero c.cmd then iredLen c.cmd / 4 else 0 from low), iredRun]
  rfl
variable (past : iredZeros c ≤ c.pos)
include past
theorem iredRun_past (n : Nat) : iredRun u c st pa (n + 1) =
    if iredN c.cmd ≤ iredE c then (u, c)
    else if iredK c = 0 && ((iredX c).testBit 31 || iredRows c.cmd ≤ iredX c) then
      iredRun u { c with pos := c.pos + iredPer c, skipped := c.skipped + 1 } st pa n
    else match u.xlate c.cont.part c.cont.acc (iredRow c) false with
      | (.ok key, v) =>
        if !v.onePage (keyStack key) c.cont.part (iredRow c) (iredLen c.cmd) then
          iredRun v { c with pos := c.pos + (iredPer c - iredK c), skipped := c.skipped + 1, fault := true } st pa n
        else iredRun (v.writeAt hearthHart (iredTo v c st pa (iredK c * addSize (iredOp c.cmd)))
          (leBytes (addSize (iredOp c.cmd)) (addElem (iredOp c.cmd)
            (v.readAt (iredTo v c st pa (iredK c * addSize (iredOp c.cmd))) (addSize (iredOp c.cmd))) (iredFrom v c key))))
          { c with pos := c.pos + 1 } st pa n
      | (.held, v) => (v, c)
      | (_, v) => iredRun v { c with pos := c.pos + (iredPer c - iredK c), skipped := c.skipped + 1, fault := true } st pa n := by
  rw [iredRun]
  dsimp only
  rw [if_neg (show ¬c.pos < (if iredZero c.cmd then iredLen c.cmd / 4 else 0) from Nat.not_lt.2 past)]
  rfl
theorem iredRun_over (ended : iredN c.cmd ≤ iredE c) : iredRun u c st pa 1 = (u, c) := by
  rw [iredRun_past past, if_pos ended]
variable (more : iredE c < iredN c.cmd)
include more
theorem iredRun_skips (first : iredK c = 0) (bad : (iredX c).testBit 31 = true ∨ iredRows c.cmd ≤ iredX c) :
    iredRun u c st pa 1 = (u, { c with pos := c.pos + iredPer c, skipped := c.skipped + 1 }) := by
  rw [iredRun_past past, if_neg (Nat.not_le.2 more), if_pos (by simpa [first] using bad), iredRun]
theorem iredRun_adds (good : iredK c = 0 → (iredX c).testBit 31 = false ∧ iredX c < iredRows c.cmd) {key : Nat} {v : State}
    (walk : u.xlate c.cont.part c.cont.acc (iredRow c) false = (.ok key, v))
    (page : v.onePage (keyStack key) c.cont.part (iredRow c) (iredLen c.cmd) = true) : iredRun u c st pa 1 =
      (v.writeAt hearthHart (iredTo v c st pa (iredK c * addSize (iredOp c.cmd)))
        (leBytes (addSize (iredOp c.cmd)) (addElem (iredOp c.cmd)
          (v.readAt (iredTo v c st pa (iredK c * addSize (iredOp c.cmd))) (addSize (iredOp c.cmd))) (iredFrom v c key))),
        { c with pos := c.pos + 1 }) := by
  rw [iredRun_past past, if_neg (Nat.not_le.2 more), if_neg, walk]
  · dsimp only
    rw [if_neg (by rw [page]; decide), iredRun]
  · intro skip
    obtain ⟨first, bad⟩ := Bool.and_eq_true_iff.1 skip
    obtain ⟨bit, low⟩ := good (of_decide_eq_true first)
    simp [bit, Nat.not_le.2 low] at bad

end

/-! ### The adder's turn -/

/-- What is left of a command after its accesses. -/
def iredLeft (sk : Nat) (c : HCmd) (r : State × HCmd) : State :=
  if iredTotal c ≤ r.2.pos then endIred r.1 r.2 (if r.2.fault then 3 else 1) (if r.2.fault then 1 else 0)
  else r.1.setHq sk ((r.1.hq sk).map fun x => if x.id == c.id then r.2 else x)

/-- A command has started, and its accesses go on from `u`. -/
def iredStarted (s u : State) (c : HCmd) (pa : Nat) : Prop :=
  (c.dpa = some pa ∧ u = s) ∨ (c.dpa = none ∧ s.iredBehind c = false ∧ startIred s c = (.go pa, u))

section
variable {s u : State} {c : HCmd} {pa : Nat} (found : (s.hq (pcStoker s.cur)).find? (fun c => c.kind == 0 && c.pc == s.cur) = some c)
include found

theorem exec_iredApply_behind (fresh : c.dpa = none) (behind : s.iredBehind c = true) : exec .iredApply s = .next s := by
  change execIredApply s = _
  unfold execIredApply
  dsimp only
  rw [found]
  exact if_pos (by rw [fresh, behind]; rfl)
/-- What a command that starts comes to. -/
def iredBegun (sk : Nat) (c : HCmd) : IredStart × State → State
  | (.wait, u) => u
  | (.refuse code, u) => endIred u c 2 code
  | (.move pc, u) => moveIred u c pc
  | (.go pa, u) => iredLeft sk c (iredRun u { c with dpa := some pa } (c.pc / 96) pa (u.arg + 1))
theorem exec_iredApply_starts (fresh : c.dpa = none) (ahead : s.iredBehind c = false) : exec .iredApply s =
    .next (iredBegun (pcStoker s.cur) c (startIred s c)) := by
  change execIredApply s = _
  unfold execIredApply
  dsimp only
  rw [found]
  dsimp only
  rw [if_neg (by rw [ahead, Bool.and_false]; decide), fresh]
  dsimp only
  rcases startIred s c with ⟨_ | code | pc | pa, u⟩
  · rfl
  · rfl
  · rfl
  · exact (apply_ite Host.Outcome.next ..).symm
theorem exec_iredApply_goes (started : iredStarted s u c pa) (one : s.arg = 0) : exec .iredApply s =
    .next (iredLeft (pcStoker s.cur) c (iredRun u { c with dpa := some pa } (s.cur / 96) pa 1)) := by
  have pc : c.pc = s.cur := by
    have named := List.find?_some found
    simp only [Bool.and_eq_true, beq_iff_eq] at named
    exact named.2
  rcases started with ⟨some, rfl⟩ | ⟨fresh, ahead, starts⟩
  · change execIredApply u = _
    unfold execIredApply
    dsimp only
    rw [found]
    dsimp only
    rw [if_neg (by rw [some]; simp), some]
    dsimp only
    rw [← pc, one]
    exact (apply_ite Host.Outcome.next ..).symm
  · have arg : u.arg = 0 := by
      have walked := startIred_sameButTlb s c
      rw [starts] at walked
      rw [walked.keeps State.arg fun _ _ => rfl, one]
    rw [exec_iredApply_starts found fresh ahead, starts, iredBegun, pc, arg]

end

/-! ### What an access leaves -/

theorem State.hq_setHq_self (s : State) (sk : Nat) (l : List HCmd) : (s.setHq sk l).hq sk = l := Tab.get_set_self ([] : List
    HCmd) s.hqueue sk l
theorem State.hq_writeAt (s : State) (h : Hart) (k sk : Nat) (b : List Byte) : (s.writeAt h k b).hq sk = s.hq sk := by
  change (s.writeAt h k b).beyond.hq sk = s.beyond.hq sk
  rw [State.beyond_writeAt]

/-- The stoker's queue holds the command as its access leaves it. -/
def iredQueued (u t : State) (sk : Nat) (c c' : HCmd) : Prop := t.hq sk = (u.hq sk).map fun y => if y.id == c.id then c' else y

section
variable {s u v : State} {c c' : HCmd} {sk : Nat}

theorem iredLeft_goes (more : c'.pos < iredTotal c) : iredLeft sk c (u, c') = u.setHq sk ((u.hq sk).map fun x => if x.id ==
    c.id then c' else x) :=
  if_neg (Nat.not_le.2 more)
/-- An access that writes `n` bytes at `k` and leaves its command in the queue. -/
theorem iredLeft_writes (more : c'.pos < iredTotal c) (mem : v.mem = s.mem) (hq : v.hq sk = u.hq sk) {k n x : Nat} (pos : 0 < n)
    (plain : ∀ i, i < n → plainKey (k + i) = true) :
    (iredLeft sk c (v.writeAt hearthHart k (leBytes n x), c')).readAt k n = x % 2 ^ (8 * n) ∧
      (∀ a, plainKey a = true → a < k ∨ k + n ≤ a →
        (iredLeft sk c (v.writeAt hearthHart k (leBytes n x), c')).byteAt a = s.byteAt a) ∧
      iredQueued u (iredLeft sk c (v.writeAt hearthHart k (leBytes n x), c')) sk c c' := by
  rw [iredLeft_goes more]
  have same (l : List HCmd) : ((v.writeAt hearthHart k (leBytes n x)).setHq sk l).mem = (v.writeAt hearthHart k (leBytes n x)).mem := rfl
  refine ⟨?_, fun a ha out => ?_, ?_⟩
  · rw [State.readAt_congr_plain (same _) plain, State.readAt_writeAt_plain v hearthHart plain pos]
  · rw [State.byteAt_congr_plain (same _) ha, State.byteAt_writeAt_outside v hearthHart (k := k) (plain 0 pos) ha
      (by rw [length_leBytes]; exact out), State.byteAt_congr_plain mem ha]
  · rw [iredQueued, State.hq_setHq_self, State.hq_writeAt, hq]

end

end Sys2Proof.Machine
end

section
open Sys2Proof Sys2Proof.Machine

/-- Settles O49: by what the command has come to, and one access at a time. -/
theorem indexedReduce : Obligations.IndexedReduce := by
  intro s u c pa found d size per zeros e k x st dst queued started
  refine ⟨exec_iredApply_behind found, fun fresh ahead => ⟨fun waits => ?_, fun code refused => ?_, fun pc moves => ?_⟩,
    fun go one => ?_⟩
  · rw [exec_iredApply_starts found fresh ahead, waits]; rfl
  · rw [exec_iredApply_starts found fresh ahead, refused]; rfl
  · rw [exec_iredApply_starts found fresh ahead, moves]; rfl
  · have goes := exec_iredApply_goes found go one
    have mem : u.mem = s.mem := by
      rcases go with ⟨-, same⟩ | ⟨-, -, starts⟩
      · rw [same]
      · have walked := (startIred_sameButTlb s c).mem
        rwa [starts] at walked
    refine ⟨fun low more plain => ?_, fun past here first bad more => ?_, fun past here good more key v walk page => ?_, fun
        ended some => ?_⟩
    · rw [iredRun_clears (c := { c with dpa := Option.some pa }) low] at goes
      obtain ⟨reads, others, queue⟩ := iredLeft_writes (u := u) (v := u) (sk := pcStoker s.cur) (c := c)
        (c' := { c with dpa := Option.some pa, pos := c.pos + 1 }) (x := 0) more mem rfl (by decide) plain
      exact ⟨_, goes, reads, others, queue⟩
    · rw [iredRun_skips (c := { c with dpa := Option.some pa }) past here first bad, iredLeft_goes more] at goes
      exact ⟨_, goes, mem, State.hq_setHq_self ..⟩
    · intro src dk plain
      have walked := u.xlate_sameButTlb c.cont.part c.cont.acc (vaOf (iredSrc d) + x * iredPitch d) false false
      rw [walk] at walked
      have dest : iredTo v { c with dpa := Option.some pa } st pa (k * size) = dk :=
        walked.keeps (fun s => s.heldKey c.cont.acc st (vaOf (iredDst d)) pa (k * size) true) fun _ _ => rfl
      have wide : 0 < size := by
        unfold size addSize
        split <;> decide
      obtain ⟨reads, others, -⟩ := iredLeft_writes (u := u) (v := v) (sk := pcStoker s.cur) (c := c) (k := dk) (n := size)
        (c' := { c with dpa := Option.some pa, pos := c.pos + 1 }) (x := addElem (iredOp d) (v.readAt dk size) src) more
        (walked.mem.trans mem) (walked.keeps (fun t => t.hq (pcStoker s.cur)) fun _ _ => rfl) wide plain
      have sum : addElem (iredOp d) (v.readAt dk size) src = addElem (iredOp d) (s.readAt dk size) src := by
        rw [State.readAt_congr_plain (walked.mem.trans mem) plain]
      rw [iredRun_adds (c := { c with dpa := Option.some pa }) past here good walk page] at goes
      have goes : exec .iredApply s = .next (iredLeft (pcStoker s.cur) c
          (v.writeAt hearthHart (iredTo v { c with dpa := Option.some pa } st pa (k * size)) (leBytes size (addElem (iredOp d)
            (v.readAt (iredTo v { c with dpa := Option.some pa } st pa (k * size)) size) src)),
            { c with dpa := Option.some pa, pos := c.pos + 1 })) := goes
      rw [dest] at goes
      exact ⟨_, goes, sum ▸ reads, others⟩
    · have past : zeros ≤ c.pos := Nat.le_trans (Nat.le_add_right _ _) ended
      have all : iredN d ≤ e := by
        rw [Nat.le_div_iff_mul_le some]
        have total : zeros + iredN d * per ≤ c.pos := ended
        omega
      rw [iredRun_over (c := { c with dpa := Option.some pa }) past all] at goes
      exact goes.trans (congrArg Host.Outcome.next (if_pos ended))

end

section
/-! SUPPORT. TTLOAD, TTARM and BAR (R386, R387, R394): what a timetable slot holds after each. -/

namespace Sys2Proof.Machine

/-! ### A home's business leaves images and states alone -/

/-- From `s` to `t` slot `p` keeps its state and its image, and no byte of memory changes. -/
structure keepsImage (p : Nat) (s t : State) : Prop where
  st : (t.port p).st = (s.port p).st
  img : (t.port p).img = (s.port p).img
  mem : t.mem = s.mem

section
variable {p : Nat} {s t u : State}

theorem keepsImage_refl (p : Nat) (s : State) : keepsImage p s s := ⟨rfl, rfl, rfl⟩
theorem keepsImage_trans (st : keepsImage p s t) (tu : keepsImage p t u) : keepsImage p s u :=
  ⟨tu.st.trans st.st, tu.img.trans st.img, tu.mem.trans st.mem⟩
theorem keepsImage_ite {c : Prop} {_ : Decidable c} (ht : keepsImage p s t) (hu : keepsImage p s u) :
    keepsImage p s (if c then t else u) := by
  split
  · exact ht
  · exact hu
theorem keepsImage_foldl {α : Type} (f : State → α → State) (each : ∀ s a, keepsImage p s (f s a)) (l : List α) (s : State) :
    keepsImage p s (l.foldl f s) := by
  induction l generalizing s with
  | nil => exact keepsImage_refl p s
  | cons a r ih => exact keepsImage_trans (each s a) (ih _)
theorem keepsImage_setPort {q : Nat} {x : Slot} (st : x.st = (s.port q).st) (img : x.img = (s.port q).img) :
    keepsImage p s (s.setPort q x) := by
  by_cases same : p = q
  · subst same
    exact ⟨by rw [State.port_setPort_self, st], by rw [State.port_setPort_self, img], rfl⟩
  · exact ⟨by rw [State.port_setPort_other _ same], by rw [State.port_setPort_other _ same], rfl⟩
theorem keepsImage_notify (s : State) (q : Nat) (n : Notice) : keepsImage p s (s.notify q n) := keepsImage_setPort rfl rfl
theorem keepsImage_arriveHome (s : State) (home party : Nat) (round : BitVec 16) : keepsImage p s (arriveHome s home party round) := by
  unfold arriveHome
  dsimp only
  split
  · exact keepsImage_setPort rfl rfl
  · exact keepsImage_ite (keepsImage_notify ..) (keepsImage_ite (keepsImage_setPort rfl rfl)
      (keepsImage_ite (keepsImage_setPort rfl rfl) (keepsImage_setPort rfl rfl)))
theorem keepsImage_decideRound (s : State) (home : Nat) (m : Image) (r : Arriving) : keepsImage p s (decideRound s home m r) := by
  have decided : keepsImage p s (s.setPort home { s.port home with
      rounds := (s.port home).rounds.filter fun q => q.round != r.round, lastr := some r.round }) := keepsImage_setPort rfl rfl
  exact keepsImage_trans decided (keepsImage_foldl _ (fun s _ => keepsImage_notify s ..) m.onDevice _)
theorem keepsImage_settle (s : State) (home n : Nat) : keepsImage p s (settle s home n) := by
  induction n generalizing s with
  | zero => exact keepsImage_refl p s
  | succ n ih =>
    rw [settle]
    split
    · exact keepsImage_refl p s
    · next m _ =>
      have rounds := keepsImage_foldl (p := p) (fun s r => decideRound s home m r) (fun s r => keepsImage_decideRound s home m r)
        ((s.port home).rounds.filter (roundReady m s.now)) s
      have emptied (u : State) : keepsImage p u (u.setPort home { u.port home with held := [] }) := keepsImage_setPort rfl rfl
      exact keepsImage_trans (keepsImage_trans rounds (keepsImage_trans (emptied _)
        (keepsImage_foldl _ (fun s (a : Nat × BitVec 16) => keepsImage_arriveHome s home a.1 a.2) _ _))) (ih _)
theorem keepsImage_beginSeries (s : State) (m : Image) : keepsImage p s (beginSeries s m) :=
  keepsImage_foldl (fun (s : State) q => s.setPort (ptyId (m.party q)) { s.port (ptyId (m.party q)) with ran := [] })
    (fun _ _ => keepsImage_setPort rfl rfl) m.onDevice s
theorem keepsImage_settleHome (s : State) (home : Nat) : keepsImage p s (s.settleHome home) := keepsImage_settle ..

end

/-- A slot that takes an image is LOADED with it. -/
theorem acceptImage_spec (s : State) (p : Nat) (m : Image) :
    ((acceptImage s p m).port p).st = .loaded ∧ ((acceptImage s p m).port p).img = some m ∧ (acceptImage s p m).mem = s.mem := by
  unfold acceptImage
  extract_lets x u v
  have mem : v.mem = s.mem := by
    unfold v u
    split <;> rfl
  have taken : v.port p = { st := .loaded, img := some m, held := x.held, rounds := x.rounds, rises := x.rises } :=
      State.port_setPort_self ..
  have begun : keepsImage p v (if ptyId (m.party 0) = p then beginSeries v m else v) := by
    split
    · exact keepsImage_beginSeries v m
    · exact keepsImage_refl p v
  have settled := keepsImage_trans begun (keepsImage_settleHome (p := p) _ p)
  exact ⟨settled.st.trans (by rw [taken]), settled.img.trans (by rw [taken]), settled.mem.trans mem⟩

/-! ### The code of an image -/

theorem imageCode_zero {here : Nat → Bool} {m : Image} {id : Nat} : imageCode here m id = 0 ↔ wellTimed here m = true ∧
    (m.parties.filter fun w => !ptyRemote w && ptyId w == id).length = 1 ∧
      ∀ e, e < m.entries.length → collides m e = false ∧ mismatched m e = false := by
  have all (f : Nat → Bool) : (List.range m.entries.length).find? f = none ↔ ∀ e, e < m.entries.length → f e = false := by
    simp [List.find?_eq_none]
  unfold imageCode
  dsimp only
  by_cases timed : wellTimed here m = true
  · rw [if_neg (by simp [timed])]
    by_cases one : (m.parties.filter fun w => !ptyRemote w && ptyId w == id).length = 1
    · rw [if_neg (fun h => h one)]
      split
      · next e found =>
        have hit := List.find?_some found
        have small := List.mem_range.1 (List.mem_of_find?_eq_some found)
        exact iff_of_false (by omega) fun ⟨_, _, clean⟩ => by simp [(clean e small).1] at hit
      · next clear =>
        split
        · next e found =>
          have hit := List.find?_some found
          have small := List.mem_range.1 (List.mem_of_find?_eq_some found)
          exact iff_of_false (by omega) fun ⟨_, _, clean⟩ => by simp [(clean e small).2] at hit
        · next matched => exact iff_of_true rfl ⟨timed, one, fun e small => ⟨(all _).1 clear e small, (all _).1 matched e small⟩⟩
    · rw [if_pos one]
      exact iff_of_false (by decide) fun h => one h.2.1
  · rw [if_pos (by simpa using timed)]
    exact iff_of_false (by decide) fun h => timed h.1

/-! ### TTLOAD -/

/-- The header of the image at a word, and what refuses it at once. -/
def ttHead (s : State) (a : Word) : Vec := bytesVec (s.ownBytes s.cur a.toNat 64)
def ttParties (h : Vec) : Nat := (h.extractLsb' 0 8).toNat
def ttEntries (h : Vec) : Nat := (h.extractLsb' 16 16).toNat
def ttSize (h : Vec) : Nat := 64 + 8 * ttParties h + 8 * ttEntries h
def ttBad (h : Vec) : Prop := ttParties h = 0 ∨ 64 < ttParties h ∨ ttEntries h = 0 ∨ 4096 < ttEntries h ∨
  (h.extractLsb' 32 32).toNat < 64 ∨ h.extractLsb' 8 8 ≠ 0#8 ∨ h.extractLsb' 64 448 ≠ 0#448
/-- The image at a word. -/
def ttImage (s : State) (a : Word) : Image :=
  { dwait := ((ttHead s a).extractLsb' 32 32).toNat, parties := ownWords s (a.toNat + 64) (ttParties (ttHead s a))
    entries := ownWords s (a.toNat + 64 + 8 * ttParties (ttHead s a)) (ttEntries (ttHead s a)) }
def ttCode (s : State) (a : Word) (p : Nat) : Nat := imageCode (s.dieIn s.myPart) (ttImage s a) p
/-- TTLOAD answers a code. -/
def ttAnswer (s : State) (rd : Reg) (code : Nat) : Result := withChunkEnd s fun u => (u.ws rd (BitVec.ofNat 64 code)).doneStrong
/-- The slot that an instruction of this hart names. -/
def slotOf (s : State) (slot : Reg) : Nat := 2 * hartCore s.cur + slot.toNat

section
variable {rd sa slot : Reg} {s : State}

theorem ttAnswer_ends (ends : s.mayEnd = true) (code : Nat) :
    ttAnswer s rd code = .next (s.ended.ws rd (BitVec.ofNat 64 code)).pastStrong := withChunkEnd_mayEnd s _ ends
theorem exec_ttload : exec (.ttload rd sa slot) s =
    if (s.rs sa).toNat % 64 ≠ 0 then misalign s (s.rs sa)
    else if !ownSpad (hartCore s.cur) (s.rs sa) 64 then addressTrap s .window (s.rs sa)
    else if (s.port (slotOf s slot)).st = .waiting || (s.port (slotOf s slot)).st = .running then ttAnswer s rd 5
    else if s.held s.cur (s.rs sa).toNat 64 then s.stalled (.ttload rd sa slot)
    else if ttParties (ttHead s (s.rs sa)) = 0 || 64 < ttParties (ttHead s (s.rs sa)) || ttEntries (ttHead s (s.rs sa)) = 0
      || 4096 < ttEntries (ttHead s (s.rs sa)) || ((ttHead s (s.rs sa)).extractLsb' 32 32).toNat < 64
      || (ttHead s (s.rs sa)).extractLsb' 8 8 ≠ 0#8 || (ttHead s (s.rs sa)).extractLsb' 64 448 ≠ 0#448 then
      ttAnswer s rd (if (s.port (slotOf s slot)).st = .armed then 5 else 1)
    else if !ownSpad (hartCore s.cur) (s.rs sa) (ttSize (ttHead s (s.rs sa))) then addressTrap s .window (s.rs sa)
    else if s.held s.cur (s.rs sa).toNat (ttSize (ttHead s (s.rs sa))) then s.stalled (.ttload rd sa slot)
    else if ttCode s (s.rs sa) (slotOf s slot) ≠ 0 then
      ttAnswer s rd (if (s.port (slotOf s slot)).st = .armed then 5 else ttCode s (s.rs sa) (slotOf s slot))
    else withChunkEnd s fun u => ((acceptImage u (slotOf s slot) (ttImage s (s.rs sa))).ws rd 0).doneStrong := rfl

theorem ttload_misaligned (bad : (s.rs sa).toNat % 64 ≠ 0) : exec (.ttload rd sa slot) s = takeTrap s .misalign (s.rs sa) 0 :=
  exec_ttload.trans (if_pos bad)
variable (aligned : (s.rs sa).toNat % 64 = 0)
include aligned
theorem ttload_foreign (foreign : ownSpad (hartCore s.cur) (s.rs sa) 64 = false) :
    exec (.ttload rd sa slot) s = addressTrap s .window (s.rs sa) := by
  rw [exec_ttload, if_neg (fun h => h aligned), foreign]
  rfl
variable (own : ownSpad (hartCore s.cur) (s.rs sa) 64 = true)
include own
theorem ttload_busy (busy : (s.port (slotOf s slot)).st = .waiting ∨ (s.port (slotOf s slot)).st = .running) :
    exec (.ttload rd sa slot) s = ttAnswer s rd 5 := by
  rw [exec_ttload, if_neg (fun h => h aligned), own, if_neg (by decide), if_pos (by simpa using busy)]
variable (idle : ¬((s.port (slotOf s slot)).st = .waiting ∨ (s.port (slotOf s slot)).st = .running))
include idle
theorem ttload_held (held : s.held s.cur (s.rs sa).toNat 64 = true) : exec (.ttload rd sa slot) s = s.stalled (.ttload rd sa slot) := by
  rw [exec_ttload, if_neg (fun h => h aligned), own, if_neg (by decide), if_neg (by simpa using idle), if_pos held]
variable (free : s.held s.cur (s.rs sa).toNat 64 = false)
include free
theorem ttload_bad (bad : ttBad (ttHead s (s.rs sa))) :
    exec (.ttload rd sa slot) s = ttAnswer s rd (if (s.port (slotOf s slot)).st = .armed then 5 else 1) := by
  rw [exec_ttload, if_neg (fun h => h aligned), own, if_neg (by decide), if_neg (by simpa using idle), if_neg (by simp [free]), if_pos]
  simpa [ttBad, or_assoc] using bad
variable (good : ¬ttBad (ttHead s (s.rs sa)))
include good
theorem ttload_good : exec (.ttload rd sa slot) s =
    if !ownSpad (hartCore s.cur) (s.rs sa) (ttSize (ttHead s (s.rs sa))) then addressTrap s .window (s.rs sa)
    else if s.held s.cur (s.rs sa).toNat (ttSize (ttHead s (s.rs sa))) then s.stalled (.ttload rd sa slot)
    else if ttCode s (s.rs sa) (slotOf s slot) ≠ 0 then
      ttAnswer s rd (if (s.port (slotOf s slot)).st = .armed then 5 else ttCode s (s.rs sa) (slotOf s slot))
    else withChunkEnd s fun u => ((acceptImage u (slotOf s slot) (ttImage s (s.rs sa))).ws rd 0).doneStrong := by
  rw [exec_ttload, if_neg (fun h => h aligned), own, if_neg (by decide), if_neg (by simpa using idle), if_neg (by simp [free]), if_neg]
  simpa [ttBad, or_assoc] using good
theorem ttload_whole (whole : ownSpad (hartCore s.cur) (s.rs sa) (ttSize (ttHead s (s.rs sa))) = true)
    (here : s.held s.cur (s.rs sa).toNat (ttSize (ttHead s (s.rs sa))) = false) : exec (.ttload rd sa slot) s =
    if ttCode s (s.rs sa) (slotOf s slot) ≠ 0 then
      ttAnswer s rd (if (s.port (slotOf s slot)).st = .armed then 5 else ttCode s (s.rs sa) (slotOf s slot))
    else withChunkEnd s fun u => ((acceptImage u (slotOf s slot) (ttImage s (s.rs sa))).ws rd 0).doneStrong := by
  rw [ttload_good aligned own idle free good, whole, if_neg (by decide), if_neg (by simp [here])]

end

/-! ### TTARM and BAR -/

/-- The round descriptor at a word. -/
def ttRound (s : State) (d : Word) : BitVec 256 := BitVec.ofNat 256 (leNat (s.ownBytes s.cur d.toNat 32))
def ttWbase (b : BitVec 256) : Word := b.extractLsb' 64 64
def ttReserved (b : BitVec 256) : Prop :=
  b.extractLsb' 17 7 ≠ 0#7 ∨ b.extractLsb' 32 32 ≠ 0#32 ∨ b.extractLsb' 147 13 ≠ 0#13 ∨ b.extractLsb' 192 64 ≠ 0#64
/-- The slot as a descriptor arms it. -/
def Slot.armedBy (x : Slot) (d : Word) (b : BitVec 256) : Slot :=
  { x with st := .armed, desc := d.toNat, round := b.extractLsb' 0 16, late := b.getLsbD 16, ci := b.extractLsb' 24 8
           wbase := (ttWbase b).toNat, voidrx := 0, spoilrx := 0, carried := false, ran := x.ran.filter (laterRound
               (b.extractLsb' 0 16)) }
def armedState (s : State) (p : Nat) (d : Word) (b : BitVec 256) : State :=
  (s.setPort p ((s.port p).armedBy d b)).writeAt portHart (d.toNat + 16) [(s.byteAt (d.toNat + 16)) &&& 0xFC]

theorem port_armedState (s : State) (p : Nat) (d : Word) (b : BitVec 256) : (armedState s p d b).port p = (s.port p).armedBy d
    b := by
  rw [armedState, State.port_of_cores (State.cores_writeAt ..), State.port_setPort_self]

section
variable {sd rd slot : Reg} {s : State} {m : Image}

theorem ttarm_blank (none : (s.port (slotOf s slot)).img = none) : exec (.ttarm sd slot) s = takeTrap s .illegal 0 0 := by
  change execTtarm sd slot s = _
  unfold execTtarm
  dsimp only
  rw [show (s.port (2 * hartCore s.cur + slot.toNat)).img = Option.none from none]
  rfl
variable (img : (s.port (slotOf s slot)).img = some m)
include img
theorem exec_ttarm : exec (.ttarm sd slot) s =
    if (s.rs sd).toNat % 32 ≠ 0 then misalign s (s.rs sd)
    else if !ownSpad (hartCore s.cur) (s.rs sd) 32 then addressTrap s .window (s.rs sd)
    else if (s.port (slotOf s slot)).st = .waiting || (s.port (slotOf s slot)).st = .running then s.stalled (.ttarm sd slot)
    else if s.held s.cur (s.rs sd).toNat 32 then s.stalled (.ttarm sd slot)
    else if (ttRound s (s.rs sd)).extractLsb' 17 7 ≠ 0#7 || (ttRound s (s.rs sd)).extractLsb' 32 32 ≠ 0#32
      || (ttRound s (s.rs sd)).extractLsb' 147 13 ≠ 0#13 || (ttRound s (s.rs sd)).extractLsb' 192 64 ≠ 0#64 then illegal s
    else if (ttWbase (ttRound s (s.rs sd))).toNat % 64 ≠ 0 then misalign s (ttWbase (ttRound s (s.rs sd)))
    else if !windowOk (hartCl s.cur) m (slotOf s slot) (ttWbase (ttRound s (s.rs sd))) then
      addressTrap s .window (ttWbase (ttRound s (s.rs sd)))
    else withChunkEnd s fun u => (armedState u (slotOf s slot) (s.rs sd) (ttRound s (s.rs sd))).doneStrong := by
  change execTtarm sd slot s = _
  unfold execTtarm
  dsimp only
  rw [show (s.port (2 * hartCore s.cur + slot.toNat)).img = some m from img]
  rfl
theorem ttarm_misaligned (bad : (s.rs sd).toNat % 32 ≠ 0) : exec (.ttarm sd slot) s = takeTrap s .misalign (s.rs sd) 0 :=
  (exec_ttarm img).trans (if_pos bad)
variable (aligned : (s.rs sd).toNat % 32 = 0)
include aligned
theorem ttarm_foreign (foreign : ownSpad (hartCore s.cur) (s.rs sd) 32 = false) :
    exec (.ttarm sd slot) s = addressTrap s .window (s.rs sd) := by
  rw [exec_ttarm img, if_neg (fun h => h aligned), foreign]
  rfl
variable (own : ownSpad (hartCore s.cur) (s.rs sd) 32 = true)
include own
theorem ttarm_stalls (waits : ((s.port (slotOf s slot)).st = .waiting ∨ (s.port (slotOf s slot)).st = .running) ∨
    s.held s.cur (s.rs sd).toNat 32 = true) : exec (.ttarm sd slot) s = s.stalled (.ttarm sd slot) := by
  rw [exec_ttarm img, if_neg (fun h => h aligned), own, if_neg (by decide)]
  by_cases busy : (s.port (slotOf s slot)).st = .waiting ∨ (s.port (slotOf s slot)).st = .running
  · rw [if_pos (by simpa using busy)]
  · rw [if_neg (by simpa using busy), if_pos (waits.resolve_left busy)]
variable (idle : ¬((s.port (slotOf s slot)).st = .waiting ∨ (s.port (slotOf s slot)).st = .running))
  (free : s.held s.cur (s.rs sd).toNat 32 = false)
include idle free
theorem ttarm_reserved (bad : ttReserved (ttRound s (s.rs sd))) : exec (.ttarm sd slot) s = takeTrap s .illegal 0 0 := by
  rw [exec_ttarm img, if_neg (fun h => h aligned), own, if_neg (by decide), if_neg (by simpa using idle), if_neg
      (by simp [free]), if_pos]
  · rfl
  · simpa [ttReserved, or_assoc] using bad
variable (good : ¬ttReserved (ttRound s (s.rs sd)))
include good
theorem ttarm_good : exec (.ttarm sd slot) s =
    if (ttWbase (ttRound s (s.rs sd))).toNat % 64 ≠ 0 then misalign s (ttWbase (ttRound s (s.rs sd)))
    else if !windowOk (hartCl s.cur) m (slotOf s slot) (ttWbase (ttRound s (s.rs sd))) then
      addressTrap s .window (ttWbase (ttRound s (s.rs sd)))
    else withChunkEnd s fun u => (armedState u (slotOf s slot) (s.rs sd) (ttRound s (s.rs sd))).doneStrong := by
  rw [exec_ttarm img, if_neg (fun h => h aligned), own, if_neg (by decide), if_neg (by simpa using idle), if_neg
      (by simp [free]), if_neg]
  simpa [ttReserved, or_assoc] using good

end

/-- BAR of a slot that is not armed. -/
theorem bar_illegal {rd slot : Reg} {s : State} (bad : (s.port (slotOf s slot)).st ≠ .armed ∨ (s.port (slotOf s slot)).img = none) :
    exec (.bar rd slot) s = takeTrap s .illegal 0 0 := by
  change execBar rd slot s = _
  unfold execBar
  dsimp only
  split
  · next m st img => exact absurd bad (by rw [not_or, not_not]; exact ⟨st, by rw [slotOf, img]; nofun⟩)
  · rfl
/-- What BAR leaves once it may go on: the arrival on its way, and a hart that waits. -/
def barred (rd slot : Reg) (p : Nat) (m : Image) (s : State) : State :=
  ((s.setPort p { s.port p with st := .waiting, notices := [] }).pushMsg s.cur (.arrival (ptyId (m.party 0)) (m.selfOf p)
      (s.port p).round)).setMe
    { s.me with wait := .bar rd slot.toNat }
theorem exec_bar {rd slot : Reg} {s : State} {m : Image} (armed : (s.port (slotOf s slot)).st = .armed)
    (img : (s.port (slotOf s slot)).img = some m) (may : s.mayRelease = true) : exec (.bar rd slot) s =
    .next ((barred rd slot (slotOf s slot) m s.released).boundary (barred rd slot (slotOf s slot) m s.released).cur) := by
  have goes : exec (.bar rd slot) s = withRelease s fun r =>
      .next ((barred rd slot (slotOf s slot) m r).boundary (barred rd slot (slotOf s slot) m r).cur) := by
    change execBar rd slot s = _
    unfold execBar
    dsimp only
    rw [show (s.port (2 * hartCore s.cur + slot.toNat)).st = .armed from armed,
      show (s.port (2 * hartCore s.cur + slot.toNat)).img = some m from img]
    rfl
  rw [goes, withRelease_mayRelease s _ may]
theorem barred_spec (rd slot : Reg) (p : Nat) (m : Image) (r : State) : ∃ q : Msg, (barred rd slot p m r).net = r.net ++ [q] ∧
    q.item = .arrival (ptyId (m.party 0)) (m.selfOf p) (r.port p).round ∧ q.hart = r.cur ∧
      ((barred rd slot p m r).port p).st = .waiting ∧ ((barred rd slot p m r).port p).notices = [] ∧
      (barred rd slot p m r).me.wait = .bar rd slot.toNat ∧ (barred rd slot p m r).me.regs = r.me.regs := by
  have port : (barred rd slot p m r).port p = { r.port p with st := .waiting, notices := [] } := State.port_setPort_self ..
  have me : (barred rd slot p m r).me = { r.me with wait := .bar rd slot.toNat } := State.me_setMe ..
  exact ⟨_, rfl, rfl, rfl, by rw [port], by rw [port], by rw [me], by rw [me]⟩

end Sys2Proof.Machine
end

section
open Sys2Proof Sys2Proof.Machine

/-- Settles O50: word by word, and what is left of the slot. -/
theorem timetablesAndRounds : Obligations.TimetablesAndRounds := by
  refine ⟨fun rd sa slot s => ?_, fun sd rd slot s => ?_⟩
  · intro i a core p st h np ne size bad m code answer busy
    refine ⟨ttload_misaligned, ttload_foreign, fun aligned own => ⟨fun waits ends => ?_, ttload_held aligned own, fun idle free
        =>
      ⟨fun wrong ends => ?_, fun good foreign => ?_, fun good whole held => ?_, fun good whole here ends => ⟨fun some => ?_,
          fun zero => ?_⟩⟩⟩,
      imageCode_zero⟩
    · exact (ttload_busy aligned own waits).trans (ttAnswer_ends ends 5)
    · exact (ttload_bad aligned own idle free wrong).trans (ttAnswer_ends ends _)
    · exact (ttload_good aligned own idle free good).trans (if_pos (congrArg not foreign))
    · exact (ttload_good aligned own idle free good).trans ((if_neg (Bool.eq_false_iff.1 (congrArg not whole))).trans (if_pos held))
    · exact ((ttload_whole aligned own idle free good whole here).trans (if_pos some)).trans (ttAnswer_ends ends _)
    · obtain ⟨loaded, img, mem⟩ := acceptImage_spec s.ended p m
      have goes := (ttload_whole (rd := rd) aligned own idle free good whole here).trans (if_neg fun some => some zero)
      exact ⟨_, goes.trans (withChunkEnd_mayEnd s _ ends), loaded, img, mem⟩
  · intro i d core p st b wbase bad busy
    refine ⟨ttarm_blank, fun m img => ⟨ttarm_misaligned img, ttarm_foreign img, ttarm_stalls img, fun aligned own idle free =>
      ⟨ttarm_reserved img aligned own idle free, fun good crooked => ?_, fun good straight foreign => ?_, fun good straight
          inside ends => ?_⟩⟩,
      bar_illegal, fun m armed img may => ?_⟩
    · exact (ttarm_good img aligned own idle free good).trans (if_pos crooked)
    · exact (ttarm_good img aligned own idle free good).trans ((if_neg fun h => h straight).trans (if_pos (congrArg not foreign)))
    · have goes := (ttarm_good img aligned own idle free good).trans ((if_neg fun h => h straight).trans (if_neg
        (Bool.eq_false_iff.1 (congrArg not inside))))
      refine ⟨_, goes.trans (withChunkEnd_mayEnd s _ ends), ?_⟩
      rw [show (armedState s.ended (slotOf s slot) (s.rs sd) (ttRound s (s.rs sd))).port p = (s.ended.port p).armedBy d b from
        port_armedState ..]
      exact ⟨rfl, rfl, fun n => List.mem_filter, rfl, rfl, rfl, rfl, rfl⟩
    · intro x
      obtain ⟨q, net, item, hart, waits, quiet, wait, regs⟩ := barred_spec rd slot p m s.released
      exact ⟨barred rd slot p m s.released, q, exec_bar armed img may, net, item, hart.trans (State.cur_released s), waits,
          quiet, wait, regs⟩

end

section
/-! SUPPORT. The kindling array (R349 to R359): who may act on it, and what each form leaves of it. -/

namespace Sys2Proof.Machine

/-! ### The array of a cluster -/

@[simp] theorem State.kindling_setKindling_self (s : State) (cl : Nat) (k : Kindling) : (s.setKindling cl k).kindling cl = k := by
  rw [State.kindling, State.setKindling, State.cluster_setCluster_self]
@[simp] theorem State.kindling_setModes (s : State) (cl : Nat) (m : BitVec 128) :
    (s.setModes cl m).kindling cl = { s.kindling cl with modes := m } := State.kindling_setKindling_self ..

/-- Once the array is claimed its owner is the hart that acts; nothing else of it changes. -/
theorem kindling_claim (s : State) :
    s.claim.kindling (hartCl s.cur) = { s.kindling (hartCl s.cur) with owner := some s.knHart } := by
  unfold State.claim
  dsimp only
  split
  · next owned => rw [← owned]
  · exact State.kindling_setKindling_self ..
theorem claim_cur (s : State) : s.claim.cur = s.cur := by
  unfold State.claim
  dsimp only
  split <;> rfl
theorem claim_now (s : State) : s.claim.now = s.now := by
  unfold State.claim
  dsimp only
  split <;> rfl

/-! ### Ownership (R349, R350) -/

/-- The hart may act on the array of its cluster, which then is its own. -/
def mayClaim (s : State) : Prop :=
  (s.kindling (hartCl s.cur)).owner = none ∨ (s.kindling (hartCl s.cur)).owner = some s.knHart

section
variable {s : State} {k : State → Result}

theorem withArray_claims (may : mayClaim s) : withArray s true k = k s := by
  unfold withArray
  rcases may with none | own
  · rw [none]; exact if_pos rfl
  · rw [own]; exact if_pos rfl
theorem withArray_owned (own : (s.kindling (hartCl s.cur)).owner = some s.knHart) (b : Bool) : withArray s b k = k s := by
  unfold withArray
  rw [own]
  exact if_pos rfl
theorem withArray_refused (other : ¬mayClaim s) (b : Bool) : withArray s b k = takeTrap s .kindle 0 0 := by
  obtain ⟨some, apart⟩ := not_or.1 other
  unfold withArray
  split
  · next h owner => exact if_neg fun same : h = s.knHart => apart (same ▸ owner)
  · next none => exact absurd none some
theorem withArray_unowned (other : (s.kindling (hartCl s.cur)).owner ≠ some s.knHart) : withArray s false k = takeTrap s
    .kindle 0 0 := by
  unfold withArray
  split
  · next h owner => exact if_neg fun same : h = s.knHart => other (same ▸ owner)
  · exact if_neg (by decide)

end

/-! ### KNWIN and KNDLY -/

section
variable {s : State} (alone : s.follows = false)
include alone

/-- KNWIN of a hart that has the array. -/
def knwinAt (w : Word) (s : State) : State :=
  (s.claim.noteLines (hartCl s.claim.cur) [lineOf (mkOA (hartCl s.claim.cur) 11 16)] s.claim.cur).setCluster (hartCl s.claim.cur)
    ((s.claim.cluster (hartCl s.claim.cur)).setCtl 18 w)
theorem exec_knwin (sw : Reg) : exec (.knwin sw) s = if 256 ≤ (s.rs sw).toNat then illegal s
    else withArray s true fun s' => withChunkEnd s' fun u => (knwinAt (s.rs sw) u).doneStrong := by
  change execKnwin sw s = _
  unfold execKnwin
  dsimp only
  rw [if_neg (by rw [alone]; decide)]
  rfl
omit alone in
theorem kindling_knwinAt (w : Word) (u : State) : (knwinAt w u).kindling (hartCl u.cur) = { u.kindling (hartCl u.cur) with
    owner := some u.knHart, w := if w.setWidth 8 = 0#8 then 1 else w.setWidth 8 } := by
  have claimed := kindling_claim u
  unfold knwinAt
  rw [claim_cur, State.kindling, State.cluster_setCluster_self]
  change { u.claim.kindling (hartCl u.cur) with w := if w.setWidth 8 = 0#8 then 1 else w.setWidth 8 } = _
  rw [claimed]
theorem knwin_claims {sw : Reg} (small : (s.rs sw).toNat < 256) (may : mayClaim s) (ends : s.mayEnd = true) :
    exec (.knwin sw) s = .next (knwinAt (s.rs sw) s.ended).pastStrong := by
  rw [exec_knwin alone, if_neg (Nat.not_le.2 small), withArray_claims may, withChunkEnd_mayEnd _ _ ends]
  rfl
theorem knwin_refused {sw : Reg} (small : (s.rs sw).toNat < 256) (other : ¬mayClaim s) : exec (.knwin sw) s = takeTrap s
    .kindle 0 0 := by
  rw [exec_knwin alone, if_neg (Nat.not_le.2 small), withArray_refused other]

/-- Rows that KNDLY loads, by their first one, and what it refuses. -/
def knFirst (r : Word) : Nat := r.toNat % 128
def knCount (r : Word) : Nat := r.toNat / 2 ^ 8 % 128 + 1
def badRows (r : Word) : Prop := 2 ^ 15 ≤ r.toNat ∨ r.getLsbD 7 = true ∨ 128 < knFirst r + knCount r
/-- A load queued behind what the array has in progress. -/
def kndlyAt (cl : Nat) (a r : Word) (s : State) : State :=
  s.claim.setKindling cl { s.claim.kindling cl with
    loads := (s.claim.kindling cl).loads ++ [{ src := a.toNat, first := knFirst r, cnt := knCount r
                                               due := (s.claim.kindling cl).loadFrom s.claim.now + knCount r }] }
theorem exec_kndly (sa sr : Reg) : exec (.kndly sa sr) s =
    if 2 ^ 15 ≤ (s.rs sr).toNat || (s.rs sr).getLsbD 7 || 128 < knFirst (s.rs sr) + knCount (s.rs sr) then illegal s
    else if (s.rs sa).toNat % 64 ≠ 0 then misalign s (s.rs sa)
    else if !inClusterSpad (hartCl s.cur) (s.rs sa) (64 * knCount (s.rs sr)) then takeTrap s .window (s.rs sa) 0
    else withArray s true fun s' => withRelease s' fun u => (kndlyAt (hartCl s.cur) (s.rs sa) (s.rs sr) u).doneStrong := by
  change execKndly sa sr s = _
  unfold execKndly
  dsimp only
  rw [if_neg (by rw [alone]; decide)]
  rfl
omit alone in
theorem kindling_kndlyAt (a r : Word) (u : State) : (kndlyAt (hartCl u.cur) a r u).kindling (hartCl u.cur) =
    { u.kindling (hartCl u.cur) with
      owner := some u.knHart
      loads := (u.kindling (hartCl u.cur)).loads ++ [{ src := a.toNat, first := knFirst r, cnt := knCount r
                                                       due := (u.kindling (hartCl u.cur)).loadFrom u.now + knCount r }] } := by
  unfold kndlyAt
  rw [State.kindling_setKindling_self, kindling_claim, claim_now]
  rfl

section
variable {sa sr : Reg}

theorem kndly_badRows (bad : badRows (s.rs sr)) : exec (.kndly sa sr) s = takeTrap s .illegal 0 0 := by
  rw [exec_kndly alone, if_pos (by simpa [badRows, or_assoc] using bad)]
  rfl
variable (good : ¬badRows (s.rs sr))
include good
theorem kndly_misaligned (crooked : (s.rs sa).toNat % 64 ≠ 0) : exec (.kndly sa sr) s = takeTrap s .misalign (s.rs sa) 0 := by
  rw [exec_kndly alone, if_neg (by simpa [badRows, or_assoc] using good), if_pos crooked]
  rfl
variable (aligned : (s.rs sa).toNat % 64 = 0)
include aligned
theorem kndly_foreign (foreign : inClusterSpad (hartCl s.cur) (s.rs sa) (64 * knCount (s.rs sr)) = false) :
    exec (.kndly sa sr) s = takeTrap s .window (s.rs sa) 0 := by
  rw [exec_kndly alone, if_neg (by simpa [badRows, or_assoc] using good), if_neg (fun h => h aligned), foreign]
  rfl
variable (own : inClusterSpad (hartCl s.cur) (s.rs sa) (64 * knCount (s.rs sr)) = true)
include own
theorem kndly_good : exec (.kndly sa sr) s =
    withArray s true fun s' => withRelease s' fun u => (kndlyAt (hartCl s.cur) (s.rs sa) (s.rs sr) u).doneStrong := by
  rw [exec_kndly alone, if_neg (by simpa [badRows, or_assoc] using good), if_neg (fun h => h aligned), own]
  rfl

end

end

/-! ### KNMODE and KNLAUNCH -/

section
variable {s u : State} {vals : List (Reg × Vec)}

/-- A form of a hart that has the array, once its streams are popped. -/
theorem withPops_popped {i : Instr} {srcs : List Reg} {k : State → (Reg → Vec) → Result} (popped : popAll s srcs = .ok vals u) :
    withPops s i srcs k = k u (delivered s vals) := by
  unfold withPops
  rw [popped]
  rfl

/-- The modes of a hart that has the array, or their place behind the loads still queued. -/
def knmodeAt (m : BitVec 128) (s : State) : State :=
  match (s.claim.kindling (hartCl s.claim.cur)).loads.getLast? with
  | none => s.claim.setModes (hartCl s.claim.cur) m
  | some l => s.claim.setKindling (hartCl s.claim.cur) { s.claim.kindling (hartCl s.claim.cur) with
      loads := (s.claim.kindling (hartCl s.claim.cur)).loads ++
          [{ src := 0, first := 0, cnt := 0, due := l.due, modes := some m }] }
def knmodeBody (vm : Reg) (s : State) : Result :=
  withChunkEnd s fun s => withPops s (.knmode vm) [vm] fun s v =>
    if s.follows then s.doneCommit else (knmodeAt ((v vm).setWidth 128) s).doneCommit
theorem exec_knmode {vm : Reg} (alone : s.follows = false) (good : s.me.regs.against [vm] none = none) :
    exec (.knmode vm) s = withArray s true (knmodeBody vm) := by
  have whole : exec (.knmode vm) s = withDir s [vm] none fun s =>
      if s.follows then knmodeBody vm s else withArray s true (knmodeBody vm) := rfl
  rw [whole, withDir_goes good rfl, if_neg (by rw [alone]; decide)]
theorem knmodeBody_popped {vm : Reg} (ends : s.mayEnd = true) (popped : popAll s.ended [vm] = .ok vals u) (alone : u.follows = false) :
    knmodeBody vm s = .next (knmodeAt ((delivered s.ended vals vm).setWidth 128) u).pastCommit := by
  unfold knmodeBody
  rw [withChunkEnd_mayEnd _ _ ends, withPops_popped popped, if_neg (by rw [alone]; decide)]
  rfl
theorem kindling_knmodeAt (m : BitVec 128) (u : State) :
    ((u.kindling (hartCl u.cur)).loads = [] → (knmodeAt m u).kindling (hartCl u.cur) =
      { u.kindling (hartCl u.cur) with owner := some u.knHart, modes := m }) ∧
    ∀ l, (u.kindling (hartCl u.cur)).loads.getLast? = some l → (knmodeAt m u).kindling (hartCl u.cur) =
      { u.kindling (hartCl u.cur) with
        owner := some u.knHart
        loads := (u.kindling (hartCl u.cur)).loads ++ [{ src := 0, first := 0, cnt := 0, due := l.due, modes := some m }]
            } := by
  have claimed := kindling_claim u
  refine ⟨fun none => ?_, fun l last => ?_⟩
  · have last : (u.kindling (hartCl u.cur)).loads.getLast? = Option.none := by rw [none]; rfl
    unfold knmodeAt
    rw [claim_cur, claimed]
    dsimp only
    rw [last]
    dsimp only
    rw [State.kindling_setModes, claimed]
  · unfold knmodeAt
    rw [claim_cur, claimed]
    dsimp only
    rw [last]
    exact State.kindling_setKindling_self ..

/-- The window that KNLAUNCH starts. -/
def knlaunchAt (a b : Vec) (s : State) : State :=
  s.claim.setKindling (hartCl s.claim.cur) { s.claim.kindling (hartCl s.claim.cur) with
    win := some { due := s.claim.now + ((s.claim.kindling (hartCl s.claim.cur)).w.toNat + 7) / 8 + 3
                  y := (evalWindow (s.claim.kindling (hartCl s.claim.cur)) a b (s.claim.kindling (hartCl
                      s.claim.cur)).w.toNat).1
                  f := (evalWindow (s.claim.kindling (hartCl s.claim.cur)) a b (s.claim.kindling (hartCl
                      s.claim.cur)).w.toNat).2 }
    lastw := (s.claim.kindling (hartCl s.claim.cur)).w }
def knlaunchBody (va vb : Reg) (s : State) : Result :=
  if !s.follows && (s.kindling (hartCl s.cur)).busy then s.stalled (.knlaunch va vb)
  else withChunkEnd s fun s => withPops s (.knlaunch va vb) [va, vb] fun s v =>
    if s.follows then s.doneCommit else (knlaunchAt (v va) (v vb) s).doneCommit
theorem exec_knlaunch {va vb : Reg} (alone : s.follows = false) (good : s.me.regs.against [va, vb] none = none) :
    exec (.knlaunch va vb) s = withArray s true (knlaunchBody va vb) := by
  have whole : exec (.knlaunch va vb) s = withDir s [va, vb] none fun s =>
      if s.follows then knlaunchBody va vb s else withArray s true (knlaunchBody va vb) := rfl
  rw [whole, withDir_goes good rfl, if_neg (by rw [alone]; decide)]
theorem knlaunchBody_busy {va vb : Reg} (alone : s.follows = false) (busy : (s.kindling (hartCl s.cur)).busy = true) :
    knlaunchBody va vb s = s.stalled (.knlaunch va vb) := if_pos (by rw [alone, busy]; rfl)
theorem knlaunchBody_popped {va vb : Reg} (free : (s.kindling (hartCl s.cur)).busy = false) (ends : s.mayEnd = true)
    (popped : popAll s.ended [va, vb] = .ok vals u) (alone : u.follows = false) :
    knlaunchBody va vb s = .next (knlaunchAt (delivered s.ended vals va) (delivered s.ended vals vb) u).pastCommit := by
  unfold knlaunchBody
  rw [if_neg (by rw [free]; simp), withChunkEnd_mayEnd _ _ ends, withPops_popped popped, if_neg (by rw [alone]; decide)]
  rfl
theorem kindling_knlaunchAt (a b : Vec) (u : State) : (knlaunchAt a b u).kindling (hartCl u.cur) =
    { u.kindling (hartCl u.cur) with
      owner := some u.knHart
      win := some { due := u.now + ((u.kindling (hartCl u.cur)).w.toNat + 7) / 8 + 3
                    y := (evalWindow { u.kindling (hartCl u.cur) with owner := some u.knHart } a b (u.kindling (hartCl
                        u.cur)).w.toNat).1
                    f := (evalWindow { u.kindling (hartCl u.cur) with owner := some u.knHart } a b (u.kindling (hartCl
                        u.cur)).w.toNat).2 }
      lastw := (u.kindling (hartCl u.cur)).w } := by
  unfold knlaunchAt
  rw [claim_cur, State.kindling_setKindling_self, kindling_claim, claim_now]

end

/-! ### KNRESET -/

section
variable {s : State} (alone : s.follows = false)
include alone

/-- The array that its owner gives back. -/
def knresetAt (cl : Nat) (s : State) : State :=
  (s.noteLines cl (knLines cl) s.cur).setKindling cl (knFree (s.kindling cl))
theorem knreset_free (none : (s.kindling (hartCl s.cur)).owner = none) (ends : s.mayEnd = true) :
    exec .knreset s = .next s.ended.pastStrong := by
  change execKnreset s = _
  unfold execKnreset
  dsimp only
  rw [if_neg (by rw [alone]; decide), none]
  exact withChunkEnd_mayEnd _ _ ends
theorem knreset_owned {h : Hart} (some : (s.kindling (hartCl s.cur)).owner = some h) : exec .knreset s =
    withArray s false fun s' => withChunkEnd s' fun u => (knresetAt (hartCl s.cur) u).doneStrong := by
  change execKnreset s = _
  unfold execKnreset
  dsimp only
  rw [if_neg (by rw [alone]; decide), some]
  rfl

end

/-! ### Captures and KNSTAT -/

section
variable {s : State} {i : Instr} {first : Bool} {vd ve : Reg}

/-- The state in which both halves of a capture stand in the log of the chunk. -/
def halvesTaken (s : State) (key : Nat) (a b : Vec) (replay : List (Nat × Vec)) : State :=
  s.setMe { s.me with replay := replay, chunk := { s.me.chunk with log := s.me.chunk.log ++ [(key, a), (key, b)] } }
theorem halvesTaken_spec (s : State) (key : Nat) (a b : Vec) (replay : List (Nat × Vec)) :
    (halvesTaken s key a b replay).me.regs = s.me.regs ∧ (halvesTaken s key a b replay).me.replay = replay ∧
      halvesTaken s key a b replay = { s with threads := (halvesTaken s key a b replay).threads } := by
  refine ⟨?_, ?_, rfl⟩
  · rw [halvesTaken, State.me_setMe]
  · rw [halvesTaken, State.me_setMe]
/-- The half that a capture reads. -/
def capturedNow (first : Bool) (s : State) : BitVec 1024 :=
  if first then (s.kindling (hartCl s.cur)).f else (s.kindling (hartCl s.cur)).y
def captureAt (first : Bool) (vd ve : Reg) (s : State) : Result :=
  (((captureHalves s (knLogKey first) (capturedNow first s)).2.putV vd (captureHalves s (knLogKey first) (capturedNow first s)).1.1).putV ve
    (captureHalves s (knLogKey first) (capturedNow first s)).1.2).done

variable (fitD : s.me.regs.against [] (some vd) = none) (fitE : s.me.regs.against [] (some ve) = none)
  (roomD : s.pushWaits (some vd) = false) (roomE : s.pushWaits (some ve) = false)
include fitD fitE roomD roomE
theorem capture_eq : capture s i first vd ve =
    if s.me.replay.any (fun e => e.1 == knLogKey first) then captureAt first vd ve s
    else withArray s false fun s => if (s.kindling (hartCl s.cur)).win.isSome then s.stalled i else captureAt first vd ve s := by
  unfold capture
  rw [withDir_goes fitD roomD, withDir_goes fitE roomE]
  rfl

/-- What a squashed chunk has not taken is taken of the array, by its owner. -/
theorem capture_fresh (fresh : ∀ e ∈ s.me.replay, e.1 ≠ knLogKey first) : capture s i first vd ve =
    withArray s false fun s => if (s.kindling (hartCl s.cur)).win.isSome then s.stalled i else captureAt first vd ve s := by
  rw [capture_eq fitD fitE roomD roomE, if_neg]
  rw [Bool.not_eq_true, List.any_eq_false]
  exact fun e mem => by simpa using fresh e mem
omit fitD fitE roomD roomE in
theorem captureAt_fresh (fresh : ∀ e ∈ s.me.replay, e.1 ≠ knLogKey first) : captureAt first vd ve s =
    .next (((halvesTaken s (knLogKey first) ((capturedNow first s).setWidth 512) ((capturedNow first s).extractLsb' 512 512)
        s.me.replay).putV vd
      ((capturedNow first s).setWidth 512)).putV ve ((capturedNow first s).extractLsb' 512 512)).past := by
  have none : s.me.replay.find? (fun e => e.1 == knLogKey first) = none :=
    List.find?_eq_none.2 fun e mem => by simpa using fresh e mem
  unfold captureAt captureHalves
  dsimp only
  rw [none]
  rfl
/-- What it has taken it takes again, whoever owns the array. -/
theorem capture_again {a b : Vec} {l : List (Nat × Vec)} (log : s.me.replay = (knLogKey first, a) :: (knLogKey first, b) :: l) :
    capture s i first vd ve = .next (((halvesTaken s (knLogKey first) a b l).putV vd a).putV ve b).past := by
  have goes : capture s i first vd ve = captureAt first vd ve s := by
    rw [capture_eq fitD fitE roomD roomE, if_pos]
    rw [log]
    simp
  rw [goes]
  unfold captureAt captureHalves
  simp only [log, List.find?_cons, beq_self_eq_true, List.erase_cons_head]
  rfl

end

theorem exec_knstat {rd : Reg} {s : State} (ends : s.mayEnd = true) (alone : s.ended.me.gang = none) : exec (.knstat rd) s =
    .next (s.ended.ws rd ((s.ended.kindling (hartCl s.cur)).stat s.ended.knHart)).pastStrong := by
  have whole : exec (.knstat rd) s = withChunkEnd s fun u =>
      match u.me.gang.bind (fun g => (u.gang g).map (fun x => (g, x))) with
      | none => (u.ws rd ((u.kindling (hartCl u.cur)).stat u.knHart)).doneStrong
      | some (g, x) =>
        if u.follows then (u.ws rd x.vals.1).doneStrong
        else ((u.setGang g (some { x with vals := ((u.kindling (hartCl u.cur)).stat u.knHart, 0) })).ws rd
          ((u.kindling (hartCl u.cur)).stat u.knHart)).doneStrong := rfl
  rw [whole, withChunkEnd_mayEnd _ _ ends, alone, State.cur_ended]
  rfl

/-! ### Events -/

theorem exec_kindlingCapture {s : State} {w : KnWin} (win : (s.kindling s.cur).win = some w) (due : w.due ≤ s.now) : exec
    .kindlingCapture s =
    .next ((s.noteLines s.cur [lineOf (mkOA s.cur 9 0x2080), lineOf (mkOA s.cur 9 0x20C0)] deviceHart).setKindling s.cur
      { s.kindling s.cur with win := none, y := w.y, f := w.f, capvalid := true, nwin := (s.kindling s.cur).nwin + 1 }) := by
  change execKindlingCapture s = _
  unfold execKindlingCapture
  dsimp only
  rw [win]
  exact if_neg (Nat.not_lt.2 due)

theorem byteAt_noteLines (s : State) (a : Nat) (l : List Nat) (h : Hart) (k : Nat) : (s.noteLines a l h).byteAt k = s.byteAt k := by
  obtain ⟨seen, same⟩ := onlySeen_noteLines s a l h (coreHart (oaCl k) (oaRegion k) ((oaOff k - 0x1000000) / 0x10000))
  unfold State.byteAt
  dsimp only
  rw [same]
  rfl
theorem bytesAt_noteLines (s : State) (a : Nat) (l : List Nat) (h : Hart) (k n : Nat) : (s.noteLines a l h).bytesAt k n =
    s.bytesAt k n :=
  List.map_congr_left fun _ _ => byteAt_noteLines ..

/-- The array with the next row of its oldest load written, and its loads. -/
def rowWritten (s : State) (l : KnLoad) : Kindling :=
  { s.kindling s.cur with delay := Tab.set (BitVec.allOnes 512) (s.kindling s.cur).delay (l.first + l.row)
                            (bytesVec (s.bytesAt (l.src + 64 * l.row) 64)) }
theorem exec_kndlyLoadDone {s : State} {l : KnLoad} {r : List KnLoad} (loads : (s.kindling s.cur).loads = l :: r)
    (idle : (s.kindling s.cur).win = none) (due : l.due + l.row + 1 ≤ s.now + l.cnt)
    (free : s.guarded (l.src + 64 * l.row) 64 = false) : ∃ u : State, u.kindling s.cur = rowWritten s l ∧ exec .kndlyLoadDone s
        =
      .next (if l.row + 1 < l.cnt then u.setKindling s.cur { u.kindling s.cur with loads := { l with row := l.row + 1 } :: r }
        else takeModes u s.cur r) := by
  refine ⟨(s.noteLines s.cur [lineOf (mkOA s.cur 9 (64 * (l.first + l.row)))] deviceHart).setKindling s.cur (rowWritten s l),
    State.kindling_setKindling_self .., ?_⟩
  change execKndlyLoadDone s = _
  unfold execKndlyLoadDone
  dsimp only
  split
  · next none => cases loads.symm.trans none
  · next l' r' found =>
    obtain ⟨rfl, rfl⟩ := List.cons.inj (loads.symm.trans found)
    rw [if_neg (by simp [idle, free]; omega), bytesAt_noteLines]
    rfl
theorem takeModes_rest {u : State} {cl : Nat} {r : List KnLoad} (plain : ∀ x, r.head? = some x → x.modes = none) :
    (takeModes u cl r).kindling cl = { u.kindling cl with loads := r } := by
  cases r with
  | nil => exact State.kindling_setKindling_self ..
  | cons x q =>
    rw [takeModes, plain x rfl]
    exact State.kindling_setKindling_self ..
theorem takeModes_one {u : State} {cl : Nat} {x : KnLoad} {q : List KnLoad} {m : BitVec 128} (modes : x.modes = some m)
    (plain : ∀ y, q.head? = some y → y.modes = none) :
    (takeModes u cl (x :: q)).kindling cl = { u.kindling cl with modes := m, loads := q } := by
  rw [takeModes, modes]
  dsimp only
  rw [takeModes_rest plain, State.kindling_setModes]

end Sys2Proof.Machine
end

section
open Sys2Proof Sys2Proof.Machine

/-- Settles O42: each form by who owns the array, then the events. -/
theorem kindlingArray : Obligations.KindlingArray := by
  refine ⟨fun sw sa sr va vb s alone => ?_, fun vd ve rd first s => ?_⟩
  · intro cl own may w r a first cnt badRows
    refine ⟨fun large => (exec_knwin alone sw).trans (if_pos large), fun small other => knwin_refused alone small other,
      fun small mine ends => ⟨_, knwin_claims alone small mine ends, ?_⟩, fun bad => kndly_badRows alone bad,
      fun good crooked => kndly_misaligned alone good crooked, fun good aligned foreign => kndly_foreign alone good aligned
          foreign,
      fun good aligned inside => ⟨fun other => ?_, fun mine releases => ?_⟩, fun good => ⟨fun other => ?_, fun mine ends vals u
          popped alone' => ?_⟩,
      fun good => ⟨fun other => ?_, fun mine busy => ?_, fun mine free ends vals u popped alone' => ?_⟩,
      fun none ends => knreset_free alone none ends, fun some other => ?_, fun mine ends => ?_⟩
    · have kept := kindling_knwinAt w s.ended
      rw [State.cur_ended] at kept
      have zero : w.setWidth 8 = 0#8 ↔ w = 0 := by
        rw [← BitVec.toNat_inj, ← BitVec.toNat_inj, BitVec.toNat_setWidth, Nat.mod_eq_of_lt small]
        rfl
      rw [kept]
      simp only [zero]
      rfl
    · exact (kndly_good alone good aligned inside).trans (withArray_refused other true)
    · have kept := kindling_kndlyAt a r s.released
      rw [State.cur_released] at kept
      have goes := (kndly_good alone good aligned inside).trans (withArray_claims mine)
      exact ⟨_, goes.trans (withRelease_mayRelease s _ releases), kept⟩
    · exact (exec_knmode alone good).trans (withArray_refused other true)
    · have goes := ((exec_knmode alone good).trans (withArray_claims mine)).trans (knmodeBody_popped ends popped alone')
      obtain ⟨none, last⟩ := kindling_knmodeAt ((delivered s.ended vals va).setWidth 128) u
      rw [cur_popAll popped, State.cur_ended] at none last
      exact ⟨_, goes, none, last⟩
    · exact (exec_knlaunch alone good).trans (withArray_refused other true)
    · exact ((exec_knlaunch alone good).trans (withArray_claims mine)).trans (knlaunchBody_busy alone busy)
    · have goes := ((exec_knlaunch alone good).trans (withArray_claims mine)).trans (knlaunchBody_popped free ends popped alone')
      have kept := kindling_knlaunchAt (delivered s.ended vals va) (delivered s.ended vals vb) u
      rw [cur_popAll popped, State.cur_ended] at kept
      exact ⟨_, goes, kept⟩
    · obtain ⟨h, owner⟩ := Option.ne_none_iff_exists'.1 some
      exact (knreset_owned alone owner).trans (withArray_unowned other)
    · have goes := (knreset_owned alone mine).trans (withArray_owned mine false)
      exact ⟨_, goes.trans (withChunkEnd_mayEnd s _ ends), State.kindling_setKindling_self ..⟩
  · intro cl k i now
    refine ⟨fun fitD fitE roomD roomE => ⟨fun fresh => ⟨fun other => ?_, fun mine busy => ?_, fun mine idle => ?_⟩, fun a b l log => ?_⟩,
      fun ends free => exec_knstat ends free, fun w win due => ⟨_, exec_kindlingCapture win due,
          State.kindling_setKindling_self ..⟩,
      fun l r loads idle due free => ?_⟩
    · have whole : exec i s = capture s i first vd ve := by cases first <;> rfl
      rw [whole, capture_fresh fitD fitE roomD roomE fresh]
      exact withArray_unowned other
    · have whole : exec i s = capture s i first vd ve := by cases first <;> rfl
      rw [whole, capture_fresh fitD fitE roomD roomE fresh, withArray_owned mine]
      exact if_pos (Option.isSome_iff_ne_none.2 busy)
    · have whole : exec i s = capture s i first vd ve := by cases first <;> rfl
      rw [whole, capture_fresh fitD fitE roomD roomE fresh, withArray_owned mine, if_neg
          (by rw [show (s.kindling _).win = none from idle]; decide),
        captureAt_fresh fresh]
      obtain ⟨regs, -, rest⟩ := halvesTaken_spec s (knLogKey first) (now.setWidth 512) (now.extractLsb' 512 512) s.me.replay
      exact ⟨_, regs, rest, rfl⟩
    · have whole : exec i s = capture s i first vd ve := by cases first <;> rfl
      obtain ⟨regs, replay, rest⟩ := halvesTaken_spec s (knLogKey first) a b l
      exact ⟨_, regs, replay, rest, whole.trans (capture_again fitD fitE roomD roomE log)⟩
    · intro k d
      obtain ⟨u, row, goes⟩ := exec_kndlyLoadDone loads idle due free
      refine ⟨_, goes, fun more => ?_, fun done plain => ?_, fun done x m q rest modes plain => ?_⟩
      · rw [if_pos more, State.kindling_setKindling_self, row, rowWritten]
      · rw [if_neg (Nat.not_lt.2 done), takeModes_rest plain, row, rowWritten]
      · rw [if_neg (Nat.not_lt.2 done), rest, takeModes_one modes plain, row, rowWritten]

end

section
/-! SUPPORT. Streams (R248 to R256): descriptors, skips, pushes, pops and read-ahead. -/

namespace Sys2Proof.Machine

/-! ### Bytes of a vector -/

/-- Byte `i` of the number that a list of bytes stands for. -/
theorem leNat_byte {l : List Byte} {i : Nat} (inside : i < l.length) : leNat l / 2 ^ (8 * i) % 2 ^ 8 = (l[i]).toNat := by
  induction l generalizing i with
  | nil => cases inside
  | cons b r ih =>
    cases i with
    | zero =>
      have small : b.toNat < 2 ^ 8 := b.isLt
      simp only [leNat, Nat.mul_zero, Nat.pow_zero, Nat.div_one, List.getElem_cons_zero]
      omega
    | succ i =>
      have next := ih (i := i) (Nat.lt_of_succ_lt_succ inside)
      have small : b.toNat < 256 := b.isLt
      have shift : 2 ^ (8 * (i + 1)) = 256 * 2 ^ (8 * i) := by rw [Nat.mul_add, Nat.pow_add, Nat.mul_comm]
      rw [leNat, shift, ← Nat.div_div_eq_div_mul, show (b.toNat + 256 * leNat r) / 256 = leNat r by omega,
          List.getElem_cons_succ]
      exact next
theorem two_pow_split {a b c : Nat} (sum : a = b + c) : 2 ^ a = 2 ^ b * 2 ^ c := by rw [sum, Nat.pow_add]
theorem bytesVec_byte {l : List Byte} {i : Nat} (inside : i < l.length) (fits : i < 64) : (bytesVec l).extractLsb' (8 * i) 8 =
    l[i] := by
  refine BitVec.eq_of_toNat_eq ?_
  rw [← leNat_byte inside, bytesVec, BitVec.extractLsb'_toNat, BitVec.toNat_ofNat, Nat.shiftRight_eq_div_pow]
  have split : (2 : Nat) ^ 512 = 2 ^ (8 * i) * 2 ^ (512 - 8 * i) := two_pow_split (by omega)
  have low : (2 : Nat) ^ (512 - 8 * i) = 2 ^ 8 * 2 ^ (512 - 8 * i - 8) := two_pow_split (by omega)
  rw [split, Nat.mod_mul_right_div_self, low, Nat.mod_mul_right_mod]
theorem seen_byte (b : Binding) (k : Nat) (x : Vec) {i : Nat} (fits : i < 64) :
    (b.seen k x).extractLsb' (8 * i) 8 = (storedByte b.own (k + i)).getD (x.extractLsb' (8 * i) 8) := by
  rw [Binding.seen, bytesVec_byte (by simpa using fits) fits]
  simp

/-! ### Bindings -/

theorem binding_setBinding (r : Regs) {n : Reg} (high : 24 ≤ n.toNat) (b : Option Binding) : (r.setBinding n b).binding n = b := by
  rw [Regs.binding, if_pos high]
  exact Tab.get_set_self (none : Option Binding) _ _ b
theorem binding_high {r : Regs} {n : Reg} {b : Binding} (bound : r.binding n = some b) : 24 ≤ n.toNat := by
  by_contra low
  rw [Regs.binding, if_neg low] at bound
  cases bound

/-! ### SBIND -/

/-- The state in which a descriptor has been read. -/
def descRead (s : State) (a : Word) : State := if arbOfKey a.toNat = arbOf s.cur then s.noteRead s.cur a.toNat 64 else s
/-- The descriptor at a word. -/
def descAt (s : State) (a : Word) : Vec := bytesVec (s.ownBytes s.cur a.toNat 64)

theorem descRead_cur (s : State) (a : Word) : (descRead s a).cur = s.cur := by
  unfold descRead; split <;> rfl
theorem channelBound_descRead (s : State) (a : Word) (core ch : Nat) : (descRead s a).channelBound core ch = s.channelBound
    core ch := by
  have streams (k : Hart) : ((descRead s a).thread k).regs.streams = (s.thread k).regs.streams := by
    unfold descRead State.noteRead
    split
    · dsimp only
      rw [State.thread_setThread]
      split
      · next here => rw [here]
      · rfl
    · rfl
  have cores : (descRead s a).cores = s.cores := by
    unfold descRead; split <;> rfl
  unfold State.channelBound
  simp only [streams, descRead_cur, State.core, cores]

/-- What makes a descriptor ILLEGAL, and what misaligns it. -/
def descWrong (s : State) (d : Vec) : Prop :=
  descIllegal d = true ∨ (descKind d = true ∧ s.channelBound (hartCore s.cur) (descChannel d) = true)
def descBase (d : Vec) : Word := d.extractLsb' 0 64
def descCrooked (d : Vec) : Prop :=
  (descBase d).toNat % 64 ≠ 0 ∨ ∃ x ∈ (descBounds d).zip (descStrides d), 1 < x.1 ∧ x.2 % 64 ≠ 0
/-- The binding that a descriptor gives, with the stores buffered then. -/
def bindingOfDesc (d : Vec) (stores : List WStore) : Binding :=
  { arrival := descKind d, write := descWrite d, channel := descChannel d, base := (descBase d).toNat
    bounds := descBounds d, strides := descStrides d, pos := 0, count := 0, fetched := []
    own := if descKind d then [] else stores }

section
variable {s u : State} {v sd : Reg} {d : Vec}

theorem bindTo_wrong (wrong : descWrong u d) : bindTo u v d = takeTrap u .illegal 0 0 := by
  unfold bindTo
  dsimp only
  rw [if_pos (by simpa [descWrong] using wrong)]
  rfl
variable (good : ¬descWrong u d)
include good
theorem bindTo_good : bindTo u v d = if !descKind d && ((descBase d).toNat % 64 ≠ 0 ||
      (((descBounds d).zip (descStrides d)).any fun x => decide (1 < x.1) && x.2 % 64 != 0)) then misalign u (descBase d)
    else if !descKind d && !patternIn (hartCore u.cur) (descBase d) d then takeTrap u .window (descBase d) 0
    else (u.setRegs (u.me.regs.setBinding v (some (bindingOfDesc d u.me.chunk.stores)))).done := by
  unfold bindTo
  dsimp only
  rw [if_neg (by simpa [descWrong] using good)]
  rfl
omit good in
theorem crooked_iff : ((descBase d).toNat % 64 ≠ 0 ||
    (((descBounds d).zip (descStrides d)).any fun x => decide (1 < x.1) && x.2 % 64 != 0)) = true ↔ descCrooked d := by
  simp [descCrooked]
theorem bindTo_crooked (affine : descKind d = false) (crooked : descCrooked d) : bindTo u v d = takeTrap u .misalign (descBase d) 0 := by
  rw [bindTo_good good, affine, crooked_iff.2 crooked]
  rfl
theorem bindTo_outside (affine : descKind d = false) (straight : ¬descCrooked d)
    (outside : patternIn (hartCore u.cur) (descBase d) d = false) : bindTo u v d = takeTrap u .window (descBase d) 0 := by
  rw [bindTo_good good, affine, Bool.eq_false_iff.2 fun h => straight (crooked_iff.1 h), outside]
  rfl
theorem bindTo_binds (fits : descKind d = true ∨ ¬descCrooked d ∧ patternIn (hartCore u.cur) (descBase d) d = true) :
    bindTo u v d = .next (u.setRegs (u.me.regs.setBinding v (some (bindingOfDesc d u.me.chunk.stores)))).past := by
  rw [bindTo_good good]
  rcases fits with arrival | ⟨straight, inside⟩
  · rw [arrival]
    rfl
  · rw [Bool.eq_false_iff.2 fun h => straight (crooked_iff.1 h), inside, Bool.and_false, Bool.not_true, Bool.and_false]
    rfl

end

section
variable {s : State} {v sd : Reg}

theorem exec_sbind : exec (.sbind v sd) s =
    if (s.rs sd).toNat % 64 ≠ 0 then misalign s (s.rs sd)
    else if !s.inSpad s.myPart (s.rs sd) 64 then addressTrap s .window (s.rs sd)
    else if s.held s.cur (s.rs sd).toNat 64 then s.stalled (.sbind v sd)
    else bindTo (descRead s (s.rs sd)) v (descAt s (s.rs sd)) := rfl
theorem sbind_misaligned (crooked : (s.rs sd).toNat % 64 ≠ 0) : exec (.sbind v sd) s = takeTrap s .misalign (s.rs sd) 0 :=
  exec_sbind.trans (if_pos crooked)
theorem sbind_foreign (aligned : (s.rs sd).toNat % 64 = 0) (foreign : s.inSpad s.myPart (s.rs sd) 64 = false) :
    exec (.sbind v sd) s = addressTrap s .window (s.rs sd) := by
  rw [exec_sbind, if_neg (fun h => h aligned), foreign]
  rfl
theorem sbind_reads (aligned : (s.rs sd).toNat % 64 = 0) (own : s.inSpad s.myPart (s.rs sd) 64 = true)
    (free : s.held s.cur (s.rs sd).toNat 64 = false) :
    exec (.sbind v sd) s = bindTo (descRead s (s.rs sd)) v (descAt s (s.rs sd)) := by
  rw [exec_sbind, if_neg (fun h => h aligned), own, free]
  rfl
theorem descWrong_descRead (a : Word) (d : Vec) : descWrong (descRead s a) d ↔ descWrong s d := by
  rw [descWrong, descWrong, descRead_cur, channelBound_descRead]

/-! ### SSKIP -/

theorem sskip_unbound (free : s.me.regs.binding v = none) : exec (.sskip v sd) s = .next s.past := by
  change execSskip v sd s = _
  unfold execSskip
  dsimp only
  rw [free]
  rfl
theorem sskip_affine {b : Binding} (bound : s.me.regs.binding v = some b) (affine : b.arrival = false) (some : s.rs sd ≠ 0) :
    exec (.sskip v sd) s = .next (s.setRegs (s.me.regs.setBinding v (Option.some
      { b with pos := min b.total (b.pos + (s.rs sd).toNat), count := b.count + (s.rs sd).toNat
               fetched := b.fetched.drop (s.rs sd).toNat }))).past := by
  have count : (s.rs sd).toNat ≠ 0 := fun zero => some (BitVec.eq_of_toNat_eq zero)
  change execSskip v sd s = _
  unfold execSskip
  dsimp only
  rw [bound]
  dsimp only
  rw [if_neg count, affine]
  rfl

/-- The entries that an SSKIP has still to discard, and those of them that are there. -/
def skipLeft (s : State) (sd : Reg) (b : Binding) : Nat := if b.skip = 0 then (s.rs sd).toNat else b.skip
def skipThere (s : State) (b : Binding) : Nat :=
  (((s.core (hartCore s.cur)).arrivals b.channel).filter fun e => e.taken.isNone || e.taken == some s.cur).length -
    Tab.get 0 s.me.chunk.pops b.channel
/-- The binding after `n` entries more have been taken from its channel. -/
def skipped (s : State) (v : Reg) (b x : Binding) (n : Nat) : State :=
  (s.setRegs (s.me.regs.setBinding v (some x))).popTo s.cur b.channel (Tab.get 0 s.me.chunk.pops b.channel + n)
theorem sskip_arrival {b : Binding} (bound : s.me.regs.binding v = some b) (arrival : b.arrival = true) (some : s.rs sd ≠ 0) :
    exec (.sskip v sd) s =
      if min (skipLeft s sd b) (skipThere s b) = skipLeft s sd b then
        (skipped s v b { b with count := b.count + (s.rs sd).toNat, skip := 0 } (min (skipLeft s sd b) (skipThere s b))).done
      else (skipped s v b { b with
        skip := if min (skipLeft s sd b) (skipThere s b) = 0 then b.skip else skipLeft s sd b - min (skipLeft s sd b)
            (skipThere s b) }
          (min (skipLeft s sd b) (skipThere s b))).stalled (.sskip v sd) := by
  have count : (s.rs sd).toNat ≠ 0 := fun zero => some (BitVec.eq_of_toNat_eq zero)
  change execSskip v sd s = _
  unfold execSskip
  dsimp only
  rw [bound]
  dsimp only
  rw [if_neg count, arrival]
  rfl

theorem sskip_all {b : Binding} (bound : s.me.regs.binding v = some b) (arrival : b.arrival = true) (some : s.rs sd ≠ 0)
    (there : skipLeft s sd b ≤ skipThere s b) : exec (.sskip v sd) s =
      .next (skipped s v b { b with count := b.count + (s.rs sd).toNat, skip := 0 } (skipLeft s sd b)).past := by
  rw [sskip_arrival bound arrival some, Nat.min_eq_left there, if_pos rfl]
  rfl
theorem sskip_some {b : Binding} (bound : s.me.regs.binding v = some b) (arrival : b.arrival = true) (some : s.rs sd ≠ 0)
    (short : skipThere s b < skipLeft s sd b) : exec (.sskip v sd) s =
      (skipped s v b { b with skip := if skipThere s b = 0 then b.skip else skipLeft s sd b - skipThere s b } (skipThere s b)).stalled
        (.sskip v sd) := by
  rw [sskip_arrival bound arrival some, Nat.min_eq_right (Nat.le_of_lt short), if_neg (Nat.ne_of_lt short)]

end

/-! ### Pushes -/

section
variable {s : State} {n : Reg} {b : Binding} (x : Vec) (bound : s.me.regs.binding n = some b)
include bound

theorem putV_past (beyond : b.total ≤ b.pos) : s.putV n x = s.setThread s.cur { s.me with
    regs := s.me.regs.setBinding n (some { b with count := b.count + 1 }), chunk :=
        { s.me.chunk with past := s.me.chunk.past + 1 } } := by
  unfold State.putV
  dsimp only
  rw [show (s.thread s.cur).regs.binding n = some b from bound]
  exact if_pos beyond
/-- The state in which the next element of a stream has been counted as pushed. -/
def pushedOne (s : State) (n : Reg) (b : Binding) : State :=
  s.setThread s.cur { s.me with regs := s.me.regs.setBinding n (some { b with pos := b.pos + 1, count := b.count + 1 }) }
theorem putV_pushes (inside : b.pos < b.total) : s.putV n x = (pushedOne s n b).weakStore s.cur (b.elem b.pos) (vecBytes x 0 64) := by
  unfold State.putV
  dsimp only
  rw [show (s.thread s.cur).regs.binding n = some b from bound]
  exact if_neg (Nat.not_le.2 inside)

end

/-- A weak store to a scratchpad joins the stores of the chunk. -/
theorem State.weakStore_scratch {s : State} {k : Nat} (scratch : oaSpace k = some .scratch) (h : Hart) (bytes : List Byte) :
    s.weakStore h k bytes = s.setThread h { s.thread h with chunk := { (s.thread h).chunk with
      stores := (s.thread h).chunk.stores ++ [{ key := k, data := bytes }]
      wlines := addLines (s.thread h).chunk.wlines (linesOf k bytes.length) } } := by
  have other : (decide (k < 2 ^ 40) && oaSpace k == some Space.window) = false := by
    rw [scratch, show ((some Space.scratch : Option Space) == some Space.window) = false from rfl, Bool.and_false]
  unfold State.weakStore
  dsimp only
  rw [other, Bool.false_and]
  rfl

section
variable {s : State} {n : Reg} {b : Binding} (bound : s.me.regs.binding n = some b)
include bound

theorem putV_past_spec (x : Vec) (beyond : b.total ≤ b.pos) :
    (s.putV n x).me.chunk = { s.me.chunk with past := s.me.chunk.past + 1 } ∧ (s.putV n x).mem = s.mem := by
  rw [putV_past x bound beyond]
  exact ⟨congrArg Thread.chunk (State.thread_setThread_self s s.cur _), rfl⟩
theorem putV_pushes_spec (x : Vec) (inside : b.pos < b.total) (scratch : oaSpace (b.elem b.pos) = some .scratch) :
    (s.putV n x).me.chunk.stores = s.me.chunk.stores ++ [{ key := b.elem b.pos, data := vecBytes x 0 64 }] ∧
      (s.putV n x).me.regs.binding n = some { b with pos := b.pos + 1, count := b.count + 1 } ∧ (s.putV n x).mem = s.mem := by
  have self : (pushedOne s n b).thread s.cur = { s.me with
    regs := s.me.regs.setBinding n (some { b with pos := b.pos + 1, count := b.count + 1 })
        } := State.thread_setThread_self s s.cur _
  rw [putV_pushes x bound inside, State.weakStore_scratch scratch, self]
  generalize stored : ({ s.me with regs := _, chunk := _ } : Thread) = t
  have me : ((pushedOne s n b).setThread s.cur t).me = t := State.thread_setThread_self _ s.cur t
  rw [me, ← stored]
  exact ⟨rfl, binding_setBinding _ (binding_high bound) _, rfl⟩

/-! ### Pops -/

/-- The state in which the next element `x` of an affine stream has been popped. -/
def poppedElem (s : State) (n : Reg) (b : Binding) (x : Vec) : State :=
  s.setThread s.cur { s.me with
    regs := s.me.regs.setBinding n (some { b with pos := b.pos + 1, count := b.count + 1, fetched := b.fetched.drop 1 })
    replay := s.me.replay, chunk :=
        { s.me.chunk with log := s.me.chunk.log ++ [(logKey n (b.elem b.pos), x)], past := s.me.chunk.past + 0 } }
theorem poppedElem_binding (x : Vec) : (poppedElem s n b x).me.regs.binding n =
    some { b with pos := b.pos + 1, count := b.count + 1, fetched := b.fetched.drop 1 } := by
  rw [show (poppedElem s n b x).me = _ from State.thread_setThread_self s s.cur _]
  exact binding_setBinding _ (binding_high bound) _
/-- What a pop of the element `x` answers. -/
def popGives (s : State) (n : Reg) (b : Binding) (x : Vec) : Prop :=
  ∃ u, popOne s n b = .ok [(n, b.seen (b.elem b.pos) x)] u ∧ u.mem = s.mem ∧
    u.me.regs.binding n = some { b with pos := b.pos + 1, count := b.count + 1, fetched := b.fetched.drop 1 }

section
variable (affine : b.arrival = false) (inside : b.pos < b.total) (fresh : s.me.replay = [])
include affine inside fresh

theorem popOne_fetched {x : Vec} {r : List Vec} (ahead : b.fetched = x :: r) : popGives s n b x := by
  refine ⟨poppedElem s n b x, ?_, rfl, poppedElem_binding bound x⟩
  have more : ¬b.total ≤ b.pos := Nat.not_le.2 inside
  unfold popOne poppedElem
  dsimp only
  rw [affine, show (s.thread s.cur).replay = [] from fresh, ahead, fresh]
  simp only [if_neg more]
  rfl
omit bound in
theorem popOne_stalls (none : b.fetched = []) (held : s.held s.cur (b.elem b.pos) 64 = true) : popOne s n b = .stall := by
  have more : ¬b.total ≤ b.pos := Nat.not_le.2 inside
  unfold popOne
  dsimp only
  rw [affine, show (s.thread s.cur).replay = [] from fresh, none, held]
  simp only [if_neg more]
  rfl
theorem popOne_reads (none : b.fetched = []) (free : s.held s.cur (b.elem b.pos) 64 = false) :
    popGives s n b (bytesVec (s.bytesAt (b.elem b.pos) 64)) := by
  refine ⟨poppedElem s n b (bytesVec (s.bytesAt (b.elem b.pos) 64)), ?_, rfl, poppedElem_binding bound _⟩
  have more : ¬b.total ≤ b.pos := Nat.not_le.2 inside
  unfold popOne poppedElem
  dsimp only
  rw [affine, show (s.thread s.cur).replay = [] from fresh, none, free, fresh]
  simp only [if_neg more]
  rfl

end

end

/-! ### Events of the stream unit -/

theorem exec_streamPrefetch {s : State} {b : Binding} (number : s.arg < 8) (running : s.me.run = .running)
    (bound : s.me.regs.binding (BitVec.ofNat 5 (24 + s.arg)) = some b) (affine : b.arrival = false) (reads : b.write = false)
    (room : b.fetched.length < 8) (more : b.pos + b.fetched.length < b.total)
    (free : s.held s.cur (b.elem (b.pos + b.fetched.length)) 64 = false) :
    exec .streamPrefetch s = .next (s.setMe { s.me with regs := s.me.regs.setBinding (BitVec.ofNat 5 (24 + s.arg)) (some
      { b with fetched := b.fetched ++ [bytesVec (s.bytesAt (b.elem (b.pos + b.fetched.length)) 64)] }) }) := by
  have runs : (decide (s.arg < 8) && (s.thread s.cur).run == Run.running) = true := by
    rw [show (s.thread s.cur).run = .running from running, decide_eq_true number]
    rfl
  have goes : (b.arrival || b.write || decide (8 ≤ b.fetched.length) || decide (b.total ≤ b.pos + b.fetched.length) ||
      s.held s.cur (b.elem (b.pos + b.fetched.length)) 64) = false := by
    rw [affine, reads, free, decide_eq_false (Nat.not_le.2 room), decide_eq_false (Nat.not_le.2 more)]
    rfl
  change execStreamPrefetch s = _
  unfold execStreamPrefetch
  dsimp only
  rw [runs, if_pos rfl, show (s.thread s.cur).regs.binding (BitVec.ofNat 5 (24 + s.arg)) = some b from bound]
  dsimp only
  rw [goes]
  rfl
theorem exec_streamStallRelease {s : State} {i : Instr} (waits : s.me.wait = .stall i) (bound : s.unbound (vecSources i) = false)
    (made : (∃ vals u, popAll s (vecSources i) = .ok vals u) ∨ (∃ ch q k, popAll s (vecSources i) = .range ch q k)) :
    exec .streamStallRelease s = .next (s.setMe { s.me with wait := .none }) := by
  change execStreamStallRelease s = _
  unfold execStreamStallRelease
  rw [waits]
  dsimp only
  rw [show ((vecSources i).all fun n => (s.me.regs.binding n).isNone) = false from bound]
  rcases made with ⟨vals, u, gives⟩ | ⟨ch, q, k, gives⟩ <;> rw [gives] <;> rfl

end Sys2Proof.Machine
end

section
open Sys2Proof Sys2Proof.Machine

/-- Settles O37: SBIND checks its descriptor in the order of R250, SSKIP counts what is there of an arrival stream, a push is a weak
store of its element or is counted, and a pop takes what has been read ahead or what stands there. -/
theorem streams : Obligations.Streams := by
  unfold Obligations.Streams
  refine ⟨fun v sd s => ?_, fun s n b x bound _ => ?_, fun s n b bound affine inside fresh => ?_, fun s b i => ?_⟩
  · intro a d core illegalD base misD u ready
    refine ⟨sbind_misaligned, sbind_foreign, ?_, rfl, sskip_unbound, fun b => sskip_affine, fun b bound arrival some => ?_⟩
    · rintro ⟨aligned, own, free⟩
      have good : ¬illegalD → ¬descWrong (descRead s a) d := mt (descWrong_descRead a d).1
      have reads : exec (.sbind v sd) s = bindTo u v d := sbind_reads aligned own free
      have core : hartCore u.cur = core := congrArg hartCore (descRead_cur s a)
      refine ⟨fun wrong => ?_, fun fine affine crooked => ?_, fun fine affine straight outside => ?_, fun fine fits => ?_⟩
      · exact reads.trans (bindTo_wrong ((descWrong_descRead a d).2 wrong))
      · exact reads.trans (bindTo_crooked (good fine) affine crooked)
      · exact reads.trans (bindTo_outside (good fine) affine straight (core ▸ outside))
      · exact reads.trans (bindTo_binds (good fine) (core ▸ fits))
    · intro left taken there bound'
      exact ⟨sskip_all bound arrival some, sskip_some bound arrival some⟩
  · exact ⟨putV_past_spec bound x, putV_pushes_spec bound x⟩
  · intro k gives
    exact ⟨fun x r => popOne_fetched bound affine inside fresh, popOne_reads bound affine inside fresh, popOne_stalls affine
        inside fresh,
      fun x i => seen_byte b k x⟩
  · exact ⟨exec_streamPrefetch, exec_streamStallRelease⟩

end

section
/-! SUPPORT. Entries of a round (R388 to R391): lines sent and received, late data, status and counter at completion. -/

namespace Sys2Proof.Machine

/-! ### SEND -/

section
variable {s : State} {m : Image} {e pos : Nat} {w : Word}

/-- The line that a SEND entry reads next, and its message so far. -/
def sendLine (s : State) (w : Word) : Nat := entLine w + (s.port s.cur).line
def sendBuf (s : State) (w : Word) : List Vec :=
  (s.port s.cur).buf ++ [if entAcc w then s.accLine (portCl s.cur) (sendLine s w)
    else bytesVec (s.bytesAt ((s.port s.cur).wbase + 64 * sendLine s w) 64)]
def sendMark (s : State) (w : Word) : Bool :=
  (s.port s.cur).mark || (entAcc w && sendLine s w < 8192 && ((s.cluster (portCl s.cur)).tile (sendLine s w / 1024)).spoiled)
/-- A copy still fills the line. -/
def sendWaits (s : State) (w : Word) : Bool := !entAcc w && s.guarded ((s.port s.cur).wbase + 64 * sendLine s w) 64

theorem sendWaits_iff : sendWaits s w = true ↔ entAcc w = false ∧ s.guarded ((s.port s.cur).wbase + 64 * sendLine s w) 64 =
    true := by
  rw [sendWaits, Bool.and_eq_true, Bool.not_eq_true']

variable (turn : s.turnOf s.cur 0 = some (m, e, pos, w))
include turn

theorem exec_ttSend : exec .ttSend s = if sendWaits s w then .next s
    else if (s.port s.cur).line + 1 < entLines w then .next (s.setPort s.cur
      { s.port s.cur with line := (s.port s.cur).line + 1, buf := sendBuf s w, mark := sendMark s w })
    else .next (sendMessage (s.setPort s.cur ((s.port s.cur).finish pos s.now)) s.cur (s.port s.cur) m e (sendMark s w)
        (sendBuf s w)) := by
  change execTtSend s = _
  unfold execTtSend
  dsimp only
  rw [turn]
  rfl
theorem ttSend_waits (waits : sendWaits s w = true) : exec .ttSend s = .next s := (exec_ttSend turn).trans (if_pos waits)
theorem ttSend_reads (free : ¬sendWaits s w = true) (more : (s.port s.cur).line + 1 < entLines w) : exec .ttSend s =
    .next (s.setPort s.cur { s.port s.cur with line := (s.port s.cur).line + 1, buf := sendBuf s w, mark := sendMark s w }) :=
  (exec_ttSend turn).trans ((if_neg free).trans (if_pos more))
theorem ttSend_sends (free : ¬sendWaits s w = true) (all : entLines w ≤ (s.port s.cur).line + 1) : exec .ttSend s =
    .next (sendMessage (s.setPort s.cur ((s.port s.cur).finish pos s.now)) s.cur (s.port s.cur) m e (sendMark s w) (sendBuf s w)) :=
  (exec_ttSend turn).trans ((if_neg free).trans (if_neg (Nat.not_lt.2 all)))

end

section
variable {s : State} {p : Nat} {x : Slot} {m : Image} {e : Nat} {spoiled : Bool} {lines : List Vec}

/-- The message of a SEND entry as a peer gets it, and the state in which it has been handed to the outbox. -/
def peerMessage (x : Slot) (e : Nat) (spoiled : Bool) (lines : List Vec) : RMsg :=
  { round := x.round, entry := e, spoiled := spoiled, lines := lines }
def handedOut (s : State) (p : Nat) (x : Slot) (m : Image) (e : Nat) (spoiled : Bool) (lines : List Vec) : State :=
  { s with outbox := s.outbox ++ [.round (s.partOfDie (portCl p / 96)) (ptyPeer (m.party (entPeer (m.entry e))))
    (ptyId (m.party (entPeer (m.entry e))) / 2) (ptyId (m.party (entPeer (m.entry e))) % 2) (peerMessage x e spoiled lines)] }

theorem sendMessage_peer (remote : ptyRemote (m.party (entPeer (m.entry e))) = true)
    (other : (handedOut s p x m e spoiled lines).localPeer (s.partOfDie (portCl p / 96)) (ptyPeer (m.party (entPeer (m.entry e)))) = none) :
    sendMessage s p x m e spoiled lines = handedOut s p x m e spoiled lines := by
  unfold sendMessage
  dsimp only
  rw [if_pos remote]
  unfold handedOut peerMessage at *
  rw [other]
theorem sendMessage_here (remote : ptyRemote (m.party (entPeer (m.entry e))) = true) {src : PeerSrc}
    (here : (handedOut s p x m e spoiled lines).localPeer (s.partOfDie (portCl p / 96)) (ptyPeer (m.party (entPeer (m.entry
        e)))) = some src) :
    sendMessage s p x m e spoiled lines = { handedOut s p x m e spoiled lines with
      net := s.net ++ [{ id := s.fresh, hart := portHart, part := src.part
                         item := .peerRound src (ptyId (m.party (entPeer (m.entry e))) / 2) (ptyId (m.party (entPeer (m.entry e))) % 2)
                           (peerMessage x e spoiled lines) }], fresh := s.fresh + 1 } := by
  unfold sendMessage
  dsimp only
  rw [if_pos remote]
  unfold handedOut peerMessage at *
  rw [here]

variable (local' : ptyRemote (m.party (entPeer (m.entry e))) = false) {f : Nat} (received : m.matchOf e = some f)
include local' received

theorem sendMessage_party (runs : x.void = false) (there : entPeer (m.entry e) ∉ x.voidSet) :
    sendMessage s p x m e spoiled lines = s.setPort (ptyId (m.party (entPeer (m.entry e))))
      { s.port (ptyId (m.party (entPeer (m.entry e)))) with msgs := (s.port (ptyId (m.party (entPeer (m.entry e))))).msgs ++
          [{ round := x.round, entry := f, spoiled := spoiled, lines := lines }] } := by
  have goes : ¬x.voidSet.contains (entPeer (m.entry e)) = true := fun h => there (List.contains_iff_mem.1 h)
  unfold sendMessage
  dsimp only
  rw [if_neg (Bool.eq_false_iff.1 local'), received]
  dsimp only
  rw [if_neg (Bool.eq_false_iff.1 runs), if_neg goes]
theorem sendMessage_void (void : x.void = true) : sendMessage s p x m e spoiled lines = { s with
    net := s.net ++ [{ id := s.fresh, hart := portHart, part := s.partOfDie (portCl p / 96)
                       item := .late (ptyId (m.party (entPeer (m.entry e)))) f x.round spoiled lines
                           }], fresh := s.fresh + 1 } := by
  unfold sendMessage
  dsimp only
  rw [if_neg (Bool.eq_false_iff.1 local'), received]
  exact if_pos void

end

/-! ### Receive entries -/

/-- What an access of a receive entry applies, as the model writes it: `l` are the lines at hand. -/
def accessOf (op : Nat) (s : State) (k : Nat) (l : List Vec) : State :=
  if op = 1 then s.writeAt portHart k (vecBytes (l.head?.getD 0) 0 64)
  else (reduceStep s portHart (op + 3) k 0 none l).1

theorem roundOp_access {i : Instr} {op step : Nat} {f : State → Nat → List Vec → State} (round : roundOp i = some (op, step, f)) :
    (∀ s, exec i s = receive s op step (accessOf op)) ∧ ∀ s k l, l.length ≤ step → accessOf op s k l = f s k l := by
  cases i
  case ttCopy => cases round; exact ⟨fun _ => rfl, fun _ _ _ _ => rfl⟩
  case ttXor =>
    cases round
    refine ⟨fun _ => rfl, fun s k l _ => ?_⟩
    show (reduceStep s portHart 6 k 0 none l).1 = _
    unfold reduceStep
    dsimp only
    exact ite_self _
  case ttMs =>
    cases round
    refine ⟨fun _ => rfl, fun s k l short => ?_⟩
    show (reduceStep s portHart 5 k 0 none l).1 = _
    unfold reduceStep
    dsimp only
    rw [List.take_of_length_le short]
    exact ite_self _
  all_goals cases round

section
variable {s : State} {op step : Nat} {f : State → Nat → List Vec → State}

theorem receive_idle (idle : s.turnOf s.cur op = none) : receive s op step f = .next s := by
  unfold receive
  dsimp only
  rw [idle]
variable {m : Image} {e pos : Nat} {w : Word} (turn : s.turnOf s.cur op = some (m, e, pos, w))
include turn
theorem receive_guarded (held : s.guarded ((s.port s.cur).wbase + 64 * (entLine w + (s.port s.cur).line)) (64 * step) = true) :
    receive s op step f = .next s := by
  unfold receive
  dsimp only
  rw [turn]
  exact if_pos held
theorem receive_awaits (none : takeData s s.cur m e w = none) : receive s op step f = .next s := by
  unfold receive
  dsimp only
  rw [turn]
  dsimp only
  rw [none]
  exact ite_self _

/-- The lines that an access of a receive entry has at hand, and what it leaves of them. -/
def linesAtHand (x : Slot) (step : Nat) : List Vec := (x.buf.drop x.line).take step
def applied (f : State → Nat → List Vec → State) (step : Nat) (u : State) (p : Nat) (w : Word) : State :=
  if (u.port p).ident = true ∨ (linesAtHand (u.port p) step).length < step then u
  else f u ((u.port p).wbase + 64 * (entLine w + (u.port p).line)) (linesAtHand (u.port p) step)
theorem receive_applies {u : State}
    (free : s.guarded ((s.port s.cur).wbase + 64 * (entLine w + (s.port s.cur).line)) (64 * step) = false)
    (data : takeData s s.cur m e w = some u) : receive s op step f = .next ((applied f step u s.cur w).setPort s.cur
      (if (u.port s.cur).line + step < entLines w then
        { (applied f step u s.cur w).port s.cur with line := (u.port s.cur).line + step }
      else ((applied f step u s.cur w).port s.cur).finish pos ((u.port s.cur).t + entOff w + entLines w - 1))) := by
  have same : (if ((u.port s.cur).ident || decide ((linesAtHand (u.port s.cur) step).length < step)) = true then u
      else f u ((u.port s.cur).wbase + 64 * (entLine w + (u.port s.cur).line)) (linesAtHand (u.port s.cur) step)) =
      applied f step u s.cur w := by
    unfold applied
    simp only [Bool.or_eq_true, decide_eq_true_eq]
  unfold receive
  dsimp only
  rw [turn]
  dsimp only
  rw [if_neg (Bool.eq_false_iff.1 free), data]
  dsimp only
  rw [show ((u.port s.cur).buf.drop (u.port s.cur).line).take step = linesAtHand (u.port s.cur) step from rfl, same]
  split <;> rfl

end
theorem applied_congr {f g : State → Nat → List Vec → State} {step : Nat} (same : ∀ s k l, l.length ≤ step → f s k l = g s k l)
    (u : State) (p : Nat) (w : Word) : applied f step u p w = applied g step u p w :=
  if_congr Iff.rfl rfl (same u _ _ (List.length_take_le ..))

/-! ### The data of a receive entry -/

section
variable {s u : State} {p : Nat} {m : Image} {e : Nat} {w : Word}

/-- What was received for an entry in the round, and what is held for it from other rounds. -/
def sentTo (x : Slot) (e : Nat) : Option RMsg := x.msgs.find? fun r => r.round == x.round && r.entry == e
def heldFor (x : Slot) (e : Nat) : List Carried := (Tab.get [] x.carry e).filter fun c => c.round != some x.round
/-- The parts that are folded, in order. -/
def partsFor (x : Slot) (e : Nat) (w : Word) : List (List Vec) :=
  (heldFor x e).map Carried.lines ++ ((sentTo x e).map fun r => if entOp w = 2 then foldLines r.spoiled r.lines else r.lines).toList

theorem partsFor_isEmpty (x : Slot) (e : Nat) (w : Word) : (partsFor x e w).isEmpty = true ↔ sentTo x e = none ∧ heldFor x e =
    [] := by
  rw [partsFor, List.isEmpty_iff, List.append_eq_nil_iff, List.map_eq_nil_iff, Option.toList_eq_nil_iff, Option.map_eq_none_iff]
  exact and_comm

/-- The slot once its entry's data is fixed. -/
structure tookData (x y : Slot) (e : Nat) (w : Word) : Prop where
  ident : y.ident = (partsFor x e w).isEmpty
  voidrx : y.voidrx = if (partsFor x e w).isEmpty then stop255 x.voidrx else x.voidrx
  buf : y.buf = ((partsFor x e w).drop 1).foldl mergeLines ((partsFor x e w).head?.getD [])
  carry : y.carry = Tab.set [] x.carry e ((Tab.get [] x.carry e).filter fun c => !(c.round != some x.round))

theorem takeData_took (first : (s.port p).line = 0) (data : takeData s p m e w = some u) : tookData (s.port p) (u.port p) e w := by
  unfold takeData at data
  dsimp only at data
  rw [if_neg (fun h => h first)] at data
  split at data
  · cases data
  · cases data
    rw [State.port_setPort_self]
    exact ⟨rfl, rfl, rfl, rfl⟩

variable {x y : Slot} (took : tookData x y e w)
include took

theorem tookData.ident_iff : y.ident = true ↔ sentTo x e = none ∧ heldFor x e = [] := took.ident ▸ partsFor_isEmpty x e w
theorem tookData.voidrx_eq : y.voidrx = if sentTo x e = none ∧ heldFor x e = [] then stop255 x.voidrx else x.voidrx :=
  took.voidrx.trans (if_congr (partsFor_isEmpty x e w) rfl rfl)
theorem tookData.buf_eq {r : RMsg} (sent : sentTo x e = some r) (none : heldFor x e = []) (plain : entOp w ≠ 2) : y.buf =
    r.lines := by
  have parts : partsFor x e w = [r.lines] := by rw [partsFor, sent, none, Option.map_some, if_neg plain]; rfl
  rw [took.buf, parts]
  rfl
theorem tookData.carry_eq : Tab.get [] y.carry e = (Tab.get [] x.carry e).filter fun c => c.round == some x.round := by
  rw [took.carry, Tab.get_set_self]
  exact List.filter_congr fun c _ => Bool.not_not _

end

/-- The addend packet of the next line of an ACC entry. -/
def lineAddend (x : Slot) (w : Word) (place : Nat × Nat) : Addend :=
  { tile := entTile w, round := x.round, row := place.1, col := place.2, data := (x.buf[x.line]?).getD 0
    ident := x.ident || x.buf.length ≤ x.line, ci := none }
theorem exec_ttAcc {s u : State} {m : Image} {e pos : Nat} {w : Word} (turn : s.turnOf s.cur 4 = some (m, e, pos, w))
    (data : takeData s s.cur m e w = some u) {wide : Bool} {place : Nat × Nat} {v : State}
    (width : wide = ((u.cluster (portCl s.cur)).tile (entTile w)).f64)
    (at' : place = addendPos wide (entRow w) (entChunk w * (if wide then 8 else 16)) (u.port s.cur).line)
    (arrived : v = arriveAddend u (portCl s.cur) (lineAddend (u.port s.cur) w place)) :
    exec .ttAcc s = .next (v.setPort s.cur (if (u.port s.cur).line + 1 < entLines w then
        { v.port s.cur with line := (u.port s.cur).line + 1 }
      else (v.port s.cur).finish pos ((u.port s.cur).t + entOff w + entLines w - 1))) := by
  subst width at' arrived
  change execTtAcc s = _
  unfold execTtAcc
  dsimp only
  rw [turn]
  dsimp only
  rw [data]
  dsimp only
  split <;> rfl

/-! ### Late messages -/

section
variable {s : State} {p e : Nat} {round : BitVec 16} {spoiled : Bool} {lines : List Vec}

/-- What a slot holds of a late message. -/
def carriedOf (x : Slot) (round : BitVec 16) (spoiled : Bool) (lines : List Vec) : Carried :=
  { round := if x.round == round && (x.st == .loaded || x.st == .empty) then none else some round
    lines := foldLines spoiled lines, spoiled := spoiled }
/-- The slot holds late data for an entry. -/
def holdsLate (x : Slot) (e : Nat) : Bool := (x.img.map fun m => entOp (m.entry e) == 2).getD false && x.late

theorem lateAt_eq : lateAt s p e round spoiled lines = if holdsLate (s.port p) e then
    (s.countCl (portCl p) cLateMsg 1).setPort p { s.port p with
      carry := Tab.set [] (s.port p).carry e (Tab.get [] (s.port p).carry e ++ [carriedOf (s.port p) round spoiled lines]) }
    else s.countCl (portCl p) cLateMsg 1 := rfl
theorem lateAt_same : (lateAt s p e round spoiled lines).net = s.net ∧ (lateAt s p e round spoiled lines).mem = s.mem := by
  rw [lateAt_eq]
  split
  · exact ⟨rfl, rfl⟩
  · exact ⟨rfl, rfl⟩
theorem lateAt_holds {m : Image} (img : (s.port p).img = some m) (ms : entOp (m.entry e) = 2) (late : (s.port p).late = true) :
    Tab.get [] ((lateAt s p e round spoiled lines).port p).carry e =
      Tab.get [] (s.port p).carry e ++ [carriedOf (s.port p) round spoiled lines] := by
  have holds : holdsLate (s.port p) e = true := by
    rw [holdsLate, img, Option.map_some, Option.getD_some, late, ms]
    rfl
  rw [lateAt_eq, if_pos holds, State.port_setPort_self, Tab.get_set_self]
theorem carriedOf_round {x : Slot} (running : x.st = .running) : (carriedOf x round spoiled lines).round = some round := by
  rw [carriedOf, running]
  exact if_neg (by rw [show (SlotSt.running == .loaded || SlotSt.running == .empty) = false from rfl, Bool.and_false]; exact nofun)
theorem lateAt_drops (early : (s.port p).late = false) : ((lateAt s p e round spoiled lines).port p).carry = (s.port p).carry := by
  have drops : holdsLate (s.port p) e = false := by rw [holdsLate, early, Bool.and_false]
  rw [lateAt_eq, drops]
  rfl

end
theorem exec_lateMessage {s : State} {q : Msg} {p e : Nat} {r : BitVec 16} {spoiled : Bool} {lines : List Vec} (here : s.msg s.cur = some q)
    (item : q.item = .late p e r spoiled lines) : exec .lateMessage s = .next (lateAt (s.dropMsg q.id) p e r spoiled lines) := by
  change execLateMessage s = _
  unfold execLateMessage
  rw [here]
  dsimp only
  rw [item]

/-! ### The end of a round -/

section
variable {s : State}

theorem exec_roundComplete : exec .roundComplete s =
    if (s.port s.cur).st = .running && ((s.port s.cur).entry s.cur).isNone && ((s.port s.cur).void || (s.port s.cur).t ≤ s.now)
        then
      if s.guarded ((s.port s.cur).desc + 16) 8 then .next s
      else .next ((s.writeAt portHart ((s.port s.cur).desc + 16) (leBytes 8 (roundStatus (s.port s.cur)))).setPort s.cur
        ((s.writeAt portHart ((s.port s.cur).desc + 16) (leBytes 8 (roundStatus (s.port s.cur)))).port s.cur).endRound)
    else match (s.port s.cur).rises with
      | (due, ci) :: r => if due ≤ s.now then
          .next (notifyUp (s.setPort s.cur { s.port s.cur with rises := r }) (portCl s.cur) ci.toNat) else .next s
      | [] => .next s := rfl

section
variable (running : (s.port s.cur).st = .running) (last : (s.port s.cur).entry s.cur = none)
    (started : (s.port s.cur).void = true ∨ (s.port s.cur).t ≤ s.now)
include running last started

theorem roundEnds : (decide ((s.port s.cur).st = .running) && ((s.port s.cur).entry s.cur).isNone &&
    ((s.port s.cur).void || decide ((s.port s.cur).t ≤ s.now))) = true := by
  rw [last, decide_eq_true running]
  simpa using started
theorem roundComplete_guarded (held : s.guarded ((s.port s.cur).desc + 16) 8 = true) : exec .roundComplete s = .next s := by
  rw [exec_roundComplete, if_pos (roundEnds running last started), if_pos held]
theorem roundComplete_ends (free : s.guarded ((s.port s.cur).desc + 16) 8 = false) : exec .roundComplete s =
    .next ((s.writeAt portHart ((s.port s.cur).desc + 16) (leBytes 8 (roundStatus (s.port s.cur)))).setPort s.cur
      (s.port s.cur).endRound) := by
  rw [exec_roundComplete, if_pos (roundEnds running last started), if_neg (Bool.eq_false_iff.1 free),
    State.port_of_cores (State.cores_writeAt s _ _ _)]

end
theorem endRound_ran (x : Slot) : x.round ∈ x.endRound.ran := by
  show x.round ∈ if x.ran.contains x.round then x.ran else x.round :: x.ran
  split
  · next h => exact List.contains_iff_mem.1 h
  · exact List.mem_cons_self
/-- The slot whose round is over, and its status in its descriptor. -/
theorem roundComplete_spec (plain : ∀ i, i < 8 → plainKey ((s.port s.cur).desc + 16 + i) = true) {u : State}
    (wrote : u = s.writeAt portHart ((s.port s.cur).desc + 16) (leBytes 8 (roundStatus (s.port s.cur)))) :
    (u.setPort s.cur (s.port s.cur).endRound).port s.cur = (s.port s.cur).endRound ∧
      (u.setPort s.cur (s.port s.cur).endRound).readAt ((s.port s.cur).desc + 16) 8 = roundStatus (s.port s.cur) % 2 ^ 64 := by
  refine ⟨State.port_setPort_self .., ?_⟩
  rw [State.readAt_congr_plain (State.mem_setPort u _ _) plain, wrote]
  exact State.readAt_writeAt_plain s portHart plain (by decide)

section
variable {due : Nat} {c : BitVec 8} {more : List (Nat × BitVec 8)} (ended : (s.port s.cur).st ≠ .running)
    (next : (s.port s.cur).rises = (due, c) :: more)
include ended next

theorem exec_roundComplete_rises : exec .roundComplete s = if due ≤ s.now then
    .next (notifyUp (s.setPort s.cur { s.port s.cur with rises := more }) (portCl s.cur) c.toNat) else .next s := by
  have goesOn : ¬(decide ((s.port s.cur).st = .running) && ((s.port s.cur).entry s.cur).isNone &&
      ((s.port s.cur).void || decide ((s.port s.cur).t ≤ s.now))) = true := by
    rw [decide_eq_false ended]
    exact nofun
  rw [exec_roundComplete, if_neg goesOn, next]
theorem roundComplete_rises (come : due ≤ s.now) : ∃ t, exec .roundComplete s = .next t ∧ (t.port s.cur).rises = more ∧ t.mem =
    s.mem ∧
    (t.cluster (portCl s.cur)).counter c.toNat = (s.cluster (portCl s.cur)).counter c.toNat + 1 := by
  refine ⟨_, (exec_roundComplete_rises ended next).trans (if_pos come), ?_, mem_notifyUp .., ?_⟩
  · have port := State.port_setPort_self s s.cur { s.port s.cur with rises := more }
    exact congrArg Slot.rises ((State.port_of_cores rfl s.cur).trans port)
  · rw [cluster_notifyUp, Cluster.counter, Cluster.setCounter, Tab.get_set_self]
    rfl

end

/-! ### Round packets of a peer -/

section
variable {src : PeerSrc} {core slot : Nat} {g : RMsg}

theorem enterRound_unknown (unknown : s.sourceOf src = none) : enterRound s src core slot g = s.countPart src.part pPeerDropped := by
  unfold enterRound
  dsimp only
  rw [unknown]
theorem enterRound_empty {ep : Nat} (known : s.sourceOf src = some ep) (empty : (s.port (2 * core + slot % 2)).img = none) :
    enterRound s src core slot g = s.countPart src.part pRefusedMsg := by
  unfold enterRound
  dsimp only
  rw [known, empty]
theorem enterRound_takes {ep f : Nat} {m : Image} (known : s.sourceOf src = some ep) (img : (s.port (2 * core + slot % 2)).img = some m)
    (own : s.dieIn src.part (core / 768) = true) (remote : ptyRemote (m.party (m.owner g.entry)) = true)
    (peer : ptyPeer (m.party (m.owner g.entry)) = ep) (received : m.matchOf g.entry = some f)
    (party : m.owner f = m.selfOf (2 * core + slot % 2))
    (early : isLate (s.port (2 * core + slot % 2)) m (2 * core + slot % 2) f g.round = false) :
    enterRound s src core slot g = s.setPort (2 * core + slot % 2) { s.port (2 * core + slot % 2) with
      msgs := (s.port (2 * core + slot % 2)).msgs ++ [{ g with entry := f }] } := by
  have named : (s.dieIn src.part (core / 768) && ptyRemote (m.party (m.owner g.entry)) &&
      ptyPeer (m.party (m.owner g.entry)) == ep) = true := by
    rw [own, remote, peer, beq_self_eq_true]
    rfl
  unfold enterRound
  dsimp only
  rw [known, img]
  dsimp only
  rw [if_pos named, received]
  dsimp only
  rw [if_neg (fun h => h party), if_neg (Bool.eq_false_iff.1 early)]

end
theorem exec_roundPacketArrival {u : State} {q : Msg} {src : PeerSrc} {core slot : Nat} {g : RMsg} {rest : List Input}
    (came : (s.cur = 0 ∧ s.inbox = .round src core slot g :: rest ∧ u = { s with inbox := rest }) ∨
      (s.cur ≠ 0 ∧ s.msg s.cur = some q ∧ q.item = .peerRound src core slot g ∧ u = s.dropMsg q.id)) :
    exec .roundPacketArrival s = .next (enterRound u src core slot g) := by
  change execRoundPacketArrival s = _
  unfold execRoundPacketArrival
  rcases came with ⟨zero, first, rfl⟩ | ⟨id, here, item, rfl⟩
  · rw [if_pos zero, first]
  · rw [if_neg id, here]
    dsimp only
    rw [item]
/-- The inbox and the items on their way say nothing of sources, slots and dies. -/
theorem arrived_same {u : State} {q : Msg} {src : PeerSrc} {core slot : Nat} {g : RMsg} {rest : List Input}
    (came : (s.cur = 0 ∧ s.inbox = .round src core slot g :: rest ∧ u = { s with inbox := rest }) ∨
      (s.cur ≠ 0 ∧ s.msg s.cur = some q ∧ q.item = .peerRound src core slot g ∧ u = s.dropMsg q.id)) :
    u.sourceOf = s.sourceOf ∧ u.port = s.port ∧ u.dieIn = s.dieIn := by
  rcases came with ⟨_, _, rfl⟩ | ⟨_, _, _, rfl⟩
  · exact ⟨rfl, rfl, rfl⟩
  · exact ⟨rfl, rfl, rfl⟩

end

end Sys2Proof.Machine
end

section
open Sys2Proof Sys2Proof.Machine

/-- Settles O52: the entries of a round one access at a time, late data and the end of the round. -/
theorem roundEntries : Obligations.RoundEntries := by
  unfold Obligations.RoundEntries
  refine ⟨fun s m e pos w => ?_, fun s q p e r spoiled lines src core slot g rest => ?_⟩
  · intro p x last l buf mark waits
    refine ⟨fun turn => ⟨?_, ?_, fun free all => ?_⟩, ?_, ?_, ?_, ?_, ?_⟩
    · exact fun held => ttSend_waits turn (sendWaits_iff.2 held)
    · exact fun free more => ttSend_reads turn (mt sendWaits_iff.1 free) more
    · intro q here g u
      have sends := ttSend_sends turn (mt sendWaits_iff.1 free) all
      refine ⟨?_, ?_, ?_, ?_⟩
      · exact fun remote none => sends.trans (congrArg Host.Outcome.next (sendMessage_peer remote none))
      · exact fun remote src known => ⟨_, sends.trans (congrArg Host.Outcome.next (sendMessage_here remote known)), rfl⟩
      · intro local' runs there other f received
        refine sends.trans (congrArg Host.Outcome.next ((sendMessage_party local' received runs there).trans ?_))
        rw [State.port_setPort_other _ other]
        rfl
      · exact fun local' void f received => ⟨_, _, sends.trans (congrArg Host.Outcome.next (sendMessage_void local' received
          void)), rfl, rfl⟩
    · exact fun i op step f round turn held => (roundOp_access round).1 s ▸ receive_guarded turn held
    · intro i op step f u round turn free data y g k v
      obtain ⟨access, same⟩ := roundOp_access round
      have step' := receive_applies (f := accessOf op) turn free data
      rw [applied_congr same] at step'
      exact (access s).trans step'
    · rintro i op step f round (idle | ⟨m', e', pos', w', turn, none⟩)
      · exact ((roundOp_access round).1 s).trans (receive_idle idle)
      · exact ((roundOp_access round).1 s).trans (receive_awaits turn none)
    · intro u turn data y wide pos' v
      exact exec_ttAcc turn data rfl rfl rfl
    · intro u first data sent old
      have took := takeData_took first data
      exact ⟨took.ident_iff, took.voidrx_eq, fun r => took.buf_eq, took.carry_eq⟩
  · intro x
    refine ⟨fun here item => ?_, fun running last started => roundComplete_guarded running last started,
      fun running last started free plain => ?_, fun due c more ended next => ⟨fun early => ?_, roundComplete_rises ended next⟩,
      fun u came => ?_⟩
    · obtain ⟨net, mem⟩ := lateAt_same (s := s.dropMsg q.id) (p := p) (e := e) (round := r) (spoiled := spoiled) (lines := lines)
      exact ⟨_, exec_lateMessage here item, net, mem, fun m img ms late => ⟨_, lateAt_holds (s := s.dropMsg q.id) img ms late,
          rfl,
        carriedOf_round⟩, lateAt_drops (s := s.dropMsg q.id)⟩
    · obtain ⟨port, status⟩ := roundComplete_spec plain rfl
      refine ⟨_, roundComplete_ends running last started free, ?_⟩
      rw [port]
      exact ⟨rfl, endRound_ran x, status, rfl, rfl⟩
    · exact (exec_roundComplete_rises ended next).trans (if_neg (Nat.not_le.2 early))
    · intro n
      obtain ⟨source, port, die⟩ := arrived_same came
      rw [exec_roundPacketArrival came, ← source, ← port, ← die]
      exact ⟨fun unknown => congrArg Host.Outcome.next (enterRound_unknown unknown),
        fun ep known empty => congrArg Host.Outcome.next (enterRound_empty known empty),
        fun ep m f known img own remote peer received party early =>
          congrArg Host.Outcome.next (enterRound_takes known img own remote peer received party early)⟩

end

section
/-! SUPPORT. Packets (R392, R395 to R397): binary32 patterns, lines of memory as lanes, and what a packet does at its target. -/

namespace Sys2Proof.Machine

/-! ### Binary32 patterns (R160) -/

theorem roundedUp_bounds (up : Prop) [Decidable up] (n : Nat) : n ≤ (if up then n + 1 else n) ∧ (if up then n + 1 else n) ≤ n +
    1 := by
  split
  · exact ⟨Nat.le_succ n, Nat.le_refl _⟩
  · exact ⟨Nat.le_refl n, Nat.le_succ n⟩

section
variable {mode : Mode} {neg : Bool} {m : Nat} {e q : Int}

/-- A rounded magnitude has at most 25 bits, the last only as a power of two. -/
theorem roundMag_le (fine : e + m.log2 - 23 ≤ q) : (roundMag mode neg m e q).1 ≤ 2 ^ 24 := by
  have bits : m < 2 ^ (m.log2 + 1) := Nat.lt_log2_self
  unfold roundMag
  dsimp only
  split
  · next exact' =>
    calc m * 2 ^ (e - q).toNat ≤ 2 ^ (m.log2 + 1) * 2 ^ (e - q).toNat := Nat.mul_le_mul_right _ bits.le
      _ = 2 ^ (m.log2 + 1 + (e - q).toNat) := (Nat.pow_add ..).symm
      _ ≤ 2 ^ 24 := Nat.pow_le_pow_right (by decide) (by omega)
  · next coarse =>
    have hi : m / 2 ^ (q - e).toNat < 2 ^ 24 := by
      refine Nat.div_lt_of_lt_mul (bits.trans_le ?_)
      rw [← Nat.pow_add]
      exact Nat.pow_le_pow_right (by decide) (by omega)
    exact (roundedUp_bounds _ _).2.trans hi
/-- A value that is not zero keeps its leading bit where its own exponent gives the place. -/
theorem roundMag_ge (some : m ≠ 0) (own : q = e + m.log2 - 23) : 2 ^ 23 ≤ (roundMag mode neg m e q).1 := by
  have bits : 2 ^ m.log2 ≤ m := Nat.log2_self_le some
  unfold roundMag
  dsimp only
  split
  · next exact' =>
    calc 2 ^ 23 = 2 ^ m.log2 * 2 ^ (e - q).toNat := by rw [← Nat.pow_add]; congr 1; omega
      _ ≤ m * 2 ^ (e - q).toNat := Nat.mul_le_mul_right _ bits
  · next coarse =>
    have hi : 2 ^ 23 ≤ m / 2 ^ (q - e).toNat := by
      rw [Nat.le_div_iff_mul_le (by positivity), ← Nat.pow_add]
      exact (Nat.pow_le_pow_right (by decide) (by omega)).trans bits
    exact hi.trans (roundedUp_bounds _ _).1

end
/-- A magnitude of 24 bits that is not above the largest finite one has an exponent that is not above its. -/
theorem le_of_cmpMag {r : Nat} {q : Int} (leading : 2 ^ 23 ≤ r) (finite : cmpMag r q f32.maxM f32.maxE ≠ .gt) : q ≤ 104 := by
  rw [show f32.maxM = 2 ^ 24 - 1 by decide, show f32.maxE = 104 by decide] at finite
  by_contra above
  refine finite ?_
  have big : 2 ^ 24 ≤ r * 2 ^ (q - 104).toNat :=
    calc 2 ^ 24 = 2 ^ 23 * 2 ^ 1 := rfl
      _ ≤ r * 2 ^ (q - 104).toNat := Nat.mul_le_mul leading (Nat.pow_le_pow_right (by decide) (by omega))
  unfold cmpMag
  dsimp only
  rw [min_eq_right (by omega), Nat.compare_eq_gt]
  simpa using Nat.lt_of_lt_of_le (by decide) big

theorem patternBits_lt {r x : Nat} (short : r ≤ 2 ^ 24) (place : x ≤ 254) :
    (if r < 2 ^ 23 then r else r - 2 ^ 23 + x * 2 ^ 23) < 2 ^ 31 := by
  split <;> omega
/-- A rounded binary32 value is a pattern of 32 bits. -/
theorem rne_lt (x : Num) : f32.rne x < 2 ^ 32 := by
  have sign (neg : Bool) : f32.signBit neg ≤ 2 ^ 31 := by cases neg <;> decide
  show (f32.round .rne x).1 < 2 ^ 32
  unfold Fmt.round
  cases x with
  | nan => exact (by decide : f32.nan < 2 ^ 32)
  | inf neg => cases neg <;> decide
  | fin neg m e =>
    dsimp only
    split
    · exact Nat.lt_of_le_of_lt (sign neg) (by decide)
    · next some =>
      split
      · cases neg <;> decide
      · next finite =>
        have leading := roundMag_ge (mode := .rne) (neg := neg) (e := e) some rfl
        have exponent : e + (m.log2 : Int) - 23 ≤ 104 := le_of_cmpMag leading (mt beq_iff_eq.2 finite)
        have short := roundMag_le (mode := .rne) (neg := neg) (m := m) (e := e)
          (q := max (e + (m.log2 : Int) - 23) (1 - (127 : Int) - 23)) (le_max_left ..)
        have place : (max (e + (m.log2 : Int) - 23) (1 - (127 : Int) - 23) + 23 + 127).toNat ≤ 254 := by omega
        exact (Nat.add_lt_add_of_le_of_lt (sign neg) (patternBits_lt short place)).trans_eq (by decide)

/-- The merge of two triples of patterns is a triple of patterns. -/
theorem mergeMs_lt {a b : Ms} (ha : a.n < 2 ^ 32 ∧ a.mu < 2 ^ 32 ∧ a.m2 < 2 ^ 32) (hb : b.n < 2 ^ 32 ∧ b.mu < 2 ^ 32 ∧ b.m2 < 2 ^ 32) :
    (mergeMs a b).n < 2 ^ 32 ∧ (mergeMs a b).mu < 2 ^ 32 ∧ (mergeMs a b).m2 < 2 ^ 32 := by
  unfold mergeMs
  split
  · exact ha
  · split
    · exact hb
    · exact ⟨rne_lt _, rne_lt _, rne_lt _⟩

/-! ### Lines of memory as lanes -/

theorem leNat_drop (l : List Byte) (n : Nat) : leNat (l.drop n) = leNat l / 2 ^ (8 * n) := by
  induction n generalizing l with
  | zero => rw [List.drop_zero, Nat.mul_zero, Nat.pow_zero, Nat.div_one]
  | succ n ih =>
    cases l with
    | nil => exact (Nat.zero_div _).symm
    | cons b r =>
      have small : b.toNat < 256 := b.isLt
      rw [List.drop_succ_cons, ih, leNat, two_pow_split (show 8 * (n + 1) = 8 + 8 * n by omega), ← Nat.div_div_eq_div_mul]
      congr 1
      omega
theorem leNat_take (l : List Byte) (n : Nat) : leNat (l.take n) = leNat l % 2 ^ (8 * n) := by
  induction n generalizing l with
  | zero => rw [List.take_zero, Nat.mul_zero, Nat.pow_zero, Nat.mod_one]; rfl
  | succ n ih =>
    cases l with
    | nil => exact (Nat.zero_mod _).symm
    | cons b r =>
      have small : b.toNat < 256 := b.isLt
      rw [List.take_succ_cons, leNat, leNat, ih, two_pow_split (show 8 * (n + 1) = 8 + 8 * n by omega), Nat.mod_mul,
        show (b.toNat + 256 * leNat r) / 2 ^ 8 = leNat r by omega]
      omega
/-- Bytes within a run of bytes. -/
theorem State.bytesAt_within (s : State) {k o n N : Nat} (inside : o + n ≤ N) : s.bytesAt (k + o) n = ((s.bytesAt k N).drop o).take n := by
  refine List.ext_getElem (by simp [State.bytesAt]; omega) fun i hi _ => ?_
  simp [State.bytesAt, Nat.add_assoc]
theorem State.readAt_lane (s : State) (k : Nat) {e : Nat} (he : e < 16) :
    s.readAt (k + 4 * e) 4 = laneOf 32 (bytesVec (s.bytesAt k 64)) e := by
  rw [State.readAt, s.bytesAt_within (N := 64) (by omega), leNat_take, leNat_drop, bytesVec, laneOf_ofNat (by omega),
    show 8 * (4 * e) = 32 * e by omega]
theorem vec_ext {x y : Vec} (bytes : ∀ i, i < 64 → x.extractLsb' (8 * i) 8 = y.extractLsb' (8 * i) 8) : x = y := by
  refine BitVec.eq_of_getLsbD_eq fun b hb => ?_
  have bit := congrArg (fun v => v.getLsbD (b % 8)) (bytes (b / 8) (by omega))
  simpa [BitVec.getLsbD_extractLsb', Nat.mod_lt, Nat.div_add_mod] using bit
theorem bytesVec_vecBytes (v : Vec) : bytesVec (vecBytes v 0 64) = v := by
  refine vec_ext fun i hi => ?_
  rw [bytesVec_byte (by simpa [vecBytes] using hi) hi]
  simp [vecBytes]
/-- The lane of a line that is made of patterns. -/
theorem laneOf_line (f : Nat → Nat) (small : ∀ i, f i < 2 ^ 32) {e : Nat} (he : e < 16) :
    laneOf 32 (BitVec.ofNat 512 ((List.range 16).foldr (fun i a => f i + 2 ^ 32 * a) 0)) e = f e := by
  have same : (List.range 16).foldr (fun i a => f i + 2 ^ 32 * a) 0 =
      ((List.range 16).map f).foldr (fun x a => x % 2 ^ 32 + 2 ^ 32 * a) 0 := by
    rw [List.foldr_map]
    congr 1
    funext i a
    rw [Nat.mod_eq_of_lt (small i)]
  rw [laneOf_ofNat (by omega), same, foldr_lane 32 _ e (by simpa using he), List.getElem_map, List.getElem_range,
    Nat.mod_eq_of_lt (small e)]

/-- The triple that merging two groups of lines gives in a lane. -/
def mergedLane (a b : List Vec) (i : Nat) : Ms :=
  mergeMs ⟨laneOf 32 ((a[0]?).getD 0) i, laneOf 32 ((a[1]?).getD 0) i, laneOf 32 ((a[2]?).getD 0) i⟩
    ⟨laneOf 32 ((b[0]?).getD 0) i, laneOf 32 ((b[1]?).getD 0) i, laneOf 32 ((b[2]?).getD 0) i⟩
def mergedLine (a b : List Vec) (g : Ms → Nat) : Vec :=
  BitVec.ofNat 512 ((List.range 16).foldr (fun i acc => g (mergedLane a b i) + 2 ^ 32 * acc) 0)
theorem mergeGroup_lines (a b : List Vec) : mergeGroup a b = [mergedLine a b Ms.n, mergedLine a b Ms.mu, mergedLine a b Ms.m2] := by
  unfold mergeGroup
  dsimp only
  rw [List.foldr_map, List.foldr_map, List.foldr_map]
  rfl
theorem mergedLane_lt (a b : List Vec) (i : Nat) :
    (mergedLane a b i).n < 2 ^ 32 ∧ (mergedLane a b i).mu < 2 ^ 32 ∧ (mergedLane a b i).m2 < 2 ^ 32 :=
  mergeMs_lt ⟨laneOf_lt .., laneOf_lt .., laneOf_lt ..⟩ ⟨laneOf_lt .., laneOf_lt .., laneOf_lt ..⟩

/-- What stands in the middle of a run of bytes that has been written. -/
theorem State.bytesAt_writeAt_mid (s : State) (h : Hart) {k : Nat} (l m r : List Byte)
    (plain : ∀ i, i < (l ++ (m ++ r)).length → plainKey (k + i) = true) (some : 0 < m.length) :
    (s.writeAt h k (l ++ (m ++ r))).bytesAt (k + l.length) m.length = m := by
  refine List.ext_getElem (by simp [State.bytesAt]) fun i hi hm => ?_
  have size : (l ++ (m ++ r)).length = l.length + (m.length + r.length) := by rw [List.length_append, List.length_append]
  simp only [State.bytesAt, List.getElem_map, List.getElem_range]
  rw [State.byteAt_plain _ (by rw [Nat.add_assoc]; exact plain _ (by omega)),
    State.writeAt_plain _ _ (k := k) (plain 0 (by omega)), Memory.get_write, if_pos (by omega), Nat.add_assoc,
        Nat.add_sub_cancel_left,
    List.getElem?_append_right (Nat.le_add_right ..), Nat.add_sub_cancel_left, List.getElem?_append_left hm,
        List.getElem?_eq_getElem hm]
  rfl
theorem State.bytesAt_congr_plain {s t : State} (h : t.mem = s.mem) {k n : Nat} (plain : ∀ i, i < n → plainKey (k + i) = true) :
    t.bytesAt k n = s.bytesAt k n :=
  List.map_congr_left fun i hi => State.byteAt_congr_plain h (plain i (List.mem_range.1 hi))

/-! ### FSEND -/

section
variable {s : State} {sa sh sn : Reg} {scope : BitVec 3}

/-- The endpoint that a word names. -/
def endpointOf (w : Word) : Nat := w.toNat % 2 ^ 12
def fsendBad (w : Word) (n : Nat) : Prop := n = 0 ∨ 15 < n ∨ w.extractLsb' 28 4 ≠ 0#4 ∨ w.extractLsb' 48 16 ≠ 0#16
def fsendForeign (s : State) (w : Word) : Prop :=
  if endpointOf w = 0 then 96 ≤ fsendCluster w ∨ s.dieIn s.myPart (fsendDie w) = false else s.peerOk s.myPart (endpointOf w) =
      false
theorem fsendForeign_iff (s : State) (w : Word) : fsendForeign s w ↔
    (decide (endpointOf w ≠ 0) && !s.peerOk s.myPart (endpointOf w)) = true ∨
      (decide (endpointOf w = 0) && (decide (96 ≤ fsendCluster w) || !s.dieIn s.myPart (fsendDie w))) = true := by
  unfold fsendForeign
  by_cases here : endpointOf w = 0
  · simp [here]
  · simp [here]

theorem exec_fsend [Decidable (fsendBad (s.rs sh) (s.rs sn).toNat)] [Decidable (fsendForeign s (s.rs sh))] :
    exec (.fsend sa sh sn scope) s = if fsendBad (s.rs sh) (s.rs sn).toNat then takeTrap s .illegal 0 0
    else if (s.rs sa).toNat % 64 ≠ 0 then takeTrap s .misalign (s.rs sa) 0
    else if inClusterSpad (hartCl s.cur) (s.rs sa) (64 * (s.rs sn).toNat) = false then addressTrap s .window (s.rs sa)
    else if fsendForeign s (s.rs sh) then takeTrap s .window 0 0
    else if s.held s.cur (s.rs sa).toNat (64 * (s.rs sn).toNat) then s.stalled (.fsend sa sh sn scope)
    else withRelease s fun u =>
      if endpointOf (s.rs sh) ≠ 0 then (u.sendPeer (endpointOf (s.rs sh)) 3 (s.rs sh) 0 (ownLines u (s.rs sa).toNat (s.rs
          sn).toNat)).doneStrong
      else (u.pushMsg u.cur (.packet (fsendCore (s.rs sh)) (fsendCh (s.rs sh))
        (headerWord (s.rs sn).toNat 0 (hartCore u.cur) ((s.rs sh).extractLsb' 32 16))
        (ownLines u (s.rs sa).toNat (s.rs sn).toNat))).doneStrong := by
  change execFsend sa sh sn scope s = _
  unfold execFsend
  dsimp only
  refine if_congr (by simp [fsendBad, or_assoc]) rfl (if_congr Iff.rfl rfl (if_congr (by simp) rfl ?_))
  exact (ite_or ..).symm.trans (if_congr (fsendForeign_iff s (s.rs sh)).symm rfl rfl)
theorem fsend_own [Decidable (fsendForeign s (s.rs sh))] (good : ¬fsendBad (s.rs sh) (s.rs sn).toNat)
    (aligned : (s.rs sa).toNat % 64 = 0) (own : inClusterSpad (hartCl s.cur) (s.rs sa) (64 * (s.rs sn).toNat) = true) :
    exec (.fsend sa sh sn scope) s = if fsendForeign s (s.rs sh) then takeTrap s .window 0 0
    else if s.held s.cur (s.rs sa).toNat (64 * (s.rs sn).toNat) then s.stalled (.fsend sa sh sn scope)
    else withRelease s fun u =>
      if endpointOf (s.rs sh) ≠ 0 then (u.sendPeer (endpointOf (s.rs sh)) 3 (s.rs sh) 0 (ownLines u (s.rs sa).toNat (s.rs
          sn).toNat)).doneStrong
      else (u.pushMsg u.cur (.packet (fsendCore (s.rs sh)) (fsendCh (s.rs sh))
        (headerWord (s.rs sn).toNat 0 (hartCore u.cur) ((s.rs sh).extractLsb' 32 16))
        (ownLines u (s.rs sa).toNat (s.rs sn).toNat))).doneStrong := by
  classical
  exact exec_fsend.trans ((if_neg good).trans ((if_neg (fun h => h aligned)).trans (if_neg (by rw [own]; nofun))))

end

/-! ### Packet reductions -/

/-- A packet for a peer is in the outbox, and on its way where the endpoint names a partition of this module. -/
theorem sendPeer_spec (s : State) (ep k : Nat) (w pw : Word) (l : List Vec) :
    (s.sendPeer ep k w pw l).outbox = s.outbox ++ [.packet s.myPart ep k w pw l] ∧
      ((({ s with outbox := s.outbox ++ [.packet s.myPart ep k w pw l] } : State).localPeer s.myPart ep = none →
        (s.sendPeer ep k w pw l).net = s.net) ∧
      ∀ x, ({ s with outbox := s.outbox ++ [.packet s.myPart ep k w pw l] } : State).localPeer s.myPart ep = some x →
        ∃ q, (s.sendPeer ep k w pw l).net = s.net ++ [q] ∧ q.item = .peer
            { src := x, kind := k, word := w, peerWord := pw, lines := l }) := by
  refine ⟨?_, fun none => ?_, fun x known => ?_⟩
  · unfold State.sendPeer
    dsimp only
    split <;> rfl
  · unfold State.sendPeer
    dsimp only
    split
    · rfl
    · next src known => cases none.symm.trans known
  · unfold State.sendPeer
    dsimp only
    split
    · next none => cases known.symm.trans none
    · next src known' => cases known.symm.trans known'; exact ⟨_, rfl, rfl⟩

section
variable {i : Instr} {kind : Nat} {st sa sn sp : Reg} {s : State}

def reduceBad (kind n : Nat) (w : Word) : Prop :=
  n = 0 ∨ 128 < n ∨ (kind = 5 ∧ n % 3 ≠ 0) ∨ w.extractLsb' 12 4 ≠ 0#4 ∨ w.extractLsb' 41 23 ≠ 0#23 ∨ (kind ≠ 7 ∧ w.extractLsb' 16 16 ≠ 0#16)
def reduceAligned (kind : Nat) (w t : Word) : Prop := endpointOf w = 0 → t.toNat % (if kind = 7 then 4 else 64) = 0
def reduceForeign (s : State) (kind n : Nat) (w t : Word) : Prop :=
  if endpointOf w = 0 then reduceTarget s s.myPart kind t n = false else s.peerOk s.myPart (endpointOf w) = false

/-- The two ways in which a reduction names nothing that it may reach. -/
theorem reduceForeign_ite (s : State) (kind n : Nat) (w t : Word) [Decidable (reduceForeign s kind n w t)] (r : Result) :
    (if (decide (endpointOf w = 0) && !reduceTarget s s.myPart kind t n) = true then addressTrap s .window t
      else if (decide (endpointOf w ≠ 0) && !s.peerOk s.myPart (endpointOf w)) = true then takeTrap s .window 0 0 else r) =
    if reduceForeign s kind n w t then (if endpointOf w = 0 then addressTrap s .window t else takeTrap s .window 0 0) else r := by
  by_cases here : endpointOf w = 0
  · have foreign : reduceForeign s kind n w t ↔ reduceTarget s s.myPart kind t n = false := iff_of_eq (if_pos here)
    simp [here, foreign]
  · have foreign : reduceForeign s kind n w t ↔ s.peerOk s.myPart (endpointOf w) = false := iff_of_eq (if_neg here)
    simp [here, foreign]

theorem exec_reduce (reduces : packetOf i = some (kind, st, sa, sn, sp)) [Decidable (reduceBad kind (s.rs sn).toNat (s.rs sp))]
    [Decidable (reduceAligned kind (s.rs sp) (s.rs st))] [Decidable (reduceForeign s kind (s.rs sn).toNat (s.rs sp) (s.rs st))] :
    exec i s = if reduceBad kind (s.rs sn).toNat (s.rs sp) then takeTrap s .illegal 0 0
    else if (s.rs sa).toNat % 64 ≠ 0 then takeTrap s .misalign (s.rs sa) 0
    else if ¬reduceAligned kind (s.rs sp) (s.rs st) then takeTrap s .misalign (s.rs st) 0
    else if inClusterSpad (hartCl s.cur) (s.rs sa) (64 * (s.rs sn).toNat) = false then addressTrap s .window (s.rs sa)
    else if reduceForeign s kind (s.rs sn).toNat (s.rs sp) (s.rs st) then
      (if endpointOf (s.rs sp) = 0 then addressTrap s .window (s.rs st) else takeTrap s .window 0 0)
    else if s.held s.cur (s.rs sa).toNat (64 * (s.rs sn).toNat) then s.stalled i
    else withRelease s fun u =>
      if endpointOf (s.rs sp) ≠ 0 then
        (u.sendPeer (endpointOf (s.rs sp)) kind (s.rs st) (s.rs sp) (ownLines u (s.rs sa).toNat (s.rs sn).toNat)).doneStrong
      else (u.pushMsg u.cur (.reduce kind (s.rs st).toNat ((s.rs sp).extractLsb' 16 16) (pwNotify (s.rs sp))
        (ownLines u (s.rs sa).toNat (s.rs sn).toNat))).doneStrong := by
  have own : exec i s = packetReduce s i kind st sa sn sp := by
    cases i
    case msred => cases reduces; rfl
    case xorred => cases reduces; rfl
    case facc => cases reduces; rfl
    all_goals cases reduces
  rw [own]
  unfold packetReduce
  dsimp only
  refine if_congr (by simp [reduceBad, or_assoc]) rfl (if_congr Iff.rfl rfl (if_congr ?_ rfl (if_congr (by simp) rfl ?_)))
  · simp [reduceAligned, endpointOf]
  · exact reduceForeign_ite ..
theorem reduce_own (reduces : packetOf i = some (kind, st, sa, sn, sp)) [Decidable (reduceForeign s kind (s.rs sn).toNat (s.rs
    sp) (s.rs st))]
    (good : ¬reduceBad kind (s.rs sn).toNat (s.rs sp)) (straight : (s.rs sa).toNat % 64 = 0)
    (fits : reduceAligned kind (s.rs sp) (s.rs st)) (own : inClusterSpad (hartCl s.cur) (s.rs sa) (64 * (s.rs sn).toNat) = true) :
    exec i s = if reduceForeign s kind (s.rs sn).toNat (s.rs sp) (s.rs st) then
      (if endpointOf (s.rs sp) = 0 then addressTrap s .window (s.rs st) else takeTrap s .window 0 0)
    else if s.held s.cur (s.rs sa).toNat (64 * (s.rs sn).toNat) then s.stalled i
    else withRelease s fun u =>
      if endpointOf (s.rs sp) ≠ 0 then
        (u.sendPeer (endpointOf (s.rs sp)) kind (s.rs st) (s.rs sp) (ownLines u (s.rs sa).toNat (s.rs sn).toNat)).doneStrong
      else (u.pushMsg u.cur (.reduce kind (s.rs st).toNat ((s.rs sp).extractLsb' 16 16) (pwNotify (s.rs sp))
        (ownLines u (s.rs sa).toNat (s.rs sn).toNat))).doneStrong := by
  classical
  exact (exec_reduce reduces).trans ((if_neg good).trans ((if_neg (fun h => h straight)).trans ((if_neg (fun h => h fits)).trans
    (if_neg (by rw [own]; nofun)))))

end

/-! ### FRECV -/

section
variable {s : State} {rd ch : Reg} (ends : s.mayEnd = true)
include ends

theorem frecv_empty (none : nextEntry s.ended.cur 0 ((s.ended.core (hartCore s.cur)).arrivals ch.toNat) = none) :
    exec (.frecv rd ch) s = s.ended.stalled (.frecv rd ch) := by
  rw [← State.cur_ended s] at none
  refine (withChunkEnd_mayEnd s _ ends).trans ?_
  rw [none]
theorem frecv_payload {x : ArrEntry} (first : nextEntry s.ended.cur 0 ((s.ended.core (hartCore s.cur)).arrivals ch.toNat) = some x)
    (payload : x.kind ≠ .header) : exec (.frecv rd ch) s = .next (s.ended.ws rd 0).pastStrong := by
  rw [← State.cur_ended s] at first
  refine (withChunkEnd_mayEnd s _ ends).trans ?_
  rw [first]
  dsimp only
  split
  · next header => exact absurd header payload
  · rfl
theorem frecv_header {x : ArrEntry} (first : nextEntry s.ended.cur 0 ((s.ended.core (hartCore s.cur)).arrivals ch.toNat) = some x)
    (header : x.kind = .header) :
    exec (.frecv rd ch) s = .next ((s.ended.popTo s.ended.cur ch.toNat 1).ws rd (x.data.setWidth 64)).pastCommit := by
  rw [← State.cur_ended s] at first
  refine (withChunkEnd_mayEnd s _ ends).trans ?_
  rw [first]
  dsimp only
  rw [header]
  rfl

end

/-! ### Delivery -/

section
variable {s : State} {m : Msg} {core c : Nat} {h : Word} {l : List Vec} (id : s.cur ≠ 0) (here : s.msg s.cur = some m)
  (item : m.item = .packet core c h l) (first : firstPacket s m core c = true)
include id here item first

/-- The state in which a packet has been delivered. -/
def deliveredPacket (s : State) (m : Msg) (core c : Nat) (h : Word) (l : List Vec) : State :=
  (s.dropMsg m.id).setCore core ((s.core core).setArrivals c ((s.core core).arrivals c ++
    { kind := .header, data := h.setWidth 512 } :: l.map fun v => { kind := .payload, data := v }))
theorem exec_packetDeliver : exec .packetDeliver s =
    if arrivalRoom s core c < l.length + 1 then .next s else .next (deliveredPacket s m core c h l) := by
  change execPacketDeliver s = _
  unfold execPacketDeliver
  rw [if_neg id, here]
  dsimp only
  rw [item]
  dsimp only
  rw [first]
  simp only [Bool.not_true, Bool.or_false, decide_eq_true_eq]
  rfl
omit id here item first in
theorem deliveredPacket_data : (((deliveredPacket s m core c h l).core core).arrivals c).map ArrEntry.data =
    ((s.core core).arrivals c).map ArrEntry.data ++ h.setWidth 512 :: l := by
  rw [deliveredPacket, State.core_setCore_self, Core.arrivals, Core.setArrivals, Tab.get_set_self, List.map_append,
      List.map_cons, List.map_map]
  congr 2
  exact List.map_id l

end

/-! ### Reductions at their target -/

section
variable {s : State} {m : Msg} {kind k : Nat} {tag : BitVec 16} {ci : Option (BitVec 8)} {l : List Vec} (id : s.cur ≠ 0)
  (here : s.msg s.cur = some m) (item : m.item = .reduce kind k tag ci l)

/-- How many bytes an access of a reduction touches. -/
def reduceSpan (s : State) (kind : Nat) (l : List Vec) : Nat := if s.arg = 0 then 64 * l.length else if kind = 5 then 192 else
    64
/-- The item with what is left of it after an access. -/
def leftOf (m : Msg) (kind : Nat) (tag : BitVec 16) (ci : Option (BitVec 8)) (r : Nat × List Vec) (x : Msg) : Msg :=
  if x.id == m.id then { x with item := .reduce kind r.1 tag ci r.2 } else x
def reducedOnce (s : State) (m : Msg) (kind : Nat) (tag : BitVec 16) (ci : Option (BitVec 8)) (r : State × Nat × List Vec) :
    State :=
  if r.2.2.isEmpty then r.1.dropMsg m.id else { r.1 with net := r.1.net.map (leftOf m kind tag ci r.2) }

include id here item
theorem exec_packetReduceArrival : exec .packetReduceArrival s =
    if !s.firstOf m || kind ≠ 7 && s.guarded k (reduceSpan s kind l) then .next s
    else if s.arg = 0 then .next (performItem s m)
    else .next (reducedOnce s m kind tag ci (reduceStep s m.hart kind k tag ci l)) := by
  change execPacketReduceArrival s = _
  unfold execPacketReduceArrival
  rw [if_neg id, here]
  dsimp only
  rw [item]
  dsimp only
  exact if_congr Iff.rfl rfl (if_congr Iff.rfl rfl (apply_ite Host.Outcome.next ..).symm)
theorem packetReduce_waits (writes : kind ≠ 7) (held : s.guarded k (reduceSpan s kind l) = true) : exec .packetReduceArrival s
    = .next s :=
  (exec_packetReduceArrival id here item).trans (if_pos (by rw [held, decide_eq_true writes, Bool.and_true, Bool.or_true]))
variable (first : s.firstOf m = true)
include first
theorem packetReduce_all (all : s.arg = 0) (free : kind = 7 ∨ s.guarded k (64 * l.length) = false) :
    exec .packetReduceArrival s = .next (performItem s m) := by
  have span : reduceSpan s kind l = 64 * l.length := if_pos all
  refine (exec_packetReduceArrival id here item).trans ((if_neg ?_).trans (if_pos all))
  rw [first, span]
  rcases free with tile | free
  · simp [tile]
  · simp [free]
theorem packetReduce_once (one : s.arg ≠ 0) (free : s.guarded k (if kind = 5 then 192 else 64) = false) : exec
    .packetReduceArrival s =
    .next (reducedOnce s m kind tag ci (reduceStep s m.hart kind k tag ci l)) := by
  have span : reduceSpan s kind l = if kind = 5 then 192 else 64 := if_neg one
  refine (exec_packetReduceArrival id here item).trans ((if_neg ?_).trans (if_neg one))
  rw [first, span, free]
  simp

end

/-! ### One access of a reduction -/

section
variable (s : State) (h : Hart) (k : Nat) (tag : BitVec 16) (ci : Option (BitVec 8)) {l : List Vec}

omit s h k tag ci in
theorem drop_notEmpty {n : Nat} (more : n < l.length) : (l.drop n).isEmpty = false :=
  List.isEmpty_eq_false_iff.2 (List.ne_nil_of_length_pos (by rw [List.length_drop]; omega))
theorem reduceStep_xor (more : 1 < l.length) : reduceStep s h 6 k tag ci l =
    (s.writeAt h k (vecBytes (bytesVec (s.bytesAt k 64) ^^^ l.head?.getD 0) 0 64), k + 64, l.drop 1) := by
  have left : (l.drop 1).isEmpty = false := drop_notEmpty more
  unfold reduceStep
  dsimp only
  rw [left]
  rfl
/-- The lines of the group at the target, and the bytes that the merge leaves there. -/
def targetGroup (s : State) (k : Nat) : List Vec := (List.range 3).map fun i => bytesVec (s.bytesAt (k + 64 * i) 64)
def mergedBytes (s : State) (k : Nat) (l : List Vec) (g : Ms → Nat) : List Byte := vecBytes (mergedLine (targetGroup s k)
    (l.take 3) g) 0 64
theorem reduceStep_ms (more : 3 < l.length) : reduceStep s h 5 k tag ci l =
    (s.writeAt h k (mergedBytes s k l Ms.n ++ (mergedBytes s k l Ms.mu ++ (mergedBytes s k l Ms.m2 ++ []))), k + 192, l.drop 3) := by
  have left : (l.drop 3).isEmpty = false := drop_notEmpty more
  unfold reduceStep
  dsimp only
  rw [left, mergeGroup_lines]
  rfl

theorem length_mergedBytes (s : State) (k : Nat) (l : List Vec) (g : Ms → Nat) : (mergedBytes s k l g).length = 64 := by
  simp [mergedBytes, vecBytes]
variable {k} (plain : ∀ j, j < 192 → plainKey (k + j) = true)
include plain
/-- The three lines that a merge leaves at its target. -/
theorem mergedBytes_written (l : List Vec) {u : State} (wrote : u = s.writeAt h k
      (mergedBytes s k l Ms.n ++ (mergedBytes s k l Ms.mu ++ (mergedBytes s k l Ms.m2 ++ [])))) :
    u.bytesAt (k + 64 * 0) 64 = mergedBytes s k l Ms.n ∧ u.bytesAt (k + 64 * 1) 64 = mergedBytes s k l Ms.mu ∧
      u.bytesAt (k + 64 * 2) 64 = mergedBytes s k l Ms.m2 := by
  have sizes := length_mergedBytes s k l
  generalize mergedBytes s k l = part at sizes wrote ⊢
  have total : (part Ms.n ++ (part Ms.mu ++ (part Ms.m2 ++ []))).length = 192 := by simp [sizes]
  have first := s.bytesAt_writeAt_mid h (k := k) [] (part Ms.n) (part Ms.mu ++ (part Ms.m2 ++ []))
    (fun i hi => plain i (total ▸ hi)) (by rw [sizes]; decide)
  have second := s.bytesAt_writeAt_mid h (k := k) (part Ms.n) (part Ms.mu) (part Ms.m2 ++ [])
    (fun i hi => plain i (total ▸ hi)) (by rw [sizes]; decide)
  have third := s.bytesAt_writeAt_mid h (k := k) (part Ms.n ++ part Ms.mu) (part Ms.m2) []
    (fun i hi => plain i (by rw [List.append_assoc] at hi; exact total ▸ hi)) (by rw [sizes]; decide)
  rw [List.append_assoc] at third
  rw [List.length_append] at third
  rw [sizes] at first second third
  rw [sizes] at second third
  rw [sizes] at third
  rw [wrote]
  exact ⟨first, second, third⟩
omit plain in
theorem readAt_mergedBytes (l : List Vec) {u : State} {o e : Nat} (he : e < 16) (g : Ms → Nat)
    (small : ∀ i, g (mergedLane (targetGroup s k) (l.take 3) i) < 2 ^ 32) (stands : u.bytesAt o 64 = mergedBytes s k l g) :
    u.readAt (o + 4 * e) 4 = g (mergedLane (targetGroup s k) (l.take 3) e) := by
  rw [u.readAt_lane o he, stands, mergedBytes, bytesVec_vecBytes]
  exact laneOf_line (fun i => g (mergedLane (targetGroup s k) (l.take 3) i)) small he
omit plain in
/-- The triple of a lane, from what stands at the target and what the packet brings. -/
theorem mergedLane_target (k : Nat) {l : List Vec} {e : Nat} (he : e < 16) : mergedLane (targetGroup s k) (l.take 3) e =
    mergeMs ⟨s.readAt (k + 64 * 0 + 4 * e) 4, s.readAt (k + 64 * 1 + 4 * e) 4, s.readAt (k + 64 * 2 + 4 * e) 4⟩
      ⟨laneOf 32 ((l[0]?).getD 0) e, laneOf 32 ((l[1]?).getD 0) e, laneOf 32 ((l[2]?).getD 0) e⟩ := by
  rw [State.readAt_lane _ _ he, State.readAt_lane _ _ he, State.readAt_lane _ _ he, mergedLane]
  simp [targetGroup, List.getElem?_take]

end

section
variable {s : State} {m : Msg} {k : Nat} {tag : BitVec 16} {ci : Option (BitVec 8)} {l : List Vec} (id : s.cur ≠ 0)
  (here : s.msg s.cur = some m) (first : s.firstOf m = true) (one : s.arg ≠ 0)
include id here first one

/-- XORRED combines one line and touches nothing else. -/
theorem xorred_arrival (item : m.item = .reduce 6 k tag ci l) (free : s.guarded k 64 = false) (more : 1 < l.length)
    (plain : ∀ j, j < 64 → plainKey (k + j) = true) : ∃ t, exec .packetReduceArrival s = .next t ∧
      t.bytesAt k 64 = vecBytes (bytesVec (s.bytesAt k 64) ^^^ l.head?.getD 0) 0 64 ∧
      ∀ b, plainKey b = true → b < k ∨ k + 64 ≤ b → t.byteAt b = s.byteAt b := by
  have goes := packetReduce_once id here item first one free
  rw [reduceStep_xor _ _ _ _ _ more, reducedOnce, if_neg (Bool.eq_false_iff.1 (drop_notEmpty more))] at goes
  generalize bytes : vecBytes (bytesVec (s.bytesAt k 64) ^^^ l.head?.getD 0) 0 64 = d at goes ⊢
  have size : d.length = 64 := by rw [← bytes]; simp [vecBytes]
  refine ⟨_, goes, ?_, fun b hb outside => ?_⟩
  · have stands := s.bytesAt_writeAt_mid m.hart (k := k) [] d [] (fun i hi => plain i (by simpa [size] using hi))
      (by rw [size]; decide)
    rw [List.nil_append, List.append_nil, size] at stands
    exact (State.bytesAt_congr_plain rfl plain).trans stands
  · exact (State.byteAt_congr_plain rfl hb).trans (State.byteAt_writeAt_outside s m.hart (k := k) (plain 0 (by decide)) hb (by rwa [size]))
/-- MSRED merges one group of three lines, lane by lane, and touches nothing else. -/
theorem msred_arrival (item : m.item = .reduce 5 k tag ci l) (free : s.guarded k 192 = false) (more : 3 < l.length)
    (plain : ∀ j, j < 192 → plainKey (k + j) = true) : ∃ t, exec .packetReduceArrival s = .next t ∧
      (∀ e, e < 16 → t.readAt (k + 64 * 0 + 4 * e) 4 = (mergedLane (targetGroup s k) (l.take 3) e).n ∧
        t.readAt (k + 64 * 1 + 4 * e) 4 = (mergedLane (targetGroup s k) (l.take 3) e).mu ∧
        t.readAt (k + 64 * 2 + 4 * e) 4 = (mergedLane (targetGroup s k) (l.take 3) e).m2) ∧
      (∀ b, plainKey b = true → b < k ∨ k + 192 ≤ b → t.byteAt b = s.byteAt b) ∧
      t.net = s.net.map (leftOf m 5 tag ci (k + 192, l.drop 3)) := by
  have goes := packetReduce_once id here item first one free
  rw [reduceStep_ms _ _ _ _ _ more, reducedOnce, if_neg (Bool.eq_false_iff.1 (drop_notEmpty more))] at goes
  have total : (mergedBytes s k l Ms.n ++ (mergedBytes s k l Ms.mu ++ (mergedBytes s k l Ms.m2 ++ []))).length = 192 := by
    simp [length_mergedBytes]
  obtain ⟨n, mu, m2⟩ := mergedBytes_written s m.hart plain l rfl
  refine ⟨_, goes, fun e he => ?_, fun b hb outside => ?_, ?_⟩
  · have line (j : Nat) (hj : j < 3) := State.bytesAt_congr_plain (s := s.writeAt m.hart k (mergedBytes s k l Ms.n ++
        (mergedBytes s k l Ms.mu ++ (mergedBytes s k l Ms.m2 ++ [])))) (t := { s.writeAt m.hart k (mergedBytes s k l Ms.n ++
        (mergedBytes s k l Ms.mu ++ (mergedBytes s k l Ms.m2 ++ []))) with net := (s.writeAt m.hart k (mergedBytes s k l Ms.n ++
        (mergedBytes s k l Ms.mu ++ (mergedBytes s k l Ms.m2 ++ [])))).net.map (leftOf m 5 tag ci (k + 192, l.drop 3)) }) rfl
        (k := k + 64 * j) (n := 64) fun i hi => by rw [Nat.add_assoc]; exact plain _ (by omega)
    exact ⟨readAt_mergedBytes s l he Ms.n (fun i => (mergedLane_lt _ _ i).1) ((line 0 (by decide)).trans n),
      readAt_mergedBytes s l he Ms.mu (fun i => (mergedLane_lt _ _ i).2.1) ((line 1 (by decide)).trans mu),
      readAt_mergedBytes s l he Ms.m2 (fun i => (mergedLane_lt _ _ i).2.2) ((line 2 (by decide)).trans m2)⟩
  · exact (State.byteAt_congr_plain rfl hb).trans
      (State.byteAt_writeAt_outside s m.hart (k := k) (plain 0 (by decide)) hb (by rwa [total]))
  · have net (b : List Byte) : (s.writeAt m.hart k b).net = s.net := by
      rw [State.writeAt_plain s m.hart (k := k) (plain 0 (by decide))]
      rfl
    exact congrArg (List.map _) (net _)

end

end Sys2Proof.Machine
end

section
open Sys2Proof Sys2Proof.Machine

/-- Settles O53: FSEND, FRECV and the packet reductions check their words in order, and a packet is delivered, or combined at its target
one line or one group of lines at a time. -/
theorem packets : Obligations.Packets := by
  unfold Obligations.Packets
  classical
  intro i kind st sa sn sp sh rd ch scope s a n w ep f bad foreign here r lines
  refine ⟨fun wrong => exec_fsend.trans (if_pos wrong), fun good crooked => ?_, fun good aligned outside => ?_,
    fun good own out => ?_, fun good own known held => ?_, fun good own known free ends => ?_, fun k pw l => ?_, fun reduces =>
        ?_,
    fun ends => ?_, fun m core c h l id here item first => ?_, fun m kind k tag ci l id here item => packetReduce_waits id here
        item,
    fun m k tag ci l id here item first one free more plain => xorred_arrival id here first one item free more plain,
    fun m k tag ci l id here item first one free more plain => ?_,
    fun m kind k tag ci l id here item first => packetReduce_all id here item first⟩
  · exact exec_fsend.trans ((if_neg good).trans (if_pos crooked))
  · exact exec_fsend.trans ((if_neg good).trans ((if_neg (fun h => h aligned)).trans (if_pos outside)))
  · exact fsend_own good own.1 own.2 |>.trans (if_pos out)
  · exact fsend_own good own.1 own.2 |>.trans ((if_neg known).trans (if_pos held))
  · have goes := (fsend_own (scope := scope) good own.1 own.2).trans ((if_neg known).trans ((if_neg (Bool.eq_false_iff.1 free)).trans
      (withRelease_mayRelease s _ ends)))
    have same : hartCore r.cur = hartCore s.cur := congrArg hartCore (State.cur_released s)
    exact ⟨fun dev => same ▸ goes.trans (if_neg (fun h => h dev)), fun peer => goes.trans (if_pos peer)⟩
  · exact sendPeer_spec r ep k w pw l
  · intro t w ep bad aligned foreign
    refine ⟨fun wrong => (exec_reduce reduces).trans (if_pos wrong), fun good crooked => ?_, fun good straight crooked => ?_,
      fun good straight fits outside => ?_, fun good own fits out => ?_, fun good own fits known held => ?_,
      fun good own fits known free ends => ?_⟩
    · exact (exec_reduce reduces).trans ((if_neg good).trans (if_pos crooked))
    · exact (exec_reduce reduces).trans ((if_neg good).trans ((if_neg (fun h => h straight)).trans (if_pos crooked)))
    · exact (exec_reduce reduces).trans ((if_neg good).trans ((if_neg (fun h => h straight)).trans ((if_neg (fun h => h fits)).trans
        (if_pos outside))))
    · exact (reduce_own reduces good own.1 fits own.2).trans (if_pos out)
    · exact (reduce_own reduces good own.1 fits own.2).trans ((if_neg known).trans (if_pos held))
    · have goes := (reduce_own reduces good own.1 fits own.2).trans ((if_neg known).trans ((if_neg (Bool.eq_false_iff.1 free)).trans
        (withRelease_mayRelease s _ ends)))
      exact ⟨fun dev => goes.trans (if_neg (fun h => h dev)), fun peer => goes.trans (if_pos peer)⟩
  · exact ⟨frecv_empty ends, fun x => frecv_payload ends, fun x => frecv_header ends⟩
  · exact ⟨fun full => (exec_packetDeliver id here item first).trans (if_pos full), fun room =>
      ⟨_, (exec_packetDeliver id here item first).trans (if_neg (Nat.not_lt.2 room)), rfl, rfl, deliveredPacket_data⟩⟩
  · obtain ⟨t, goes, lanes, outside, net⟩ := msred_arrival id here first one item free more plain
    refine ⟨t, goes, fun e he => ?_, outside, net⟩
    have small := mergedLane_lt (targetGroup s k) (l.take 3) e
    obtain ⟨n, mu, m2⟩ := lanes e he
    rw [mergedLane_target s k he] at n mu m2 small
    exact ⟨n.trans (Nat.mod_eq_of_lt small.1).symm, mu.trans (Nat.mod_eq_of_lt small.2.1).symm, m2.trans (Nat.mod_eq_of_lt small.2.2).symm⟩

end

section
/-! SUPPORT. Table queries (R326 to R330): their acceptance, the sequencer's answer, its packing and its delivery. -/

namespace Sys2Proof.Machine

/-! ### Acceptance -/

section
variable {i : Instr} {form need : Nat} {va ss : Reg} {vb : Option Reg} {s : State} (asks : queryOf i = some (form, need, va, ss, vb))

/-- A query word that is not well formed, and the parts of a word. -/
def queryBad (w : Word) : Prop := 2 ^ 16 ≤ w.toNat ∨ w.getLsbD 11 = true
def queryStack (w : Word) : Nat := w.toNat / 256 % 8
def queryCh (w : Word) : Nat := w.toNat / 2 ^ 12 % 16
/-- The query with its vectors, and the state in which it is on its way. -/
def queryWith (s : State) (core form need : Nat) (w : Word) (a b : Vec) : Query :=
  { qid := s.fresh, core := core, ch := queryCh w, stack := queryStack w, slot := w.toNat % 256, form := form, va := a, vb := b
    issued := s.now, need := need, result := none }
def queried (s : State) (core form need : Nat) (w : Word) (a b : Vec) : State :=
  { s with queries := s.queries ++ [queryWith s core form need w a b], fresh := s.fresh + 1 }

include asks
theorem exec_query : exec i s = if (2 ^ 16 ≤ (s.rs ss).toNat || (s.rs ss).getLsbD 11) then takeTrap s .illegal 0 0
    else withDir s (va :: vb.toList) none fun s' =>
      if !s'.stackIn s'.myPart (queryStack (s.rs ss)) then takeTrap s' .window 0 0
      else withRelease s' fun r =>
        if arrivalRoom r (hartCore s.cur) (queryCh (s.rs ss)) < need then r.stalled i
        else withPops r i (va :: vb.toList) fun u v =>
          .next (queried u (hartCore s.cur) form need (s.rs ss) (v va) ((vb.map v).getD 0)).pastCommit := by
  cases i
  case tqB => cases asks; rfl
  case tqH => cases asks; rfl
  case tqPair => cases asks; rfl
  case tqIntp => cases asks; rfl
  all_goals cases asks
theorem query_bad (bad : queryBad (s.rs ss)) : exec i s = takeTrap s .illegal 0 0 :=
  (exec_query asks).trans (if_pos (by rw [Bool.or_eq_true, decide_eq_true_eq]; exact bad))
variable (good : ¬queryBad (s.rs ss))
include good
theorem query_goes : exec i s = withDir s (va :: vb.toList) none fun s' =>
      if !s'.stackIn s'.myPart (queryStack (s.rs ss)) then takeTrap s' .window 0 0
      else withRelease s' fun r =>
        if arrivalRoom r (hartCore s.cur) (queryCh (s.rs ss)) < need then r.stalled i
        else withPops r i (va :: vb.toList) fun u v =>
          .next (queried u (hartCore s.cur) form need (s.rs ss) (v va) ((vb.map v).getD 0)).pastCommit :=
  (exec_query asks).trans (if_neg (by rw [Bool.or_eq_true, decide_eq_true_eq]; exact good))
theorem query_against {n : Reg} (wrong : s.me.regs.against (va :: vb.toList) none = some n) : exec i s = takeTrap s .stream 0
    n.toNat :=
  (query_goes asks good).trans (withDir_against wrong)
variable (right : s.me.regs.against (va :: vb.toList) none = none)
include right
theorem query_foreign (foreign : s.stackIn s.myPart (queryStack (s.rs ss)) = false) : exec i s = takeTrap s .window 0 0 :=
  (query_goes asks good).trans ((withDir_goes right rfl).trans (if_pos (by rw [foreign]; rfl)))
variable (own : s.stackIn s.myPart (queryStack (s.rs ss)) = true) (ends : s.mayRelease = true)
include own ends
theorem query_released : exec i s =
    if arrivalRoom s.released (hartCore s.cur) (queryCh (s.rs ss)) < need then s.released.stalled i
    else withPops s.released i (va :: vb.toList) fun u v =>
      .next (queried u (hartCore s.cur) form need (s.rs ss) (v va) ((vb.map v).getD 0)).pastCommit :=
  (query_goes asks good).trans ((withDir_goes right rfl).trans ((if_neg (by rw [own]; nofun)).trans (withRelease_mayRelease s _ ends)))
theorem query_full (full : arrivalRoom s.released (hartCore s.cur) (queryCh (s.rs ss)) < need) : exec i s = s.released.stalled
    i :=
  (query_released asks good right own ends).trans (if_pos full)
variable (room : need ≤ arrivalRoom s.released (hartCore s.cur) (queryCh (s.rs ss)))
include room
theorem query_empty (none : popAll s.released (va :: vb.toList) = .stall) : exec i s = s.released.stalled i := by
  refine (query_released asks good right own ends).trans ((if_neg (Nat.not_lt.2 room)).trans ?_)
  rw [withPops, none]
theorem query_sent {vals : List (Reg × Vec)} {u : State} (popped : popAll s.released (va :: vb.toList) = .ok vals u) : exec i s
    =
    .next (queried u (hartCore s.cur) form need (s.rs ss) (delivered s.released vals va)
      ((vb.map (delivered s.released vals)).getD 0)).pastCommit := by
  refine (query_released asks good right own ends).trans ((if_neg (Nat.not_lt.2 room)).trans ?_)
  rw [withPops, popped]
  rfl

end
theorem exec_tqReserve {i : Instr} {form need : Nat} {va ss : Reg} {vb : Option Reg} {s : State}
    (asks : queryOf i = some (form, need, va, ss, vb)) (head : s.stalledHead s.cur = some i) : exec .tqReserve s = exec i s := by
  change execTqReserve s = _
  unfold execTqReserve
  rw [head]
  cases i
  case tqB => rfl
  case tqH => rfl
  case tqPair => rfl
  case tqIntp => rfl
  all_goals cases asks

/-! ### Answer and delivery -/

section
variable {s : State} {q : Query} (alone : s.queries = [q])
include alone

theorem answer_taken (first : s.arg = 0) (own : q.stack = s.cur) (asked : q.result = none) (early : s.now < q.issued + 48) :
    exec .tableQueryAnswer s = .next { (answerQuery s q).2 with queries := [{ q with result := some (answerQuery s q).1 }] } := by
  have same : (answerQuery s q).2.queries = s.queries ∧ (answerQuery s q).2.now = s.now := by
    unfold answerQuery
    dsimp only
    split
    · exact ⟨rfl, rfl⟩
    · split
      · exact ⟨rfl, rfl⟩
      · dsimp only
        split <;> exact ⟨rfl, rfl⟩
  change execTableQueryAnswer s = _
  unfold execTableQueryAnswer
  rw [alone, first]
  simp [own, asked, deliverQuery, same, alone, Nat.not_le.2 early]
theorem answer_delivered {l : List Vec} {mark : Option Nat} (answered : q.result = some (l, mark)) (due : q.issued + 48 ≤ s.now) :
    exec .tableQueryAnswer s = .next { s.setCore q.core ((s.core q.core).setArrivals q.ch ((s.core q.core).arrivals q.ch ++
      l.zipIdx.map fun e => { kind := .query q.qid (if e.2 = 0 then mark else none), data := e.1 })) with queries := [] } := by
  change execTableQueryAnswer s = _
  unfold execTableQueryAnswer
  rw [alone]
  simp [answered, deliverQuery, alone, due]

end
/-! ### Packed results -/

/-- The bytes of one result among those of all. -/
theorem flatMap_leBytes (size : Nat) (l : List Nat) {k : Nat} (hk : k < l.length) :
    ((l.flatMap (leBytes size)).drop (size * k)).take size = leBytes size l[k] := by
  induction l generalizing k with
  | nil => cases hk
  | cons x r ih =>
    cases k with
    | zero => simp
    | succ k =>
      rw [List.flatMap_cons, Nat.mul_succ, Nat.add_comm, ← List.drop_drop, List.drop_left' (length_leBytes ..),
          List.getElem_cons_succ]
      exact ih (Nat.lt_of_succ_lt_succ hk)
theorem length_flatMap_leBytes (size : Nat) (l : List Nat) : (l.flatMap (leBytes size)).length = l.length * size := by
  induction l with
  | nil => exact (Nat.zero_mul size).symm
  | cons x r ih => rw [List.flatMap_cons, List.length_append, ih, length_leBytes, List.length_cons, Nat.succ_mul, Nat.add_comm]
theorem length_packResults (size : Nat) (l : List Nat) : (packResults size l).length = (l.length * size + 63) / 64 := by
  unfold packResults
  rw [List.length_map, List.length_range, length_flatMap_leBytes]
/-- Each result stands in the lane of its number. -/
theorem laneOf_packResults {size : Nat} (divides : size ∣ 64) (l : List Nat) {k : Nat} (hk : k < l.length) :
    laneOf (8 * size) (((packResults size l)[k * size / 64]?).getD 0) (k % (64 / size)) = l[k] % 2 ^ (8 * size) := by
  obtain ⟨per, hper⟩ := divides
  have sizePos : 0 < size := Nat.pos_of_ne_zero fun zero => by rw [zero, Nat.zero_mul] at hper; cases hper
  have perPos : 0 < per := Nat.pos_of_ne_zero fun zero => by rw [zero, Nat.mul_zero] at hper; cases hper
  have row : k * size / 64 = k / per := by rw [hper, Nat.mul_comm size, Nat.mul_div_mul_right _ _ sizePos]
  have lane : 64 / size = per := by rw [hper, Nat.mul_div_cancel_left _ sizePos]
  have total := length_flatMap_leBytes size l
  have inLane : k % per < per := Nat.mod_lt _ perPos
  have fits : size * (k % per) + size ≤ 64 := by rw [hper]; exact Nat.mul_le_mul_left size inLane
  have place : 64 * (k / per) + size * (k % per) = size * k := by
    rw [hper, Nat.mul_assoc, ← Nat.mul_add, Nat.div_add_mod]
  have inside : size * k + size ≤ l.length * size := by rw [Nat.mul_comm l.length]; exact Nat.mul_le_mul_left size hk
  have rows : k / per < ((l.flatMap (leBytes size)).length + 63) / 64 := by rw [total]; omega
  have bits : 8 * size * (k % per) = 8 * (size * (k % per)) := Nat.mul_assoc ..
  rw [row, lane, packResults, List.getElem?_map, List.getElem?_range rows, Option.map_some, Option.getD_some, bytesVec,
    laneOf_ofNat (by omega), bits, ← leNat_drop, ← leNat_take, List.drop_take, List.take_take, List.drop_drop, place,
    Nat.min_eq_left (by omega), flatMap_leBytes size l hk, leNat_leBytes]
theorem leNat_zeros {l : List Byte} (zero : ∀ x ∈ l, x = 0) : leNat l = 0 := by
  induction l with
  | nil => rfl
  | cons x r ih =>
    rw [leNat, zero x List.mem_cons_self, ih fun y hy => zero y (List.mem_cons_of_mem _ hy)]
    rfl
theorem leBytes_zero (n : Nat) : ∀ x ∈ leBytes n 0, x = 0 := by
  induction n with
  | zero => exact fun x hx => absurd hx List.not_mem_nil
  | succ n ih =>
    intro x hx
    rcases List.mem_cons.1 hx with rfl | rest
    · rfl
    · exact ih x rest
theorem packResults_zero {size : Nat} {l : List Nat} (zero : ∀ x ∈ l, x = 0) : ∀ v ∈ packResults size l, v = 0 := by
  intro v hv
  obtain ⟨i, -, rfl⟩ := List.mem_map.1 hv
  rw [bytesVec, leNat_zeros fun x hx => ?_]
  · rfl
  · obtain ⟨y, hy, mem⟩ := List.mem_flatMap.1 (List.mem_of_mem_drop (List.mem_of_mem_take hx))
    rw [zero y hy] at mem
    exact leBytes_zero size x mem

/-! ### What the sequencer answers -/

section
variable {s : State} {q : Query}

theorem answerQuery_mem : (answerQuery s q).2.mem = s.mem := by
  unfold answerQuery
  dsimp only
  split
  · rfl
  · split
    · rfl
    · dsimp only
      split <;> rfl
theorem answerQuery_absent (none : Tab.get none (s.stack q.stack).htabs q.slot = none) : ∀ e ∈ (answerQuery s q).1.1, e = 0 := by
  unfold answerQuery
  dsimp only
  rw [none]
  exact packResults_zero fun x hx => by obtain ⟨_, -, rfl⟩ := List.mem_map.1 hx; rfl

variable {t : HTable} (table : Tab.get none (s.stack q.stack).htabs q.slot = some t)
include table

/-- The results of a query under a table, one for each index. -/
def queryResults (s : State) (q : Query) (t : HTable) : List (Nat × Bool × Bool) := (queryIndices q).map (queryResult s q.stack t q.form)
theorem answerQuery_table (has : ¬(q.form = 3 ∧ t.ien = false)) : answerQuery s q =
    ((packResults (if q.form = 3 then 4 else 2 ^ t.width) ((queryResults s q t).map Prod.fst),
      if (queryResults s q t).any (fun e => e.2.2) then some q.slot else none),
      if ((queryResults s q t).filter fun e => e.2.1).length = 0 then s
      else s.countStack q.stack kRange ((queryResults s q t).filter fun e => e.2.1).length) := by
  unfold answerQuery
  dsimp only
  rw [table]
  exact if_neg (by simpa using has)
theorem answerQuery_noIen (form : q.form = 3) (without : t.ien = false) : answerQuery s q =
    ((packResults 4 ((queryIndices q).map fun _ => 0x7FC00000), none), s.countStack q.stack kRange 1) := by
  unfold answerQuery
  dsimp only
  rw [table]
  exact if_pos (by rw [form, without]; rfl)

end
theorem countStack_stat (s : State) (st n k : Nat) :
    Tab.get 0 ((s.countStack st n k).stack st).stat n = Tab.get 0 (s.stack st).stat n + BitVec.ofNat 64 k := by
  rw [State.countStack, State.stack_setStack, if_pos rfl, bump, Tab.get_set_self]

section
variable {s : State} {st : Nat} {t : HTable}

/-- Results of a form that has no interpolation: inside the table, and outside by the policy. -/
theorem queryResult_plain {form : Nat} (plain : form < 3) (x : Nat) : queryResult s st t form x =
    if x < t.entries then (tableEntry s st t x, false, false)
    else if t.policy = 0 then (tableEntry s st t (t.entries - 1), true, false)
    else if t.policy = 1 then (t.dflt.toNat % 2 ^ (8 * 2 ^ t.width), true, false) else (0, true, true) := by
  have other : form ≠ 3 := Nat.ne_of_lt plain
  unfold queryResult
  dsimp only
  simp only [if_neg other]
  by_cases inside : x < t.entries
  · simp [inside, Nat.not_le.2 inside]
  · rw [if_neg inside, Nat.min_eq_right (by omega)]
    have out : t.entries ≤ x := Nat.not_lt.1 inside
    simp only [out, decide_true, Bool.true_or, Bool.not_true, Bool.false_eq_true, if_false]
    split
    · next h => rw [if_pos h]
    · next h => rw [if_neg (by rw [h]; decide), if_pos h]
    · next h0 h1 => rw [if_neg h0, if_neg h1]

/-- Whether an index is out of range, in the forms without interpolation and in TQ.INTP. -/
def queryOut (t : HTable) (form x : Nat) : Bool :=
  decide (t.entries ≤ if form = 3 then x / 256 else x) ||
    ((if form = 3 then x % 256 else 0) != 0 && decide (t.entries ≤ (if form = 3 then x / 256 else x) + 1))
/-- An index out of range is counted, and marks its query where the policy says so. -/
theorem queryResult_marks (form x : Nat) : (queryResult s st t form x).2 = (queryOut t form x, queryOut t form x && decide (2 ≤
    t.policy)) := by
  unfold queryResult
  dsimp only
  change (if !queryOut t form x then _ else _ : Nat × Bool × Bool).2 = _
  cases queryOut t form x with
  | false => rfl
  | true =>
    simp only [Bool.not_true, Bool.false_eq_true, if_false, Bool.true_and]
    split
    · next h => rw [h]; rfl
    · next h => rw [h]; rfl
    · next h0 h1 => rw [decide_eq_true (show 2 ≤ t.policy from Nat.one_lt_iff_ne_zero_and_ne_one.2 ⟨h0, h1⟩)]
theorem queryOut_plain {form : Nat} (plain : form < 3) (x : Nat) : queryOut t form x = true ↔ t.entries ≤ x := by
  simp [queryOut, Nat.ne_of_lt plain]
/-- Results of TQ.INTP. -/
theorem queryResult_interp (x : Nat) : (queryResult s st t 3 x).1 =
    if queryOut t 3 x = false then interpolate s st t (x / 256) (x % 256)
    else if t.policy = 0 then interpolate s st t (t.entries - 1) 0 else if t.policy = 1 then t.dflt.toNat else 0 := by
  unfold queryResult
  dsimp only
  change (if !queryOut t 3 x then _ else _ : Nat × Bool × Bool).1 = _
  cases out : queryOut t 3 x with
  | false => rfl
  | true =>
    have last : min (x / 256) (t.entries - 1) = t.entries - 1 := by
      simp [queryOut] at out
      omega
    simp only [Bool.not_true, Bool.false_eq_true, reduceCtorEq, if_false, if_true, last]
    split
    · next h => rw [if_pos h]
    · next h => rw [if_neg (by rw [h]; decide), if_pos h]
    · next h0 h1 => rw [if_neg h0, if_neg h1]

end

theorem leNat_lt (l : List Byte) : leNat l < 2 ^ (8 * l.length) := by
  have whole := leNat_take l l.length
  rw [List.take_length] at whole
  rw [whole]
  exact Nat.mod_lt _ (by positivity)
theorem tableEntry_lt (s : State) (st : Nat) (t : HTable) (x : Nat) : tableEntry s st t x < 2 ^ (8 * 2 ^ t.width) := by
  have bound := leNat_lt ((List.range (2 ^ t.width)).map fun i => s.byteAt (s.heldKey t.acc st t.va t.pa (x * 2 ^ t.width + i) false))
  rwa [List.length_map, List.length_range] at bound
theorem queryResult_mod {s : State} {st : Nat} {t : HTable} {form : Nat} (plain : form < 3) (x : Nat) :
    (queryResult s st t form x).1 % 2 ^ (8 * 2 ^ t.width) =
      if x < t.entries then tableEntry s st t x
      else if t.policy = 0 then tableEntry s st t (t.entries - 1)
      else if t.policy = 1 then t.dflt.toNat % 2 ^ (8 * 2 ^ t.width) else 0 := by
  rw [queryResult_plain plain]
  split
  · exact Nat.mod_eq_of_lt (tableEntry_lt ..)
  · split
    · exact Nat.mod_eq_of_lt (tableEntry_lt ..)
    · split
      · exact Nat.mod_mod ..
      · exact Nat.zero_mod _
theorem interpLane_eq (s : State) (st : Nat) (t : HTable) (x : Nat) :
    (if t.ien = false then 0x7FC00000 else (queryResult s st t 3 x).1) % 2 ^ 32 =
      if t.ien = false then 0x7FC00000
      else if queryOut t 3 x = false then interpolate s st t (x / 256) (x % 256) % 2 ^ 32
      else if t.policy = 0 then interpolate s st t (t.entries - 1) 0 % 2 ^ 32
      else if t.policy = 1 then t.dflt.toNat else 0 := by
  split
  · rfl
  · rw [queryResult_interp]
    split
    · rfl
    · split
      · rfl
      · split
        · exact Nat.mod_eq_of_lt t.dflt.isLt
        · rfl

section
variable {s : State} {q : Query} {t : HTable}

/-- The index at a number. -/
def queryIndex (q : Query) (k : Nat) : Nat := ((queryIndices q)[k]?).getD 0
theorem length_queryIndices (plain : q.form < 3) : (queryIndices q).length = if q.form = 1 then 32 else 64 := by
  unfold queryIndices
  split
  · next h => rw [h]; rfl
  · next h => rw [h]; rfl
  · next h => omega
  · next h0 h1 h3 => rw [if_neg h1]; rfl
theorem queryResults_get {k : Nat} (hk : k < ((queryResults s q t).map Prod.fst).length) :
    ((queryResults s q t).map Prod.fst)[k] = (queryResult s q.stack t q.form (queryIndex q k)).1 := by
  have inside : k < (queryIndices q).length := by simpa [queryResults] using hk
  simp [queryResults, queryIndex, List.getElem?_eq_getElem inside]
/-- A mark stands where an index is out of range and the policy says so. -/
theorem queryResults_any : (queryResults s q t).any (fun e => e.2.2) = true ↔
    2 ≤ t.policy ∧ ∃ k, k < (queryIndices q).length ∧ queryOut t q.form (queryIndex q k) = true := by
  rw [queryResults, List.any_map, List.any_eq_true]
  simp only [Function.comp_apply, queryResult_marks, Bool.and_eq_true, decide_eq_true_eq]
  constructor
  · rintro ⟨x, hx, out, policy⟩
    obtain ⟨k, hk, rfl⟩ := List.getElem_of_mem hx
    exact ⟨policy, k, hk, by rwa [queryIndex, List.getElem?_eq_getElem hk]⟩
  · rintro ⟨policy, k, hk, out⟩
    rw [queryIndex, List.getElem?_eq_getElem hk] at out
    exact ⟨_, List.getElem_mem hk, out, policy⟩

end

/-- A table's answer to a query without interpolation. -/
theorem answer_plain {s : State} {q : Query} {t : HTable} (table : Tab.get none (s.stack q.stack).htabs q.slot = some t)
    (plain : q.form < 3) (width : t.width ≤ 2) :
    (answerQuery s q).1.1.length = ((queryIndices q).length * (8 * 2 ^ t.width) + 511) / 512 ∧
      (∀ k, k < (queryIndices q).length →
        laneOf (8 * 2 ^ t.width) (((answerQuery s q).1.1[k * (8 * 2 ^ t.width) / 512]?).getD 0) (k % (512 / (8 * 2 ^ t.width)))
            =
          (queryResult s q.stack t q.form (queryIndex q k)).1 % 2 ^ (8 * 2 ^ t.width)) ∧
      (answerQuery s q).1.2 = if 2 ≤ t.policy ∧ ∃ k, k < (queryIndices q).length ∧ t.entries ≤ queryIndex q k then some q.slot
          else none := by
  have other : q.form ≠ 3 := Nat.ne_of_lt plain
  rw [answerQuery_table table fun h => other h.1]
  dsimp only
  rw [if_neg other]
  have size : ((queryResults s q t).map Prod.fst).length = (queryIndices q).length := by simp [queryResults]
  have widths : 2 ^ t.width = 1 ∨ 2 ^ t.width = 2 ∨ 2 ^ t.width = 4 := by
    interval_cases t.width <;> simp
  have divides : 2 ^ t.width ∣ 64 := by rcases widths with h | h | h <;> rw [h] <;> decide
  have bits (n : Nat) : n * (8 * 2 ^ t.width) = 8 * (n * 2 ^ t.width) := Nat.mul_left_comm ..
  refine ⟨?_, fun k hk => ?_, ?_⟩
  · rw [length_packResults, size, bits]
    omega
  · have lane := laneOf_packResults divides ((queryResults s q t).map Prod.fst) (size ▸ hk)
    rw [queryResults_get] at lane
    rw [← lane, show k * (8 * 2 ^ t.width) / 512 = k * 2 ^ t.width / 64 by rw [bits]; omega,
      show 512 / (8 * 2 ^ t.width) = 64 / 2 ^ t.width by rcases widths with h | h | h <;> rw [h]]
  · refine if_congr (queryResults_any.trans ?_) rfl rfl
    simp only [queryOut_plain plain]

section
variable {s : State} {q : Query} {t : HTable} (table : Tab.get none (s.stack q.stack).htabs q.slot = some t) (interp : q.form = 3)
include interp

theorem queryIndices_interp : queryIndices q = (List.range 32).map (laneOf 16 q.va) := by
  rw [queryIndices, interp]
  rfl
theorem queryIndex_interp {k : Nat} (hk : k < 32) : queryIndex q k = laneOf 16 q.va k := by
  rw [queryIndex, queryIndices_interp interp, List.getElem?_map, List.getElem?_range hk]
  rfl
include table

/-- The values that TQ.INTP gives, and what is out of range. -/
def interpValues (s : State) (q : Query) (t : HTable) : List Nat :=
  if t.ien = false then (queryIndices q).map fun _ => 0x7FC00000 else (queryResults s q t).map Prod.fst
theorem answer_interp_lines : (answerQuery s q).1.1 = packResults 4 (interpValues s q t) := by
  unfold interpValues
  by_cases without : t.ien = false
  · rw [answerQuery_noIen table interp without, if_pos without]
  · rw [answerQuery_table table fun h => without h.2, if_neg without]
    exact congrArg (fun n => packResults n _) (if_pos interp)
omit table in
theorem length_interpValues : (interpValues s q t).length = 32 := by
  unfold interpValues
  split <;> simp [queryResults, queryIndices_interp interp]
omit table in
theorem interpValues_get {k : Nat} (hk : k < 32) : (interpValues s q t)[k]'(by rw [length_interpValues interp]; exact hk) =
    if t.ien = false then 0x7FC00000 else (queryResult s q.stack t 3 (laneOf 16 q.va k)).1 := by
  by_cases without : t.ien = false
  · simp [interpValues, without]
  · simp only [interpValues, if_neg without]
    rw [queryResults_get, interp, queryIndex_interp interp hk]
/-- The lane that TQ.INTP gives for an index. -/
theorem answer_interp_lane {k : Nat} (hk : k < 32) : laneOf 32 (((answerQuery s q).1.1[k / 16]?).getD 0) (k % 16) =
    (if t.ien = false then 0x7FC00000 else (queryResult s q.stack t 3 (laneOf 16 q.va k)).1) % 2 ^ 32 := by
  have lane := laneOf_packResults (size := 4) (by decide) (interpValues s q t) (k := k)
      (by rw [length_interpValues interp]; exact hk)
  rw [interpValues_get interp hk] at lane
  rw [answer_interp_lines table interp, ← lane, show k * 4 / 64 = k / 16 by omega]
/-- An index out of range marks the query where the policy says so. -/
theorem answer_interp_mark : (answerQuery s q).1.2 =
    if t.ien = true ∧ 2 ≤ t.policy ∧ ((List.range 32).any fun k => queryOut t 3 (laneOf 16 q.va k)) = true then some q.slot
        else none := by
  by_cases without : t.ien = false
  · rw [answerQuery_noIen table interp without, if_neg fun h => by rw [without] at h; cases h.1]
  · rw [answerQuery_table table fun h => without h.2]
    refine if_congr (queryResults_any.trans ?_) rfl rfl
    rw [queryIndices_interp interp, List.length_map, List.length_range, List.any_eq_true, interp]
    refine ⟨fun ⟨policy, k, hk, out⟩ => ⟨eq_true_of_ne_false without, policy, k, List.mem_range.2 hk, ?_⟩,
      fun ⟨_, policy, k, hk, out⟩ => ⟨policy, k, List.mem_range.1 hk, ?_⟩⟩
    · rwa [queryIndex_interp interp hk] at out
    · rwa [queryIndex_interp interp (List.mem_range.1 hk)]
/-- What is out of range is counted. -/
theorem answer_interp_count : Tab.get 0 ((answerQuery s q).2.stack q.stack).stat kRange = Tab.get 0 (s.stack q.stack).stat
    kRange +
    BitVec.ofNat 64 (if t.ien = false then 1 else ((List.range 32).filter fun k => queryOut t 3 (laneOf 16 q.va k)).length) := by
  by_cases without : t.ien = false
  · rw [answerQuery_noIen table interp without, if_pos without]
    exact countStack_stat ..
  · have outs : ((queryResults s q t).filter fun e => e.2.1).length =
        ((List.range 32).filter fun k => queryOut t 3 (laneOf 16 q.va k)).length := by
      rw [queryResults, queryIndices_interp interp, List.map_map, List.filter_map, List.length_map, interp]
      congr 2
      funext k
      exact congrArg Prod.fst (queryResult_marks 3 (laneOf 16 q.va k))
    rw [answerQuery_table table fun h => without h.2, if_neg without, ← outs]
    dsimp only
    split
    · next none => rw [none]; exact (BitVec.add_zero _).symm
    · exact countStack_stat ..

end

end Sys2Proof.Machine
end

section
open Sys2Proof Sys2Proof.Machine

/-- Settles O46: a query's checks and acceptance, and the answer of the sequencer lane by lane. -/
theorem tableQueries : Obligations.TableQueries := by
  unfold Obligations.TableQueries
  refine ⟨fun i form need va ss vb s asks => ?_, fun s q t table plain width => ?_, fun s q t table interp => ?_⟩
  · intro w bad core st ch r
    refine ⟨query_bad asks, fun good n => query_against asks good, fun good right => ⟨query_foreign asks good right, fun own ends => ?_⟩,
      exec_tqReserve asks, fun q alone first => ⟨fun own asked early => ?_, fun l mark answered due => ?_⟩⟩
    · exact ⟨query_full asks good right own ends, query_empty asks good right own ends,
        fun room vals u => query_sent asks good right own ends room⟩
    · exact ⟨_, answer_taken alone first own asked early, rfl, answerQuery_mem, fun none => answerQuery_absent (own ▸ none)⟩
    · refine ⟨_, answer_delivered alone answered due, rfl, ?_⟩
      show (((s.setCore q.core _).core q.core).arrivals q.ch).map ArrEntry.data = _
      rw [State.core_setCore_self, Core.arrivals, Core.setArrivals, Tab.get_set_self, List.map_append, List.map_map]
      exact congrArg _ (List.zipIdx_map_fst 0 l)
  · intro r x count size last
    obtain ⟨lines, lanes, mark⟩ := answer_plain table plain width
    exact ⟨length_queryIndices plain, lines, fun k hk => (lanes k hk).trans (queryResult_mod plain _), mark⟩
  · intro r x n f out val between result
    refine ⟨?_, fun k hk => (answer_interp_lane table interp hk).trans (interpLane_eq ..), answer_interp_mark table interp,
        answer_interp_count table interp⟩
    show (answerQuery s q).1.1.length = 2
    rw [answer_interp_lines table interp, length_packResults, length_interpValues interp]

end

section
/-! SUPPORT. Commands of the hearth: HTLOAD, HMODE and refresh (R317 to R325), and the command queues (R331 to R334, R339). -/

namespace Sys2Proof.Machine

/-! ### HTLOAD -/

section
variable {s : State} {rd sa sb : Reg}

/-- The stack to whose stoker an HTLOAD moves first. -/
def htloadMoves (s : State) (sa sb : Reg) : Option Nat :=
  if (s.rs sb).toNat < 256 && sa != 0#5 && isVA (s.rs sa) && (s.rs sa).toNat % 32 = 0 then s.movesTo (s.rs sa) 32 else none
theorem htloadMoves_iff (k : Nat) : htloadMoves s sa sb = some k ↔ (s.rs sb).toNat < 256 ∧ sa ≠ 0#5 ∧ isVA (s.rs sa) = true ∧
    (s.rs sa).toNat % 32 = 0 ∧ s.movesTo (s.rs sa) 32 = some k := by
  unfold htloadMoves
  split
  · next h => simp_all
  · next h => constructor
              · exact nofun
              · rintro ⟨slot, reg, va, aligned, _⟩
                exact absurd (by simp [slot, reg, va, aligned]) h
theorem htload_moves {k : Nat} (moves : htloadMoves s sa sb = some k) :
    exec (.htload rd sa sb) s = .next (s.setMe { s.me with wait := .redirect k }) := by
  unfold htloadMoves at moves
  change execHtload rd sa sb s = _
  unfold execHtload
  dsimp only
  rw [moves]
/-- What HTLOAD does with its code. -/
def htloadEnds (o : Option Nat × State) (rd sa sb : Reg) : Result :=
  match o.1 with
  | some c => .next (o.2.ws rd (BitVec.ofNat 64 c)).pastStrong
  | none => o.2.stalled (.htload rd sa sb)
theorem htloadEnds_code {o : Option Nat × State} {c : Nat} (code : o.1 = some c) :
    htloadEnds o rd sa sb = .next (o.2.ws rd (BitVec.ofNat 64 c)).pastStrong := by
  rw [htloadEnds, code]
theorem htloadEnds_none {o : Option Nat × State} (code : o.1 = none) : htloadEnds o rd sa sb = o.2.stalled (.htload rd sa sb) := by
  rw [htloadEnds, code]
theorem htload_goes (stays : htloadMoves s sa sb = none) (ends : s.mayRelease = true) : exec (.htload rd sa sb) s =
    htloadEnds (htloadCode s.released (hartStack s.cur) s.released.myPart s.released.myAcc sa (s.released.rs sa) (s.released.rs
        sb)) rd sa sb := by
  have cur : s.released.cur = s.cur := State.cur_released s
  unfold htloadMoves at stays
  change execHtload rd sa sb s = _
  unfold execHtload
  dsimp only
  rw [stays]
  refine (withRelease_mayRelease s _ ends).trans ?_
  rw [cur]
  rfl

end
section
variable {r : State} {st p acc : Nat} {sd : Reg} {a slotw : Word}

theorem htloadCode_slot (past : 256 ≤ slotw.toNat) : htloadCode r st p acc sd a slotw = (some 3, r) := if_pos past
variable (inside : slotw.toNat < 256)
include inside
theorem htloadCode_empties (zero : sd = 0#5) : htloadCode r st p acc sd a slotw =
    (some 0, r.setStack st { r.stack st with htabs := Tab.set none (r.stack st).htabs slotw.toNat none }) :=
  (if_neg (Nat.not_le.2 inside)).trans (if_pos zero)
variable (reg : sd ≠ 0#5)
include reg
theorem htloadCode_word (wrong : isVA a = false ∨ a.toNat % 32 ≠ 0) : htloadCode r st p acc sd a slotw = (some 3, r) :=
  (if_neg (Nat.not_le.2 inside)).trans ((if_neg reg).trans (if_pos (by rcases wrong with h | h <;> simp [h])))
variable (right : ¬(isVA a = false ∨ a.toNat % 32 ≠ 0))
include right
theorem htloadCode_right : htloadCode r st p acc sd a slotw = if !r.stackIn p (vaStack (vaOf a)) then (some 2, r)
    else match r.readVA p acc (vaOf a) 32 with
      | (none, s) => (some 1, s)
      | (some b, s) => installTable s st p acc slotw.toNat (BitVec.ofNat 256 (leNat b)) := by
  obtain ⟨va, aligned⟩ := not_or.1 right
  exact (if_neg (Nat.not_le.2 inside)).trans ((if_neg reg).trans (if_neg (by simp_all)))
theorem htloadCode_foreign (foreign : r.stackIn p (vaStack (vaOf a)) = false) : htloadCode r st p acc sd a slotw = (some 2, r) :=
  (htloadCode_right inside reg right).trans (if_pos (by rw [foreign]; rfl))
variable (own : r.stackIn p (vaStack (vaOf a)) = true) {v : State}
include own
theorem htloadCode_unread (none : r.readVA p acc (vaOf a) 32 = (none, v)) : htloadCode r st p acc sd a slotw = (some 1, v) := by
  refine (htloadCode_right inside reg right).trans ((if_neg (by rw [own]; nofun)).trans ?_)
  rw [none]
theorem htloadCode_read {b : List Byte} (read : r.readVA p acc (vaOf a) 32 = (some b, v)) :
    htloadCode r st p acc sd a slotw = installTable v st p acc slotw.toNat (BitVec.ofNat 256 (leNat b)) := by
  refine (htloadCode_right inside reg right).trans ((if_neg (by rw [own]; nofun)).trans ?_)
  rw [read]

end

/-- A slot that has been emptied. -/
theorem slotEmptied (r : State) (st slot : Nat) {u : State}
    (empties : u = r.setStack st { r.stack st with htabs := Tab.set none (r.stack st).htabs slot none }) :
    Tab.get none (u.stack st).htabs slot = none ∧ (u.stack st).tlb = (r.stack st).tlb ∧ u.mem = r.mem := by
  subst empties
  rw [State.stack_setStack_self]
  dsimp only
  exact ⟨by rw [Tab.get_set_self], rfl, rfl⟩
/-- HTLOAD installs the table of its descriptor, or leaves all but cached translations as it was. -/
theorem installTable_spec (s : State) (st p acc slot : Nat) (d : BitVec 256) :
    ((installTable s st p acc slot d).1 = some 0 ∧ ∃ t, Tab.get none ((installTable s st p acc slot d).2.stack st).htabs slot =
        some t ∧
      t.va = vaOf (d.extractLsb' 0 64) ∧ t.part = p) ∨
    ((installTable s st p acc slot d).1 ≠ some 0 ∧ sameButTlb s (installTable s st p acc slot d).2) := by
  have walked := s.xlate_sameButTlb p acc (vaOf (d.extractLsb' 0 64)) false false
  unfold installTable
  dsimp only
  split
  · exact .inr ⟨by simp, sameButTlb_refl s⟩
  · split
    · exact .inr ⟨by simp, sameButTlb_refl s⟩
    · split
      · next e => exact .inr ⟨by simp, by rwa [e] at walked⟩
      · next e => exact .inr ⟨by simp, by rwa [e] at walked⟩
      · next k u e =>
        rw [e] at walked
        split
        · exact .inr ⟨by simp, walked⟩
        · split
          · exact .inr ⟨by simp, walked⟩
          · refine .inl ⟨rfl, ?_⟩
            rw [State.stack_setStack_self]
            dsimp only
            rw [Tab.get_set_self]
            exact ⟨_, rfl, rfl, rfl⟩
      · next e => exact .inr ⟨by simp, by rwa [e] at walked⟩

/-! ### HMODE and refresh -/

section
variable {s : State} {rd sa : Reg} (ends : s.mayRelease = true)

/-- The selector of HMODE. -/
def modePc (w : Word) : Nat := w.toNat % 128
def modeBad (w : Word) : Prop := 2 ^ 9 ≤ w.toNat ∨ w.getLsbD 7 = true
/-- A pseudo-channel of a stoker that may not leave compute mode. -/
def modeInUse (r : State) (sk n : Nat) : Bool :=
  (r.stack (sk / 12)).htabs.any (fun e => match e.2 with
    | some t => pcOfPa t.pa == n
    | none => false) ||
  (r.hob (sk / 12 * 96 + n)).cmd.isSome || (r.hq sk).any (fun c => c.kind == 1 && c.pc == sk / 12 * 96 + n)
/-- The state in which a pseudo-channel has entered or left compute mode. -/
def modeSet (r : State) (sk n : Nat) (b : Bool) : State :=
  r.setStack (sk / 12) { r.stack (sk / 12) with
    compute := Tab.set false (r.stack (sk / 12)).compute n b
    refresh := Tab.set {} (r.stack (sk / 12)).refresh n (handOver (Tab.get {} (r.stack (sk / 12)).refresh n) b) }

theorem hmodeCode_eq (r : State) (sk : Nat) (w : Word) : hmodeCode r sk w =
    if 2 ^ 9 ≤ w.toNat || w.getLsbD 7 then (3, r)
    else if modePc w / 8 ≠ sk % 12 then (2, r)
    else if w.getLsbD 8 then (if r.computing (sk / 12 * 96 + modePc w) then (0, r) else (0, modeSet r sk (modePc w) true))
    else if !r.computing (sk / 12 * 96 + modePc w) then (0, r)
    else if modeInUse r sk (modePc w) then (5, r)
    else (0, modeSet r sk (modePc w) false) := rfl
include ends in
theorem exec_hmode : exec (.hmode rd sa) s = .next ((hmodeCode s.released (hartSk s.cur) (s.released.rs sa)).2.ws rd
    (BitVec.ofNat 64 (hmodeCode s.released (hartSk s.cur) (s.released.rs sa)).1)).pastStrong := by
  have cur : s.released.cur = s.cur := State.cur_released s
  change execHmode rd sa s = _
  unfold execHmode
  refine (withRelease_mayRelease s _ ends).trans ?_
  rw [cur]
  rfl

variable {r : State} {sk : Nat} {w : Word}

theorem hmodeCode_bad (bad : modeBad w) : hmodeCode r sk w = (3, r) :=
  (hmodeCode_eq ..).trans (if_pos (by rw [Bool.or_eq_true, decide_eq_true_eq]; exact bad))
variable (good : ¬modeBad w)
include good
theorem hmodeCode_good : hmodeCode r sk w = if modePc w / 8 ≠ sk % 12 then (2, r)
    else if w.getLsbD 8 then (if r.computing (sk / 12 * 96 + modePc w) then (0, r) else (0, modeSet r sk (modePc w) true))
    else if !r.computing (sk / 12 * 96 + modePc w) then (0, r)
    else if modeInUse r sk (modePc w) then (5, r)
    else (0, modeSet r sk (modePc w) false) :=
  (hmodeCode_eq ..).trans (if_neg (by rw [Bool.or_eq_true, decide_eq_true_eq]; exact good))
theorem hmodeCode_foreign (foreign : modePc w / 8 ≠ sk % 12) : hmodeCode r sk w = (2, r) := (hmodeCode_good good).trans (if_pos foreign)
variable (own : modePc w / 8 = sk % 12)
include own
theorem hmodeCode_same (same : r.computing (sk / 12 * 96 + modePc w) = w.getLsbD 8) : hmodeCode r sk w = (0, r) := by
  rw [hmodeCode_good good, if_neg (fun h => h own), same]
  cases w.getLsbD 8 <;> rfl
theorem hmodeCode_inUse (on : r.computing (sk / 12 * 96 + modePc w) = true) (leave : w.getLsbD 8 = false)
    (used : modeInUse r sk (modePc w) = true) : hmodeCode r sk w = (5, r) := by
  rw [hmodeCode_good good, if_neg (fun h => h own), on, leave, used]
  rfl
theorem hmodeCode_sets (other : r.computing (sk / 12 * 96 + modePc w) ≠ w.getLsbD 8)
    (free : r.computing (sk / 12 * 96 + modePc w) = true → ¬modeInUse r sk (modePc w) = true) :
    hmodeCode r sk w = (0, modeSet r sk (modePc w) (w.getLsbD 8)) := by
  rw [hmodeCode_good good, if_neg (fun h => h own)]
  cases set : w.getLsbD 8 with
  | true =>
    rw [set] at other
    rw [Bool.eq_false_iff.2 other]
    rfl
  | false =>
    have on : r.computing (sk / 12 * 96 + modePc w) = true := by rw [set] at other; exact eq_true_of_ne_false other
    rw [on, Bool.eq_false_iff.2 (free on)]
    rfl
omit good own in
theorem modeInUse_iff (r : State) (sk n : Nat) : modeInUse r sk n = true ↔
    ((r.stack (sk / 12)).htabs.any (fun e => match e.2 with
      | some t => pcOfPa t.pa == n
      | none => false)) = true ∨ (r.hob (sk / 12 * 96 + n)).cmd ≠ none ∨
      (r.hq sk).any (fun c => c.kind == 1 && c.pc == sk / 12 * 96 + n) = true := by
  rw [modeInUse, Bool.or_eq_true, Bool.or_eq_true, or_assoc, Option.isSome_iff_ne_none]
omit good in
theorem modeSet_spec (b : Bool) : (modeSet r sk (modePc w) b).computing (sk / 12 * 96 + modePc w) = b ∧
    Tab.get {} ((modeSet r sk (modePc w) b).stack (sk / 12)).refresh (modePc w) = handOver (Tab.get {} (r.stack (sk /
        12)).refresh (modePc w)) b := by
  have stack : (modeSet r sk (modePc w) b).stack (sk / 12) = _ := State.stack_setStack_self ..
  have place : (sk / 12 * 96 + modePc w) / 96 = sk / 12 ∧ (sk / 12 * 96 + modePc w) % 96 = modePc w := by omega
  refine ⟨?_, ?_⟩
  · rw [State.computing, place.1, place.2, stack]
    exact Tab.get_set_self _ _ _ _
  · rw [stack]
    exact Tab.get_set_self _ _ _ _

end

section
variable {s : State}

/-- The state in which a pseudo-channel's refresh stands as `g`. -/
def refreshPut (s : State) (g : Refresh) : State :=
  s.setStack (s.cur / 96) { s.stack (s.cur / 96) with refresh := Tab.set {} (s.stack (s.cur / 96)).refresh (s.cur % 96) g }
theorem refreshPut_get (g : Refresh) : Tab.get {} ((refreshPut s g).stack (s.cur / 96)).refresh (s.cur % 96) = g := by
  rw [refreshPut, State.stack_setStack_self]
  exact Tab.get_set_self _ _ _ _
/-- The refresh of pseudo-channel `cur`. -/
def refreshOf (s : State) : Refresh := Tab.get {} (s.stack (s.cur / 96)).refresh (s.cur % 96)
theorem exec_refresh (real : s.cur < 768) (due : (refreshOf s).due ≤ s.now) : exec .refresh s = .next (refreshPut s
    (if s.arg = 1 && (refreshOf s).postponed < 8 then
      { refreshOf s with postponed := (refreshOf s).postponed + 1, due := s.now + Config.refreshPeriod }
    else { refreshOf s with postponed := 0, pointer := (refreshOf s).pointer + (refreshOf s).postponed + 1
                            due := s.now + Config.refreshPeriod })) := by
  have goes : ¬(decide (s.now < (refreshOf s).due) || decide (768 ≤ s.cur)) = true := by
    rw [decide_eq_false (Nat.not_lt.2 due), decide_eq_false (Nat.not_le.2 real)]
    decide
  refine (show exec .refresh s = _ from if_neg goes).trans ?_
  change (if s.arg = 1 && (refreshOf s).postponed < 8 then _ else _) = _
  split <;> rfl

/-- A refresh that is postponed, or issued with every postponed one. -/
theorem refreshed_spec (s : State) (f : Refresh) {g : Refresh} (is : g = if s.arg = 1 && f.postponed < 8 then
      { f with postponed := f.postponed + 1, due := s.now + Config.refreshPeriod }
    else { f with postponed := 0, pointer := f.pointer + f.postponed + 1, due := s.now + Config.refreshPeriod }) :
    (s.arg = 1 → f.postponed < 8 → g.postponed = f.postponed + 1 ∧ g.pointer = f.pointer) ∧
      (s.arg ≠ 1 ∨ 8 ≤ f.postponed → g.postponed = 0 ∧ g.pointer = f.pointer + f.postponed + 1) := by
  subst is
  refine ⟨fun locked room => ?_, fun issues => ?_⟩
  · rw [if_pos (by simp [locked, room])]
    exact ⟨rfl, rfl⟩
  · rw [if_neg (by simpa [imp_iff_not_or] using issues)]
    exact ⟨rfl, rfl⟩

end

/-! ### The 64 bytes of a command -/

section
variable {s : State} {i : Instr} {w : Word} {win : Option Word} {k : State → Vec → Result}

/-- A word that a core cannot read, outside its cluster's scratchpads. -/
def farWord (s : State) (w : Word) : Prop := kindOf s.cur = .core ∧ inClusterSpad (hartCl s.cur) w 64 = false

theorem commandBytes_crooked (crooked : w.toNat % 64 ≠ 0) : commandBytes s i w win k = takeTrap s .misalign w 0 := if_pos
    crooked
variable (aligned : w.toNat % 64 = 0)
include aligned
theorem commandBytes_far (far : farWord s w) : commandBytes s i w win k = takeTrap s .window w 0 := by
  refine (if_neg fun h => h aligned).trans ((if_pos ?_).trans ?_)
  · rw [decide_eq_true far.1, far.2]
    rfl
  · rw [windowTrap, if_pos far.1]
theorem commandBytes_near (near : ¬farWord s w) : commandBytes s i w win k = match win with
    | some a => takeTrap s .window a 0
    | none =>
      if kindOf s.cur = .core then
        (if s.held s.cur w.toNat 64 then s.stalled i
         else k (s.noteRead s.cur w.toNat 64) (bytesVec (s.ownBytes s.cur w.toNat 64)))
      else if !isVA w then windowTrap s w
      else match s.movesTo w 64 with
      | some st => .next (s.setMe { s.me with wait := .redirect st })
      | none => match s.xlate s.myPart s.myAcc (vaOf w) false with
      | (.ok key, s) =>
        if s.mustWait s.cur key 64 then s.stalled i
        else k (if arbOfKey key = arbOf s.cur then s.noteRead s.cur key 64 else s) (bytesVec (s.ownBytes s.cur key 64))
      | (.held, s) => s.stalled i
      | (_, s) => pageTrap s w := by
  refine (if_neg fun h => h aligned).trans ((if_neg ?_).trans ?_)
  · simpa [farWord] using near
  · rfl
variable (near : ¬farWord s w)
include near
theorem commandBytes_window {a : Word} (other : win = some a) : commandBytes s i w win k = takeTrap s .window a 0 := by
  rw [commandBytes_near aligned near, other]
variable (none : win = none)
include none
theorem commandBytes_held (core : kindOf s.cur = .core) (held : s.held s.cur w.toNat 64 = true) :
    commandBytes s i w win k = s.stalled i := by
  rw [commandBytes_near aligned near, none]
  exact (if_pos core).trans (if_pos held)
section
variable (other : kindOf s.cur ≠ .core)
include other
theorem commandBytes_noVA (bad : isVA w = false) : commandBytes s i w win k = takeTrap s .page w 0 := by
  rw [commandBytes_near aligned near, none]
  refine (if_neg other).trans ((if_pos (by rw [bad]; rfl)).trans ?_)
  rw [windowTrap, if_neg other]
variable (va : isVA w = true)
include va
theorem commandBytes_moves {st : Nat} (moves : s.movesTo w 64 = some st) :
    commandBytes s i w win k = .next (s.setMe { s.me with wait := .redirect st }) := by
  rw [commandBytes_near aligned near, none]
  refine (if_neg other).trans ((if_neg (by rw [va]; nofun)).trans ?_)
  rw [moves]
variable (stays : s.movesTo w 64 = Option.none) {e : Xres} {u : State} (walk : s.xlate s.myPart s.myAcc (vaOf w) false = (e, u))
include stays walk
theorem commandBytes_page (page : e ≠ .held) (fails : ∀ key, e ≠ .ok key) : commandBytes s i w win k = takeTrap u .page w 0 := by
  rw [commandBytes_near aligned near, none]
  refine (if_neg other).trans ((if_neg (by rw [va]; nofun)).trans ?_)
  rw [stays, walk]
  cases e with
  | ok key => exact absurd rfl (fails key)
  | held => exact absurd rfl page
  | _ => rfl
theorem commandBytes_heldPage (page : e = .held) : commandBytes s i w win k = u.stalled i := by
  rw [commandBytes_near aligned near, none]
  refine (if_neg other).trans ((if_neg (by rw [va]; nofun)).trans ?_)
  rw [stays, walk, page]

end
end
/-- A word that is aligned and in reach where its bytes have been read. -/
theorem commandAt_near {s v : State} {w : Word} {c : Vec} (read : commandAt s w = some (c, v)) : w.toNat % 64 = 0 ∧ ¬farWord s
    w := by
  unfold commandAt at read
  split at read
  · cases read
  · next aligned =>
    refine ⟨by omega, fun ⟨core, far⟩ => ?_⟩
    rw [if_pos core, far, Bool.false_and, if_neg (by decide)] at read
    exact nomatch read
theorem commandBytes_reads {s v : State} {i : Instr} {w : Word} {k : State → Vec → Result} {c : Vec} (read : commandAt s w = some (c, v)) :
    commandBytes s i w none k = k v c := by
  obtain ⟨aligned, near⟩ := commandAt_near read
  rw [commandBytes_near aligned near]
  dsimp only
  unfold commandAt at read
  rw [if_neg fun h => h aligned] at read
  split at read
  · next core =>
    rw [if_pos core]
    split at read
    · next free =>
      obtain ⟨rfl, rfl⟩ := Prod.mk.inj (Option.some.inj read)
      rw [Bool.and_eq_true, Bool.not_eq_true'] at free
      exact if_neg (Bool.eq_false_iff.1 free.2)
    · cases read
  · next other =>
    rw [if_neg other]
    split at read
    · cases read
    · next stays =>
      obtain ⟨va, stay⟩ : isVA w = true ∧ s.movesTo w 64 = none := by simpa using stays
      rw [if_neg (by rw [va]; nofun), stay]
      dsimp only
      split at read
      · next key u walk =>
        rw [walk]
        dsimp only
        split at read
        · cases read
        · next free =>
          obtain ⟨rfl, rfl⟩ := Prod.mk.inj (Option.some.inj read)
          exact if_neg free
      · cases read
theorem cur_commandAt {s v : State} {w : Word} {c : Vec} (read : commandAt s w = some (c, v)) : v.cur = s.cur := by
  unfold commandAt at read
  split at read
  · cases read
  · split at read
    · split at read
      · obtain ⟨rfl, rfl⟩ := Prod.mk.inj (Option.some.inj read)
        rfl
      · cases read
    · split at read
      · cases read
      · split at read
        · next key u walk =>
          have cur : u.cur = s.cur := by
            rw [← (s.xlate_sameButTlb s.myPart s.myAcc (vaOf w) false false).cur, walk]
          split at read
          · cases read
          · obtain ⟨rfl, rfl⟩ := Prod.mk.inj (Option.some.inj read)
            split <;> exact cur
        · cases read

/-! ### IRED and HCMD -/

section
variable {s : State} {ra rb rc : Reg}

/-- The command that IRED and HCMD hand to a stoker. -/
def newCmd (s : State) (kind pc : Nat) (cmd : Vec) (sel m : Word) : HCmd :=
  { id := 0, kind := kind, pc := pc, cmd := cmd, sel := sel, mbox := mboxOf m, hart := s.cur, rd := 0, cont := s.me.cont, job
      := none
    dpa := none, pos := 0, skipped := 0, fault := false }
/-- What IRED does with its 64 bytes. -/
def iredWith (rb : Reg) (i : Instr) (m : Word) (s : State) (c : Vec) : Result :=
  if !isVA (iredDst c) || !s.stackIn s.myPart (vaStack (vaOf (iredDst c))) then windowTrap s (iredDst c)
  else if !isVA (iredSrc c) then windowTrap s (iredSrc c)
  else if queueFull s (iredPc s s.myPart s.myAcc (iredDst c)) then s.stalled i
  else withRelease s fun r => (pushCommand r (newCmd r 0 (iredPc s s.myPart s.myAcc (iredDst c)) c 0 m)).doneStrong

theorem ired_misaligned (bad : mailboxTrap s (s.rs rb) = some .misalign) : exec (.ired ra rb) s = takeTrap s .misalign (s.rs rb) 0 := by
  change execIred ra rb s = _
  unfold execIred
  dsimp only
  rw [bad]
  rfl
theorem ired_reads (good : mailboxTrap s (s.rs rb) ≠ some .misalign) : exec (.ired ra rb) s =
    commandBytes s (.ired ra rb) (s.rs ra) ((mailboxTrap s (s.rs rb)).map fun _ => s.rs rb) (iredWith rb (.ired ra rb) (s.rs rb)) := by
  change execIred ra rb s = _
  unfold execIred
  dsimp only
  rw [if_neg (mt beq_iff_eq.1 good)]
  rfl
variable {v : State} {c : Vec} {m : Word} {i : Instr}
theorem iredWith_dst (bad : isVA (iredDst c) = false ∨ v.stackIn v.myPart (vaStack (vaOf (iredDst c))) = false) :
    iredWith rb i m v c = windowTrap v (iredDst c) := if_pos (by simpa using bad)
variable (good : ¬(isVA (iredDst c) = false ∨ v.stackIn v.myPart (vaStack (vaOf (iredDst c))) = false))
include good
theorem iredWith_src (bad : isVA (iredSrc c) = false) : iredWith rb i m v c = windowTrap v (iredSrc c) :=
  (if_neg (by simpa using good)).trans (if_pos (by rw [bad]; rfl))
variable (src : isVA (iredSrc c) = true)
include src
theorem iredWith_full (full : queueFull v (iredPc v v.myPart v.myAcc (iredDst c)) = true) : iredWith rb i m v c = v.stalled i :=
  (if_neg (by simpa using good)).trans ((if_neg (by rw [src]; nofun)).trans (if_pos full))
theorem iredWith_queued (room : queueFull v (iredPc v v.myPart v.myAcc (iredDst c)) = false) (ends : v.mayRelease = true) :
    iredWith rb i m v c =
      .next (pushCommand v.released (newCmd v.released 0 (iredPc v v.myPart v.myAcc (iredDst c)) c 0 m)).pastStrong :=
  (if_neg (by simpa using good)).trans ((if_neg (by rw [src]; nofun)).trans ((if_neg (Bool.eq_false_iff.1 room)).trans
    (withRelease_mayRelease v _ ends)))

end
theorem hq_pushCommand (s : State) (c : HCmd) : (pushCommand s c).hq (pcStoker c.pc) = s.hq (pcStoker c.pc) ++
    [{ c with id := s.fresh }] :=
  Tab.get_set_self _ _ _ _

section
variable {s : State} {ra rb rc : Reg}

theorem hcmd_misaligned (bad : mailboxTrap s (s.rs rb) = some .misalign) : exec (.hcmd ra rc rb) s = takeTrap s .misalign (s.rs rb) 0 := by
  change execHcmd ra rc rb s = _
  unfold execHcmd
  dsimp only
  rw [bad]
  rfl
/-- The operand that raises WINDOW, if any. -/
def hcmdWindow (s : State) (w m : Word) : Option Word :=
  match mailboxTrap s m with
  | some _ => some m
  | none => if s.stackIn s.myPart (selStack w) then none else some 0
theorem hcmdWindow_mailbox {w m : Word} {t : Trap} (bad : mailboxTrap s m = some t) : hcmdWindow s w m = some m := by
  rw [hcmdWindow, bad]
theorem hcmdWindow_foreign {w m : Word} (good : mailboxTrap s m = none) (foreign : s.stackIn s.myPart (selStack w) = false) :
    hcmdWindow s w m = some 0 := by
  rw [hcmdWindow, good]
  exact if_neg (Bool.eq_false_iff.1 foreign)
theorem hcmdWindow_none {w m : Word} (good : mailboxTrap s m = none) (own : s.stackIn s.myPart (selStack w) = true) :
    hcmdWindow s w m = none := by
  rw [hcmdWindow, good]
  exact if_pos own
section
variable (good : mailboxTrap s (s.rs rb) ≠ some .misalign)
include good
theorem exec_hcmd : exec (.hcmd ra rc rb) s = if rc = 0#5 then (match hcmdWindow s (s.rs ra) (s.rs rb) with
      | some a => takeTrap s .window a 0
      | none => hcmdGo s (.hcmd ra rc rb) (s.rs ra) (s.rs rb) 0)
    else commandBytes s (.hcmd ra rc rb) (s.rs rc) (hcmdWindow s (s.rs ra) (s.rs rb)) fun v c =>
      hcmdGo v (.hcmd ra rc rb) (s.rs ra) (s.rs rb) c := by
  change execHcmd ra rc rb s = _
  unfold execHcmd
  dsimp only
  rw [if_neg (mt beq_iff_eq.1 good)]
  rfl
theorem hcmd_reads (reg : rc ≠ 0#5) : exec (.hcmd ra rc rb) s = commandBytes s (.hcmd ra rc rb) (s.rs rc)
    (hcmdWindow s (s.rs ra) (s.rs rb)) fun v c => hcmdGo v (.hcmd ra rc rb) (s.rs ra) (s.rs rb) c :=
  (exec_hcmd good).trans (if_neg reg)
theorem hcmd_window {a : Word} (bad : hcmdWindow s (s.rs ra) (s.rs rb) = some a) : exec (.hcmd ra 0 rb) s = takeTrap s .window
    a 0 := by
  refine (exec_hcmd good).trans ((if_pos rfl).trans ?_)
  rw [bad]
theorem hcmd_zero (right : hcmdWindow s (s.rs ra) (s.rs rb) = none) :
    exec (.hcmd ra 0 rb) s = hcmdGo s (.hcmd ra 0 rb) (s.rs ra) (s.rs rb) 0 := by
  refine (exec_hcmd good).trans ((if_pos rfl).trans ?_)
  rw [right]

end
end
section
variable {v : State} {i : Instr} {w m : Word} {c : Vec}

/-- The pseudo-channel that a selector names. -/
def selTarget (w : Word) : Nat := 96 * selStack w + selPc w
theorem selTarget_mod (ok : selOk w = true) : 96 * selStack w + selPc w % 96 = selTarget w := by
  have small : selPc w < 96 := by
    simp only [selOk, Bool.and_eq_true, decide_eq_true_eq] at ok
    exact ok.1.1.2
  rw [Nat.mod_eq_of_lt small, selTarget]
theorem hcmdGo_full (ok : selOk w = true) (full : queueFull v (selTarget w) = true) : hcmdGo v i w m c = v.stalled i := by
  rw [← selTarget_mod ok] at full
  exact if_pos (by rw [ok, full]; rfl)
theorem hcmdGo_refused (bad : selOk w = false) (ends : v.mayRelease = true) : hcmdGo v i w m c =
    .next (putMailbox v.released v.released.cur v.released.myPart v.released.myAcc (mboxOf m) (2 + 256 * 3) []).pastStrong :=
  (if_neg (by rw [bad]; nofun)).trans ((withRelease_mayRelease v _ ends).trans (if_pos (by rw [bad]; rfl)))
theorem hcmdGo_queued (ok : selOk w = true) (room : queueFull v (selTarget w) = false) (ends : v.mayRelease = true) : hcmdGo v
    i w m c =
    .next (pushCommand v.released (newCmd v.released 1 (selTarget w) c w m)).pastStrong := by
  have target := selTarget_mod ok
  unfold hcmdGo
  dsimp only
  rw [target, if_neg (by rw [room, Bool.and_false]; nofun)]
  refine (withRelease_mayRelease v _ ends).trans ((if_neg (by rw [ok]; nofun)).trans ?_)
  rfl

end
theorem exec_hearthQueueAccept {s : State} {ra rb rc : Reg} {i : Instr}
    (mem : i ∈ [Instr.ired ra rb, .hcmd ra rc rb, .hovl ra rb rc]) (head : s.stalledHead s.cur = some i) :
    exec .hearthQueueAccept s = exec i s := by
  change execHearthQueueAccept s = _
  unfold execHearthQueueAccept
  rw [head]
  simp only [List.mem_cons, List.not_mem_nil, or_false] at mem
  rcases mem with rfl | rfl | rfl <;> rfl

end Sys2Proof.Machine
end

section
open Sys2Proof Sys2Proof.Machine

/-- Settles O47: the codes of HTLOAD and HMODE, refresh, and what IRED and HCMD check, read and queue. -/
theorem hearthCommands : Obligations.HearthCommands := by
  unfold Obligations.HearthCommands
  refine ⟨fun rd sa sb s ends => ?_, fun ra rb rc s => ?_⟩
  · intro r a slot st w pc sk inUse badSel on wrong moves
    have mode := exec_hmode (rd := rd) (sa := sa) ends
    refine ⟨fun k go => htload_moves ((htloadMoves_iff k).2 go), fun stays => ?_, fun bad => ?_, fun good foreign => ?_,
      fun good own => ⟨fun same => ?_, fun isOn leave used => ?_, fun other free => ?_⟩, ?_⟩
    · have none : htloadMoves s sa sb = none := Option.eq_none_iff_forall_ne_some.2 fun k h => stays k ((htloadMoves_iff k).1 h)
      have goes := htload_goes (rd := rd) none ends
      refine ⟨fun past => ?_, fun inside zero => ?_, fun inside reg bad => ?_, fun inside reg right foreign => ?_,
        fun inside reg right own b v read => ?_, fun inside reg right own v unread => ?_⟩
      · rw [goes, htloadCode_slot past]
        rfl
      · rw [goes, htloadCode_empties inside zero]
        exact ⟨_, rfl, slotEmptied r st slot rfl⟩
      · rw [goes, htloadCode_word inside reg bad]
        rfl
      · rw [goes, htloadCode_foreign inside reg right foreign]
        rfl
      · intro o
        have walked := r.readVA_sameButTlb r.myPart r.myAcc (vaOf a) 32
        rw [read] at walked
        rw [htloadCode_read inside reg right own read] at goes
        have base : (BitVec.ofNat 256 (leNat b)).extractLsb' 0 64 = BitVec.ofNat 64 (leNat b) := by
          rw [extractLsb'_ofNat (by decide), Nat.pow_zero, Nat.div_one]
        have spec := installTable_spec v st r.myPart r.myAcc slot (BitVec.ofNat 256 (leNat b))
        rw [base] at spec
        refine ⟨fun c code => ?_, fun code => ?_, fun code => ?_, fun code => ?_⟩
        · exact goes.trans (htloadEnds_code code)
        · exact goes.trans (htloadEnds_none code)
        · exact (spec.resolve_right fun h => h.1 code).2
        · exact sameButTlb_trans walked (spec.resolve_left fun h => code h.1).2
      · have walked := r.readVA_sameButTlb r.myPart r.myAcc (vaOf a) 32
        rw [unread] at walked
        rw [goes, htloadCode_unread inside reg right own unread]
        exact ⟨rfl, walked⟩
    · rw [mode, hmodeCode_bad bad]
      rfl
    · rw [mode, hmodeCode_foreign good foreign]
      rfl
    · rw [mode, hmodeCode_same good own same]
      rfl
    · rw [mode, hmodeCode_inUse good own isOn leave ((modeInUse_iff ..).2 used)]
      rfl
    · have set := hmodeCode_sets good own other fun h => mt (modeInUse_iff ..).1 (free h)
      obtain ⟨computes, refreshes⟩ := modeSet_spec (r := r) own (w.getLsbD 8)
      rw [mode, set]
      exact ⟨_, rfl, computes, congrArg Refresh.sequencer refreshes, congrArg Refresh.postponed refreshes,
        (congrArg Refresh.due refreshes :)⟩
    · intro real f due
      refine ⟨_, exec_refresh real due, rfl, ?_⟩
      rw [refreshPut_get]
      exact refreshed_spec s f rfl
  · intro w m x pc queued unread
    have unreads {s : State} {w : Word} {i : Instr} {k : State → Vec → Result} (aligned : w.toNat % 64 = 0) (other : kindOf s.cur ≠ .core) :
        unread s w (commandBytes s i w none k) i :=
      have near : ¬farWord s w := fun far => other far.1
      ⟨commandBytes_noVA aligned near rfl other, fun k va moves => commandBytes_moves aligned near rfl other va moves,
        fun va stays e u walk => ⟨commandBytes_heldPage aligned near rfl other va stays walk,
          commandBytes_page aligned near rfl other va stays walk⟩⟩
    refine ⟨fun bad => ⟨ired_misaligned bad, hcmd_misaligned bad⟩, fun good => ⟨fun crooked => ?_, fun aligned core => ⟨fun out
        => ?_,
        fun inside foreign => ?_, fun inside fine held => ?_⟩, fun aligned other => ⟨fun foreign => ?_, fun fine => ?_⟩,
        fun c v fine read => ?_⟩, fun foreign => ?_, fun fine foreign => ?_, fun fine own => ⟨fun bad ends => ?_, fun ok full
            => ?_,
        fun ok room ends => ?_⟩, fun reg good => ?_, fun i mem head => exec_hearthQueueAccept mem head⟩
    · exact (ired_reads good).trans (commandBytes_crooked crooked)
    · exact (ired_reads good).trans (commandBytes_far aligned ⟨core, out⟩)
    · exact (ired_reads good).trans (commandBytes_window aligned (fun far => by rw [far.2] at inside; cases inside)
        (by rw [show mailboxTrap s (s.rs rb) = some .window from foreign]; rfl))
    · exact (ired_reads good).trans (commandBytes_held aligned (fun far => by rw [far.2] at inside; cases inside)
        (by rw [show mailboxTrap s (s.rs rb) = none from fine]; rfl) core held)
    · exact (ired_reads good).trans (commandBytes_window aligned (fun far => other far.1)
        (by rw [show mailboxTrap s (s.rs rb) = some .window from foreign]; rfl))
    · have goes := ired_reads (ra := ra) good
      rw [show mailboxTrap s (s.rs rb) = none from fine] at goes
      rw [goes]
      exact unreads aligned other
    · intro dst src bad
      have goes := ired_reads (ra := ra) good
      rw [show mailboxTrap s (s.rs rb) = none from fine] at goes
      have goes := goes.trans (commandBytes_reads read)
      refine ⟨fun wrong => goes.trans (iredWith_dst wrong), fun right wrong => goes.trans (iredWith_src right wrong), fun right va => ?_⟩
      intro pc
      refine ⟨fun full => goes.trans (iredWith_full right va full), fun room ends => ?_⟩
      refine ⟨_, goes.trans (iredWith_queued right va room ends), _, hq_pushCommand .., rfl, rfl, ?_, rfl, rfl, rfl, rfl⟩
      exact (State.cur_released v).trans (cur_commandAt read)
    · have good : mailboxTrap s (s.rs rb) ≠ some .misalign := fun h => by cases h.symm.trans foreign
      exact hcmd_window good (hcmdWindow_mailbox foreign)
    · have good : mailboxTrap s (s.rs rb) ≠ some .misalign := fun h => by cases h.symm.trans fine
      exact hcmd_window good (hcmdWindow_foreign fine foreign)
    · have good : mailboxTrap s (s.rs rb) ≠ some .misalign := fun h => by cases h.symm.trans fine
      exact (hcmd_zero good (hcmdWindow_none fine own)).trans (hcmdGo_refused bad ends)
    · have good : mailboxTrap s (s.rs rb) ≠ some .misalign := fun h => by cases h.symm.trans fine
      exact (hcmd_zero good (hcmdWindow_none fine own)).trans (hcmdGo_full ok full)
    · have good : mailboxTrap s (s.rs rb) ≠ some .misalign := fun h => by cases h.symm.trans fine
      refine ⟨_, (hcmd_zero good (hcmdWindow_none fine own)).trans (hcmdGo_queued ok room ends), _, hq_pushCommand .., rfl,
          rfl, ?_,
        rfl, rfl, rfl, rfl⟩
      exact State.cur_released s
    · intro i far here
      have goes := hcmd_reads (ra := ra) good reg
      refine ⟨fun crooked => goes.trans (commandBytes_crooked crooked), fun aligned out => goes.trans (commandBytes_far aligned out),
        fun aligned near foreign => goes.trans (commandBytes_window aligned near (hcmdWindow_mailbox foreign)),
        fun aligned near fine foreign => goes.trans (commandBytes_window aligned near
          (hcmdWindow_foreign fine (Bool.eq_false_iff.2 foreign))),
        fun aligned near fine own other => ?_,
        fun aligned near fine own core held => goes.trans (commandBytes_held aligned near (hcmdWindow_none fine own) core held),
        fun fine own c v read => ?_⟩
      · rw [hcmdWindow_none fine own] at goes
        rw [goes]
        exact unreads aligned other
      · rw [hcmdWindow_none fine own] at goes
        have goes := goes.trans (commandBytes_reads read)
        refine ⟨fun ok full => goes.trans (hcmdGo_full ok full), fun bad ends => goes.trans (hcmdGo_refused bad ends), fun ok
            room ends => ?_⟩
        refine ⟨_, goes.trans (hcmdGo_queued ok room ends), _, hq_pushCommand .., rfl, rfl, ?_, rfl, rfl, rfl, rfl⟩
        exact (State.cur_released v).trans (cur_commandAt read)

end

section
/-! SUPPORT. Hob units (R337 to R342): their commands while accesses are performed, overlays, and rows. -/

namespace Sys2Proof.Machine

/-! ### Accesses neither start nor end a hob command -/

section
variable {α : Type} {f : Hob → α}

/-- From `s` to `t` every hob unit keeps what `f` reads of it. -/
structure keepsHobs (f : Hob → α) (s t : State) : Prop where
  same : ∀ st n, f (Tab.get {} (t.stack st).hobs n) = f (Tab.get {} (s.stack st).hobs n)

theorem keepsHobs_refl (s : State) : keepsHobs f s s := ⟨fun _ _ => rfl⟩
theorem keepsHobs_trans {s t u : State} (st : keepsHobs f s t) (tu : keepsHobs f t u) : keepsHobs f s u :=
  ⟨fun k n => (tu.same k n).trans (st.same k n)⟩
theorem keepsHobs_of_hobs {s t : State} (same : ∀ k, (t.stack k).hobs = (s.stack k).hobs) : keepsHobs f s t :=
  ⟨fun k n => by rw [same]⟩
theorem keepsHobs_of_dram {s t : State} (same : t.dram = s.dram) : keepsHobs f s t :=
  keepsHobs_of_hobs fun k => by rw [State.stack, same]; rfl
theorem keepsHobs_of_stack {s : State} {k : Nat} {x : Stack} (same : x.hobs = (s.stack k).hobs) : keepsHobs f s (s.setStack k x) := by
  refine keepsHobs_of_hobs fun j => ?_
  rw [State.stack_setStack]
  split
  · next here => rw [same, here]
  · rfl
theorem keepsHobs_setHob {s : State} {k n : Nat} {u : Hob} (same : f u = f (Tab.get {} (s.stack k).hobs n)) :
    keepsHobs f s (s.setStack k { s.stack k with hobs := Tab.set {} (s.stack k).hobs n u }) := by
  refine ⟨fun j i => ?_⟩
  rw [State.stack_setStack]
  split
  · next here =>
    rw [Tab.get_set]
    split
    · next number => rw [same, here, number]
    · rw [here]
  · rfl
theorem keepsHobs_ite {s t u : State} {p : Prop} {_ : Decidable p} (ht : keepsHobs f s t) (hu : keepsHobs f s u) :
    keepsHobs f s (if p then t else u) := by
  split
  · exact ht
  · exact hu
theorem keepsHobs_foldl {β : Type} (g : State → β → State) (each : ∀ s a, keepsHobs f s (g s a)) (l : List β) (s : State) :
    keepsHobs f s (l.foldl g s) := by
  induction l generalizing s with
  | nil => exact keepsHobs_refl s
  | cons a r ih => exact keepsHobs_trans (each s a) (ih _)
theorem keepsHobs_of_sameButTlb {s t : State} (same : sameButTlb s t) : keepsHobs f s t :=
  keepsHobs_of_hobs fun k => by rw [(same.2 k).1]

theorem keepsHobs_noteWindow (s : State) (h : Hart) (moved : Nat → Bool) : keepsHobs f s (s.noteWindow h moved) :=
  keepsHobs_ite (keepsHobs_refl s) (keepsHobs_of_dram rfl)
theorem keepsHobs_setToken (s : State) (a : Nat) (x : Option Hart) : keepsHobs f s (s.setToken a x) :=
  keepsHobs_ite (keepsHobs_of_dram rfl) (keepsHobs_of_stack rfl)
theorem dram_evalEntry (s : State) (cl e : Nat) : (evalEntry s cl e).dram = s.dram := by
  unfold evalEntry
  dsimp only
  split <;> rfl
theorem dram_wtStore (s : State) (cl e j : Nat) (w : Word) : (wtStore s cl e j w).dram = s.dram := by
  unfold wtStore
  split <;> simp only [apply_ite State.dram, dram_evalEntry]
  · exact ite_self _
  · exact ite_self _
  · exact (if_congr Iff.rfl rfl (ite_self _)).trans (ite_self _)
  · exact ite_self _
theorem dram_endRedo (s : State) (h : Hart) : (s.endRedo h).dram = s.dram := by
  unfold State.endRedo
  split
  · split <;> rfl
  · rfl
theorem keepsHobs_boundary (s : State) (h : Hart) : keepsHobs f s (s.boundary h) :=
  keepsHobs_trans (t := (s.endRedo h).setThread h _) (keepsHobs_of_dram (dram_endRedo s h)) (keepsHobs_noteWindow ..)
theorem dram_evalEntries (s : State) (cl i : Nat) : (evalEntries s cl i).dram = s.dram :=
  foldl_keeps _ State.dram _ _ fun _ _ => dram_evalEntry ..
theorem dram_addAddend (s : State) (cl : Nat) (a : Addend) : (addAddend s cl a).dram = s.dram := by
  unfold addAddend
  extract_lets m width f w new vals t u bad left v
  have stored : t.dram = s.dram := by
    unfold t
    split
    · rfl
    · exact foldl_keeps _ State.dram _ _ fun u _ => by unfold State.setTileEl; split <;> rfl
  have noted : u.dram = s.dram := stored
  split
  · rfl
  · split
    · split
      · exact noted
      · exact noted
    · exact noted
theorem dram_applyAddend (s : State) (cl : Nat) (a : Addend) : (applyAddend s cl a).dram = s.dram := by
  unfold applyAddend
  split
  · exact dram_addAddend ..
  · exact dram_addAddend ..
theorem dram_arriveAddend (s : State) (cl : Nat) (a : Addend) : (arriveAddend s cl a).dram = s.dram := by
  unfold arriveAddend
  extract_lets c m b u
  have refused : u.dram = s.dram := by
    unfold u
    split <;> rfl
  split
  · exact refused
  · exact (dram_applyAddend ..).trans refused
section
variable (data : ∀ (u : Hob) d, f { u with data := d } = f u)
include data
theorem keepsHobs_storeHob (s : State) (k : Nat) (b : List Byte) : keepsHobs f s (storeHob s k b) := keepsHobs_setHob (data ..)
theorem keepsHobs_writeAt (s : State) (h : Hart) (k : Nat) (b : List Byte) : keepsHobs f s (s.writeAt h k b) := by
  have noted : keepsHobs f s (s.noteLines (arbOfKey k) (linesOf k b.length) h) := keepsHobs_of_dram rfl
  unfold State.writeAt
  extract_lets u plain
  refine keepsHobs_trans noted ?_
  have wrote : keepsHobs f u plain := keepsHobs_of_dram rfl
  split
  · exact keepsHobs_storeHob data ..
  · split
    · exact wrote
    · split
      · exact wrote
      · exact wrote
      · exact keepsHobs_of_dram rfl
      · exact keepsHobs_of_dram (dram_wtStore ..)
      · exact keepsHobs_ite (keepsHobs_of_dram rfl) (keepsHobs_of_dram rfl)
      · unfold State.storeWindow
        dsimp only
        split
        · exact keepsHobs_refl _
        · exact keepsHobs_of_dram rfl
        all_goals exact keepsHobs_ite (keepsHobs_of_dram rfl) (keepsHobs_of_dram rfl)
      · exact keepsHobs_refl _
      · exact keepsHobs_refl _

theorem keepsHobs_reduceStep (s : State) (h : Hart) (kind k : Nat) (tag : BitVec 16) (ci : Option (BitVec 8)) (lines : List Vec) :
    keepsHobs f s (reduceStep s h kind k tag ci lines).1 := by
  have fin {t : State} (rest : List Vec) (st : keepsHobs f s t) : keepsHobs f s (if rest.isEmpty then (match ci with
      | some i => notifyUp t (oaCl k) i.toNat
      | none => t) else t) := by
    refine keepsHobs_ite ?_ st
    split
    · exact keepsHobs_trans st (keepsHobs_of_dram rfl)
    · exact st
  unfold reduceStep
  dsimp only
  split
  · exact fin _ (keepsHobs_writeAt data ..)
  · exact fin _ (keepsHobs_writeAt data ..)
  · split
    · exact keepsHobs_of_dram (dram_arriveAddend ..)
    · exact keepsHobs_of_dram (dram_arriveAddend ..)
theorem keepsHobs_reduceAt (s : State) (h : Hart) (kind k : Nat) (tag : BitVec 16) (ci : Option (BitVec 8)) (lines : List Vec)
    (n : Nat) :
    keepsHobs f s (reduceAt s h kind k tag ci lines n) := by
  induction n generalizing s k lines with
  | zero => exact keepsHobs_refl s
  | succ n ih => exact keepsHobs_ite (keepsHobs_refl s) (keepsHobs_trans (keepsHobs_reduceStep data ..) (ih ..))
theorem keepsHobs_commitStore (s : State) (h : Hart) (w : WStore) : keepsHobs f s (commitStore s h w) :=
  keepsHobs_ite (keepsHobs_writeAt data ..) (keepsHobs_of_dram rfl)
theorem keepsHobs_commit (s : State) (h : Hart) : keepsHobs f s (s.commit h) := by
  unfold State.commit
  extract_lets t a b c core d e u wait
  have stored : keepsHobs f s a := keepsHobs_foldl _ (fun _ _ => keepsHobs_commitStore data ..) _ _
  have settled : keepsHobs f a b := keepsHobs_ite (keepsHobs_of_dram rfl) (keepsHobs_refl a)
  have counted : keepsHobs f b c := keepsHobs_ite (keepsHobs_refl b) (keepsHobs_of_dram rfl)
  have overrun : keepsHobs f c d := keepsHobs_ite (keepsHobs_refl c) (keepsHobs_of_dram rfl)
  have freed : keepsHobs f d e := keepsHobs_ite (keepsHobs_setToken ..) (keepsHobs_refl d)
  have before : keepsHobs f s e :=
    keepsHobs_trans (keepsHobs_trans (keepsHobs_trans (keepsHobs_trans stored settled) counted) overrun) freed
  exact keepsHobs_trans (t := (e.endRedo h).setThread h _) (keepsHobs_trans before (keepsHobs_of_dram (dram_endRedo e h)))
    (keepsHobs_noteWindow ..)
theorem keepsHobs_writeVA (s : State) (h : Hart) (p acc va : Nat) (b : List Byte) : keepsHobs f s (s.writeVA h p acc va b).2 := by
  have walked := keepsHobs_of_sameButTlb (f := f) (s.xlateRange_sameButTlb p acc va b.length true true)
  unfold State.writeVA
  split
  · next e =>
    rw [e] at walked
    exact keepsHobs_trans walked (keepsHobs_foldl _ (fun _ _ => keepsHobs_writeAt data ..) _ _)
  · next e =>
    rw [e] at walked
    exact walked
theorem keepsHobs_putMailbox (s : State) (h : Hart) (p acc : Nat) (mbox : Option Word) (first : Nat) (rest : List Byte) :
    keepsHobs f s (putMailbox s h p acc mbox first rest) := by
  have put (s : State) (w : Word) (off : Nat) (b : List Byte) : keepsHobs f s (if b.isEmpty then s
      else if isOA w then s.writeAt h (w.toNat + off) b else (s.writeVA h p acc (vaOf w + off) b).2) :=
    keepsHobs_ite (keepsHobs_refl s) (keepsHobs_ite (keepsHobs_writeAt data ..) (keepsHobs_writeVA data ..))
  unfold putMailbox
  split
  · exact keepsHobs_refl s
  · exact keepsHobs_trans (put ..) (put ..)

end
section
variable (tick : ∀ (u : Hob) n, f { u with executed := n } = f u)
include tick
theorem keepsHobs_hobTick (s : State) (h : Hart) : keepsHobs f s (s.hobTick h) := keepsHobs_setHob (tick ..)
theorem keepsHobs_goto (s : State) (h : Hart) (pc : Word) : keepsHobs f s (s.goto h pc) := by
  unfold State.goto
  dsimp only
  have ticked : keepsHobs f s (if kindOf h = .hob then s.hobTick h else s) := keepsHobs_ite (keepsHobs_hobTick tick s h)
      (keepsHobs_refl s)
  refine keepsHobs_trans ticked ?_
  generalize (if kindOf h = .hob then s.hobTick h else s) = u
  split
  · exact keepsHobs_of_dram rfl
  · split
    · exact keepsHobs_of_dram rfl
    · split
      · exact keepsHobs_of_dram rfl
      · split
        · exact keepsHobs_of_dram (dram_leadTo ..)
        · exact keepsHobs_of_dram rfl
theorem keepsHobs_advance (s : State) (h : Hart) : keepsHobs f s (s.advance h) := by
  have put (x : Option RepState) : keepsHobs f s (s.setThread h
      { s.thread h with regs := { (s.thread h).regs with rep := x } }) :=
    keepsHobs_of_dram rfl
  unfold State.advance
  dsimp only
  split
  · exact keepsHobs_goto tick ..
  · split
    · exact keepsHobs_trans (put _) (keepsHobs_goto tick ..)
    · split
      · exact keepsHobs_trans (put _) (keepsHobs_goto tick ..)
      · exact keepsHobs_trans (put _) (keepsHobs_goto tick ..)
theorem keepsHobs_returnValue (s : State) (h : Hart) (id : Nat) (rd : Reg) (w : Word) : keepsHobs f s (returnValue s h id rd w) :=
  keepsHobs_ite (keepsHobs_trans (t := s.setThread h { s.thread h with regs := (s.thread h).regs.setS rd w })
      (keepsHobs_of_dram rfl)
    (keepsHobs_trans (keepsHobs_advance tick _ h) (keepsHobs_boundary _ h))) (keepsHobs_refl s)
theorem keepsHobs_answerHart (s : State) (h : Hart) (rd : Reg) (code : Nat) : keepsHobs f s (answerHart s h rd code) :=
  keepsHobs_ite (keepsHobs_trans (t := s.setThread h
      { s.thread h with regs := (s.thread h).regs.setS rd (BitVec.ofNat 64 code) })
    (keepsHobs_of_dram rfl) (keepsHobs_trans (keepsHobs_advance tick _ h) (keepsHobs_boundary _ h))) (keepsHobs_refl s)

variable (data : ∀ (u : Hob) d, f { u with data := d } = f u)
include data
theorem keepsHobs_performItem (s : State) (m : Msg) : keepsHobs f s (performItem s m) := by
  have dropped : keepsHobs f s (s.dropMsg m.id) := keepsHobs_of_dram rfl
  unfold performItem
  split
  · exact keepsHobs_trans dropped (keepsHobs_writeAt data ..)
  · extract_lets old u v
    have written : keepsHobs f s v := by
      unfold v
      split
      · exact keepsHobs_trans dropped (keepsHobs_writeAt data ..)
      · exact dropped
    split
    · exact keepsHobs_trans written (keepsHobs_returnValue tick ..)
    · exact written
  · extract_lets u cl i v
    refine keepsHobs_ite (keepsHobs_trans dropped (keepsHobs_of_dram rfl)) ?_
    have written : keepsHobs f s v := by
      unfold v
      split
      · exact keepsHobs_trans dropped (keepsHobs_writeAt data ..)
      · exact dropped
    exact keepsHobs_trans written (keepsHobs_of_dram (dram_evalEntries ..))
  · exact keepsHobs_trans (keepsHobs_trans dropped (keepsHobs_foldl _ (fun _ _ => keepsHobs_writeAt data ..) _ _))
      (keepsHobs_writeAt data ..)
  · exact keepsHobs_trans dropped (keepsHobs_reduceAt data ..)
  · exact keepsHobs_refl s
  · exact keepsHobs_refl s
  · exact keepsHobs_refl s
  · exact keepsHobs_refl s
  · exact keepsHobs_refl s
theorem keepsHobs_drain (s : State) (h : Hart) : keepsHobs f s (s.drain h) :=
  keepsHobs_foldl _ (fun _ _ => keepsHobs_ite (keepsHobs_performItem tick data ..) (keepsHobs_refl _)) _ _

end
end

/-! ### HOVL and the loading of overlays -/

section
variable {s : State} {rd sh si : Reg}

/-- The pseudo-channel that HOVL names, and what is wrong with its operands. -/
def hovlPc (s : State) (sh : Reg) : Nat := 96 * (hartSk s.cur / 12) + selPc (s.rs sh)
def hovlBad (w img : Word) : Prop := 2 ^ 11 ≤ w.toNat ∨ w.getLsbD 7 = true ∨ isVA img = false ∨ img.toNat % 4096 ≠ 0
def hovlOther (sk : Nat) (w : Word) : Prop := selStack w ≠ sk / 12 ∨ selPc w / 8 ≠ sk % 12
def hovlCode (sk : Nat) (w img : Word) : Nat :=
  if 2 ^ 11 ≤ w.toNat || w.getLsbD 7 || !isVA img || img.toNat % 4096 ≠ 0 then 3
  else if selStack w ≠ sk / 12 || selPc w / 8 ≠ sk % 12 then 2
  else 0
/-- The load that HOVL queues, and the state that waits for its answer. -/
def hovlCmd (r : State) (pc : Nat) (img : Word) (rd : Reg) : HCmd :=
  { id := 0, kind := 2, pc := pc, cmd := 0, sel := img, mbox := none, hart := r.cur, rd := rd, cont := r.me.cont, job := none,
      dpa := none
    pos := 0, skipped := 0, fault := false }
def hovlQueued (r : State) (c : HCmd) (rd : Reg) : State := (pushCommand r c).setMe
    { (pushCommand r c).me with wait := .answer rd }

theorem exec_hovl : exec (.hovl rd sh si) s = if hovlCode (hartSk s.cur) (s.rs sh) (s.rs si) ≠ 0 then
      withRelease s fun r => (r.ws rd (BitVec.ofNat 64 (hovlCode (hartSk s.cur) (s.rs sh) (s.rs si)))).doneStrong
    else if queueFull s (hovlPc s sh) then s.stalled (.hovl rd sh si)
    else withRelease s fun r => .next (hovlQueued r (hovlCmd r (hovlPc s sh) (s.rs si) rd) rd) := rfl
theorem hovlCode_bad {sk : Nat} {w img : Word} (bad : hovlBad w img) : hovlCode sk w img = 3 :=
  if_pos (by simpa [hovlBad, or_assoc] using bad)
theorem hovlCode_other {sk : Nat} {w img : Word} (good : ¬hovlBad w img) (other : hovlOther sk w) : hovlCode sk w img = 2 :=
  (if_neg (by simpa [hovlBad, or_assoc] using good)).trans (if_pos (by simpa [hovlOther] using other))
theorem hovlCode_own {sk : Nat} {w img : Word} (good : ¬hovlBad w img) (own : ¬hovlOther sk w) : hovlCode sk w img = 0 :=
  (if_neg (by simpa [hovlBad, or_assoc] using good)).trans (if_neg (by simpa [hovlOther] using own))
theorem hovl_answers {n : Nat} (code : hovlCode (hartSk s.cur) (s.rs sh) (s.rs si) = n) (some : n ≠ 0) (ends : s.mayRelease = true) :
    exec (.hovl rd sh si) s = .next (s.released.ws rd (BitVec.ofNat 64 n)).pastStrong := by
  rw [exec_hovl, code, if_pos some, withRelease_mayRelease s _ ends]
  rfl
theorem hovl_full (code : hovlCode (hartSk s.cur) (s.rs sh) (s.rs si) = 0) (full : queueFull s (hovlPc s sh) = true) :
    exec (.hovl rd sh si) s = s.stalled (.hovl rd sh si) := by
  rw [exec_hovl, code, if_neg (fun h => h rfl), if_pos full]
theorem hovl_queued (code : hovlCode (hartSk s.cur) (s.rs sh) (s.rs si) = 0) (room : queueFull s (hovlPc s sh) = false)
    (ends : s.mayRelease = true) : exec (.hovl rd sh si) s =
      .next (hovlQueued s.released (hovlCmd s.released (hovlPc s sh) (s.rs si) rd) rd) := by
  rw [exec_hovl, code, if_neg (fun h => h rfl), if_neg (Bool.eq_false_iff.1 room), withRelease_mayRelease s _ ends]
theorem hovlQueued_me (r : State) (c : HCmd) : (hovlQueued r c rd).me = { r.me with wait := .answer rd } :=
  State.thread_setThread_self ..

end

/-- Where a hart without gang and path goes on, its registers are as they were but for the PC. -/
theorem State.regs_goto_free {s : State} {h : Hart} (gang : (s.thread h).gang = none) (path : (s.thread h).path = []) (pc : Word) :
    ((s.goto h pc).thread h).regs = { (s.thread h).regs with pc := pc } := by
  have same : (if kindOf h = .hob then s.hobTick h else s).thread h = s.thread h := by split <;> rfl
  unfold State.goto
  generalize (if kindOf h = .hob then s.hobTick h else s) = u at same ⊢
  simp only [same, path, gang]
  rw [State.thread_setThread_self]
/-- What the answer of HOVL leaves of its hart's registers. -/
theorem answerHart_regs {s : State} {h : Hart} {rd : Reg} {code : Nat} (waits : (s.thread h).wait = .answer rd)
    (gang : (s.thread h).gang = none) (path : (s.thread h).path = []) (rep : (s.thread h).regs.rep = none) :
    ∃ pc, ((answerHart s h rd code).thread h).regs = { (s.thread h).regs.setS rd (BitVec.ofNat 64 code) with pc := pc } := by
  have goes : answerHart s h rd code = ((s.setThread h
      { s.thread h with regs := (s.thread h).regs.setS rd (BitVec.ofNat 64 code) }).advance h).boundary h := if_pos waits
  generalize answered : ({ s.thread h with regs := (s.thread h).regs.setS rd (BitVec.ofNat 64 code) } : Thread) = t at goes
  have thread : (s.setThread h t).thread h = t := State.thread_setThread_self ..
  have falls : (s.setThread h t).advance h = (s.setThread h t).goto h ((s.setThread h t).fall h) := by
    unfold State.advance
    simp only [thread]
    rw [show t.regs.rep = none by rw [← answered]; exact (Regs.setS_rep ..).trans rep]
  rw [goes, falls, State.thread_boundary_self]
  dsimp only
  rw [State.regs_goto_free (by rw [thread, ← answered]; exact gang) (by rw [thread, ← answered]; exact path), thread]
  exact ⟨_, by rw [← answered]⟩
theorem answerHart_overlay (s : State) (h : Hart) (rd : Reg) (code pc : Nat) :
    ((answerHart s h rd code).hob pc).overlay = (s.hob pc).overlay :=
  (keepsHobs_answerHart (f := Hob.overlay) (fun _ _ => rfl) s h rd code).same (pc / 96) (pc % 96)

/-- A table filled entry by entry. -/
theorem tab_filled {α : Type} [DecidableEq α] (d : α) (f : Nat → α) (n : Nat) {i : Nat} (hi : i < n) :
    Tab.get d ((List.range n).foldl (fun o i => Tab.set d o i (f i)) ([] : Tab α)) i = f i := by
  induction n with
  | zero => cases hi
  | succ n ih =>
    rw [List.range_succ, List.foldl_append, List.foldl_cons, List.foldl_nil, Tab.get_set]
    split
    · next here => rw [here]
    · next other => exact ih (by omega)
/-- A walk and the queues of commands do not matter to a byte. -/
theorem State.byteAt_walked {s u : State} (walked : sameButTlb s u) (l : Tab (List HCmd)) (k : Nat) :
    ({ u with hqueue := l } : State).byteAt k = s.byteAt k := by
  have hobs (j : Nat) : (u.stack j).hobs = (s.stack j).hobs := by rw [(walked.2 j).1]
  unfold State.byteAt
  rw [show ({ u with hqueue := l } : State).stack = u.stack from rfl, hobs, walked.1]
  rfl

section
variable {s : State} {c : HCmd} (free : (s.hob s.cur).cmd = none) (next : s.nextHob s.cur = some c)
include free next

/-- The state in which a unit has taken a command from its queue. -/
def tookCmd (s : State) (pc : Nat) (c : HCmd) : State := s.setHq (pcStoker pc) ((s.hq (pcStoker pc)).filter fun x => x.id != c.id)
def overlayAt (s : State) (k : Nat) : Tab Byte := (List.range 4096).foldl (fun o i => Tab.set (0 : Byte) o i (s.byteAt (k +
    i))) ([] : Tab Byte)
omit free next in
theorem overlayAt_get (s : State) (k : Nat) {i : Nat} (hi : i < 4096) : Tab.get 0 (overlayAt s k) i = s.byteAt (k + i) := by
  unfold overlayAt
  exact tab_filled 0 (fun i => s.byteAt (k + i)) 4096 hi
theorem exec_hovlLoad (load : c.kind = 2) {k : Nat} {u : State} (walk : s.xlate c.cont.part c.cont.acc (vaOf c.sel) false = (.ok k, u)) :
    exec .hovlLoad s = .next (answerHart ((tookCmd u s.cur c).setHob s.cur { (tookCmd u s.cur c).hob s.cur with
      overlay := overlayAt (tookCmd u s.cur c) k }) c.hart c.rd 0) := by
  have go : (if (s.hob s.cur).cmd.isNone then s.nextHob s.cur else none) = some c := by rw [free, next]; rfl
  change execHovlLoad s = _
  unfold execHovlLoad
  dsimp only
  rw [go]
  dsimp only
  rw [if_neg (fun h => h load), walk]
  rfl

omit free next in
theorem State.hob_setHob_self (s : State) (pc : Nat) (u : Hob) : (s.setHob pc u).hob pc = u := by
  rw [State.hob, State.setHob, State.stack_setStack_self]
  exact Tab.get_set_self _ _ _ _
theorem hovlLoad_spec (load : c.kind = 2) {k : Nat} {u : State} (walk : s.xlate c.cont.part c.cont.acc (vaOf c.sel) false = (.ok k, u)) :
    ∃ t, exec .hovlLoad s = .next t ∧ (∀ i, i < 4096 → Tab.get 0 (t.hob s.cur).overlay i = s.byteAt (k + i)) ∧
      ((s.thread c.hart).wait = .answer c.rd → (s.thread c.hart).path = [] → (s.thread c.hart).gang = none →
        (s.thread c.hart).regs.rep = none → ∃ pc, (t.thread c.hart).regs =
            { (s.thread c.hart).regs.setS c.rd 0 with pc := pc }) := by
  have walked := s.xlate_sameButTlb c.cont.part c.cont.acc (vaOf c.sel) false false
  rw [walk] at walked
  refine ⟨_, exec_hovlLoad free next load walk, fun i hi => ?_, fun waits path gang rep => ?_⟩
  · rw [answerHart_overlay, State.hob_setHob_self]
    dsimp only
    rw [overlayAt_get _ k hi]
    exact State.byteAt_walked walked _ _
  · have same : ((tookCmd u s.cur c).setHob s.cur { (tookCmd u s.cur c).hob s.cur with
        overlay := overlayAt (tookCmd u s.cur c) k }).thread c.hart = s.thread c.hart := walked.thread c.hart
    have regs := answerHart_regs (code := 0) (by rw [same]; exact waits) (by rw [same]; exact gang) (by rw [same]; exact path)
      (by rw [same]; exact rep)
    rwa [same] at regs

/-! ### Commands -/

/-- The registers that a command starts with. -/
def cmdRegs (c : HCmd) : Regs :=
  (List.range 8).foldl (fun r i => r.setS (BitVec.ofNat 5 (3 + i)) (c.cmd.extractLsb' (64 * i) 64))
    { pc := BitVec.ofNat 64 (selEntry c.sel) }
/-- The state in which a unit has started its command. -/
def startedCmd (s : State) (c : HCmd) : State :=
  ((tookCmd s s.cur c).setHob s.cur { (tookCmd s s.cur c).hob s.cur with cmd := some c, executed := 0 }).setThread (13824 + s.cur)
    { run := .running, regs := cmdRegs c, chunk := { begun := cmdRegs c }, cont := c.cont }
theorem exec_hobCommandRun (runs : c.kind = 1) : exec .hobCommandRun s =
    if !s.computing s.cur then .next (putMailbox (tookCmd s s.cur c) hearthHart c.cont.part c.cont.acc c.mbox (2 + 256 * 4) [])
    else .next (startedCmd s c) := by
  have go : (if (s.hob s.cur).cmd.isNone then s.nextHob s.cur else none) = some c := by rw [free, next]; rfl
  change execHobCommandRun s = _
  unfold execHobCommandRun
  dsimp only
  rw [go]
  dsimp only
  rw [if_neg (fun h => h runs)]
  rfl
omit free next in
/-- Registers filled one after another. -/
theorem regs_filled (f : Nat → Word) (r : Regs) {n : Nat} (few : n ≤ 29) {i : Nat} (hi : i < n) :
    ((List.range n).foldl (fun r i => r.setS (BitVec.ofNat 5 (3 + i)) (f i)) r).getS (BitVec.ofNat 5 (3 + i)) = f i := by
  have number (j : Nat) (hj : j < 29) : (BitVec.ofNat 5 (3 + j)).toNat = 3 + j := by
    rw [BitVec.toNat_ofNat, Nat.mod_eq_of_lt (by omega)]
  induction n with
  | zero => cases hi
  | succ n ih =>
    rw [List.range_succ, List.foldl_append, List.foldl_cons, List.foldl_nil]
    by_cases here : i = n
    · rw [here]
      refine Regs.getS_setS_self _ (fun zero => ?_) _
      have value := congrArg BitVec.toNat zero
      rw [number n (by omega)] at value
      exact absurd value (by simp)
    · rw [Regs.getS_setS_ne _ fun same => here ?_]
      · exact ih (by omega) (by omega)
      · have value := congrArg BitVec.toNat same
        rw [number n (by omega), number i (by omega)] at value
        omega
omit free next in
theorem cmdRegs_pc : (cmdRegs c).pc = BitVec.ofNat 64 (selEntry c.sel) :=
  foldl_keeps _ Regs.pc _ _ fun _ _ => Regs.setS_pc ..
omit free next in
theorem startedCmd_thread : (startedCmd s c).thread (13824 + s.cur) =
    { run := .running, regs := cmdRegs c, chunk := { begun := cmdRegs c }, cont := c.cont } := State.thread_setThread_self ..
omit free next in
theorem startedCmd_hob : (startedCmd s c).hob s.cur = { (tookCmd s s.cur c).hob s.cur with cmd := some c, executed := 0 } :=
  State.hob_setHob_self ..

end

/-! ### The end of a command -/

theorem hartStack_unit (c : Nat) : hartStack (13824 + c) = c / 96 := by
  rw [hartStack, if_neg (Nat.not_lt.2 (Nat.le_add_right ..)), Nat.add_sub_cancel_left]
theorem keepsHobs_goIdle {α : Type} {f : Hob → α} (s : State) (h : Hart) : keepsHobs f s (s.goIdle h) := by
  have dropped : keepsHobs f s (s.dropToken h) := keepsHobs_ite (keepsHobs_setToken ..) (keepsHobs_refl s)
  have idle : keepsHobs f (s.dropToken h) ((s.dropToken h).setThread h {}) := keepsHobs_of_dram (State.setThread_dram ..)
  exact keepsHobs_trans (keepsHobs_trans dropped idle) (keepsHobs_noteWindow ..)
/-- The state in which a unit has no command. -/
def unitFreed (s : State) (pc : Nat) : State := s.setHob pc { s.hob pc with cmd := none, executed := 0 }
theorem unitFreed_hob (s : State) (pc : Nat) : (unitFreed s pc).hob pc = { s.hob pc with cmd := none, executed := 0 } :=
  State.hob_setHob_self ..
theorem endHob_eq {u : State} {pc : Nat} {x : HCmd} (cmd : (u.hob pc).cmd = some x) (stop fcode : Nat) (rest : List Byte) :
    endHob u (13824 + pc) stop fcode rest = (putMailbox (unitFreed u pc) (13824 + pc) x.cont.part x.cont.acc x.mbox
      (stop + 256 * fcode) rest).goIdle (13824 + pc) := by
  have held : (Tab.get {} (u.stack (pc / 96)).hobs (pc % 96) : Hob).cmd = some x := cmd
  unfold endHob
  dsimp only
  rw [hartStack_unit, Nat.add_sub_cancel_left, held]
  rfl
/-- A command that is ended leaves its unit idle. -/
theorem endHob_ends {u : State} {pc : Nat} {x : HCmd} (cmd : (u.hob pc).cmd = some x) (stop fcode : Nat) (rest : List Byte) :
    ((endHob u (13824 + pc) stop fcode rest).hob pc).cmd = none ∧ ((endHob u (13824 + pc) stop fcode rest).hob pc).executed = 0
        ∧
      (endHob u (13824 + pc) stop fcode rest).thread (13824 + pc) = {} := by
  rw [endHob_eq cmd]
  have kept {α : Type} (f : Hob → α) (data : ∀ (u : Hob) d, f { u with data := d } = f u) :=
    ((keepsHobs_putMailbox data (unitFreed u pc) (13824 + pc) x.cont.part x.cont.acc x.mbox (stop + 256 * fcode) rest)
      |> (keepsHobs_trans · (keepsHobs_goIdle _ (13824 + pc)))).same (pc / 96) (pc % 96)
  have freed := unitFreed_hob u pc
  exact ⟨(kept Hob.cmd fun _ _ => rfl).trans (congrArg Hob.cmd freed), (kept Hob.executed fun _ _ => rfl).trans (congrArg
      Hob.executed freed),
    State.thread_goIdle ..⟩
theorem hobFault_ends {s : State} {h : Hart} (ends : ({ s with cur := h } : State).mayEnd = true) (free : (s.commit h).hobWaits h = false)
    (fcode : Nat) : hobFault s h fcode = .next (endHob ((s.commit h).drain h) h 3 fcode
      (leBytes 8 (s.thread h).regs.pc.toNat ++ leBytes 2 ((s.commit h).headAt h).1.toNat ++ leBytes 46 0)) := by
  have closed : (s.leaderOpen h).isNone && s.tokenFree h && !(s.thread h).chunk.overlaps && !s.storesWait h := ends
  simp only [Bool.and_eq_true, Bool.not_eq_true', Option.isNone_iff_eq_none] at closed
  obtain ⟨⟨⟨leader, token⟩, apart⟩, stores⟩ := closed
  have chunk : s.endChunk h = .ok (s.commit h) := by
    unfold State.endChunk
    rw [leader]
    simp [token, apart, stores]
  unfold hobFault
  rw [chunk]
  exact if_neg (Bool.eq_false_iff.1 free)
theorem exec_hobBudgetExhausted {s : State} {x : HCmd} (cmd : (s.hob s.cur).cmd = some x) (spent : 2 ^ 28 ≤ (s.hob
    s.cur).executed) :
    exec .hobBudgetExhausted s = hobFault s (13824 + s.cur) 7 := by
  refine (show exec .hobBudgetExhausted s = _ from if_pos ?_)
  rw [cmd, decide_eq_true spent]
  rfl
/-- What a hart has performed and committed leaves the command of its unit. -/
theorem cmd_drained (s : State) (h : Hart) (pc : Nat) : (((s.commit h).drain h).hob pc).cmd = (s.hob pc).cmd :=
  (keepsHobs_trans (keepsHobs_commit (f := Hob.cmd) (fun _ _ => rfl) s h)
    (keepsHobs_drain (fun _ _ => rfl) (fun _ _ => rfl) _ h)).same (pc / 96) (pc % 96)

/-! ### Rows -/

section
variable {s : State} {i : Instr} {sl sb : Reg} {n1 : BitVec 7} {write : Bool}
    {f : State → Nat → List (Nat × Nat × Nat) → Result}

/-- The bytes of a row, its word and what is wrong with its operands. -/
def rowSize (n1 : BitVec 7) : Nat := 64 * (n1.toNat + 1)
def rowBad (off : Nat) (w : Word) (n : Nat) : Prop := off % 64 ≠ 0 ∨ 8192 < off + n ∨ w.toNat % 64 ≠ 0 ∨ isVA w = false

theorem rowAccess_bad (bad : rowBad (s.rs sl).toNat (s.rs sb) (rowSize n1)) : rowAccess s i sl sb n1 write f = hobFault s s.cur
    6 :=
  if_pos (by simpa [rowBad, rowSize, or_assoc] using bad)
variable (good : ¬rowBad (s.rs sl).toNat (s.rs sb) (rowSize n1))
include good
theorem rowAccess_good : rowAccess s i sl sb n1 write f =
    match s.xlateRange s.myPart s.myAcc (vaOf (s.rs sb)) (rowSize n1) write with
    | (.ok l, u) =>
      if keyStack ((l.head?.map Prod.fst).getD 0) ≠ (s.cur - 13824) / 96 ||
        pcOfPa (keyPa ((l.head?.map Prod.fst).getD 0)) ≠ (s.cur - 13824) % 96 then hobFault u u.cur 2
      else if !onePc (keyPa ((l.head?.map Prod.fst).getD 0)) (rowSize n1) ||
        !u.onePage (keyStack ((l.head?.map Prod.fst).getD 0)) u.myPart (vaOf (s.rs sb)) (rowSize n1) then hobFault u u.cur 6
      else if l.any (fun x => u.mustWait u.cur x.1 x.2.2) then u.stalled i
      else f u (hobKey (s.cur - 13824) (s.rs sl).toNat) l
    | (.error .held, u) => u.stalled i
    | (.error .outside, u) | (.error .readonly, u) => hobFault u u.cur 2
    | (.error _, u) => hobFault u u.cur 1 := by
  refine (if_neg (by simpa [rowBad, rowSize, or_assoc] using good)).trans ?_
  rfl
variable {u : State}
section
variable {e : Xres} (walk : s.xlateRange s.myPart s.myAcc (vaOf (s.rs sb)) (rowSize n1) write = (.error e, u))
include walk
theorem rowAccess_held (page : e = .held) : rowAccess s i sl sb n1 write f = u.stalled i := by
  rw [rowAccess_good good, walk, page]
theorem rowAccess_refused (page : e = .outside ∨ e = .readonly) : rowAccess s i sl sb n1 write f = hobFault u u.cur 2 := by
  rw [rowAccess_good good, walk]
  rcases page with rfl | rfl <;> rfl
theorem rowAccess_absent (held : e ≠ .held) (outside : e ≠ .outside) (readonly : e ≠ .readonly) :
    rowAccess s i sl sb n1 write f = hobFault u u.cur 1 := by
  rw [rowAccess_good good, walk]
  cases e with
  | held => exact absurd rfl held
  | outside => exact absurd rfl outside
  | readonly => exact absurd rfl readonly
  | _ => rfl

end
variable {l : List (Nat × Nat × Nat)} (walk : s.xlateRange s.myPart s.myAcc (vaOf (s.rs sb)) (rowSize n1) write = (.ok l, u))
include walk
/-- The first key of a row. -/
def rowKey (l : List (Nat × Nat × Nat)) : Nat := (l.head?.map Prod.fst).getD 0
def rowMine (unit : Nat) (l : List (Nat × Nat × Nat)) : Prop := keyStack (rowKey l) = unit / 96 ∧ pcOfPa (keyPa (rowKey l)) =
    unit % 96
def rowWhole (u : State) (w : Word) (n : Nat) (l : List (Nat × Nat × Nat)) : Prop :=
  onePc (keyPa (rowKey l)) n = true ∧ u.onePage (keyStack (rowKey l)) u.myPart (vaOf w) n = true
theorem rowAccess_foreign (foreign : ¬rowMine (s.cur - 13824) l) : rowAccess s i sl sb n1 write f = hobFault u u.cur 2 := by
  rw [rowAccess_good good, walk]
  exact if_pos (by simpa [rowMine, rowKey, imp_iff_not_or] using foreign)
variable (mine : rowMine (s.cur - 13824) l)
include mine
theorem rowAccess_mine : rowAccess s i sl sb n1 write f =
    if !onePc (keyPa (rowKey l)) (rowSize n1) || !u.onePage (keyStack (rowKey l)) u.myPart (vaOf (s.rs sb)) (rowSize n1) then
      hobFault u u.cur 6
    else if l.any (fun x => u.mustWait u.cur x.1 x.2.2) then u.stalled i
    else f u (hobKey (s.cur - 13824) (s.rs sl).toNat) l := by
  rw [rowAccess_good good, walk]
  exact if_neg (by simpa [rowMine, rowKey] using mine)
theorem rowAccess_leaves (split : ¬rowWhole u (s.rs sb) (rowSize n1) l) : rowAccess s i sl sb n1 write f = hobFault u u.cur 6 :=
  (rowAccess_mine good walk mine).trans (if_pos (by simpa [rowWhole, imp_iff_not_or] using split))
variable (whole : rowWhole u (s.rs sb) (rowSize n1) l)
include whole
theorem rowAccess_waits (waits : l.any (fun x => u.mustWait u.cur x.1 x.2.2) = true) : rowAccess s i sl sb n1 write f =
    u.stalled i :=
  (rowAccess_mine good walk mine).trans ((if_neg (by simpa [rowWhole] using whole)).trans (if_pos waits))
theorem rowAccess_goes (free : l.any (fun x => u.mustWait u.cur x.1 x.2.2) = false) :
    rowAccess s i sl sb n1 write f = f u (hobKey (s.cur - 13824) (s.rs sl).toNat) l :=
  (rowAccess_mine good walk mine).trans ((if_neg (by simpa [rowWhole] using whole)).trans (if_neg (Bool.eq_false_iff.1 free)))

end

/-- Reads that are noted for a hart that does not change. -/
theorem noteReads_cur (l : List (Nat × Nat × Nat)) (u v : State) (same : v.cur = u.cur) :
    l.foldl (fun (s : State) x => s.noteRead s.cur x.1 x.2.2) v = l.foldl (fun (s : State) x => s.noteRead u.cur x.1 x.2.2) v := by
  induction l generalizing v with
  | nil => rfl
  | cons x r ih =>
    rw [List.foldl_cons, List.foldl_cons, same]
    exact ih _ same

/-- What the three forms do once their row is there. -/
def rowldWith (u : State) (d : Nat) (l : List (Nat × Nat × Nat)) : Result :=
  ((l.foldl (fun (s : State) x => s.noteRead s.cur x.1 x.2.2) u).weakStore u.cur d (rowBytesAt u l)).done
def rowstWith (n1 : BitVec 7) (u : State) (d : Nat) (l : List (Nat × Nat × Nat)) : Result :=
  (l.foldl (fun (s : State) x => s.weakStore s.cur x.1 (((u.ownBytes u.cur d (rowSize n1)).drop x.2.1).take x.2.2)) u).done
/-- One element of ROWADD, and all of a row. -/
def rowaddOne (op size : Nat) (b : List Byte) (s : State) (k o : Nat) : State :=
  s.writeAt s.cur k (leBytes size (addElem op (s.readAt k size) (leNat ((b.drop o).take size))))
def rowaddAll (op size : Nat) (b : List Byte) (l : List (Nat × Nat × Nat)) (u : State) : State :=
  l.foldl (fun s x => (List.range (x.2.2 / size)).foldl (fun s e => rowaddOne op size b s (x.1 + e * size) (x.2.1 + e * size)) s) u
def rowOp (ty : Ty) : Nat := if ty.toNat = 1 then 0 else if ty.toNat = 2 then 1 else 2
def rowaddWith (ty : Ty) (n1 : BitVec 7) (u : State) (d : Nat) (l : List (Nat × Nat × Nat)) : Result :=
  withChunkEnd u fun e => (rowaddAll (rowOp ty) (addSize (rowOp ty)) (e.ownBytes e.cur d (rowSize n1)) l e).doneStrong

section
variable {s : State} {sl sb : Reg} {ty : Ty} {n1 : BitVec 7}
theorem exec_rowld : exec (.rowld sl sb n1) s = rowAccess s (.rowld sl sb n1) sl sb n1 false rowldWith := rfl
theorem exec_rowst : exec (.rowst sl sb n1) s = rowAccess s (.rowst sl sb n1) sl sb n1 true (rowstWith n1) := rfl
theorem exec_rowadd : exec (.rowadd sl sb ty n1) s = rowAccess s (.rowadd sl sb ty n1) sl sb n1 true (rowaddWith ty n1) := rfl

end
theorem rowldWith_eq (u : State) (d : Nat) (l : List (Nat × Nat × Nat)) : rowldWith u d l =
    .next ((l.foldl (fun (s : State) x => s.noteRead u.cur x.1 x.2.2) u).weakStore u.cur d (rowBytesAt u l)).past := by
  rw [rowldWith, noteReads_cur l u u rfl]
  rfl
theorem rowaddWith_eq {u : State} (ends : u.mayEnd = true) (ty : Ty) (n1 : BitVec 7) (d : Nat) (l : List (Nat × Nat × Nat)) :
    rowaddWith ty n1 u d l =
      .next (rowaddAll (rowOp ty) (addSize (rowOp ty)) (u.ended.ownBytes u.cur d (rowSize n1)) l u.ended).pastStrong := by
  rw [← State.cur_ended u]
  exact withChunkEnd_mayEnd u _ ends

/-- A row of elements added one after another: each is the sum of what stood there, and nothing else changes. -/
theorem rowadd_elements (op : Nat) {size : Nat} (pos : 0 < size) (b : List Byte) (k : Nat) (s : State) (m : Nat)
    (plain : ∀ j, j < size * m → plainKey (k + j) = true) :
    let t := (List.range m).foldl (fun s e => rowaddOne op size b s (k + e * size) (0 + e * size)) s
    (∀ e, e < m → t.readAt (k + size * e) size =
      addElem op (s.readAt (k + size * e) size) (leNat ((b.drop (size * e)).take size)) % 2 ^ (8 * size)) ∧
    ∀ a, plainKey a = true → a < k ∨ k + size * m ≤ a → t.byteAt a = s.byteAt a := by
  induction m with
  | zero => exact ⟨fun e he => absurd he (Nat.not_lt_zero e), fun a _ _ => rfl⟩
  | succ m ih =>
    obtain ⟨sums, rest⟩ := ih fun j hj => plain j (hj.trans_le (Nat.mul_le_mul_left size (Nat.le_succ m)))
    rw [List.range_succ, List.foldl_append, List.foldl_cons, List.foldl_nil]
    generalize (List.range m).foldl (fun s e => rowaddOne op size b s (k + e * size) (0 + e * size)) s = t at sums rest ⊢
    rw [Nat.zero_add, Nat.mul_comm m size, rowaddOne]
    have next : size * (m + 1) = size * m + size := Nat.mul_succ size m
    have here (j : Nat) (hj : j < size) : plainKey (k + size * m + j) = true := by
      rw [Nat.add_assoc]; exact plain _ (by omega)
    have before : t.readAt (k + size * m) size = s.readAt (k + size * m) size :=
      congrArg leNat (List.map_congr_left fun j hj => rest _ (here j (List.mem_range.1 hj)) (by omega))
    refine ⟨fun e he => ?_, fun a ha out => ?_⟩
    · by_cases last : e = m
      · rw [last, State.readAt_writeAt_plain _ _ here pos, before]
      · have early : size * e + size ≤ size * m := Nat.mul_succ size e ▸ Nat.mul_le_mul_left size (by omega)
        rw [← sums e (by omega)]
        refine congrArg leNat (List.map_congr_left fun j hj => ?_)
        have inside := List.mem_range.1 hj
        exact State.byteAt_writeAt_outside t _ (k := k + size * m) (here 0 pos)
            (by rw [Nat.add_assoc]; exact plain _ (by omega))
          (.inl (by omega))
    · rw [State.byteAt_writeAt_outside t _ (k := k + size * m) (here 0 pos) ha (by rw [length_leBytes]; omega)]
      exact rest a ha (by omega)

/-- The three forms access their row alike. -/
theorem row_access {s : State} {i : Instr} {write : Bool} {sl sb : Reg} {ty : Ty} {n1 : BitVec 7}
    (mem : (i, write) ∈ [(Instr.rowld sl sb n1, false), (.rowst sl sb n1, true), (.rowadd sl sb ty n1, true)]) :
    ∃ f, exec i s = rowAccess s i sl sb n1 write f ∧ (i = .rowld sl sb n1 → f = rowldWith) ∧ (i = .rowst sl sb n1 → f = rowstWith n1) ∧
      (i = .rowadd sl sb ty n1 → f = rowaddWith ty n1) := by
  simp only [List.mem_cons, List.not_mem_nil, or_false, Prod.mk.injEq] at mem
  rcases mem with ⟨rfl, rfl⟩ | ⟨rfl, rfl⟩ | ⟨rfl, rfl⟩
  · exact ⟨_, exec_rowld, fun _ => rfl, nofun, nofun⟩
  · exact ⟨_, exec_rowst, nofun, fun _ => rfl, nofun⟩
  · exact ⟨_, exec_rowadd, nofun, nofun, fun _ => rfl⟩
theorem addSize_divides (op : Nat) (n1 : BitVec 7) : 0 < addSize op ∧ addSize op * (rowSize n1 / addSize op) = rowSize n1 := by
  unfold addSize rowSize
  split <;> omega

end Sys2Proof.Machine
end

section
open Sys2Proof Sys2Proof.Machine

/-- Settles O48: HOVL and the loading of overlays, the start and the end of a hob command, and its row instructions. -/
theorem hobUnits : Obligations.HobUnits := by
  unfold Obligations.HobUnits
  refine ⟨fun rd sh si s c => ?_, fun sl sb ty n1 s => ?_⟩
  · intro w img sk pc bad other unit
    refine ⟨fun wrong ends => hovl_answers (hovlCode_bad wrong) (by decide) ends,
      fun good foreign ends => hovl_answers (hovlCode_other good foreign) (by decide) ends,
      fun good own full => hovl_full (hovlCode_own good own) full, fun good own room ends => ?_, fun free next load k u walk =>
          ?_,
      fun free next runs on => ?_, fun free next runs off => ?_, fun busy spent => ?_, fun real x cmd spent ends free => ?_⟩
    · refine ⟨_, _, hovl_queued (hovlCode_own good own) room ends, ?_, ?_, hq_pushCommand .., rfl, rfl, rfl, rfl⟩
      · exact congrArg Thread.wait (hovlQueued_me ..)
      · exact (congrArg Thread.regs (hovlQueued_me ..) :)
    · obtain ⟨t, goes, overlay, answer⟩ := hovlLoad_spec free next load walk
      refine ⟨t, goes, overlay, fun waits path gang rep => ?_⟩
      obtain ⟨pc', regs⟩ := answer waits path gang rep
      rw [regs]
    · have goes := (exec_hobCommandRun free next runs).trans (if_neg (by rw [on]; nofun))
      refine ⟨_, goes, ?_⟩
      rw [startedCmd_thread, startedCmd_hob]
      exact ⟨rfl, cmdRegs_pc, rfl, rfl, rfl, rfl, fun i hi => regs_filled _ _ (by decide) hi⟩
    · exact ⟨_, (exec_hobCommandRun free next runs).trans (if_pos (by rw [off]; rfl)), rfl, Tab.get_set_self _ _ _ _⟩
    · obtain ⟨x, cmd⟩ := Option.ne_none_iff_exists'.1 busy
      exact exec_hobBudgetExhausted cmd spent
    · refine ⟨_, (exec_hobBudgetExhausted cmd spent).trans (hobFault_ends ends free 7), rfl, ?_⟩
      exact endHob_ends ((cmd_drained ..).trans cmd) 3 7 _
  · intro off w n unit d bad op size
    refine ⟨fun wrong i mem => ?_, fun good i write mem => ?_⟩
    · simp only [List.mem_cons, List.not_mem_nil, or_false] at mem
      rcases mem with rfl | rfl | rfl
      · exact exec_rowld.trans (rowAccess_bad wrong)
      · exact exec_rowst.trans (rowAccess_bad wrong)
      · exact exec_rowadd.trans (rowAccess_bad wrong)
    · obtain ⟨f, access, ld, st, add⟩ := row_access (s := s) mem
      refine ⟨fun u walk => access.trans (rowAccess_held good walk rfl), fun e u page walk => access.trans (rowAccess_refused
          good walk page),
        fun e u held outside readonly walk => access.trans (rowAccess_absent good walk held outside readonly), fun l u walk =>
            ?_⟩
      intro k mine whole own b
      refine ⟨fun foreign => access.trans (rowAccess_foreign good walk foreign), fun isMine split => access.trans
        (rowAccess_leaves good walk isMine split), fun isOwn waits => access.trans (rowAccess_waits good walk isOwn.1 isOwn.2 waits),
        fun isOwn free => ?_⟩
      have goes := access.trans (rowAccess_goes good walk isOwn.1 isOwn.2 free)
      refine ⟨fun h => ?_, fun h => ?_, fun h ends => ?_⟩
      · rw [ld h] at goes
        exact goes.trans (rowldWith_eq ..)
      · rw [st h] at goes
        exact goes
      · intro b one
        rw [add h] at goes
        have added := goes.trans (rowaddWith_eq ends ty n1 _ l)
        refine ⟨added, fun k₁ single plain => ⟨_, added, ?_⟩⟩
        obtain ⟨pos, whole'⟩ := addSize_divides op n1
        rw [single]
        have elements := rowadd_elements op pos b k₁ u.ended (rowSize n1 / addSize op) fun j hj => plain j (hj.trans_eq whole')
        rw [whole'] at elements
        exact elements

end

section
/-! SUPPORT. Jobs of stokers (R287 to R310, R336): how they are taken, go on, end, park, move pages and move on. -/

namespace Sys2Proof.Machine

/-! ### What accesses leave as it is -/

/-- What no access changes while it is performed: cores with their channels, jobs, tasks, queues and the controller. -/
def State.lasting (s : State) : State := { s.beyond with net := [], gangs := [], fresh := 0 }

theorem lasting_of_beyond {s t : State} (same : t.beyond = s.beyond) : t.lasting = s.lasting := by
  unfold State.lasting
  rw [same]
theorem lasting_ite {s t u : State} {p : Prop} {_ : Decidable p} (ht : t.lasting = s.lasting) (hu : u.lasting = s.lasting) :
    (if p then t else u).lasting = s.lasting := by
  split
  · exact ht
  · exact hu
theorem lasting_foldl {α : Type} (f : State → α → State) (each : ∀ s a, (f s a).lasting = s.lasting) (l : List α) (s : State) :
    (l.foldl f s).lasting = s.lasting := foldl_keeps _ State.lasting _ _ fun _ _ => each ..
theorem cores_of_lasting {s t : State} (same : t.lasting = s.lasting) : t.cores = s.cores := (congrArg State.cores same :)
theorem jobs_of_lasting {s t : State} (same : t.lasting = s.lasting) : t.jobs = s.jobs := (congrArg State.jobs same :)

theorem lasting_writeAt (s : State) (h : Hart) (k : Nat) (b : List Byte) : (s.writeAt h k b).lasting = s.lasting :=
  lasting_of_beyond (State.beyond_writeAt ..)
theorem lasting_noteWindow (s : State) (h : Hart) (moved : Nat → Bool) : (s.noteWindow h moved).lasting = s.lasting :=
  lasting_ite rfl rfl
theorem lasting_endRedo (s : State) (h : Hart) : (s.endRedo h).lasting = s.lasting := by
  unfold State.endRedo
  split
  · split <;> rfl
  · rfl
theorem lasting_boundary (s : State) (h : Hart) : (s.boundary h).lasting = s.lasting :=
  (lasting_noteWindow ..).trans (lasting_endRedo ..)
theorem lasting_leadTo (s : State) (h : Hart) (g : Nat) (x : Gang) (pc : Word) : (s.leadTo h g x pc).lasting = s.lasting := by
  unfold State.leadTo
  dsimp only
  have sent := lasting_foldl (fun (s : State) (m : Hart) => s.setThread m ((s.thread m).sendTo pc)) (fun _ _ => rfl)
    ((x.members.drop 1).filter fun m => m != h && !x.todo.contains m) s
  exact lasting_ite sent rfl
theorem lasting_goto (s : State) (h : Hart) (pc : Word) : (s.goto h pc).lasting = s.lasting := by
  unfold State.goto
  dsimp only
  have ticked : (if kindOf h = .hob then s.hobTick h else s).lasting = s.lasting := lasting_ite rfl rfl
  rw [← ticked]
  generalize (if kindOf h = .hob then s.hobTick h else s) = u
  split
  · rfl
  · split
    · rfl
    · split
      · rfl
      · exact lasting_ite (lasting_leadTo ..) rfl
theorem lasting_advance (s : State) (h : Hart) : (s.advance h).lasting = s.lasting := by
  unfold State.advance
  dsimp only
  split
  · exact lasting_goto ..
  · split
    · exact lasting_goto ..
    · split
      · exact lasting_goto ..
      · exact lasting_goto ..
theorem lasting_returnValue (s : State) (h : Hart) (id : Nat) (rd : Reg) (w : Word) : (returnValue s h id rd w).lasting =
    s.lasting :=
  lasting_ite ((lasting_boundary ..).trans (lasting_advance ..)) rfl
theorem lasting_setTileEl (s : State) (cl t : Nat) (pair : Bool) (i j v : Nat) : (s.setTileEl cl t pair i j v).lasting =
    s.lasting := by
  unfold State.setTileEl
  split <;> rfl
theorem lasting_notifyUp (s : State) (cl i : Nat) : (notifyUp s cl i).lasting = s.lasting := rfl
theorem lasting_setCluster (s : State) (c : Nat) (x : Cluster) : (s.setCluster c x).lasting = s.lasting := rfl
theorem lasting_noteLines (s : State) (a : Nat) (l : List Nat) (h : Hart) : (s.noteLines a l h).lasting = s.lasting := rfl
theorem lasting_addAddend (s : State) (cl : Nat) (a : Addend) : (addAddend s cl a).lasting = s.lasting := by
  unfold addAddend
  extract_lets m width f w new vals t u bad left v
  have stored : t.lasting = s.lasting := lasting_ite rfl (lasting_foldl _ (fun _ _ => lasting_setTileEl ..) _ _)
  have noted : u.lasting = s.lasting := (lasting_noteLines ..).trans stored
  have counted : v.lasting = s.lasting := (lasting_setCluster ..).trans noted
  exact lasting_ite rfl (lasting_ite (lasting_ite ((lasting_notifyUp ..).trans counted) counted)
    ((lasting_setCluster ..).trans noted))
theorem lasting_arriveAddend (s : State) (cl : Nat) (a : Addend) : (arriveAddend s cl a).lasting = s.lasting := by
  have applied (u : State) (a : Addend) : (applyAddend u cl a).lasting = u.lasting := by
    unfold applyAddend
    split
    · exact lasting_addAddend ..
    · exact lasting_addAddend ..
  unfold arriveAddend
  extract_lets c m b u
  have refused : u.lasting = s.lasting := lasting_ite rfl rfl
  exact lasting_ite refused ((applied ..).trans refused)
theorem lasting_reduceStep (s : State) (h : Hart) (kind k : Nat) (tag : BitVec 16) (ci : Option (BitVec 8)) (lines : List Vec)
    : (reduceStep s h kind k tag ci lines).1.lasting = s.lasting := by
  have fin {t : State} (rest : List Vec) (st : t.lasting = s.lasting) : (if rest.isEmpty then (match ci with
      | some i => notifyUp t (oaCl k) i.toNat
      | none => t) else t).lasting = s.lasting := by
    refine lasting_ite ?_ st
    split <;> exact st
  unfold reduceStep
  dsimp only
  split
  · exact fin _ (lasting_writeAt ..)
  · exact fin _ (lasting_writeAt ..)
  · split <;> exact lasting_arriveAddend ..
theorem lasting_reduceAt (s : State) (h : Hart) (kind k : Nat) (tag : BitVec 16) (ci : Option (BitVec 8)) (lines : List Vec)
    (n : Nat) : (reduceAt s h kind k tag ci lines n).lasting = s.lasting := by
  induction n generalizing s k lines with
  | zero => rfl
  | succ n ih => exact lasting_ite rfl ((ih ..).trans (lasting_reduceStep ..))
theorem lasting_performItem (s : State) (m : Msg) : (performItem s m).lasting = s.lasting := by
  unfold performItem
  split
  · exact lasting_writeAt ..
  · extract_lets old u v
    have written : v.lasting = s.lasting := by
      unfold v
      split
      · exact lasting_writeAt ..
      · rfl
    split
    · exact (lasting_returnValue ..).trans written
    · exact written
  · extract_lets u cl i v
    have written : v.lasting = s.lasting := by
      unfold v
      split
      · exact lasting_writeAt ..
      · rfl
    exact lasting_ite rfl ((lasting_of_beyond (beyond_countUp ..)).trans written)
  · exact (lasting_writeAt ..).trans (lasting_foldl _ (fun _ _ => lasting_writeAt ..) _ _)
  · exact lasting_reduceAt ..
  · rfl
  · rfl
  · rfl
  · rfl
  · rfl
theorem lasting_drain (s : State) (h : Hart) : (s.drain h).lasting = s.lasting :=
  lasting_foldl _ (fun _ _ => lasting_ite (lasting_performItem ..) rfl) _ _
theorem lasting_landPending (s : State) (h : Hart) : (landPending s h).lasting = s.lasting := by
  unfold landPending
  dsimp only
  split
  · rfl
  · exact lasting_ite (lasting_noteWindow ..) (lasting_noteWindow ..)
theorem lasting_landAll (s : State) (h : Hart) : (landAll s h).lasting = s.lasting :=
  lasting_foldl _ (fun _ _ => lasting_landPending ..) _ _
theorem lasting_putRecord (s : State) (h : Hart) (c : Cont) (off : Nat) (b : List Byte) : (putRecord s h c off b).lasting =
    s.lasting :=
  (bytesOnly_putRecord h s c off b).keeps State.lasting fun _ _ _ _ => rfl
theorem lasting_leaderTraps (s : State) (h : Hart) (code : Nat) : (s.leaderTraps h code).lasting = s.lasting := by
  unfold State.leaderTraps
  split
  · exact lasting_ite rfl rfl
  · rfl
theorem lasting_park (s : State) (h : Hart) (i : TrapInfo) : (park s h i).lasting = s.lasting := by
  unfold park
  extract_lets u t v w x y r z
  have landed : u.lasting = s.lasting := (lasting_landAll ..).trans (lasting_drain ..)
  have wrote : w.lasting = u.lasting := (lasting_putRecord ..).trans (lasting_putRecord ..)
  have queued : x.lasting = w.lasting := rfl
  exact (lasting_noteWindow ..).trans ((lasting_leaderTraps ..).trans (queued.trans (wrote.trans landed)))

/-! ### A request is taken -/

theorem readRecord_sameButTlb (s : State) (p : Nat) (rcd : Word) : sameButTlb s (readRecord s p rcd).2 := by
  unfold readRecord
  dsimp only
  exact State.readVA_sameButTlb ..
theorem freeRecords_sameButTlb (s : State) (p n i fuel : Nat) : sameButTlb s (freeRecords s p n i fuel).2 := by
  induction fuel generalizing s n i with
  | zero => exact sameButTlb_refl s
  | succ fuel ih =>
    unfold freeRecords
    split
    · exact sameButTlb_refl s
    · next m =>
      dsimp only
      split
      · exact sameButTlb_trans (readRecord_sameButTlb ..) (ih ..)
      · exact sameButTlb_trans (readRecord_sameButTlb ..) (ih ..)
theorem takeRecords_sameButTlb (s : State) (p n : Nat) : sameButTlb s (takeRecords s p n).2 := by
  unfold takeRecords
  split
  · exact sameButTlb_refl s
  · exact freeRecords_sameButTlb ..

/-- The continuation of a job whose request stands in channel `c`, with the record it got. -/
def jobCont (c : Chan) (rcd : Word) (kind : Nat) : Cont :=
  { c.issuer with
    rcd := rcd, savearea := 0, argblk := if kind = 6 then c.w2 else 0, levels := 0, launchblk := 0, boundver := 0, lin := 0 }
/-- The state in which the record of a job taken is written. -/
def jobWritten (s : State) (h : Hart) (cont : Cont) : State :=
  putRecord { s with fresh := s.fresh + 1 } h cont 0 (vecBytes (recordVec cont (microcodePc s.fresh) 255 2) 0 64)
/-- The state in which the request has left the FIFO of its core and its channel is active. -/
def requestLeft (s : State) (h : Hart) (core ch : Nat) (c : Chan) : State :=
  let sk := hartSk h
  let s := s.setCore core { s.core core with fifo := (s.core core).fifo.drop 1 }
  let s := s.setChan core ch { c with st := .active }
  let x := s.stack (sk / 12)
  s.setStack (sk / 12) { x with taken := Tab.set 0 x.taken (sk % 12) ((core - stokerCore sk 0 + 1) % 64) }
theorem requestLeft_spec (s : State) (h : Hart) (core ch : Nat) (c : Chan) :
    ((requestLeft s h core ch c).chan core ch).st = .active ∧ (requestLeft s h core ch c).cur = s.cur :=
  ⟨congrArg Chan.st (State.chan_setChan_self (s.setCore core { s.core core with fifo := (s.core core).fifo.drop 1 }) core ch
    { c with st := .active }), rfl⟩
/-- What taking the request of channel `ch` of core `core` leaves beside the record. -/
def jobPlaced (s : State) (h : Hart) (core ch : Nat) (c : Chan) (cont : Cont) (pc : Word) : State :=
  let r : Regs := { pc := pc }
  ((requestLeft s h core ch c).setJob h (some (Job.make core ch c cont))).setThread h
    { run := .running, regs := r, chunk := { begun := r }, cont := cont }
theorem jobPlaced_spec (s : State) (h : Hart) (core ch : Nat) (c : Chan) (cont : Cont) (pc : Word) :
    (jobPlaced s h core ch c cont pc).job h = some (Job.make core ch c cont) ∧
      ((jobPlaced s h core ch c cont pc).chan core ch).st = .active ∧
      ((jobPlaced s h core ch c cont pc).thread h).run = .running ∧ (jobPlaced s h core ch c cont pc).cur = s.cur := by
  obtain ⟨active, cur⟩ := requestLeft_spec s h core ch c
  refine ⟨State.job_setJob_self (requestLeft s h core ch c) h (some (Job.make core ch c cont)), active, ?_, cur⟩
  rw [jobPlaced, State.thread_setThread_self]

/-- A request is taken, or nothing but cached translations has changed. -/
theorem takeJob_cases (s : State) (h : Hart) (kind : Nat) (tdst : Bool) :
    (∃ core ch rcd u, sameButTlb s u ∧ w0Kind (s.chan core ch).w0 = kind ∧
      takeJob s h kind tdst = jobPlaced (jobWritten u h (jobCont (s.chan core ch) rcd kind)) h core ch (s.chan core ch)
        (jobCont (s.chan core ch) rcd kind) (microcodePc u.fresh)) ∨ sameButTlb s (takeJob s h kind tdst) := by
  unfold takeJob
  dsimp only
  split
  · exact .inr (sameButTlb_refl s)
  · next core ch _ =>
    have records := takeRecords_sameButTlb s (s.chan core ch).issuer.part 1
    split
    · exact .inr (sameButTlb_refl s)
    · next same =>
      simp only [ne_eq, Bool.or_eq_true, decide_eq_true_eq, not_or, Decidable.not_not] at same
      split
      · next rcd u e =>
        rw [e] at records
        exact .inl ⟨core, ch, rcd, u, records, same.1, rfl⟩
      · next e =>
        rw [e] at records
        exact .inr records

/-- A request that was taken: its kind, its channel, its hart. -/
theorem takeJob_took {s : State} {h : Hart} {kind : Nat} {tdst : Bool} {j : Job} (free : s.job h = none)
    (took : (takeJob s h kind tdst).job h = some j) : j.kind = kind ∧
      ((takeJob s h kind tdst).chan j.core j.ch).st = .active ∧ ((takeJob s h kind tdst).thread h).run = .running ∧
      (takeJob s h kind tdst).cur = s.cur := by
  obtain ⟨core, ch, rcd, u, same, isKind, placed⟩ | none := takeJob_cases s h kind tdst
  · obtain ⟨job, active, run, cur⟩ := jobPlaced_spec (jobWritten u h (jobCont (s.chan core ch) rcd kind)) h core ch
      (s.chan core ch) (jobCont (s.chan core ch) rcd kind) (microcodePc u.fresh)
    rw [placed] at took ⊢
    cases job.symm.trans took
    exact ⟨isKind, active, run, cur.trans ((bytesOnly_putRecord ..).cur.trans same.cur)⟩
  · have kept := none.keeps (fun s => s.job h) fun _ _ => rfl
    cases (kept.trans free).symm.trans took

section
variable {s : State} {kind : Nat} {tdst : Bool}

theorem jobEvent_takes {j : Job} (free : s.job s.cur = none) (stoker : kindOf s.cur = .stoker)
    (idle : (s.thread s.cur).run = .idle) (took : (takeJob s s.cur kind tdst).job s.cur = some j) :
    jobEvent s kind tdst = .next ((setupJob (takeJob s s.cur kind tdst) j).1.setJob s.cur
      (some (setupJob (takeJob s s.cur kind tdst) j).2)) := by
  unfold jobEvent
  dsimp only
  rw [free, stoker, idle]
  dsimp only
  rw [if_pos (by rfl), took]
theorem jobEvent_goes {j : Job} (job : s.job s.cur = some j) (isKind : j.kind = kind) (way : w0Tdst j.w0 = tdst)
    (moving : j.st = .moving) : jobEvent s kind tdst = .next ((goJob s j (s.arg + 1)).1.setJob s.cur
      (some (goJob s j (s.arg + 1)).2)) := by
  unfold jobEvent
  dsimp only
  rw [job]
  dsimp only
  rw [if_pos (by simp [isKind, way, moving])]

end

/-- The copies between memories: event, kind, and whether the tensor is the destination. -/
def copyEvents : List (Instr × Nat × Bool) :=
  [(Instr.copy, 0, false), (.copyToTensor, 0, true), (.gather, 1, false), (.scatter, 2, false)]
theorem exec_copyEvents {p : Instr × Nat × Bool} (event : p ∈ copyEvents) (s : State) : exec p.1 s = jobEvent s p.2.1 p.2.2 ∧
    p.2.1 < 3 := by
  simp only [copyEvents, List.mem_cons, List.not_mem_nil, or_false] at event
  obtain rfl | rfl | rfl | rfl := event
  · exact ⟨rfl, by decide⟩
  · exact ⟨rfl, by decide⟩
  · exact ⟨rfl, by decide⟩
  · exact ⟨rfl, by decide⟩
/-- The other jobs that take a request by themselves. -/
def pageEvents : List (Instr × Nat) := [(Instr.reduce, 3), (.migrate, 4), (.shoot, 5)]
theorem exec_pageEvents {p : Instr × Nat} (event : p ∈ pageEvents) (s : State) : exec p.1 s = jobEvent s p.2 false := by
  simp only [pageEvents, List.mem_cons, List.not_mem_nil, or_false] at event
  obtain rfl | rfl | rfl := event
  · rfl
  · rfl
  · rfl
theorem setupJob_copy {j : Job} (low : j.kind < 3) (s : State) : setupJob s j = setupCopy s j := by
  unfold setupJob
  split
  · omega
  · omega
  · omega
  · rfl
theorem goJob_copy {j : Job} {l : Layout} (low : j.kind < 3) (layout : j.layout = some l) (s : State) (n : Nat) :
    goJob s j n = moveElements s j l n := by
  have go : goJob s j n = copyGo s j n := by
    unfold goJob
    split
    · omega
    · omega
    · omega
    · omega
    · rfl
  rw [go, copyGo, layout]
theorem moveElements_done {s : State} {j : Job} {l : Layout} (all : l.total ≤ j.pos) (n : Nat) :
    moveElements s j l (n + 1) = (s, { j with st := .done 1 0 0 }) := if_pos all
theorem moveElements_one {s u v : State} {j j₁ : Job} {l : Layout} (more : j.pos < l.total)
    (index : readIndex s j l = (.ok j₁, u)) (moved : moveElement u j₁ l = (.ok (), v)) :
    moveElements s j l 1 = (onChan v { j₁ with pos := j₁.pos + 1 } (({ j₁ with pos := j₁.pos + 1 } : Job).marks l
      (j₁.pos + 1)), { j₁ with pos := j₁.pos + 1 }) := by
  rw [moveElements, if_neg (by omega), index]
  dsimp only
  rw [moved]
  rfl

/-! ### A job ends -/

/-- A write beyond the addresses on chip leaves every other plain byte. -/
theorem writeAt_high_outside (s : State) (h : Hart) {k a : Nat} (high : 2 ^ 40 ≤ k) (b : List Byte) (plain : plainKey a = true)
    (outside : a < k ∨ k + b.length ≤ a) : (s.writeAt h k b).byteAt a = s.byteAt a := by
  by_cases hob : isHobKey k = true
  · refine State.byteAt_congr_plain ?_ plain
    unfold State.writeAt
    dsimp only
    rw [if_pos hob]
    rfl
  · have key : isStackKey k = true := by
      simp only [isHobKey, decide_eq_true_eq] at hob
      simp only [isStackKey, Bool.and_eq_true, decide_eq_true_eq]
      omega
    have isPlain : plainKey k = true := by rw [plainKey, key]; rfl
    exact State.byteAt_writeAt_outside s h isPlain plain outside
/-- What is written by virtual address leaves the memories on chip. -/
theorem writeVA_low (s : State) (h : Hart) (p acc va : Nat) (b : List Byte) {a : Nat} (plain : plainKey a = true)
    (low : a < 2 ^ 40) : (s.writeVA h p acc va b).2.byteAt a = s.byteAt a := by
  have walked := s.xlateRange_sameButTlb p acc va b.length true true
  have writes (l : List (Nat × Nat × Nat)) (u : State) (keys : ∀ x ∈ l, 2 ^ 40 ≤ x.1) :
      (l.foldl (fun s x => s.writeAt h x.1 ((b.drop x.2.1).take x.2.2)) u).byteAt a = u.byteAt a := by
    induction l generalizing u with
    | nil => rfl
    | cons x r ih =>
      exact (ih _ fun y hy => keys y (List.mem_cons_of_mem _ hy)).trans (writeAt_high_outside u h
        (keys x List.mem_cons_self) _ plain (.inl (Nat.lt_of_lt_of_le low (keys x List.mem_cons_self))))
  unfold State.writeVA
  split
  · next l u e =>
    rw [e] at walked
    exact (writes l u (State.xlateRange_keys e)).trans (State.byteAt_congr_plain walked.mem plain)
  · next e =>
    rw [e] at walked
    exact State.byteAt_congr_plain walked.mem plain
theorem putRecord_low (s : State) (h : Hart) (c : Cont) (off : Nat) (b : List Byte) {a : Nat} (plain : plainKey a = true)
    (low : a < 2 ^ 40) : (putRecord s h c off b).byteAt a = s.byteAt a := writeVA_low s h c.part 0 (vaOf c.rcd + off) b plain low

/-- A channel whose job ends or faults. -/
def Chan.endedBy (c : Chan) (st : ChanSt) (stop fcode : Nat) (fva : Word) : Chan :=
  { c with
    st := st, lastend := BitVec.ofNat 8 stop, fcode := BitVec.ofNat 8 fcode, fva := fva
    guard := if st = .faulted then c.guard else none }

section
variable (s : State) (h : Hart) (j : Job) (stop fcode : Nat) (fva : Word)

/-- The first word of the mailbox record that an end writes, and the bytes behind it. -/
def Job.mailFirst : Nat := stop + 256 * fcode + j.seq.toNat * 2 ^ 16 + j.invalid.toNat * 2 ^ 32
def Job.mailRest : List Byte := leBytes 8 fva.toNat ++ (j.ivec.map (leBytes 2)).flatten ++ leBytes 4 0
/-- The state in which the mailbox record of an end is written. -/
def mailed : State :=
  if w0Mben j.w0 then
    putMailbox s h j.cont.part j.cont.acc (some (w0Mbox j.w0)) (j.mailFirst stop fcode) (j.mailRest fva)
  else s
/-- The state in which the counter of an end is raised as well. -/
def notified : State :=
  if stop = 1 && w0Notify j.w0 then notifyUp (mailed s h j stop fcode fva) (j.core / 8) (w0Ci j.w0)
  else mailed s h j stop fcode fva
theorem chanEnd_leaves (st : ChanSt) : (chanEnd s h j stop fcode fva st).mem = (mailed s h j stop fcode fva).mem ∧
    (chanEnd s h j stop fcode fva st).clusters = (notified s h j stop fcode fva).clusters := by
  unfold chanEnd
  extract_lets first rest u v
  have same : v = notified s h j stop fcode fva := rfl
  have mem : v.mem = u.mem := by
    unfold v
    split <;> rfl
  have whole : u = mailed s h j stop fcode fva := rfl
  rw [← whole, ← same]
  split
  · exact ⟨mem, rfl⟩
  · exact ⟨mem, rfl⟩

variable {s h j stop fcode fva}
theorem mailed_eq (enabled : w0Mben j.w0 = true) : mailed s h j stop fcode fva =
    (s.writeAt h ((w0Mbox j.w0).toNat + 8) (j.mailRest fva)).writeAt h ((w0Mbox j.w0).toNat + 0)
      (leBytes 8 (j.mailFirst stop fcode)) := by
  have oa : isOA (w0Mbox j.w0) = true := by
    rw [isOA, decide_eq_true_eq, w0Mbox, BitVec.toNat_ofNat]
    exact Nat.lt_of_le_of_lt (Nat.mod_le ..) (Nat.mod_lt _ (by norm_num))
  rw [mailed, if_pos enabled, putMailbox]
  dsimp only
  have some : (j.mailRest fva).isEmpty = false := by
    rw [List.isEmpty_eq_false_iff_exists_mem]
    exact ⟨_, List.mem_append_right _ (List.mem_cons_self (a := BitVec.ofNat 8 0))⟩
  have first : (leBytes 8 (j.mailFirst stop fcode)).isEmpty = false := by
    rw [List.isEmpty_eq_false_iff_exists_mem]
    exact ⟨_, List.mem_cons_self⟩
  rw [if_pos oa, if_pos oa, first, some, if_neg Bool.false_ne_true, if_neg Bool.false_ne_true]
theorem length_digits (l : List Nat) : ((l.map (leBytes 2)).flatten).length = 2 * l.length := by
  induction l with
  | nil => rfl
  | cons x r ih =>
    rw [List.map_cons, List.flatten_cons, List.length_append, ih, length_leBytes, List.length_cons]
    omega
/-- The mailbox record of an end, in plain memory. -/
theorem mailed_reads (enabled : w0Mben j.w0 = true) (six : j.ivec.length = 6)
    (plain : ∀ i, i < 32 → plainKey ((w0Mbox j.w0).toNat + i) = true) :
    (mailed s h j stop fcode fva).readAt (w0Mbox j.w0).toNat 8 = j.mailFirst stop fcode % 2 ^ 64 ∧
      (mailed s h j stop fcode fva).readAt ((w0Mbox j.w0).toNat + 8) 8 = fva.toNat ∧
      (mailed s h j stop fcode fva).bytesAt ((w0Mbox j.w0).toNat + 16) 12 = (j.ivec.map (leBytes 2)).flatten := by
  have digits : ((j.ivec.map (leBytes 2)).flatten).length = 12 := by rw [length_digits, six]
  have size : (j.mailRest fva).length = 24 := by
    rw [Job.mailRest, List.length_append, List.length_append, digits, length_leBytes, length_leBytes]
  rw [mailed_eq enabled]
  generalize (w0Mbox j.w0).toNat = m at plain ⊢
  have behind (i : Nat) (hi : i < 24) : plainKey (m + 8 + i) = true := by
    rw [Nat.add_assoc]
    exact plain _ (by omega)
  have split : j.mailRest fva = leBytes 8 fva.toNat ++ ((j.ivec.map (leBytes 2)).flatten ++ leBytes 4 0) := List.append_assoc ..
  refine ⟨State.readAt_writeAt_plain _ _ (fun i hi => plain i (by omega)) (Nat.succ_pos _), ?_, ?_⟩
  · rw [State.readAt_writeAt_outside _ _ (k := m + 0) (plain 0 (by omega)) (fun i hi => behind i (by omega))
      (.inr (by rw [length_leBytes])), split]
    have first := State.bytesAt_writeAt_mid s h (k := m + 8) [] (leBytes 8 fva.toNat)
      ((j.ivec.map (leBytes 2)).flatten ++ leBytes 4 0) (fun i hi => behind i (by rw [split] at size; simpa [size] using hi))
      (by rw [length_leBytes]; omega)
    rw [length_leBytes] at first
    exact (congrArg leNat first).trans ((leNat_leBytes ..).trans (Nat.mod_eq_of_lt fva.isLt))
  · have kept (u : State) : (u.writeAt h (m + 0) (leBytes 8 (j.mailFirst stop fcode))).bytesAt (m + 16) 12 =
        u.bytesAt (m + 16) 12 := List.map_congr_left fun i hi => by
      have lt := List.mem_range.1 hi
      exact State.byteAt_writeAt_outside (k := m + 0) _ _ (plain 0 (by omega)) (by rw [Nat.add_assoc]; exact plain _ (by omega))
        (.inr (by rw [length_leBytes]; omega))
    have mid := State.bytesAt_writeAt_mid s h (k := m + 8) (leBytes 8 fva.toNat) ((j.ivec.map (leBytes 2)).flatten)
      (leBytes 4 0) (fun i hi => behind i (by rw [split] at size; omega)) (by rw [digits]; omega)
    rw [length_leBytes, digits] at mid
    rw [kept, split]
    exact mid

/-- The mailbox record lies on chip. -/
theorem mailbox_low (plain : ∀ i, i < 32 → plainKey ((w0Mbox j.w0).toNat + i) = true) : (w0Mbox j.w0).toNat + 32 ≤ 2 ^ 40 := by
  have low : (w0Mbox j.w0).toNat < 2 ^ 40 := by
    rw [w0Mbox, BitVec.toNat_ofNat]
    exact Nat.lt_of_le_of_lt (Nat.mod_le ..) (Nat.mod_lt _ (by norm_num))
  by_contra high
  have last := plain (2 ^ 40 - 1 - (w0Mbox j.w0).toNat) (by omega)
  rw [show (w0Mbox j.w0).toNat + (2 ^ 40 - 1 - (w0Mbox j.w0).toNat) = 2 ^ 40 - 1 by omega] at last
  exact absurd last (by decide)

/-- What the end of a job writes to its mailbox stands there when it has ended. -/
theorem endJob_byteAt {a : Nat} (plain : plainKey a = true) (low : a < 2 ^ 40) :
    (endJob s h j stop fcode fva).byteAt a = (mailed s h j stop fcode fva).byteAt a := by
  have idle (u : State) : (u.goIdle h).byteAt a = u.byteAt a := State.byteAt_congr_plain (State.mem_goIdle ..) plain
  rw [endJob, idle]
  exact (putRecord_low (chanEnd s h j stop fcode fva .idle) h j.cont 39 [BitVec.ofNat 8 0] plain low).trans
    (State.byteAt_congr_plain (chanEnd_leaves ..).1 plain)
theorem counter_setToken (s : State) (a : Nat) (x : Option Hart) (c i : Nat) :
    ((s.setToken a x).cluster c).counter i = (s.cluster c).counter i := by
  unfold State.setToken
  split
  · exact sameCounters_setCluster s (x := { s.cluster a with token := x }) rfl c i
  · rfl
theorem counter_goIdle (s : State) (h : Hart) (c i : Nat) : ((s.goIdle h).cluster c).counter i = (s.cluster c).counter i := by
  have noted (u : State) : (u.noteWindow h fun _ => true).clusters = u.clusters := by
    unfold State.noteWindow
    split <;> rfl
  rw [State.goIdle, State.cluster, noted]
  unfold State.setThread State.dropToken
  dsimp only
  split
  · exact counter_setToken ..
  · rfl
theorem endJob_counter (c i : Nat) : ((endJob s h j stop fcode fva).cluster c).counter i =
    ((notified s h j stop fcode fva).cluster c).counter i := by
  have wrote := (bytesOnly_putRecord h (chanEnd s h j stop fcode fva .idle) j.cont 39 [BitVec.ofNat 8 0]).keeps State.clusters
    fun _ _ _ _ => rfl
  rw [endJob, counter_goIdle]
  change (Tab.get {} (putRecord (chanEnd s h j stop fcode fva .idle) h j.cont 39 [BitVec.ofNat 8 0]).clusters c).counter i = _
  rw [wrote, (chanEnd_leaves ..).2]
  rfl
/-- The counter of a job that ends, in plain memory or without a mailbox. -/
theorem notified_counter (plain : w0Mben j.w0 = true → ∀ i, i < 32 → plainKey ((w0Mbox j.w0).toNat + i) = true) :
    ((notified s h j stop fcode fva).cluster (j.core / 8)).counter (w0Ci j.w0) =
      if stop = 1 ∧ w0Notify j.w0 = true then (s.cluster (j.core / 8)).counter (w0Ci j.w0) + 1
      else (s.cluster (j.core / 8)).counter (w0Ci j.w0) := by
  have same : (mailed s h j stop fcode fva).clusters = s.clusters := by
    by_cases enabled : w0Mben j.w0 = true
    · have plain := plain enabled
      rw [mailed_eq enabled, State.writeAt_plain _ _ (k := (w0Mbox j.w0).toNat + 0) (plain 0 (by omega)),
        State.writeAt_plain _ _ (plain 8 (by omega))]
      rfl
    · rw [mailed, if_neg enabled]
  have count (c i : Nat) : ((mailed s h j stop fcode fva).cluster c).counter i = (s.cluster c).counter i := by
    rw [State.cluster, same]
    rfl
  rw [← count]
  unfold notified
  by_cases told : stop = 1 ∧ w0Notify j.w0 = true
  · rw [if_pos (by simp [told.1, told.2]), if_pos told, cluster_notifyUp]
    simp [Cluster.counter, Cluster.setCounter]
  · rw [if_neg (by simpa using told), if_neg told]
theorem endJob_leaves : (endJob s h j stop fcode fva).thread h = {} ∧ (endJob s h j stop fcode fva).job h = none := by
  refine ⟨State.thread_goIdle .., ?_⟩
  rw [endJob, State.job, State.jobs_goIdle]
  exact State.job_setJob_self (putStatus (chanEnd s h j stop fcode fva .idle) h j.cont 0) h none
theorem chanEnd_chan (owned : j.owned = true) (st : ChanSt) : (chanEnd s h j stop fcode fva st).chan j.core j.ch =
    (s.chan j.core j.ch).endedBy st stop fcode fva := by
  unfold chanEnd
  extract_lets first rest u v
  have cores : v.cores = s.cores := by
    have mail : u.cores = s.cores := by
      unfold u
      split
      · exact State.cores_putMailbox ..
      · rfl
    unfold v
    split
    · exact mail
    · exact mail
  have chan : v.chan j.core j.ch = s.chan j.core j.ch := by
    rw [State.chan, State.core, cores]
    rfl
  rw [if_pos owned, State.chan_setChan_self, ← chan]
  rfl
theorem endJob_chan (owned : j.owned = true) : (endJob s h j stop fcode fva).chan j.core j.ch =
    (s.chan j.core j.ch).endedBy .idle stop fcode fva := by
  have wrote := (bytesOnly_putRecord h (chanEnd s h j stop fcode fva .idle) j.cont 39 [BitVec.ofNat 8 0]).keeps State.cores
    fun _ _ _ _ => rfl
  have cores : (endJob s h j stop fcode fva).cores = (chanEnd s h j stop fcode fva .idle).cores := by
    rw [endJob, State.cores_goIdle]
    exact wrote
  rw [← chanEnd_chan owned, State.chan, State.core, cores]
  rfl
theorem exec_copyComplete (job : s.job s.cur = some j) (done : j.st = .done stop fcode fva) : exec .copyComplete s =
    if j.cmds.isEmpty && !s.endWaits j then .next (endJob s s.cur j stop fcode fva) else .next s := by
  change execCopyComplete s = _
  unfold execCopyComplete
  rw [job]
  dsimp only
  rw [done]

/-! ### A job faults -/

/-- Where a job that faults stands in its box. -/
def Job.faultVec (j : Job) : List Nat :=
  match j.layout with
  | some l => if j.kind < 3 then boxDigits j.pos l.extm1 else [0, 0, 0, 0, 0, 0]
  | none => [0, 0, 0, 0, 0, 0]
/-- The state in which the channel of a job that faults has ended. -/
def pageEnded (s : State) (j : Job) (va : Word) (fcode : Nat) : State :=
  chanEnd (onChan s { j with ivec := j.faultVec } (fun c => { c with ivec := j.faultVec })) s.cur { j with ivec := j.faultVec }
      3
    fcode va .faulted
/-- The state in which the hart of a job that faults stands at an address of the microcode. -/
def pageStopped (u : State) (h : Hart) : State :=
  { u.setThread h { u.thread h with regs := { (u.thread h).regs with pc := microcodePc u.fresh } } with fresh := u.fresh + 1 }
/-- The trap of a job that faults. -/
def jobTrap (u : State) (h : Hart) (va : Word) : TrapInfo :=
  { code := Trap.code .page, pc := microcodePc u.fresh, head := Config.microHead u.fresh, tail := Config.microTail u.fresh,
    addr := va, fmta := (u.thread h).regs.ctl.fmta, fmtb := (u.thread h).regs.ctl.fmtb, fmtc := (u.thread h).regs.ctl.fmtc }
theorem exec_page (job : s.job s.cur = some j) (fault : j.st = .fault fva fcode) : exec .page s =
    if s.endWaits j then .next s else
    .next (park ((pageStopped (pageEnded s j fva fcode) s.cur).setJob s.cur
      (some { j with st := .parked, ivec := j.faultVec })) s.cur (jobTrap (pageEnded s j fva fcode) s.cur fva)) := by
  change execPage s = _
  unfold execPage
  dsimp only
  rw [job]
  dsimp only
  rw [fault]
  rfl
theorem onChan_chan (s : State) (f : Chan → Chan) (owned : j.owned = true) : (onChan s j f).chan j.core j.ch =
    f (s.chan j.core j.ch) := by
  rw [onChan, if_pos owned, State.chan_setChan_self]
/-- A job that has faulted: its hart, its job and its channel. -/
theorem page_faulted (job : s.job s.cur = some j) (fault : j.st = .fault fva fcode) (free : s.endWaits j = false) :
    ∃ t, exec .page s = .next t ∧ (t.thread s.cur).run = .parked ∧
      t.job s.cur = some { j with st := .parked, ivec := j.faultVec } ∧
      (j.owned = true → (t.chan j.core j.ch).st = .faulted ∧ (t.chan j.core j.ch).fva = fva ∧
        (t.chan j.core j.ch).ivec = j.faultVec ∧ (t.chan j.core j.ch).fcode = BitVec.ofNat 8 fcode) := by
  refine ⟨_, (exec_page job fault).trans (if_neg (by rw [free]; nofun)), ?_, ?_, fun owned => ?_⟩
  · rw [park_thread]
    rfl
  · rw [State.job, jobs_of_lasting (lasting_park ..)]
    exact State.job_setJob_self (pageStopped (pageEnded s j fva fcode) s.cur) s.cur _
  · have last : (pageEnded s j fva fcode).chan j.core j.ch = _ := chanEnd_chan (j := { j with ivec := j.faultVec }) owned
      .faulted
    rw [State.chan, State.core, cores_of_lasting (lasting_park ..)]
    change ((pageEnded s j fva fcode).chan j.core j.ch).st = _ ∧ ((pageEnded s j fva fcode).chan j.core j.ch).fva = _ ∧
      ((pageEnded s j fva fcode).chan j.core j.ch).ivec = _ ∧ ((pageEnded s j fva fcode).chan j.core j.ch).fcode = _
    rw [last]
    exact ⟨rfl, rfl, congrArg Chan.ivec (onChan_chan (j := { j with ivec := j.faultVec }) s _ owned), rfl⟩

/-! ### REDUCE_COMPLETE -/

theorem exec_reduceComplete (job : s.job s.cur = some j) (isKind : j.kind = 3) (waits : j.st = .waiting) (out : j.cmds = [])
    (good : j.fail = none) (free : s.endWaits j = false) : exec .reduceComplete s = .next (endJob (onChan s j fun c =>
      { c with rwm := BitVec.allOnes 64, fwm := BitVec.allOnes 64 }) s.cur j 1 0 0) := by
  change execReduceComplete s = _
  unfold execReduceComplete
  rw [job]
  dsimp only
  rw [if_neg (by simp [isKind, waits, out, free]), good]
theorem reduce_completed (job : s.job s.cur = some j) (isKind : j.kind = 3) (waits : j.st = .waiting) (out : j.cmds = [])
    (good : j.fail = none) (free : s.endWaits j = false) : ∃ t, exec .reduceComplete s = .next t ∧ t.thread s.cur = {} ∧
      (j.owned = true → (t.chan j.core j.ch).st = .idle ∧ (t.chan j.core j.ch).lastend = 1 ∧
        (t.chan j.core j.ch).rwm = BitVec.allOnes 64) := by
  refine ⟨_, exec_reduceComplete job isKind waits out good free, endJob_leaves.1, fun owned => ?_⟩
  rw [endJob_chan owned]
  exact ⟨rfl, rfl, congrArg Chan.rwm (onChan_chan s _ owned)⟩
theorem reduceComplete_waits (job : s.job s.cur = some j) (held : s.endWaits j = true) : exec .reduceComplete s = .next s := by
  change execReduceComplete s = _
  unfold execReduceComplete
  rw [job]
  exact if_pos (by simp [held])

end

/-! ### A page moves -/

theorem TlbEntry.size_dvd (e : TlbEntry) : e.size ∣ 2 ^ 36 := by
  unfold TlbEntry.size
  split
  · exact ⟨2 ^ 15, by norm_num⟩
  · exact ⟨2 ^ 20, by norm_num⟩
/-- A frame that is aligned to its page ends within its stack. -/
theorem frame_fits {e : TlbEntry} {frame : Nat} (low : frame < 2 ^ 36) (align : frame % e.size = 0) : frame + e.size ≤ 2 ^ 36 := by
  obtain ⟨n, whole⟩ := e.size_dvd
  obtain ⟨m, rfl⟩ := Nat.dvd_of_mod_eq_zero align
  rw [whole] at low ⊢
  have less : m < n := Nat.lt_of_mul_lt_mul_left low
  calc e.size * m + e.size = e.size * (m + 1) := rfl
    _ ≤ e.size * n := Nat.mul_le_mul_left _ less
/-- The frame of a leaf that a walk finds, where it is no redirect. -/
theorem walkLevels_frame {s : State} {st p v table : Nat} {l : List (Nat × Nat × Nat × Nat)} {e : TlbEntry}
    (pages : ∀ x ∈ l, x.2.2.1 = 0 ∨ x.2.2.1 = 2 ^ 21 ∨ x.2.2.1 = 2 ^ 16) (found : walkLevels s st p v table l = .leaf e)
    (leaf : e.redir = none) : e.frame < 2 ^ 36 ∧ e.frame % e.size = 0 := by
  induction l generalizing table with
  | nil => exact Walk.noConfusion found
  | cons x r ih =>
    obtain ⟨sh, cnt, page, next⟩ := x
    have sized : page ≠ 0 → (if (page == 2 ^ 21) = true then 2 ^ 21 else 2 ^ 16) = page := fun some => by
      obtain zero | big | small := pages _ List.mem_cons_self
      · exact absurd zero some
      · simp only at big
        subst big
        rfl
      · simp only at small
        subst small
        rfl
    unfold walkLevels at found
    dsimp only at found
    split at found
    · cases found
    · split at found
      · cases found
      · split at found
        · split at found
          · cases found
          next some =>
            split at found
            · next redirects =>
              cases found
              simp [redirects] at leaf
            · split at found
              · cases found
              · next aligned =>
                cases found
                simp only [Bool.or_eq_true, decide_eq_true_eq, not_or, Decidable.not_not, ne_eq] at aligned
                refine ⟨?_, ?_⟩
                · dsimp only
                  omega
                · unfold TlbEntry.size
                  dsimp only
                  rw [sized some]
                  exact aligned.1
        · split at found
          · cases found
          · exact ih (fun y hy => pages y (List.mem_cons_of_mem _ hy)) found
theorem walk_frame {s : State} {st p v : Nat} {e : TlbEntry} (found : walk s st p v = .leaf e) (leaf : e.redir = none) :
    e.frame < 2 ^ 36 ∧ e.frame % e.size = 0 := by
  unfold walk at found
  split at found
  · cases found
  · refine walkLevels_frame ?_ found leaf
    simp

theorem plain_stackKey {k st pa : Nat} (slot : k < 4) (stack : st < 8) (inside : pa < 2 ^ 36) : plainKey (stackKey k st pa) =
    true := by
  have key : isStackKey (stackKey k st pa) = true := by
    rw [isStackKey, Bool.and_eq_true, decide_eq_true_eq, decide_eq_true_eq, stackKey]
    omega
  rw [plainKey, key]
  rfl
theorem stackKey_add (k st pa i : Nat) : stackKey k st pa + i = stackKey k st (pa + i) := Nat.add_assoc ..
theorem State.byteAt_writeAt_inside (s : State) (h : Hart) {k i : Nat} {b : List Byte} (plain : plainKey k = true)
    (there : plainKey (k + i) = true) (inside : i < b.length) : (s.writeAt h k b).byteAt (k + i) = b[i] := by
  rw [State.byteAt_plain _ there, State.writeAt_plain _ _ plain, Memory.get_write, if_pos (by omega), Nat.add_sub_cancel_left,
    List.getElem?_eq_getElem inside]
  rfl

section
variable (s : State) (h : Hart) (home dst origin frame size : Nat)

/-- Version slot `k` of a page is copied to the target frame. -/
def frameMoved (s : State) (k : Nat) : State :=
  s.writeAt h (stackKey k dst frame) (s.bytesAt (stackKey k home origin) size)
/-- The state in which `n` version slots of a page have been copied. -/
def framesMoved (n : Nat) : State := (List.range n).foldl (frameMoved h home dst origin frame size) s

variable {s h home dst origin frame size}
theorem framesMoved_succ (n : Nat) : framesMoved s h home dst origin frame size (n + 1) =
    frameMoved h home dst origin frame size (framesMoved s h home dst origin frame size n) n := by
  rw [framesMoved, List.range_succ, List.foldl_append, List.foldl_cons, List.foldl_nil, framesMoved]
variable (dstLow : dst < 8) (target : frame + size ≤ 2 ^ 36) (sized : 0 < size)
include dstLow target sized
theorem framesMoved_outside {n k st pa : Nat} (slots : n ≤ 4) (slot : k < 4) (stack : st < 8) (inside : pa < 2 ^ 36)
    (other : st ≠ dst ∨ n ≤ k) :
    (framesMoved s h home dst origin frame size n).byteAt (stackKey k st pa) = s.byteAt (stackKey k st pa) := by
  induction n with
  | zero => rfl
  | succ n ih =>
    rw [framesMoved_succ]
    refine Eq.trans ?_ (ih (by omega) (by omega))
    refine State.byteAt_writeAt_outside (k := stackKey n dst frame) _ _ (plain_stackKey (by omega) dstLow (by omega))
      (plain_stackKey slot stack inside) ?_
    rw [State.length_bytesAt, stackKey, stackKey]
    omega
/-- The bytes of a slot that has been copied stand at the target. -/
theorem framesMoved_inside {n k o : Nat} (slots : n ≤ 4) (copied : k < n) (homeLow : home < 8) (apart : dst ≠ home)
    (source : origin + size ≤ 2 ^ 36) (inside : o < size) :
    (framesMoved s h home dst origin frame size n).byteAt (stackKey k dst (frame + o)) =
      s.byteAt (stackKey k home (origin + o)) := by
  induction n with
  | zero => exact absurd copied (Nat.not_lt_zero _)
  | succ n ih =>
    rw [framesMoved_succ, frameMoved]
    by_cases this : k = n
    · subst this
      have start := plain_stackKey (k := k) (st := dst) (pa := frame) (by omega) dstLow (by omega)
      have byte := plain_stackKey (k := k) (st := dst) (pa := frame + o) (by omega) dstLow (by omega)
      rw [← stackKey_add] at byte ⊢
      rw [State.byteAt_writeAt_inside _ _ start byte (by rw [State.length_bytesAt]; exact inside)]
      simp only [State.bytesAt, List.getElem_map, List.getElem_range, stackKey_add]
      exact framesMoved_outside dstLow target sized (by omega) (by omega) homeLow (by omega) (.inl apart.symm)
    · refine Eq.trans ?_ (ih (by omega) (by omega))
      refine State.byteAt_writeAt_outside (k := stackKey n dst frame) _ _ (plain_stackKey (by omega) dstLow (by omega))
        (plain_stackKey (by omega) dstLow (by omega)) ?_
      rw [State.length_bytesAt, stackKey, stackKey]
      omega
end

section
variable {s : State} {j : Job} {e : TlbEntry} {dst frame hs ds : Nat}

/-- The permission bits of a page as an entry of a table holds them. -/
def TlbEntry.permBits (e : TlbEntry) : Nat := (if e.rd then 4 else 0) + (if e.wr then 8 else 0)
/-- The home stack of a job's page. -/
def Job.home (j : Job) : Nat := vaStack (vaOf j.w1)
/-- The state in which a page, the entry that maps it and the redirect are written. -/
def pageWritten (s : State) (j : Job) (e : TlbEntry) (dst frame hs ds : Nat) : State :=
  ((framesMoved s s.cur j.home dst e.frame frame e.size 4).writeAt s.cur (stackKey 0 dst ds)
    (leBytes 8 (3 + e.permBits + frame / 256 * 256))).writeAt s.cur (stackKey 0 j.home hs)
      (leBytes 8 (3 + 16 + e.permBits + 32 * dst))
/-- A cached translation of the page that has moved. -/
def TlbEntry.movedTo (p va dst : Nat) (f : TlbEntry) : TlbEntry :=
  if f.covers p va then { f with redir := some dst, frame := 0 } else f
/-- The home stack behind the move: its cached translations of the page lead on, and nothing holds the page. -/
def Stack.pageLeft (x : Stack) (p va dst : Nat) (e : TlbEntry) : Stack :=
  { x with
    tlb := x.tlb.map (TlbEntry.movedTo p va dst)
    heldPages := x.heldPages.filter (fun y => !(y.1 == p && e.covers p (y.2 * 2 ^ 16))) }
theorem exec_migrateMove (job : s.job s.cur = some j) (isKind : j.kind = 4) (waits : j.st = .waiting)
    (plan : migratePlan s j = some (e, dst, frame, hs, ds))
    (free : framePending s (frameKeys j.home e.frame e.size) = false) : exec .migrateMove s =
    .next (((pageWritten s j e dst frame hs ds).setStack j.home (((pageWritten s j e dst frame hs ds).stack j.home).pageLeft
      j.cont.part (vaOf j.w1) dst e)).setJob s.cur (some { j with st := .done 1 0 0 })) := by
  change execMigrateMove s = _
  unfold execMigrateMove
  rw [job]
  dsimp only
  rw [if_neg (by simp [isKind, waits]), plan]
  dsimp only
  rw [Job.home] at free
  rw [free]
  rfl
theorem migratePlan_spec (plan : migratePlan s j = some (e, dst, frame, hs, ds)) : dst < 8 ∧ dst ≠ j.home ∧
    frame + e.size ≤ 2 ^ 36 ∧ e.frame + e.size ≤ 2 ^ 36 ∧ frame % 2 ^ 16 = 0 := by
  unfold migratePlan at plan
  dsimp only at plan
  split at plan
  · next e' found =>
    split at plan
    · exact nomatch plan
    · next good =>
      simp only [Bool.or_eq_true, not_or, decide_eq_true_eq, ne_eq, Decidable.not_not, Bool.not_eq_true,
          Option.isSome_eq_false_iff,
        Option.isNone_iff_eq_none] at good
      obtain ⟨⟨⟨⟨⟨⟨leaf, -⟩, -⟩, apart⟩, aligned⟩, -⟩, -⟩ := good
      split at plan
      · split at plan
        · obtain ⟨sameEntry, rest⟩ := Prod.mk.inj (Option.some.inj plan)
          obtain ⟨sameDst, rest⟩ := Prod.mk.inj rest
          have sameFrame := (Prod.mk.inj rest).1
          obtain ⟨low, sourceAligned⟩ := walk_frame found leaf
          rw [← sameEntry, ← sameDst, ← sameFrame]
          exact ⟨Nat.mod_lt _ (by norm_num), apart, frame_fits (by omega) aligned, frame_fits low sourceAligned,
            Nat.mul_mod_left ..⟩
        · exact nomatch plan
      · exact nomatch plan
  · exact nomatch plan

/-- The bytes of a page that has moved, and of the entries that map it. -/
theorem pageWritten_spec (plan : migratePlan s j = some (e, dst, frame, hs, ds)) (homeSlot : hs + 8 ≤ 2 ^ 36)
    (slot : ds + 8 ≤ 2 ^ 36) :
    (pageWritten s j e dst frame hs ds).readAt (stackKey 0 dst ds) 8 = 3 + e.permBits + frame ∧
      (pageWritten s j e dst frame hs ds).readAt (stackKey 0 j.home hs) 8 = 19 + e.permBits + 32 * dst ∧
      ∀ k o, k < 4 → o < e.size → (k = 0 → frame + o < ds ∨ ds + 8 ≤ frame + o) →
        (pageWritten s j e dst frame hs ds).byteAt (stackKey k dst (frame + o)) =
          s.byteAt (stackKey k j.home (e.frame + o)) := by
  obtain ⟨dstLow, apart, target, source, aligned⟩ := migratePlan_spec plan
  have homeLow : j.home < 8 := by
    rw [Job.home, vaStack, vaOf]
    omega
  have perms : e.permBits ≤ 12 := by
    unfold TlbEntry.permBits
    split <;> split <;> norm_num
  have sized := e.size_pos
  have entry (i : Nat) (hi : i < 8) : plainKey (stackKey 0 dst ds + i) = true := by
    rw [stackKey_add]
    exact plain_stackKey (by omega) dstLow (by omega)
  have homeEntry (i : Nat) (hi : i < 8) : plainKey (stackKey 0 j.home hs + i) = true := by
    rw [stackKey_add]
    exact plain_stackKey (by omega) homeLow (by omega)
  have size (v : Nat) : (leBytes 8 v).length = 8 := length_leBytes ..
  unfold pageWritten
  refine ⟨?_, ?_, fun k o slots inside outside => ?_⟩
  · rw [State.readAt_writeAt_outside (k := stackKey 0 j.home hs) _ _ (homeEntry 0 (by omega)) entry
      (by rw [size, stackKey, stackKey]; omega),
      State.readAt_writeAt_plain _ _ entry (by omega)]
    omega
  · rw [State.readAt_writeAt_plain _ _ homeEntry (by omega)]
    omega
  · have byte := plain_stackKey (k := k) (st := dst) (pa := frame + o) slots dstLow (by omega)
    rw [State.byteAt_writeAt_outside (k := stackKey 0 j.home hs) _ _ (homeEntry 0 (by omega)) byte
        (by rw [size, stackKey, stackKey]; omega),
      State.byteAt_writeAt_outside (k := stackKey 0 dst ds) _ _ (entry 0 (by omega)) byte
          (by rw [size, stackKey, stackKey]; omega)]
    exact framesMoved_inside dstLow target sized (by omega) slots homeLow apart source inside

/-- The same where only the rest of the state has changed. -/
theorem pageWritten_reads {t : State} (mem : t.mem = (pageWritten s j e dst frame hs ds).mem)
    (plan : migratePlan s j = some (e, dst, frame, hs, ds)) (homeSlot : hs + 8 ≤ 2 ^ 36) (slot : ds + 8 ≤ 2 ^ 36) :
    t.readAt (stackKey 0 dst ds) 8 = 3 + e.permBits + frame ∧
      t.readAt (stackKey 0 j.home hs) 8 = 19 + e.permBits + 32 * dst ∧
      ∀ k o, k < 4 → o < e.size → (k = 0 → frame + o < ds ∨ ds + 8 ≤ frame + o) →
        t.byteAt (stackKey k dst (frame + o)) = s.byteAt (stackKey k j.home (e.frame + o)) := by
  obtain ⟨dstLow, -, target, -, -⟩ := migratePlan_spec plan
  have homeLow : j.home < 8 := by
    rw [Job.home, vaStack, vaOf]
    omega
  obtain ⟨entry, redirect, bytes⟩ := pageWritten_spec plan homeSlot slot
  refine ⟨?_, ?_, fun k o slots inside outside => ?_⟩
  · exact (State.readAt_congr_plain mem fun i hi => by
      rw [stackKey_add]; exact plain_stackKey (by omega) dstLow (by omega)).trans entry
  · exact (State.readAt_congr_plain mem fun i hi => by
      rw [stackKey_add]; exact plain_stackKey (by omega) homeLow (by omega)).trans redirect
  · exact (State.byteAt_congr_plain mem (plain_stackKey slots dstLow (by omega))).trans (bytes k o slots inside outside)

theorem covers_movedTo {p va : Nat} {f : TlbEntry} (there : (f.movedTo p va dst).covers p va = true) :
    (f.movedTo p va dst).redir = some dst := by
  unfold TlbEntry.movedTo at there ⊢
  split at there
  · next covered => rw [if_pos covered]
  · next other => exact absurd there other
/-- No hold of the page is left. -/
theorem pageLeft_holds {x : Stack} {p va : Nat} {y : Nat × Nat} (there : y ∈ (x.pageLeft p va dst e).heldPages) :
    ¬(y.1 = p ∧ e.covers p (y.2 * 2 ^ 16) = true) := by
  have kept := (List.mem_filter.1 there).2
  generalize e.covers p (y.2 * 2 ^ 16) = covered at kept ⊢
  rintro ⟨same, rfl⟩
  simp [same] at kept
theorem pageLeft_translations {x : Stack} {p va : Nat} {f : TlbEntry} (there : f ∈ (x.pageLeft p va dst e).tlb)
    (covered : f.covers p va = true) : f.redir = some dst := by
  obtain ⟨f', -, rfl⟩ := List.mem_map.1 there
  exact covers_movedTo covered
theorem stack_put (u : State) (st : Nat) (x : Stack) (h : Hart) (j : Option Job) : ((u.setStack st x).setJob h j).stack st = x :=
  State.stack_setStack_self ..
theorem mem_put (u : State) (st : Nat) (x : Stack) (h : Hart) (j : Option Job) : ((u.setStack st x).setJob h j).mem = u.mem :=
  rfl
/-- A page that has moved. -/
theorem migrate_moved (job : s.job s.cur = some j) (isKind : j.kind = 4) (waits : j.st = .waiting)
    (plan : migratePlan s j = some (e, dst, frame, hs, ds))
    (free : framePending s (frameKeys j.home e.frame e.size) = false) : ∃ t, exec .migrateMove s = .next t ∧
    t.job s.cur = some { j with st := .done 1 0 0 } ∧ t.mem = (pageWritten s j e dst frame hs ds).mem ∧
    (∀ f ∈ (t.stack j.home).tlb, f.covers j.cont.part (vaOf j.w1) = true → f.redir = some dst) ∧
    (∀ y ∈ (t.stack j.home).heldPages, ¬(y.1 = j.cont.part ∧ e.covers j.cont.part (y.2 * 2 ^ 16) = true)) := by
  refine ⟨_, exec_migrateMove job isKind waits plan free, State.job_setJob_self .., mem_put .., fun f there => ?_,
    fun y there => ?_⟩
  · rw [stack_put] at there
    exact pageLeft_translations there
  · rw [stack_put] at there
    exact pageLeft_holds there

end

/-! ### SHOOT_ACK -/

section
variable {s : State} {j : Job}

/-- A translation that the SHOOT of job `j` drops from the slice that answers. -/
def State.shot (s : State) (j : Job) (e : TlbEntry) : Bool :=
  e.part == j.cont.part && rangesMeet (vaOf j.w1) j.w2.toNat e.va e.size && vaStoker e.va == s.arg % 12
/-- The slices that a SHOOT still waits for once slice `n`, whose turn this is, has answered. -/
def State.slicesLeft (s : State) (j : Job) (n : Nat) : List Nat :=
  (j.slices.filter (fun k => k != n) ++ (((s.stack (s.arg / 12)).tlb.filter (s.shot j)).filterMap (fun e =>
    e.redir.map (fun r => 12 * r + vaStoker e.va))).filter (fun k => k != n)).dedup
theorem slicesLeft_answered (n : Nat) : n ∉ s.slicesLeft j n := by
  rw [State.slicesLeft, List.mem_dedup, List.mem_append, List.mem_filter, List.mem_filter]
  simp
/-- A table that the SHOOT of job `j` drops from the slice that answers. -/
def State.shotTable (s : State) (j : Job) (t : HTable) : Bool :=
  t.part == j.cont.part && vaStoker t.va == s.arg % 12 &&
    rangesMeet (vaOf j.w1) j.w2.toNat t.page (if t.big then 2 ^ 21 else 2 ^ 16)
/-- The stack of the slice that answers, without what is dropped. -/
def State.shotStack (s : State) (j : Job) : Stack :=
  { s.stack (s.arg / 12) with
    tlb := (s.stack (s.arg / 12)).tlb.filter (fun e => !s.shot j e)
    htabs := (s.stack (s.arg / 12)).htabs.filter (fun e => !e.2.any (s.shotTable j)) }
/-- The state in which the slice has dropped them and counted the tables. -/
def shotState (s : State) (j : Job) : State :=
  let drops := (s.stack (s.arg / 12)).htabs.filter (fun e => e.2.any (s.shotTable j))
  let u := s.setStack (s.arg / 12) (s.shotStack j)
  if drops.isEmpty then u else u.countStack (s.arg / 12) kDropped drops.length
theorem shotState_tlb : ((shotState s j).stack (s.arg / 12)).tlb =
    (s.stack (s.arg / 12)).tlb.filter (fun e => !s.shot j e) := by
  unfold shotState
  dsimp only
  split
  · rw [State.stack_setStack_self]
    rfl
  · rw [State.countStack, State.stack_setStack_self, State.stack_setStack_self]
    rfl
theorem shotState_turn : (shotState s j).cur = s.cur ∧ (shotState s j).arg = s.arg := by
  unfold shotState
  dsimp only
  split
  · exact ⟨rfl, rfl⟩
  · exact ⟨rfl, rfl⟩
/-- The job of a SHOOT that slice `n` has answered. -/
def Job.answered (j : Job) (s : State) (n : Nat) : Job :=
  { j with slices := s.slicesLeft j n, st := if (s.slicesLeft j n).isEmpty then .done 1 0 0 else .waiting }
theorem exec_shootAck (job : s.job s.cur = some j) (isKind : j.kind = 5) (waits : j.st = .waiting) (waited : s.arg ∈ j.slices)
    (free : framePending s (((s.stack (s.arg / 12)).tlb.filter (s.shot j)).flatMap (fun e => if e.redir.isSome then [] else
      frameKeys (s.arg / 12) e.frame e.size)) = false) :
    exec .shootAck s = .next ((shotState s j).setJob s.cur (some (j.answered s s.arg))) := by
  have whole : exec .shootAck s = .next ((shotState s j).setJob (shotState s j).cur
      (some (j.answered s (shotState s j).arg))) := by
    change execShootAck s = _
    unfold execShootAck
    rw [job]
    dsimp only
    rw [if_neg (by simp [isKind, waits, waited])]
    refine (if_neg (by exact Bool.eq_false_iff.1 free)).trans ?_
    rfl
  rw [whole, shotState_turn.1, shotState_turn.2]

end

/-! ### RUN -/

section
variable {s : State} {j : Job}
theorem thread_placeOn (s : State) (h : Hart) (c : Cont) (pc : Word) (later : Bool) : (placeOn s h c pc later).thread h =
    { run := .running, regs := pickupRegs c pc later, chunk := { begun := pickupRegs c pc later }, cont := c, placed := s.now } := by
  rw [placeOn, State.thread_noteWindow_self, State.thread_setThread_self]
theorem pickupRegs_pc (c : Cont) (pc : Word) (later : Bool) : (pickupRegs c pc later).pc = pc := by
  unfold pickupRegs
  cases later <;> rfl
/-- A RUN starts its program. -/
theorem run_started {hd : Header} {u : State} (job : s.job s.cur = some j) (isKind : j.kind = 6) (moving : j.st = .moving)
    (inside : s.stackIn j.cont.part (vaStack (vaOf j.w1)) = true)
    (header : readHeader s j.cont.part j.cont.acc j.w1 = (some hd, u)) : ∃ t, exec .run s = .next t ∧
    (t.thread s.cur).run = .running ∧ (t.thread s.cur).regs.pc = hd.entry ∧ (t.thread s.cur).cont.rcd = j.cont.rcd := by
  change ∃ t, execRun s = .next t ∧ _
  unfold execRun
  dsimp only
  rw [job, Option.isNone_some, Bool.false_and, Bool.false_and, if_neg Bool.false_ne_true, job]
  dsimp only
  rw [if_neg (by simp [isKind, moving]), inside, header]
  refine ⟨_, rfl, ?_⟩
  rw [thread_placeOn]
  exact ⟨rfl, pickupRegs_pc .., rfl⟩

end

/-! ### CONTINUATION_MIGRATE -/

/-- The job of a hart waits by its record. -/
def jobCarried (s : State) (h : Hart) : State :=
  match s.job h with
  | some j => { (s.setJob h none).setJob (16384 + s.fresh) (some { j with st := .moving }) with fresh := s.fresh + 1 }
  | none => s
/-- The state in which the record of a continuation that moves away is written. -/
def departing (s : State) (h : Hart) : State :=
  putStatus (putPc s h (s.thread h).cont (s.thread h).regs.pc) h (s.thread h).cont 6
/-- The entry of a continuation that moves to stack `st`. -/
def departEntry (s u : State) (h : Hart) (st : Nat) : ReadyEnt :=
  { readyEntry u h (s.thread h).cont with stoker := some (12 * st + hartSk h % 12) }
/-- The state in which the continuation of hart `h` has moved to stack `st`. -/
def departed (s : State) (h : Hart) (st : Nat) : State :=
  ((jobCarried (departing s h) h).enqueue (s.thread h).cont.part
    (departEntry s (jobCarried (departing s h) h) h st)).goIdle h

section
variable {s : State} {h : Hart} {st : Nat}
theorem departed_spec : (departed s h st).thread h = {} ∧ ∃ e ∈ ((departed s h st).part (s.thread h).cont.part).ready,
    e.rcd = (s.thread h).cont.rcd ∧ e.lin = (s.thread h).cont.lin ∧ e.acc = (s.thread h).cont.acc ∧
      e.stoker = some (12 * st + hartSk h % 12) := by
  refine ⟨State.thread_goIdle .., departEntry s (jobCarried (departing s h) h) h st, ?_, rfl, rfl, rfl, rfl⟩
  rw [departed, State.part_goIdle, State.part_enqueue]
  exact List.mem_append_right _ List.mem_cons_self
theorem departed_job {j : Job} (job : s.job h = some j) (low : h < 16384) : (departed s h st).job h = none ∧
    ∃ k, (departed s h st).job k = some { j with st := .moving } := by
  have kept : (departing s h).job h = some j := by
    have same : (departing s h).jobs = s.jobs := jobs_of_lasting ((lasting_putRecord ..).trans (lasting_putRecord ..))
    rw [State.job, same]
    exact job
  have table : (departed s h st).jobs = (jobCarried (departing s h) h).jobs := by
    rw [departed, State.jobs_goIdle, (State.cores_enqueue ..).2]
  have carried : (jobCarried (departing s h) h).jobs = Tab.set none (Tab.set none (departing s h).jobs h none)
      (16384 + (departing s h).fresh) (some { j with st := .moving }) := by
    unfold jobCarried
    rw [kept]
    rfl
  have apart : h ≠ 16384 + (departing s h).fresh := Nat.ne_of_lt (Nat.lt_of_lt_of_le low (Nat.le_add_right ..))
  refine ⟨?_, 16384 + (departing s h).fresh, ?_⟩
  · rw [State.job, table, carried, Tab.get_set_other _ _ _ apart, Tab.get_set_self]
  · rw [State.job, table, carried, Tab.get_set_self]

theorem low_of_stoker (stoker : kindOf h = .stoker) : h < 16384 := by
  unfold kindOf at stoker
  split at stoker
  · next low => exact Nat.lt_trans low (by norm_num)
  · split at stoker
    · next low => exact Nat.lt_trans low (by norm_num)
    · exact nomatch stoker
theorem exec_migrate_head (free : s.job s.cur = none) (running : s.me.run = .running) (waits : s.me.wait = .redirect st)
    (may : s.mayRelease = true) : exec .continuationMigrate s = .next (departed s.released s.cur st) := by
  simp only [State.mayRelease, Bool.and_eq_true, Bool.not_eq_true'] at may
  obtain ⟨mayEnd, unblocked⟩ := may
  change execContinuationMigrate s = _
  unfold execContinuationMigrate
  dsimp only
  rw [free, running, waits]
  dsimp only
  rw [State.endChunk_mayEnd s mayEnd]
  dsimp only
  rw [unblocked, if_neg Bool.false_ne_true, State.released, State.cur_ended]
  rfl
theorem exec_migrate_job {j : Job} (job : s.job s.cur = some j) (waits : j.st = .redirect st)
    (unblocked : s.blocked s.cur = false) : exec .continuationMigrate s = .next (departed (s.drain s.cur) s.cur st) := by
  change execContinuationMigrate s = _
  unfold execContinuationMigrate
  dsimp only
  rw [job]
  dsimp only
  rw [waits]
  dsimp only
  rw [unblocked, if_neg Bool.false_ne_true]
  rfl

end

end Sys2Proof.Machine
end

section
open Sys2Proof Sys2Proof.Machine

/-- Settles O44: a request that is taken leaves its channel and hart as placed, each event of a job is one equation, an end is its
mailbox record, counter and channel, and a page, a program or a continuation that moves is the state written in order. -/
theorem copyJobs : Obligations.CopyJobs := by
  unfold Obligations.CopyJobs
  refine ⟨fun s j => ⟨fun p event => ⟨?_, ?_⟩, ?_, ?_, ?_⟩, fun s j => ⟨fun p event => ⟨?_, ?_⟩, ?_, ?_, ?_, ?_, ?_, ?_⟩⟩
  · intro u free stoker idle took job
    subst took
    obtain ⟨isKind, active, run, cur⟩ := takeJob_took free job
    obtain ⟨whole, low⟩ := exec_copyEvents event s
    refine ⟨?_, active, run, cur⟩
    rw [whole, jobEvent_takes free stoker idle job, setupJob_copy (by omega), cur]
  · intro job isKind way moving first l layout
    obtain ⟨whole, low⟩ := exec_copyEvents event s
    have goes : exec p.1 s = .next ((moveElements s j l 1).1.setJob s.cur (some (moveElements s j l 1).2)) := by
      rw [whole, jobEvent_goes job isKind way moving, goJob_copy (by omega) layout, first]
    refine ⟨fun all => ?_, fun more j₁ u v index moved => ?_⟩
    · rw [goes, moveElements_done all]
    · intro j₂
      rw [goes, moveElements_one more index moved]
  · intro stop fcode va job held
    refine ⟨fun done => ?_, fun fault => ?_, fun _ => reduceComplete_waits job held⟩
    · exact (exec_copyComplete job done).trans (if_neg (by simp [held]))
    · exact (exec_page job fault).trans (if_pos held)
  · intro stop fcode va job done out free
    refine ⟨_, (exec_copyComplete job done).trans (if_pos (by simp [out, free])), endJob_leaves.1, endJob_leaves.2, fun owned => ?_, ?_⟩
    · rw [endJob_chan owned]
      exact ⟨rfl, rfl⟩
    · intro m old six plain
      refine ⟨fun enabled => ?_, ?_⟩
      · obtain ⟨first, second, digits⟩ := mailed_reads (s := s) (h := s.cur) (stop := stop) (fcode := fcode) (fva := va)
          enabled six (plain enabled)
        have low := mailbox_low (plain enabled)
        have same (o n : Nat) (inside : o + n ≤ 32) : (endJob s s.cur j stop fcode va).bytesAt (m + o) n =
            (mailed s s.cur j stop fcode va).bytesAt (m + o) n := List.map_congr_left fun i hi => by
          have lt := List.mem_range.1 hi
          rw [Nat.add_assoc]
          exact endJob_byteAt (plain enabled _ (by omega)) (by omega)
        refine ⟨(congrArg leNat (same 0 8 (by omega))).trans first, (congrArg leNat (same 8 8 (by omega))).trans second,
          (same 16 12 (by omega)).trans digits⟩
      · rw [endJob_counter, notified_counter plain]
  · intro va fcode job fault free
    exact page_faulted job fault free
  · intro u free stoker idle took job isKind
    subst took
    obtain ⟨-, active, -, cur⟩ := takeJob_took free job
    refine ⟨?_, active⟩
    rw [exec_pageEvents event, jobEvent_takes free stoker idle job, cur]
  · intro job isKind way moving
    rw [exec_pageEvents event, jobEvent_goes job isKind way moving]
  · intro job isKind waits out good free
    exact reduce_completed job isKind waits out good free
  · intro e dst frame hs ds job isKind waits plan free
    obtain ⟨t, next, done, mem, translations, holds⟩ := migrate_moved job isKind waits plan free
    refine ⟨t, next, done, fun homeSlot slot => ?_, translations, holds⟩
    exact pageWritten_reads mem plan homeSlot slot
  · intro job isKind waits waited x hit free
    refine ⟨_, j.answered s s.arg, exec_shootAck job isKind waits waited free, State.job_setJob_self .., slicesLeft_answered _,
      shotState_tlb, fun none => ?_⟩
    have empty : s.slicesLeft j s.arg = [] := none
    rw [Job.answered, empty]
    rfl
  · intro hd u job isKind moving inside header
    exact run_started job isKind moving inside header
  · intro st free running waits may c
    have spec := departed_spec (s := s.released) (h := s.cur) (st := st)
    have mine : (s.released.thread s.cur).cont = c := by rw [← State.cur_released s]; rfl
    rw [mine] at spec
    exact ⟨_, exec_migrate_head free running waits may, spec⟩
  · intro st job waits unblocked stoker c
    obtain ⟨idle, e, there, rcd, -, -, home⟩ := departed_spec (s := s.drain s.cur) (h := s.cur) (st := st)
    have mine : ((s.drain s.cur).thread s.cur).cont = c := by
      change _ = ((s.drain s.cur).thread (s.drain s.cur).cur).cont
      rw [State.cur_drain]
    rw [mine] at there rcd
    have kept : (s.drain s.cur).job s.cur = some j := by
      rw [State.job, jobs_of_lasting (lasting_drain ..)]
      exact job
    obtain ⟨gone, k, carried⟩ := departed_job (st := st) kept (low_of_stoker stoker)
    exact ⟨_, k, exec_migrate_job job waits unblocked, idle, gone, carried, e, there, rcd, home⟩

end

section
/-! SUPPORT. Power-up, the staggered start, sensors, and what the host and readers of the module get (R26, R419 to R431). -/

namespace Sys2Proof.Machine

/-! ### The log -/

theorem log_getLast (s : State) (code part loc : Nat) : (s.logEvent code part loc).ctrl.log.getLast? = some (s.logged code part loc) := by
  rw [State.log_logEvent, List.drop_append_of_le_length (Nat.sub_le_iff_le_add.2 (by simp)), List.getLast?_append]
  rfl
/-- An event that is logged changes the log alone. -/
theorem logEvent_keeps {α : Type} (f : State → α)
    (free : ∀ (u : State) l o, f { u with ctrl := { u.ctrl with log := l, overwritten := o } } = f u) (s : State)
    (code part loc : Nat) : f (s.logEvent code part loc) = f s := free ..

/-! ### Power-up -/

section
variable (s : State)

/-- The slot other than the pending one, after an attempt to boot the pending one that failed. -/
def bootFailed : Bool := s.ctrl.attempted && s.ctrl.pending.isSome
/-- The state in which the ROM has given a pending image up. -/
def gaveWay : State :=
  if bootFailed s then
    ({ s.powered with ctrl := { s.powered.ctrl with pending := none, attempted := false } } : State).logEvent 3 0 0
  else s.powered
/-- The slot that the ROM boots. -/
def picked : Option Bool :=
  if bootFailed s && (s.ctrl.pending.map not).any (gaveWay s).ctrl.validSlot then s.ctrl.pending.map not
  else (gaveWay s).ctrl.choose
/-- The controller of a module that boots slot `b`. -/
def bootController (b : Bool) : Controller :=
  { (gaveWay s).ctrl with
    active := some b, attempted := (gaveWay s).ctrl.pending == some b
    meas := measure ((gaveWay s).ctrl.slotOf b).components, ports := (List.range 16).map Config.portAddress }
theorem exec_powerUp : exec .powerUp s = .next (match picked s with
    | none => ({ gaveWay s with ctrl := { (gaveWay s).ctrl with halted := true } } : State).logEvent 1 0 0
    | some b => stacksUp (assignEndpoints { gaveWay s with ctrl := bootController s b } (fun _ => true))) := by
  change execPowerUp s = _
  unfold execPowerUp
  extract_lets u failed other src v pick
  have same : pick = picked s := rfl
  rw [← same]
  clear same
  clear_value pick
  cases pick
  · rfl
  · rfl


variable {s}
/-- What power-up leaves of the flash and of the rest, whether or not an image gave way. -/
theorem gaveWay_keeps {α : Type} (f : State → α)
    (log : ∀ (u : State) l o, f { u with ctrl := { u.ctrl with log := l, overwritten := o } } = f u)
    (tried : ∀ u : State, f { u with ctrl := { u.ctrl with pending := none, attempted := false } } = f u) :
    f (gaveWay s) = f s.powered := by
  unfold gaveWay
  split
  · rw [logEvent_keeps f log, tried]
  · rfl
theorem gaveWay_slots : (gaveWay s).ctrl.slotA = s.ctrl.slotA ∧ (gaveWay s).ctrl.slotB = s.ctrl.slotB ∧
    (gaveWay s).ctrl.minSvn = s.ctrl.minSvn ∧ (gaveWay s).ctrl.seq = s.ctrl.seq :=
  ⟨gaveWay_keeps (fun u => u.ctrl.slotA) (fun _ _ _ => rfl) fun _ => rfl,
    gaveWay_keeps (fun u => u.ctrl.slotB) (fun _ _ _ => rfl) fun _ => rfl,
    gaveWay_keeps (fun u => u.ctrl.minSvn) (fun _ _ _ => rfl) fun _ => rfl,
    gaveWay_keeps (fun u => u.ctrl.seq) (fun _ _ _ => rfl) fun _ => rfl⟩
theorem gaveWay_blank : (gaveWay s).mem = [] ∧ (gaveWay s).threads = [] ∧ (gaveWay s).tasks = [] ∧ (gaveWay s).clusters = [] ∧
    (gaveWay s).ctrl.halted = false :=
  ⟨gaveWay_keeps State.mem (fun _ _ _ => rfl) fun _ => rfl, gaveWay_keeps State.threads (fun _ _ _ => rfl) fun _ => rfl,
    gaveWay_keeps State.tasks (fun _ _ _ => rfl) fun _ => rfl,
    gaveWay_keeps State.clusters (fun _ _ _ => rfl) fun _ => rfl,
    gaveWay_keeps (fun u => u.ctrl.halted) (fun _ _ _ => rfl) fun _ => rfl⟩
theorem gaveWay_valid : (gaveWay s).ctrl.validSlot = s.ctrl.validSlot ∧ (gaveWay s).ctrl.slotOf = s.ctrl.slotOf := by
  obtain ⟨slotA, slotB, minSvn, -⟩ := gaveWay_slots (s := s)
  have slot : (gaveWay s).ctrl.slotOf = s.ctrl.slotOf := by
    funext b
    rw [Controller.slotOf, Controller.slotOf, slotA, slotB]
  refine ⟨?_, slot⟩
  funext b
  rw [Controller.validSlot, Controller.validSlot, slot, minSvn]
theorem gaveWay_pending : (gaveWay s).ctrl.pending = if bootFailed s then none else s.ctrl.pending := by
  unfold gaveWay
  split
  · rfl
  · rfl

/-! ### The slot that boots -/

theorem higher_some {c : Controller} {b : Bool} (chosen : c.higher = some b) : c.validSlot b = true ∧
    ∀ x, c.validSlot x = true → (c.slotOf x).version ≤ (c.slotOf b).version := by
  unfold Controller.higher at chosen
  split at chosen
  · next validA validB =>
    cases chosen
    by_cases later : c.slotA.version < c.slotB.version
    · rw [decide_eq_true later]
      refine ⟨validB, fun x _ => ?_⟩
      cases x
      · exact Nat.le_of_lt later
      · exact Nat.le_refl _
    · rw [decide_eq_false later]
      refine ⟨validA, fun x _ => ?_⟩
      cases x
      · exact Nat.le_refl _
      · exact Nat.not_lt.1 later
  · next validA invalidB =>
    cases chosen
    refine ⟨validA, fun x valid => ?_⟩
    cases x
    · exact Nat.le_refl _
    · exact absurd (valid.symm.trans invalidB) nofun
  · next invalidA validB =>
    cases chosen
    refine ⟨validB, fun x valid => ?_⟩
    cases x
    · exact absurd (valid.symm.trans invalidA) nofun
    · exact Nat.le_refl _
  · cases chosen
theorem higher_none {c : Controller} : c.higher = none ↔ c.validSlot false = false ∧ c.validSlot true = false := by
  unfold Controller.higher
  split
  · next validA _ => simp [validA]
  · next validA _ => simp [validA]
  · next validB => simp [validB]
  · next invalidA invalidB => simp [invalidA, invalidB]
theorem choose_spec (c : Controller) : (∃ b, c.pending = some b ∧ c.validSlot b = true ∧ c.choose = some b) ∨
    c.choose = c.higher := by
  unfold Controller.choose
  split
  · next b pending =>
    split
    · next valid => exact .inl ⟨b, pending, valid, rfl⟩
    · exact .inr rfl
  · exact .inr rfl
theorem picked_valid {b : Bool} (boots : picked s = some b) : s.ctrl.validSlot b = true := by
  unfold picked at boots
  rw [gaveWay_valid.1] at boots
  split at boots
  · next gives =>
    rw [boots] at gives
    exact (Bool.and_eq_true _ _ ▸ gives).2
  · obtain ⟨x, -, valid, chosen⟩ | chosen := choose_spec (gaveWay s).ctrl
    · cases boots.symm.trans chosen
      rwa [gaveWay_valid.1] at valid
    · have valid := (higher_some (chosen.symm.trans boots)).1
      rwa [gaveWay_valid.1] at valid
theorem picked_none : picked s = none ↔ s.ctrl.validSlot false = false ∧ s.ctrl.validSlot true = false := by
  constructor
  · intro none
    unfold picked at none
    split at none
    · next gives => simp [none] at gives
    · obtain ⟨x, -, -, chosen⟩ | chosen := choose_spec (gaveWay s).ctrl
      · cases none.symm.trans chosen
      · have both := higher_none.1 (chosen.symm.trans none)
        rwa [gaveWay_valid.1] at both
  · rintro ⟨invalidA, invalidB⟩
    cases boots : picked s with
    | none => rfl
    | some b =>
      have valid := picked_valid boots
      cases b
      · exact absurd (valid.symm.trans invalidA) nofun
      · exact absurd (valid.symm.trans invalidB) nofun
/-- Without a pending image the slot of the higher version boots. -/
theorem picked_higher {b : Bool} (pending : s.ctrl.pending = none) (boots : picked s = some b) : ∀ x,
    s.ctrl.validSlot x = true → (s.ctrl.slotOf x).version ≤ (s.ctrl.slotOf b).version := by
  have failed : bootFailed s = false := by simp [bootFailed, pending]
  have chosen : (gaveWay s).ctrl.choose = some b := by
    rw [picked, failed] at boots
    exact boots
  have same : (gaveWay s).ctrl.choose = (gaveWay s).ctrl.higher := by
    rw [Controller.choose, gaveWay_pending, failed, pending]
    rfl
  have order := (higher_some (same.symm.trans chosen)).2
  rwa [gaveWay_valid.1, gaveWay_valid.2] at order

theorem stacksUp_up (s : State) (n : Nat) {k : Nat} (low : k < n) :
    (((List.range n).foldl (fun s st => s.setStack st { s.stack st with up := true }) s).stack k).up = true := by
  induction n with
  | zero => exact absurd low (Nat.not_lt_zero _)
  | succ n ih =>
    rw [List.range_succ, List.foldl_append, List.foldl_cons, List.foldl_nil, State.stack_setStack]
    split
    · rfl
    · exact ih (by omega)
theorem stacksUp_keeps {α : Type} (f : State → α) (free : ∀ (u : State) k x, f (u.setStack k x) = f u) (u : State) :
    f (stacksUp u) = f u := foldl_keeps _ f _ _ fun _ _ => free ..

/-! ### The two ends of power-up -/

/-- The module that halts at boot, and the one that boots slot `b`. -/
def haltedBoot (s : State) : State := ({ gaveWay s with ctrl := { (gaveWay s).ctrl with halted := true } } : State).logEvent 1
    0 0
def bootedTo (s : State) (b : Bool) : State :=
  stacksUp (assignEndpoints { gaveWay s with ctrl := bootController s b } (fun _ => true))
theorem haltedBoot_keeps {α : Type} (f : State → α)
    (log : ∀ (u : State) l o, f { u with ctrl := { u.ctrl with log := l, overwritten := o } } = f u)
    (halt : ∀ u : State, f { u with ctrl := { u.ctrl with halted := true } } = f u) : f (haltedBoot s) = f (gaveWay s) := by
  rw [haltedBoot, logEvent_keeps f log, halt]
theorem haltedBoot_halted : (haltedBoot s).ctrl.halted = true :=
  logEvent_keeps (fun u => u.ctrl.halted) (fun _ _ _ => rfl) _ 1 0 0
theorem haltedBoot_logged : ∃ r ∈ (haltedBoot s).ctrl.log, r.code = 1#16 :=
  ⟨_, State.mem_logEvent_log .., rfl⟩
theorem bootedTo_ctrl (b : Bool) : (bootedTo s b).ctrl =
    (assignEndpoints { gaveWay s with ctrl := bootController s b } (fun _ => true)).ctrl :=
  stacksUp_keeps State.ctrl (fun _ _ _ => rfl) _
theorem bootedTo_attempted {b : Bool} (pending : s.ctrl.pending = some b) (fresh : s.ctrl.attempted = false) :
    (bootedTo s b).ctrl.attempted = true := by
  have failed : bootFailed s = false := by simp [bootFailed, fresh]
  rw [bootedTo_ctrl]
  change ((gaveWay s).ctrl.pending == some b) = true
  rw [gaveWay_pending, failed, pending]
  exact beq_self_eq_true _

/-- Power-up: the module halts, or boots the slot that was picked. -/
theorem powerUp_leaves : ∃ t, exec .powerUp s = .next t ∧ t.ctrl.seq = s.ctrl.seq ∧ t.mem = [] ∧ t.threads = [] ∧ t.tasks = [] ∧
    t.clusters = [] ∧ t.ctrl.slotA = s.ctrl.slotA ∧ t.ctrl.slotB = s.ctrl.slotB ∧ t.ctrl.minSvn = s.ctrl.minSvn ∧
    (picked s = none ∧ t = haltedBoot s ∨ ∃ b, picked s = some b ∧ t = bootedTo s b) := by
  obtain ⟨slotA, slotB, minSvn, seq⟩ := gaveWay_slots (s := s)
  obtain ⟨mem, threads, tasks, clusters, -⟩ := gaveWay_blank (s := s)
  cases boots : picked s with
  | none =>
    have whole : exec .powerUp s = .next (haltedBoot s) := by
      rw [exec_powerUp, boots]
      rfl
    refine ⟨_, whole, ?_, ?_, ?_, ?_, ?_, ?_, ?_, ?_, .inl ⟨rfl, rfl⟩⟩
    · exact (haltedBoot_keeps (fun u => u.ctrl.seq) (fun _ _ _ => rfl) fun _ => rfl).trans seq
    · exact (haltedBoot_keeps State.mem (fun _ _ _ => rfl) fun _ => rfl).trans mem
    · exact (haltedBoot_keeps State.threads (fun _ _ _ => rfl) fun _ => rfl).trans threads
    · exact (haltedBoot_keeps State.tasks (fun _ _ _ => rfl) fun _ => rfl).trans tasks
    · exact (haltedBoot_keeps State.clusters (fun _ _ _ => rfl) fun _ => rfl).trans clusters
    · exact (haltedBoot_keeps (fun u => u.ctrl.slotA) (fun _ _ _ => rfl) fun _ => rfl).trans slotA
    · exact (haltedBoot_keeps (fun u => u.ctrl.slotB) (fun _ _ _ => rfl) fun _ => rfl).trans slotB
    · exact (haltedBoot_keeps (fun u => u.ctrl.minSvn) (fun _ _ _ => rfl) fun _ => rfl).trans minSvn
  | some b =>
    have whole : exec .powerUp s = .next (bootedTo s b) := by
      rw [exec_powerUp, boots]
      rfl
    have ctrl := bootedTo_ctrl (s := s) b
    refine ⟨_, whole, ?_, ?_, ?_, ?_, ?_, ?_, ?_, ?_, .inr ⟨b, rfl, rfl⟩⟩
    · rw [ctrl]; exact seq
    · exact (stacksUp_keeps State.mem (fun _ _ _ => rfl) _).trans mem
    · exact (stacksUp_keeps State.threads (fun _ _ _ => rfl) _).trans threads
    · exact (stacksUp_keeps State.tasks (fun _ _ _ => rfl) _).trans tasks
    · exact (stacksUp_keeps State.clusters (fun _ _ _ => rfl) _).trans clusters
    · rw [ctrl]; exact slotA
    · rw [ctrl]; exact slotB
    · rw [ctrl]; exact minSvn
theorem bootedTo_runs (b : Bool) : (bootedTo s b).ctrl.halted = false ∧ (bootedTo s b).ctrl.active = some b ∧
    ∀ k, k < 8 → ((bootedTo s b).stack k).up = true := by
  refine ⟨?_, ?_, fun k low => stacksUp_up _ 8 low⟩
  · rw [bootedTo_ctrl]
    exact gaveWay_blank.2.2.2.2
  · rw [bootedTo_ctrl]
    rfl

/-! ### The staggered start and the sensors -/

/-- The cycle from which the staggered start counts. -/
def State.startAt (s : State) : Nat := if s.ctrl.next = 0 then s.now else s.ctrl.bootAt
/-- The controller that has counted the next cluster as ready. -/
def readyNext (s : State) : Controller := { s.ctrl with next := s.ctrl.next + 1, bootAt := s.startAt }
/-- The state in which the next cluster is up. -/
def nextUp (s : State) : State :=
  s.setCluster s.ctrl.next { s.cluster s.ctrl.next with up := true, readyAt := s.now, idleSince := s.now }
theorem nextUp_up (s : State) : ((nextUp s).cluster s.ctrl.next).up = true :=
  congrArg Cluster.up (State.cluster_setCluster_self ..)
/-- The controller of a module all of whose clusters are up. -/
def allUp (s : State) : Controller :=
  { readyNext s with
    ready := true, minSvn := max (readyNext s).minSvn (((readyNext s).image.map (fun m => m.svn)).getD 0)
    attempted := (readyNext s).attempted && !decide (s.now ≤ bootLimit) }
theorem exec_clusterReady (active : s.ctrl.active ≠ none) (runs : s.ctrl.halted = false) (more : s.ctrl.next < 384)
    (due : s.startAt + 2200 * s.ctrl.next ≤ s.now) : exec .clusterReady s = .next (if s.ctrl.next = 383 then
      ({ nextUp s with ctrl := allUp s } : State).logEvent 2 0 0 else { nextUp s with ctrl := readyNext s }) := by
  change execClusterReady s = _
  unfold execClusterReady
  extract_lets c n start u c'
  have go : (c.active.isNone || c.halted || decide (384 ≤ n) || decide (s.now < start + clusterGap * n)) = false := by
    have later : ¬s.now < start + clusterGap * n := Nat.not_lt.2 due
    have some : c.active.isNone = false := by
      rw [Option.isNone_eq_false_iff]
      exact Option.ne_none_iff_isSome.1 active
    rw [some, runs, decide_eq_false (Nat.not_le.2 more), decide_eq_false later]
    rfl
  rw [go, if_neg Bool.false_ne_true]
  by_cases last : n = 383
  · rw [if_pos last, if_pos last]
    rfl
  · rw [if_neg last, if_neg last]
    rfl

variable {j : List Nat} {a b n : Nat} {ok : Bool} {rest : List Input}
/-- The state in which a reading of the sensors is taken. -/
def sensed (s : State) (rest : List Input) (j : List Nat) (a b : Nat) (ok : Bool) (n : Nat) : State :=
  { s with
    inbox := rest
    ctrl := { s.ctrl with
      sampleAt := s.now, lastSample := some (j, a, b, ok, n)
      watts := (s.ctrl.watts ++ [n]).drop (s.ctrl.watts.length + 1 - averageSpan) } }
/-- The state in which the module no longer runs. -/
def State.stopped (u : State) : State := { u with ctrl := { u.ctrl with halted := true } }
theorem State.stopped_ctrl (u : State) : u.stopped.ctrl.halted = true ∧ u.stopped.ctrl.log = u.ctrl.log := ⟨rfl, rfl⟩
/-- The state in which the module shuts down. -/
def shutDown (u : State) : State := (u.logEvent 7 0 0).stopped
/-- The state in which the consumption over the limit is logged. -/
def overLimit (u : State) : State := ({ u with ctrl := { u.ctrl with overAt := u.now } } : State).logEvent 8 0 0
theorem shutDown_keeps {α : Type} (f : State → α)
    (log : ∀ (u : State) l o, f { u with ctrl := { u.ctrl with log := l, overwritten := o } } = f u)
    (halt : ∀ u : State, f u.stopped = f u) (u : State) : f (shutDown u) = f u := by
  rw [shutDown, halt, logEvent_keeps f log]
theorem overLimit_keeps {α : Type} (f : State → α)
    (log : ∀ (u : State) l o, f { u with ctrl := { u.ctrl with log := l, overwritten := o } } = f u)
    (noted : ∀ (u : State) k, f { u with ctrl := { u.ctrl with overAt := k } } = f u) (u : State) : f (overLimit u) = f u := by
  rw [overLimit, logEvent_keeps f log, noted]
theorem exec_sensorSample (taken : s.inbox = .sample j a b ok n :: rest) (active : s.ctrl.active ≠ none)
    (runs : s.ctrl.halted = false) (due : s.ctrl.sampleAt + 110000 ≤ s.now) :
    (((∃ x ∈ j, 105 ≤ x) ∨ ok = false) ∧ exec .sensorSample s = .next (shutDown (sensed s rest j a b ok n))) ∨
    (¬((∃ x ∈ j, 105 ≤ x) ∨ ok = false) ∧ (exec .sensorSample s = .next (overLimit (sensed s rest j a b ok n)) ∨
      exec .sensorSample s = .next (sensed s rest j a b ok n))) := by
  have request : s.request = some (.sample j a b ok n, { s with inbox := rest }) := by
    rw [State.request, taken]
  have some : s.ctrl.active.isNone = false := by
    rw [Option.isNone_eq_false_iff]
    exact Option.ne_none_iff_isSome.1 active
  have go : (s.ctrl.active.isNone || s.ctrl.halted || decide (s.now < s.ctrl.sampleAt + sampleGap)) = false := by
    have later : ¬s.now < s.ctrl.sampleAt + sampleGap := Nat.not_lt.2 due
    rw [some, runs, decide_eq_false later]
    rfl
  have hot : (j.any (fun t => decide (105 ≤ t)) || !ok) = true ↔ (∃ x ∈ j, 105 ≤ x) ∨ ok = false := by simp
  change _ ∧ execSensorSample s = _ ∨ _ ∧ (execSensorSample s = _ ∨ execSensorSample s = _)
  unfold execSensorSample
  rw [request]
  dsimp only
  rw [go, if_neg Bool.false_ne_true]
  by_cases stops : (∃ x ∈ j, 105 ≤ x) ∨ ok = false
  · rw [if_pos (hot.2 stops)]
    exact .inl ⟨stops, rfl⟩
  · rw [if_neg (fun h => stops (hot.1 h))]
    refine .inr ⟨stops, ?_⟩
    split
    · exact .inl rfl
    · exact .inr rfl
/-- A reading of the sensors. -/
theorem sample_taken (taken : s.inbox = .sample j a b ok n :: rest) (active : s.ctrl.active ≠ none)
    (runs : s.ctrl.halted = false) (due : s.ctrl.sampleAt + 110000 ≤ s.now) : ∃ t, exec .sensorSample s = .next t ∧
    t.ctrl.lastSample = some (j, a, b, ok, n) ∧ t.inbox = rest ∧ t.mem = s.mem ∧ t.threads = s.threads ∧
    (t.ctrl.halted = true ↔ (∃ x ∈ j, 105 ≤ x) ∨ ok = false) ∧
    (t.ctrl.halted = true → ∃ r, t.ctrl.log.getLast? = some r ∧ r.code = 7#16) := by
  obtain ⟨stops, whole⟩ | ⟨goes, whole | whole⟩ := exec_sensorSample taken active runs due
  · refine ⟨_, whole, shutDown_keeps (fun u => u.ctrl.lastSample) (fun _ _ _ => rfl) (fun _ => rfl) _,
      shutDown_keeps State.inbox (fun _ _ _ => rfl) (fun _ => rfl) _,
      shutDown_keeps State.mem (fun _ _ _ => rfl) (fun _ => rfl) _,
      shutDown_keeps State.threads (fun _ _ _ => rfl) (fun _ => rfl) _, ⟨fun _ => stops, fun _ => (State.stopped_ctrl _).1⟩,
      fun _ => ⟨_, (congrArg List.getLast? (State.stopped_ctrl _).2).trans (log_getLast ..), rfl⟩⟩
  · have still : (overLimit (sensed s rest j a b ok n)).ctrl.halted = false :=
      (overLimit_keeps (fun u => u.ctrl.halted) (fun _ _ _ => rfl) (fun _ _ => rfl) _).trans runs
    exact ⟨_, whole, overLimit_keeps (fun u => u.ctrl.lastSample) (fun _ _ _ => rfl) (fun _ _ => rfl) _,
      overLimit_keeps State.inbox (fun _ _ _ => rfl) (fun _ _ => rfl) _,
      overLimit_keeps State.mem (fun _ _ _ => rfl) (fun _ _ => rfl) _,
      overLimit_keeps State.threads (fun _ _ _ => rfl) (fun _ _ => rfl) _,
      ⟨fun halted => absurd (halted.symm.trans still) nofun, fun stops => absurd stops goes⟩,
      fun halted => absurd (halted.symm.trans still) nofun⟩
  · exact ⟨_, whole, rfl, rfl, rfl, rfl,
      ⟨fun halted => absurd (halted.symm.trans runs) nofun, fun stops => absurd stops goes⟩,
      fun halted => absurd (halted.symm.trans runs) nofun⟩

end

/-! ### Requests that read, and the host's -/

section
variable {s v : State} {rest : List Input} {q : Mgmt} {p win n : Nat} {off : Word} {l : List (Nat × Nat × Nat)}

theorem request_of {i : Input} (first : s.inbox = i :: rest) : s.request = some (i, { s with inbox := rest }) := by
  rw [State.request, first]
theorem exec_attest_unknown {nonce : BitVec 512} (first : s.inbox = .attest q nonce :: rest)
    (unknown : s.ctrl.knows q = false) : exec .attest s = .next (({ s with inbox := rest } : State).refuse 0) := by
  change execAttest s = _
  unfold execAttest
  rw [request_of first]
  dsimp only
  rw [unknown]
theorem exec_attest_known {nonce : BitVec 512} {b : Bool} {m : FlashImage} (first : s.inbox = .attest q nonce :: rest)
    (known : s.ctrl.knows q = true) (active : s.ctrl.active = some b) (image : s.ctrl.image = some m) : ∃ sig,
    exec .attest s = .next (({ s with inbox := rest } : State).reply (.attest nonce b m.version m.svn s.ctrl.meas s.ctrl.layout sig)) := by
  change ∃ sig, execAttest s = _
  unfold execAttest
  rw [request_of first]
  dsimp only
  rw [known, active, image]
  exact ⟨_, rfl⟩
theorem exec_counterRead {u : CounterUnit} (first : s.inbox = .counters q u :: rest) : exec .counterRead s =
    if !s.ctrl.knows q || !u.exists' then .next (({ s with inbox := rest } : State).refuse (u.part { s with inbox := rest }))
    else .next (({ s with inbox := rest } : State).reply (.counters (s.snapshot u))) := by
  change execCounterRead s = _
  unfold execCounterRead
  rw [request_of first]
  cases u <;> rfl
theorem hostPieces_sameButTlb (s : State) (p win : Nat) (off : Word) (n : Nat) (u : HostUse) :
    sameButTlb s (hostPieces s p win off n u).2 := by
  unfold hostPieces
  dsimp only
  split
  · exact sameButTlb_refl s
  · have walked := s.xlateRange_sameButTlb p 0 (vaOf (Tab.get {} (s.part p).windows win).base + off.toNat) n (u != .read) true
    split
    · next e => rwa [e] at walked
    · next e => rwa [e] at walked
theorem hostPieces_keys {u : HostUse} (pieces : hostPieces s p win off n u = (some l, v)) : ∀ y ∈ l, 2 ^ 40 ≤ y.1 := by
  unfold hostPieces at pieces
  dsimp only at pieces
  split at pieces
  · cases pieces
  · split at pieces
    · next e =>
      cases pieces
      exact State.xlateRange_keys e
    · cases pieces

/-- A host request that is refused performs nothing and is counted. -/
theorem refuseHost_counted (same : sameButTlb { s with inbox := rest } v) : ∃ t, refuseHost v p = .next t ∧ t.mem = s.mem ∧
    t.outbox = s.outbox ++ [.hostError] ∧ (t.part p).stat = bump (s.part p).stat pRefusedReq 1 := by
  have part : v.part p = s.part p := same.keeps (fun s => s.part p) fun _ _ => rfl
  have out : v.outbox = s.outbox := same.keeps State.outbox fun _ _ => rfl
  refine ⟨_, rfl, same.mem, ?_, ?_⟩
  · rw [← out]
    rfl
  · rw [← part]
    exact congrArg Part.stat (State.part_setPart_self v p { v.part p with stat := bump (v.part p).stat pRefusedReq 1 })

theorem exec_hostRead (first : s.inbox = .hostRead p win off n :: rest) : exec .hostRead s =
    match hostPieces { s with inbox := rest } p win off n .read with
    | (some l, v) => .next (v.reply (.hostData ((l.map (fun x => v.bytesAt x.1 x.2.2)).flatten)))
    | (none, v) => refuseHost v p := by
  change execHostRead s = _
  unfold execHostRead
  rw [request_of first] <;> rfl
theorem exec_hostWrite {data : List Byte} (first : s.inbox = .hostWrite p win off data :: rest) : exec .hostWrite s =
    match hostPieces { s with inbox := rest } p win off data.length .write with
    | (some l, v) => .next ((hostStore v l data).reply .hostDone)
    | (none, v) => refuseHost v p := by
  change execHostWrite s = _
  unfold execHostWrite
  rw [request_of first] <;> rfl

theorem hostStore_one {k : Nat} (v : State) (data : List Byte) : hostStore v [(k, 0, data.length)] data =
    v.writeAt hostHart k data := by
  rw [hostStore, List.foldl_cons, List.foldl_nil, List.drop_zero, List.take_length]
/-- A host write of one piece: its bytes, and every other byte of plain memory. -/
theorem hostStore_bytes {k : Nat} {data : List Byte} (same : sameButTlb { s with inbox := rest } v) (high : 2 ^ 40 ≤ k)
    (plain : ∀ i, i < data.length → plainKey (k + i) = true) :
    (v.writeAt hostHart k data).bytesAt k data.length = data ∧
      ∀ a, plainKey a = true → a < k ∨ k + data.length ≤ a → (v.writeAt hostHart k data).byteAt a = s.byteAt a := by
  have mem : v.mem = s.mem := same.mem
  refine ⟨?_, fun a other outside => ?_⟩
  · cases data with
    | nil => rfl
    | cons x r =>
      have whole := State.bytesAt_writeAt_mid v hostHart (k := k) [] (x :: r) [] (by simpa using plain) (Nat.succ_pos _)
      rw [List.nil_append, List.append_nil] at whole
      exact whole
  · exact (writeAt_high_outside v hostHart high data other outside).trans (State.byteAt_congr_plain mem other)

theorem exec_countedWrite {data : List Byte} {hdr : Word} (first : s.inbox = .counted p win off data hdr :: rest) :
    exec .countedWrite s =
    if !(isOA hdr && s.dieIn p (oaDie hdr.toNat) && oaSpace hdr.toNat == some .counter && oaOff hdr.toNat % 8 == 0) then
      refuseHost { s with inbox := rest } p
    else match hostPieces { s with inbox := rest } p win off data.length .counted with
      | (some l, v) => .next ((countUp ((hostStore v l data).noteLines (oaCl hdr.toNat) [lineOf hdr.toNat] hostHart)
          (oaCl hdr.toNat) (oaOff hdr.toNat / 8)).reply .hostDone)
      | (none, v) => refuseHost v p := by
  change execCountedWrite s = _
  unfold execCountedWrite
  rw [request_of first]
  rfl
theorem hostStore_counters {data : List Byte} (v : State) (plain : ∀ y ∈ l, ∀ i, i < y.2.2 → plainKey (y.1 + i) = true) :
    sameCounters v (hostStore v l data) := by
  induction l generalizing v with
  | nil => exact sameCounters_refl v
  | cons y r ih =>
    refine sameCounters_trans (sameCounters_writeAt v hostHart fun i inside => plain y List.mem_cons_self i ?_)
      (ih _ fun z there => plain z (List.mem_cons_of_mem _ there))
    rw [List.length_take] at inside
    omega
theorem exec_unsupported (first : s.inbox = .unsupported p :: rest) : exec .unsupportedOperation s =
    .next ((({ s with inbox := rest } : State).countPart p pRefusedReq).reply .unsupportedError) := by
  change execUnsupportedOperation s = _
  unfold execUnsupportedOperation
  rw [request_of first]
/-- The state in which an abandoned packet is gone. -/
def State.abandon (s : State) (id : Nat) : State := { s with net := s.net.filter (fun m => !(m.id == id && m.outside)) }
theorem exec_transport {id : Nat} (first : s.inbox = .transport p id :: rest) : exec .transportFailure s =
    .next (((({ s with inbox := rest } : State).abandon id).countPart p pTransport).logEvent 9 p 0) := by
  change execTransportFailure s = _
  unfold execTransportFailure
  rw [request_of first]
  rfl

end

end Sys2Proof.Machine
end

section
open Sys2Proof Sys2Proof.Machine

/-- Settles O59: power-up picks a slot or halts, a cluster that is due comes up, a reading at a limit shuts the module down, and a
request of the host is its pieces, each written or read in turn, or is counted. -/
theorem powerBootAndHost : Obligations.PowerBootAndHost := by
  unfold Obligations.PowerBootAndHost
  refine ⟨fun s => ⟨?_, ?_, ?_⟩, fun s rest q nonce u p win n off hdr data l v => ?_⟩
  · obtain ⟨t, whole, seq, mem, threads, tasks, clusters, slotA, slotB, minSvn, ends⟩ := powerUp_leaves (s := s)
    refine ⟨t, whole, seq, mem, threads, tasks, clusters, slotA, slotB, minSvn, ?_⟩
    obtain ⟨none, rfl⟩ | ⟨b, boots, rfl⟩ := ends
    · refine ⟨⟨fun _ => picked_none.1 none, fun _ => haltedBoot_halted⟩, fun _ => haltedBoot_logged, fun runs => ?_⟩
      exact absurd (haltedBoot_halted.symm.trans runs) nofun
    · obtain ⟨runs, active, up⟩ := bootedTo_runs (s := s) b
      refine ⟨⟨fun halted => absurd (halted.symm.trans runs) nofun, fun invalid => ?_⟩,
        fun halted => absurd (halted.symm.trans runs) nofun, fun _ => ⟨b, active, picked_valid boots, up,
          bootedTo_attempted, fun pending => picked_higher pending boots⟩⟩
      exact absurd (boots.symm.trans (picked_none.2 invalid)) nofun
  · intro active runs more due
    have whole := exec_clusterReady active runs more due
    by_cases last : s.ctrl.next = 383
    · rw [if_pos last] at whole
      refine ⟨_, whole, ?_, logEvent_keeps (fun u => u.ctrl.next) (fun _ _ _ => rfl) _ 2 0 0, fun _ =>
        logEvent_keeps (fun u => u.ctrl.ready) (fun _ _ _ => rfl) _ 2 0 0, fun less => by omega⟩
      refine (logEvent_keeps (fun u => (u.cluster s.ctrl.next).up) (fun _ _ _ => rfl) _ 2 0 0).trans ?_
      exact nextUp_up s
    · rw [if_neg last] at whole
      exact ⟨_, whole, nextUp_up s, rfl, fun here => absurd here last, fun _ => rfl⟩
  · intro j a b ok n rest taken active runs due
    exact sample_taken taken active runs due
  · intro x oa good refused
    have refuses {w : State} (same : sameButTlb x w) {i : Instr} (whole : exec i s = refuseHost w p) : refused i := by
      obtain ⟨t, next, leaves⟩ := refuseHost_counted (p := p) same
      exact ⟨t, whole.trans next, leaves⟩
    refine ⟨fun first => ⟨exec_attest_unknown first, fun b m => exec_attest_known first⟩, fun first => ⟨?_, ?_⟩,
      fun first => ⟨?_, ?_⟩, fun first => ⟨?_, ?_⟩, fun first => ⟨?_, ?_⟩, fun first => ?_, fun first => ?_⟩
    · intro known some
      exact (exec_counterRead first).trans (if_neg (by simp [known, some]))
    · intro bad
      refine (exec_counterRead first).trans (if_pos ?_)
      obtain unknown | none := bad
      · rw [unknown]
        rfl
      · rw [none]
        exact Bool.or_true _
    · intro pieces
      rw [exec_hostRead first, pieces]
    · intro none
      have same := hostPieces_sameButTlb x p win off n .read
      rw [none] at same
      exact refuses same (by rw [exec_hostRead first, none])
    · intro pieces
      have same := hostPieces_sameButTlb x p win off data.length .write
      rw [pieces] at same
      refine ⟨hostStore v l data, by rw [exec_hostWrite first, pieces], fun k one plain => ?_⟩
      have high := hostPieces_keys pieces
      subst one
      rw [hostStore_one]
      exact hostStore_bytes same (high _ List.mem_cons_self) plain
    · intro none
      have same := hostPieces_sameButTlb x p win off data.length .write
      rw [none] at same
      exact refuses same (by rw [exec_hostWrite first, none])
    · intro isGood pieces plain
      have same := hostPieces_sameButTlb x p win off data.length .counted
      rw [pieces] at same
      obtain ⟨onChip, mine, counter, align⟩ := isGood
      refine ⟨countUp ((hostStore v l data).noteLines (oaCl oa) [lineOf oa] hostHart) (oaCl oa) (oaOff oa / 8), ?_, ?_⟩
      · refine (exec_countedWrite first).trans ((if_neg ?_).trans ?_)
        · have align : oaOff hdr.toNat % 8 = 0 := align
          rw [onChip, mine, counter, align]
          decide
        · rw [pieces]
      · rw [counter_countUp]
        have kept : ((hostStore v l data).cluster (oaCl oa)).counter (oaOff oa / 8) =
            (v.cluster (oaCl oa)).counter (oaOff oa / 8) := hostStore_counters v plain (oaCl oa) (oaOff oa / 8)
        have clusters : v.clusters = s.clusters := same.keeps State.clusters fun _ _ => rfl
        have before : (v.cluster (oaCl oa)).counter (oaOff oa / 8) = (s.cluster (oaCl oa)).counter (oaOff oa / 8) := by
          rw [State.cluster, clusters]
          rfl
        exact congrArg (· + 1) (kept.trans before)
    · intro bad
      have whole := exec_countedWrite first
      by_cases isGood : good
      · obtain notGood | none := bad
        · exact absurd isGood notGood
        · have same := hostPieces_sameButTlb x p win off data.length .counted
          rw [none] at same
          obtain ⟨onChip, mine, counter, align⟩ := isGood
          have align : oaOff hdr.toNat % 8 = 0 := align
          refine refuses same (whole.trans ((if_neg ?_).trans ?_))
          · rw [onChip, mine, counter, align]
            decide
          · rw [none]
      · refine refuses (sameButTlb_refl x) (whole.trans (if_pos ?_))
        by_contra passes
        simp only [Bool.not_eq_true', Bool.not_eq_false, Bool.and_eq_true, beq_iff_eq] at passes
        obtain ⟨⟨⟨onChip, mine⟩, counter⟩, align⟩ := passes
        exact isGood ⟨onChip, mine, counter, align⟩
    · refine ⟨_, exec_unsupported first, rfl, rfl, ?_⟩
      exact congrArg Part.stat (State.part_setPart_self x p { x.part p with stat := bump (x.part p).stat pRefusedReq 1 })
    · refine ⟨_, _, exec_transport first, ?_, ?_, log_getLast .., rfl⟩
      · exact logEvent_keeps State.mem (fun _ _ _ => rfl) _ 9 p 0
      · rw [State.part_logEvent]
        exact congrArg Part.stat (State.part_setPart_self (x.abandon n) p { (x.abandon n).part p with
          stat := bump ((x.abandon n).part p).stat pTransport 1 })

end

section
/-! SUPPORT. Management requests (R23, R24, R427): which are performed, and what each leaves. -/

namespace Sys2Proof.Machine

/-! ### A configuring request -/

section
variable {s x y : State} {q : Mgmt} {p : Nat} {f : State → Option State}

/-- The state in which a configuring request has been performed: its number is the last one. -/
def State.performed (s : State) (q : Mgmt) : State :=
  ({ s with ctrl := { s.ctrl with seq := q.seq } } : State).reply .accepted
theorem configure_granted (granted : s.ctrl.grants q = true) (did : f s = some y) : configure s q p f = .next (y.performed q) := by
  unfold configure
  rw [granted, if_neg (by nofun), did]
  rfl
theorem configure_refused (refused : s.ctrl.grants q = false ∨ f s = none) : configure s q p f = .next (s.refuse p) := by
  unfold configure
  by_cases granted : s.ctrl.grants q = true
  · obtain denied | none := refused
    · exact absurd (granted.symm.trans denied) nofun
    · rw [granted, if_neg (by nofun), none]
  · rw [Bool.eq_false_iff.2 granted]
    rfl
theorem configure_cases : (∃ y, s.ctrl.grants q = true ∧ f s = some y ∧ configure s q p f = .next (y.performed q)) ∨
    configure s q p f = .next (s.refuse p) := by
  cases granted : s.ctrl.grants q with
  | false => exact .inr (configure_refused (.inl granted))
  | true =>
    cases did : f s with
    | none => exact .inr (configure_refused (.inr did))
    | some y => exact .inl ⟨y, rfl, rfl, configure_granted granted did⟩
theorem grants_spec {c : Controller} (granted : c.grants q = true) : q.verified = true ∧ c.seq.toNat < q.seq.toNat ∧
    ∃ m, c.image = some m ∧ q.sender ∈ m.operators := by
  simp only [Controller.grants, Bool.and_eq_true, decide_eq_true_eq] at granted
  obtain ⟨⟨known, verified⟩, later⟩ := granted
  refine ⟨verified, later, ?_⟩
  unfold Controller.knows at known
  split at known
  · next m image => exact ⟨m, image, by simpa using known⟩
  · cases known

/-- What a refused request leaves as it was in `s`. -/
structure unchanged (s t : State) : Prop where
  seq : t.ctrl.seq = s.ctrl.seq
  layout : t.ctrl.layout = s.ctrl.layout
  queues : t.ctrl.pqueues = s.ctrl.pqueues
  parts : t.parts = s.parts
  dies : t.dies = s.dies
  mem : t.mem = s.mem
  threads : t.threads = s.threads
  stacks' : ∀ st, ∃ l k, t.stack st = { s.stack st with tlb := l, stat := k }

/-- How a configuring request ends: performed, or refused, answered and logged. -/
def requestEnds (s t : State) (q : Mgmt) : Prop :=
  (t.outbox = s.outbox ++ [.accepted] ∧ t.ctrl.seq = q.seq ∧ q.verified = true ∧ s.ctrl.seq.toNat < q.seq.toNat ∧
    ∃ m, s.ctrl.image = some m ∧ q.sender ∈ m.operators) ∨
  (t.outbox = s.outbox ++ [.refused] ∧ unchanged s t ∧ ∃ r, t.ctrl.log.getLast? = some r ∧ r.code = 6#16)
/-- The same with what a request that is not verified leaves of the flash. -/
def requestAnswered (s t : State) (rest : List Input) (q : Mgmt) : Prop :=
  t.inbox = rest ∧ requestEnds s t q ∧
    (q.verified = false → t.outbox = s.outbox ++ [.refused] ∧ t.ctrl.slotA = s.ctrl.slotA ∧ t.ctrl.slotB = s.ctrl.slotB)

theorem refuse_keeps {α : Type} (f : State → α)
    (log : ∀ (u : State) l o, f { u with ctrl := { u.ctrl with log := l, overwritten := o } } = f u)
    (out : ∀ (u : State) o, f (u.reply o) = f u) (x : State) (p : Nat) : f (x.refuse p) = f x := by
  rw [State.refuse, out, logEvent_keeps f log]
theorem unchanged_refuse (p : Nat) (same : unchanged s x) : unchanged s (x.refuse p) where
  seq := (refuse_keeps (fun u => u.ctrl.seq) (fun _ _ _ => rfl) (fun _ _ => rfl) x p).trans same.seq
  layout := (refuse_keeps (fun u => u.ctrl.layout) (fun _ _ _ => rfl) (fun _ _ => rfl) x p).trans same.layout
  queues := (refuse_keeps (fun u => u.ctrl.pqueues) (fun _ _ _ => rfl) (fun _ _ => rfl) x p).trans same.queues
  parts := (refuse_keeps State.parts (fun _ _ _ => rfl) (fun _ _ => rfl) x p).trans same.parts
  dies := (refuse_keeps State.dies (fun _ _ _ => rfl) (fun _ _ => rfl) x p).trans same.dies
  mem := (refuse_keeps State.mem (fun _ _ _ => rfl) (fun _ _ => rfl) x p).trans same.mem
  threads := (refuse_keeps State.threads (fun _ _ _ => rfl) (fun _ _ => rfl) x p).trans same.threads
  stacks' := fun st => by
    obtain ⟨l, k, stack⟩ := same.stacks' st
    exact ⟨l, k, (refuse_keeps (fun u => u.stack st) (fun _ _ _ => rfl) (fun _ _ => rfl) x p).trans stack⟩
theorem refuse_answers (p : Nat) : (x.refuse p).outbox = x.outbox ++ [.refused] ∧ (x.refuse p).inbox = x.inbox ∧
    (x.refuse p).ctrl.slotA = x.ctrl.slotA ∧ (x.refuse p).ctrl.slotB = x.ctrl.slotB ∧
    ∃ r, (x.refuse p).ctrl.log.getLast? = some r ∧ r.code = 6#16 := by
  have out := logEvent_keeps State.outbox (fun _ _ _ => rfl) x 6 p 0
  refine ⟨?_, refuse_keeps State.inbox (fun _ _ _ => rfl) (fun _ _ => rfl) x p,
    refuse_keeps (fun u => u.ctrl.slotA) (fun _ _ _ => rfl) (fun _ _ => rfl) x p,
    refuse_keeps (fun u => u.ctrl.slotB) (fun _ _ _ => rfl) (fun _ _ => rfl) x p, _, log_getLast x 6 p 0, rfl⟩
  rw [State.refuse, State.reply, out]

/-- Every request through `configure` is answered in one of the two ways, when what it performs leaves the in- and outbox. -/
theorem configure_answers {rest : List Input} (same : sameButTlb { s with inbox := rest } x)
    (quiet : ∀ y, f x = some y → y.inbox = x.inbox ∧ y.outbox = x.outbox) : ∃ t, configure x q p f = .next t ∧
      requestAnswered s t rest q := by
  have box : x.inbox = rest := same.keeps State.inbox fun _ _ => rfl
  have out : x.outbox = s.outbox := same.keeps State.outbox fun _ _ => rfl
  have ctrl : x.ctrl = s.ctrl := same.keeps State.ctrl fun _ _ => rfl
  obtain ⟨y, granted, did, whole⟩ | whole := configure_cases (s := x) (q := q) (p := p) (f := f)
  · obtain ⟨inY, outY⟩ := quiet y did
    obtain ⟨verified, later, image⟩ := grants_spec granted
    rw [ctrl] at later image
    refine ⟨_, whole, inY.trans box, .inl ⟨?_, rfl, verified, later, image⟩, fun unverified => ?_⟩
    · rw [← out, ← outY]
      rfl
    · exact absurd (verified.symm.trans unverified) nofun
  · obtain ⟨refused, inR, slotA, slotB, logged⟩ := refuse_answers (x := x) p
    have kept : unchanged s x :=
      ⟨congrArg Controller.seq ctrl, congrArg Controller.layout ctrl, congrArg Controller.pqueues ctrl,
        same.keeps State.parts fun _ _ => rfl, same.keeps State.dies fun _ _ => rfl, same.mem,
        same.keeps State.threads fun _ _ => rfl, fun st => ⟨_, _, (same.2 st).1⟩⟩
    rw [ctrl] at slotA slotB
    rw [out] at refused
    exact ⟨_, whole, inR.trans box, .inr ⟨refused, unchanged_refuse p kept, logged⟩, fun _ => ⟨refused, slotA, slotB⟩⟩

end

/-! ### What each request performs -/

/-- A trap vector, a translation root, a window, a queue, a peer and a damper range, as declared where they keep their limits. -/
def declareVector (p : Nat) (w : Word) (s : State) : Option State :=
  if !s.hasPart p || !s.baseOk p w then none
  else some ((freshVector s p w).setPart p { (freshVector s p w).part p with tvec := w })
def declareRoot (st p : Nat) (w : Word) (s : State) : Option State :=
  if 8 ≤ st || !s.hasPart p || 2 ^ 36 ≤ w.toNat || w.toNat % 2 ^ 21 ≠ 0 then none
  else some (s.setStack st { s.stack st with
    troot := Tab.set none (s.stack st).troot p (some w.toNat), tlb := (s.stack st).tlb.filter (fun e => e.part != p) })
/-- The window that a declaration describes. -/
def windowOf (w : BitVec 256) : HostWin :=
  { v := w.getLsbD 0, rd := w.getLsbD 1, wr := w.getLsbD 2, cnt := w.getLsbD 3, base := w.extractLsb' 64 64,
    len := w.extractLsb' 128 64 }
def declareWindow (p idx : Nat) (w : BitVec 256) (s : State) : Option State :=
  if !s.hasPart p || 16 ≤ idx || w.extractLsb' 4 60 ≠ 0#60 || w.extractLsb' 192 64 ≠ 0#64 ||
      (w.getLsbD 0 && (!s.baseOk p (w.extractLsb' 64 64) || (w.extractLsb' 128 64).toNat % 64 ≠ 0)) then none
  else some (s.setPart p { s.part p with windows := Tab.set {} (s.part p).windows idx (windowOf w) })
def declareQueue (idx : Nat) (w : BitVec 256) (s : State) : Option State :=
  if 64 ≤ idx || !pqOk s w then none else some { s with ctrl := { s.ctrl with pqueues := Tab.set 0 s.ctrl.pqueues idx w } }
def declarePeer (p idx : Nat) (w : BitVec 256) (s : State) : Option State :=
  if !s.hasPart p || idx = 0 || 4096 ≤ idx || w.extractLsb' 1 15 ≠ 0#15 || w.extractLsb' 52 12 ≠ 0#12 ||
      w.extractLsb' 192 64 ≠ 0#64 || (w.getLsbD 0 && w.extractLsb' 40 12 == 0#12) then none
  else some (s.setPart p { s.part p with peers := Tab.set 0 (s.part p).peers idx w })
/-- A range declaration breaks a limit of R399. -/
def rangeBad (d : Nat) (w : BitVec 128) (s : State) : Bool :=
  4 ≤ d || w.extractLsb' 97 31 ≠ 0#31 || 65536 < (w.extractLsb' 64 16).toNat + (w.extractLsb' 80 17).toNat ||
    ((w.extractLsb' 80 17).toNat ≠ 0 && !(isVA (w.extractLsb' 0 64) && (w.extractLsb' 0 64).toNat % 64 == 0 &&
      vaStack (vaOf (w.extractLsb' 0 64)) / 2 == d)) ||
    rangeTaken s d (w.extractLsb' 64 16).toNat (w.extractLsb' 80 17).toNat ||
    65536 < ((List.range 4).filter (fun e => e != d)).foldl (fun n e => n + (s.die e).gcount) (w.extractLsb' 80 17).toNat
def declareRange (d : Nat) (w : BitVec 128) (s : State) : Option State :=
  if rangeBad d w s then none
  else some (setRange s d (w.extractLsb' 0 64) (w.extractLsb' 64 16).toNat (w.extractLsb' 80 17).toNat)
/-- A pool that may be accepted is cleared and declared. -/
def declarePool (ok : Bool) (p : Nat) (w : BitVec 128) (s : State) : Option State :=
  let y := s.writeVA grateHart p 0 (vaOf (w.extractLsb' 0 64)) (List.replicate (64 * 2 ^ (w.extractLsb' 64 5).toNat) 0)
  if ok && y.1 then some (y.2.setPart p { y.2.part p with
    pbase := w.extractLsb' 0 64, plog2 := (w.extractLsb' 64 5).toNat, pooled := true }) else none
/-- Every thread that a pre-emption request concerns is marked. -/
def concernedMarked (pt : PreTarget) (s : State) : State :=
  (s.threads.filter (fun e => kindOf e.1 == .core && e.2.live && pt.concerns e.1 e.2.cont)).foldl (fun s e => markThread s e.1)
      s
def markConcerned (pt : PreTarget) (s : State) : Option State := some (concernedMarked pt s)
/-- The check of a pool declaration, made only where the request is granted. -/
def poolChecked (s : State) (q : Mgmt) (p : Nat) (w : BitVec 128) : Bool × State :=
  if s.ctrl.grants q then poolOk s p w else (false, s)

section
variable {s : State} {q : Mgmt} {p st idx d : Nat} {w : Word} {f : BitVec 256} {h : BitVec 128} {l : List (List Nat)}
  {pt : PreTarget} {rest : List Input}

theorem exec_trapVector (first : s.inbox = .trapVector q p w :: rest) : exec .trapVectorDeclare s =
    configure { s with inbox := rest } q p (declareVector p w) := by
  change execTrapVectorDeclare s = _
  unfold execTrapVectorDeclare
  rw [request_of first]
  rfl
theorem exec_root (first : s.inbox = .root q st p w :: rest) : exec .translationRootDeclare s =
    configure { s with inbox := rest } q p (declareRoot st p w) := by
  change execTranslationRootDeclare s = _
  unfold execTranslationRootDeclare
  rw [request_of first]
  rfl
theorem exec_window (first : s.inbox = .window q p idx f :: rest) : exec .hostWindowDeclare s =
    configure { s with inbox := rest } q p (declareWindow p idx f) := by
  change execHostWindowDeclare s = _
  unfold execHostWindowDeclare
  rw [request_of first]
  rfl
theorem exec_partQueue (first : s.inbox = .partQueue q idx f :: rest) : exec .partitionQueueDeclare s =
    configure { s with inbox := rest } q (pqProd f) (declareQueue idx f) := by
  change execPartitionQueueDeclare s = _
  unfold execPartitionQueueDeclare
  rw [request_of first]
  rfl
theorem exec_peer (first : s.inbox = .peer q p idx f :: rest) : exec .peerTableWrite s =
    configure { s with inbox := rest } q p (declarePeer p idx f) := by
  change execPeerTableWrite s = _
  unfold execPeerTableWrite
  rw [request_of first]
  rfl
theorem exec_damperRange (first : s.inbox = .damperRange q d h :: rest) : exec .damperRangeDeclare s =
    configure { s with inbox := rest } q (({ s with inbox := rest } : State).partOfDie d) (declareRange d h) := by
  change execDamperRangeDeclare s = _
  unfold execDamperRangeDeclare
  rw [request_of first]
  rfl
theorem exec_recordPool (first : s.inbox = .recordPool q p h :: rest) : exec .recordPoolDeclare s =
    configure (poolChecked { s with inbox := rest } q p h).2 q p
      (declarePool (poolChecked { s with inbox := rest } q p h).1 p h) := by
  change execRecordPoolDeclare s = _
  unfold execRecordPoolDeclare
  rw [request_of first]
  rfl
theorem exec_layout (first : s.inbox = .layout q l :: rest) : exec .partitionLayout s =
    configure { s with inbox := rest } q 0 (fun u => changeLayout u l) := by
  change execPartitionLayout s = _
  unfold execPartitionLayout
  rw [request_of first]
theorem exec_preempt (first : s.inbox = .preempt q pt :: rest) : exec .preemptRequest s =
    configure { s with inbox := rest } q (pt.part { s with inbox := rest }) (markConcerned pt) := by
  change execPreemptRequest s = _
  unfold execPreemptRequest
  rw [request_of first]
  rfl

end

/-! ### A layout change -/

/-- The partition of a layout that die `d` stands in, and the dies that a change of layout moves. -/
def placeOf (lay : List (List Nat)) (d : Nat) : Nat := lay.findIdx (fun x => x.contains d)
def movingDies (s : State) (l : List (List Nat)) : List Nat :=
  (List.range 4).filter (fun d => placeOf s.ctrl.layout d != placeOf l d)
/-- The state in which the dampers of the dies that move are settled and what they share with others is void. -/
def diesSettled (s : State) (l : List (List Nat)) : State := clearShared ((movingDies s l).foldl settleDamper s) l
/-- The state in which the new layout stands and those dies are reset. -/
def diesReset (s : State) (l : List (List Nat)) : State :=
  (movingDies s l).foldl resetDie { diesSettled s l with ctrl := { (diesSettled s l).ctrl with layout := l } }
/-- The state in which their ranges are withdrawn where they meet another. -/
def rangesSettled (s : State) (l : List (List Nat)) : State := (movingDies s l).foldl settleRange (diesReset s l)
def layoutChanged (s : State) (l : List (List Nat)) : State :=
  (assignEndpoints (rangesSettled s l) (fun p => !samePart (diesSettled s l).ctrl.layout l p)).logEvent 5 0 0
theorem changeLayout_eq (s : State) (l : List (List Nat)) : changeLayout s l =
    if !layoutOk l then none else if (movingDies s l).any (stays s) then none else some (layoutChanged s l) := rfl

section
variable {α : Type} (f : State → α)

/-- What only memory, thread sets, stacks, groups and dies do not touch stays while dampers settle. -/
theorem settleDamper_keeps (wrote : ∀ u d w b, f (damperWrite u d w b) = f u)
    (groups : ∀ (u : State) g, f { u with groups := g } = f u) (dies : ∀ (u : State) d, f { u with dies := d } = f u)
    (s : State) (d : Nat) : f (settleDamper s d) = f s := by
  have back (u : State) (k : Nat) : f (writeBack u k) = f u := wrote ..
  have kept (u : State) (k : Nat) (g : Group) : f (keepGroup u k g) = f u := (back ..).trans (groups ..)
  have zeroed (u : State) (k : Nat) : f (zeroHalf u k) = f u := (wrote ..).trans (groups ..)
  have finished (u : State) (k : Nat) : f (finishClosure u k) = f u := by
    unfold finishClosure
    extract_lets g v x n
    have before : f v = f u := (kept ..).trans (zeroed ..)
    split
    · exact before
    · exact (dies ..).trans ((groups ..).trans before)
  refine foldl_keeps _ f _ _ fun u g => ?_
  dsimp only
  split
  · exact (finished ..).trans ((groups ..).trans (back ..))
  · exact back ..
theorem resetDie_keeps (clusters : ∀ (u : State) c, f { u with clusters := c } = f u)
    (rest : ∀ (u : State) m c j, f { u with mem := m, cores := c, jobs := j } = f u)
    (dram : ∀ (u : State) d, f { u with dram := d } = f u) (s : State) (d : Nat) : f (resetDie s d) = f s := by
  unfold resetDie
  extract_lets u clear free v w
  have counted : f u = f s := foldl_keeps _ f _ _ fun u c => by
    split
    · exact clusters ..
    · rfl
  have cleared : f v = f u := rest ..
  have set : f w = f v := foldl_keeps _ f _ _ fun u i => clusters ..
  exact (foldl_keeps _ f _ _ fun u st => dram ..).trans (set.trans (cleared.trans counted))
theorem settleRange_keeps (groups : ∀ (u : State) g, f { u with groups := g } = f u)
    (dies : ∀ (u : State) d, f { u with dies := d } = f u) (s : State) (d : Nat) : f (settleRange s d) = f s := by
  unfold settleRange
  split
  · exact (dies ..).trans (groups ..)
  · rfl

end

theorem clearShared_keeps {α : Type} (f : State → α) (shared : ∀ (u : State) p c, f { u with parts := p, ctrl := c } = f u)
    (s : State) (l : List (List Nat)) : f (clearShared s l) = f s := shared ..
theorem assignEndpoints_keeps {α : Type} (f : State → α) (named : ∀ (u : State) n c, f { u with fresh := n, ctrl := c } = f u)
    (s : State) (new : Nat → Bool) : f (assignEndpoints s new) = f s := named ..
/-- A change of layout touches nothing beyond these. -/
theorem layoutChanged_keeps {α : Type} (f : State → α)
    (free : ∀ (u : State) n m x c k d j e p g r, f { u with
      fresh := n, mem := m, threads := x, clusters := c, cores := k, dram := d, jobs := j, dies := e, parts := p, groups := g,
      ctrl := r } = f u) (s : State) (l : List (List Nat)) : f (layoutChanged s l) = f s := by
  have settled : f (diesSettled s l) = f s := by
    refine (clearShared_keeps f (fun u p c => free u u.fresh u.mem u.threads u.clusters u.cores u.dram u.jobs u.dies p u.groups c)
      _ _).trans (foldl_keeps _ f _ _ fun u d => settleDamper_keeps f ?_ ?_ ?_ u d)
    · exact fun u e w b => (bytesOnly_writeVA ..).keeps f fun u x m d =>
        free u u.fresh m x u.clusters u.cores d u.jobs u.dies u.parts u.groups u.ctrl
    · exact fun u g => free u u.fresh u.mem u.threads u.clusters u.cores u.dram u.jobs u.dies u.parts g u.ctrl
    · exact fun u e => free u u.fresh u.mem u.threads u.clusters u.cores u.dram u.jobs e u.parts u.groups u.ctrl
  have reset : f (diesReset s l) = f (diesSettled s l) := by
    refine (foldl_keeps _ f _ _ fun u d => resetDie_keeps f ?_ ?_ ?_ u d).trans ?_
    · exact fun u c => free u u.fresh u.mem u.threads c u.cores u.dram u.jobs u.dies u.parts u.groups u.ctrl
    · exact fun u m c j => free u u.fresh m u.threads u.clusters c u.dram j u.dies u.parts u.groups u.ctrl
    · exact fun u d => free u u.fresh u.mem u.threads u.clusters u.cores d u.jobs u.dies u.parts u.groups u.ctrl
    · generalize diesSettled s l = u
      exact free u u.fresh u.mem u.threads u.clusters u.cores u.dram u.jobs u.dies u.parts u.groups { u.ctrl with layout := l }
  have ranges : f (rangesSettled s l) = f (diesReset s l) := by
    refine foldl_keeps _ f _ _ fun u d => settleRange_keeps f ?_ ?_ u d
    · exact fun u g => free u u.fresh u.mem u.threads u.clusters u.cores u.dram u.jobs u.dies u.parts g u.ctrl
    · exact fun u e => free u u.fresh u.mem u.threads u.clusters u.cores u.dram u.jobs e u.parts u.groups u.ctrl
  have named := assignEndpoints_keeps f (fun u n c => free u n u.mem u.threads u.clusters u.cores u.dram u.jobs u.dies u.parts
    u.groups c) (rangesSettled s l) (fun p => !samePart (diesSettled s l).ctrl.layout l p)
  exact (logEvent_keeps f (fun u a o => free u u.fresh u.mem u.threads u.clusters u.cores u.dram u.jobs u.dies u.parts u.groups
    { u.ctrl with log := a, overwritten := o }) _ 5 0 0).trans (named.trans (ranges.trans (reset.trans settled)))

/-! ### Each request is answered -/

theorem freshVector_bytesOnly (s : State) (p : Nat) (w : Word) : bytesOnly grateHart s (freshVector s p w) := by
  have read := s.readVA_sameButTlb p 0 (vaOf w) 64
  unfold freshVector
  split
  · next b u e =>
    rw [e] at read
    split
    · exact bytesOnly_trans (.of_sameButTlb read) (bytesOnly_writeVA ..)
    · exact .of_sameButTlb read
  · next u e =>
    rw [e] at read
    exact .of_sameButTlb read
theorem markThread_keeps {α : Type} (f : State → α) (threads : ∀ (u : State) x, f { u with threads := x } = f u)
    (tasks : ∀ (u : State) x, f { u with tasks := x } = f u) (s : State) (h : Hart) : f (markThread s h) = f s := by
  have marked (u : State) (k : Hart) : f (markOne u k) = f u := by
    unfold markOne
    dsimp only
    split
    · exact threads ..
    · rfl
  have noted (u : State) (k : Hart) : f (notePreempted u k) = f u := by
    unfold notePreempted
    dsimp only
    split
    · split
      · rfl
      · exact tasks ..
    · rfl
  unfold markThread
  extract_lets l u
  have before : f u = f s := foldl_keeps _ f _ _ fun u k => marked u k
  split
  · exact (foldl_keeps _ f _ _ fun u k => noted u k).trans before
  · exact before
theorem poolFree_sameButTlb (s : State) (p : Nat) : sameButTlb s (poolFree s p).2 := by
  unfold poolFree
  split
  · exact sameButTlb_refl s
  · have walk (l : List Nat) (x : Bool × State) (same : sameButTlb s x.2) : sameButTlb s (l.foldl (fun (x : Bool × State) i =>
        if x.1 then
          let r := readRecord x.2 p ((s.part p).pbase + BitVec.ofNat 64 (64 * i))
          (r.1.any (fun v => recStatus v == 0), r.2)
        else x) x).2 := by
      induction l generalizing x with
      | nil => exact same
      | cons i r ih =>
        refine ih _ ?_
        dsimp only
        split
        · exact sameButTlb_trans same (readRecord_sameButTlb ..)
        · exact same
    exact walk _ _ (sameButTlb_refl s)
theorem rangeOpen_sameButTlb (s : State) (p va n : Nat) : sameButTlb s (rangeOpen s p va n).2 := by
  have read := s.xlateRange_sameButTlb p 0 va n false true
  unfold rangeOpen
  split
  · next u e =>
    rw [e] at read
    exact sameButTlb_trans read (u.xlateRange_sameButTlb p 0 va n true true)
  · next u e =>
    rw [e] at read
    exact read
theorem poolChecked_sameButTlb (s : State) (q : Mgmt) (p : Nat) (w : BitVec 128) : sameButTlb s (poolChecked s q p w).2 := by
  unfold poolChecked
  split
  · unfold poolOk
    extract_lets base log n va
    split
    · exact sameButTlb_refl s
    · have opened := rangeOpen_sameButTlb s p va n
      split
      · next u e =>
        rw [e] at opened
        exact sameButTlb_trans opened (poolFree_sameButTlb u p)
      · next u e =>
        rw [e] at opened
        exact opened
  · exact sameButTlb_refl s

section
variable {s y : State} {p st idx d : Nat} {w : Word} {f : BitVec 256} {h : BitVec 128} {l : List (List Nat)} {pt : PreTarget}
theorem declareVector_boxes (did : declareVector p w s = some y) : y.inbox = s.inbox ∧ y.outbox = s.outbox := by
  unfold declareVector at did
  split at did
  · cases did
  · cases did
    have bytes := freshVector_bytesOnly s p w
    exact ⟨bytes.keeps State.inbox fun _ _ _ _ => rfl, bytes.keeps State.outbox fun _ _ _ _ => rfl⟩
theorem declareRoot_boxes (did : declareRoot st p w s = some y) : y.inbox = s.inbox ∧ y.outbox = s.outbox := by
  unfold declareRoot at did
  split at did
  · cases did
  · cases did
    exact ⟨rfl, rfl⟩
theorem declareWindow_boxes (did : declareWindow p idx f s = some y) : y.inbox = s.inbox ∧ y.outbox = s.outbox := by
  unfold declareWindow at did
  split at did
  · cases did
  · cases did
    exact ⟨rfl, rfl⟩
theorem declareQueue_boxes (did : declareQueue idx f s = some y) : y.inbox = s.inbox ∧ y.outbox = s.outbox := by
  unfold declareQueue at did
  split at did
  · cases did
  · cases did
    exact ⟨rfl, rfl⟩
theorem declarePeer_boxes (did : declarePeer p idx f s = some y) : y.inbox = s.inbox ∧ y.outbox = s.outbox := by
  unfold declarePeer at did
  split at did
  · cases did
  · cases did
    exact ⟨rfl, rfl⟩
theorem declareRange_boxes (did : declareRange d h s = some y) : y.inbox = s.inbox ∧ y.outbox = s.outbox := by
  unfold declareRange at did
  split at did
  · cases did
  · cases did
    exact ⟨rfl, rfl⟩
theorem declarePool_boxes {ok : Bool} (did : declarePool ok p h s = some y) : y.inbox = s.inbox ∧ y.outbox = s.outbox := by
  unfold declarePool at did
  extract_lets x at did
  have bytes := bytesOnly_writeVA grateHart s p 0 (vaOf (h.extractLsb' 0 64)) (List.replicate (64 * 2 ^ (h.extractLsb' 64 5).toNat) 0)
  split at did
  · cases did
    exact ⟨bytes.keeps State.inbox fun _ _ _ _ => rfl, bytes.keeps State.outbox fun _ _ _ _ => rfl⟩
  · cases did
theorem markConcerned_boxes (did : markConcerned pt s = some y) : y.inbox = s.inbox ∧ y.outbox = s.outbox := by
  cases did
  exact ⟨foldl_keeps _ State.inbox _ _ fun _ _ => markThread_keeps State.inbox (fun _ _ => rfl) (fun _ _ => rfl) ..,
    foldl_keeps _ State.outbox _ _ fun _ _ => markThread_keeps State.outbox (fun _ _ => rfl) (fun _ _ => rfl) ..⟩
theorem changeLayout_boxes (did : changeLayout s l = some y) : y.inbox = s.inbox ∧ y.outbox = s.outbox := by
  rw [changeLayout_eq] at did
  split at did
  · cases did
  · split at did
    · cases did
    · rw [← Option.some.inj did]
      exact ⟨layoutChanged_keeps State.inbox (fun _ _ _ _ _ _ _ _ _ _ _ _ => rfl) s l,
        layoutChanged_keeps State.outbox (fun _ _ _ _ _ _ _ _ _ _ _ _ => rfl) s l⟩

end

/-! ### IMAGE_UPDATE -/

section
variable {s : State} {q : Mgmt} {m : FlashImage} {rest : List Input}

/-- The slot that is not active. -/
def Controller.spare (c : Controller) : Bool := !(c.active.getD true)
/-- The controller with an image written to the slot that is not active. -/
def Controller.written (c : Controller) (m : FlashImage) : Controller :=
  if c.spare then { c with slotB := m } else { c with slotA := m }
/-- The same where the image is not valid. -/
def Controller.spoilt (c : Controller) (m : FlashImage) : Controller :=
  { c.written m with pending := if c.pending = some c.spare then none else c.pending }
/-- The same where it is, and boots next. -/
def Controller.updated (c : Controller) (m : FlashImage) (q : Mgmt) : Controller :=
  { c.written m with pending := some c.spare, attempted := false, seq := q.seq }
theorem exec_imageUpdate (first : s.inbox = .update q m :: rest) : exec .imageUpdate s =
    if !s.ctrl.grants q then .next (({ s with inbox := rest } : State).refuse 0)
    else if !m.valid s.ctrl.minSvn then
      .next (({ s with inbox := rest, ctrl := s.ctrl.spoilt m } : State).refuse 0)
    else .next ((({ s with inbox := rest, ctrl := s.ctrl.updated m q } : State).logEvent 4 0 0).reply .accepted) := by
  change execImageUpdate s = _
  unfold execImageUpdate
  rw [request_of first]
  rfl
theorem written_spec (c : Controller) (m : FlashImage) : (c.written m).seq = c.seq ∧ (c.written m).layout = c.layout ∧
    (c.written m).pqueues = c.pqueues ∧ (c.written m).slotOf c.spare = m ∧
    (c.written m).slotOf (c.active.getD true) = c.slotOf (c.active.getD true) := by
  unfold Controller.written Controller.spare Controller.slotOf
  cases c.active.getD true
  · exact ⟨rfl, rfl, rfl, rfl, rfl⟩
  · exact ⟨rfl, rfl, rfl, rfl, rfl⟩
theorem reply_fields (s : State) (o : Out) : (s.reply o).inbox = s.inbox ∧ (s.reply o).outbox = s.outbox ++ [o] ∧
    (s.reply o).ctrl = s.ctrl := ⟨rfl, rfl, rfl⟩
theorem update_answered (first : s.inbox = .update q m :: rest) : ∃ t, exec .imageUpdate s = .next t ∧
    requestAnswered s t rest q := by
  have whole := exec_imageUpdate first
  obtain ⟨seq, layout, queues, -, -⟩ := written_spec s.ctrl m
  cases granted : s.ctrl.grants q with
  | false =>
    rw [granted] at whole
    obtain ⟨refused, inR, slotA, slotB, logged⟩ := refuse_answers (x := { s with inbox := rest }) 0
    exact ⟨_, whole, inR, .inr ⟨refused, unchanged_refuse 0 ⟨rfl, rfl, rfl, rfl, rfl, rfl, rfl, fun st => ⟨_, _, rfl⟩⟩, logged⟩,
      fun _ => ⟨refused, slotA, slotB⟩⟩
  | true =>
    obtain ⟨verified, later, image⟩ := grants_spec granted
    have never (unverified : q.verified = false) {P : Prop} : P := absurd (verified.symm.trans unverified) nofun
    rw [granted, if_neg (by nofun)] at whole
    by_cases valid : m.valid s.ctrl.minSvn = true
    · rw [valid, if_neg (by nofun)] at whole
      refine ⟨_, whole, ?_, .inl ⟨?_, ?_, verified, later, image⟩, fun no => never no⟩
      · exact (reply_fields _ _).1.trans (logEvent_keeps State.inbox (fun _ _ _ => rfl) _ 4 0 0)
      · exact (reply_fields _ _).2.1.trans
          (congrArg (· ++ [Out.accepted]) (logEvent_keeps State.outbox (fun _ _ _ => rfl) _ 4 0 0))
      · exact (congrArg Controller.seq (reply_fields _ _).2.2).trans
          (logEvent_keeps (fun u => u.ctrl.seq) (fun _ _ _ => rfl) _ 4 0 0)
    · rw [if_pos (by simpa using valid)] at whole
      obtain ⟨refused, inR, -, -, logged⟩ := refuse_answers (x := { s with inbox := rest, ctrl := s.ctrl.spoilt m }) 0
      exact ⟨_, whole, inR, .inr ⟨refused, unchanged_refuse 0
        ⟨seq, layout, queues, rfl, rfl, rfl, rfl, fun st => ⟨_, _, rfl⟩⟩, logged⟩, fun no => never no⟩

end

/-- Every configuring request is answered. -/
theorem request_answered {s : State} {x : Input} {rest : List Input} {i : Instr} {q : Mgmt} (first : s.inbox = x :: rest)
    (configures : mgmtOf x = some (i, q)) : ∃ t, exec i s = .next t ∧ requestAnswered s t rest q := by
  have here : sameButTlb { s with inbox := rest } { s with inbox := rest } := sameButTlb_refl _
  cases x with
  | layout q l =>
    cases configures
    rw [exec_layout first]
    exact configure_answers here fun y => changeLayout_boxes
  | trapVector q p w =>
    cases configures
    rw [exec_trapVector first]
    exact configure_answers here fun y => declareVector_boxes
  | recordPool q p w =>
    cases configures
    rw [exec_recordPool first]
    exact configure_answers (poolChecked_sameButTlb ..) fun y => declarePool_boxes
  | damperRange q d w =>
    cases configures
    rw [exec_damperRange first]
    exact configure_answers here fun y => declareRange_boxes
  | root q st p w =>
    cases configures
    rw [exec_root first]
    exact configure_answers here fun y => declareRoot_boxes
  | window q p idx w =>
    cases configures
    rw [exec_window first]
    exact configure_answers here fun y => declareWindow_boxes
  | partQueue q idx w =>
    cases configures
    rw [exec_partQueue first]
    exact configure_answers here fun y => declareQueue_boxes
  | peer q p idx w =>
    cases configures
    rw [exec_peer first]
    exact configure_answers here fun y => declarePeer_boxes
  | preempt q pt =>
    cases configures
    rw [exec_preempt first]
    exact configure_answers here fun y => markConcerned_boxes
  | update q m =>
    cases configures
    exact update_answered first
  | attest => cases configures
  | counters => cases configures
  | hostWrite => cases configures
  | hostRead => cases configures
  | counted => cases configures
  | unsupported => cases configures
  | transport => cases configures
  | sample => cases configures
  | packet => cases configures
  | round => cases configures

/-! ### What a granted request leaves -/

section
variable {s : State} {q : Mgmt} {p st idx d : Nat} {w : Word} {f : BitVec 256} {h : BitVec 128} {pt : PreTarget}
  {rest : List Input}

theorem performed_keeps {α : Type} (f : State → α) (free : ∀ (u : State) c o, f { u with ctrl := c, outbox := o } = f u)
    (s : State) (q : Mgmt) : f (s.performed q) = f s :=
  free s { s.ctrl with seq := q.seq } (s.outbox ++ [Out.accepted])

theorem seq_performed (s : State) (q : Mgmt) : (s.performed q).ctrl.seq = q.seq := rfl

theorem root_declared (granted : s.ctrl.grants q = true) (first : s.inbox = .root q st p w :: rest) (low : st < 8)
    (here : s.hasPart p = true) (inside : w.toNat < 2 ^ 36) (align : w.toNat % 2 ^ 21 = 0) :
    ∃ t, exec .translationRootDeclare s = .next t ∧ Tab.get none (t.stack st).troot p = some w.toNat ∧
      ∀ e ∈ (t.stack st).tlb, e.part ≠ p := by
  have passes : (decide (8 ≤ st) || !s.hasPart p || decide (2 ^ 36 ≤ w.toNat) || decide (w.toNat % 2 ^ 21 ≠ 0)) = false := by
    rw [here, decide_eq_false (by omega), decide_eq_false (by omega), decide_eq_false (by omega)]
    rfl
  have did : declareRoot st p w { s with inbox := rest } = some (({ s with inbox := rest } : State).setStack st
      { s.stack st with
      troot := Tab.set none (s.stack st).troot p (some w.toNat), tlb := (s.stack st).tlb.filter (fun e => e.part != p) }) :=
    if_neg (Bool.eq_false_iff.1 passes)
  refine ⟨_, (exec_root first).trans (configure_granted granted did), ?_, ?_⟩
  · rw [performed_keeps (fun u => u.stack st) (fun _ _ _ => rfl), State.stack_setStack_self, Tab.get_set_self]
  · rw [performed_keeps (fun u => u.stack st) (fun _ _ _ => rfl), State.stack_setStack_self]
    intro e there
    simpa using (List.mem_filter.1 there).2
theorem window_declared (granted : s.ctrl.grants q = true) (first : s.inbox = .window q p idx f :: rest)
    (here : s.hasPart p = true) (low : idx < 16) (zero : f.extractLsb' 4 60 = 0#60) (zero' : f.extractLsb' 192 64 = 0#64)
    (base : f.getLsbD 0 = true → s.baseOk p (f.extractLsb' 64 64) = true ∧ (f.extractLsb' 128 64).toNat % 64 = 0) :
    ∃ t, exec .hostWindowDeclare s = .next t ∧ Tab.get {} (t.part p).windows idx = windowOf f := by
  have declared : (f.getLsbD 0 && (!s.baseOk p (f.extractLsb' 64 64) || decide ((f.extractLsb' 128 64).toNat % 64 ≠ 0))) = false := by
    cases valid : f.getLsbD 0
    · rfl
    · rw [(base valid).1, (base valid).2]
      rfl
  have passes : (!s.hasPart p || decide (16 ≤ idx) || decide (f.extractLsb' 4 60 ≠ 0#60) ||
      decide (f.extractLsb' 192 64 ≠ 0#64) || (f.getLsbD 0 && (!s.baseOk p (f.extractLsb' 64 64) ||
      decide ((f.extractLsb' 128 64).toNat % 64 ≠ 0)))) = false := by
    rw [here, declared, zero, zero', decide_eq_false (by omega)]
    rfl
  have did : declareWindow p idx f { s with inbox := rest } = some (({ s with inbox := rest } : State).setPart p
      { s.part p with windows := Tab.set {} (s.part p).windows idx (windowOf f) }) := if_neg (Bool.eq_false_iff.1 passes)
  refine ⟨_, (exec_window first).trans (configure_granted granted did), ?_⟩
  rw [performed_keeps (fun u => u.part p) (fun _ _ _ => rfl), State.part_setPart_self, Tab.get_set_self]
theorem queue_declared (granted : s.ctrl.grants q = true) (first : s.inbox = .partQueue q idx f :: rest) (low : idx < 64)
    (fits : pqOk s f = true) : ∃ t, exec .partitionQueueDeclare s = .next t ∧ Tab.get 0 t.ctrl.pqueues idx = f := by
  have passes : (decide (64 ≤ idx) || !pqOk s f) = false := by
    rw [fits, decide_eq_false (by omega)]
    rfl
  have did : declareQueue idx f { s with inbox := rest } = some { s with
      inbox := rest, ctrl := { s.ctrl with pqueues := Tab.set 0 s.ctrl.pqueues idx f } } := if_neg (Bool.eq_false_iff.1 passes)
  exact ⟨_, (exec_partQueue first).trans (configure_granted granted did), Tab.get_set_self ..⟩
theorem peer_declared (granted : s.ctrl.grants q = true) (first : s.inbox = .peer q p idx f :: rest)
    (here : s.hasPart p = true) (some : idx ≠ 0) (low : idx < 4096) (zero : f.extractLsb' 1 15 = 0#15)
    (zero' : f.extractLsb' 52 12 = 0#12) (zero'' : f.extractLsb' 192 64 = 0#64)
    (number : f.getLsbD 0 = true → f.extractLsb' 40 12 ≠ 0#12) :
    ∃ t, exec .peerTableWrite s = .next t ∧ Tab.get 0 (t.part p).peers idx = f := by
  have declared : (f.getLsbD 0 && f.extractLsb' 40 12 == 0#12) = false := by
    cases valid : f.getLsbD 0
    · rfl
    · exact beq_false_of_ne (number valid)
  have passes : (!s.hasPart p || decide (idx = 0) || decide (4096 ≤ idx) || decide (f.extractLsb' 1 15 ≠ 0#15) ||
      decide (f.extractLsb' 52 12 ≠ 0#12) || decide (f.extractLsb' 192 64 ≠ 0#64) ||
      (f.getLsbD 0 && f.extractLsb' 40 12 == 0#12)) = false := by
    rw [here, declared, zero, zero', zero'', decide_eq_false some, decide_eq_false (by omega)]
    rfl
  have did : declarePeer p idx f { s with inbox := rest } = Option.some (({ s with inbox := rest } : State).setPart p
      { s.part p with peers := Tab.set 0 (s.part p).peers idx f }) := if_neg (Bool.eq_false_iff.1 passes)
  refine ⟨_, (exec_peer first).trans (configure_granted granted did), ?_⟩
  rw [performed_keeps (fun u => u.part p) (fun _ _ _ => rfl), State.part_setPart_self, Tab.get_set_self]
theorem update_installed {m : FlashImage} (granted : s.ctrl.grants q = true) (first : s.inbox = .update q m :: rest)
    (valid : m.valid s.ctrl.minSvn = true) : ∃ t, exec .imageUpdate s = .next t ∧ t.ctrl.pending = some s.ctrl.spare ∧
      t.ctrl.slotOf s.ctrl.spare = m ∧ t.ctrl.slotOf (s.ctrl.active.getD true) = s.ctrl.slotOf (s.ctrl.active.getD true) := by
  have whole := exec_imageUpdate first
  rw [granted, if_neg (by nofun), valid, if_neg (by nofun)] at whole
  obtain ⟨-, -, -, new, old⟩ := written_spec s.ctrl m
  have keeps {α : Type} (f : Controller → α)
      (free : ∀ (c : Controller) l o, f { c with log := l, overwritten := o } = f c) (u : State) :
      f ((u.logEvent 4 0 0).reply .accepted).ctrl = f u.ctrl :=
    (congrArg f (reply_fields _ _).2.2).trans (logEvent_keeps (fun u => f u.ctrl) (fun _ _ _ => free ..) u 4 0 0)
  refine ⟨_, whole, ?_, ?_, ?_⟩
  · exact keeps Controller.pending (fun _ _ _ => rfl) _
  · exact (keeps (fun c => c.slotOf s.ctrl.spare) (fun _ _ _ => rfl) _).trans new
  · exact (keeps (fun c => c.slotOf (s.ctrl.active.getD true)) (fun _ _ _ => rfl) _).trans old

/-- What holds of the default and of every entry of a key holds of what the table gives. -/
theorem Tab.get_of_all {α : Type} {P : α → Prop} {e : α} {t : Tab α} {k : Nat} (default : P e)
    (all : ∀ x ∈ t, x.1 = k → P x.2) : P (Tab.get e t k) := by
  induction t with
  | nil => exact default
  | cons x r ih =>
    obtain ⟨a, v⟩ := x
    unfold Tab.get
    split
    · next here => exact all _ List.mem_cons_self here
    · exact ih fun y there => all y (List.mem_cons_of_mem _ there)
theorem setRange_group (s : State) (d : Nat) (base : Word) (start cnt g : Nat) (mine : g / 65536 = d) :
    ((setRange s d base start cnt).group g).configured = false := by
  unfold setRange State.group
  dsimp only
  refine Tab.get_of_all (P := fun x : Group => x.configured = false) rfl fun x there key => ?_
  obtain ⟨y, -, rfl⟩ := List.mem_map.1 (List.mem_filter.1 there).1
  split at key
  · next same => rw [if_pos same]
  · next other =>
    rw [key, mine] at other
    simp at other
theorem range_declared (granted : s.ctrl.grants q = true) (first : s.inbox = .damperRange q d h :: rest) (low : d < 4)
    (zero : h.extractLsb' 97 31 = 0#31) (fits : (h.extractLsb' 64 16).toNat + (h.extractLsb' 80 17).toNat ≤ 65536)
    (base : (h.extractLsb' 80 17).toNat ≠ 0 → isVA (h.extractLsb' 0 64) = true ∧ (h.extractLsb' 0 64).toNat % 64 = 0 ∧
      vaStack (vaOf (h.extractLsb' 0 64)) / 2 = d)
    (apart : rangeTaken s d (h.extractLsb' 64 16).toNat (h.extractLsb' 80 17).toNat = false)
    (all : ((List.range 4).filter (fun e => e != d)).foldl (fun n e => n + (s.die e).gcount) (h.extractLsb' 80 17).toNat ≤ 65536)
    : ∃ t, exec .damperRangeDeclare s = .next t ∧ (t.die d).gtbase = h.extractLsb' 0 64 ∧
      (t.die d).gfirst = (h.extractLsb' 64 16).toNat ∧ (t.die d).gcount = (h.extractLsb' 80 17).toNat ∧
      ∀ g, g / 65536 = d → (t.group g).configured = false := by
  have based : (decide ((h.extractLsb' 80 17).toNat ≠ 0) && !(isVA (h.extractLsb' 0 64) && (h.extractLsb' 0 64).toNat % 64 == 0
      &&
      vaStack (vaOf (h.extractLsb' 0 64)) / 2 == d)) = false := by
    by_cases some : (h.extractLsb' 80 17).toNat ≠ 0
    · obtain ⟨va, align, home⟩ := base some
      rw [va, align, home, beq_self_eq_true, beq_self_eq_true]
      exact Bool.and_false _
    · rw [decide_eq_false some]
      rfl
  have good : rangeBad d h { s with inbox := rest } = false := by
    have apart' : rangeTaken { s with inbox := rest } d (h.extractLsb' 64 16).toNat (h.extractLsb' 80 17).toNat = false := apart
    have all' : ¬65536 < ((List.range 4).filter (fun e => e != d)).foldl (fun n e => n +
        (({ s with inbox := rest } : State).die e).gcount) (h.extractLsb' 80 17).toNat := Nat.not_lt.2 all
    rw [rangeBad, based, apart', zero, decide_eq_false all', decide_eq_false (Nat.not_le.2 low),
      decide_eq_false (Nat.not_lt.2 fits)]
    rfl
  have did : declareRange d h { s with inbox := rest } = some (setRange { s with inbox := rest } d (h.extractLsb' 0 64)
      (h.extractLsb' 64 16).toNat (h.extractLsb' 80 17).toNat) := if_neg (Bool.eq_false_iff.1 good)
  refine ⟨_, (exec_damperRange first).trans (configure_granted granted did), ?_⟩
  rw [performed_keeps (fun u => u.die d) (fun _ _ _ => rfl)]
  have die : (setRange { s with inbox := rest } d (h.extractLsb' 0 64) (h.extractLsb' 64 16).toNat
      (h.extractLsb' 80 17).toNat).die d = _ := State.die_setDie_self ..
  rw [die]
  exact ⟨rfl, rfl, rfl, fun g mine => setRange_group { s with inbox := rest } d (h.extractLsb' 0 64)
    (h.extractLsb' 64 16).toNat (h.extractLsb' 80 17).toNat g mine⟩

/-- A vector that reads 0 throughout takes its reset value, another is left. -/
theorem freshVector_mem {u v : State} {b : List Byte} (read : u.readVA p 0 (vaOf w) 64 = (some b, v)) :
    (¬(∀ x ∈ b, x = 0) → (freshVector u p w).mem = u.mem) ∧ ∀ k, (∀ x ∈ b, x = 0) → vaOf w % 64 = 0 →
      (v.xlate p 0 (vaOf w + 8) true true).1 = .ok k → (∀ i, i < 8 → plainKey (k + i) = true) →
      (freshVector u p w).readAt k 8 = 6 * 2 ^ 4 := by
  have same := u.readVA_sameButTlb p 0 (vaOf w) 64
  rw [read] at same
  unfold freshVector
  rw [read]
  dsimp only
  refine ⟨fun some => ?_, fun k blank align at' plain => ?_⟩
  · rw [if_neg (by simpa using some)]
    exact same.mem
  · rw [if_pos (by simpa using blank)]
    have size : (leBytes 8 (6 * 2 ^ 4)).length = 8 := length_leBytes ..
    have way := State.xlateRange_ok (n := 8) (u := (v.xlate p 0 (vaOf w + 8) true true).2) (by omega)
      (page_of_record align (off := 8) (by omega) (by omega)) (Prod.ext at' rfl)
    rw [State.writeVA_ok (k := k) (u := (v.xlate p 0 (vaOf w + 8) true true).2) grateHart (by rw [size]; exact way)]
    exact State.readAt_writeAt_plain _ _ plain (by omega)
theorem mem_declared (u : State) (p : Nat) (x : Part) (q : Mgmt) : ((u.setPart p x).performed q).mem = u.mem := rfl
theorem vector_declared (granted : s.ctrl.grants q = true) (first : s.inbox = .trapVector q p w :: rest)
    (here : s.hasPart p = true) (base : s.baseOk p w = true) : ∃ t, exec .trapVectorDeclare s = .next t ∧ (t.part p).tvec = w ∧
      t.ctrl.seq = q.seq ∧ ∀ b v k, ({ s with inbox := rest } : State).readVA p 0 (vaOf w) 64 = (some b, v) → vaOf w % 64 = 0 →
        (v.xlate p 0 (vaOf w + 8) true true).1 = .ok k → (∀ i, i < 8 → plainKey (k + i) = true) →
        ((∀ x ∈ b, x = 0) → t.readAt k 8 = 6 * 2 ^ 4) ∧ ((∃ x ∈ b, x ≠ 0) → t.mem = s.mem) := by
  have passes : (!s.hasPart p || !s.baseOk p w) = false := by
    rw [here, base]
    rfl
  have did : declareVector p w { s with inbox := rest } = some ((freshVector { s with inbox := rest } p w).setPart p
      { (freshVector { s with inbox := rest } p w).part p with tvec := w }) := if_neg (Bool.eq_false_iff.1 passes)
  refine ⟨_, (exec_trapVector first).trans (configure_granted granted did), ?_, rfl, fun b v k read align at' plain => ?_⟩
  · rw [performed_keeps (fun u => u.part p) (fun _ _ _ => rfl), State.part_setPart_self]
  · obtain ⟨kept, reset⟩ := freshVector_mem read
    refine ⟨fun blank => ?_, fun some => (mem_declared ..).trans (kept fun blank => ?_)⟩
    · exact (State.readAt_congr_plain (mem_declared ..) plain).trans (reset k blank align at' plain)
    · obtain ⟨x, there, nonzero⟩ := some
      exact nonzero (blank x there)

theorem pool_declared {v₁ v₂ v : State} (granted : s.ctrl.grants q = true) (first : s.inbox = .recordPool q p h :: rest)
    (here : s.hasPart p = true) (zero : h.extractLsb' 69 59 = 0#59) (least : 10 ≤ (h.extractLsb' 64 5).toNat)
    (most : (h.extractLsb' 64 5).toNat ≤ 20) (base : s.baseOk p (h.extractLsb' 0 64) = true)
    (one : vaStack (vaOf (h.extractLsb' 0 64)) = vaStack (vaOf (h.extractLsb' 0 64) + 64 * 2 ^ (h.extractLsb' 64 5).toNat - 1))
    (opened : rangeOpen { s with inbox := rest } p (vaOf (h.extractLsb' 0 64)) (64 * 2 ^ (h.extractLsb' 64 5).toNat) = (true, v₁))
    (free : poolFree v₁ p = (true, v₂))
    (cleared : v₂.writeVA grateHart p 0 (vaOf (h.extractLsb' 0 64)) (List.replicate (64 * 2 ^ (h.extractLsb' 64 5).toNat) 0) =
      (true, v)) : ∃ t, exec .recordPoolDeclare s = .next t ∧ (t.part p).pbase = h.extractLsb' 0 64 ∧
      (t.part p).plog2 = (h.extractLsb' 64 5).toNat ∧ (t.part p).pooled = true ∧ t.mem = v.mem := by
  have passes : (!s.hasPart p || decide (h.extractLsb' 69 59 ≠ 0#59) || decide ((h.extractLsb' 64 5).toNat < 10) ||
      decide (20 < (h.extractLsb' 64 5).toNat) || !s.baseOk p (h.extractLsb' 0 64) || decide (vaStack (vaOf (h.extractLsb' 0 64)) ≠
      vaStack (vaOf (h.extractLsb' 0 64) + 64 * 2 ^ (h.extractLsb' 64 5).toNat - 1))) = false := by
    rw [here, base, ← one, zero, decide_eq_false (Nat.not_lt.2 least), decide_eq_false (Nat.not_lt.2 most)]
    simp
  have ok : poolOk { s with inbox := rest } p h = (true, v₂) := by
    refine (if_neg (Bool.eq_false_iff.1 passes)).trans ?_
    rw [opened]
    exact free
  have checked : poolChecked { s with inbox := rest } q p h = (true, v₂) := (if_pos granted).trans ok
  have same := poolChecked_sameButTlb { s with inbox := rest } q p h
  rw [checked] at same
  have granted' : v₂.ctrl.grants q = true := by
    rw [same.keeps State.ctrl fun _ _ => rfl]
    exact granted
  have did : declarePool true p h v₂ = some (v.setPart p { v.part p with
      pbase := h.extractLsb' 0 64, plog2 := (h.extractLsb' 64 5).toNat, pooled := true }) := by
    unfold declarePool
    rw [cleared]
    rfl
  have whole := exec_recordPool first
  rw [checked] at whole
  refine ⟨_, whole.trans (configure_granted granted' did), ?_⟩
  rw [performed_keeps (fun u => u.part p) (fun _ _ _ => rfl), performed_keeps State.mem (fun _ _ _ => rfl),
    State.part_setPart_self]
  exact ⟨rfl, rfl, rfl, rfl⟩

end

/-! ### Marks -/

/-- From `s` to `t` thread set `k` has at most taken a mark. -/
structure marksOnly (k : Hart) (s t : State) : Prop where
  thread : t.thread k = { s.thread k with mark := (t.thread k).mark }
  mark : (s.thread k).mark.isSome = true → (t.thread k).mark.isSome = true

section
variable {k : Hart}

theorem marksOnly_of_eq {s t : State} (same : t.thread k = s.thread k) : marksOnly k s t :=
  ⟨by rw [same], fun there => by rw [same]; exact there⟩
theorem marksOnly_trans {s t u : State} (st : marksOnly k s t) (tu : marksOnly k t u) : marksOnly k s u :=
  ⟨by rw [tu.thread, st.thread], fun there => tu.mark (st.mark there)⟩
theorem marksOnly_foldl {β : Type} (g : State → β → State) (each : ∀ u b, marksOnly k u (g u b)) (l : List β) (u : State) :
    marksOnly k u (l.foldl g u) := by
  induction l generalizing u with
  | nil => exact marksOnly_of_eq rfl
  | cons b r ih => exact marksOnly_trans (each u b) (ih _)
theorem marksOnly_markOne (u : State) (h : Hart) : marksOnly k u (markOne u h) := by
  unfold markOne
  dsimp only
  split
  · by_cases here : k = h
    · subst here
      exact ⟨by rw [State.thread_setThread_self], fun _ => by rw [State.thread_setThread_self]; rfl⟩
    · exact marksOnly_of_eq (by rw [State.thread_setThread, if_neg here])
  · exact marksOnly_of_eq rfl
theorem marksOnly_notePreempted (u : State) (h : Hart) : marksOnly k u (notePreempted u h) := by
  refine marksOnly_of_eq ?_
  unfold notePreempted
  dsimp only
  split
  · split
    · rfl
    · rfl
  · rfl
theorem marksOnly_markThread (u : State) (h : Hart) : marksOnly k u (markThread u h) := by
  unfold markThread
  extract_lets l v
  have marked : marksOnly k u v := marksOnly_foldl _ marksOnly_markOne _ _
  split
  · exact marksOnly_trans marked (marksOnly_foldl _ marksOnly_notePreempted _ _)
  · exact marked

/-- A thread set that a mark reaches. -/
def State.markable (s : State) (k : Hart) : Prop := (s.thread k).live = true ∧ (s.thread k).savemode = none
theorem marksOnly.markable {s t : State} (only : marksOnly k s t) (can : s.markable k) : t.markable k := by
  obtain ⟨live, outside⟩ := can
  exact ⟨by rw [only.thread]; exact live, by rw [only.thread]; exact outside⟩
/-- What marks where it stands in a list marks in the whole walk. -/
theorem foldl_marks {β : Type} (g : State → β → State) (each : ∀ u b, marksOnly k u (g u b)) {b : β}
    (does : ∀ u, u.markable k → ((g u b).thread k).mark.isSome = true) {l : List β} (there : b ∈ l) {u : State}
    (can : u.markable k) : ((l.foldl g u).thread k).mark.isSome = true := by
  induction l generalizing u with
  | nil => cases there
  | cons a r ih =>
    rw [List.foldl_cons]
    obtain rfl | later := List.mem_cons.1 there
    · exact (marksOnly_foldl g each r _).mark (does u can)
    · exact ih later ((each u a).markable can)
theorem markOne_marks (core : kindOf k = .core) (u : State) (can : u.markable k) : ((markOne u k).thread k).mark.isSome = true := by
  obtain ⟨live, outside⟩ := can
  unfold markOne
  dsimp only
  cases has : (u.thread k).mark with
  | none =>
    rw [if_pos (by simp [core, live, outside]), State.thread_setThread_self]
    rfl
  | some m => rw [if_neg (by simp), has]; rfl

/-- A table gives an entry of its own, or the default. -/
theorem Tab.mem_of_get {α : Type} {e : α} {t : Tab α} {k : Nat} (other : Tab.get e t k ≠ e) : (k, Tab.get e t k) ∈ t := by
  induction t with
  | nil => exact absurd rfl other
  | cons x r ih =>
    obtain ⟨a, v⟩ := x
    unfold Tab.get at other ⊢
    split at other
    · next here =>
      rw [if_pos here, ← here]
      exact List.mem_cons_self
    · next apart =>
      rw [if_neg apart]
      exact List.mem_cons_of_mem _ (ih other)
theorem mem_threads_of_live {s : State} (live : (s.thread k).live = true) : (k, s.thread k) ∈ s.threads := by
  refine Tab.mem_of_get fun idle => ?_
  have none : (s.thread k).live = false := by
    change (Tab.get {} s.threads k).live = false
    rw [idle]
    rfl
  exact absurd (live.symm.trans none) nofun
/-- A thread set is one of those that are marked together with it. -/
theorem mem_instanceHarts {s : State} (live : (s.thread k).live = true) : k ∈ instanceHarts s k := by
  unfold instanceHarts
  dsimp only
  split
  · next g gang =>
    refine List.mem_map.2 ⟨(k, s.thread k), List.mem_filter.2 ⟨mem_threads_of_live live, ?_⟩, rfl⟩
    exact beq_iff_eq.2 gang
  · split
    · exact List.mem_cons_self
    · split
      · exact List.mem_cons_self
      · exact List.mem_cons_self
theorem markThread_marks (core : kindOf k = .core) (u : State) (can : u.markable k) :
    ((markThread u k).thread k).mark.isSome = true := by
  unfold markThread
  extract_lets l v
  have marked : (v.thread k).mark.isSome = true :=
    foldl_marks _ marksOnly_markOne (markOne_marks core) (mem_instanceHarts can.1) can
  split
  · exact (marksOnly_foldl _ marksOnly_notePreempted _ _).mark marked
  · exact marked

theorem concernedMarked_marks {pt : PreTarget} (s : State) (live : (s.thread k).live = true) (core : kindOf k = .core)
    (concerns : pt.concerns k (s.thread k).cont = true) (outside : (s.thread k).savemode = none) :
    (((concernedMarked pt s).thread k).mark).isSome = true := by
  rw [concernedMarked]
  refine foldl_marks (b := (k, s.thread k)) (fun (u : State) (e : Nat × Thread) => markThread u e.1)
    (fun u b => marksOnly_markThread u b.1) (fun u can => markThread_marks core u can) ?_ ⟨live, outside⟩
  exact List.mem_filter.2 ⟨mem_threads_of_live live, by simp [core, live, concerns]⟩
/-- A thread that a pre-emption request concerns is marked. -/
theorem preempt_marked {s : State} {q : Mgmt} {pt : PreTarget} {rest : List Input} (granted : s.ctrl.grants q = true)
    (first : s.inbox = .preempt q pt :: rest) : ∃ t, exec .preemptRequest s = .next t ∧ t.ctrl.seq = q.seq ∧
      ∀ k, (s.thread k).live = true → kindOf k = .core → pt.concerns k (s.thread k).cont = true →
        (s.thread k).savemode = none → ((t.thread k).mark).isSome = true := by
  have did : markConcerned pt { s with inbox := rest } = some (concernedMarked pt { s with inbox := rest }) := rfl
  refine ⟨_, (exec_preempt first).trans (configure_granted granted did), seq_performed .., fun k live core concerns outside => ?_⟩
  rw [performed_keeps (fun u => u.thread k) (fun _ _ _ => rfl)]
  exact concernedMarked_marks { s with inbox := rest } live core concerns outside

end

/-! ### What a change of layout leaves -/

section
variable {s : State} {l : List (List Nat)} {d k : Nat}

theorem resetKey_plain (reset : resetKey d k = true) : plainKey k = true ∧ k < 2 ^ 40 ∧ oaDie k = d := by
  simp only [resetKey, Bool.and_eq_true, decide_eq_true_eq, beq_iff_eq] at reset
  obtain ⟨⟨low, die⟩, space⟩ := reset
  refine ⟨?_, low, die⟩
  rw [plainKey, space, decide_eq_true low]
  exact Bool.or_true _
theorem settleDamper_low (u : State) (e : Nat) (reset : resetKey d k = true) : Memory.get (settleDamper u e).mem k =
    Memory.get u.mem k := by
  obtain ⟨plain, low, -⟩ := resetKey_plain reset
  have byte (w : State) : Memory.get w.mem k = w.byteAt k := (State.byteAt_plain w plain).symm
  refine settleDamper_keeps (fun w => Memory.get w.mem k) (fun w e a b => ?_) (fun _ _ => rfl) (fun _ _ => rfl) u e
  rw [byte, byte]
  exact writeVA_low w damperHart (w.partOfDie e) 0 (vaOf a) b plain low
theorem settleDamper_idle {u : State} (idle : ∀ g ∈ u.groups, g.2.configured = false) (e : Nat) : settleDamper u e = u := by
  have none : u.groups.filter (fun g => g.1 / 65536 == e && g.2.configured) = [] := by
    rw [List.filter_eq_nil_iff]
    intro g there
    simp [idle g there]
  rw [settleDamper, none]
  rfl
theorem diesSettled_idle (idle : ∀ g ∈ s.groups, g.2.configured = false) : (diesSettled s l).mem = s.mem := by
  have all (L : List Nat) : L.foldl settleDamper s = s := by
    induction L with
    | nil => rfl
    | cons e r ih => rw [List.foldl_cons, settleDamper_idle idle, ih]
  rw [diesSettled, all]
  rfl

theorem resetDie_mem (u : State) (e : Nat) : (resetDie u e).mem = u.mem.filter (fun c => !resetKey e c.1) := by
  unfold resetDie
  extract_lets x clear free v w
  have counted : x.mem = u.mem := foldl_keeps _ State.mem _ _ fun u c => by
    split
    · rfl
    · rfl
  have cleared : v.mem = x.mem.filter (fun c => !resetKey e c.1) := rfl
  have set : w.mem = v.mem := foldl_keeps _ State.mem _ _ fun u i => rfl
  rw [cleared, counted] at set
  clear_value w
  refine Eq.trans (foldl_keeps _ State.mem _ _ ?_) set
  exact fun _ _ => rfl
theorem Memory.get_filter (m : List Host.Cell) (keep : Nat → Bool) (k : Nat) :
    Memory.get (m.filter (fun c => keep c.1)) k = if keep k then Memory.get m k else Memory.blank := by
  unfold Memory.get
  induction m with
  | nil => simp
  | cons x r ih =>
    obtain ⟨a, v⟩ := x
    rw [List.filter_cons]
    by_cases here : a = k
    · subst here
      cases kept : keep a
      · rw [if_neg (by simp), ih, kept]
        rfl
      · simp [Tab.get]
    · split
      · simp [Tab.get, here, ih]
      · simp [Tab.get, here, ih]
/-- Memory after the resets of some dies. -/
theorem resets_mem (L : List Nat) (u : State) : Memory.get (L.foldl resetDie u).mem k =
    if L.any (fun e => resetKey e k) then Memory.blank else Memory.get u.mem k := by
  induction L generalizing u with
  | nil => rfl
  | cons e r ih =>
    rw [List.foldl_cons, ih, resetDie_mem, Memory.get_filter u.mem (fun c => !resetKey e c) k, List.any_cons]
    cases resetKey e k
    · rfl
    · simp

/-- Clusters of a die whose first `n` clusters have been reset. -/
theorem clusters_reset (g : State → Nat → Cluster) (blank : ∀ u c, (g u c).counters = []) (e n c i : Nat) (u : State) :
    (((List.range n).foldl (fun s i => s.setCluster (96 * e + i) (g s (96 * e + i))) u).cluster c).counter i =
      if 96 * e ≤ c ∧ c < 96 * e + n then 0 else (u.cluster c).counter i := by
  induction n with
  | zero => rw [if_neg (by omega)]; rfl
  | succ n ih =>
    rw [List.range_succ, List.foldl_append, List.foldl_cons, List.foldl_nil, State.cluster_setCluster]
    by_cases here : c = 96 * e + n
    · rw [if_pos here, if_pos (by omega), Cluster.counter, blank]
      rfl
    · rw [if_neg here, ih]
      exact if_congr (by omega) rfl rfl
theorem resetDie_counter (u : State) (e c i : Nat) : ((resetDie u e).cluster c).counter i =
    if c / 96 = e then 0 else (u.cluster c).counter i := by
  unfold resetDie
  extract_lets x clear free v w
  have counted : (x.cluster c).counter i = (u.cluster c).counter i :=
    foldl_keeps _ (fun u : State => (u.cluster c).counter i) _ _ fun u y => by
      split
      · exact sameCounters_countCl ..
      · rfl
  have same : (v.cluster c).counter i = (u.cluster c).counter i := counted
  have set : (w.cluster c).counter i = if c / 96 = e then 0 else (u.cluster c).counter i := by
    refine (clusters_reset (fun s n => { s.cluster n with
      counters := [], cgen := [], parked := false, idleSince := s.now
      tiles := (s.cluster n).tiles.map (fun t => (t.1, { arming := t.2.arming + 1 }))
      kn := { w := (s.cluster n).kn.w, lastw := (s.cluster n).kn.lastw, nwin := (s.cluster n).kn.nwin }
          }) (fun _ _ => rfl) e 96 c i
      v).trans ?_
    rw [same]
    exact if_congr (by omega) rfl rfl
  clear_value w
  refine Eq.trans (foldl_keeps _ (fun u : State => (u.cluster c).counter i) _ _ ?_) set
  exact fun _ _ => rfl
/-- The counters of a die among those that are reset. -/
theorem resets_counter {L : List Nat} (moved : d ∈ L) {c i : Nat} (mine : c / 96 = d) (u : State) :
    ((L.foldl resetDie u).cluster c).counter i = 0 := by
  have stays (r : List Nat) (v : State) (zero : (v.cluster c).counter i = 0) : ((r.foldl resetDie v).cluster c).counter i = 0 := by
    induction r generalizing v with
    | nil => exact zero
    | cons e r ih => exact ih _ (by rw [resetDie_counter, zero]; exact ite_self _)
  induction L generalizing u with
  | nil => cases moved
  | cons e r ih =>
    rw [List.foldl_cons]
    obtain rfl | later := List.mem_cons.1 moved
    · exact stays r _ (by rw [resetDie_counter, if_pos mine])
    · exact ih later _

/-- The range of die `d` meets none of another damper of its partition. -/
def State.rangeApart (s : State) (d : Nat) : Prop := rangeTaken s d (s.die d).gfirst (s.die d).gcount = false
theorem rangesMeet_empty (a n b : Nat) : rangesMeet a n b 0 = false ∧ rangesMeet b 0 a n = false := by
  simp [rangesMeet]
theorem settleRange_apart (u : State) (d : Nat) : (settleRange u d).rangeApart d := by
  unfold settleRange
  split
  · have die : (setRange u d 0 0 0).die d = { u.die d with gtbase := 0, gfirst := 0, gcount := 0 } := State.die_setDie_self ..
    rw [State.rangeApart, die]
    refine List.any_eq_false.2 fun e _ => ?_
    rw [(rangesMeet_empty ..).2, Bool.and_false]
    nofun
  · next free => exact Bool.eq_false_iff.2 free
theorem settleRange_keepsApart {u : State} (apart : u.rangeApart d) (e : Nat) : (settleRange u e).rangeApart d := by
  by_cases same : d = e
  · subst same
    exact settleRange_apart u d
  · unfold settleRange
    split
    · have die (n : Nat) : (setRange u e 0 0 0).die n = if n = e then { u.die e with gtbase := 0, gfirst := 0, gcount := 0 }
        else
          u.die n := State.die_setDie ..
      have inside (n : Nat) : (setRange u e 0 0 0).dieIn ((setRange u e 0 0 0).partOfDie d) n = u.dieIn (u.partOfDie d) n := rfl
      rw [State.rangeApart, die, if_neg same]
      refine List.any_eq_false.2 fun n there => ?_
      rw [inside, die]
      split
      · rw [(rangesMeet_empty ..).1, Bool.and_false]
        nofun
      · exact List.any_eq_false.1 apart n there
    · exact apart
theorem ranges_apart {L : List Nat} (moved : d ∈ L) (u : State) : (L.foldl settleRange u).rangeApart d := by
  have stays (r : List Nat) (v : State) (apart : v.rangeApart d) : (r.foldl settleRange v).rangeApart d := by
    induction r generalizing v with
    | nil => exact apart
    | cons e r ih => exact ih _ (settleRange_keepsApart apart e)
  induction L generalizing u with
  | nil => cases moved
  | cons e r ih =>
    rw [List.foldl_cons]
    obtain rfl | later := List.mem_cons.1 moved
    · exact stays r _ (settleRange_apart u d)
    · exact ih later _

/-- The layout stands, the change is logged, and ranges, counters and memory are as the resets leave them. -/
theorem layoutChanged_layout : (layoutChanged s l).ctrl.layout = l ∧ ∃ r ∈ (layoutChanged s l).ctrl.log, r.code = 5#16 := by
  refine ⟨?_, _, State.mem_logEvent_log .., rfl⟩
  have ranges : (rangesSettled s l).ctrl = (diesReset s l).ctrl :=
    foldl_keeps _ State.ctrl _ _ fun u e => settleRange_keeps State.ctrl (fun _ _ => rfl) (fun _ _ => rfl) u e
  have reset : (diesReset s l).ctrl.layout = l :=
    foldl_keeps _ (fun u : State => u.ctrl.layout) _ _ fun u e =>
      resetDie_keeps (fun u : State => u.ctrl.layout) (fun _ _ => rfl) (fun _ _ _ _ => rfl) (fun _ _ => rfl) u e
  refine (logEvent_keeps (fun u => u.ctrl.layout) (fun _ _ _ => rfl) _ 5 0 0).trans ?_
  change (rangesSettled s l).ctrl.layout = l
  rw [ranges, reset]
/-- The state behind the resets, as the change of layout leaves it but for endpoints and log. -/
theorem layoutChanged_final {α : Type} (f : State → α)
    (log : ∀ (u : State) l o, f { u with ctrl := { u.ctrl with log := l, overwritten := o } } = f u)
    (named : ∀ (u : State) n x, f { u with fresh := n, ctrl := { u.ctrl with endpoints := x } } = f u) :
    f (layoutChanged s l) = f (rangesSettled s l) :=
  (logEvent_keeps f log _ 5 0 0).trans (named ..)
theorem rangesSettled_keeps {α : Type} (f : State → α) (groups : ∀ (u : State) g, f { u with groups := g } = f u)
    (dies : ∀ (u : State) d, f { u with dies := d } = f u) : f (rangesSettled s l) = f (diesReset s l) :=
  foldl_keeps _ f _ _ fun u e => settleRange_keeps f groups dies u e
theorem layoutChanged_mem : Memory.get (layoutChanged s l).mem k =
    if (movingDies s l).any (fun e => resetKey e k) then Memory.blank else Memory.get (diesSettled s l).mem k := by
  rw [layoutChanged_final State.mem (fun _ _ _ => rfl) (fun _ _ _ => rfl),
    rangesSettled_keeps State.mem (fun _ _ => rfl) (fun _ _ => rfl), diesReset, resets_mem]
theorem layoutChanged_counter (moved : d ∈ movingDies s l) {c i : Nat} (mine : c / 96 = d) :
    ((layoutChanged s l).cluster c).counter i = 0 := by
  refine (layoutChanged_final (fun u => (u.cluster c).counter i) (fun _ _ _ => rfl) (fun _ _ _ => rfl)).trans ?_
  rw [rangesSettled_keeps (fun u : State => (u.cluster c).counter i) (fun _ _ => rfl) (fun _ _ => rfl)]
  exact resets_counter moved mine _
theorem layoutChanged_apart (moved : d ∈ movingDies s l) : (layoutChanged s l).rangeApart d :=
  (layoutChanged_final (fun u => rangeTaken u d (u.die d).gfirst (u.die d).gcount) (fun _ _ _ => rfl) (fun _ _ _ => rfl)).trans
    (ranges_apart moved (diesReset s l))
theorem diesSettled_low (reset : resetKey d k = true) : Memory.get (diesSettled s l).mem k = Memory.get s.mem k :=
  foldl_keeps _ (fun u : State => Memory.get u.mem k) _ _ fun u e => settleDamper_low u e reset

/-- A change of layout that is granted. -/
theorem layout_changed {q : Mgmt} {rest : List Input} (granted : s.ctrl.grants q = true) (first : s.inbox = .layout q l :: rest)
    (allowed : layoutOk l = true) (free : ∀ d, d < 4 → stays { s with inbox := rest } d = false) :
    exec .partitionLayout s = .next ((layoutChanged { s with inbox := rest } l).performed q) := by
  refine (exec_layout first).trans (configure_granted granted ?_)
  rw [changeLayout_eq, allowed, if_neg (by nofun), if_neg]
  rw [Bool.not_eq_true, List.any_eq_false]
  intro d moved
  rw [free d (List.mem_range.1 (List.mem_filter.1 moved).1)]
  nofun
theorem ctrl_performed (u : State) (q : Mgmt) : (u.performed q).ctrl.layout = u.ctrl.layout ∧
    (u.performed q).ctrl.log = u.ctrl.log := ⟨rfl, rfl⟩
theorem get_performed (u : State) (q : Mgmt) (k : Nat) : Memory.get (u.performed q).mem k = Memory.get u.mem k := rfl
theorem apart_performed {q : Mgmt} (apart : s.rangeApart d) :
    rangeTaken (s.performed q) d ((s.performed q).die d).gfirst ((s.performed q).die d).gcount = false := apart
theorem mem_movingDies : d ∈ movingDies s l ↔ d < 4 ∧ placeOf s.ctrl.layout d ≠ placeOf l d := by
  rw [movingDies, List.mem_filter, List.mem_range, bne_iff_ne]

end

end Sys2Proof.Machine
end

section
open Sys2Proof Sys2Proof.Machine

/-- Settles O58: a configuring request is performed or refused, each declaration leaves what it declares, and a change of layout is
its resets in order. -/
theorem management : Obligations.Management := by
  unfold Obligations.Management
  refine ⟨fun s x rest i q first configures => ?_, fun s q rest p st idx d w h f l img pt granted => ?_⟩
  · obtain ⟨t, whole, box, ends, unverified⟩ := request_answered first configures
    refine ⟨t, whole, box, ?_, unverified⟩
    obtain done | ⟨refused, kept, logged⟩ := ends
    · exact .inl done
    · obtain ⟨seq, layout, queues, parts, dies, mem, threads, stacks'⟩ := kept
      exact .inr ⟨refused, seq, layout, queues, parts, dies, mem, threads, stacks', logged⟩
  · intro u
    refine ⟨vector_declared granted, root_declared granted, window_declared granted, queue_declared granted,
      peer_declared granted, ?_, ?_, ?_, ?_, ?_⟩
    · intro first base start cnt others low zero fits based apart all
      refine range_declared granted first low zero fits based (List.any_eq_false.2 fun e there => ?_) all
      have free := List.all_eq_true.1 apart e there
      rw [Bool.not_eq_true'] at free
      exact Bool.eq_false_iff.1 free
    · intro first v₁ v₂ v base n here zero least most ok one opened free cleared
      exact pool_declared granted first here zero least most ok one opened free cleared
    · intro first allowed free moves
      have still (e : Nat) (low : e < 4) : stays u e = false := by
        simpa using List.all_eq_true.1 free e (List.mem_range.2 low)
      have moved {e : Nat} (low : e < 4) (move : moves e) : e ∈ movingDies u l := mem_movingDies.2 ⟨low, move⟩
      obtain ⟨layout, r, there, code⟩ := layoutChanged_layout (s := u) (l := l)
      obtain ⟨sameLayout, sameLog⟩ := ctrl_performed (layoutChanged u l) q
      rw [← sameLog] at there
      refine ⟨(layoutChanged u l).performed q, layout_changed granted first allowed still, sameLayout.trans layout,
        ⟨r, there, code⟩, fun e low move => ⟨fun k reset => ?_,
        fun c i mine => ?_, apart_performed (layoutChanged_apart (moved low move))⟩,
        fun e k low stay reset => ?_, fun idle k key => ?_⟩
      · refine (get_performed ..).trans (layoutChanged_mem.trans ?_)
        exact if_pos (List.any_eq_true.2 ⟨e, moved low move, reset⟩)
      · exact (performed_keeps (fun u => (u.cluster c).counter i) (fun _ _ _ => rfl) _ q).trans
          (layoutChanged_counter (moved low move) mine)
      · refine (get_performed ..).trans (layoutChanged_mem.trans ?_)
        refine (if_neg ?_).trans (diesSettled_low reset)
        intro some
        obtain ⟨e', there, reset'⟩ := List.any_eq_true.1 some
        have same : e' = e := (resetKey_plain reset').2.2.symm.trans (resetKey_plain reset).2.2
        exact stay (same ▸ (mem_movingDies.1 there).2)
      · refine (get_performed ..).trans (layoutChanged_mem.trans ?_)
        refine (if_neg ?_).trans ?_
        · intro some
          obtain ⟨e', -, reset'⟩ := List.any_eq_true.1 some
          have low := (resetKey_plain reset').2.1
          simp only [isStackKey, Bool.and_eq_true, decide_eq_true_eq] at key
          omega
        · rw [diesSettled_idle (s := u) idle]
    · intro first
      obtain ⟨t, whole, seq, marks⟩ := preempt_marked granted first
      exact ⟨t, whole, seq, fun k live core concerns outside _ => marks k live core concerns outside⟩
    · intro first valid
      exact update_installed granted first valid

end

section
/-! SUPPORT. Launches and versions (O56): the walks of a launch's checks, the trap record of the grate, what a refusal and a
    hold that
is over leave, and the turns of versions. -/

namespace Sys2Proof.Machine

/-! ## Reads of the grate -/

theorem readHeader_sameButTlb (s : State) (p acc : Nat) (w : Word) : sameButTlb s (readHeader s p acc w).2 := by
  have first := s.readVA_sameButTlb p acc (vaOf w) 32
  unfold readHeader
  split
  · exact sameButTlb_refl s
  · split
    · next e => rwa [e] at first
    · next b u e =>
      rw [e] at first
      dsimp only
      have second : sameButTlb s (if ((BitVec.ofNat 256 (leNat b)).extractLsb' 64 8).toNat = 0 then
          ((some [] : Option (List Byte)), u)
          else u.readVA p acc (vaOf w + 32) (32 * ((BitVec.ofNat 256 (leNat b)).extractLsb' 64 8).toNat)).2 := by
        split
        · exact first
        · exact sameButTlb_trans first (State.readVA_sameButTlb ..)
      split
      next e => rwa [e] at second
      next e => rwa [e] at second

theorem grateRead_sameButTlb (s : State) (p : Nat) (w : Word) (n : Nat) : sameButTlb s (grateRead s p w n).2 := by
  unfold grateRead
  split
  · exact sameButTlb_refl s
  · split
    · exact State.readVA_sameButTlb ..
    · split <;> exact sameButTlb_refl s

theorem checkLaunch_sameButTlb (s : State) (l : Launch) : sameButTlb s (checkLaunch s l).2 := by
  unfold checkLaunch
  split
  · exact sameButTlb_refl s
  · have block := s.readVA_sameButTlb l.part 0 (vaOf l.lb) 128
    split
    · next e => rwa [e] at block
    · next bytes u e =>
      rw [e] at block
      dsimp only
      split
      · exact block
      · have header := sameButTlb_trans block
          (readHeader_sameButTlb u l.part 0 ((BitVec.ofNat 1024 (leNat bytes)).extractLsb' 0 64))
        split
        · next e => rwa [e] at header
        · next hd v e =>
          rw [e] at header
          have tiles := sameButTlb_trans header (grateRead_sameButTlb v l.part
            ((BitVec.ofNat 1024 (leNat bytes)).extractLsb' 448 64)
            (8 * (((BitVec.ofNat 1024 (leNat bytes)).extractLsb' 288 4).toNat +
              ((BitVec.ofNat 1024 (leNat bytes)).extractLsb' 292 4).toNat)))
          split
          · next e => rwa [e] at tiles
          · next rb w e =>
            rw [e] at tiles
            split <;> exact tiles

/-! ## The trap record of the grate -/

theorem trapDataAt_addr {loc : BitVec 16} {c : Cont} {save gang : Bool} {i : TrapInfo} (code : i.code < 256) :
    (trapDataAt loc c save gang i).extractLsb' 320 64 = i.addr := by
  have tail : tailLen i.head.major < 16 := by
    unfold tailLen
    split <;> decide
  have gen := c.gen.isLt
  have task := c.taskid.isLt
  have pc := i.pc.isLt
  have head := i.head.isLt
  have tailbits := i.tail.isLt
  have rcd := c.rcd.isLt
  have addr := i.addr.isLt
  obtain ⟨flags, few, eflags⟩ : ∃ x, x < 8 ∧ (if save then 2 ^ 8 else 0) + (if gang then 2 ^ 9 else 0) +
      (if i.parked then 2 ^ 10 else 0) = 2 ^ 8 * x := by
    refine ⟨(if save then 1 else 0) + (if gang then 2 else 0) + (if i.parked then 4 else 0), ?_, ?_⟩ <;>
      cases save <;> cases gang <;> cases i.parked <;> decide
  obtain ⟨low, high, small, fields⟩ : ∃ l h, l < 2 ^ 320 ∧ trapDataAt loc c save gang i =
      BitVec.ofNat 512 (l + 2 ^ 320 * (i.addr.toNat + 2 ^ 64 * h)) := by
    refine ⟨i.code + 2 ^ 8 * flags + c.gen.toNat * 2 ^ 16 + c.taskid.toNat * 2 ^ 32 + i.pc.toNat * 2 ^ 64 +
      i.head.toNat * 2 ^ 128 + tailLen i.head.major * 2 ^ 144 + i.tail.toNat * 2 ^ 192 + c.rcd.toNat * 2 ^ 256,
      i.fmta.toNat % 32 + i.fmta.toNat / 32 % 2 * 2 ^ 5 + i.fmtb.toNat % 32 * 2 ^ 6 + i.fmtb.toNat / 32 % 2 * 2 ^ 11 +
      i.fmtc.toNat % 32 * 2 ^ 12 + i.row % 2 ^ 16 * 2 ^ 32 + i.col % 2 ^ 16 * 2 ^ 48 + loc.toNat * 2 ^ 64 +
      i.detail % 2 ^ 16 * 2 ^ 80, by omega, congrArg (BitVec.ofNat 512) ?_⟩
    dsimp only
    generalize (if save = true then 2 ^ 8 else 0) = b1 at *
    generalize (if gang = true then 2 ^ 9 else 0) = b2 at *
    generalize (if i.parked = true then 2 ^ 10 else 0) = b3 at *
    omega
  rw [fields]
  refine (extractLsb'_ofNat (by decide)).trans (BitVec.eq_of_toNat_eq ?_)
  rw [BitVec.toNat_ofNat]
  omega

theorem Trap.code_lt (t : Trap) : t.code < 256 := by cases t <;> decide

/-- One more record stands in the partition's list, with its code, PC and address; nothing but that list and the count of what the
environment chose has changed. -/
theorem grateTrap_spec (s : State) (p : Nat) (code : Trap) (addr : Word) (c : Option Cont) (pc : Option Word) : ∃ r : TrapRec,
    grateTrap s p code addr c pc = { s with fresh := s.fresh + 1 }.setPart p { s.part p with traps := (s.part p).traps ++ [r] }
        ∧
    r.data.extractLsb' 0 8 = BitVec.ofNat 8 code.code ∧ r.data.extractLsb' 320 64 = addr ∧
    ∀ w, pc = some w → r.data.extractLsb' 64 64 = w := by
  unfold grateTrap
  extract_lets w i c
  obtain ⟨head, -, -, at', -⟩ := trapDataAt_fields (loc := (w 9).setWidth 16) (c := c) (save := false) (gang := false) (i := i)
    code.code_lt
  exact ⟨_, rfl, head, trapDataAt_addr code.code_lt, fun x e => at'.trans (by rw [show i.pc = pc.getD (w 0) from rfl, e]; rfl)⟩

/-! ## Refusals -/

theorem refuseLaunch_eq (s : State) (p : Nat) (lb : Word) (group : Option Closure) : ∃ g : Tab Group,
    refuseLaunch s p lb group = { grateTrap s p .launch lb none none with groups := g } := by
  unfold refuseLaunch
  dsimp only
  split
  · unfold State.endSuccessor
    dsimp only
    split
    · exact ⟨_, rfl⟩
    · exact ⟨_, rfl⟩
  · exact ⟨_, rfl⟩

theorem bytesOnly_returnExited (s : State) (src : Option (Nat × Word)) : bytesOnly grateHart s (returnExited s src) := by
  unfold returnExited
  split
  · exact bytesOnly_refl _ s
  · split
    · exact bytesOnly_refl _ s
    · exact bytesOnly_putRecord ..

/-! ## LAUNCH_ACCEPT -/

section
variable {s : State} {l : Launch} {rest : List Launch}

/-- The state in which the oldest launch has left its grate's queue. -/
def offerTaken (s : State) (rest : List Launch) : State := s.setDie s.cur { s.die s.cur with offers := rest }

theorem launch_waits (offers : (s.die s.cur).offers = l :: rest) (waits : tileSetWaits s l = true) :
    exec .launchAccept s = .next s := by
  change execLaunchAccept s = _
  unfold execLaunchAccept
  dsimp only
  rw [offers]
  exact if_pos waits

theorem launch_refused {u : State} (offers : (s.die s.cur).offers = l :: rest) (waits : tileSetWaits s l = false)
    (bad : checkLaunch (offerTaken s rest) l = (none, u)) : ∃ x r, exec .launchAccept s = .next x ∧
      (x.die s.cur).offers = rest ∧ x.tasks = s.tasks ∧ (x.part l.part).traps = (s.part l.part).traps ++ [r] ∧
      r.data.extractLsb' 0 8 = 12#8 ∧ r.data.extractLsb' 320 64 = l.lb := by
  have walked : sameButTlb (offerTaken s rest) u := by simpa only [bad] using checkLaunch_sameButTlb (offerTaken s rest) l
  have part := walked.keeps (fun v => v.part l.part) fun _ _ => rfl
  obtain ⟨r, trap, code, addr, -⟩ := grateTrap_spec u l.part .launch l.lb none none
  obtain ⟨g, refused⟩ := refuseLaunch_eq u l.part l.lb l.group
  have left := bytesOnly_returnExited (refuseLaunch u l.part l.lb l.group) l.src
  refine ⟨returnExited (refuseLaunch u l.part l.lb l.group) l.src, r, ?_, ?_, ?_, ?_, code, addr⟩
  · change execLaunchAccept s = _
    unfold execLaunchAccept
    dsimp only
    rw [offers]
    refine (if_neg (Bool.eq_false_iff.1 waits)).trans ?_
    rw [← offerTaken, bad]
  · rw [left.keeps (fun v => (v.die s.cur).offers) fun _ _ _ _ => rfl, refused, trap]
    refine (walked.keeps (fun v => (v.die s.cur).offers) fun _ _ => rfl).trans ?_
    rw [offerTaken, State.die_setDie_self]
  · rw [left.keeps State.tasks fun _ _ _ _ => rfl, refused, trap]
    exact walked.keeps State.tasks fun _ _ => rfl
  · rw [left.part, refused, trap]
    refine (congrArg Part.traps (State.part_setPart_self ..)).trans ?_
    exact congrArg (fun p => p.traps ++ [r]) part

theorem launch_accepted {u : State} {t : Task} (offers : (s.die s.cur).offers = l :: rest) (waits : tileSetWaits s l = false)
    (good : checkLaunch (offerTaken s rest) l = (some t, u)) : ∃ x, exec .launchAccept s = .next x ∧
      (x.die s.cur).offers = rest ∧ x.tasks = s.tasks ++ [{ t with die := s.cur }] ∧
      (x.die s.cur).admits = (s.die s.cur).admits ++ [t.acc] ∧ x.accno = t.acc := by
  have walked : sameButTlb (offerTaken s rest) u := by simpa only [good] using checkLaunch_sameButTlb (offerTaken s rest) l
  have die : u.die s.cur = { s.die s.cur with offers := rest } :=
    (walked.keeps (fun v => v.die s.cur) fun _ _ => rfl).trans (State.die_setDie_self ..)
  have tasks : u.tasks = s.tasks := walked.keeps State.tasks fun _ _ => rfl
  let v := u.setPart l.part { u.part l.part with taskctr := t.taskid }
  let w := v.setDie s.cur { v.die s.cur with admits := (v.die s.cur).admits ++ [t.acc] }
  have left := bytesOnly_returnExited { w with accno := t.acc, tasks := w.tasks ++ [{ t with die := s.cur }] } l.src
  have die' : w.die s.cur = { s.die s.cur with offers := rest, admits := (s.die s.cur).admits ++ [t.acc] } :=
    (State.die_setDie_self ..).trans (congrArg (fun d : Die => { d with admits := d.admits ++ [t.acc] }) die)
  refine ⟨returnExited { w with accno := t.acc, tasks := w.tasks ++ [{ t with die := s.cur }] } l.src, ?_, ?_, ?_, ?_, ?_⟩
  · change execLaunchAccept s = _
    unfold execLaunchAccept
    dsimp only
    rw [offers]
    refine (if_neg (Bool.eq_false_iff.1 waits)).trans ?_
    rw [← offerTaken, good]
  · rw [left.keeps (fun v => (v.die s.cur).offers) fun _ _ _ _ => rfl]
    exact congrArg Die.offers die'
  · rw [left.keeps State.tasks fun _ _ _ _ => rfl]
    exact congrArg (· ++ [{ t with die := s.cur }]) tasks
  · rw [left.keeps (fun v => (v.die s.cur).admits) fun _ _ _ _ => rfl]
    exact congrArg Die.admits die'
  · exact left.keeps State.accno fun _ _ _ _ => rfl

end

/-! ## LAUNCH_ADMIT -/

theorem launch_admitted {s : State} {t : Task} {a : Nat} {more : List Nat} (admits : (s.die s.cur).admits = a :: more)
    (task : s.task a = some t) (room : (s.die s.cur).entries + t.entries ≤ 4096) : ∃ x, exec .launchAdmit s = .next x ∧
      (x.die s.cur).admits = more ∧ (x.die s.cur).entries = (s.die s.cur).entries + t.entries ∧ x.mem = s.mem ∧
      (t.acc = a → x.task a = some { t with st := .held }) := by
  let d : Die := { s.die s.cur with admits := more, entries := (s.die s.cur).entries + t.entries }
  have die : ((s.setDie s.cur d).setTask { t with st := .held }).die s.cur = d := State.die_setDie_self ..
  refine ⟨(s.setDie s.cur d).setTask { t with st := .held }, ?_, by rw [die], by rw [die], rfl, fun acc => ?_⟩
  · change execLaunchAdmit s = _
    unfold execLaunchAdmit
    dsimp only
    rw [admits]
    dsimp only
    rw [task]
    exact if_neg (by omega)
  · subst acc
    exact (State.task_setTask (s := s.setDie s.cur d) (t := { t with st := .held }) task t.acc).trans (if_pos rfl)

/-! ## LAUNCH_RELEASE -/

section
variable {s : State} {t : Task}

/-- A NAMED binding's step has been freed. -/
def namedGone (s : State) (t : Task) : Bool := (namedTiles t).any fun x => s.stepGone x.1 x.2

theorem release_waits (task : s.task s.cur = some t) (held : t.st = .held) (hold : holdMet s t = false)
    (gone : namedGone s t = false) : exec .launchRelease s = .next s := by
  change execLaunchRelease s = _
  unfold execLaunchRelease
  rw [task]
  dsimp only
  rw [if_neg (by rw [held]; simp), ← namedGone, if_neg (Bool.eq_false_iff.1 gone), hold]
  rfl

theorem release_refused (task : s.task s.cur = some t) (held : t.st = .held) (gone : namedGone s t = true) : ∃ x r,
    exec .launchRelease s = .next x ∧ (x.part t.part).traps = (s.part t.part).traps ++ [r] ∧
    r.data.extractLsb' 0 8 = 12#8 := by
  let u := (s.setDie t.die { s.die t.die with entries := (s.die t.die).entries - t.entries }).setTask { t with st := .ended }
  obtain ⟨r, trap, code, -, -⟩ := grateTrap_spec u t.part .launch t.lb none none
  obtain ⟨g, refused⟩ := refuseLaunch_eq u t.part t.lb t.group
  refine ⟨refuseLaunch u t.part t.lb t.group, r, ?_, ?_, code⟩
  · change execLaunchRelease s = _
    unfold execLaunchRelease
    rw [task]
    dsimp only
    rw [if_neg (by rw [held]; simp), ← namedGone]
    exact if_pos gone
  · rw [refused, trap]
    exact congrArg Part.traps (State.part_setPart_self ..)

end

/-! ## The records of a task that is READY -/

/-- A partition's ready list holds the first entry of thread `lin` of a task at a record. -/
def queuedFirst (s : State) (p acc : Nat) (rcd : Word) (lin : Nat) : Prop :=
  ∃ e ∈ (s.part p).ready, e.rcd = rcd ∧ e.lin = lin ∧ e.acc = acc ∧ e.first = true

theorem ready_createRecord (s : State) (t : Task) (gang : Option Nat) (lin : Nat) (rcd : Word) : ∃ e : ReadyEnt,
    ((createRecord s t gang lin rcd).part t.part).ready = (s.part t.part).ready ++ [e] ∧ e.rcd = rcd ∧ e.lin = lin ∧
    e.acc = t.acc ∧ e.first = true := by
  have walked := readRecord_sameButTlb s t.part rcd
  unfold createRecord
  extract_lets x u gen c e
  have left := walked.keeps (fun v => v.part t.part) fun _ _ => rfl
  have wrote := (bytesOnly_putRecord grateHart u c 0 (vecBytes (recordVec c t.entry 0xFF 1) 0 64)).part t.part
  refine ⟨e, ?_, rfl, rfl, rfl, rfl⟩
  rw [State.part_enqueue, wrote]
  exact congrArg (fun p : Part => p.ready ++ [e]) left

theorem queuedFirst_createRecord {s : State} {t : Task} {w rcd : Word} {lin j : Nat} (gang : Option Nat)
    (queued : queuedFirst s t.part t.acc w j) : queuedFirst (createRecord s t gang lin rcd) t.part t.acc w j := by
  obtain ⟨e, listed, fields⟩ := queued
  obtain ⟨f, ready, -⟩ := ready_createRecord s t gang lin rcd
  exact ⟨e, by rw [ready]; exact List.mem_append_left _ listed, fields⟩

theorem queuedFirst_foldl (t : Task) (gang : Word × Nat → Option Nat) (l : List (Word × Nat)) (s : State) {x : Word × Nat}
    (listed : x ∈ l ∨ queuedFirst s t.part t.acc x.1 x.2) :
    queuedFirst (l.foldl (fun s x => createRecord s t (gang x) x.2 x.1) s) t.part t.acc x.1 x.2 := by
  induction l generalizing s with
  | nil => exact listed.resolve_left List.not_mem_nil
  | cons y r ih =>
    refine ih _ ?_
    rcases listed with listed | queued
    · rcases List.mem_cons.1 listed with rfl | later
      · obtain ⟨e, ready, fields⟩ := ready_createRecord s t (gang x) x.2 x.1
        exact Or.inr ⟨e, by rw [ready]; exact List.mem_append_right _ List.mem_cons_self, fields⟩
      · exact Or.inl later
    · exact Or.inr (queuedFirst_createRecord _ queued)

theorem readyTask_queues (s : State) (t : Task) (rcds : List Word) {j : Nat} {w : Word} (at' : rcds[j]? = some w) :
    queuedFirst (readyTask s t rcds) t.part t.acc w j := by
  have listed : (w, j) ∈ rcds.zipIdx := List.mem_zipIdx_iff_getElem?.2 at'
  unfold readyTask
  extract_lets bound bind r t' u n base gangs v x
  exact queuedFirst_foldl t' (fun x => if n = 0 then none else some (base + x.2 / n)) _ _ (x := (w, j)) (Or.inl listed)

theorem release_ready {s : State} {t : Task} {rcds : List Word} (task : s.task s.cur = some t) (held : t.st = .held)
    (hold : holdMet s t = true) (gone : namedGone s t = false) (records : (takeRecords s t.part t.threads).1 = some rcds) :
    ∃ x, exec .launchRelease s = .next x ∧ ∀ j w, rcds[j]? = some w → queuedFirst x t.part t.acc w j := by
  refine ⟨readyTask (takeRecords s t.part t.threads).2 t rcds, ?_, fun j w at' => readyTask_queues _ _ _ at'⟩
  change execLaunchRelease s = _
  unfold execLaunchRelease
  rw [task]
  dsimp only
  rw [if_neg (by rw [held]; simp), ← namedGone, if_neg (Bool.eq_false_iff.1 gone), hold]
  rcases e : takeRecords s t.part t.threads with ⟨l, u⟩
  rw [e] at records
  subst records
  rfl

/-! ## VERSION_PUBLISH and VERSION_SLOT_FREE -/

section
variable {s : State} {a st : Nat} {t : Task}

/-- Of the versions of a tile, one opened by an earlier task. -/
def openedEarlier (k : List VSlot) (a : Nat) : Bool := k.any fun v => match v with
  | .opened b _ => decide (b < a)
  | _ => false

theorem publish_eq (slot : (s.vslots s.cur)[s.arg]? = some (.opened a st)) : exec .versionPublish s =
    if (s.task a).any (fun t => t.st == .ended && !t.retired) && !openedEarlier (s.vslots s.cur) a then
      .next (s.setVslots s.cur ((s.vslots s.cur).set s.arg (.published a st))) else .next s := by
  change execVersionPublish s = _
  unfold execVersionPublish
  dsimp only
  rw [slot]
  rfl

theorem published_inTurn (slot : (s.vslots s.cur)[s.arg]? = some (.opened a st)) (task : s.task a = some t)
    (ended : t.st = .ended) (whole : t.retired = false) (first : openedEarlier (s.vslots s.cur) a = false) :
    exec .versionPublish s = .next (s.setVslots s.cur ((s.vslots s.cur).set s.arg (.published a st))) :=
  (publish_eq slot).trans (if_pos (by rw [task, Option.any_some, ended, whole, first]; rfl))

theorem published_not (slot : (s.vslots s.cur)[s.arg]? = some (.opened a st)) (task : s.task a = some t)
    (goesOn : t.st ≠ .ended ∨ t.retired = true) : exec .versionPublish s = .next s := by
  refine (publish_eq slot).trans (if_neg ?_)
  rw [task, Option.any_some]
  rcases goesOn with open' | retired
  · rw [beq_eq_false_iff_ne.2 open']
    simp
  · rw [retired]
    simp

/-- The ACCNO of the newest published version of a tile, and the die of the grate that accepted its writer. -/
def newestOf (s : State) (tile : Nat) : Nat := (((s.vslots tile).filterMap VSlot.pubAcc).max?).getD 0
/-- A task holds a slot of a tile: it is live and has bound it, or it waits in the grate of the newest version's writer and would
bind it. -/
def holdsSlot (s : State) (tile k : Nat) (t : Task) : Bool :=
  (t.st.live && t.bound.contains (tile, k)) ||
  ((t.st == .admitted || t.st == .held) && (s.task (newestOf s tile)).map (fun t => t.die) == some t.die &&
    t.reads.any (fun r => r.1 ≤ tile && tile < r.1 + r.2) && bindSlot s t tile == some k)

theorem slotFree_eq (slot : (s.vslots s.cur)[s.arg]? = some (.published a st)) : exec .versionSlotFree s =
    if a < newestOf s s.cur && !s.tasks.any (holdsSlot s s.cur s.arg) then .next (s.freeSlot s.cur s.arg) else .next s := by
  change execVersionSlotFree s = _
  unfold execVersionSlotFree
  dsimp only
  rw [slot]
  rfl

theorem superseded_iff (slot : (s.vslots s.cur)[s.arg]? = some (.published a st)) :
    a < newestOf s s.cur ↔ ∃ b x, VSlot.published b x ∈ s.vslots s.cur ∧ a < b := by
  have own : a ∈ (s.vslots s.cur).filterMap VSlot.pubAcc := List.mem_filterMap.2 ⟨_, List.mem_of_getElem? slot, rfl⟩
  unfold newestOf
  rcases top : ((s.vslots s.cur).filterMap VSlot.pubAcc).max? with _ | m
  · rw [List.max?_eq_none_iff] at top
    rw [top] at own
    exact nomatch own
  obtain ⟨reached, above⟩ := (List.max?_eq_some_iff).1 top
  constructor
  · intro less
    obtain ⟨v, listed, acc⟩ := List.mem_filterMap.1 reached
    cases v with
    | published b x => exact ⟨b, x, listed, less.trans_eq (Option.some.inj acc).symm⟩
    | free => exact nomatch acc
    | opened b x => exact nomatch acc
  · rintro ⟨b, x, listed, less⟩
    exact less.trans_le (above b (List.mem_filterMap.2 ⟨_, listed, rfl⟩))

/-- A task binds slot `k` of a tile as the statement of R370 has it. -/
theorem holdsSlot_iff (tile k : Nat) : s.tasks.any (holdsSlot s tile k) = true ↔
    (∃ u ∈ s.tasks, u.st.live = true ∧ (tile, k) ∈ u.bound) ∨
    ∃ u ∈ s.tasks, (u.st = .admitted ∨ u.st = .held) ∧ (s.task (newestOf s tile)).map (fun w => w.die) = some u.die ∧
      (∃ r ∈ u.reads, r.1 ≤ tile ∧ tile < r.1 + r.2) ∧ bindSlot s u tile = some k := by
  simp only [holdsSlot, List.any_eq_true, Bool.or_eq_true, Bool.and_eq_true, beq_iff_eq, List.contains_iff_mem,
    decide_eq_true_eq, and_assoc]
  rw [← exists_or]
  simp only [← and_or_left]

theorem slot_kept (slot : (s.vslots s.cur)[s.arg]? = some (.published a st))
    (stays : ¬(a < newestOf s s.cur) ∨ s.tasks.any (holdsSlot s s.cur s.arg) = true) : exec .versionSlotFree s = .next s := by
  refine (slotFree_eq slot).trans (if_neg fun both => ?_)
  rw [Bool.and_eq_true, decide_eq_true_eq, Bool.not_eq_true'] at both
  exact stays.elim (fun no => no both.1) fun held => by rw [both.2] at held; exact nomatch held

theorem slot_freed (slot : (s.vslots s.cur)[s.arg]? = some (.published a st)) (old : a < newestOf s s.cur)
    (alone : s.tasks.any (holdsSlot s s.cur s.arg) = false) : ∃ y, exec .versionSlotFree s = .next y ∧
      y.vslots s.cur = (s.vslots s.cur).set s.arg .free ∧ st ∈ Tab.get [] y.gone s.cur ∧ y.mem = s.mem ∧
      ((∀ v ∈ (s.vslots s.cur).set s.arg .free, v.step ≠ some st) → y.stepGone s.cur st = true) := by
  have slots : (s.freeSlot s.cur s.arg).vslots s.cur = (s.vslots s.cur).set s.arg .free := Tab.get_set_self ..
  have gone : st ∈ Tab.get [] (s.freeSlot s.cur s.arg).gone s.cur := by
    unfold State.freeSlot
    dsimp only
    rw [Tab.get_set_self, slot, Option.bind_some, VSlot.step]
    dsimp only
    split
    · next listed => exact List.contains_iff_mem.1 listed
    · exact List.mem_append_right _ List.mem_cons_self
  refine ⟨s.freeSlot s.cur s.arg, (slotFree_eq slot).trans (if_pos (by rw [alone, decide_eq_true old]; rfl)), slots, gone, rfl,
    fun apart => ?_⟩
  rw [State.stepGone, slots, List.contains_iff_mem.2 gone, Bool.true_and]
  exact List.all_eq_true.2 fun v listed => by simpa using apart v listed

end

end Sys2Proof.Machine
end

section
/-! SUPPORT. Pickups (O56): the pick of a grate is first in order, and what a pickup leaves of the thread set, the record and
    the
ready list of its partition (R30, R32, R372). -/

namespace Sys2Proof.Machine

/-! ## The least element -/

/-- A test orders a type, elements that neither comes before the other standing at one place. -/
structure isOrder {α : Type} (f : α → α → Bool) : Prop where
  asymm : ∀ a b, f a b = true → f b a = false
  trans : ∀ a b c, f a b = false → f b c = false → f a c = false

section
variable {α : Type} {f : α → α → Bool}

/-- The smaller of two, the first where neither comes before the other. -/
def lesser (f : α → α → Bool) (b : Option α) (x : α) : Option α := match b with
  | none => some x
  | some y => if f x y then some x else some y

theorem lesser_spec (order : isOrder f) (b : Option α) (x : α) : ∃ m, lesser f b x = some m ∧ (m = x ∨ b = some m) ∧
    f x m = false ∧ ∀ y, b = some y → f y m = false := by
  have irrefl (a : α) : f a a = false := by
    rcases e : f a a with _ | _
    · rfl
    · exact e.symm.trans (order.asymm a a e)
  rcases b with _ | y
  · exact ⟨x, rfl, Or.inl rfl, irrefl x, nofun⟩
  · rcases e : f x y with _ | _
    · refine ⟨y, if_neg (Bool.eq_false_iff.1 e), Or.inr rfl, e, fun z h => ?_⟩
      cases h
      exact irrefl y
    · refine ⟨x, if_pos e, Or.inl rfl, irrefl x, fun z h => ?_⟩
      cases h
      exact order.asymm x y e

theorem leastBy_eq (l : List α) : leastBy f l = l.foldl (lesser f) none := by
  unfold leastBy
  refine congrArg (fun g => l.foldl g none) ?_
  funext b x
  cases b <;> rfl

theorem foldl_lesser (order : isOrder f) (l : List α) (b : Option α) {m : α} (least : l.foldl (lesser f) b = some m) :
    (m ∈ l ∨ b = some m) ∧ (∀ x ∈ l, f x m = false) ∧ ∀ y, b = some y → f y m = false := by
  induction l generalizing b with
  | nil =>
    refine ⟨Or.inr least, nofun, fun y h => ?_⟩
    have same : m = y := Option.some.inj (least.symm.trans h)
    subst same
    rcases e : f m m with _ | _
    · rfl
    · exact e.symm.trans (order.asymm m m e)
  | cons x r ih =>
    obtain ⟨n, first, from', here, before⟩ := lesser_spec order b x
    rw [List.foldl_cons, first] at least
    obtain ⟨listed, rest, above⟩ := ih _ least
    have chain := above n rfl
    refine ⟨?_, fun y hy => ?_, fun y hy => order.trans _ _ _ (before y hy) chain⟩
    · rcases listed with listed | same
      · exact Or.inl (List.mem_cons_of_mem _ listed)
      · cases same
        exact from'.imp (fun e => List.mem_cons.2 (Or.inl e)) id
    · rcases List.mem_cons.1 hy with rfl | hy
      · exact order.trans _ _ _ here chain
      · exact rest y hy

/-- The least element is one of the list, and none of the list comes before it. -/
theorem leastBy_least (order : isOrder f) {l : List α} {m : α} (least : leastBy f l = some m) :
    m ∈ l ∧ ∀ x ∈ l, f x m = false := by
  rw [leastBy_eq] at least
  obtain ⟨listed, rest, -⟩ := foldl_lesser order l none least
  exact ⟨listed.resolve_right nofun, rest⟩

theorem leastBy_isSome {l : List α} {x : α} (listed : x ∈ l) : ∃ m, leastBy f l = some m := by
  have folds (l : List α) (b : Option α) (some' : b.isSome = true ∨ l ≠ []) : ∃ m, l.foldl (lesser f) b = some m := by
    induction l generalizing b with
    | nil => exact Option.isSome_iff_exists.1 (some'.resolve_right fun h => h rfl)
    | cons x r ih =>
      refine ih _ (Or.inl ?_)
      rcases b with _ | y
      · rfl
      · unfold lesser
        dsimp only
        split <;> rfl
  rw [leastBy_eq]
  exact folds l none (Or.inr (List.ne_nil_of_mem listed))

theorem leastBy_mem {l : List α} {m : α} (least : leastBy f l = some m) : m ∈ l := by
  have folds (l : List α) (b : Option α) (e : l.foldl (lesser f) b = some m) : m ∈ l ∨ b = some m := by
    induction l generalizing b with
    | nil => exact Or.inr e
    | cons x r ih =>
      rcases ih _ e with listed | same
      · exact Or.inl (List.mem_cons_of_mem _ listed)
      · rcases b with _ | y
        · cases same
          exact Or.inl List.mem_cons_self
        · unfold lesser at same
          dsimp only at same
          split at same
          · cases same
            exact Or.inl List.mem_cons_self
          · exact Or.inr same
  rw [leastBy_eq] at least
  exact (folds l none least).resolve_right nofun

end

theorem isOrder_pickedBefore : isOrder pickedBefore where
  asymm a b h := by
    unfold pickedBefore at *
    simp only [ne_eq, ← BitVec.toNat_inj] at *
    grind
  trans a b c h k := by
    unfold pickedBefore at *
    simp only [ne_eq, ← BitVec.toNat_inj] at *
    grind

/-! ## The pick -/

section
variable {s : State} {e : ReadyEnt} {h : Hart} {p : Nat}

theorem nextPick_first (listed : e ∈ (s.part p).ready) (can : (placeable s e).isSome = true) :
    ∃ f k, nextPick s p = some (f, k) ∧ pickedBefore e f = false := by
  obtain ⟨l, at'⟩ := Option.isSome_iff_exists.1 can
  have order : isOrder fun a b : ReadyEnt × Pick => pickedBefore a.1 b.1 :=
    ⟨fun a b => isOrder_pickedBefore.asymm a.1 b.1, fun a b c => isOrder_pickedBefore.trans a.1 b.1 c.1⟩
  have one : (e, Pick.some l) ∈ (s.part p).ready.filterMap fun e => (placeable s e).map fun l => (e, Pick.some l) :=
    List.mem_filterMap.2 ⟨e, listed, by rw [at', Option.map_some]⟩
  unfold nextPick
  extract_lets ones gangs
  have among : (e, Pick.some l) ∈ ones ++ gangs := List.mem_append_left _ one
  obtain ⟨⟨f, k⟩, least⟩ := leastBy_isSome (f := fun a b : ReadyEnt × Pick => pickedBefore a.1 b.1) among
  exact ⟨f, k, least, (leastBy_least order least).2 _ among⟩

theorem pick_placeable {l : List (ReadyEnt × Hart)} (pick : nextPick s p = some (e, .some l)) :
    e ∈ (s.part p).ready ∧ placeable s e = some l := by
  unfold nextPick at pick
  rcases List.mem_append.1 (leastBy_mem pick) with one | gang
  · obtain ⟨f, listed, at'⟩ := List.mem_filterMap.1 one
    rcases can : placeable s f with _ | k
    · rw [can] at at'
      exact nomatch at'
    · rw [can] at at'
      cases at'
      exact ⟨listed, can⟩
  · obtain ⟨x, -, at'⟩ := List.mem_filterMap.1 gang
    obtain ⟨f, -, at'⟩ := Option.bind_eq_some_iff.1 at'
    split at at'
    · obtain ⟨k, -, at'⟩ := Option.map_eq_some_iff.1 at'
      exact nomatch at'
    · exact nomatch at'

theorem idleSets_core {core : Nat} (open' : s.gangCores.contains core = false) :
    (s.idleSets (4 * core) 4).length = s.idleOn core := by
  unfold State.idleSets State.idleOn
  rw [open', List.filter_map, List.length_map]
  rfl

/-- A core that takes a whole core instance has room for all of it. -/
theorem placeFor_room {t : Task} {core : Nat} (whole : wholeOnly t e = true) (place : placeFor s t e = some core) :
    ((instanceReady s t e).any fun f => f.gang.isSome) = false ∧
      (s.idleOn core = 4 ∨ (instanceOf s t e).length ≤ s.idleOn core) := by
  unfold placeFor at place
  dsimp only at place
  split at place
  · exact nomatch place
  next can =>
    rw [whole, Bool.true_and, Bool.or_eq_true, not_or] at can
    refine ⟨Bool.eq_false_iff.2 can.2, ?_⟩
    obtain ⟨c, -, chosen⟩ := Option.bind_eq_some_iff.1 place
    have fits := (List.mem_filter.1 (leastBy_mem chosen)).2
    rw [Bool.and_eq_true] at fits
    obtain ⟨room, -⟩ := fits
    split at room
    · exact Or.inl (beq_iff_eq.1 room)
    · exact Or.inr (of_decide_eq_true room)

/-- Where a pick places one entry, no other ready thread of its core instance waits to resume with it. -/
theorem placeable_alone {t : Task} (single : placeable s e = some [(e, h)]) (task : s.task e.acc = some t)
    (whole : wholeOnly t e = true) (listed : e ∈ (s.part t.part).ready) : ∀ f ∈ (s.part t.part).ready, f.acc = e.acc →
    t.coreOf f.lin = t.coreOf e.lin → f = e := by
  have stoker : e.stoker = none := by
    unfold wholeOnly at whole
    rw [Bool.and_eq_true, Option.isNone_iff_eq_none] at whole
    exact whole.1
  unfold placeable at single
  rw [stoker, task] at single
  split at single
  · exact nomatch single
  dsimp only [Option.bind_some] at single
  obtain ⟨core, place, pairs⟩ := Option.map_eq_some_iff.1 single
  obtain ⟨outside, room⟩ := placeFor_room whole place
  rw [whole, if_pos rfl] at pairs
  have mine (f : ReadyEnt) (ready : f ∈ (s.part t.part).ready) (acc : f.acc = e.acc) (core : t.coreOf f.lin = t.coreOf e.lin) :
      f ∈ instanceOf s t e := by
    have member : f ∈ instanceReady s t e := List.mem_filter.2 ⟨ready, by rw [acc, core]; simp⟩
    exact List.mem_filter.2 ⟨member, by simpa using List.any_eq_false.1 outside f member⟩
  have some' := List.length_pos_of_mem (mine e listed rfl rfl)
  have open' : s.gangCores.contains core = false := by
    rcases closed : s.gangCores.contains core with _ | _
    · rfl
    · have none' : s.idleOn core = 0 := if_pos closed
      omega
  have one := congrArg List.length pairs
  rw [List.length_zip, idleSets_core open', List.length_singleton] at one
  have idle : s.idleOn core ≤ 4 := by
    unfold State.idleOn
    split
    · omega
    · exact (List.length_filter_le ..).trans (by simp)
  obtain ⟨x, only⟩ := List.length_eq_one_iff.1 (show (instanceOf s t e).length = 1 by omega)
  intro f ready acc core
  have at' := mine f ready acc core
  have self := mine e listed rfl rfl
  rw [only, List.mem_singleton] at at' self
  rw [at', self]

end

/-! ## Tasks whose threads stand on the same cores -/

/-- From `s` to `t` tasks keep their partition, the core instances of their threads and which of those were pre-empted. -/
structure sameInstances (s t : State) : Prop where
  task : ∀ a y, t.task a = some y → ∃ x, s.task a = some x ∧ y.part = x.part ∧ y.levels = x.levels ∧ y.split = x.split ∧
    y.preempted = x.preempted

theorem sameInstances_of_tasks {s t : State} (same : t.tasks = s.tasks) : sameInstances s t :=
  ⟨fun a y h => ⟨y, by rw [State.task, ← same]; exact h, rfl, rfl, rfl, rfl⟩⟩
theorem sameInstances_refl (s : State) : sameInstances s s := sameInstances_of_tasks rfl
theorem sameInstances_trans {s t u : State} (st : sameInstances s t) (tu : sameInstances t u) : sameInstances s u where
  task a y h := by
    obtain ⟨x, hx, p1, l1, s1, r1⟩ := tu.task a y h
    obtain ⟨w, hw, p2, l2, s2, r2⟩ := st.task a x hx
    exact ⟨w, hw, p1.trans p2, l1.trans l2, s1.trans s2, r1.trans r2⟩
theorem sameInstances_setTask {s : State} {t x : Task} (old : s.task t.acc = some x) (part : t.part = x.part)
    (levels : t.levels = x.levels) (split : t.split = x.split) (pre : t.preempted = x.preempted) :
    sameInstances s (s.setTask t) where
  task a y h := by
    rw [State.task_setTask old] at h
    split at h
    · next here =>
      cases h
      exact ⟨x, by rw [here]; exact old, part, levels, split, pre⟩
    · exact ⟨y, h, rfl, rfl, rfl, rfl⟩
theorem Task.coreOf_congr {x y : Task} (levels : y.levels = x.levels) (split : y.split = x.split) (n : Nat) :
    y.coreOf n = x.coreOf n := by
  unfold Task.coreOf Task.narrow Task.threads
  rw [levels, split]

/-! ## The members of a core instance follow -/

/-- Nothing of a state that a pickup tells of but the entries of a resumed core instance has changed. -/
structure resumedAs (p : Nat) (s t : State) : Prop where
  threads : t.threads = s.threads
  mem : t.mem = s.mem
  ready : (t.part p).ready = (s.part p).ready
  traps : (t.part p).traps = (s.part p).traps
  stat : (t.part p).stat = (s.part p).stat

theorem moveWaiting_as (s : State) {t : Task} {e : ReadyEnt} (core p : Nat) (apart : t.part = p → ∀ f ∈ (s.part p).ready,
    f.acc = e.acc → t.coreOf f.lin ≠ t.coreOf e.lin) : resumedAs p s (moveWaiting s t e core) := by
  unfold moveWaiting
  extract_lets x put
  by_cases here : p = t.part
  · subst here
    refine ⟨rfl, rfl, ?_, ?_, ?_⟩ <;> rw [State.part_setPart_self]
    refine (List.map_congr_left fun f ready => ?_).trans (List.map_id _)
    refine if_neg fun same => ?_
    rw [Bool.and_eq_true, Bool.and_eq_true, beq_iff_eq, beq_iff_eq] at same
    exact apart rfl f ready same.1.1 same.2
  · refine ⟨rfl, rfl, ?_, ?_, ?_⟩ <;> rw [State.part_setPart, if_neg here]

theorem resumeWhole_as {s : State} {e : ReadyEnt} {p : Nat} (core : Nat) (apart : ∀ t, s.task e.acc = some t →
    wholeOnly t e = true → t.part = p → ∀ f ∈ (s.part p).ready, f.acc = e.acc → t.coreOf f.lin ≠ t.coreOf e.lin) :
    resumedAs p s (resumeWhole s e core) := by
  unfold resumeWhole
  split
  · exact ⟨rfl, rfl, rfl, rfl, rfl⟩
  · next t task =>
    split
    · next whole =>
      obtain ⟨threads, mem, ready, traps, stat⟩ := moveWaiting_as
        (s.setTask { t with preempted := t.preempted.filter fun i => t.coreOf e.lin != some i }) core p (apart t task whole)
      exact ⟨threads, mem, ready, traps, stat⟩
    · exact ⟨rfl, rfl, rfl, rfl, rfl⟩

/-! ## One entry is picked -/

section
variable {s : State} {e : ReadyEnt} {h : Hart} {p : Nat} {r : Vec}

/-- The state in which an entry has left its ready list and its record has been read. -/
def entryTaken (s : State) (p : Nat) (e : ReadyEnt) : State :=
  (readRecord (s.setPart p { s.part p with ready := (s.part p).ready.filter fun f => f.rcd != e.rcd }) p e.rcd).2
/-- The state in which the task of a picked entry runs. -/
def taskRuns (s : State) (e : ReadyEnt) (h : Hart) : State := match s.task e.acc with
  | some t =>
    let t : Task := { t with st := if t.st == .ready then .running else t.st, inst := (instances s t).getD t.inst }
    s.setTask (if kindOf h = .core then t.onCore e.lin (hartCore h) else t)
  | none => s
/-- A record whose continuation may be placed (R30, R32). -/
def mayRun (e : ReadyEnt) (r : Vec) : Bool :=
  (recStatus r == 1 || recStatus r == 3 || recStatus r == 4 || (recStatus r == 6 && e.stoker.isSome)) &&
    r.extractLsb' 448 64 == 0#64

theorem pickOne_eq (record : recordOf s p e.rcd = some r) : pickOne s p e h =
    let c := contOf e.rcd r e.acc e.lin p
    if mayRun e r then
      let u := placeOn (taskRuns (entryTaken s p e) e h) h c (recPc r) (!e.first)
      takeBack (u.setThread h { u.thread h with gang := e.gang }) h c
    else badRecord (entryTaken s p e) p c (recPc r) := by
  have same : (readRecord (s.setPart p { s.part p with ready := (s.part p).ready.filter fun f => f.rcd != e.rcd }) p
      e.rcd).1 = some r := by
    have read (x : Part) := ((sameWay_setPart (x := x) s p).readVA p 0 (vaOf e.rcd) 64).1
    unfold recordOf at record
    unfold readRecord at record ⊢
    dsimp only at record ⊢
    rw [read]
    exact record
  unfold pickOne entryTaken mayRun
  dsimp only
  rw [same, Option.getD_some]
  rfl

theorem sameButTlb_entryTaken (s : State) (p : Nat) (e : ReadyEnt) :
    sameButTlb (s.setPart p { s.part p with ready := (s.part p).ready.filter fun f => f.rcd != e.rcd }) (entryTaken s p e) :=
  readRecord_sameButTlb ..

theorem part_entryTaken (s : State) (p : Nat) (e : ReadyEnt) :
    (entryTaken s p e).part p = { s.part p with ready := (s.part p).ready.filter fun f => f.rcd != e.rcd } :=
  ((sameButTlb_entryTaken s p e).keeps (fun u => u.part p) fun _ _ => rfl).trans (State.part_setPart_self ..)
theorem tasks_entryTaken (s : State) (p : Nat) (e : ReadyEnt) : (entryTaken s p e).tasks = s.tasks :=
  (sameButTlb_entryTaken s p e).keeps State.tasks fun _ _ => rfl
theorem recordKey_entryTaken {k : Nat} {rcd : Word} (key : (readRecord s p e.rcd).2.recordKey p rcd k) :
    (entryTaken s p e).recordKey p rcd k := by
  have way : sameWay (readRecord s p e.rcd).2 (entryTaken s p e) := ((sameWay_setPart s p).readVA p 0 (vaOf e.rcd) 64).2
  exact way.recordKey key

theorem taskRuns_spec (s : State) (e : ReadyEnt) (h : Hart) :
    sameWay s (taskRuns s e h) ∧ (taskRuns s e h).parts = s.parts ∧ sameInstances s (taskRuns s e h) := by
  have on (t : Task) : (t.onCore e.lin (hartCore h)).acc = t.acc ∧ (t.onCore e.lin (hartCore h)).part = t.part ∧
      (t.onCore e.lin (hartCore h)).levels = t.levels ∧ (t.onCore e.lin (hartCore h)).split = t.split ∧
      (t.onCore e.lin (hartCore h)).preempted = t.preempted ∧ (t.onCore e.lin (hartCore h)).opened = t.opened ∧
      (t.onCore e.lin (hartCore h)).reads = t.reads ∧ (t.onCore e.lin (hartCore h)).bound = t.bound := by
    unfold Task.onCore
    split <;> exact ⟨rfl, rfl, rfl, rfl, rfl, rfl, rfl, rfl⟩
  unfold taskRuns
  split
  · next t task =>
    have acc : t.acc = e.acc := by simpa using List.find?_some task
    extract_lets t'
    have old : s.task t'.acc = some t := by rw [show t'.acc = t.acc from rfl, acc]; exact task
    split
    · obtain ⟨acc', part, levels, split, pre, opened, reads, bound⟩ := on t'
      rw [← acc'] at old
      exact ⟨sameWay_setTask old opened reads bound, rfl, sameInstances_setTask old part levels split pre⟩
    · exact ⟨sameWay_setTask old rfl rfl rfl, rfl, sameInstances_setTask old rfl rfl rfl rfl⟩
  · exact ⟨sameWay_refl s, rfl, sameInstances_refl s⟩

end

/-! ## A pickup -/

theorem threads_takeBack (s : State) (h : Hart) (c : Cont) : (takeBack s h c).threads = s.threads ∧
    (takeBack s h c).mem = s.mem ∧ (takeBack s h c).parts = s.parts ∧ (takeBack s h c).tasks = s.tasks := by
  unfold takeBack
  split
  · split <;> exact ⟨rfl, rfl, rfl, rfl⟩
  · exact ⟨rfl, rfl, rfl, rfl⟩

section
variable {s : State} {e : ReadyEnt} {h : Hart} {p : Nat} {r : Vec}

theorem exec_pickup {l : List (ReadyEnt × Hart)} (pick : nextPick s s.cur = some (e, .some l)) : exec .pickup s =
    .next (resumeWhole (l.foldl (fun st x => pickOne st s.cur x.1 x.2) s) e (hartCore ((l.head?.map Prod.snd).getD 0))) := by
  change execPickup s = _
  unfold execPickup
  rw [pick]

theorem pickup_none (pick : nextPick s s.cur = none) : exec .pickup s = .next s := by
  change execPickup s = _
  unfold execPickup
  rw [pick]

/-- The one entry that a pickup places resumes alone, whatever the pickup has left of it. -/
theorem pickup_as {x : State} (pick : nextPick s p = some (e, .some [(e, h)])) (same : sameInstances s x)
    (ready : (x.part p).ready = (s.part p).ready.filter fun f => f.rcd != e.rcd) (core : Nat) :
    resumedAs p x (resumeWhole x e core) := by
  obtain ⟨listed, single⟩ := pick_placeable pick
  refine resumeWhole_as core fun y task whole part f member acc lin => ?_
  obtain ⟨t, task', part', levels, split, pre⟩ := same.task _ y task
  have cores (n : Nat) : y.coreOf n = t.coreOf n := Task.coreOf_congr levels split n
  have whole' : wholeOnly t e = true := by
    unfold wholeOnly at whole ⊢
    rw [← cores, ← pre]
    exact whole
  rw [ready] at member
  obtain ⟨old, other⟩ := List.mem_filter.1 member
  have at' : t.part = p := part'.symm.trans part
  have self : f = e := placeable_alone single task' whole' (by rw [at']; exact listed) f (by rw [at']; exact old) acc
    (by rw [← cores, ← cores, lin])
  rw [self] at other
  simp at other

theorem pickOne_placed (record : recordOf s p e.rcd = some r) (may : mayRun e r = true) :
    let x := pickOne s p e h
    let c := contOf e.rcd r e.acc e.lin p
    x.thread h = { run := .running, regs := pickupRegs c (recPc r) (!e.first)
                   chunk := { begun := pickupRegs c (recPc r) (!e.first) }, cont := c, placed := s.now, gang := e.gang } ∧
    (∀ q, (readRecord s p e.rcd).2.recordKey p e.rcd q → x.byteAt (q + 39) = 2) ∧
    (x.part p).ready = (s.part p).ready.filter (fun f => f.rcd != e.rcd) ∧ sameInstances s x := by
  intro x c
  let v := taskRuns (entryTaken s p e) e h
  let w := placeOn v h c (recPc r) (!e.first)
  let y := w.setThread h { w.thread h with gang := e.gang }
  have whole : x = takeBack y h c := (pickOne_eq record).trans (if_pos may)
  obtain ⟨threads, mem, parts, tasks⟩ := threads_takeBack y h c
  obtain ⟨way, parts', instances'⟩ := taskRuns_spec (entryTaken s p e) e h
  have now : v.now = s.now := by
    have runs (u : State) : (taskRuns u e h).now = u.now := by
      unfold taskRuns
      split <;> rfl
    exact (runs _).trans ((sameButTlb_entryTaken s p e).keeps State.now fun _ _ => rfl)
  have bytes := bytesOnly_putRecord h v c 39 [BitVec.ofNat 8 2]
  have noted (u : State) : (u.noteWindow h fun _ => true).tasks = u.tasks := by
    unfold State.noteWindow
    split <;> rfl
  refine ⟨?_, fun q key => ?_, ?_, ?_⟩
  · have same : x.thread h = { w.thread h with gang := e.gang } := by
      rw [whole, State.thread, threads]
      exact State.thread_setThread_self ..
    rw [same, thread_placeOn, now]
  · have key' := way.recordKey (recordKey_entryTaken key)
    obtain ⟨u, -, at', -⟩ := putRecord_of_recordKey (h := h) (c := c) (off := 39) (bytes := [BitVec.ofNat 8 2]) key' (by simp)
      (by simp)
    have same : x.mem = (putRecord v h c 39 [BitVec.ofNat 8 2]).mem := by
      rw [whole, mem, State.setThread_mem]
      exact State.noteWindow_mem ..
    have plain := key'.2.2.1 39 (by decide)
    rw [State.byteAt_congr_plain same plain, at', State.byteAt_writeAt_one _ _ _ plain]
    rfl
  · have same : x.part p = v.part p := by
      rw [whole, State.part, parts]
      exact (State.part_noteWindow ..).trans (bytes.part p)
    rw [same, State.part, parts']
    exact congrArg Part.ready (part_entryTaken s p e)
  · have same : x.tasks = v.tasks := by
      rw [whole, tasks]
      exact (noted _).trans (bytes.keeps State.tasks fun _ _ _ _ => rfl)
    exact sameInstances_trans (sameInstances_of_tasks (tasks_entryTaken s p e))
      (sameInstances_trans instances' (sameInstances_of_tasks same))

/-- A pickup of one continuation whose record may run. -/
theorem pickup_placed (pick : nextPick s s.cur = some (e, .some [(e, h)])) (record : recordOf s s.cur e.rcd = some r)
    (may : mayRun e r = true) : ∃ x, exec .pickup s = .next x ∧ (x.thread h).run = .running ∧
      (x.thread h).regs = pickupRegs (contOf e.rcd r e.acc e.lin s.cur) (recPc r) (!e.first) ∧
      (x.thread h).cont = contOf e.rcd r e.acc e.lin s.cur ∧ (x.thread h).placed = s.now ∧ (x.thread h).gang = e.gang ∧
      (∀ q, (readRecord s s.cur e.rcd).2.recordKey s.cur e.rcd q → x.byteAt (q + 39) = 2) ∧
      (x.part s.cur).ready = (s.part s.cur).ready.filter (fun f => f.rcd != e.rcd) := by
  obtain ⟨thread, byte, ready, same⟩ := pickOne_placed (h := h) record may
  have rest := pickup_as pick same ready (hartCore h)
  have thread' : (resumeWhole (pickOne s s.cur e h) e (hartCore h)).thread h = (pickOne s s.cur e h).thread h := by
    rw [State.thread, rest.threads]
    rfl
  rw [thread] at thread'
  refine ⟨resumeWhole (pickOne s s.cur e h) e (hartCore h), exec_pickup pick, ?_, ?_, ?_, ?_, ?_, fun q key => ?_,
    rest.ready.trans ready⟩
  · rw [thread']
  · rw [thread']
  · rw [thread']
  · rw [thread']
  · rw [thread']
  · have plain := key.2.2.1 39 (by decide)
    rw [State.byteAt_congr_plain rest.mem plain, byte q key]

/-! ## A record that may not run -/

theorem endRecord_keeps {α : Type} (f : State → α) (s : State) (h : Hart) (c : Cont) (status : Nat)
    (free : ∀ (s : State) threads mem dram tasks dies vers gone groups, f { s with
      threads := threads, mem := mem, dram := dram, tasks := tasks, dies := dies, vers := vers, gone := gone, groups := groups
          } =
      f s) : f (endRecord s h c status) = f s := by
  have put (u : State) (c : Cont) (n : Nat) : f (putStatus u h c n) = f u :=
    (bytesOnly_putRecord h u c 39 [BitVec.ofNat 8 n]).keeps f fun s x m d =>
      free s x m d s.tasks s.dies s.vers s.gone s.groups
  have task (u : State) (t : Task) : f (u.setTask t) = f u :=
    free u u.threads u.mem u.dram (u.setTask t).tasks u.dies u.vers u.gone u.groups
  have die (u : State) (d : Nat) (x : Die) : f (u.setDie d x) = f u :=
    free u u.threads u.mem u.dram u.tasks (u.setDie d x).dies u.vers u.gone u.groups
  have slots (u : State) (tile : Nat) (l : List VSlot) : f (u.setVslots tile l) = f u :=
    free u u.threads u.mem u.dram u.tasks u.dies (u.setVslots tile l).vers u.gone u.groups
  have freed (u : State) (x : Nat × Nat) : f (u.freeSlot x.1 x.2) = f u :=
    free u u.threads u.mem u.dram u.tasks u.dies (u.freeSlot x.1 x.2).vers (u.freeSlot x.1 x.2).gone u.groups
  have published (n : Nat) (u : State) (tile : Nat) : f (publishTile u tile n) = f u := by
    induction n generalizing u with
    | zero => rfl
    | succ n ih =>
      unfold publishTile
      dsimp only
      split
      · split
        · exact (ih _).trans (slots ..)
        · rfl
      · rfl
  have succeeded (u : State) (k : Closure) : f (u.endSuccessor k) = f u := by
    unfold State.endSuccessor
    dsimp only
    split
    · exact free u u.threads u.mem u.dram u.tasks u.dies u.vers u.gone (u.setGroup k.key
        { u.group k.key with live := false }).groups
    · rfl
  unfold endRecord
  split
  · rfl
  · dsimp only
    split
    · rfl
    · split
      · refine (foldl_keeps _ f _ _ fun _ _ => put ..).trans ?_
        split
        · refine (succeeded ..).trans ((foldl_keeps _ f _ _ fun _ _ => published ..).trans ?_)
          split
          · exact (foldl_keeps _ f _ _ fun _ _ => freed ..).trans ((die ..).trans (task ..))
          · exact (die ..).trans (task ..)
        · refine (foldl_keeps _ f _ _ fun _ _ => published ..).trans ?_
          split
          · exact (foldl_keeps _ f _ _ fun _ _ => freed ..).trans ((die ..).trans (task ..))
          · exact (die ..).trans (task ..)
      · exact task ..

end

theorem sameInstances_endRecord (s : State) (h : Hart) (c : Cont) (status : Nat) :
    sameInstances s (endRecord s h c status) := by
  have put (u : State) (c : Cont) (n : Nat) : (putStatus u h c n).tasks = u.tasks :=
    (bytesOnly_putRecord h u c 39 [BitVec.ofNat 8 n]).keeps State.tasks fun _ _ _ _ => rfl
  have published (n : Nat) (u : State) (tile : Nat) : (publishTile u tile n).tasks = u.tasks := by
    induction n generalizing u with
    | zero => rfl
    | succ n ih =>
      unfold publishTile
      dsimp only
      split
      · split
        · exact (ih _).trans rfl
        · rfl
      · rfl
  have succeeded (u : State) (k : Closure) : (u.endSuccessor k).tasks = u.tasks := by
    unfold State.endSuccessor
    dsimp only
    split <;> rfl
  unfold endRecord
  split
  · exact sameInstances_refl s
  · next t task =>
    have old : s.task t.acc = some t := by
      rw [show t.acc = c.acc by simpa using List.find?_some task]
      exact task
    dsimp only
    split
    · exact sameInstances_refl s
    · split
      · refine sameInstances_trans (sameInstances_setTask (x := t) (t := { t with
          st := .ended
          recs := t.recs.map fun (r : Word × Nat) => if r.1 == c.rcd && r.2 == 0 then (r.1, status) else r
          retired := t.retired || status == 8 }) old rfl rfl rfl rfl) (sameInstances_of_tasks ?_)
        refine (foldl_keeps _ State.tasks _ _ fun _ _ => put ..).trans ?_
        split
        · refine (succeeded ..).trans ((foldl_keeps _ State.tasks _ _ fun _ _ => published ..).trans ?_)
          split
          · exact foldl_keeps _ State.tasks _ _ fun _ _ => rfl
          · rfl
        · refine (foldl_keeps _ State.tasks _ _ fun _ _ => published ..).trans ?_
          split
          · exact foldl_keeps _ State.tasks _ _ fun _ _ => rfl
          · rfl
      · exact sameInstances_setTask (x := t) old rfl rfl rfl rfl

section
variable {s : State} {e : ReadyEnt} {h : Hart} {p : Nat} {r : Vec}

/-- The state in which a bad record has taken STATUS 8, is counted and has left its trap record. -/
def badTrapped (s : State) (p : Nat) (c : Cont) (pc : Word) : State :=
  grateTrap ((putStatus s grateHart c 8).countPart p pBadRecord) p .illegal 0 (some c) (some pc)

theorem badTrapped_spec (s : State) (p : Nat) (c : Cont) (pc : Word) : ∃ q : TrapRec,
    ((badTrapped s p c pc).part p).ready = (s.part p).ready ∧
    Tab.get 0 ((badTrapped s p c pc).part p).stat pBadRecord = Tab.get 0 (s.part p).stat pBadRecord + 1 ∧
    ((badTrapped s p c pc).part p).traps = (s.part p).traps ++ [q] ∧
    q.data.extractLsb' 0 8 = BitVec.ofNat 8 (Trap.code .illegal) ∧ q.data.extractLsb' 64 64 = pc ∧
    (badTrapped s p c pc).threads = (putStatus s grateHart c 8).threads ∧
    (badTrapped s p c pc).mem = (putStatus s grateHart c 8).mem ∧ (badTrapped s p c pc).jobs = s.jobs ∧
    (badTrapped s p c pc).tasks = s.tasks := by
  have bytes := bytesOnly_putRecord grateHart s c 39 [BitVec.ofNat 8 8]
  let u := (putStatus s grateHart c 8).countPart p pBadRecord
  have part : u.part p = { s.part p with stat := bump (s.part p).stat pBadRecord 1 } :=
    (State.part_setPart_self ..).trans (congrArg (fun x : Part => { x with stat := bump x.stat pBadRecord 1 }) (bytes.part p))
  obtain ⟨q, trap, code, -, at'⟩ := grateTrap_spec u p .illegal 0 (some c) (some pc)
  have whole : badTrapped s p c pc = _ := trap
  refine ⟨q, ?_, ?_, ?_, code, at' pc rfl, ?_, ?_, ?_, ?_⟩
  · rw [whole, State.part_setPart_self, part]
  · rw [whole, State.part_setPart_self, part]
    exact Tab.get_set_self ..
  · rw [whole, State.part_setPart_self, part]
  · rw [whole]
    rfl
  · rw [whole]
    rfl
  · rw [whole]
    exact bytes.keeps State.jobs fun _ _ _ _ => rfl
  · rw [whole]
    exact bytes.keeps State.tasks fun _ _ _ _ => rfl

theorem pickOne_bad (record : recordOf s p e.rcd = some r) (bad : mayRun e r = false)
    (noRun : (readRecord s p e.rcd).2.runJob p e.rcd = none) :
    let x := pickOne s p e h
    ∃ q : TrapRec, (x.thread h).run = (s.thread h).run ∧
    Tab.get 0 (x.part p).stat pBadRecord = Tab.get 0 (s.part p).stat pBadRecord + 1 ∧
    (x.part p).traps = (s.part p).traps ++ [q] ∧ q.data.extractLsb' 0 8 = BitVec.ofNat 8 (Trap.code .illegal) ∧
    q.data.extractLsb' 64 64 = recPc r ∧ (x.part p).ready = (s.part p).ready.filter (fun f => f.rcd != e.rcd) ∧
    sameInstances s x ∧
    ∀ y z k, s.task e.acc = some y → (e.rcd, 0) ∈ y.recs → z ∈ y.recs → z.1 ≠ e.rcd → z.2 = 0 →
      (readRecord s p e.rcd).2.recordKey p e.rcd k → x.byteAt (k + 39) = 8 := by
  intro x
  let c := contOf e.rcd r e.acc e.lin p
  let v := entryTaken s p e
  obtain ⟨q, ready, stat, traps, code, pc, threads, mem, jobs, tasks⟩ := badTrapped_spec v p c (recPc r)
  have sameJobs : v.jobs = (readRecord s p e.rcd).2.jobs :=
    ((sameButTlb_entryTaken s p e).keeps State.jobs fun _ _ => rfl).trans
      ((readRecord_sameButTlb s p e.rcd).keeps State.jobs fun _ _ => rfl).symm
  have none' : (badTrapped v p c (recPc r)).runJob p c.rcd = none := by
    unfold State.runJob at noRun ⊢
    rw [jobs, sameJobs]
    exact noRun
  have whole : x = endRecord (badTrapped v p c (recPc r)) grateHart c 8 := by
    refine (pickOne_eq record).trans ((if_neg (Bool.eq_false_iff.1 bad)).trans ?_)
    unfold badRecord
    dsimp only
    rw [← badTrapped, none']
  have part : x.part p = (badTrapped v p c (recPc r)).part p := by
    rw [whole]
    exact endRecord_keeps (fun u => u.part p) _ _ _ _ fun _ _ _ _ _ _ _ _ _ => rfl
  have tasks' : (badTrapped v p c (recPc r)).tasks = s.tasks := tasks.trans (tasks_entryTaken s p e)
  refine ⟨q, ?_, ?_, ?_, code, pc, ?_, ?_, ?_⟩
  · rw [whole, (restsSo_endRecord h ..).run, State.thread, threads]
    refine (restsSo_putStatus h v grateHart c 8).run.trans ?_
    exact congrArg Thread.run ((sameButTlb_entryTaken s p e).thread h)
  · rw [part, stat, part_entryTaken]
  · rw [part, traps, part_entryTaken]
  · rw [part, ready, part_entryTaken]
  · rw [whole]
    exact sameInstances_trans (sameInstances_of_tasks tasks') (sameInstances_endRecord ..)
  · intro y z k task here other apart running key
    have task' : (badTrapped v p c (recPc r)).task c.acc = some y := by
      rw [State.task, tasks']
      exact task
    have key' : v.recordKey p e.rcd k := recordKey_entryTaken key
    obtain ⟨u, -, at', -⟩ := putRecord_of_recordKey (s := v) (h := grateHart) (c := c) (off := 39) (bytes := [BitVec.ofNat 8 8])
      key' (by simp) (by simp)
    have plain := key.2.2.1 39 (by decide)
    have same : x.mem = (putRecord v grateHart c 39 [BitVec.ofNat 8 8]).mem := by
      rw [whole, endRecord_open task' here other apart running, State.setTask_mem, mem]
      rfl
    rw [State.byteAt_congr_plain same plain, at', State.byteAt_writeAt_one _ _ _ plain]
    rfl

/-- A pickup of one continuation whose record may not run. -/
theorem pickup_bad (pick : nextPick s s.cur = some (e, .some [(e, h)])) (record : recordOf s s.cur e.rcd = some r)
    (bad : mayRun e r = false) (noRun : (readRecord s s.cur e.rcd).2.runJob s.cur e.rcd = none) :
    ∃ x q, exec .pickup s = .next x ∧ (x.thread h).run = (s.thread h).run ∧
      Tab.get 0 (x.part s.cur).stat pBadRecord = Tab.get 0 (s.part s.cur).stat pBadRecord + 1 ∧
      (x.part s.cur).traps = (s.part s.cur).traps ++ [q] ∧ q.data.extractLsb' 0 8 = BitVec.ofNat 8 (Trap.code .illegal) ∧
      q.data.extractLsb' 64 64 = recPc r ∧ (x.part s.cur).ready = (s.part s.cur).ready.filter (fun f => f.rcd != e.rcd) ∧
      ∀ y z k, s.task e.acc = some y → (e.rcd, 0) ∈ y.recs → z ∈ y.recs → z.1 ≠ e.rcd → z.2 = 0 →
        (readRecord s s.cur e.rcd).2.recordKey s.cur e.rcd k → x.byteAt (k + 39) = 8 := by
  obtain ⟨q, run, stat, traps, code, pc, ready, same, byte⟩ := pickOne_bad (h := h) record bad noRun
  have rest := pickup_as pick same ready (hartCore h)
  refine ⟨resumeWhole (pickOne s s.cur e h) e (hartCore h), q, exec_pickup pick, ?_, ?_, rest.traps.trans traps, code, pc,
    rest.ready.trans ready, fun y z k task here other apart running key => ?_⟩
  · rw [State.thread, rest.threads]
    exact run
  · rw [rest.stat]
    exact stat
  · have plain := key.2.2.1 39 (by decide)
    rw [State.byteAt_congr_plain rest.mem plain]
    exact byte y z k task here other apart running key

end

end Sys2Proof.Machine
end

section
/-! SUPPORT. Wakes, aging and marks (O56): what WAITC_WAKE, PRIORITY_AGING and PREEMPT_MARK leave (R52, R54, R198, R376). -/

namespace Sys2Proof.Machine

/-! ## WAITC_WAKE -/

/-- The waiting record at an address word whose condition is met, and its partition. -/
def State.metAt (s : State) (rcd : Nat) : Option (Nat × WaitEnt) :=
  s.parts.findSome? fun p => (p.2.waiting.find? fun w => w.rcd.toNat == rcd && w.met).map fun w => (p.1, w)

theorem wake_queues {s : State} {p : Nat} {w : WaitEnt} (found : s.metAt s.cur = some (p, w)) :
    ∃ x, exec .waitcWake s = .next x ∧ (x.part p).ready = (s.part p).ready ++ [{ w.ent with since := s.now, rise := 0 }] ∧
      (x.part p).waiting = (s.part p).waiting.filter (fun y => y.rcd != w.rcd) := by
  have bytes := bytesOnly_putRecord grateHart s { rcd := w.rcd, part := p } 39 [BitVec.ofNat 8 1]
  let u := putStatus s grateHart { rcd := w.rcd, part := p } 1
  have now : u.now = s.now := bytes.keeps State.now fun _ _ _ _ => rfl
  have part : u.part p = s.part p := bytes.part p
  let v := u.setPart p { u.part p with waiting := (u.part p).waiting.filter fun y => y.rcd != w.rcd }
  have queued := State.part_enqueue v p { w.ent with since := v.now, rise := 0 }
  rw [State.part_setPart_self, part] at queued
  refine ⟨v.enqueue p { w.ent with since := v.now, rise := 0 }, ?_, ?_, ?_⟩
  · change execWaitcWake s = _
    unfold execWaitcWake
    rw [← State.metAt, found]
  · rw [queued, show v.now = s.now from now]
  · rw [queued]

/-! ## PRIORITY_AGING -/

theorem aging_rises {s : State} {p : Nat} {e : ReadyEnt} (found : s.readyOf s.cur = some (p, e)) (low : e.level < 7)
    (due : e.since + (e.rise + 1) * 2 ^ 16 ≤ s.now) : ∃ x, exec .priorityAging s = .next x ∧
      x.readyOf s.cur = some (p, { e with rise := e.rise + 1 }) ∧ x.mem = s.mem := by
  let f (e : ReadyEnt) : ReadyEnt := { e with rise := e.rise + 1 }
  refine ⟨s.onReady s.cur f, ?_, ?_, rfl⟩
  · change execPriorityAging s = _
    unfold execPriorityAging
    rw [found]
    exact if_pos (by rw [decide_eq_true low, decide_eq_true due]; rfl)
  · have rcd (e : ReadyEnt) : (if e.rcd.toNat == s.cur then f e else e).rcd = e.rcd := by split <;> rfl
    have entry (l : List ReadyEnt) : ((l.map fun e => if e.rcd.toNat == s.cur then f e else e).find? fun e =>
        e.rcd.toNat == s.cur) = (l.find? fun e => e.rcd.toNat == s.cur).map f := by
      rw [List.find?_map, show ((fun e : ReadyEnt => e.rcd.toNat == s.cur) ∘ fun e => if e.rcd.toNat == s.cur then f e else e) =
        fun e => e.rcd.toNat == s.cur from funext fun e => by rw [Function.comp_apply, rcd]]
      rcases at' : l.find? fun e => e.rcd.toNat == s.cur with _ | e
      · rw [at']
        rfl
      · rw [at']
        exact congrArg some (if_pos (List.find?_some (p := fun e : ReadyEnt => e.rcd.toNat == s.cur) at'))
    unfold State.readyOf at found ⊢
    rw [State.onReady, List.findSome?_map]
    have shape : ((fun p : Nat × Part => (p.2.ready.find? fun e => e.rcd.toNat == s.cur).map fun e => (p.1, e)) ∘
        fun p : Nat × Part => (p.1, { p.2 with ready := p.2.ready.map fun e => if e.rcd.toNat == s.cur then f e else e })) =
        fun p => ((p.2.ready.find? fun e => e.rcd.toNat == s.cur).map fun e => (p.1, e)).map fun x => (x.1, f x.2) := by
      funext q
      rw [Function.comp_apply]
      dsimp only
      rw [entry, Option.map_map, Option.map_map]
      rfl
    rw [shape]
    exact List.map_findSome?.symm.trans (congrArg (Option.map fun x : Nat × ReadyEnt => (x.1, f x.2)) found)

/-! ## PREEMPT_MARK -/

section
variable {s : State} {e : ReadyEnt} {t : Task} {h : Hart} {p : Nat} {v : Nat × Nat × Nat}

/-- The order of R376 among the threads that may be marked. -/
def markedBefore (a b : (Nat × Nat × Nat) × Hart) : Bool :=
  if a.1.1 ≠ b.1.1 then a.1.1 < b.1.1
  else if a.1.2.1 ≠ b.1.2.1 then a.1.2.1 < b.1.2.1
  else a.1.2.2 < b.1.2.2
/-- The threads that a waiting continuation may have marked. -/
def victims (s : State) (t : Task) (e : ReadyEnt) : List ((Nat × Nat × Nat) × Hart) :=
  s.threads.filterMap fun x => (victim s t e x.1).map fun v => (v, x.1)

theorem victim_spec (found : victim s t e h = some v) : kindOf h = .core ∧ (s.thread h).live = true ∧
    (s.thread h).mark = none := by
  unfold victim at found
  dsimp only at found
  split at found
  · exact nomatch found
  · next can => simpa [and_assoc] using can

end

/-- From `s` to `t` a mark that thread set `k` has taken falls due PDEAD cycles from now. -/
structure marksDue (k : Hart) (s t : State) : Prop where
  only : marksOnly k s t
  now : t.now = s.now
  due : (t.thread k).mark = (s.thread k).mark ∨ (t.thread k).mark = some (s.now + (s.thread k).regs.ctl.pdead.toNat)

section
variable {k : Hart}

theorem marksDue_of_eq {s t : State} (same : t.thread k = s.thread k) (now : t.now = s.now) : marksDue k s t :=
  ⟨marksOnly_of_eq same, now, Or.inl (by rw [same])⟩
theorem marksDue_trans {s t u : State} (st : marksDue k s t) (tu : marksDue k t u) : marksDue k s u := by
  refine ⟨marksOnly_trans st.only tu.only, tu.now.trans st.now, ?_⟩
  rcases tu.due with kept | set
  · rw [kept]
    exact st.due
  · rw [set, st.now, st.only.thread]
    exact Or.inr rfl
theorem marksDue_foldl {β : Type} (g : State → β → State) (each : ∀ u b, marksDue k u (g u b)) (l : List β) (u : State) :
    marksDue k u (l.foldl g u) := by
  induction l generalizing u with
  | nil => exact marksDue_of_eq rfl rfl
  | cons b r ih => exact marksDue_trans (each u b) (ih _)
theorem marksDue_markOne (u : State) (h : Hart) : marksDue k u (markOne u h) := by
  refine ⟨marksOnly_markOne u h, ?_, ?_⟩ <;> unfold markOne <;> dsimp only <;> split
  · rfl
  · rfl
  · by_cases here : k = h
    · subst here
      exact Or.inr (by rw [State.thread_setThread_self])
    · exact Or.inl (by rw [State.thread_setThread, if_neg here])
  · exact Or.inl rfl
theorem marksDue_notePreempted (u : State) (h : Hart) : marksDue k u (notePreempted u h) := by
  unfold notePreempted
  dsimp only
  split
  · split
    · exact marksDue_of_eq rfl rfl
    · exact marksDue_of_eq rfl rfl
  · exact marksDue_of_eq rfl rfl
theorem marksDue_markThread (u : State) (h : Hart) : marksDue k u (markThread u h) := by
  unfold markThread
  extract_lets l v
  have marked : marksDue k u v := marksDue_foldl _ marksDue_markOne _ _
  split
  · exact marksDue_trans marked (marksDue_foldl _ marksDue_notePreempted _ _)
  · exact marked

/-- A running core thread outside a save routine takes a mark that falls due PDEAD cycles from now. -/
theorem markThread_due {s : State} (core : kindOf k = .core) (live : (s.thread k).live = true)
    (unmarked : (s.thread k).mark = none) (outside : (s.thread k).savemode = none) :
    ((markThread s k).thread k).mark = some (s.now + (s.thread k).regs.ctl.pdead.toNat) ∧
      ((markThread s k).thread k).regs = (s.thread k).regs := by
  have due := marksDue_markThread (k := k) s k
  have marked := markThread_marks core s ⟨live, outside⟩
  refine ⟨due.due.resolve_left fun same => ?_, by rw [due.only.thread]⟩
  rw [same, unmarked] at marked
  exact nomatch marked

end

section
variable {s : State} {e : ReadyEnt} {t : Task} {h : Hart} {p : Nat} {v : Nat × Nat × Nat}

theorem preempt_marks (found : s.readyOf s.cur = some (p, e)) (task : s.task e.acc = some t) (prio : 2 ≤ e.prio)
    (waited : e.since + 2 ^ 14 ≤ s.now) (asked : e.asked = none) (stoker : e.stoker = none) (nowhere : placeable s e = none)
    (noGang : ∀ x ∈ waitingGangs s, e.gang = some x.1 → gangPlaceFor s x.1 x.2 = none)
    (chosen : leastBy markedBefore (victims s t e) = some (v, h)) (outside : (s.thread h).savemode = none) :
    ∃ x, exec .preemptMark s = .next x ∧ (x.thread h).mark = some (s.now + (s.thread h).regs.ctl.pdead.toNat) ∧
      (x.thread h).regs = (s.thread h).regs := by
  obtain ⟨w, -, same⟩ := List.mem_filterMap.1 (leastBy_mem chosen)
  obtain ⟨v', may, pair⟩ := Option.map_eq_some_iff.1 same
  obtain ⟨-, rfl⟩ := Prod.mk.inj pair
  obtain ⟨core, live, unmarked⟩ := victim_spec may
  obtain ⟨mark, regs⟩ := markThread_due core live unmarked outside
  refine ⟨(markThread s w.1).onReady s.cur fun e => { e with asked := some (w.1, (s.thread w.1).cont.rcd) }, ?_, mark, regs⟩
  have none' : ((waitingGangs s).any fun x => e.gang == some x.1 && (gangPlaceFor s x.1 x.2).isSome) = false := by
    refine List.any_eq_false.2 fun x listed both => ?_
    rw [Bool.and_eq_true, beq_iff_eq] at both
    rw [noGang x listed both.1] at both
    exact nomatch both.2
  change execPreemptMark s = _
  unfold execPreemptMark
  rw [found]
  dsimp only
  rw [task]
  dsimp only
  rw [asked, stoker, nowhere, none', decide_eq_false (by omega), decide_eq_false (by omega)]
  refine (if_neg (by simp)).trans ?_
  rw [← victims]
  change (match leastBy markedBefore (victims s t e) with
    | none => Host.Outcome.next s
    | some (_, h) =>
      .next ((markThread s h).onReady s.cur fun e => { e with asked := some (h, (s.thread h).cont.rcd) })) = _
  rw [chosen]

end

/-! ## OVERDUE -/

/-- The state in which the chunk of a hart whose deadline has passed has committed or is dropped. -/
def chunkOver (s : State) (h : Hart) : State := match s.endChunk h with
  | .ok s => s
  | .error _ => dropChunk s h
/-- The state in which its stores are performed and an MNF that was due is counted. -/
def storesOver (s : State) (h : Hart) : State :=
  let u := (chunkOver s h).drain h
  if (s.thread h).mnf.isSome then u.countCl (hartCl h) cMnf 1 else u
/-- The state in which a halted thread stands at the head after HALT. -/
def headOver (s : State) (h : Hart) : State :=
  let u := storesOver s h
  if (u.thread h).run = .halted then u.setThread h { u.thread h with regs := { (u.thread h).regs with pc := u.fall h } } else u
/-- The trap record of a hart whose deadline has passed. -/
def overdueRec (s : State) (h : Hart) : TrapRec :=
  let t := s.thread h
  { data := trapData h t.cont t.savemode.isSome t.gang.isSome { trapHere (headOver s h) h .overdue 0 0 with parked := false }
    retire := some (h, t.cont) }
/-- The state in which that record stands in its partition's list. -/
def overdueTrapped (s : State) (h : Hart) : State :=
  let p := (s.thread h).cont.part
  (headOver s h).setPart p { (headOver s h).part p with traps := ((headOver s h).part p).traps ++ [overdueRec s h] }
/-- The state in which the hart has left the array, its gang, its group and the token, and its register window is settled. -/
def allLeft (s : State) (h : Hart) : State := landAll ((leaveGroup (leaveGang (s.releaseArray h) h) h).dropToken h) h

theorem sameRuns_commitStore (s : State) (h : Hart) (w : WStore) : sameRuns s (commitStore s h w) :=
  sameRuns_ite (sameRuns_writeAt ..) (sameRuns_of_threads rfl)
theorem sameRuns_setToken (s : State) (a : Nat) (x : Option Hart) : sameRuns s (s.setToken a x) :=
  ⟨fun _ => by rw [State.thread_setToken], fun _ => by rw [State.thread_setToken]⟩
theorem sameRuns_settlePops (s : State) (h : Hart) (l : Tab Nat) : sameRuns s (s.settlePops h l) := by
  unfold State.settlePops
  exact sameRuns_ite (sameRuns_of_threads rfl) (sameRuns_refl s)
theorem sameRuns_commit (s : State) (h : Hart) : sameRuns s (s.commit h) := by
  have stored := sameRuns_foldl (fun u w => commitStore u h w) (fun _ _ => sameRuns_commitStore ..)
    (s.thread h).chunk.stores s
  have popped := sameRuns_trans stored (sameRuns_settlePops _ h (s.thread h).chunk.pops)
  unfold State.commit
  extract_lets t u v w core x y z wait
  have broke : sameRuns s w := sameRuns_ite popped (sameRuns_trans popped (sameRuns_of_threads rfl))
  have overran : sameRuns s x := sameRuns_ite broke (sameRuns_trans broke (sameRuns_of_threads rfl))
  have freed : sameRuns s y := sameRuns_ite (sameRuns_trans overran (sameRuns_setToken ..)) overran
  clear_value y
  refine sameRuns_trans (sameRuns_trans (sameRuns_trans freed (sameRuns_endRedo y h)) ?_) (sameRuns_noteWindow ..)
  exact sameRuns_setThread rfl rfl
theorem sameRuns_dropChunk (s : State) (h : Hart) : sameRuns s (dropChunk s h) := by
  unfold dropChunk
  extract_lets t u
  have back : sameRuns s (s.setThread h { t with regs := t.chunk.begun, chunk := { begun := t.chunk.begun } }) :=
    sameRuns_setThread rfl rfl
  have set : sameRuns s u := sameRuns_trans back (sameRuns_settlePops ..)
  exact sameRuns_ite (sameRuns_trans set (sameRuns_of_threads rfl)) set
theorem sameRuns_chunkOver (s : State) (h : Hart) : sameRuns s (chunkOver s h) := by
  unfold chunkOver State.endChunk
  split
  · next u ended =>
    split at ended
    · exact nomatch ended
    · split at ended
      · exact nomatch ended
      · split at ended
        · exact nomatch ended
        · split at ended
          · exact nomatch ended
          · cases ended
            exact sameRuns_commit ..
  · exact sameRuns_dropChunk ..
theorem sameRuns_headOver (s : State) (h : Hart) : sameRuns s (headOver s h) := by
  have drained := sameRuns_trans (sameRuns_chunkOver s h) (sameRuns_drain _ h)
  have counted : sameRuns s (storesOver s h) := sameRuns_ite (sameRuns_trans drained (sameRuns_of_threads rfl)) drained
  exact sameRuns_ite (sameRuns_trans counted (sameRuns_setThread rfl rfl)) counted

theorem part_landAll (s : State) (h : Hart) (p : Nat) : (landAll s h).part p = s.part p := by
  have land (u : State) : (landPending u h).part p = u.part p := by
    unfold landPending
    dsimp only
    split
    · rfl
    · split
      · exact State.part_noteWindow ..
      · exact State.part_noteWindow ..
  exact foldl_keeps _ (fun u : State => u.part p) _ _ fun _ _ => land _

/-- What a hart leaves at its end changes no partition and keeps its continuation. -/
theorem allLeft_spec (s : State) (h : Hart) :
    (∀ p, (allLeft s h).part p = s.part p) ∧ ((allLeft s h).thread h).cont = (s.thread h).cont := by
  let u := leaveGang (s.releaseArray h) h
  have gang : (∀ p, u.part p = s.part p) ∧ (u.thread h).cont = (s.thread h).cont := by
    have left (v : State) : (leaveGang v h).parts = v.parts ∧ (leaveGang v h).threads = v.threads := by
      unfold leaveGang
      split <;> exact ⟨rfl, rfl⟩
    obtain ⟨parts, threads⟩ := left (s.releaseArray h)
    refine ⟨fun p => ?_, ?_⟩
    · rw [State.part, parts]
      exact (leftBy_releaseArray s h).keeps (fun v => v.part p) fun _ _ _ _ _ _ => rfl
    · rw [State.thread, threads]
      exact (restsSo_releaseArray h s h).cont
  have group : (∀ p, (leaveGroup u h).part p = u.part p) ∧ (leaveGroup u h).thread h = u.thread h := by
    unfold leaveGroup
    dsimp only
    split
    · split <;> exact ⟨fun _ => rfl, rfl⟩
    · exact ⟨fun _ => rfl, rfl⟩
  have token : (∀ p, ((leaveGroup u h).dropToken h).part p = s.part p) ∧
      (((leaveGroup u h).dropToken h).thread h).cont = (s.thread h).cont := by
    have thread : ((leaveGroup u h).dropToken h).thread h = (leaveGroup u h).thread h := by
      unfold State.dropToken
      split
      · exact State.thread_setToken ..
      · rfl
    refine ⟨fun p => ?_, by rw [thread, group.2, gang.2]⟩
    rw [State.part, (State.parts_dropToken ..).1]
    exact (group.1 p).trans (gang.1 p)
  obtain ⟨r, b, landed, -⟩ := thread_landAll_self ((leaveGroup u h).dropToken h) h
  refine ⟨fun p => (part_landAll ..).trans (token.1 p), ?_⟩
  exact (congrArg Thread.cont landed).trans token.2

/-- The state in which OVERDUE has ended its hart. -/
def overdueEnded (s : State) (h : Hart) : State :=
  let u := allLeft (overdueTrapped s h) h
  let t := u.thread h
  (u.countPart (s.thread h).cont.part pOverdue).setThread h { t with
    run := .retiring, chunk := { begun := t.regs }, wait := .none, mark := none, mnf := none, gang := none, replay := [], path
        := [] }

theorem overdue_ends {s : State} {d : Nat} (live : s.me.live = true) (mark : s.me.mark = some d) (due : d ≤ s.now) :
    ∃ x r, exec .overdue s = .next x ∧ (x.thread s.cur).run = .retiring ∧ (x.thread s.cur).cont = s.me.cont ∧
      r ∈ (x.part s.me.cont.part).traps ∧ r.data.extractLsb' 0 8 = BitVec.ofNat 8 (Trap.code .overdue) ∧
      r.retire = some (s.cur, s.me.cont) := by
  have going : (s.thread s.cur).run ≠ .retiring := fun run => by
    rw [State.me, Thread.live, run] at live
    exact nomatch live
  obtain ⟨parts, cont⟩ := allLeft_spec (overdueTrapped s s.cur) s.cur
  have listed : overdueRec s s.cur ∈ ((allLeft (overdueTrapped s s.cur) s.cur).part s.me.cont.part).traps := by
    rw [parts]
    refine (congrArg (fun p : Part => overdueRec s s.cur ∈ p.traps) (State.part_setPart_self ..)).mpr ?_
    exact List.mem_append_right _ List.mem_cons_self
  refine ⟨overdueEnded s s.cur, overdueRec s s.cur, ?_, ?_, ?_, ?_, ?_, rfl⟩
  · rw [State.me] at live mark
    change execOverdue s = _
    unfold execOverdue
    dsimp only
    rw [if_neg going]
    exact if_neg (by rw [live, mark]; simp [due])
  · rw [overdueEnded, State.thread_setThread_self]
  · rw [overdueEnded, State.thread_setThread_self]
    exact cont.trans ((sameRuns_headOver s s.cur).cont s.cur)
  · refine (congrArg (fun p : Part => overdueRec s s.cur ∈ p.traps) (State.part_setPart_self ..)).mpr ?_
    exact listed
  · obtain ⟨code, -⟩ := trapDataAt_fields (loc := hartLoc s.cur) (c := s.me.cont) (save := s.me.savemode.isSome)
      (gang := s.me.gang.isSome) (i := { trapHere (headOver s s.cur) s.cur .overdue 0 0 with parked := false })
      (Trap.code_lt .overdue)
    exact code

/-! ### The end of a continuation that OVERDUE ended -/

/-- The STATUS of a plain continuation that retires while another thread of its task goes on, listed as running or not. -/
theorem retireHart_status {s : State} {k : Hart} {t : Task} {z : Word × Nat} {q : Nat} (job : s.job k = none)
    (run : s.runJob (s.thread k).cont.part (s.thread k).cont.rcd = none) (task : s.task (s.thread k).cont.acc = some t)
    (other : z ∈ t.recs) (apart : z.1 ≠ (s.thread k).cont.rcd) (running : z.2 = 0)
    (key : s.recordKey (s.thread k).cont.part (s.thread k).cont.rcd q) : (retireHart s k).byteAt (q + 39) = 8 := by
  by_cases here : ((s.thread k).cont.rcd, 0) ∈ t.recs
  · exact (retired_plain job run task here other apart running key).1
  · have task' : (retiring s k).task (s.thread k).cont.acc = some t :=
      ((leftBy_retiring s k).keeps (fun u => u.task (s.thread k).cont.acc) fun _ _ _ _ _ _ => rfl).trans task
    have absent : (t.recs.any fun r => r.1 == (s.thread k).cont.rcd && r.2 == 0) = false := by
      refine List.any_eq_false.2 fun r listed same => here ?_
      rw [Bool.and_eq_true, beq_iff_eq, beq_iff_eq] at same
      rw [← same.1, ← same.2]
      exact listed
    have stays : endRecord (retiring s k) k (s.thread k).cont 8 = retiring s k := by
      unfold endRecord
      rw [task']
      dsimp only
      rw [absent]
      rfl
    have plain := key.2.2.1 39 (by decide)
    obtain ⟨u, -, at', -⟩ := putRecord_of_recordKey (h := k) (off := 39) (bytes := [BitVec.ofNat 8 8]) key (by simp) (by simp)
    have mem : ((retiring s k).goIdle k).mem = (putRecord s k (s.thread k).cont 39 [BitVec.ofNat 8 8]).mem := by
      rw [State.mem_goIdle, retiring, State.mem_releaseArray]
      rfl
    rw [retireHart_plain job run, stays, State.byteAt_congr_plain mem plain, at', State.byteAt_writeAt_one _ _ _ plain]
    rfl

section
variable {s : State} (retires : s.me.run = .retiring)

/-- The trap record of a continuation that OVERDUE ended is still to be written. -/
def recordListed (s : State) : Prop := ∃ r ∈ (s.part s.me.cont.part).traps, r.retire = some (s.cur, s.me.cont)
/-- Its stores, or the mailbox record of a job that ends with it, meet an unfilled copy destination. -/
def retireWaits (s : State) : Prop :=
  (s.drain s.cur).blocked s.cur = true ∨ (s.drain s.cur).recordWaits s.me.cont.part s.me.cont.rcd = true

include retires

theorem exec_retiring : exec .overdue s = .next (finishRetiring s s.cur) := by
  change execOverdue s = _
  unfold execOverdue
  exact if_pos retires

theorem retiring_listed (listed : recordListed s) : exec .overdue s = .next s := by
  refine (exec_retiring retires).trans (congrArg Host.Outcome.next (if_pos ?_))
  obtain ⟨r, there, same⟩ := listed
  have any : ((s.part (s.thread s.cur).cont.part).traps.any fun r => r.retire == some (s.cur, (s.thread s.cur).cont)) = true :=
    List.any_eq_true.2 ⟨r, there, beq_iff_eq.2 same⟩
  rw [any, Bool.or_true]

theorem retiring_written (written : ¬recordListed s) : exec .overdue s = .next
    (if (s.drain s.cur).blocked s.cur || (s.drain s.cur).recordWaits s.me.cont.part s.me.cont.rcd then s.drain s.cur
      else retireHart (s.drain s.cur) s.cur) := by
  refine (exec_retiring retires).trans (congrArg Host.Outcome.next (if_neg ?_))
  have none' : ((s.part (s.thread s.cur).cont.part).traps.any fun r => r.retire == some (s.cur, (s.thread s.cur).cont)) = false :=
    List.any_eq_false.2 fun r there same => written ⟨r, there, beq_iff_eq.1 same⟩
  rw [none', Bool.or_false, decide_eq_true_eq]
  exact fun other => other retires

theorem retiring_waits (written : ¬recordListed s) (waits : retireWaits s) : exec .overdue s = .next (s.drain s.cur) :=
  (retiring_written retires written).trans (congrArg Host.Outcome.next (if_pos (by rwa [Bool.or_eq_true])))

theorem retiring_ends (written : ¬recordListed s) (free : ¬retireWaits s) : ∃ x, exec .overdue s = .next x ∧
    x.thread s.cur = {} ∧
    ∀ y z q, (s.drain s.cur).job s.cur = none → (s.drain s.cur).runJob s.me.cont.part s.me.cont.rcd = none →
      (s.drain s.cur).task s.me.cont.acc = some y → z ∈ y.recs → z.1 ≠ s.me.cont.rcd → z.2 = 0 →
      (s.drain s.cur).recordKey s.me.cont.part s.me.cont.rcd q → x.byteAt (q + 39) = 8 ∧
        ((s.me.cont.rcd, 0) ∈ y.recs → ∃ w, x.task s.me.cont.acc = some w ∧ w.retired = true ∧
          (s.me.cont.rcd, 8) ∈ w.recs) := by
  have cont : ((s.drain s.cur).thread s.cur).cont = s.me.cont := (sameRuns_drain s s.cur).cont s.cur
  refine ⟨retireHart (s.drain s.cur) s.cur, (retiring_written retires written).trans (congrArg Host.Outcome.next
    (if_neg (by rwa [Bool.or_eq_true]))), thread_retireHart .., fun y z q job run task other apart running key => ?_⟩
  rw [← cont] at run task apart key ⊢
  exact ⟨retireHart_status job run task other apart running key, fun here =>
    (retired_plain job run task here other apart running key).2⟩

end

end Sys2Proof.Machine
end

section
/-! SUPPORT. Gangs (O56): the cluster that drains, the group of GANG that starts, and the gang that is the next pick (R47 to
    R49,
R200, R372). -/

namespace Sys2Proof.Machine

section
variable {s : State}

/-- The order in which gangs and groups get a cluster drained. -/
def drainsBefore (a b : Nat × Nat × Nat × List Nat) : Bool := a.1 < b.1 || (a.1 == b.1 && a.2.1 < b.2.1)

theorem isOrder_drainsBefore : isOrder drainsBefore where
  asymm a b h := by
    unfold drainsBefore at *
    grind
  trans a b c h k := by
    unfold drainsBefore at *
    grind

/-- The state in which a gang has the cluster for its candidate. -/
def candidateSet (s : State) (g : Nat) : State := match s.gang g with
  | some x => (s.fixInst x.acc).setGang g (some { x with cand := some s.cur })
  | none => s

theorem candidateSet_keeps (g : Nat) : (candidateSet s g).threads = s.threads := by
  have fixed (acc : Nat) : (s.fixInst acc).threads = s.threads := by
    unfold State.fixInst
    split <;> rfl
  unfold candidateSet
  split
  · exact fixed _
  · rfl

theorem drain_busy {d : Drain} (busy : (s.cluster s.cur).drain = some d) : exec .gangDrain s = .next s := by
  change execGangDrain s = _
  unfold execGangDrain
  dsimp only
  exact if_pos (by rw [busy]; rfl)

theorem exec_gangDrain (idle : (s.cluster s.cur).drain = none) : exec .gangDrain s =
    match leastBy drainsBefore (drainers s s.cur) with
    | none => .next s
    | some (_, _, g, cores) => .next ((candidateSet s g).setCluster s.cur
        { s.cluster s.cur with drain := some { cores := cores, gang := g } }) := by
  change execGangDrain s = _
  unfold execGangDrain
  dsimp only
  rw [idle] <;> rfl

theorem drain_nobody (idle : (s.cluster s.cur).drain = none) (nobody : drainers s s.cur = []) :
    exec .gangDrain s = .next s := by
  rw [exec_gangDrain idle, nobody]
  rfl

theorem drain_longest {d : Nat × Nat × Nat × List Nat} (waits : d ∈ drainers s s.cur)
    (idle : (s.cluster s.cur).drain = none) : ∃ x e, exec .gangDrain s = .next x ∧ e ∈ drainers s s.cur ∧
      (e.1 < d.1 ∨ (e.1 = d.1 ∧ e.2.1 ≤ d.2.1)) ∧ (x.cluster s.cur).drain = some { cores := e.2.2.2, gang := e.2.2.1 } ∧
      x.threads = s.threads := by
  obtain ⟨e, least⟩ := leastBy_isSome (f := drainsBefore) waits
  obtain ⟨listed, first⟩ := leastBy_least isOrder_drainsBefore least
  have order := first d waits
  refine ⟨(candidateSet s e.2.2.1).setCluster s.cur
    { s.cluster s.cur with drain := some { cores := e.2.2.2, gang := e.2.2.1 } }, e, ?_, listed, ?_, ?_,
    candidateSet_keeps e.2.2.1⟩
  · rw [exec_gangDrain idle, least]
  · simp only [drainsBefore, Bool.or_eq_false_iff, Bool.and_eq_false_iff, decide_eq_false_iff_not, beq_eq_false_iff_ne] at order
    omega
  · rw [State.cluster_setCluster_self]

/-! ## A group of GANG starts -/

/-- The groups that GANG has formed in a cluster whose cores hold no other thread. -/
def readyGroup (s : State) : Option (List Hart) :=
  (formedGroups s s.cur).find? fun g => g.all fun h => s.idleOn (hartCore h) == 3

/-- The gang a group becomes. -/
def groupGang (s : State) (g : List Hart) : Gang :=
  { members := g, recs := g.map (fun h => (s.thread h).cont.rcd), cl := s.cur, acc := (s.thread (g.head?.getD 0)).cont.acc
    head := (s.thread (g.head?.getD 0)).regs.pc, next := s.fall (g.head?.getD 0), todo := [], vals := (0, 0), released := [] }
/-- A member's thread set as its gang starts. -/
def startedAt (pc : Word) (id : Nat) (t : Thread) : Thread :=
  { t with regs := { t.regs with pc := pc }, chunk := { begun := { t.regs with pc := pc } }, wait := .none, gang := some id }
/-- The state in which the members of a group stand at the head after the leader's GANG. -/
def groupStands (s : State) (g : List Hart) : State :=
  g.foldl (fun u h => u.setThread h (startedAt (s.fall (g.head?.getD 0)) s.fresh (u.thread h)))
    ({ s with fresh := s.fresh + 1 }.setGang s.fresh (some (groupGang s g)))

theorem endDrain_keeps (u : State) (cl : Nat) : (endDrain u cl).threads = u.threads ∧
    ∀ n x, u.gang n = some x → ∃ y, (endDrain u cl).gang n = some y ∧ y.members = x.members ∧ y.next = x.next := by
  have folds (l : List (Nat × List ReadyEnt)) (v : State) (threads : v.threads = u.threads)
      (gangs : ∀ n x, u.gang n = some x → ∃ y, v.gang n = some y ∧ y.members = x.members ∧ y.next = x.next) :
      let w := l.foldl (fun s x => match s.gang x.1 with
        | some g => if gangCand s g x.2 = some cl then s.setGang x.1 (some { g with waitFrom := s.now }) else s
        | none => s) v
      w.threads = u.threads ∧ ∀ n x, u.gang n = some x → ∃ y, w.gang n = some y ∧ y.members = x.members ∧ y.next = x.next := by
    induction l generalizing v with
    | nil => exact ⟨threads, gangs⟩
    | cons a r ih =>
      rw [List.foldl_cons]
      split
      · next z found =>
        split
        · refine ih _ threads fun n x there => ?_
          obtain ⟨y, at', members, next⟩ := gangs n x there
          rw [State.gang_setGang]
          split
          · next same =>
            rw [same, found] at at'
            cases at'
            exact ⟨_, rfl, members, next⟩
          · exact ⟨y, at', members, next⟩
        · exact ih _ threads gangs
      · exact ih _ threads gangs
  unfold endDrain
  exact folds _ _ rfl fun n x there => ⟨x, there, rfl, rfl⟩

theorem thread_startedAll (f : Thread → Thread) (keeps : ∀ t, f (f t) = f t) (l : List Hart) (u : State) (h : Hart) :
    (l.foldl (fun u h => u.setThread h (f (u.thread h))) u).thread h = if h ∈ l then f (u.thread h) else u.thread h := by
  induction l generalizing u with
  | nil => exact (if_neg List.not_mem_nil).symm
  | cons a r ih =>
    rw [List.foldl_cons, ih, State.thread_setThread]
    by_cases here : h = a
    · subst here
      rw [if_pos rfl, keeps, ite_self, if_pos List.mem_cons_self]
    · rw [if_neg here]
      simp [here]

theorem group_starts {g : List Hart} (ready : readyGroup s = some g) : ∃ x, exec .gangPlace s = .next x ∧
    (∃ y, x.gang s.fresh = some y ∧ y.members = g ∧ y.next = s.fall (g.head?.getD 0)) ∧
    ∀ h ∈ g, (x.thread h).gang = some s.fresh ∧ (x.thread h).wait = .none ∧ (x.thread h).cont = (s.thread h).cont ∧
      (x.thread h).regs = { (s.thread h).regs with pc := s.fall (g.head?.getD 0) } := by
  let v := groupStands s g
  have whole : startGroup s s.cur g = match (v.cluster s.cur).drain with
      | some d => if d.gang = 0 && d.cores == g.map hartCore then endDrain v s.cur else v
      | none => v := rfl
  have gangs : v.gang s.fresh = some (groupGang s g) := by
    change (groupStands s g).gang s.fresh = _
    unfold groupStands
    refine Eq.trans (foldl_keeps _ (fun u : State => u.gang s.fresh) _ _ ?_) (State.gang_setGang_self ..)
    exact fun _ _ => rfl
  have threads (h : Hart) (member : h ∈ g) : v.thread h = startedAt (s.fall (g.head?.getD 0)) s.fresh (s.thread h) :=
    (thread_startedAll (startedAt (s.fall (g.head?.getD 0)) s.fresh) (fun _ => rfl) g _ h).trans (if_pos member)
  have ended : (startGroup s s.cur g).threads = v.threads ∧ ∃ y, (startGroup s s.cur g).gang s.fresh = some y ∧
      y.members = g ∧ y.next = s.fall (g.head?.getD 0) := by
    obtain ⟨same, kept⟩ := endDrain_keeps v s.cur
    rw [whole]
    split
    · split
      · exact ⟨same, kept _ _ gangs⟩
      · exact ⟨rfl, _, gangs, rfl, rfl⟩
    · exact ⟨rfl, _, gangs, rfl, rfl⟩
  refine ⟨startGroup s s.cur g, ?_, ended.2, fun h member => ?_⟩
  · change execGangPlace s = _
    unfold execGangPlace
    dsimp only
    rw [← readyGroup, ready]
  · rw [State.thread, ended.1, ← State.thread, threads h member]
    exact ⟨rfl, rfl, rfl, rfl⟩

/-- The gang that is the next pick is placed. -/
theorem gang_placed {e : ReadyEnt} {n : Nat} {l : List ReadyEnt} {k : List Nat} (noGroup : readyGroup s = none)
    (noBack : rejoining s s.cur = none) (pick : nextPick s (s.partOfDie (s.cur / 96)) = some (e, .gang n l s.cur k)) :
    exec .gangPlace s = .next (placeGang s s.cur n l k) := by
  change execGangPlace s = _
  unfold execGangPlace
  dsimp only
  rw [← readyGroup, noGroup]
  dsimp only
  rw [noBack]
  dsimp only
  rw [pick]
  exact if_pos rfl

end

end Sys2Proof.Machine
end

section
open Sys2Proof Sys2Proof.Machine

/-- Settles O56: the launches and versions by the laws of LAUNCH_ACCEPT to VERSION_SLOT_FREE, a pickup by `pickup_placed` and
`pickup_bad`, the wakes, marks and ends by theirs, and the gangs by `drain_longest`, `group_starts` and `gang_placed`. -/
theorem launchAndPlacement : Obligations.LaunchAndPlacement := by
  unfold Obligations.LaunchAndPlacement
  refine ⟨fun s l rest t => ⟨fun offers => ⟨launch_waits offers, fun waits u bad => launch_refused offers waits bad,
      fun waits u good => launch_accepted offers waits good⟩,
    fun a more admits task room => launch_admitted admits task room,
    fun task held => ⟨fun hold gone => release_waits task held hold gone, fun gone => release_refused task held gone,
      fun hold gone rcds records => release_ready task held hold gone records⟩,
    fun a st slot => ⟨fun task ended whole first => published_inTurn slot task ended whole first,
      fun task goesOn => published_not slot task goesOn⟩,
    fun a st slot => ⟨fun old unbound unwanted => slot_freed slot ((superseded_iff slot).2 old) ?_, fun stays => ?_⟩⟩, ?_,
    fun s g => ⟨fun d busy => drain_busy busy, drain_nobody, fun d waits idle => drain_longest waits idle,
      fun ready => group_starts ready, fun e n l k noGroup noBack pick => gang_placed noGroup noBack pick⟩⟩
  · rw [Bool.eq_false_iff]
    exact fun held => ((holdsSlot_iff s.cur s.arg).1 held).elim unbound unwanted
  · refine slot_kept slot ?_
    rw [superseded_iff slot, holdsSlot_iff]
    exact stays
  · intro s e h r p w t v
    refine ⟨fun e listed can => nextPick_first listed can, pickup_none, fun pick record status zero =>
        pickup_placed pick record ?_, fun pick record bad noRun => pickup_bad pick record ?_ noRun, wake_queues,
      fun found low due => aging_rises found low due, ?_, ?_, ?_⟩
    · unfold mayRun
      simpa [or_assoc, zero] using status
    · unfold mayRun
      rcases bad with status | zero
      · simpa [or_assoc] using fun may => absurd may status
      · simp [zero]
    · exact fun found task prio waited asked stoker nowhere noGang chosen outside _ =>
        preempt_marks found task prio waited asked stoker nowhere noGang chosen outside
    · exact fun ⟨live, d, mark, due⟩ => overdue_ends live mark due
    · exact fun retires => ⟨retiring_listed retires, retiring_waits retires, retiring_ends retires⟩

end

section
/-! SUPPORT. Forms that complete (O60): what each leaves under the conditions of its rules alone. -/

namespace Sys2Proof.Machine

section
variable {s : State}

/-! ## REP and SAFE -/

theorem rep_starts {n : BitVec 5} {count : BitVec 16} (stride : BitVec 6)
    (clear : ∀ pc ∈ (s.bodyPcs s.cur n.toNat (s.fall s.cur)).1, (s.fetchLine s.cur pc).1 ≠ .wait ∧
      ∀ x, s.headOf s.cur pc = some x → repBars x.1 = false) (alone : s.alone = true) (some' : count ≠ 0) :
    ∃ t, exec (.rep n count stride) s = .next t ∧ t.me.regs.pc = s.fall s.cur ∧
      ∃ r, t.me.regs.rep = some r ∧ r.body = s.fall s.cur ∧ r.n = n.toNat ∧ r.count = count.toNat ∧ r.pass = 0 ∧ r.pos = 0 := by
  have fetched : ((s.bodyPcs s.cur n.toNat (s.fall s.cur)).1.any fun pc => (s.fetchLine s.cur pc).1 == .wait) = false :=
    List.any_eq_false.2 fun pc member waits => (clear pc member).1 (beq_iff_eq.1 waits)
  have free : ((s.bodyPcs s.cur n.toNat (s.fall s.cur)).1.any fun pc => ((s.headOf s.cur pc).map fun x =>
      repBars x.1).getD false) = false := by
    refine List.any_eq_false.2 fun pc member bars => ?_
    rcases head : s.headOf s.cur pc with _ | x
    · rw [head] at bars
      exact nomatch bars
    · rw [head, Option.map_some, Option.getD_some, (clear pc member).2 x head] at bars
      exact nomatch bars
  have going : exec (.rep n count stride) s = _ := (if_neg (Bool.eq_false_iff.1 fetched)).trans
    ((if_neg (Bool.eq_false_iff.1 ((barred_eq s _).trans free))).trans (if_neg some'))
  refine ⟨_, going, ?_⟩
  rw [← State.past, State.past_alone alone, State.setRegs, State.me_setMe, State.me_goto_alone alone]
  exact ⟨rfl, _, rfl, rfl, rfl, rfl, rfl, rfl⟩

section
variable {k : BitVec 10} {p : SafePt} (point : (s.safesOf s.me.cont)[k.toNat]? = some p) (outside : s.me.savemode = none)
  (may : s.mayEnd = true) (gang : s.ended.me.gang = none)
include point outside may gang

theorem safe_goesOn (free : s.ended.me.mark = none) : exec (.safe k) s = .next s.ended.pastStrong := by
  rw [exec_safe point outside may, State.noteSaving_of_no_gang gang]
  refine if_neg ?_
  rw [State.entersSave_of_no_gang gang, free]
  nofun
theorem safe_enters (path : s.ended.me.path = []) (marked : s.ended.me.mark ≠ none) : ∃ t, exec (.safe k) s = .next t ∧
    t.me.savemode = some k.toNat ∧ t.me.regs.pc = p.savepc := by
  have enters : s.ended.entersSave = true := by
    rw [State.entersSave_of_no_gang gang]
    exact Option.isSome_iff_ne_none.2 marked
  have goes := exec_safe point outside may
  rw [if_pos enters, State.noteSaving_of_no_gang gang] at goes
  dsimp only at goes
  have me : ((s.ended.ws 1 (s.ended.fall s.ended.cur)).ws 2 s.ended.me.cont.savearea).me.gang = none ∧
      ((s.ended.ws 1 (s.ended.fall s.ended.cur)).ws 2 s.ended.me.cont.savearea).me.path = [] := by
    rw [State.me_ws, State.me_ws]
    exact ⟨gang, path⟩
  refine ⟨_, goes, ?_⟩
  rw [State.me_enters k.toNat p.savepc me.1 me.2]
  exact ⟨rfl, rfl⟩

end

/-! ## Forms that leave their thread set idle -/

theorem thread_leave_at {h k : Hart} (same : h = k) (u : State) (status : Nat) (pc : Option Word) (f : State → State) :
    (leave u h status pc f).thread k = {} := by
  rw [← same, thread_leave]

section
variable {a b : Reg}

theorem exit_leaves (may : s.mayRelease = true) (outside : s.me.savemode = none)
    (free : s.released.recordWaits s.released.me.cont.part s.released.me.cont.rcd = false) :
    ∃ t, exec (.exit a b) s = .next t ∧ t.thread s.cur = {} :=
  ⟨_, (exec_exit outside may).trans (if_neg (by rw [free]; nofun)), thread_leave_at (State.cur_released s) ..⟩
theorem yield_leaves (may : s.mayRelease = true) (outside : s.me.savemode = none) :
    ∃ t, exec .yield s = .next t ∧ t.thread s.cur = {} :=
  ⟨_, exec_yield outside may, thread_leave_at (State.cur_released s) ..⟩
theorem saved_leaves (may : s.mayRelease = true) (inside : s.me.savemode ≠ none) :
    ∃ t, exec .saved s = .next t ∧ t.thread s.cur = {} := by
  obtain ⟨k, mode⟩ := Option.ne_none_iff_exists'.1 inside
  have bytes := bytesOnly_putRecord s.released.cur s.released s.released.me.cont 38 [BitVec.ofNat 8 k]
  exact ⟨_, exec_saved mode may, thread_leave_at (bytes.cur.trans (State.cur_released s)) ..⟩
theorem counterTrap_noteVals (w x y : Word) : (s.noteVals x y).counterTrap w = s.counterTrap w := by
  unfold State.noteVals
  split <;> rfl
theorem waitc_leaves (outside : s.me.savemode = none) (leads : s.follows = false) (good : s.counterTrap (s.rs a) = none)
    (may : (s.noteVals (s.rs a) (s.rs b)).mayRelease = true) : ∃ t, exec (.waitc a b) s = .next t ∧ t.thread s.cur = {} := by
  have waits := exec_waitc (sc := a) (st := b) outside leads
  rw [waitsOn, counterTrap_noteVals, good] at waits
  exact ⟨_, waits.trans (withRelease_mayRelease _ _ may),
    thread_leave_at ((State.cur_released _).trans (cur_noteVals ..)) ..⟩

end

end

/-! ## TRET, AFENCE, WARM and QPOP -/

theorem toNat_aligned (w : Word) : (w &&& ~~~63#64).toNat = w.toNat / 64 * 64 := by
  have low : ∀ i : Fin 64, (63#64).getLsbD i = decide (i.val < 6) := by decide
  have same : w &&& ~~~63#64 = (w >>> 6) <<< 6 := by
    refine BitVec.eq_of_getLsbD_eq fun i hi => ?_
    rw [BitVec.getLsbD_and, BitVec.getLsbD_not, low ⟨i, hi⟩, BitVec.getLsbD_shiftLeft, BitVec.getLsbD_ushiftRight]
    rcases Nat.lt_or_ge i 6 with small | large
    · simp [small]
    · simp [hi, Nat.not_lt.2 large, Nat.add_sub_cancel' large]
  have word := w.isLt
  rw [same, BitVec.toNat_shiftLeft, BitVec.toNat_ushiftRight, Nat.shiftLeft_eq, Nat.shiftRight_eq_div_pow]
  exact Nat.mod_eq_of_lt (by omega)

section
variable {s : State} {a b : Reg}

theorem tret_acts (may : s.mayRelease = true) (action : (s.rs a).toNat % 4 ≠ 3) (zero : (s.rs a).toNat / 4 % 16 = 0)
    (gen : (s.rs (a + 1)).toNat < 2 ^ 16) (va : isVA (s.rs a) = true)
    (home : s.stackIn s.myPart (vaStack (vaOf (s.rs a &&& ~~~63#64))) = true)
    (free : (s.rs a).toNat % 4 ≠ 0 ∨ s.released.recordWaits s.released.myPart (s.rs a &&& ~~~63#64) = false) :
    exec (.tret a) s = .next (Machine.trapReturn s.released s.cur (s.rs a &&& ~~~63#64) ((s.rs (a + 1)).setWidth 16)
      ((s.rs a).toNat % 4)).pastStrong := by
  have good : ¬tretBad s a := by
    rintro (three | other | large)
    · exact action three
    · exact other zero
    · omega
  have virtual : isVA (s.rs a &&& ~~~63#64) = true := by
    unfold isVA at va ⊢
    rw [Bool.and_eq_true, decide_eq_true_eq, decide_eq_true_eq] at va ⊢
    rw [toNat_aligned]
    omega
  refine (exec_tret_goes good ⟨virtual, home⟩ may).trans ((if_neg fun waits => ?_).trans ?_)
  · rw [Bool.and_eq_true, decide_eq_true_eq] at waits
    exact free.elim (fun no => no waits.1) fun no => by
      rw [tretRcd, no] at waits
      exact nomatch waits.2
  · rw [State.cur_released]
    rfl

theorem afence_completes (va : isVA (s.rs a) = true) (range : (s.rs b).toNat = 0 ∨
    (vaOf (s.rs a) % 2 ^ 54 + (s.rs b).toNat ≤ 2 ^ 54 ∧ s.stackIn s.myPart (vaStack (vaOf (s.rs a))) = true))
    (may : s.mayRelease = true) : exec (.afence a b) s = .next s.released.pastStrong :=
  (execAfence_inside va range).trans (withRelease_mayRelease _ _ may)

theorem qpop_completes {k : Nat} {v : State} (aligned : (s.rs a).toNat % 64 = 0) (va : isVA (s.rs a) = true)
    (may : s.mayRelease = true) (target : targetOf s.released .plain (s.rs a) 64 true = some (k, v))
    (free : v.mustWait v.cur k 64 = false) (good : ¬queueBad v k) (counter : queueCounter v k) :
    let hd := (queueWord v k 3).toNat
    let cnt := ((v.cluster (oaCl (queueWord v k 2).toNat)).counter (oaOff (queueWord v k 2).toNat / 8)).toNat
    ∃ (u : State) (x : Word), exec (.qpop b a) s = .next (u.ws b x).pastStrong ∧
      (cnt ≤ hd → u = v ∧ x = BitVec.allOnes 64) ∧
      (hd < cnt → u = v.writeAt v.cur (k + 24) (leBytes 8 (hd + 1)) ∧
        x = queueWord u k 0 + BitVec.ofNat 64 (64 * (hd % 2 ^ ((queueWord v k 1).toNat / 16 % 32)))) := by
  intro hd cnt
  have going : exec (.qpop b a) s = qpopAt b a v k := (execQpop_eq aligned va).trans
    ((withRelease_mayRelease _ _ may).trans (stackTarget_accepted va target))
  rw [qpopAt, if_neg (by rw [free]; nofun), if_neg (mt (queueBad_iff v k).1 good),
    if_neg (mt (queueCounter_iff v k).1 (not_not.2 counter))] at going
  by_cases entries : hd < cnt
  · exact ⟨_, _, going.trans (if_pos entries), fun none => absurd entries (Nat.not_lt.2 none), fun _ => ⟨rfl, rfl⟩⟩
  · exact ⟨v, _, going.trans (if_neg entries), fun _ => ⟨rfl, rfl⟩, fun some' => absurd some' entries⟩

end

/-! ## Items, loads and register windows -/

section
variable {s : State} {m : Msg} (there : s.msg s.cur = some m) (first : s.firstOf m = true)
include there first

theorem rmw_performed {k op n : Nat} {v c : Word} {ret : Option Reg} {sx : Bool} (item : m.item = .rmw k op n v c ret sx) :
    (toEntry k = false → exec .messageArrival s = .next (performItem s m)) ∧
      (toEntry k = true → exec .waitingTaskArm s = .next (performItem s m)) := by
  refine ⟨fun entry => ?_, fun entry => ?_⟩
  · change execMessageArrival s = _
    unfold execMessageArrival
    rw [there]
    dsimp only
    rw [item]
    exact if_pos (by rw [entry, first]; rfl)
  · change execWaitingTaskArm s = _
    unfold execWaitingTaskArm
    rw [there]
    dsimp only
    rw [item]
    exact if_pos (by rw [entry, first]; rfl)
theorem putc_performed {c p : Nat} {d : Option (Nat × List Byte)} {g : BitVec 16} (item : m.item = .putc c d g p) :
    exec .putcArrival s = .next (performItem s m) := by
  change execPutcArrival s = _
  unfold execPutcArrival
  rw [there]
  dsimp only
  rw [item]
  exact if_pos first
theorem apnd_performed {l : List (Nat × List Byte)} {f n : Nat} (item : m.item = .apndRow l f n) :
    exec .apndRowWrite s = .next (performItem s m) := by
  change execApndRowWrite s = _
  unfold execApndRowWrite
  rw [there]
  dsimp only
  rw [item]
  exact if_pos first
omit there in
theorem mayLand_store {k : Nat} {d : List Byte} (item : m.item = .rstore k d) (free : s.guarded k d.length = false) :
    s.mayLand m = true := by
  unfold State.mayLand
  rw [first, item]
  dsimp only
  rw [free]
  rfl
theorem store_performed {k : Nat} {d : List Byte} (item : m.item = .rstore k d) (free : s.guarded k d.length = false)
    (high : 2 ^ 40 ≤ k) : exec .remoteStoreCommit s = .next (performItem s m) := by
  have stack : (isHobKey k || isStackKey k || oaSpace k != some .ctl) = true := by
    rcases hob : isHobKey k with _ | _
    · rw [isStackKey_of_large high hob]
      rfl
    · rfl
  change execRemoteStoreCommit s = _
  unfold execRemoteStoreCommit
  rw [there]
  dsimp only
  rw [item]
  exact (if_pos stack).trans (if_pos (mayLand_store first item free))
theorem register_performed {k : Nat} {d : List Byte} (item : m.item = .rstore k d)
    (free : s.guarded k d.length = false) (low : k < 2 ^ 40) (space : oaSpace k = some .ctl) (here : s.arg = s.cur)
    (some' : s.arg ≠ 0) : exec .registerWrite s = .next (performItem s m) := by
  change execRegisterWrite s = _
  unfold execRegisterWrite
  rw [if_neg some', here, there]
  dsimp only
  rw [item]
  exact if_pos (by rw [decide_eq_true low, space, mayLand_store first item free]; rfl)

end

section
variable {s : State}

theorem load_returns {rd base : Reg} {ty : Ty} {off : BitVec 16} (waits : s.me.wait = .load (.ld rd base ty off))
    (free : s.held s.cur (s.ea base off).toNat (tyBytes ty) = false) : exec .remoteLoad s =
      .next (s.ws rd (extendTy ty (leNat (s.ownBytes s.cur (s.ea base off).toNat (tyBytes ty))))).past := by
  change execRemoteLoad s = _
  unfold execRemoteLoad
  rw [State.me] at waits
  dsimp only
  rw [waits]
  exact if_neg (Bool.eq_false_iff.1 free)
theorem window_lands {w : WStore} {r : List WStore} (run : s.me.run = .running) (begun : s.me.chunk.executed = 0)
    (pops : s.me.chunk.pops = []) (waits : ∀ i, s.me.wait ≠ .load i ∧ s.me.wait ≠ .stall i) (pend : s.me.pend = w :: r)
    (low : w.key < 0x3000) : ∃ t, exec .registerWindowStore s = .next t ∧ t.me.pend = r ∧
      t.me.regs = (windowStore s.me.regs w.key w.data).1 := by
  have boundary : atBoundary s.me = true := by
    unfold atBoundary
    rw [run, begun, pops]
    cases wait : s.me.wait
    case load i => exact absurd wait (waits i).1
    case stall i => exact absurd wait (waits i).2
    all_goals rfl
  have landed : (landPending s s.cur).me = s.me.landed := by
    rw [State.me, cur_landPending]
    exact thread_landPending_self s s.cur
  refine ⟨landPending s s.cur, ?_, ?_⟩
  · change execRegisterWindowStore s = _
    unfold execRegisterWindowStore
    refine if_pos ?_
    rw [← State.me, boundary, pend, List.head?_cons, Option.map_some, Option.getD_some, decide_eq_true low]
    rfl
  · rw [landed, Thread.landed_cons pend]
    exact ⟨rfl, rfl⟩

/-! ## A trap leaves its partition's list -/

theorem writeTrap_traps (s : State) (p : Nat) (r : TrapRec) : ((writeTrap s p r).part p).traps = (s.part p).traps := by
  have read (v : State) (va n : Nat) : ((v.readVA p 0 va n).2.part p).traps = (v.part p).traps :=
    (v.readVA_sameButTlb p 0 va n).keeps (fun s => (s.part p).traps) fun _ _ => rfl
  have wrote (v : State) (va : Nat) (b : List Byte) : ((v.writeVA grateHart p 0 va b).2.part p).traps = (v.part p).traps :=
    congrArg Part.traps ((bytesOnly_writeVA grateHart v p 0 va b).part p)
  rcases declared : isVA (s.part p).tvec with _ | _
  · rw [writeTrap_undeclared r declared, (loseTrap_counts s p).2.1]
  rcases vector : s.readVA p 0 (vaOf (s.part p).tvec) 64 with ⟨_ | b, x⟩
  all_goals
    have same : (x.part p).traps = (s.part p).traps := by simpa only [vector] using read s (vaOf (s.part p).tvec) 64
  · rw [writeTrap_unread r declared vector, (loseTrap_counts x p).2.1, same]
  by_cases bad : vectorOk x p (bytesVec b) = false ∨ vecFull (bytesVec b)
  · rw [writeTrap_refused r declared vector bad, (loseTrap_counts x p).2.1, same]
  rw [not_or, Bool.not_eq_false] at bad
  rcases write : x.writeVA grateHart p 0 (slotAt (bytesVec b)) (recordBytes r (bytesVec b)) with ⟨done, y⟩
  have kept : (y.part p).traps = (s.part p).traps := by
    rw [← same, ← wrote x (slotAt (bytesVec b)) (recordBytes r (bytesVec b)), write]
  rw [writeTrap_goes r declared vector bad.1 bad.2 write]
  split
  · rw [traps_trapCounted, wrote, kept]
  · rw [State.part_logEvent, (loseTrap_counts y p).2.1, kept]
theorem trap_leaves {r : TrapRec} {rest : List TrapRec} (traps : (s.part s.cur).traps = r :: rest) (plain : r.retire = none) :
    ∃ t, exec .trapQueueWrite s = .next t ∧ (t.part s.cur).traps = rest := by
  let u := s.setPart s.cur { s.part s.cur with traps := rest }
  refine ⟨writeTrap u s.cur r, ?_, ?_⟩
  · change execTrapQueueWrite s = _
    unfold execTrapQueueWrite
    simp only [traps]
    refine congrArg Host.Outcome.next ?_
    unfold finishRetire
    rw [plain]
  · rw [writeTrap_traps, State.part_setPart_self]

end

/-! ## Jobs and commands -/

section
variable {s : State}

/-- The jobs that take their request themselves: event, kind, and whether the tensor is the destination. -/
def takingEvents : List (Instr × Nat × Bool) :=
  [(Instr.copy, 0, false), (.copyToTensor, 0, true), (.gather, 1, false), (.scatter, 2, false), (.reduce, 3, false),
    (.migrate, 4, false), (.shoot, 5, false)]
theorem exec_takingEvents {p : Instr × Nat × Bool} (event : p ∈ takingEvents) (s : State) :
    exec p.1 s = jobEvent s p.2.1 p.2.2 := by
  simp only [takingEvents, List.mem_cons, List.not_mem_nil, or_false] at event
  obtain rfl | rfl | rfl | rfl | rfl | rfl | rfl := event
  all_goals rfl
theorem request_taken {u : State} {j : Job} {p : Instr × Nat × Bool} (free : s.job s.cur = none)
    (stoker : kindOf s.cur = .stoker) (idle : (s.thread s.cur).run = .idle) (job : u.job s.cur = some j)
    (event : p ∈ takingEvents) (took : takeJob s s.cur p.2.1 p.2.2 = u) :
    ∃ t, exec p.1 s = .next t ∧ (t.job s.cur).isSome = true ∧ (u.thread s.cur).run = .running := by
  subst took
  refine ⟨_, (exec_takingEvents event s).trans (jobEvent_takes free stoker idle job), ?_, (takeJob_took free job).2.2.1⟩
  rw [State.job_setJob_self]
  rfl

/-- Nothing on its way meets no bytes. -/
theorem framePending_nil (s : State) : framePending s [] = false := by
  have commands : (s.hqueue.any fun q => q.2.any fun c => match c.dpa with
      | some pa => ([] : List (Nat × Nat)).any fun r => rangesMeet (stackKey 0 (c.pc / 96) pa) (iredLen c.cmd) r.1 r.2
      | none => false) = false := by
    refine List.any_eq_false.2 fun q _ => Bool.eq_false_iff.1 (List.any_eq_false.2 fun c _ => ?_)
    rcases c.dpa with _ | pa
    · exact Bool.false_ne_true
    · exact Bool.false_ne_true
  unfold framePending
  dsimp only
  refine Eq.trans (congrArg₂ or (?_ : _ = false) commands) rfl
  simp

theorem shoot_answered {j : Job} (job : s.job s.cur = some j) (isKind : j.kind = 5) (waits : j.st = .waiting)
    (waited : s.arg ∈ j.slices) (unheld : (s.stack (s.arg / 12)).tlb.any (s.shot j) = false) :
    ∃ t j', exec .shootAck s = .next t ∧ t.job s.cur = some j' ∧ s.arg ∉ j'.slices := by
  have none' : (s.stack (s.arg / 12)).tlb.filter (s.shot j) = [] :=
    List.filter_eq_nil_iff.2 fun e listed hit => List.any_eq_false.1 unheld e listed hit
  have free : framePending s (((s.stack (s.arg / 12)).tlb.filter (s.shot j)).flatMap fun e =>
      if e.redir.isSome then [] else frameKeys (s.arg / 12) e.frame e.size) = false := by
    rw [none', List.flatMap_nil]
    exact framePending_nil s
  exact ⟨_, j.answered s s.arg, exec_shootAck job isKind waits waited free, State.job_setJob_self .., slicesLeft_answered _⟩

theorem continuation_leaves {st : Nat} (free : s.job s.cur = none) (running : s.me.run = .running)
    (waits : s.me.wait = .redirect st) (may : s.mayRelease = true) :
    ∃ t, exec .continuationMigrate s = .next t ∧ t.thread s.cur = {} :=
  ⟨_, exec_migrate_head free running waits may, departed_spec.1⟩

theorem budget_ends (cmd : (s.hob s.cur).cmd ≠ none) (spent : 2 ^ 28 ≤ (s.hob s.cur).executed)
    (ends : ({ s with cur := 13824 + s.cur } : State).mayEnd = true)
    (free : (s.commit (13824 + s.cur)).hobWaits (13824 + s.cur) = false) :
    ∃ t, exec .hobBudgetExhausted s = .next t ∧ (t.hob s.cur).cmd = none ∧ t.thread (13824 + s.cur) = {} := by
  obtain ⟨x, held⟩ := Option.ne_none_iff_exists'.1 cmd
  have drained := (cmd_drained s (13824 + s.cur) s.cur).trans held
  refine ⟨_, (exec_hobBudgetExhausted held spent).trans (hobFault_ends ends free 7), ?_⟩
  obtain ⟨ended, -, idle⟩ := endHob_ends drained 3 7
    (leBytes 8 (s.thread (13824 + s.cur)).regs.pc.toNat ++
      leBytes 2 ((s.commit (13824 + s.cur)).headAt (13824 + s.cur)).1.toNat ++ leBytes 46 0)
  exact ⟨ended, idle⟩

end

end Sys2Proof.Machine
end

section
open Sys2Proof Sys2Proof.Machine

/-- Settles O60: each form by the law of its completion. -/
theorem formsComplete : Obligations.FormsComplete := by
  unfold Obligations.FormsComplete
  refine ⟨fun s n count stride clear alone some' => rep_starts stride clear alone some',
    fun s k p point outside may gang path => ⟨safe_goesOn point outside may gang, safe_enters point outside may gang path⟩,
    fun s a b may => ⟨exit_leaves may, yield_leaves may, fun outside leads good may' => waitc_leaves outside leads good may',
      saved_leaves may, fun action zero gen va home free => tret_acts may action zero gen va home free⟩,
    fun s a b => ⟨fun va range may => afence_completes va range may, ?_, ?_⟩,
    fun s m there first => ⟨fun k op n v c ret sx item => rmw_performed there first item,
      fun c d g p item => putc_performed there first item, fun l f n item => apnd_performed there first item,
      fun k d item free high => store_performed there first item free high,
      fun k d item free low space here some' => register_performed there first item free low space here some'⟩,
    fun s rd base ty off w r => ⟨load_returns, window_lands⟩,
    fun s r rest traps plain => trap_leaves traps plain, ?_, fun s j => ⟨?_, ?_, ?_, ?_, ?_, ?_, ?_⟩, ?_⟩
  · obtain ⟨u, walks, same, -⟩ := execWarm_walks a b s
    exact ⟨u, walks, same⟩
  · intro aligned va may k v target free ql c hd cnt zero small log rest counter space eight die
    refine qpop_completes aligned va may target free ?_ ⟨counter, space, eight, die⟩
    rintro (odd | large | deep | ⟨j, low, other⟩)
    · exact odd zero
    · omega
    · omega
    · exact other (rest j low)
  · exact fun s u j free stoker idle job p event took _ => request_taken free stoker idle job event took
  · exact fun stop fcode va job done out free => ⟨_, (exec_copyComplete job done).trans (if_pos (by simp [out, free])),
      endJob_leaves.1, endJob_leaves.2⟩
  · intro job isKind waits out good free
    obtain ⟨t, next, idle, -⟩ := reduce_completed job isKind waits out good free
    exact ⟨t, next, idle⟩
  · intro va fcode job fault free
    obtain ⟨t, next, parked, -⟩ := page_faulted job fault free
    exact ⟨t, next, parked⟩
  · intro e dst frame hs ds job isKind waits plan free
    obtain ⟨t, next, done, -⟩ := migrate_moved job isKind waits plan free
    exact ⟨t, next, done⟩
  · exact fun job isKind waits waited unheld => shoot_answered job isKind waits waited unheld
  · intro hd u job isKind moving inside header
    obtain ⟨t, next, run, pc, -⟩ := run_started job isKind moving inside header
    exact ⟨t, next, run, pc⟩
  · exact fun st free running waits may => continuation_leaves free running waits may
  · exact fun s _ cmd spent ends free => budget_ends cmd spent ends free

end
